-- ==== Sys2Proof/Word.lean ====
section
/-! DEFINITION. The word types of the Sprinwyn: 64-bit scalar words, 256-bit vectors, 32-bit masks, and the
sparse tables the state is made of. -/
namespace Sys2Proof

/-- A scalar register or memory word (R39). -/
abbrev Word := BitVec 64
/-- One byte of memory. -/
abbrev Byte := BitVec 8
/-- A vector register (R39). -/
abbrev VWord := BitVec 256
/-- A mask register (R39). -/
abbrev KWord := BitVec 32
/-- A parcel of a code line (R71). -/
abbrev Parcel := BitVec 16
/-- A 64-byte line. -/
abbrev Line := BitVec 512
/-- A sparse table: keys rising, an absent key stands for the table's default value. -/
abbrev Tab (α : Type) := List (Nat × α)

end Sys2Proof
end

