-- ==== Sys2Proof/Syntax.lean ====
section
/-! DEFINITION. The instruction set: one constructor of `Instr` per row of spec/opcode_table.json. The first 293
rows are instruction heads (R100). The others are the indivisible events of the module (spec/95), which carry no
encoding; they stand on the state's agenda. Operand fields already name registers of the class their form accepts
(R79, R80). -/
namespace Sys2Proof

/-- An x register (R39). -/
abbrev XR := Fin 32
/-- A k register (R39). -/
abbrev KR := Fin 8

/-- An x-class source: an x register, or the code address of the head itself (R79). -/
inductive XS where
  | x (n : XR)
  | pc
  deriving DecidableEq, Repr

/-- A v-class operand: a v register, or vz (R79). -/
inductive VR where
  | v (n : Fin 16)
  | vz
  deriving DecidableEq, Repr

/-- Element types in the order of their codes (R98). -/
inductive ElemT where
  | s8 | s16 | s32 | s64 | n8 | n16 | n32 | n64
  | f16 | bf16 | f32 | f64 | f8e4 | f8e5 | f6e3 | f4e2
  deriving DecidableEq, Repr

/-- Block formats in the order of their codes (R98, R123). -/
inductive BlkF where
  | b8i | b4i | b8f | b4f
  deriving DecidableEq, Repr

/-- Scopes in the order of their codes (R99, R275). -/
inductive Scope where
  | thread | core | cluster | field | device | system
  deriving DecidableEq, Repr

/-- Orders of an atomic in the order of their codes (R99). -/
inductive Ord where
  | rlx | acq | rel | ar
  deriving DecidableEq, Repr

/-- Below-ebcmin policies of a pass (R207, R217). -/
inductive Pol where
  | split | mark | trap
  deriving DecidableEq, Repr

/-- Output formats of a pass (R217). -/
inductive Ofm where
  | ph16 | f32 | bf16 | dfmt
  deriving DecidableEq, Repr

/-- Operations of a tree reduction (R344). -/
inductive RedOp where
  | add | min | max
  deriving DecidableEq, Repr

/-- What a translated access needs of its page (R419 order 8). -/
inductive Acc where
  | load | store | atomic | fetch | cell
  deriving DecidableEq, Repr

/-- Operations on one accumulator cell (R239, R245 to R248): a read names its register, and a rounded one the FCTX it
captured. -/
inductive CellOp where
  | add (t : ElemT) (b : Word)
  | clear
  | ld (t : ElemT) (d : XR) (fctx : Word)
  | stat (d : XR)
  | ldx (d : VR)
  deriving DecidableEq, Repr

/-- The full/empty forms (R301). -/
inductive FeOp where
  | fe | fc | ef | f
  deriving DecidableEq, Repr

/-- Atomic operations in the order of their minors (R311). -/
inductive AmoOp where
  | add | and | or | xor | min | max | minn | maxn | swap | cas
  deriving DecidableEq, Repr

/-- How a message between packages travels (R456, R464, R465): its source and its target partition, its number among the messages of
its source, destination and channel, and the port site that receives it. -/
structure Via where
  src : Nat
  tgt : Nat
  num : Nat
  port : Nat
  deriving DecidableEq, Repr

/-- A message (R335): the key of its destination context, channel and payload; the address, status and host bit of its
metadata word (R340); the ASID of its issuer (R444); and for one that goes to or comes from another package how
it travels. -/
structure Msg where
  dst : Nat
  ch : Nat
  payload : VWord
  addr : Nat
  status : Nat
  host : Bool
  asid : Nat
  scope : Scope
  poisoned : Bool
  via : Option Via
  deriving DecidableEq, Repr

/-- What a flit from another package asks of its place (R456, R464): bytes for it, a read of n bytes, or an atomic. -/
inductive FlitWork where
  | store (bs : List Byte)
  | load (n : Nat)
  | atomic (op : AmoOp) (wide : Bool) (c e : Word)
  deriving DecidableEq, Repr

/-- A vote-protocol flit as its receiver finds it (R476, R477): a heartbeat with its MOVING bit, or another flit; and whether its
header has reserved bits set. -/
structure VoteFlit where
  beat : Bool
  moving : Bool
  reserved : Bool
  deriving DecidableEq, Repr

/-- An operation on its way to a cell (R242, R243, R251): its context, whether the home has accepted it, and as its form issued: the
ASID, the address, the scope of the latest release before it, and the cycle. -/
structure CellSend where
  ctx : Nat
  accepted : Bool
  asid : Nat
  va : Nat
  rel : Option Scope
  time : Nat
  deriving DecidableEq, Repr

/-- Forms that an engine accepts (R344). -/
inductive EngForm where
  | cpy | cpyt | gath | scat | mcst (list : Bool) | rdct (op : RedOp) | hdsub | tlret
  deriving DecidableEq, Repr

/-- An engine head on its way to acceptance: its operands as read at issue, and the FCTX in force (R347, R357). -/
structure EngReq where
  form : EngForm
  sc : Scope
  d : XR
  b : Word
  c : Word
  e : Word
  fctx : Word
  deriving DecidableEq, Repr

/-- Forms that an optical command queue or a millwright accepts (R216). -/
inductive OptForm where
  | phld | phsw | phwr (bf : Bool) | omx | omxa | omxw | prbe | phcrc (shadow : Bool)
  deriving DecidableEq, Repr

/-- An optical head on its way to acceptance: its operands and FCTX as read at issue, and the output format of a pass
(R217, R218). -/
structure OptReq where
  form : OptForm
  pol : Pol
  ofm : Ofm
  d : XR
  b : Word
  c : Word
  e : Word
  fctx : Word
  deriving DecidableEq, Repr

inductive Instr where
  -- events: issue, traps, launches
  | millerTakeTrap (core : Nat) | asyncTrapTake (ctx : Nat) | longOpReply (ctx : Nat) | yieldRejoin (ctx : Nat)
  | ifetchLineArrival (ctx : Nat) | corePlacement (launch core : Nat) | launchEnd (launch : Nat)
  -- events: memory
  | storeBufferDrain (ctx : Nat)
  | fullEmptyAtPort (ctx : Nat) (op : FeOp) (loc : Nat) (d : XR) (data : Word)
  | peerAccessAtPort (core off n : Nat) (sg wr : Bool) (data : Word) (ctx : Nat) (d : XR)
  | proxyAccess (ctx va pa : Nat) (wr : Bool)
  | atomicAtPlace (op : AmoOp) (w : Bool) (o : Ord) (sc : Scope) (loc : Nat) (c e : Word) (ctx : Nat) (d : Option XR)
  | cellOperationAtHome (op : CellOp) (pa : Nat) (who : CellSend)
  | waitvAtHome (ctx loc : Nat) (wide ne : Bool) (c e : Word) | notifyAtHome (ctx loc : Nat) (all : Bool) (d : XR) | waitTableEntryGrant (home : Nat)
  | syncAtHome (ctx loc : Nat) | joinUpdateAtHome (loc : Nat) (addend : Word) (ctx : Nat) (d : XR) (new : Bool)
  -- events: sluice and messages
  | sluiceArrivalCount (who : Nat × Nat) (ch phase : Nat) (after : Nat × List (Nat × Nat)) | sluiceRelay (launch ch field : Nat) | sluiceCompletionSeen (launch ch field : Nat)
  | messageArrival (m : Msg) (ctx : Nat) (d : XR) | sendStatusReturn (ctx : Nat) (status : BitVec 2) (d : XR)
  | spilledMessageMove (core : Nat)
  -- events: engines
  | engineAcceptance (ctx : Nat) (r : EngReq) | engineWordWrite (cluster kind seq : Nat) | engineCommandComplete (cluster kind seq : Nat)
  | cpytFramePush (cluster seq : Nat) | rdctNodeCombine (cluster seq : Nat) | headraceTileFill (cluster seq : Nat)
  | tailraceWriteback (cluster seq : Nat)
  -- events: optics
  | opticalAcceptance (ctx : Nat) (r : OptReq) | passRowWrite (cluster : Nat) | probeSymbol (cluster : Nat) | passComplete (cluster : Nat)
  | phaseLoadEnd (cluster : Nat) | phaseSwap (cluster : Nat) | decompositionComplete (cluster : Nat)
  | calibrationStart (cluster : Nat) | calibrationComplete (cluster : Nat) | governorLock (cluster : Nat)
  | governorEnterDrift (cluster : Nat) | governorLeaveDrift (cluster : Nat) | recalibrationStart (cluster : Nat)
  | temperatureLoop (cluster : Nat)
  -- events: tasks
  | dequeRefill (core : Nat) | stealProbeRead (ctx : Nat) (victims : List Nat) (d : XR) | stealCas (ctx : Nat) (victims : List Nat) (t : Nat) (d : XR)
  | loadTask (ctx frame : Nat) (d : XR)
  -- events: translation
  | translationRequest (ctx va : Nat) (acc : Acc) | walkComplete (field asid granule : Nat)
  | sliceEntryPinExpiry (cluster asid va : Nat)
  | atsTranslationCompletion (field asid granule pa : Nat) (contiguous r w x : Bool)
  | pageRequestSend (link : Nat) | pageRequestResponse (link field asid granule code : Nat)
  | priEnable (link alloc : Nat) | priStop (link : Nat) | atsInvalidationRequest (link pasid va len : Nat)
  | invalidationComplete (asid : Option Nat) (va len : Nat)
  -- events: host
  | hostMessage (link fn : Nat) (whole : Bool) (record : BitVec 512) | bar2Access (link fn addr : Nat) (wr : Option (List Byte × Bool)) (len : Nat)
  | bar2AtomicOp (link fn : Nat) (op : AmoOp) (w : Option Bool) (addr : Nat) (c s : Word)
  | bar0RegisterWrite (fn : Nat × Nat) (off : Nat) (data : Word)
  -- events: Ennor Link
  | rotorSlotStart (port : Nat) (offset : BitVec 16) (relockOk : Bool)
  | flitReceive (port src srcPart tgtPart seq : Nat) (ctx : Nat × Nat) (crcOk : Bool) (pa : Nat) (data : FlitWork)
  | flitAck (port : Nat) (seq : Nat × Nat) (ok : Bool)
  | completionMarkerReceive (port src srcPart tgtPart : Nat) (ctx : Nat × Nat) (seqs : List Nat) (pa : Nat) (data : Word)
  | circuitBringUpComplete (port peer : Nat) | portResyncComplete (port : Nat)
  -- events: errors and the vote
  | scrubVisit (struct unit addr : Nat) | verticalBusTest (col : Nat) (fails : Bool) | heartbeatSend (col : Nat)
  | heartbeatReceive (col dir window : Nat) (coordsOk : Bool) (flit : VoteFlit) (crcOk : Bool) | heartbeatDeadline (col : Nat)
  | suspectNotice (col voter : Nat) | fenceNotice (col : Nat) | quarantineEnd (col : Nat) (testPass : Bool) | appeal (col dir : Nat)
  -- events: heat, migration, power
  | temperatureSample (kind unit : Nat) (temp : BitVec 12) | migrationStart (cluster : Nat) | migrationRetry (cluster : Nat)
  | migrationStateCopy (cluster : Nat) | migrationCommit (cluster : Nat) | sliceFrameWriteback (cluster : Nat)
  | slicePowerOff (cluster : Nat) | sliceRecovery (cluster : Nat) | powerSample (watts : Nat)
  -- events: reset and bring-up
  | moduleReset | vmainLoss | vmainPowerOn | hostLinkTrained (link : Nat) (atomics : Bool) | hbmStackReady (h : Nat) (pass : Bool)
  | fieldReady (f : Nat) | clusterReady (cluster : Nat) | combLightLoss (site : Nat) | combLightReturn (site : Nat)
  -- events: management
  | commandRingTailWrite (tail : Nat) | responseRingHeadWrite (head : Nat) | spdm (tag len : Nat) (msg : BitVec 384)
  | setCtrl (tag fn ctrl units : Nat) (value : Word) | setCtrlMinSecurityVersion (tag : Nat) (version : Nat)
  | setTable (tag table index : Nat) (value : BitVec 128) | inval (tag : Nat) (asid : Option Nat) (va len : Nat)
  | hostAssist (tag req status pa : Nat) | fwStage (tag pa len : Nat) | readDebug (tag which unit : Nat) (clear : Bool)
  | illegalInstruction (reserved : Bool) | softError (struct unit addr bit : Nat) (unc : Bool) | inventoryUpdate
  -- control, majors 0x00 to 0x07
  | nop | halt | yield | brk
  | j (off : BitVec 32) | jal (d : XR) (off : BitVec 32) | jalr (d : XR) (b : XS)
  | beq (a b : XS) (off : BitVec 16) | bne (a b : XS) (off : BitVec 16) | blt (a b : XS) (off : BitVec 16)
  | bge (a b : XS) (off : BitVec 16) | bltn (a b : XS) (off : BitVec 16) | bgen (a b : XS) (off : BitVec 16)
  | bkany (a b : KR) (off : BitVec 16) | bkall (a b : KR) (off : BitVec 16) | bknone (a b : KR) (off : BitVec 16)
  | dbnz (a : XR) (off : BitVec 16)
  -- integer, majors 0x10 to 0x15
  | add (d : XR) (b c : XS) | sub (d : XR) (b c : XS) | and (d : XR) (b c : XS) | or (d : XR) (b c : XS)
  | xor (d : XR) (b c : XS) | andn (d : XR) (b c : XS) | sll (d : XR) (b c : XS) | srl (d : XR) (b c : XS)
  | sra (d : XR) (b c : XS) | ror (d : XR) (b c : XS) | slt (d : XR) (b c : XS) | sltn (d : XR) (b c : XS)
  | min (d : XR) (b c : XS) | max (d : XR) (b c : XS) | minn (d : XR) (b c : XS) | maxn (d : XR) (b c : XS)
  | addi (d : XR) (b : XS) (imm : BitVec 16) | andi (d : XR) (b : XS) (imm : BitVec 16)
  | ori (d : XR) (b : XS) (imm : BitVec 16) | xori (d : XR) (b : XS) (imm : BitVec 16)
  | slli (d : XR) (b : XS) (sh : BitVec 6) | srli (d : XR) (b : XS) (sh : BitVec 6)
  | srai (d : XR) (b : XS) (sh : BitVec 6)
  | slti (d : XR) (b : XS) (imm : BitVec 16) | sltni (d : XR) (b : XS) (imm : BitVec 16)
  | li (d : XR) (imm : BitVec 32) | lih (d : XR) (imm : BitVec 32)
  | mul (d : XR) (b c : XS) | mulh (d : XR) (b c : XS) | mulhn (d : XR) (b c : XS) | div (d : XR) (b c : XS)
  | divn (d : XR) (b c : XS) | rem (d : XR) (b c : XS) | remn (d : XR) (b c : XS)
  | clz (d : XR) (b : XS) | ctz (d : XR) (b : XS) | popc (d : XR) (b : XS) | brev (d : XR) (b : XS)
  | addpc (d : XR) (off : BitVec 32)
  -- scalar floating point, majors 0x20 and 0x21
  | faddF32 (d : XR) (b c : XS) | fsubF32 (d : XR) (b c : XS) | fmulF32 (d : XR) (b c : XS)
  | fdivF32 (d : XR) (b c : XS) | fsqrtF32 (d : XR) (b : XS) | fminF32 (d : XR) (b c : XS)
  | fmaxF32 (d : XR) (b c : XS) | ffmaF32 (d : XR) (b c : XS) | feqF32 (d : XR) (b c : XS)
  | fltF32 (d : XR) (b c : XS) | fleF32 (d : XR) (b c : XS)
  | faddF64 (d : XR) (b c : XS) | fsubF64 (d : XR) (b c : XS) | fmulF64 (d : XR) (b c : XS)
  | fdivF64 (d : XR) (b c : XS) | fsqrtF64 (d : XR) (b : XS) | fminF64 (d : XR) (b c : XS)
  | fmaxF64 (d : XR) (b c : XS) | ffmaF64 (d : XR) (b c : XS) | feqF64 (d : XR) (b c : XS)
  | fltF64 (d : XR) (b c : XS) | fleF64 (d : XR) (b c : XS)
  -- vector integer, majors 0x28 and 0x29
  | vadd (t : ElemT) (d b c : VR) (m : KR) | vsub (t : ElemT) (d b c : VR) (m : KR)
  | vmul (t : ElemT) (d b c : VR) (m : KR) | vmulh (t : ElemT) (d b c : VR) (m : KR)
  | vand (t : ElemT) (d b c : VR) (m : KR) | vor (t : ElemT) (d b c : VR) (m : KR)
  | vxor (t : ElemT) (d b c : VR) (m : KR) | vandn (t : ElemT) (d b c : VR) (m : KR)
  | vsll (t : ElemT) (d b c : VR) (m : KR) | vsrl (t : ElemT) (d b c : VR) (m : KR)
  | vsra (t : ElemT) (d b c : VR) (m : KR) | vmin (t : ElemT) (d b c : VR) (m : KR)
  | vmax (t : ElemT) (d b c : VR) (m : KR) | vadds (t : ElemT) (d b c : VR) (m : KR)
  | vsubs (t : ElemT) (d b c : VR) (m : KR) | vabs (t : ElemT) (d b : VR) (m : KR)
  | vcmpeq (t : ElemT) (d : KR) (b c : VR) (m : KR) | vcmplt (t : ElemT) (d : KR) (b c : VR) (m : KR)
  | vcmple (t : ElemT) (d : KR) (b c : VR) (m : KR) | vsel (t : ElemT) (d b c : VR) (m : KR)
  | vsplat (t : ElemT) (d : VR) (b : XS) (m : KR) | vneg (t : ElemT) (d b : VR) (m : KR)
  -- vector floating point, major 0x2A
  | vfadd (t : ElemT) (d b c : VR) (m : KR) | vfsub (t : ElemT) (d b c : VR) (m : KR)
  | vfmul (t : ElemT) (d b c : VR) (m : KR) | vfma (t : ElemT) (d b c : VR) (m : KR)
  | vfms (t : ElemT) (d b c : VR) (m : KR) | vfnma (t : ElemT) (d b c : VR) (m : KR)
  | vfmin (t : ElemT) (d b c : VR) (m : KR) | vfmax (t : ElemT) (d b c : VR) (m : KR)
  | vfdiv (t : ElemT) (d b c : VR) (m : KR) | vfsqrt (t : ElemT) (d b : VR) (m : KR)
  | vfabs (t : ElemT) (d b : VR) (m : KR) | vfneg (t : ElemT) (d b : VR) (m : KR)
  | vfcmpeq (t : ElemT) (d : KR) (b c : VR) (m : KR) | vfcmplt (t : ElemT) (d : KR) (b c : VR) (m : KR)
  | vfcmple (t : ElemT) (d : KR) (b c : VR) (m : KR)
  -- masks, major 0x2B
  | kand (d b c : KR) | kor (d b c : KR) | kxor (d b c : KR) | kandn (d b c : KR) | knot (d b : KR)
  | kmovx (d : KR) (b : XS) | ktox (d : XR) (b : KR) | kpopc (d : XR) (b : KR) | kfirst (d : XR) (b : KR)
  -- vector immediates, majors 0x2C and 0x2D
  | vaddi (t : ElemT) (d b : VR) (imm : BitVec 16) (m : KR) | vandi (t : ElemT) (d b : VR) (imm : BitVec 16) (m : KR)
  | vori (t : ElemT) (d b : VR) (imm : BitVec 16) (m : KR) | vslli (t : ElemT) (d b : VR) (sh : BitVec 6) (m : KR)
  | vsrli (t : ElemT) (d b : VR) (sh : BitVec 6) (m : KR) | vsrai (t : ElemT) (d b : VR) (sh : BitVec 6) (m : KR)
  | vsplati (t : ElemT) (d : VR) (imm : BitVec 16) (m : KR)
  | vli16 (d : VR) (imm : BitVec 16) | vli32 (d : VR) (imm : BitVec 32) | vli64 (d : VR) (imm : BitVec 32)
  -- lanes, major 0x30
  | vxlr (t : ElemT) (d b c : VR) (m : KR) | vperm (t : ElemT) (d b c e : VR) (m : KR)
  | vcompr (t : ElemT) (d b : VR) (m : KR) | vexpnd (t : ElemT) (d b : VR) (m : KR)
  | vslup (t : ElemT) (d b : VR) (c : XS) (m : KR) | vsldn (t : ElemT) (d b : VR) (c : XS) (m : KR)
  | vzip (t : ElemT) (d b c : VR) (m : KR) | vunzip (t : ElemT) (d b c : VR) (m : KR)
  | vextr (t : ElemT) (d : XR) (b : VR) (c : XS) | vins (t : ElemT) (d : VR) (b c : XS)
  -- reductions, major 0x31
  | vredAdd (t : ElemT) (d : XR) (b : VR) (m : KR) | vredMin (t : ElemT) (d : XR) (b : VR) (m : KR)
  | vredMax (t : ElemT) (d : XR) (b : VR) (m : KR) | vredAnd (t : ElemT) (d : XR) (b : VR) (m : KR)
  | vredOr (t : ElemT) (d : XR) (b : VR) (m : KR)
  | vscanAdd (t : ElemT) (d b : VR) (m : KR) | vscanMin (t : ElemT) (d b : VR) (m : KR)
  | vscanMax (t : ElemT) (d b : VR) (m : KR)
  -- conversions, major 0x38
  | vcvt (td ts : ElemT) (d b : VR) (p : BitVec 6) (m : KR) | fcvt (td ts : ElemT) (d : XR) (b : XS)
  | vqnt (bf : BlkF) (t : ElemT) (d b : VR) (c : XS) (m : KR) | vdqnt (bf : BlkF) (t : ElemT) (d b : VR) (c : XS) (m : KR)
  | vrsc (bf : BlkF) (d b : VR) (c e : XS) (m : KR) | vemax (bf : BlkF) (t : ElemT) (d : XR) (b : VR) (m : KR)
  | vpack (td ts : ElemT) (d b c : VR) (m : KR) | vunpk (td ts : ElemT) (d b : VR) (p : Bool) (m : KR)
  | vphcv (t : ElemT) (d b : VR) (c : XS) (m : KR) | frsqa (t : ElemT) (d b : VR) (m : KR)
  | frcpa (t : ElemT) (d b : VR) (m : KR)
  -- scalar memory, majors 0x48 to 0x4A
  | ldS8 (d : XR) (b : XS) (off : BitVec 16) | ldN8 (d : XR) (b : XS) (off : BitVec 16)
  | ldS16 (d : XR) (b : XS) (off : BitVec 16) | ldN16 (d : XR) (b : XS) (off : BitVec 16)
  | ldS32 (d : XR) (b : XS) (off : BitVec 16) | ldN32 (d : XR) (b : XS) (off : BitVec 16)
  | ld64 (d : XR) (b : XS) (off : BitVec 16) | ldFe (d : XR) (b : XS) (off : BitVec 16)
  | ldFc (d : XR) (b : XS) (off : BitVec 16)
  | st8 (a b : XS) (off : BitVec 16) | st16 (a b : XS) (off : BitVec 16) | st32 (a b : XS) (off : BitVec 16)
  | st64 (a b : XS) (off : BitVec 16) | stEf (a b : XS) (off : BitVec 16) | stF (a b : XS) (off : BitVec 16)
  | ldp (d : XR) (w : Fin 4) (off : BitVec 16)
  -- vector memory, major 0x4B
  | vld (t : ElemT) (d : VR) (b : XS) (off : BitVec 16) (m : KR)
  | vst (t : ElemT) (a : VR) (b : XS) (off : BitVec 16) (m : KR)
  | vlds (t : ElemT) (d : VR) (b c : XS) (off : BitVec 16) (m : KR)
  | vsts (t : ElemT) (a : VR) (b c : XS) (off : BitVec 16) (m : KR)
  | vldg (t : ElemT) (d : VR) (b : XS) (c : VR) (off : BitVec 16) (m : KR)
  | vstg (t : ElemT) (a : VR) (b : XS) (c : VR) (off : BitVec 16) (m : KR)
  -- prefetch and maintenance, major 0x4C
  | prefL1 (b : XS) (off : BitVec 16) | prefSl (b : XS) (off : BitVec 16) | cclean (b : XS) (off : BitVec 16)
  | cflush (b : XS) (off : BitVec 16) | iflush (b : XS) (off : BitVec 16)
  -- indexed memory, majors 0x4D and 0x4E
  | ldxS8 (d : XR) (b c : XS) | ldxN8 (d : XR) (b c : XS) | ldxS16 (d : XR) (b c : XS) | ldxN16 (d : XR) (b c : XS)
  | ldxS32 (d : XR) (b c : XS) | ldxN32 (d : XR) (b c : XS) | ldx64 (d : XR) (b c : XS)
  | stx8 (a b c : XS) | stx16 (a b c : XS) | stx32 (a b c : XS) | stx64 (a b c : XS)
  -- atomics, majors 0x50 and 0x51
  | amoAdd (o : Ord) (sc : Scope) (w : Bool) (d : XR) (b c : XS) | amoAnd (o : Ord) (sc : Scope) (w : Bool) (d : XR) (b c : XS)
  | amoOr (o : Ord) (sc : Scope) (w : Bool) (d : XR) (b c : XS) | amoXor (o : Ord) (sc : Scope) (w : Bool) (d : XR) (b c : XS)
  | amoMin (o : Ord) (sc : Scope) (w : Bool) (d : XR) (b c : XS) | amoMax (o : Ord) (sc : Scope) (w : Bool) (d : XR) (b c : XS)
  | amoMinn (o : Ord) (sc : Scope) (w : Bool) (d : XR) (b c : XS) | amoMaxn (o : Ord) (sc : Scope) (w : Bool) (d : XR) (b c : XS)
  | amoSwap (o : Ord) (sc : Scope) (w : Bool) (d : XR) (b c : XS)
  | amoCas (o : Ord) (sc : Scope) (w : Bool) (d : XR) (b c e : XS)
  | redAdd (o : Ord) (sc : Scope) (w : Bool) (a b : XS) | redAnd (o : Ord) (sc : Scope) (w : Bool) (a b : XS)
  | redOr (o : Ord) (sc : Scope) (w : Bool) (a b : XS) | redXor (o : Ord) (sc : Scope) (w : Bool) (a b : XS)
  | redMin (o : Ord) (sc : Scope) (w : Bool) (a b : XS) | redMax (o : Ord) (sc : Scope) (w : Bool) (a b : XS)
  | redMinn (o : Ord) (sc : Scope) (w : Bool) (a b : XS) | redMaxn (o : Ord) (sc : Scope) (w : Bool) (a b : XS)
  -- cells, major 0x52
  | cadd (t : ElemT) (a b : XS) | caddv (t : ElemT) (a : VR) (b c : XS) (m : KR) | cld (t : ElemT) (d : XR) (b : XS)
  | cclr (b : XS) | cstat (d : XR) (b : XS) | cldx (d : VR) (b : XS)
  -- fences, major 0x58
  | fenceAcq (sc : Scope) | fenceRel (sc : Scope) | fenceAr (sc : Scope) | fenceSc (sc : Scope)
  | fflag (sc : Scope) (a b : XS)
  -- sluice, major 0x59
  | arv (ch : Fin 16) (d : XR) | arvRlx (ch : Fin 16) (d : XR) | arvd (ch : Fin 16) (d : XR)
  | bwt (ch : Fin 16) (a : XS) | btest (ch : Fin 16) (d : XR)
  -- wait, notify, messages, major 0x5A
  | waitv (ne : Bool) (sc : Scope) (w : Bool) (d : XR) (b c e : XS) | ntf1 (sc : Scope) (d : XR) (b : XS)
  | ntfa (sc : Scope) (d : XR) (b : XS)
  | send (sc : Scope) (q : Fin 4) (d : XR) (b : XS) (c : VR)
  | recv (sc : Scope) (q : Option (Fin 4)) (d : VR) (xm : XR)
  | recvt (sc : Scope) (q : Option (Fin 4)) (d : VR) (xm : XR)
  -- tasks, major 0x60
  | spawn (d : XR) (b c : XS) | sync (d : XR) (b : XS) | take (d : XR) | steal (d : XR) (b : XS) | tdone (d : XR)
  | slice (d : XR) (b c : XS) | joina (d : XR) (b c : XS) | dqlen (d : XR)
  -- engines, major 0x64
  | cpy (sc : Scope) (d : XR) (b c e : XS) | cpyt (sc : Scope) (d : XR) (b c e : XS)
  | gath (sc : Scope) (d : XR) (b c e : XS) | scat (sc : Scope) (d : XR) (b c e : XS)
  | mcst (list : Bool) (sc : Scope) (d : XR) (b c e : XS) | rdct (op : RedOp) (sc : Scope) (d : XR) (b c e : XS)
  | hdsub (sc : Scope) (d : XR) (b c e : XS) | hdend (d : XR) (b : XS) | tlret (sc : Scope) (d : XR) (b c : XS)
  | await (d : XR) (b : XS)
  -- optical, major 0x68
  | phld (d : XR) (b : XS) | phsw (d : XR) | phwr (bf : Bool) (d : XR) (b c : XS)
  | omx (pol : Pol) (ofm : Ofm) (d : XR) (b c e : XS) | omxa (pol : Pol) (ofm : Ofm) (d : XR) (b c e : XS)
  | omxw (pol : Pol) (ofm : Ofm) (d : XR) (b c e : XS) | prbe (d : XR) | phcrc (shadow : Bool) (d : XR)
  -- system, majors 0x70 and 0x71
  | launch (d : XR) (b : XS) | start (n : Fin 16) (d : XR) (b : XS) | reap (n : Fin 16) (d : XR)
  | migr (d : XR) (b : XS) | trap (n : BitVec 6) | eret
  | ctxsv (n : Fin 16) (d : XR) (b : XS) | ctxld (n : Fin 16) (d : XR) (b : XS)
  | prmt (d : XR) (b : XS) | rsme (d : XR) (b : XS) | errinj (d : XR) (b : XS)
  | mfs (d : XR) (num : BitVec 12) | mts (a : XS) (num : BitVec 12)
  | mtsFctx (a : XS) | mtsEbcmin (a : XS) | mtsScptr (a : XS) | mtsFstat (a : XS) | mtsPriv (a : XS) | mtsEpc (a : XS)
  | mtsTvec (a : XS) | mtsAsid (a : XS) | mtsDqbase (a : XS) | mtsDqtop (a : XS) | mtsDqbot (a : XS) | mtsDqspill (a : XS)
  | mtsSgmask (n : Fin 4) (a : XS)
  deriving DecidableEq, Repr

end Sys2Proof
end

