-- ==== Sys2Proof/WellFormed.lean ====
section
/-! DEFINITION. Which instructions an encoding can name: the element types, group bases and codes each form
accepts (R98, R99, R171, R172, R180, R217, R286, R431). -/
namespace Sys2Proof

/-- The type code of R98. -/
def ElemT.code : ElemT → Nat
  | .s8 => 0 | .s16 => 1 | .s32 => 2 | .s64 => 3 | .n8 => 4 | .n16 => 5 | .n32 => 6 | .n64 => 7
  | .f16 => 8 | .bf16 => 9 | .f32 => 10 | .f64 => 11 | .f8e4 => 12 | .f8e5 => 13 | .f6e3 => 14 | .f4e2 => 15

/-- Lane width in bits. The narrow floats occupy 8-bit lanes (R121, R171). -/
def ElemT.width : ElemT → Nat
  | .s8 | .n8 | .f8e4 | .f8e5 | .f6e3 | .f4e2 => 8
  | .s16 | .n16 | .f16 | .bf16 => 16
  | .s32 | .n32 | .f32 => 32
  | .s64 | .n64 | .f64 => 64

/-- Types 0 to 7. -/
def ElemT.isInt (t : ElemT) : Bool := t.code < 8
/-- Types 0 to 3. -/
def ElemT.isSigned (t : ElemT) : Bool := t.code < 4
/-- Types 0 to 10: the full-width lanes. -/
def ElemT.isLane (t : ElemT) : Bool := t.code < 11
/-- Types 8 to 10: the floating formats with arithmetic on vector lanes (R119). -/
def ElemT.isVFloat (t : ElemT) : Bool := t == .f16 || t == .bf16 || t == .f32
/-- The types a cell can be given (R241). -/
def ElemT.isCellAdd (t : ElemT) : Bool := t == .f16 || t == .bf16 || t == .f32 || t == .f8e4

/-- A register group of g registers starts at a multiple of g; vz names a group (R172). -/
def VR.isGroup : VR → Nat → Bool
  | .vz, _ => true
  | .v n, g => n.val % g == 0

/-- The (td, ts) pairs of VPACK; VUNPK takes them the other way round (R180). -/
def packPair : ElemT → ElemT → Bool
  | .s8, .s16 | .n8, .n16 | .s16, .s32 | .n16, .n32 | .s32, .s64 | .n32, .n64 | .s8, .s8 | .f4e2, .f4e2 => true
  | _, _ => false

/-- The system-register numbers whose MTS has an opcode-table row of its own. -/
def ownMtsRow (num : BitVec 12) : Bool :=
  [0x001, 0x002, 0x003, 0x004, 0x100, 0x101, 0x104, 0x105, 0x200, 0x201, 0x202, 0x203,
   0x210, 0x211, 0x212, 0x213].contains num.toNat

/-- The form accepts its codes; one that does not raises ILLEGAL_INSTR (R80, R98, R99, R126, R172, R431). -/
def Instr.legal : Instr → Bool
  | .vadd t _ _ _ _ | .vsub t _ _ _ _ | .vmul t _ _ _ _ | .vmulh t _ _ _ _ | .vand t _ _ _ _ | .vor t _ _ _ _ |
    .vxor t _ _ _ _ | .vandn t _ _ _ _ | .vsll t _ _ _ _ | .vsrl t _ _ _ _ | .vsra t _ _ _ _ | .vmin t _ _ _ _ |
    .vmax t _ _ _ _ | .vadds t _ _ _ _ | .vsubs t _ _ _ _ | .vcmpeq t _ _ _ _ | .vcmplt t _ _ _ _ |
    .vcmple t _ _ _ _ | .vneg t _ _ _ | .vaddi t _ _ _ _ | .vandi t _ _ _ _ | .vori t _ _ _ _ | .vslli t _ _ _ _ |
    .vsrli t _ _ _ _ | .vsrai t _ _ _ _ | .vsplati t _ _ _ | .vredAnd t _ _ _ | .vredOr t _ _ _ => t.isInt
  | .vabs t _ _ _ => t.isSigned
  | .vsel t _ _ _ _ | .vsplat t _ _ _ | .vredAdd t _ _ _ | .vredMin t _ _ _ | .vredMax t _ _ _ |
    .vscanAdd t _ _ _ | .vscanMin t _ _ _ | .vscanMax t _ _ _ | .vld t _ _ _ _ | .vst t _ _ _ _ |
    .vlds t _ _ _ _ _ | .vsts t _ _ _ _ _ | .vldg t _ _ _ _ _ | .vstg t _ _ _ _ _ => t.isLane
  | .vfadd t _ _ _ _ | .vfsub t _ _ _ _ | .vfmul t _ _ _ _ | .vfma t _ _ _ _ | .vfms t _ _ _ _ | .vfnma t _ _ _ _ |
    .vfmin t _ _ _ _ | .vfmax t _ _ _ _ | .vfdiv t _ _ _ _ | .vfsqrt t _ _ _ | .vfabs t _ _ _ | .vfneg t _ _ _ |
    .vfcmpeq t _ _ _ _ | .vfcmplt t _ _ _ _ | .vfcmple t _ _ _ _ | .frsqa t _ _ _ | .frcpa t _ _ _ => t.isVFloat
  | .vxlr t _ _ _ _ | .vperm t _ _ _ _ _ | .vcompr t _ _ _ | .vexpnd t _ _ _ | .vslup t _ _ _ _ |
    .vsldn t _ _ _ _ | .vzip t _ _ _ _ | .vunzip t _ _ _ _ | .vextr t _ _ _ | .vins t _ _ _ => t != .f64
  | .vcvt td ts _ _ _ _ => td != .f64 && ts != .f64
  | .vqnt _ t _ b _ _ | .vemax _ t _ b _ => t.isVFloat && b.isGroup (32 * t.width / 256)
  | .vdqnt _ t d _ _ _ => t.isVFloat && d.isGroup (32 * t.width / 256)
  | .vpack td ts _ _ _ _ => packPair td ts
  | .vunpk td ts _ _ _ _ => packPair ts td
  | .vphcv t d _ _ _ => t.isVFloat && d.isGroup (16 * t.width / 256)
  | .redAdd o _ _ _ _ | .redAnd o _ _ _ _ | .redOr o _ _ _ _ | .redXor o _ _ _ _ | .redMin o _ _ _ _ |
    .redMax o _ _ _ _ | .redMinn o _ _ _ _ | .redMaxn o _ _ _ _ => o == .rlx || o == .rel
  | .cadd t _ _ | .caddv t _ _ _ _ => t.isCellAdd
  | .cld t _ _ => t == .bf16 || t == .f32
  | .cldx d _ => d.isGroup 2
  | .omxa _ ofm _ _ _ _ => ofm != .ph16
  | .start n _ _ | .reap n _ => n != 0
  | .mts _ num => !ownMtsRow num
  | .nop | .halt | .yield | .brk | .j .. | .jal .. | .jalr .. | .beq .. | .bne .. | .blt .. | .bge .. | .bltn .. |
    .bgen .. | .bkany .. | .bkall .. | .bknone .. | .dbnz .. | .add .. | .sub .. | .and .. | .or .. | .xor .. |
    .andn .. | .sll .. | .srl .. | .sra .. | .ror .. | .slt .. | .sltn .. | .min .. | .max .. | .minn .. |
    .maxn .. | .addi .. | .andi .. | .ori .. | .xori .. | .slli .. | .srli .. | .srai .. | .slti .. | .sltni .. |
    .li .. | .lih .. | .mul .. | .mulh .. | .mulhn .. | .div .. | .divn .. | .rem .. | .remn .. | .clz .. |
    .ctz .. | .popc .. | .brev .. | .addpc .. | .faddF32 .. | .fsubF32 .. | .fmulF32 .. | .fdivF32 .. |
    .fsqrtF32 .. | .fminF32 .. | .fmaxF32 .. | .ffmaF32 .. | .feqF32 .. | .fltF32 .. | .fleF32 .. | .faddF64 .. |
    .fsubF64 .. | .fmulF64 .. | .fdivF64 .. | .fsqrtF64 .. | .fminF64 .. | .fmaxF64 .. | .ffmaF64 .. | .feqF64 .. |
    .fltF64 .. | .fleF64 .. | .kand .. | .kor .. | .kxor .. | .kandn .. | .knot .. | .kmovx .. | .ktox .. |
    .kpopc .. | .kfirst .. | .vli16 .. | .vli32 .. | .vli64 .. | .fcvt .. | .vrsc .. | .ldS8 .. | .ldN8 .. |
    .ldS16 .. | .ldN16 .. | .ldS32 .. | .ldN32 .. | .ld64 .. | .ldFe .. | .ldFc .. | .st8 .. | .st16 .. |
    .st32 .. | .st64 .. | .stEf .. | .stF .. | .ldp .. | .prefL1 .. | .prefSl .. | .cclean .. | .cflush .. |
    .iflush .. | .ldxS8 .. | .ldxN8 .. | .ldxS16 .. | .ldxN16 .. | .ldxS32 .. | .ldxN32 .. | .ldx64 .. | .stx8 .. |
    .stx16 .. | .stx32 .. | .stx64 .. | .amoAdd .. | .amoAnd .. | .amoOr .. | .amoXor .. | .amoMin .. |
    .amoMax .. | .amoMinn .. | .amoMaxn .. | .amoSwap .. | .amoCas .. | .cclr .. | .cstat .. | .fenceAcq .. |
    .fenceRel .. | .fenceAr .. | .fenceSc .. | .fflag .. | .arv .. | .arvRlx .. | .arvd .. | .bwt .. | .btest .. |
    .waitv .. | .ntf1 .. | .ntfa .. | .send .. | .recv .. | .recvt .. | .spawn .. | .sync .. | .take .. |
    .steal .. | .tdone .. | .slice .. | .joina .. | .dqlen .. | .cpy .. | .cpyt .. | .gath .. | .scat .. |
    .mcst .. | .rdct .. | .hdsub .. | .hdend .. | .tlret .. | .await .. | .phld .. | .phsw .. | .phwr .. |
    .omx .. | .omxw .. | .prbe .. | .phcrc .. | .launch .. | .migr .. | .trap .. | .eret | .ctxsv .. | .ctxld .. |
    .prmt .. | .rsme .. | .errinj .. | .mfs .. | .mtsFctx .. | .mtsEbcmin .. | .mtsScptr .. | .mtsFstat .. |
    .mtsPriv .. | .mtsEpc .. | .mtsTvec .. | .mtsAsid .. | .mtsDqbase .. | .mtsDqtop .. | .mtsDqbot .. |
    .mtsDqspill .. | .mtsSgmask .. | .millerTakeTrap .. | .asyncTrapTake .. | .longOpReply .. | .yieldRejoin .. |
    .ifetchLineArrival .. | .corePlacement .. | .launchEnd .. | .storeBufferDrain .. | .fullEmptyAtPort .. |
    .peerAccessAtPort .. | .proxyAccess .. | .atomicAtPlace .. | .cellOperationAtHome .. | .waitvAtHome .. |
    .notifyAtHome .. | .waitTableEntryGrant .. | .syncAtHome .. | .joinUpdateAtHome .. | .sluiceArrivalCount .. |
    .sluiceRelay .. | .sluiceCompletionSeen .. | .messageArrival .. | .sendStatusReturn .. |
    .spilledMessageMove .. | .engineAcceptance .. | .engineWordWrite .. | .engineCommandComplete .. |
    .cpytFramePush .. | .rdctNodeCombine .. | .headraceTileFill .. | .tailraceWriteback .. |
    .opticalAcceptance .. | .passRowWrite .. | .probeSymbol .. | .passComplete .. | .phaseLoadEnd .. |
    .phaseSwap .. | .decompositionComplete .. | .calibrationStart .. | .calibrationComplete .. | .governorLock .. |
    .governorEnterDrift .. | .governorLeaveDrift .. | .recalibrationStart .. | .temperatureLoop .. |
    .dequeRefill .. | .stealProbeRead .. | .stealCas .. | .loadTask .. | .translationRequest .. |
    .walkComplete .. | .sliceEntryPinExpiry .. | .atsTranslationCompletion .. | .pageRequestSend .. |
    .pageRequestResponse .. | .priEnable .. | .priStop .. | .atsInvalidationRequest .. | .invalidationComplete .. |
    .hostMessage .. | .bar2Access .. | .bar2AtomicOp .. | .bar0RegisterWrite .. | .rotorSlotStart .. |
    .flitReceive .. | .flitAck .. | .completionMarkerReceive .. | .circuitBringUpComplete .. |
    .portResyncComplete .. | .scrubVisit .. | .verticalBusTest .. | .heartbeatSend .. | .heartbeatReceive .. |
    .heartbeatDeadline .. | .suspectNotice .. | .fenceNotice .. | .quarantineEnd .. | .appeal .. |
    .temperatureSample .. | .migrationStart .. | .migrationRetry .. | .migrationStateCopy .. |
    .migrationCommit .. | .sliceFrameWriteback .. | .slicePowerOff .. | .sliceRecovery .. | .powerSample .. |
    .moduleReset | .vmainLoss | .vmainPowerOn | .hostLinkTrained .. | .hbmStackReady .. | .fieldReady .. |
    .clusterReady .. | .combLightLoss .. | .combLightReturn .. | .commandRingTailWrite .. |
    .responseRingHeadWrite .. | .spdm .. | .setCtrl .. | .setCtrlMinSecurityVersion .. | .setTable .. | .inval .. |
    .hostAssist .. | .fwStage .. | .readDebug .. | .illegalInstruction .. | .softError .. | .inventoryUpdate => true

/-- The parts a VCVT can name are below r = wmax / wmin; a greater p sets reserved bits (R179). -/
def Instr.partOk : Instr → Bool
  | .vcvt td ts _ _ p _ => p.toNat < Nat.max td.width ts.width / Nat.min td.width ts.width
  | _ => true

/-- An instruction that some encoding names and that its decoding gives back. -/
def Instr.wf (i : Instr) : Bool := i.legal && i.partOk

end Sys2Proof
end

