-- ==== Sys2Proof/Decode.lean ====
section
/-! DEFINITION. Instruction encodings (R71 to R82, R94 to R104 and the encoding tables of chapters 06 to 19): the
decoder, total on any parcels, and the encoder beside it. A head and its tails are four parcels, the absent
ones zero. The decoder reads the form the opcode map names, refuses what R78, R80 and R98 call illegal, and then
asks whether the form's own encoding has the same bits: a difference is a reserved bit that is set (R81). -/
namespace Sys2Proof
noncomputable section

/-- What a head decodes to: its instruction, or the check of R93 it fails, order 2 or order 3. -/
inductive Decoded where
  | ok (i : Instr) | illegal | reserved
  deriving DecidableEq, Repr

/-- The fields of a head parcel and tail parcel 1 (R75, R76), and tail parcels 2 and 3 whole. The p bit is not part
of the instruction. -/
structure Fields where
  t : BitVec 2
  major : BitVec 7
  a : BitVec 6
  b : BitVec 6
  c : BitVec 6
  minor : BitVec 4
  p2 : Parcel
  p3 : Parcel
  deriving DecidableEq, Repr

/-- T of a head parcel (R75). -/
def headT (h : Parcel) : BitVec 2 := h.extractLsb' 14 2
/-- P of a head parcel (R75). -/
def headP (h : Parcel) : Bool := h.getLsbD 13
/-- Major of a head parcel (R75). -/
def headMajor (h : Parcel) : BitVec 7 := h.extractLsb' 6 7
/-- Field A of a head parcel (R75). -/
def headA (h : Parcel) : BitVec 6 := h.extractLsb' 0 6
/-- Field b of tail parcel 1 (R76). -/
def tailB (p : Parcel) : BitVec 6 := p.extractLsb' 10 6
/-- Field c of tail parcel 1 (R76). -/
def tailC (p : Parcel) : BitVec 6 := p.extractLsb' 4 6
/-- The minor of tail parcel 1 (R76). -/
def tailMinor (p : Parcel) : BitVec 4 := p.extractLsb' 0 4
/-- Field d of the operand layout (R77). -/
def opD (p : Parcel) : BitVec 6 := p.extractLsb' 10 6
/-- Field m of the operand layout (R77). -/
def opM (p : Parcel) : BitVec 3 := p.extractLsb' 7 3
/-- Field mod of the operand layout (R77). -/
def opMod (p : Parcel) : BitVec 7 := p.extractLsb' 0 7

/-- A head parcel with P = 0 (R75). -/
def mkHead (t : BitVec 2) (major : BitVec 7) (a : BitVec 6) : Parcel := t ++ 0#1 ++ major ++ a
/-- A tail parcel 1 (R76). -/
def mkTail (b c : BitVec 6) (minor : BitVec 4) : Parcel := b ++ c ++ minor
/-- An operand-layout parcel (R77). -/
def mkOp (d : BitVec 6) (m : BitVec 3) (mod : BitVec 7) : Parcel := d ++ m ++ mod

/-- The fields of a head and its three tail parcels. -/
def fieldsOf (h t1 t2 t3 : Parcel) : Fields :=
  ⟨headT h, headMajor h, headA h, tailB t1, tailC t1, tailMinor t1, t2, t3⟩

/-- The parcels of the fields, head first; a head with T tails has T + 1 parcels. -/
def Fields.parcels (f : Fields) : List Parcel :=
  [mkHead f.t f.major f.a, mkTail f.b f.c f.minor, f.p2, f.p3].take (f.t.toNat + 1)

/-! ## Codes of operands -/

/-- The register code of an x register (R79). -/
def XR.code (n : XR) : BitVec 6 := BitVec.ofNat 6 n.val
/-- The code of an x-class source (R79). -/
def XS.code : XS → BitVec 6
  | .x n => BitVec.ofNat 6 n.val
  | .pc => 57
/-- The code of a v-class operand (R79). -/
def VR.code : VR → BitVec 6
  | .v n => BitVec.ofNat 6 (32 + n.val)
  | .vz => 56
/-- The register code of a k register (R79). -/
def KR.kcode (n : KR) : BitVec 6 := BitVec.ofNat 6 (48 + n.val)
/-- The m field of a mask operand (R77). -/
def KR.m (n : KR) : BitVec 3 := BitVec.ofNat 3 n.val
/-- The mod bits of an element type (R99). -/
def ElemT.mod (t : ElemT) : BitVec 7 := BitVec.ofNat 7 t.code
/-- An element type held in imm16 [3:0] (R101). -/
def ElemT.imm (t : ElemT) : BitVec 16 := BitVec.ofNat 16 t.code
/-- The block-format code (R98). -/
def BlkF.imm : BlkF → BitVec 16
  | .b8i => 0 | .b4i => 1 | .b8f => 2 | .b4f => 3
/-- The scope code (R99). -/
def Scope.code : Scope → BitVec 3
  | .thread => 0 | .core => 1 | .cluster => 2 | .field => 3 | .device => 4 | .system => 5
/-- A scope held in field c (R99). -/
def Scope.code6 (s : Scope) : BitVec 6 := 0#3 ++ s.code
/-- The order code (R99). -/
def Ord.code : Ord → BitVec 2
  | .rlx => 0 | .acq => 1 | .rel => 2 | .ar => 3
/-- The reduction operation code (R344). -/
def RedOp.code : RedOp → BitVec 2
  | .add => 0 | .min => 1 | .max => 2
/-- The policy code (R217). -/
def Pol.code : Pol → BitVec 2
  | .split => 0 | .mark => 1 | .trap => 2
/-- The output format code (R217). -/
def Ofm.code : Ofm → BitVec 2
  | .ph16 => 0 | .f32 => 1 | .bf16 => 2 | .dfmt => 3
/-- A small number held in field c. -/
def fin6 {k : Nat} (n : Fin k) : BitVec 6 := BitVec.ofNat 6 n.val
/-- A channel held in two bits. -/
def fin2 (n : Fin 4) : BitVec 2 := BitVec.ofNat 2 n.val
/-- A flag held in the lowest of two bits. -/
def bit2 (b : Bool) : BitVec 2 := if b then 1 else 0
/-- A flag held in the lowest bit of field c. -/
def bit6 (b : Bool) : BitVec 6 := if b then 1 else 0
/-- A flag held in the lowest bit of mod. -/
def bit7 (b : Bool) : BitVec 7 := if b then 1 else 0
/-- mod of an atomic: scope, order, size (R99). -/
def atomMod (s : Scope) (o : Ord) (w : Bool) : BitVec 7 := s.code ++ o.code ++ bit2 w
/-- mod [3:0] of RECV: a channel, or any (R337). -/
def chanMod : Option (Fin 4) → BitVec 4
  | none => 1
  | some q => fin2 q ++ 0#2

/-- The element type of a code (R98). -/
def ElemT.ofCode (n : BitVec 4) : ElemT :=
  match n.toNat with
  | 0 => .s8 | 1 => .s16 | 2 => .s32 | 3 => .s64 | 4 => .n8 | 5 => .n16 | 6 => .n32 | 7 => .n64
  | 8 => .f16 | 9 => .bf16 | 10 => .f32 | 11 => .f64 | 12 => .f8e4 | 13 => .f8e5 | 14 => .f6e3 | _ => .f4e2
/-- An x register (R79). -/
def xr? (n : BitVec 6) : Option XR := if h : n.toNat < 32 then some ⟨n.toNat, h⟩ else none
/-- An x-class source (R79, R80). -/
def xs? (n : BitVec 6) : Option XS :=
  if h : n.toNat < 32 then some (.x ⟨n.toNat, h⟩) else if n = 57 then some .pc else none
/-- A v-class operand (R79, R80). -/
def vr? (n : BitVec 6) : Option VR :=
  if n = 56 then some .vz
  else if h : 32 ≤ n.toNat ∧ n.toNat < 48 then some (.v ⟨n.toNat - 32, by omega⟩) else none
/-- A k register (R79, R80). -/
def kr? (n : BitVec 6) : Option KR :=
  if h : 48 ≤ n.toNat ∧ n.toNat < 56 then some ⟨n.toNat - 48, by omega⟩ else none
/-- A scope; 6 and 7 are illegal (R99). -/
def scope? (n : BitVec 3) : Option Scope :=
  match n.toNat with
  | 0 => some .thread | 1 => some .core | 2 => some .cluster | 3 => some .field | 4 => some .device
  | 5 => some .system | _ => none
/-- An order (R99). -/
def ordOf (n : BitVec 2) : Ord :=
  match n.toNat with
  | 0 => .rlx | 1 => .acq | 2 => .rel | _ => .ar
/-- A one-bit code held in two bits; 2 and 3 are illegal (R99, R329, R337, R344). -/
def size? (n : BitVec 2) : Option Bool :=
  match n.toNat with
  | 0 => some false | 1 => some true | _ => none
/-- A reduction operation (R344). -/
def redOp? (n : BitVec 2) : Option RedOp :=
  match n.toNat with
  | 0 => some .add | 1 => some .min | 2 => some .max | _ => none
/-- A policy (R217). -/
def pol? (n : BitVec 2) : Option Pol :=
  match n.toNat with
  | 0 => some .split | 1 => some .mark | 2 => some .trap | _ => none
/-- An output format (R217). -/
def ofmOf (n : BitVec 2) : Ofm :=
  match n.toNat with
  | 0 => .ph16 | 1 => .f32 | 2 => .bf16 | _ => .dfmt
/-- A block format (R98). -/
def blkOf (n : BitVec 2) : BlkF :=
  match n.toNat with
  | 0 => .b8i | 1 => .b4i | 2 => .b8f | _ => .b4f

/-! ## Field views (R77, R99) -/

/-- imm32 of the 3w layout. -/
def Fields.imm32 (f : Fields) : BitVec 32 := f.p3 ++ f.p2
/-- d of the operand layout. -/
def Fields.d (f : Fields) : BitVec 6 := opD f.p2
/-- m of the operand layout. -/
def Fields.m (f : Fields) : KR := (opM f.p2).toFin
/-- mod of the operand layout. -/
def Fields.mod (f : Fields) : BitVec 7 := opMod f.p2
/-- mod [3:0] read as an element type. -/
def Fields.et (f : Fields) : ElemT := ElemT.ofCode (f.mod.extractLsb' 0 4)
/-- imm16 [3:0] of the 3oi layout read as an element type. -/
def Fields.et2 (f : Fields) : ElemT := ElemT.ofCode (f.p3.extractLsb' 0 4)
/-- imm16 [1:0] of the 3oi layout read as a block format. -/
def Fields.bf (f : Fields) : BlkF := blkOf (f.p3.extractLsb' 0 2)
/-- mod [6:4] read as a scope. -/
def Fields.sc (f : Fields) : Option Scope := scope? (f.mod.extractLsb' 4 3)
/-- mod [3:2]. -/
def Fields.hi (f : Fields) : BitVec 2 := f.mod.extractLsb' 2 2
/-- mod [1:0]. -/
def Fields.lo (f : Fields) : BitVec 2 := f.mod.extractLsb' 0 2
/-- c [3:0] read as a small number. -/
def Fields.c4 (f : Fields) : Fin 16 := (f.c.extractLsb' 0 4).toFin

/-! ## Shapes of forms: which fields hold the operands (R96) -/
namespace D

/-- No operands. -/
def const (i : Instr) (_ : Fields) : Option Instr := some i
/-- A jump: c32. -/
def jmp (k : BitVec 32 → Instr) (f : Fields) : Option Instr := some (k f.imm32)
/-- xd, imm32. -/
def xi32 (k : XR → BitVec 32 → Instr) (f : Fields) : Option Instr := do return k (← xr? f.a) f.imm32
/-- xd, xb. -/
def xx (k : XR → XS → Instr) (f : Fields) : Option Instr := do return k (← xr? f.a) (← xs? f.b)
/-- xd, xb in the operand layout. -/
def xx2 (k : XR → XS → Instr) (f : Fields) : Option Instr := do return k (← xr? f.a) (← xs? f.b)
/-- xd. -/
def x1 (k : XR → Instr) (f : Fields) : Option Instr := do return k (← xr? f.a)
/-- xd in the operand layout. -/
def x2 (k : XR → Instr) (f : Fields) : Option Instr := do return k (← xr? f.a)
/-- xa, xb, imm16, with A a source. -/
def ssI (k : XS → XS → BitVec 16 → Instr) (f : Fields) : Option Instr := do
  return k (← xs? f.a) (← xs? f.b) f.p2
/-- ka, kb, imm16. -/
def kkI (k : KR → KR → BitVec 16 → Instr) (f : Fields) : Option Instr := do
  return k (← kr? f.a) (← kr? f.b) f.p2
/-- xd, imm16. -/
def xI (k : XR → BitVec 16 → Instr) (f : Fields) : Option Instr := do return k (← xr? f.a) f.p2
/-- xd, xb, xc. -/
def xxx (k : XR → XS → XS → Instr) (f : Fields) : Option Instr := do
  return k (← xr? f.a) (← xs? f.b) (← xs? f.c)
/-- xa, xb, xc, with A a source. -/
def sss (k : XS → XS → XS → Instr) (f : Fields) : Option Instr := do
  return k (← xs? f.a) (← xs? f.b) (← xs? f.c)
/-- xd, xb, imm16. -/
def xxI (k : XR → XS → BitVec 16 → Instr) (f : Fields) : Option Instr := do
  return k (← xr? f.a) (← xs? f.b) f.p2
/-- xd, xb, shift count. -/
def xxS (k : XR → XS → BitVec 6 → Instr) (f : Fields) : Option Instr := do
  return k (← xr? f.a) (← xs? f.b) (f.p2.extractLsb' 0 6)
/-- xb, imm16. -/
def bI (k : XS → BitVec 16 → Instr) (f : Fields) : Option Instr := do return k (← xs? f.b) f.p2
/-- vd, vb, vc, km. -/
def vvv (k : ElemT → VR → VR → VR → KR → Instr) (f : Fields) : Option Instr := do
  return k f.et (← vr? f.a) (← vr? f.b) (← vr? f.c) f.m
/-- vd, vb, km. -/
def vv (k : ElemT → VR → VR → KR → Instr) (f : Fields) : Option Instr := do
  return k f.et (← vr? f.a) (← vr? f.b) f.m
/-- kd, vb, vc, km. -/
def kvv (k : ElemT → KR → VR → VR → KR → Instr) (f : Fields) : Option Instr := do
  return k f.et (← kr? f.a) (← vr? f.b) (← vr? f.c) f.m
/-- vd, xb, km. -/
def vx (k : ElemT → VR → XS → KR → Instr) (f : Fields) : Option Instr := do
  return k f.et (← vr? f.a) (← xs? f.b) f.m
/-- xd, vb, km. -/
def xv (k : ElemT → XR → VR → KR → Instr) (f : Fields) : Option Instr := do
  return k f.et (← xr? f.a) (← vr? f.b) f.m
/-- vd, vb, vc, vi, km. -/
def vvvv (k : ElemT → VR → VR → VR → VR → KR → Instr) (f : Fields) : Option Instr := do
  return k f.et (← vr? f.a) (← vr? f.b) (← vr? f.c) (← vr? f.d) f.m
/-- vd, vb, xc, km. -/
def vvx (k : ElemT → VR → VR → XS → KR → Instr) (f : Fields) : Option Instr := do
  return k f.et (← vr? f.a) (← vr? f.b) (← xs? f.c) f.m
/-- xd, vb, xc. -/
def xvx (k : ElemT → XR → VR → XS → Instr) (f : Fields) : Option Instr := do
  return k f.et (← xr? f.a) (← vr? f.b) (← xs? f.c)
/-- vd, xb, xc. -/
def vxx (k : ElemT → VR → XS → XS → Instr) (f : Fields) : Option Instr := do
  return k f.et (← vr? f.a) (← xs? f.b) (← xs? f.c)
/-- kd, kb, kc. -/
def kkk (k : KR → KR → KR → Instr) (f : Fields) : Option Instr := do
  return k (← kr? f.a) (← kr? f.b) (← kr? f.c)
/-- kd, kb. -/
def kk (k : KR → KR → Instr) (f : Fields) : Option Instr := do return k (← kr? f.a) (← kr? f.b)
/-- kd, xb. -/
def kx (k : KR → XS → Instr) (f : Fields) : Option Instr := do return k (← kr? f.a) (← xs? f.b)
/-- xd, kb. -/
def xk (k : XR → KR → Instr) (f : Fields) : Option Instr := do return k (← xr? f.a) (← kr? f.b)
/-- vd, vb, imm16, km. -/
def vvI (k : ElemT → VR → VR → BitVec 16 → KR → Instr) (f : Fields) : Option Instr := do
  return k f.et (← vr? f.a) (← vr? f.b) f.p3 f.m
/-- vd, vb, shift count, km. -/
def vvS (k : ElemT → VR → VR → BitVec 6 → KR → Instr) (f : Fields) : Option Instr := do
  return k f.et (← vr? f.a) (← vr? f.b) (f.p3.extractLsb' 0 6) f.m
/-- vd, imm16, km. -/
def vI (k : ElemT → VR → BitVec 16 → KR → Instr) (f : Fields) : Option Instr := do
  return k f.et (← vr? f.a) f.p3 f.m
/-- vd, imm32 [15:0]. -/
def vi16 (k : VR → BitVec 16 → Instr) (f : Fields) : Option Instr := do return k (← vr? f.a) f.p2
/-- vd, imm32. -/
def vi32 (k : VR → BitVec 32 → Instr) (f : Fields) : Option Instr := do return k (← vr? f.a) f.imm32
/-- VCVT. -/
def cvtV (k : ElemT → ElemT → VR → VR → BitVec 6 → KR → Instr) (f : Fields) : Option Instr := do
  return k f.et f.et2 (← vr? f.a) (← vr? f.b) f.c f.m
/-- FCVT. -/
def cvtX (k : ElemT → ElemT → XR → XS → Instr) (f : Fields) : Option Instr := do
  return k f.et f.et2 (← xr? f.a) (← xs? f.b)
/-- VQNT, VDQNT. -/
def qnt (k : BlkF → ElemT → VR → VR → XS → KR → Instr) (f : Fields) : Option Instr := do
  return k f.bf f.et (← vr? f.a) (← vr? f.b) (← xs? f.c) f.m
/-- VRSC. -/
def rsc (k : BlkF → VR → VR → XS → XS → KR → Instr) (f : Fields) : Option Instr := do
  return k f.bf (← vr? f.a) (← vr? f.b) (← xs? f.c) (← xs? f.d) f.m
/-- VEMAX. -/
def emx (k : BlkF → ElemT → XR → VR → KR → Instr) (f : Fields) : Option Instr := do
  return k f.bf f.et (← xr? f.a) (← vr? f.b) f.m
/-- VPACK. -/
def pck (k : ElemT → ElemT → VR → VR → VR → KR → Instr) (f : Fields) : Option Instr := do
  return k f.et f.et2 (← vr? f.a) (← vr? f.b) (← vr? f.c) f.m
/-- VUNPK. -/
def unp (k : ElemT → ElemT → VR → VR → Bool → KR → Instr) (f : Fields) : Option Instr := do
  return k f.et f.et2 (← vr? f.a) (← vr? f.b) (f.c.getLsbD 0) f.m
/-- VPHCV. -/
def phc (k : ElemT → VR → VR → XS → KR → Instr) (f : Fields) : Option Instr := do
  return k f.et (← vr? f.a) (← vr? f.b) (← xs? f.c) f.m
/-- FRSQA, FRCPA. -/
def apx (k : ElemT → VR → VR → KR → Instr) (f : Fields) : Option Instr := do
  return k f.et (← vr? f.a) (← vr? f.b) f.m
/-- LDP: the window stands in c. -/
def ldp (k : XR → Fin 4 → BitVec 16 → Instr) (f : Fields) : Option Instr := do
  return k (← xr? f.a) (f.c.extractLsb' 0 2).toFin f.p2
/-- va, [xb + off], km. -/
def vxM (k : ElemT → VR → XS → BitVec 16 → KR → Instr) (f : Fields) : Option Instr := do
  return k f.et (← vr? f.a) (← xs? f.b) f.p3 f.m
/-- va, [xb + off], xc, km. -/
def vxxM (k : ElemT → VR → XS → XS → BitVec 16 → KR → Instr) (f : Fields) : Option Instr := do
  return k f.et (← vr? f.a) (← xs? f.b) (← xs? f.c) f.p3 f.m
/-- va, [xb + off], vc, km. -/
def vxvM (k : ElemT → VR → XS → VR → BitVec 16 → KR → Instr) (f : Fields) : Option Instr := do
  return k f.et (← vr? f.a) (← xs? f.b) (← vr? f.c) f.p3 f.m
/-- AMO. -/
def amo (k : Ord → Scope → Bool → XR → XS → XS → Instr) (f : Fields) : Option Instr := do
  return k (ordOf f.hi) (← f.sc) (← size? f.lo) (← xr? f.a) (← xs? f.b) (← xs? f.c)
/-- AMO.CAS. -/
def cas (k : Ord → Scope → Bool → XR → XS → XS → XS → Instr) (f : Fields) : Option Instr := do
  return k (ordOf f.hi) (← f.sc) (← size? f.lo) (← xr? f.a) (← xs? f.b) (← xs? f.c) (← xs? f.d)
/-- RED. -/
def red (k : Ord → Scope → Bool → XS → XS → Instr) (f : Fields) : Option Instr := do
  return k (ordOf f.hi) (← f.sc) (← size? f.lo) (← xs? f.a) (← xs? f.b)
/-- CADD. -/
def cadd (k : ElemT → XS → XS → Instr) (f : Fields) : Option Instr := do
  return k f.et (← xs? f.a) (← xs? f.b)
/-- CADDV. -/
def caddv (k : ElemT → VR → XS → XS → KR → Instr) (f : Fields) : Option Instr := do
  return k f.et (← vr? f.a) (← xs? f.b) (← xs? f.c) f.m
/-- CLD. -/
def cld (k : ElemT → XR → XS → Instr) (f : Fields) : Option Instr := do
  return k f.et (← xr? f.a) (← xs? f.b)
/-- CCLR. -/
def cclr (k : XS → Instr) (f : Fields) : Option Instr := do return k (← xs? f.b)
/-- CSTAT. -/
def cstat (k : XR → XS → Instr) (f : Fields) : Option Instr := do return k (← xr? f.a) (← xs? f.b)
/-- CLDX. -/
def cldx (k : VR → XS → Instr) (f : Fields) : Option Instr := do return k (← vr? f.a) (← xs? f.b)
/-- A fence: the scope stands in c. -/
def fnc (k : Scope → Instr) (f : Fields) : Option Instr := do return k (← scope? (f.c.extractLsb' 0 3))
/-- FFLAG. -/
def ffl (k : Scope → XS → XS → Instr) (f : Fields) : Option Instr := do
  return k (← scope? (f.c.extractLsb' 0 3)) (← xs? f.a) (← xs? f.b)
/-- A sluice form that writes xd. -/
def chX (k : Fin 16 → XR → Instr) (f : Fields) : Option Instr := do return k f.c4 (← xr? f.a)
/-- BWT. -/
def chS (k : Fin 16 → XS → Instr) (f : Fields) : Option Instr := do return k f.c4 (← xs? f.a)
/-- WAITV. -/
def wtv (k : Bool → Scope → Bool → XR → XS → XS → XS → Instr) (f : Fields) : Option Instr := do
  return k (← size? f.hi) (← f.sc) (← size? f.lo) (← xr? f.a) (← xs? f.b) (← xs? f.c) (← xs? f.d)
/-- NTF1, NTFA. -/
def ntf (k : Scope → XR → XS → Instr) (f : Fields) : Option Instr := do
  return k (← f.sc) (← xr? f.a) (← xs? f.b)
/-- SEND. -/
def snd (k : Scope → Fin 4 → XR → XS → VR → Instr) (f : Fields) : Option Instr := do
  return k (← f.sc) f.hi.toFin (← xr? f.a) (← xs? f.b) (← vr? f.c)
/-- RECV, RECVT. -/
def rcv (k : Scope → Option (Fin 4) → VR → XR → Instr) (f : Fields) : Option Instr := do
  return k (← f.sc) (if ← size? f.lo then none else some f.hi.toFin) (← vr? f.a) (← xr? f.b)
/-- An engine command. -/
def eng (k : Scope → XR → XS → XS → XS → Instr) (f : Fields) : Option Instr := do
  return k (← f.sc) (← xr? f.a) (← xs? f.b) (← xs? f.c) (← xs? f.d)
/-- MCST. -/
def mcs (k : Bool → Scope → XR → XS → XS → XS → Instr) (f : Fields) : Option Instr := do
  return k (← size? f.lo) (← f.sc) (← xr? f.a) (← xs? f.b) (← xs? f.c) (← xs? f.d)
/-- RDCT. -/
def rdc (k : RedOp → Scope → XR → XS → XS → XS → Instr) (f : Fields) : Option Instr := do
  return k (← redOp? f.hi) (← f.sc) (← xr? f.a) (← xs? f.b) (← xs? f.c) (← xs? f.d)
/-- TLRET. -/
def tlr (k : Scope → XR → XS → XS → Instr) (f : Fields) : Option Instr := do
  return k (← f.sc) (← xr? f.a) (← xs? f.b) (← xs? f.c)
/-- PHWR. -/
def phw (k : Bool → XR → XS → XS → Instr) (f : Fields) : Option Instr := do
  return k (f.mod.getLsbD 0) (← xr? f.a) (← xs? f.b) (← xs? f.c)
/-- A pass. -/
def omx (k : Pol → Ofm → XR → XS → XS → XS → Instr) (f : Fields) : Option Instr := do
  return k (← pol? (f.mod.extractLsb' 5 2)) (ofmOf (f.mod.extractLsb' 3 2)) (← xr? f.a) (← xs? f.b) (← xs? f.c)
    (← xs? f.d)
/-- PHCRC. -/
def crc (k : Bool → XR → Instr) (f : Fields) : Option Instr := do return k (f.mod.getLsbD 0) (← xr? f.a)
/-- A system form that names a context in c. -/
def nxx (k : Fin 16 → XR → XS → Instr) (f : Fields) : Option Instr := do
  return k f.c4 (← xr? f.a) (← xs? f.b)
/-- REAP. -/
def nx (k : Fin 16 → XR → Instr) (f : Fields) : Option Instr := do return k f.c4 (← xr? f.a)
/-- TRAP. -/
def trp (k : BitVec 6 → Instr) (f : Fields) : Option Instr := some (k f.c)
/-- MFS. -/
def mfs (f : Fields) : Option Instr := do return .mfs (← xr? f.a) (f.p2.extractLsb' 0 12)
/-- MTS: a register with a row of its own in the opcode table has a constructor of its own. -/
def mts (f : Fields) : Option Instr := do
  let a ← xs? f.a
  let num := f.p2.extractLsb' 0 12
  match num.toNat with
  | 0x001 => return .mtsFctx a | 0x002 => return .mtsScptr a | 0x003 => return .mtsFstat a
  | 0x004 => return .mtsEbcmin a | 0x100 => return .mtsPriv a | 0x101 => return .mtsEpc a
  | 0x104 => return .mtsTvec a | 0x105 => return .mtsAsid a | 0x200 => return .mtsDqbase a
  | 0x201 => return .mtsDqtop a | 0x202 => return .mtsDqbot a | 0x203 => return .mtsDqspill a
  | 0x210 => return .mtsSgmask 0 a | 0x211 => return .mtsSgmask 1 a | 0x212 => return .mtsSgmask 2 a
  | 0x213 => return .mtsSgmask 3 a | _ => return .mts a num

end D

/-- The opcode map (R100, R103): a major's tail length and its forms in the order of their minors. -/
def forms : Nat → Option (Nat × List (Fields → Option Instr))
  | 0x00 => some (0, [D.const .nop])
  | 0x01 => some (1, [D.const .halt, D.const .yield, D.const .brk])
  | 0x02 => some (3, [D.jmp .j])
  | 0x03 => some (3, [D.xi32 .jal])
  | 0x04 => some (1, [D.xx .jalr])
  | 0x05 => some (2, [D.ssI .beq, D.ssI .bne, D.ssI .blt, D.ssI .bge, D.ssI .bltn, D.ssI .bgen])
  | 0x06 => some (2, [D.kkI .bkany, D.kkI .bkall, D.kkI .bknone])
  | 0x07 => some (2, [D.xI .dbnz])
  | 0x10 => some (1, [D.xxx .add, D.xxx .sub, D.xxx .and, D.xxx .or, D.xxx .xor, D.xxx .andn, D.xxx .sll,
      D.xxx .srl, D.xxx .sra, D.xxx .ror, D.xxx .slt, D.xxx .sltn, D.xxx .min, D.xxx .max, D.xxx .minn,
      D.xxx .maxn])
  | 0x11 => some (2, [D.xxI .addi, D.xxI .andi, D.xxI .ori, D.xxI .xori, D.xxS .slli, D.xxS .srli, D.xxS .srai,
      D.xxI .slti, D.xxI .sltni])
  | 0x12 => some (3, [D.xi32 .li, D.xi32 .lih])
  | 0x13 => some (1, [D.xxx .mul, D.xxx .mulh, D.xxx .mulhn, D.xxx .div, D.xxx .divn, D.xxx .rem, D.xxx .remn])
  | 0x14 => some (1, [D.xx .clz, D.xx .ctz, D.xx .popc, D.xx .brev])
  | 0x15 => some (3, [D.xi32 .addpc])
  | 0x20 => some (1, [D.xxx .faddF32, D.xxx .fsubF32, D.xxx .fmulF32, D.xxx .fdivF32, D.xx .fsqrtF32,
      D.xxx .fminF32, D.xxx .fmaxF32, D.xxx .ffmaF32, D.xxx .feqF32, D.xxx .fltF32, D.xxx .fleF32])
  | 0x21 => some (1, [D.xxx .faddF64, D.xxx .fsubF64, D.xxx .fmulF64, D.xxx .fdivF64, D.xx .fsqrtF64,
      D.xxx .fminF64, D.xxx .fmaxF64, D.xxx .ffmaF64, D.xxx .feqF64, D.xxx .fltF64, D.xxx .fleF64])
  | 0x28 => some (2, [D.vvv .vadd, D.vvv .vsub, D.vvv .vmul, D.vvv .vmulh, D.vvv .vand, D.vvv .vor,
      D.vvv .vxor, D.vvv .vandn, D.vvv .vsll, D.vvv .vsrl, D.vvv .vsra, D.vvv .vmin, D.vvv .vmax, D.vvv .vadds,
      D.vvv .vsubs, D.vv .vabs])
  | 0x29 => some (2, [D.kvv .vcmpeq, D.kvv .vcmplt, D.kvv .vcmple, D.vvv .vsel, D.vx .vsplat, D.vv .vneg])
  | 0x2A => some (2, [D.vvv .vfadd, D.vvv .vfsub, D.vvv .vfmul, D.vvv .vfma, D.vvv .vfms, D.vvv .vfnma,
      D.vvv .vfmin, D.vvv .vfmax, D.vvv .vfdiv, D.vv .vfsqrt, D.vv .vfabs, D.vv .vfneg, D.kvv .vfcmpeq,
      D.kvv .vfcmplt, D.kvv .vfcmple])
  | 0x2B => some (1, [D.kkk .kand, D.kkk .kor, D.kkk .kxor, D.kkk .kandn, D.kk .knot, D.kx .kmovx, D.xk .ktox,
      D.xk .kpopc, D.xk .kfirst])
  | 0x2C => some (3, [D.vvI .vaddi, D.vvI .vandi, D.vvI .vori, D.vvS .vslli, D.vvS .vsrli, D.vvS .vsrai,
      D.vI .vsplati])
  | 0x2D => some (3, [D.vi16 .vli16, D.vi32 .vli32, D.vi32 .vli64])
  | 0x30 => some (2, [D.vvv .vxlr, D.vvvv .vperm, D.vv .vcompr, D.vv .vexpnd, D.vvx .vslup, D.vvx .vsldn,
      D.vvv .vzip, D.vvv .vunzip, D.xvx .vextr, D.vxx .vins])
  | 0x31 => some (2, [D.xv .vredAdd, D.xv .vredMin, D.xv .vredMax, D.xv .vredAnd, D.xv .vredOr, D.vv .vscanAdd,
      D.vv .vscanMin, D.vv .vscanMax])
  | 0x38 => some (3, [D.cvtV .vcvt, D.cvtX .fcvt, D.qnt .vqnt, D.qnt .vdqnt, D.rsc .vrsc, D.emx .vemax,
      D.pck .vpack, D.unp .vunpk, D.phc .vphcv, D.apx .frsqa, D.apx .frcpa])
  | 0x48 => some (2, [D.xxI .ldS8, D.xxI .ldN8, D.xxI .ldS16, D.xxI .ldN16, D.xxI .ldS32, D.xxI .ldN32,
      D.xxI .ld64, D.xxI .ldFe, D.xxI .ldFc])
  | 0x49 => some (2, [D.ssI .st8, D.ssI .st16, D.ssI .st32, D.ssI .st64, D.ssI .stEf, D.ssI .stF])
  | 0x4A => some (2, [D.ldp .ldp])
  | 0x4B => some (3, [D.vxM .vld, D.vxM .vst, D.vxxM .vlds, D.vxxM .vsts, D.vxvM .vldg, D.vxvM .vstg])
  | 0x4C => some (2, [D.bI .prefL1, D.bI .prefSl, D.bI .cclean, D.bI .cflush, D.bI .iflush])
  | 0x4D => some (1, [D.xxx .ldxS8, D.xxx .ldxN8, D.xxx .ldxS16, D.xxx .ldxN16, D.xxx .ldxS32, D.xxx .ldxN32,
      D.xxx .ldx64])
  | 0x4E => some (1, [D.sss .stx8, D.sss .stx16, D.sss .stx32, D.sss .stx64])
  | 0x50 => some (2, [D.amo .amoAdd, D.amo .amoAnd, D.amo .amoOr, D.amo .amoXor, D.amo .amoMin, D.amo .amoMax,
      D.amo .amoMinn, D.amo .amoMaxn, D.amo .amoSwap, D.cas .amoCas])
  | 0x51 => some (2, [D.red .redAdd, D.red .redAnd, D.red .redOr, D.red .redXor, D.red .redMin, D.red .redMax,
      D.red .redMinn, D.red .redMaxn])
  | 0x52 => some (2, [D.cadd .cadd, D.caddv .caddv, D.cld .cld, D.cclr .cclr, D.cstat .cstat, D.cldx .cldx])
  | 0x58 => some (1, [D.fnc .fenceAcq, D.fnc .fenceRel, D.fnc .fenceAr, D.fnc .fenceSc, D.ffl .fflag])
  | 0x59 => some (1, [D.chX .arv, D.chX .arvRlx, D.chX .arvd, D.chS .bwt, D.chX .btest])
  | 0x5A => some (2, [D.wtv .waitv, D.ntf .ntf1, D.ntf .ntfa, D.snd .send, D.rcv .recv, D.rcv .recvt])
  | 0x60 => some (1, [D.xxx .spawn, D.xx .sync, D.x1 .take, D.xx .steal, D.x1 .tdone, D.xxx .slice,
      D.xxx .joina, D.x1 .dqlen])
  | 0x64 => some (2, [D.eng .cpy, D.eng .cpyt, D.eng .gath, D.eng .scat, D.mcs .mcst, D.rdc .rdct,
      D.eng .hdsub, D.xx2 .hdend, D.tlr .tlret, D.xx2 .await])
  | 0x68 => some (2, [D.xx2 .phld, D.x2 .phsw, D.phw .phwr, D.omx .omx, D.omx .omxa, D.omx .omxw, D.x2 .prbe,
      D.crc .phcrc])
  | 0x70 => some (1, [D.xx .launch, D.nxx .start, D.nx .reap, D.xx .migr, D.trp .trap, D.const .eret,
      D.nxx .ctxsv, D.nxx .ctxld, D.xx .prmt, D.xx .rsme, D.xx .errinj])
  | 0x71 => some (2, [D.mfs, D.mts])
  | _ => none

/-! ## Encoder -/

/-- A head without tails. -/
def fld0 (major : BitVec 7) : Fields := ⟨0, major, 0, 0, 0, 0, 0, 0⟩
/-- T = 1. -/
def fld (major : BitVec 7) (minor : BitVec 4) (a b c : BitVec 6) : Fields := ⟨1, major, a, b, c, minor, 0, 0⟩
/-- The 2i layout. -/
def fldI (major : BitVec 7) (minor : BitVec 4) (a b c : BitVec 6) (imm : BitVec 16) : Fields :=
  ⟨2, major, a, b, c, minor, imm, 0⟩
/-- The 2o layout. -/
def fldO (major : BitVec 7) (minor : BitVec 4) (a b c d : BitVec 6) (m : KR) (mod : BitVec 7) : Fields :=
  ⟨2, major, a, b, c, minor, mkOp d m.m mod, 0⟩
/-- The 3w layout. -/
def fldW (major : BitVec 7) (minor : BitVec 4) (a : BitVec 6) (imm : BitVec 32) : Fields :=
  ⟨3, major, a, 0, 0, minor, imm.extractLsb' 0 16, imm.extractLsb' 16 16⟩
/-- The 3oi layout. -/
def fldOI (major : BitVec 7) (minor : BitVec 4) (a b c d : BitVec 6) (m : KR) (mod : BitVec 7) (imm : BitVec 16) :
    Fields :=
  ⟨3, major, a, b, c, minor, mkOp d m.m mod, imm⟩

/-- The fields that encode an instruction; an event has none. -/
def encodeFields : Instr → Option Fields
  | .nop => some (fld0 0x00)
  | .halt => some (fld 0x01 0 0 0 0)
  | .yield => some (fld 0x01 1 0 0 0)
  | .brk => some (fld 0x01 2 0 0 0)
  | .j off => some (fldW 0x02 0 0 off)
  | .jal d off => some (fldW 0x03 0 d.code off)
  | .jalr d b => some (fld 0x04 0 d.code b.code 0)
  | .beq a b off => some (fldI 0x05 0 a.code b.code 0 off)
  | .bne a b off => some (fldI 0x05 1 a.code b.code 0 off)
  | .blt a b off => some (fldI 0x05 2 a.code b.code 0 off)
  | .bge a b off => some (fldI 0x05 3 a.code b.code 0 off)
  | .bltn a b off => some (fldI 0x05 4 a.code b.code 0 off)
  | .bgen a b off => some (fldI 0x05 5 a.code b.code 0 off)
  | .bkany a b off => some (fldI 0x06 0 a.kcode b.kcode 0 off)
  | .bkall a b off => some (fldI 0x06 1 a.kcode b.kcode 0 off)
  | .bknone a b off => some (fldI 0x06 2 a.kcode b.kcode 0 off)
  | .dbnz a off => some (fldI 0x07 0 a.code 0 0 off)
  | .add d b c => some (fld 0x10 0 d.code b.code c.code)
  | .sub d b c => some (fld 0x10 1 d.code b.code c.code)
  | .and d b c => some (fld 0x10 2 d.code b.code c.code)
  | .or d b c => some (fld 0x10 3 d.code b.code c.code)
  | .xor d b c => some (fld 0x10 4 d.code b.code c.code)
  | .andn d b c => some (fld 0x10 5 d.code b.code c.code)
  | .sll d b c => some (fld 0x10 6 d.code b.code c.code)
  | .srl d b c => some (fld 0x10 7 d.code b.code c.code)
  | .sra d b c => some (fld 0x10 8 d.code b.code c.code)
  | .ror d b c => some (fld 0x10 9 d.code b.code c.code)
  | .slt d b c => some (fld 0x10 10 d.code b.code c.code)
  | .sltn d b c => some (fld 0x10 11 d.code b.code c.code)
  | .min d b c => some (fld 0x10 12 d.code b.code c.code)
  | .max d b c => some (fld 0x10 13 d.code b.code c.code)
  | .minn d b c => some (fld 0x10 14 d.code b.code c.code)
  | .maxn d b c => some (fld 0x10 15 d.code b.code c.code)
  | .addi d b imm => some (fldI 0x11 0 d.code b.code 0 imm)
  | .andi d b imm => some (fldI 0x11 1 d.code b.code 0 imm)
  | .ori d b imm => some (fldI 0x11 2 d.code b.code 0 imm)
  | .xori d b imm => some (fldI 0x11 3 d.code b.code 0 imm)
  | .slli d b sh => some (fldI 0x11 4 d.code b.code 0 (0#10 ++ sh))
  | .srli d b sh => some (fldI 0x11 5 d.code b.code 0 (0#10 ++ sh))
  | .srai d b sh => some (fldI 0x11 6 d.code b.code 0 (0#10 ++ sh))
  | .slti d b imm => some (fldI 0x11 7 d.code b.code 0 imm)
  | .sltni d b imm => some (fldI 0x11 8 d.code b.code 0 imm)
  | .li d imm => some (fldW 0x12 0 d.code imm)
  | .lih d imm => some (fldW 0x12 1 d.code imm)
  | .mul d b c => some (fld 0x13 0 d.code b.code c.code)
  | .mulh d b c => some (fld 0x13 1 d.code b.code c.code)
  | .mulhn d b c => some (fld 0x13 2 d.code b.code c.code)
  | .div d b c => some (fld 0x13 3 d.code b.code c.code)
  | .divn d b c => some (fld 0x13 4 d.code b.code c.code)
  | .rem d b c => some (fld 0x13 5 d.code b.code c.code)
  | .remn d b c => some (fld 0x13 6 d.code b.code c.code)
  | .clz d b => some (fld 0x14 0 d.code b.code 0)
  | .ctz d b => some (fld 0x14 1 d.code b.code 0)
  | .popc d b => some (fld 0x14 2 d.code b.code 0)
  | .brev d b => some (fld 0x14 3 d.code b.code 0)
  | .addpc d off => some (fldW 0x15 0 d.code off)
  | .faddF32 d b c => some (fld 0x20 0 d.code b.code c.code)
  | .fsubF32 d b c => some (fld 0x20 1 d.code b.code c.code)
  | .fmulF32 d b c => some (fld 0x20 2 d.code b.code c.code)
  | .fdivF32 d b c => some (fld 0x20 3 d.code b.code c.code)
  | .fsqrtF32 d b => some (fld 0x20 4 d.code b.code 0)
  | .fminF32 d b c => some (fld 0x20 5 d.code b.code c.code)
  | .fmaxF32 d b c => some (fld 0x20 6 d.code b.code c.code)
  | .ffmaF32 d b c => some (fld 0x20 7 d.code b.code c.code)
  | .feqF32 d b c => some (fld 0x20 8 d.code b.code c.code)
  | .fltF32 d b c => some (fld 0x20 9 d.code b.code c.code)
  | .fleF32 d b c => some (fld 0x20 10 d.code b.code c.code)
  | .faddF64 d b c => some (fld 0x21 0 d.code b.code c.code)
  | .fsubF64 d b c => some (fld 0x21 1 d.code b.code c.code)
  | .fmulF64 d b c => some (fld 0x21 2 d.code b.code c.code)
  | .fdivF64 d b c => some (fld 0x21 3 d.code b.code c.code)
  | .fsqrtF64 d b => some (fld 0x21 4 d.code b.code 0)
  | .fminF64 d b c => some (fld 0x21 5 d.code b.code c.code)
  | .fmaxF64 d b c => some (fld 0x21 6 d.code b.code c.code)
  | .ffmaF64 d b c => some (fld 0x21 7 d.code b.code c.code)
  | .feqF64 d b c => some (fld 0x21 8 d.code b.code c.code)
  | .fltF64 d b c => some (fld 0x21 9 d.code b.code c.code)
  | .fleF64 d b c => some (fld 0x21 10 d.code b.code c.code)
  | .vadd t d b c m => some (fldO 0x28 0 d.code b.code c.code 0 m t.mod)
  | .vsub t d b c m => some (fldO 0x28 1 d.code b.code c.code 0 m t.mod)
  | .vmul t d b c m => some (fldO 0x28 2 d.code b.code c.code 0 m t.mod)
  | .vmulh t d b c m => some (fldO 0x28 3 d.code b.code c.code 0 m t.mod)
  | .vand t d b c m => some (fldO 0x28 4 d.code b.code c.code 0 m t.mod)
  | .vor t d b c m => some (fldO 0x28 5 d.code b.code c.code 0 m t.mod)
  | .vxor t d b c m => some (fldO 0x28 6 d.code b.code c.code 0 m t.mod)
  | .vandn t d b c m => some (fldO 0x28 7 d.code b.code c.code 0 m t.mod)
  | .vsll t d b c m => some (fldO 0x28 8 d.code b.code c.code 0 m t.mod)
  | .vsrl t d b c m => some (fldO 0x28 9 d.code b.code c.code 0 m t.mod)
  | .vsra t d b c m => some (fldO 0x28 10 d.code b.code c.code 0 m t.mod)
  | .vmin t d b c m => some (fldO 0x28 11 d.code b.code c.code 0 m t.mod)
  | .vmax t d b c m => some (fldO 0x28 12 d.code b.code c.code 0 m t.mod)
  | .vadds t d b c m => some (fldO 0x28 13 d.code b.code c.code 0 m t.mod)
  | .vsubs t d b c m => some (fldO 0x28 14 d.code b.code c.code 0 m t.mod)
  | .vabs t d b m => some (fldO 0x28 15 d.code b.code 0 0 m t.mod)
  | .vcmpeq t d b c m => some (fldO 0x29 0 d.kcode b.code c.code 0 m t.mod)
  | .vcmplt t d b c m => some (fldO 0x29 1 d.kcode b.code c.code 0 m t.mod)
  | .vcmple t d b c m => some (fldO 0x29 2 d.kcode b.code c.code 0 m t.mod)
  | .vsel t d b c m => some (fldO 0x29 3 d.code b.code c.code 0 m t.mod)
  | .vsplat t d b m => some (fldO 0x29 4 d.code b.code 0 0 m t.mod)
  | .vneg t d b m => some (fldO 0x29 5 d.code b.code 0 0 m t.mod)
  | .vfadd t d b c m => some (fldO 0x2A 0 d.code b.code c.code 0 m t.mod)
  | .vfsub t d b c m => some (fldO 0x2A 1 d.code b.code c.code 0 m t.mod)
  | .vfmul t d b c m => some (fldO 0x2A 2 d.code b.code c.code 0 m t.mod)
  | .vfma t d b c m => some (fldO 0x2A 3 d.code b.code c.code 0 m t.mod)
  | .vfms t d b c m => some (fldO 0x2A 4 d.code b.code c.code 0 m t.mod)
  | .vfnma t d b c m => some (fldO 0x2A 5 d.code b.code c.code 0 m t.mod)
  | .vfmin t d b c m => some (fldO 0x2A 6 d.code b.code c.code 0 m t.mod)
  | .vfmax t d b c m => some (fldO 0x2A 7 d.code b.code c.code 0 m t.mod)
  | .vfdiv t d b c m => some (fldO 0x2A 8 d.code b.code c.code 0 m t.mod)
  | .vfsqrt t d b m => some (fldO 0x2A 9 d.code b.code 0 0 m t.mod)
  | .vfabs t d b m => some (fldO 0x2A 10 d.code b.code 0 0 m t.mod)
  | .vfneg t d b m => some (fldO 0x2A 11 d.code b.code 0 0 m t.mod)
  | .vfcmpeq t d b c m => some (fldO 0x2A 12 d.kcode b.code c.code 0 m t.mod)
  | .vfcmplt t d b c m => some (fldO 0x2A 13 d.kcode b.code c.code 0 m t.mod)
  | .vfcmple t d b c m => some (fldO 0x2A 14 d.kcode b.code c.code 0 m t.mod)
  | .kand d b c => some (fld 0x2B 0 d.kcode b.kcode c.kcode)
  | .kor d b c => some (fld 0x2B 1 d.kcode b.kcode c.kcode)
  | .kxor d b c => some (fld 0x2B 2 d.kcode b.kcode c.kcode)
  | .kandn d b c => some (fld 0x2B 3 d.kcode b.kcode c.kcode)
  | .knot d b => some (fld 0x2B 4 d.kcode b.kcode 0)
  | .kmovx d b => some (fld 0x2B 5 d.kcode b.code 0)
  | .ktox d b => some (fld 0x2B 6 d.code b.kcode 0)
  | .kpopc d b => some (fld 0x2B 7 d.code b.kcode 0)
  | .kfirst d b => some (fld 0x2B 8 d.code b.kcode 0)
  | .vaddi t d b imm m => some (fldOI 0x2C 0 d.code b.code 0 0 m t.mod imm)
  | .vandi t d b imm m => some (fldOI 0x2C 1 d.code b.code 0 0 m t.mod imm)
  | .vori t d b imm m => some (fldOI 0x2C 2 d.code b.code 0 0 m t.mod imm)
  | .vslli t d b sh m => some (fldOI 0x2C 3 d.code b.code 0 0 m t.mod (0#10 ++ sh))
  | .vsrli t d b sh m => some (fldOI 0x2C 4 d.code b.code 0 0 m t.mod (0#10 ++ sh))
  | .vsrai t d b sh m => some (fldOI 0x2C 5 d.code b.code 0 0 m t.mod (0#10 ++ sh))
  | .vsplati t d imm m => some (fldOI 0x2C 6 d.code 0 0 0 m t.mod imm)
  | .vli16 d imm => some (fldW 0x2D 0 d.code (0#16 ++ imm))
  | .vli32 d imm => some (fldW 0x2D 1 d.code imm)
  | .vli64 d imm => some (fldW 0x2D 2 d.code imm)
  | .vxlr t d b c m => some (fldO 0x30 0 d.code b.code c.code 0 m t.mod)
  | .vperm t d b c i m => some (fldO 0x30 1 d.code b.code c.code i.code m t.mod)
  | .vcompr t d b m => some (fldO 0x30 2 d.code b.code 0 0 m t.mod)
  | .vexpnd t d b m => some (fldO 0x30 3 d.code b.code 0 0 m t.mod)
  | .vslup t d b c m => some (fldO 0x30 4 d.code b.code c.code 0 m t.mod)
  | .vsldn t d b c m => some (fldO 0x30 5 d.code b.code c.code 0 m t.mod)
  | .vzip t d b c m => some (fldO 0x30 6 d.code b.code c.code 0 m t.mod)
  | .vunzip t d b c m => some (fldO 0x30 7 d.code b.code c.code 0 m t.mod)
  | .vextr t d b c => some (fldO 0x30 8 d.code b.code c.code 0 0 t.mod)
  | .vins t d b c => some (fldO 0x30 9 d.code b.code c.code 0 0 t.mod)
  | .vredAdd t d b m => some (fldO 0x31 0 d.code b.code 0 0 m t.mod)
  | .vredMin t d b m => some (fldO 0x31 1 d.code b.code 0 0 m t.mod)
  | .vredMax t d b m => some (fldO 0x31 2 d.code b.code 0 0 m t.mod)
  | .vredAnd t d b m => some (fldO 0x31 3 d.code b.code 0 0 m t.mod)
  | .vredOr t d b m => some (fldO 0x31 4 d.code b.code 0 0 m t.mod)
  | .vscanAdd t d b m => some (fldO 0x31 5 d.code b.code 0 0 m t.mod)
  | .vscanMin t d b m => some (fldO 0x31 6 d.code b.code 0 0 m t.mod)
  | .vscanMax t d b m => some (fldO 0x31 7 d.code b.code 0 0 m t.mod)
  | .vcvt td ts d b p m => some (fldOI 0x38 0 d.code b.code p 0 m td.mod ts.imm)
  | .fcvt td ts d b => some (fldOI 0x38 1 d.code b.code 0 0 0 td.mod ts.imm)
  | .vqnt bf t d b c m => some (fldOI 0x38 2 d.code b.code c.code 0 m t.mod bf.imm)
  | .vdqnt bf t d b c m => some (fldOI 0x38 3 d.code b.code c.code 0 m t.mod bf.imm)
  | .vrsc bf d b c e m => some (fldOI 0x38 4 d.code b.code c.code e.code m 0 bf.imm)
  | .vemax bf t d b m => some (fldOI 0x38 5 d.code b.code 0 0 m t.mod bf.imm)
  | .vpack td ts d b c m => some (fldOI 0x38 6 d.code b.code c.code 0 m td.mod ts.imm)
  | .vunpk td ts d b p m => some (fldOI 0x38 7 d.code b.code (bit6 p) 0 m td.mod ts.imm)
  | .vphcv t d b c m => some (fldOI 0x38 8 d.code b.code c.code 0 m t.mod 0)
  | .frsqa t d b m => some (fldOI 0x38 9 d.code b.code 0 0 m t.mod 0)
  | .frcpa t d b m => some (fldOI 0x38 10 d.code b.code 0 0 m t.mod 0)
  | .ldS8 d b off => some (fldI 0x48 0 d.code b.code 0 off)
  | .ldN8 d b off => some (fldI 0x48 1 d.code b.code 0 off)
  | .ldS16 d b off => some (fldI 0x48 2 d.code b.code 0 off)
  | .ldN16 d b off => some (fldI 0x48 3 d.code b.code 0 off)
  | .ldS32 d b off => some (fldI 0x48 4 d.code b.code 0 off)
  | .ldN32 d b off => some (fldI 0x48 5 d.code b.code 0 off)
  | .ld64 d b off => some (fldI 0x48 6 d.code b.code 0 off)
  | .ldFe d b off => some (fldI 0x48 7 d.code b.code 0 off)
  | .ldFc d b off => some (fldI 0x48 8 d.code b.code 0 off)
  | .st8 a b off => some (fldI 0x49 0 a.code b.code 0 off)
  | .st16 a b off => some (fldI 0x49 1 a.code b.code 0 off)
  | .st32 a b off => some (fldI 0x49 2 a.code b.code 0 off)
  | .st64 a b off => some (fldI 0x49 3 a.code b.code 0 off)
  | .stEf a b off => some (fldI 0x49 4 a.code b.code 0 off)
  | .stF a b off => some (fldI 0x49 5 a.code b.code 0 off)
  | .ldp d w off => some (fldI 0x4A 0 d.code 0 (fin6 w) off)
  | .vld t d b off m => some (fldOI 0x4B 0 d.code b.code 0 0 m t.mod off)
  | .vst t a b off m => some (fldOI 0x4B 1 a.code b.code 0 0 m t.mod off)
  | .vlds t d b c off m => some (fldOI 0x4B 2 d.code b.code c.code 0 m t.mod off)
  | .vsts t a b c off m => some (fldOI 0x4B 3 a.code b.code c.code 0 m t.mod off)
  | .vldg t d b c off m => some (fldOI 0x4B 4 d.code b.code c.code 0 m t.mod off)
  | .vstg t a b c off m => some (fldOI 0x4B 5 a.code b.code c.code 0 m t.mod off)
  | .prefL1 b off => some (fldI 0x4C 0 0 b.code 0 off)
  | .prefSl b off => some (fldI 0x4C 1 0 b.code 0 off)
  | .cclean b off => some (fldI 0x4C 2 0 b.code 0 off)
  | .cflush b off => some (fldI 0x4C 3 0 b.code 0 off)
  | .iflush b off => some (fldI 0x4C 4 0 b.code 0 off)
  | .ldxS8 d b c => some (fld 0x4D 0 d.code b.code c.code)
  | .ldxN8 d b c => some (fld 0x4D 1 d.code b.code c.code)
  | .ldxS16 d b c => some (fld 0x4D 2 d.code b.code c.code)
  | .ldxN16 d b c => some (fld 0x4D 3 d.code b.code c.code)
  | .ldxS32 d b c => some (fld 0x4D 4 d.code b.code c.code)
  | .ldxN32 d b c => some (fld 0x4D 5 d.code b.code c.code)
  | .ldx64 d b c => some (fld 0x4D 6 d.code b.code c.code)
  | .stx8 a b c => some (fld 0x4E 0 a.code b.code c.code)
  | .stx16 a b c => some (fld 0x4E 1 a.code b.code c.code)
  | .stx32 a b c => some (fld 0x4E 2 a.code b.code c.code)
  | .stx64 a b c => some (fld 0x4E 3 a.code b.code c.code)
  | .amoAdd o sc w d b c => some (fldO 0x50 0 d.code b.code c.code 0 0 (atomMod sc o w))
  | .amoAnd o sc w d b c => some (fldO 0x50 1 d.code b.code c.code 0 0 (atomMod sc o w))
  | .amoOr o sc w d b c => some (fldO 0x50 2 d.code b.code c.code 0 0 (atomMod sc o w))
  | .amoXor o sc w d b c => some (fldO 0x50 3 d.code b.code c.code 0 0 (atomMod sc o w))
  | .amoMin o sc w d b c => some (fldO 0x50 4 d.code b.code c.code 0 0 (atomMod sc o w))
  | .amoMax o sc w d b c => some (fldO 0x50 5 d.code b.code c.code 0 0 (atomMod sc o w))
  | .amoMinn o sc w d b c => some (fldO 0x50 6 d.code b.code c.code 0 0 (atomMod sc o w))
  | .amoMaxn o sc w d b c => some (fldO 0x50 7 d.code b.code c.code 0 0 (atomMod sc o w))
  | .amoSwap o sc w d b c => some (fldO 0x50 8 d.code b.code c.code 0 0 (atomMod sc o w))
  | .amoCas o sc w d b c e => some (fldO 0x50 9 d.code b.code c.code e.code 0 (atomMod sc o w))
  | .redAdd o sc w a b => some (fldO 0x51 0 a.code b.code 0 0 0 (atomMod sc o w))
  | .redAnd o sc w a b => some (fldO 0x51 1 a.code b.code 0 0 0 (atomMod sc o w))
  | .redOr o sc w a b => some (fldO 0x51 2 a.code b.code 0 0 0 (atomMod sc o w))
  | .redXor o sc w a b => some (fldO 0x51 3 a.code b.code 0 0 0 (atomMod sc o w))
  | .redMin o sc w a b => some (fldO 0x51 4 a.code b.code 0 0 0 (atomMod sc o w))
  | .redMax o sc w a b => some (fldO 0x51 5 a.code b.code 0 0 0 (atomMod sc o w))
  | .redMinn o sc w a b => some (fldO 0x51 6 a.code b.code 0 0 0 (atomMod sc o w))
  | .redMaxn o sc w a b => some (fldO 0x51 7 a.code b.code 0 0 0 (atomMod sc o w))
  | .cadd t a b => some (fldO 0x52 0 a.code b.code 0 0 0 t.mod)
  | .caddv t a b c m => some (fldO 0x52 1 a.code b.code c.code 0 m t.mod)
  | .cld t d b => some (fldO 0x52 2 d.code b.code 0 0 0 t.mod)
  | .cclr b => some (fldO 0x52 3 0 b.code 0 0 0 0)
  | .cstat d b => some (fldO 0x52 4 d.code b.code 0 0 0 0)
  | .cldx d b => some (fldO 0x52 5 d.code b.code 0 0 0 0)
  | .fenceAcq sc => some (fld 0x58 0 0 0 sc.code6)
  | .fenceRel sc => some (fld 0x58 1 0 0 sc.code6)
  | .fenceAr sc => some (fld 0x58 2 0 0 sc.code6)
  | .fenceSc sc => some (fld 0x58 3 0 0 sc.code6)
  | .fflag sc a b => some (fld 0x58 4 a.code b.code sc.code6)
  | .arv ch d => some (fld 0x59 0 d.code 0 (fin6 ch))
  | .arvRlx ch d => some (fld 0x59 1 d.code 0 (fin6 ch))
  | .arvd ch d => some (fld 0x59 2 d.code 0 (fin6 ch))
  | .bwt ch a => some (fld 0x59 3 a.code 0 (fin6 ch))
  | .btest ch d => some (fld 0x59 4 d.code 0 (fin6 ch))
  | .waitv ne sc w d b c e => some (fldO 0x5A 0 d.code b.code c.code e.code 0 (sc.code ++ bit2 ne ++ bit2 w))
  | .ntf1 sc d b => some (fldO 0x5A 1 d.code b.code 0 0 0 (sc.code ++ 0#4))
  | .ntfa sc d b => some (fldO 0x5A 2 d.code b.code 0 0 0 (sc.code ++ 0#4))
  | .send sc q d b c => some (fldO 0x5A 3 d.code b.code c.code 0 0 (sc.code ++ fin2 q ++ 0#2))
  | .recv sc q d xm => some (fldO 0x5A 4 d.code xm.code 0 0 0 (sc.code ++ chanMod q))
  | .recvt sc q d xm => some (fldO 0x5A 5 d.code xm.code 0 0 0 (sc.code ++ chanMod q))
  | .spawn d b c => some (fld 0x60 0 d.code b.code c.code)
  | .sync d b => some (fld 0x60 1 d.code b.code 0)
  | .take d => some (fld 0x60 2 d.code 0 0)
  | .steal d b => some (fld 0x60 3 d.code b.code 0)
  | .tdone d => some (fld 0x60 4 d.code 0 0)
  | .slice d b c => some (fld 0x60 5 d.code b.code c.code)
  | .joina d b c => some (fld 0x60 6 d.code b.code c.code)
  | .dqlen d => some (fld 0x60 7 d.code 0 0)
  | .cpy sc d b c e => some (fldO 0x64 0 d.code b.code c.code e.code 0 (sc.code ++ 0#4))
  | .cpyt sc d b c e => some (fldO 0x64 1 d.code b.code c.code e.code 0 (sc.code ++ 0#4))
  | .gath sc d b c e => some (fldO 0x64 2 d.code b.code c.code e.code 0 (sc.code ++ 0#4))
  | .scat sc d b c e => some (fldO 0x64 3 d.code b.code c.code e.code 0 (sc.code ++ 0#4))
  | .mcst list sc d b c e => some (fldO 0x64 4 d.code b.code c.code e.code 0 (sc.code ++ 0#2 ++ bit2 list))
  | .rdct op sc d b c e => some (fldO 0x64 5 d.code b.code c.code e.code 0 (sc.code ++ op.code ++ 0#2))
  | .hdsub sc d b c e => some (fldO 0x64 6 d.code b.code c.code e.code 0 (sc.code ++ 0#4))
  | .hdend d b => some (fldO 0x64 7 d.code b.code 0 0 0 0)
  | .tlret sc d b c => some (fldO 0x64 8 d.code b.code c.code 0 0 (sc.code ++ 0#4))
  | .await d b => some (fldO 0x64 9 d.code b.code 0 0 0 0)
  | .phld d b => some (fldO 0x68 0 d.code b.code 0 0 0 0)
  | .phsw d => some (fldO 0x68 1 d.code 0 0 0 0 0)
  | .phwr bf d b c => some (fldO 0x68 2 d.code b.code c.code 0 0 (bit7 bf))
  | .omx pol ofm d b c e => some (fldO 0x68 3 d.code b.code c.code e.code 0 (pol.code ++ ofm.code ++ 0#3))
  | .omxa pol ofm d b c e => some (fldO 0x68 4 d.code b.code c.code e.code 0 (pol.code ++ ofm.code ++ 0#3))
  | .omxw pol ofm d b c e => some (fldO 0x68 5 d.code b.code c.code e.code 0 (pol.code ++ ofm.code ++ 0#3))
  | .prbe d => some (fldO 0x68 6 d.code 0 0 0 0 0)
  | .phcrc shadow d => some (fldO 0x68 7 d.code 0 0 0 0 (bit7 shadow))
  | .launch d b => some (fld 0x70 0 d.code b.code 0)
  | .start n d b => some (fld 0x70 1 d.code b.code (fin6 n))
  | .reap n d => some (fld 0x70 2 d.code 0 (fin6 n))
  | .migr d b => some (fld 0x70 3 d.code b.code 0)
  | .trap n => some (fld 0x70 4 0 0 n)
  | .eret => some (fld 0x70 5 0 0 0)
  | .ctxsv n d b => some (fld 0x70 6 d.code b.code (fin6 n))
  | .ctxld n d b => some (fld 0x70 7 d.code b.code (fin6 n))
  | .prmt d b => some (fld 0x70 8 d.code b.code 0)
  | .rsme d b => some (fld 0x70 9 d.code b.code 0)
  | .errinj d b => some (fld 0x70 10 d.code b.code 0)
  | .mfs d num => some (fldI 0x71 0 d.code 0 0 (0#4 ++ num))
  | .mts a num => some (fldI 0x71 1 a.code 0 0 (0#4 ++ num))
  | .mtsFctx a => some (fldI 0x71 1 a.code 0 0 0x001)
  | .mtsEbcmin a => some (fldI 0x71 1 a.code 0 0 0x004)
  | .mtsScptr a => some (fldI 0x71 1 a.code 0 0 0x002)
  | .mtsFstat a => some (fldI 0x71 1 a.code 0 0 0x003)
  | .mtsPriv a => some (fldI 0x71 1 a.code 0 0 0x100)
  | .mtsEpc a => some (fldI 0x71 1 a.code 0 0 0x101)
  | .mtsTvec a => some (fldI 0x71 1 a.code 0 0 0x104)
  | .mtsAsid a => some (fldI 0x71 1 a.code 0 0 0x105)
  | .mtsDqbase a => some (fldI 0x71 1 a.code 0 0 0x200)
  | .mtsDqtop a => some (fldI 0x71 1 a.code 0 0 0x201)
  | .mtsDqbot a => some (fldI 0x71 1 a.code 0 0 0x202)
  | .mtsDqspill a => some (fldI 0x71 1 a.code 0 0 0x203)
  | .mtsSgmask n a => some (fldI 0x71 1 a.code 0 0 (BitVec.ofNat 16 (0x210 + n.val)))
  | .millerTakeTrap .. | .asyncTrapTake .. | .longOpReply .. | .yieldRejoin .. | .ifetchLineArrival .. |
    .corePlacement .. | .launchEnd .. | .storeBufferDrain .. | .fullEmptyAtPort .. | .peerAccessAtPort .. |
    .proxyAccess .. | .atomicAtPlace .. | .cellOperationAtHome .. | .waitvAtHome .. | .notifyAtHome .. |
    .waitTableEntryGrant .. | .syncAtHome .. | .joinUpdateAtHome .. | .sluiceArrivalCount .. | .sluiceRelay .. |
    .sluiceCompletionSeen .. | .messageArrival .. | .sendStatusReturn .. | .spilledMessageMove .. |
    .engineAcceptance .. | .engineWordWrite .. | .engineCommandComplete .. | .cpytFramePush .. |
    .rdctNodeCombine .. | .headraceTileFill .. | .tailraceWriteback .. | .opticalAcceptance .. | .passRowWrite .. |
    .probeSymbol .. | .passComplete .. | .phaseLoadEnd .. | .phaseSwap .. | .decompositionComplete .. |
    .calibrationStart .. | .calibrationComplete .. | .governorLock .. | .governorEnterDrift .. |
    .governorLeaveDrift .. | .recalibrationStart .. | .temperatureLoop .. | .dequeRefill .. | .stealProbeRead .. |
    .stealCas .. | .loadTask .. | .translationRequest .. | .walkComplete .. | .sliceEntryPinExpiry .. |
    .atsTranslationCompletion .. | .pageRequestSend .. | .pageRequestResponse .. | .priEnable .. | .priStop .. |
    .atsInvalidationRequest .. | .invalidationComplete .. | .hostMessage .. | .bar2Access .. | .bar2AtomicOp .. |
    .bar0RegisterWrite .. | .rotorSlotStart .. | .flitReceive .. | .flitAck .. | .completionMarkerReceive .. |
    .circuitBringUpComplete .. | .portResyncComplete .. | .scrubVisit .. | .verticalBusTest .. |
    .heartbeatSend .. | .heartbeatReceive .. | .heartbeatDeadline .. | .suspectNotice .. | .fenceNotice .. |
    .quarantineEnd .. | .appeal .. | .temperatureSample .. | .migrationStart .. | .migrationRetry .. |
    .migrationStateCopy .. | .migrationCommit .. | .sliceFrameWriteback .. | .slicePowerOff .. |
    .sliceRecovery .. | .powerSample .. | .moduleReset | .vmainLoss | .vmainPowerOn | .hostLinkTrained .. |
    .hbmStackReady .. | .fieldReady .. | .clusterReady .. | .combLightLoss .. | .combLightReturn .. |
    .commandRingTailWrite .. | .responseRingHeadWrite .. | .spdm .. | .setCtrl .. | .setCtrlMinSecurityVersion .. |
    .setTable .. | .inval .. | .hostAssist .. | .fwStage .. | .readDebug .. | .illegalInstruction .. |
    .softError .. | .inventoryUpdate => none

/-- The parcels of an instruction, head first and then its tails in order; an event has none. -/
def encode (i : Instr) : List Parcel :=
  match encodeFields i with
  | some f => f.parcels
  | none => []

/-! ## Decoder -/

/-- Decode the fields of a head, in the order of R93: the form, its operand codes and the codes it accepts, and then
its reserved bits. -/
def decodeFields (f : Fields) : Decoded :=
  match forms f.major.toNat with
  | none => .illegal
  | some (t, l) =>
    if f.t.toNat = t then
      match l[f.minor.toNat]? with
      | none => .illegal
      | some form =>
        match form f with
        | none => .illegal
        | some i =>
          if i.legal then
            if encodeFields i = some f ∧ i.partOk = true then .ok i else .reserved
          else .illegal
    else .illegal

/-- Decode a head parcel and its tails, head first. Parcels beyond the tails its T names are not read. -/
def decode (ps : List Parcel) : Decoded :=
  let h := ps.getD 0 0
  let t := (headT h).toNat
  let tail (k : Nat) : Parcel := if k ≤ t then ps.getD k 0 else 0
  decodeFields (fieldsOf h (tail 1) (tail 2) (tail 3))

/-- The form that the codes of a head select, whatever its reserved bits hold (R93: its target is looked at before they are). -/
def looseDecode (ps : List Parcel) : Option Instr :=
  let h := ps.getD 0 0
  let t := (headT h).toNat
  let tail (k : Nat) : Parcel := if k ≤ t then ps.getD k 0 else 0
  let f := fieldsOf h (tail 1) (tail 2) (tail 3)
  match forms f.major.toNat with
  | none => none
  | some (t, l) => if f.t.toNat = t then (l[f.minor.toNat]?).bind fun form => form f else none

/-- What the decoder reads from an opcode-table word: the first parcel is the head, which the table gives in the
word's highest 16 bits; the parcels the table gives no bits are zero. -/
def tableParcels (nbits w : Nat) : List Parcel :=
  let n := (nbits + 15) / 16
  (List.range n).map fun k => BitVec.ofNat 16 (w / 2 ^ (16 * (n - 1 - k)))

/-- The instruction the decoder reads from an opcode-table word. -/
def decodeTableWord (nbits w : Nat) : Option Instr :=
  match decode (tableParcels nbits w) with
  | .ok i => some i
  | .illegal | .reserved => none

end
end Sys2Proof
end

