-- ==== Sys2Proof/Config.lean ====
section
/-! DEFINITION. What one Sprinwyn module fixes, and the free values: constants without a body for what the manual
leaves open. A free value is applied to the state's counter `free`, or to the operands it depends on. -/
namespace Sys2Proof.Config

/-- Which of the pending events happens next, or the issue of a head: the manual orders them only by their own
rules (log entry 10). Applied to the counter of free values. -/
opaque choice : Nat → Nat
/-- A free 64-bit value. -/
opaque freeWord : Nat → Word

/-- The module is of Grade B; else it is of Grade A (R1). -/
opaque gradeB : Bool
/-- The columns that failed module test, by the key 64 * cluster + column: each module's own harvest (R27, R31). -/
opaque badColumns : List Nat
/-- The clusters whose OMU is absent (R29). -/
opaque badOmus : List Nat
/-- Whether a physical column is good, by its key. At most 512 of the 32,768 are not, or 1,024 in Grade B (R1, R34). -/
def goodColumn (k : Nat) : Bool := !(badColumns.take (if gradeB then 1024 else 512)).contains k
/-- Whether the OMU of a cluster is present. At most 4 of the 512 are not, or 16 in Grade B (R1, R34). -/
def omuPresent (k : Nat) : Bool := !(badOmus.take (if gradeB then 16 else 4)).contains k
/-- The 8,192 phase codes of the image that the millwright writes for a block, under an FCTX: the manual names no algorithm
(R201, R229). Phase k stands at bits 16k to 16k + 15. -/
opaque decompose : List Nat → Word → Nat

/-- The ordering code and the serial number, as 8-byte words 1 to 7 of the module inventory (R531). -/
opaque identity : Nat → Word

/-- Fields of the module (R22). -/
def nFields : Nat := 32
/-- Clusters of the module: 16 a field (R22). -/
def nClusters : Nat := 512
/-- Logical core numbers of the module: 64 a cluster (R24). -/
def nCores : Nat := 32768
/-- Contexts of a core (R22). -/
def nCtx : Nat := 16

/-- Exponent of smax for a block whose power of two, of this biased exponent, is no normal F32 (R229; log entry 83). -/
opaque smaxExponent : Int → Nat

end Sys2Proof.Config
end

