-- ==== Sys2Proof/Machine/State.lean ====
section
/-! DEFINITION. The state of one Sprinwyn module as plain data, and its value after reset. A register file of the
module is a sparse table (`Tab`): a key that is absent stands for the reset value. A context has the key
16 * core + context, a core the key 1024 * field + 64 * cluster + core, a cluster 16 * field + cluster, and a column
64 * cluster key + physical column. Memory is one list of bytes: the key of a translated byte is its 52-bit
physical address (R268), and the key of scratchpad byte o of core n is 2^52 + 2^19 * n + o. -/
namespace Sys2Proof.Machine

/-! ## Contexts -/

/-- Whether a context runs: R147, R376, R430. -/
inductive Run where
  | halted | running | held
  deriving DecidableEq, Repr

/-- Why a running context is out of the rotation (the table of R376, with the waits told apart for R430). -/
inductive Why where
  /-- A long op whose reply is outstanding (R91). -/
  | longOp
  /-- Parked on a translation miss (R380). -/
  | parked
  /-- The code line is not in the L1 instruction cache (R376). -/
  | line
  /-- YIELD (R147). -/
  | yield
  /-- The context's store buffer must have performed this many entries in all first (R214, R283, R302). -/
  | buffer (upto : Nat)
  /-- A store to the own scratchpad that a range table holds back has its entry: the context waits until this many entries in all
have been performed (R214). -/
  | stored (upto : Nat)
  /-- Every earlier access of the context must have been performed at this scope first (R288, R313, R316); for an FFLAG, its
data for the flag's package need only be handed over (R292). -/
  | order (sc : Scope) (but : Option Nat)
  /-- The context's operations on cells, and at the SYSTEM scope its writes to other packages, must have been performed first
  (R251, R290). -/
  | cells (sc : Scope)
  /-- A full/empty form waits at the port of this core (R303). -/
  | fullEmpty (port : Nat)
  /-- WAITV or SYNC sleeps at the home, or waits for an entry of its table (R331, R333, R395). -/
  | sleep
  /-- BWT (R326). -/
  | sluice
  /-- An arrival held for the next phase (R326). -/
  | arrive
  /-- RECV (R339). -/
  | recv
  /-- SEND held at the ingress of a moving core or at a full message area (R338, R444, R446). -/
  | send
  /-- An access held at its place: for a core that moves, or a slice that is shut down (R256, R491). -/
  | moving
  /-- An access parked for a core that is saved (R444). -/
  | saved
  /-- An engine or optical command not yet accepted (R218, R347). -/
  | accept
  /-- AWAIT or another wait for an asynchronous operation (R364, R228, R230). -/
  | await
  /-- TAKE or SPAWN waits for a refill or a spill, STEAL for its next probe (R396, R399). -/
  | deque
  /-- A system form waits for another core: PRMT, RSME, REAP, CTXLD (R437, R439, R445). -/
  | system
  /-- Stopped at a line boundary by a pre-emption or a migration (R92, R442, R488). -/
  | frozen
  deriving DecidableEq, Repr

/-- The rights and the attribute that a translation gives to the L1 lines it installs (R413). -/
structure Grant where
  r : Bool
  w : Bool
  x : Bool
  app : Bool
  cell : Bool
  deriving DecidableEq, Repr

/-- A run of bytes of one access inside one 64-byte line: its VA, its key, its length, whether it lies on a CELL page, and what
its translation grants; none in the window, or once an invalidation has taken the translation away (R425). -/
structure Piece where
  va : Nat
  key : Nat
  len : Nat
  cell : Bool
  grant : Option Grant
  deriving DecidableEq, Repr

/-- One store-buffer entry (R283): a store, with its runs, its bytes in order, the ASID it was issued under (R60), and the
aligned words of it that are still to be performed (R280); or a release marker (R316). `rel` is the scope of the latest
release before it in program order (R278). -/
inductive BufEntry where
  | store (runs : List Piece) (bytes : List (Nat × Byte)) (asid : Nat) (left : List Nat) (rel : Option Scope) (bad : Bool)
  | marker (sc : Scope)
  deriving DecidableEq, Repr

/-- An error armed by ERRINJ (R441). -/
structure Armed where
  struct : Nat
  reg : Nat
  bit : Nat
  unc : Bool
  deriving DecidableEq, Repr

/-- A trap raised by an asynchronous operation and not yet taken (R232). -/
structure AsyncTrap where
  cause : Nat
  val : Word
  deriving DecidableEq, Repr

/-- The code line a context issues from (R86): its address and its 64 bytes. -/
structure LineCopy where
  addr : Nat
  data : Line
  deriving DecidableEq, Repr

/-- The answer a closed walk left in the translation record of a waiter (R420): the granule, the trap that R419 names for
it, and whether the page that the walk found is one where no frame may lie (R384). -/
structure WalkFail where
  granule : Nat
  cause : Nat
  away : Bool
  deriving DecidableEq, Repr

/-- A released store that a context has read (R276, R278): its writer, the release's scope, its word, and whether it was
written, and read, at its home. -/
structure ReadTag where
  who : Nat
  rel : Scope
  key : Nat
  homeW : Bool
  homeR : Bool
  deriving DecidableEq, Repr

/-- A read of several aligned words under way (R258, R280): its byte keys and their VAs in order, the words as they were read, and its
destination: an x register with the sign and the bytes of the value, or a v register with its lanes and mask. -/
structure LateRead where
  keys : List Nat
  vas : List Nat
  words : List (Nat × Nat)
  dst : XR × Bool ⊕ VR × ElemT × KWord
  deriving DecidableEq, Repr

/-- The access of one place that a long op has sent (R91, R272): its ASID, VA and key, and what its translation grants to the L1 line
that it may bring. -/
structure Fill where
  asid : Nat
  va : Nat
  key : Nat
  grant : Option Grant
  deriving DecidableEq, Repr

/-- What the latest head, or pair, of a context replaced: its address, the registers and their poison before it, and the flags
that it alone has raised. A head that goes on at a unit and traps there takes these back (R89, R428). -/
structure Undo where
  pc : Word
  x : Vector Word 32
  v : Vector VWord 16
  k : Vector KWord 8
  bad : BitVec 64
  flags : Word
  deriving DecidableEq, Repr

/-- A context (R39 to R60, R68). -/
structure Ctx where
  x : Vector Word 32
  v : Vector VWord 16
  k : Vector KWord 8
  pc : Word
  fctxB : Word
  fctxS : Word
  scptrB : Word
  scptrS : Word
  /-- The shadow copies are in force (R48). -/
  shadow : Bool
  fstat : Word
  ctxid : Word
  lcore : Word
  stage : Word
  taskf : Word
  priv : Word
  epc : Word
  ecause : Word
  eval : Word
  tvec : Word
  asid : Word
  buf : List BufEntry
  run : Run
  why : Option Why
  /-- Cycle of the previous issue (R376). -/
  lastIssue : Option Nat
  /-- First cycle in which the context is in the rotation (R376, R381). -/
  eligFrom : Nat
  line : Option LineCopy
  /-- Inside a handler interval (R428). -/
  intv : Bool
  /-- The first cause of a trap entry whose handler's first head has not issued (R429). -/
  entry : Option Nat
  /-- A frame whose load_task is pending (R401, R438). -/
  pendf : Option Word
  /-- The run code that the context takes once that load_task has ended, where an image gave another than running (R439). -/
  resume : Option Nat
  armed : Option Armed
  /-- Single-bit errors of its registers that no head has met yet (R467, R469). -/
  latent : List Armed
  /-- The record in which it waits is beyond correction: the word that it is for is written poisoned (R467). -/
  recBad : Bool
  /-- A REAP of this context waits for its next line boundary (R437). -/
  reaping : Bool
  /-- Taken where it stands: the context issues no head after the one that is outstanding (R92, R140). -/
  taken : Bool
  /-- Its head has been sent and is held at its place: it is never withdrawn (R256). -/
  held : Bool
  /-- The head at pc has issued and waits for the end of it, not for a reissue: the next head that the context issues comes after
  it (R232, R376). -/
  sent : Bool
  undo : Option Undo
  asyncs : List AsyncTrap
  walkFail : Option WalkFail
  /-- The result of a wait that has ended while its head stood outside the rotation: the head takes it when it issues
  again. -/
  got : Option Word
  /-- The released stores that this result was read from (R278). -/
  gotTags : List ReadTag
  /-- Poisoned registers, one bit a register code (R467, R471). -/
  bad : BitVec 64
  /-- Poisoned system registers by number, shadow copies counted from 128 (R68, R467). -/
  badSys : List Nat
  /-- The flags that asynchronous operations have merged, and the cycle in which they did (R50). -/
  merged : Nat × Word
  /-- A read that is performed word by word: its words may be read again until its reply arrives, or, of the own scratchpad, until the
  next issue (R258, R280). -/
  late : Option LateRead
  fill : Option Fill
  /-- Scope of the latest release in program order (R278). -/
  rel : Option Scope
  /-- Released stores this context has read, by forms that acquire nothing themselves, since its latest fence that acquires
  (R278). -/
  reads : List ReadTag
  /-- The cycle by whose end its oldest buffered store is performed: an own-scratchpad store that found the buffer empty
  (R283). -/
  due : Option Nat
  /-- Open transfer sequences: (package, sequence number) (R292). -/
  seqs : List (Nat × Nat)
  /-- How many store-buffer entries have been performed: the model's own count (R326). -/
  drains : Nat
  /-- Cycle in which a half-done operation of this context began, and its step: probes of a STEAL, and the like. -/
  step : Nat
  deriving DecidableEq, Repr

/-- A context after reset. Fields whose Reset entry is L have no reset value in the spec (log entry 1); pc is the lowest
well-formed code address (R83). -/
def Ctx.reset : Ctx :=
  { x := Vector.replicate 32 0, v := Vector.replicate 16 0, k := Vector.replicate 8 0, pc := 2, fctxB := 0, fctxS := 0,
    scptrB := 0, scptrS := 0, shadow := false, fstat := 0, ctxid := 0, lcore := 0, stage := 0, taskf := 0, priv := 0,
    epc := 0, ecause := 0, eval := 0, tvec := 0, asid := 0, buf := [], run := .halted, why := none, lastIssue := none,
    eligFrom := 0, line := none, intv := false, entry := none, pendf := none, resume := none, armed := none, latent := [], recBad := false, reaping := false,
    taken := false, held := false, sent := false, undo := none, asyncs := [], walkFail := none, got := none, gotTags := [], bad := 0,
    badSys := [], merged := (0, 0), late := none, fill := none, rel := none, reads := [], due := none, seqs := [], drains := 0, step := 0 }

/-! ## Cores -/

/-- A line of an L1 data cache: its tag, and the rights and the attribute of the translation that installed it (R261, R413). -/
structure DLine where
  asid : Nat
  va : Nat
  pa : Nat
  r : Bool
  w : Bool
  x : Bool
  app : Bool
  cell : Bool
  dirty : Bool
  deriving DecidableEq, Repr

/-- A line of an L1 instruction cache, with what its translation granted (R261, R265, R413). -/
structure ILine where
  asid : Nat
  va : Nat
  data : Line
  r : Bool
  w : Bool
  x : Bool
  app : Bool
  cell : Bool
  deriving DecidableEq, Repr

/-- A full/empty form waiting at a port (R303). -/
structure FeWait where
  ctx : Nat
  op : FeOp
  loc : Nat
  d : XR
  data : Word
  deriving DecidableEq, Repr

/-- A trap delegated to the miller, or a PREEMPT (R430). -/
structure PendTrap where
  src : Nat
  cause : Nat
  val : Word
  async : Bool
  preempt : Bool
  deriving DecidableEq, Repr

/-- Pre-emption modes of a core (R442). -/
inductive Mode where
  | running | freezing | frozen | saved | restoring
  deriving DecidableEq, Repr

/-- What is kept of a core that is pre-empted (R442 to R445): its save block, the issuer of the PRMT with its ASID and
level, and the ASID and the launch of the saved work. -/
structure Saved where
  block : Nat
  issuer : Nat
  asid : Nat
  sys : Bool
  workAsid : Nat
  launch : Option Nat
  /-- The messages of the message area, in order: the area itself keeps no destination (R443, R444). -/
  msgs : List Msg
  /-- The PRMT or RSME that waits, and its register (R445). -/
  waiter : Option (Nat × XR)
  /-- By context number: traps and flags of asynchronous operations that the saved contexts are to get (R50, R233). -/
  asyncs : Tab (List AsyncTrap)
  flags : Tab Word
  /-- The count of RDCTs of the saved launch (R356). -/
  redCount : Vector Nat 4
  /-- SGMASK0 to SGMASK3 as they were saved, less the bits that ARVDs of the saved contexts have cleared since; and those bits
  (R321). -/
  sgmask : Vector Word 4
  cleared : Vector Word 4
  deriving DecidableEq, Repr

/-- A core (R61 to R70, R261, R303, R335, R386 to R398, R442, R446). -/
structure Core where
  dqbase : Word
  dqtop : Word
  dqbot : Word
  dqspill : Word
  nblk : Nat
  /-- The block a refill under way reads (R388). -/
  refill : Option Nat
  rho : BitVec 32
  sgmask : Vector Word 4
  /-- For each SGMASK register, one more than the cycle of the latest MTS to it (R64, R321). -/
  sgWrote : Vector Nat 4
  rq : List Msg
  spill : List Msg
  /-- The entry of the core's spill ring in HBM that holds each spilled message (R446). -/
  spillSlots : List Nat
  l1d : List DLine
  l1i : List ILine
  feq : List FeWait
  mode : Mode
  saved : Option Saved
  pending : List PendTrap
  sadv : BitVec 32
  launch : Option Nat
  lastAsid : Option Nat
  /-- Parameter windows: VA and bound size; a bound of 0 is unbound (R307, R368). -/
  windows : Vector (Word × Nat) 4
  /-- The physical column that serves the core (R30). -/
  pcol : Nat
  /-- Contexts stop at their next line boundary: 0 none, 1 every one but the miller (R442), 2 every one (R488). -/
  stop : Nat
  /-- No context issues until the column's temperature falls (R485). -/
  stalled : Bool
  /-- How many RDCTs of each channel its contexts have issued in the present launch (R356). -/
  redCount : Vector Nat 4
  /-- For the race trace: the stamp of this core's latest acquire at each scope code (R294). -/
  acquires : Tab Nat
  /-- Poisoned registers of the core, by number (R68, R467). -/
  badSys : List Nat
  /-- RDCTs that its contexts have issued and no engine has accepted, in order: context, channel and code address (R356). -/
  redOrder : List (Nat × Nat × Word)
  /-- What the core's ingress held during its latest migration, in order of arrival (R488). -/
  ingress : List Instr
  deriving DecidableEq, Repr

/-- A core after reset: R61, R62, R70, R259, R278, R376; caches and queues empty (log entries 1 and 2). -/
def Core.reset : Core :=
  { dqbase := 0, dqtop := 0, dqbot := 0, dqspill := 0, nblk := 0, refill := none, rho := 0,
    sgmask := Vector.replicate 4 0, sgWrote := Vector.replicate 4 0, rq := [], spill := [], spillSlots := [], l1d := [], l1i := [], feq := [], mode := .running,
    saved := none, pending := [], sadv := 0, launch := none, lastAsid := none, windows := Vector.replicate 4 (0, 0),
    pcol := 0, stop := 0, stalled := false, redCount := Vector.replicate 4 0, acquires := [], badSys := [], redOrder := [], ingress := [] }

/-! ## Clusters: translation, remap, slices, logs -/

/-- An entry of a translation slice (R412): 2^size bytes at va map to pa; rights, attribute and home descriptor of the
leaf (R416). `pin` names the contexts whose reissue or whose 4,096 cycles it must outlast. -/
structure TEntry where
  asid : Nat
  va : Nat
  size : Nat
  pa : Nat
  r : Bool
  w : Bool
  x : Bool
  app : Bool
  cell : Bool
  hdi : Nat
  pin : List Nat
  pinnedAt : Nat
  deriving DecidableEq, Repr

/-- How far a pending walk has come: the device walk; the ATS Translation Request (R421); a page request group that
waits for a credit, or is sent (R422, R423); a request to the host in its stead (R530). -/
inductive WalkPhase where
  | device | ats | pageWait | pageSent | assist
  deriving DecidableEq, Repr

/-- A pending walk of a translation slice (R420): its waiters in order of arrival, contexts and units that are none, and the rights
they need. -/
structure Walk where
  asid : Nat
  granule : Nat
  field : Nat
  waiters : List Nat
  phase : WalkPhase
  r : Bool
  w : Bool
  x : Bool
  /-- Some waiter needs r and w of one access (R419 order 8). -/
  rw : Bool
  /-- Some waiter runs at sys (R422). -/
  priv : Bool
  link : Nat
  /-- Rights its latest page request asked for: 1 r, 2 w, 4 x; and whether a further group has gone (R422). -/
  asked : Nat
  further : Bool
  /-- An invalidation has begun since the walk did: its result is not installed (R425). -/
  stale : Bool
  deriving DecidableEq, Repr

/-- A page that some slice has had an entry for, with what places the homes of its bytes (R271, R276, R418): an L1 line, or a
store on its way, may outlive the entry (R412, R413). -/
structure PageHome where
  asid : Nat
  va : Nat
  size : Nat
  pa : Nat
  part : Nat
  hdi : Nat
  cell : Bool
  deriving DecidableEq, Repr

/-- A line held by a store slice (R266), and its slot: half of a frame of the data array (R491). -/
structure SLine where
  pa : Nat
  dirty : Bool
  home : Bool
  slot : Nat
  deriving DecidableEq, Repr

/-- A ring of records: up to 64 of them, oldest first, its loss count, and how many of them, the newest, nobody has read (R294,
R473). -/
structure Ring where
  recs : List (BitVec 128)
  lost : Nat
  unread : Nat
  deriving DecidableEq, Repr

/-- An empty ring. -/
def Ring.empty : Ring := ⟨[], 0, 0⟩

/-- A migration request that waits at a cluster's sequencer (R487): the core, the cycle of its arrival, whether a sensor
raised it, whether a MIGR did, the cycle of its latest attempt if that found no spare,
and the spare that the host named (R530). -/
structure MigReq where
  core : Nat
  arrived : Nat
  sensor : Bool
  migr : Bool
  nospare : Option Nat
  named : Option Nat
  deriving DecidableEq, Repr

/-- A migration under way (R488): the core, its old and its new column, the cycle of step 1, whether the state has been
copied; what the core's ingress holds, in order of arrival; and the commands that have had a word held, by cluster, kind and number
(R489). -/
structure Mig where
  core : Nat
  src : Nat
  dst : Nat
  start : Nat
  copied : Bool
  waiting : List Instr
  redir : List (Nat × Nat × Nat)
  deriving DecidableEq, Repr

/-- MIGCNT (R490). -/
structure MigCount where
  moves : Nat
  held : Nat
  redir : Nat
  cycles : Nat
  deriving DecidableEq, Repr

/-- A store slice that is shut down (R491): the cycle t of the sample, the frames whose bit is set in the retained
bitmap, rising, how many frames have been sent, and whether its data arrays are off. -/
structure Shut where
  since : Nat
  frames : List Nat
  sent : Nat
  off : Bool
  deriving DecidableEq, Repr

/-! ## Engines (R344 to R367) -/

/-- Words lo to hi - 1 of a copy that are still to be written: word k of the run at key src goes to that of the run at dst. -/
structure Move where
  src : Nat
  dst : Nat
  lo : Nat
  hi : Nat
  deriving DecidableEq, Repr

/-- A command of a copy engine (R347 to R355): its words still to be written, its status so far, and the frame that a
CPYT has yet to push on the deque of a core. -/
structure EngCmd where
  seq : Nat
  who : Nat
  asid : Nat
  sc : Scope
  moves : List Move
  status : Nat
  push : Option (Nat × Word)
  /-- Its flits to other packages (R456). -/
  flits : List Nat
  /-- Issued while its core was restoring: the handler's own copy (R445). -/
  restorer : Bool
  deriving DecidableEq, Repr

/-- One core's contribution to a round of a reduction (R356 to R358): its channel, launch, rank and round; the key of its source; the
number and type of its elements; the operation; the FCTX captured; the runs of its destination, for the root; and
its result once it has been formed; and what the root has yet to write of it: keys, values and bytes. -/
structure Red where
  seq : Nat
  who : Nat
  asid : Nat
  sc : Scope
  ch : Nat
  launch : Nat
  rank : Nat
  round : Nat
  src : Nat
  n : Nat
  t : Nat
  op : RedOp
  fctx : Word
  dst : List (Nat × Nat)
  result : Option (List Nat)
  out : List (Nat × Nat × Nat)
  /-- The flags that it merges when it completes, and its flits to other packages (R50, R456). -/
  flags : Word
  flits : List Nat
  deriving DecidableEq, Repr

/-- The transfer of a tile (R361, R362): its step (0 none, 1 its data words, 2 the words that become empty, 3 its marker), the
words of the slot, by offset, that are still to be moved or emptied, and the runs of each of its rows. -/
structure TileWork where
  step : Nat
  left : List Nat
  rows : List (List (Nat × Nat))
  deriving DecidableEq, Repr
/-- No transfer. -/
def TileWork.none : TileWork := ⟨0, [], []⟩

/-- A subscription of a headrace (R359 to R363): its ring of ns slots of su units, its stream descriptor, the next tile
to fill, how many slots have been returned, and the HDENDs that wait for its end. -/
structure Sub where
  seq : Nat
  who : Nat
  asid : Nat
  sys : Bool
  sc : Scope
  ring : Nat
  su : Nat
  ns : Nat
  desc : BitVec 512
  tile : Nat
  returned : Nat
  stop : List (Nat × XR)
  /-- The fill of the next tile. -/
  work : TileWork
  deriving DecidableEq, Repr

/-- A return under way (R362): the subscription as it stood at acceptance, the slot and the tile it holds. -/
structure Ret where
  seq : Nat
  who : Nat
  asid : Nat
  sub : Sub
  slot : Nat
  tile : Nat
  sc : Scope
  work : TileWork
  /-- Its flits to other packages (R456). -/
  flits : List Nat
  deriving DecidableEq, Repr

/-- The status of a completed command (R364). -/
structure Done where
  kind : Nat
  seq : Nat
  status : Nat
  sc : Scope
  deriving DecidableEq, Repr

/-- A context that waits for a command of its cluster (R364). -/
structure Await where
  ctx : Nat
  kind : Nat
  seq : Nat
  d : XR
  deriving DecidableEq, Repr

/-! ## The optical matrix unit and the millwright (R189 to R235) -/

/-- A pass (R222): its token's number, the keys of its tile and destination, what the header and the descriptor say, the FCTX
captured, its policy, how far its streaming has come, its probe counts and its rows' exponents. `run` is 0 for the
first run, 1 and 2 for the high and the low vectors of split mode (R208). -/
structure Pass where
  seq : Option Nat
  who : Nat
  /-- The ASID it was issued under (R60). -/
  asid : Nat
  form : OptForm
  pol : Pol
  ofm : Ofm
  d : XR
  fctx : Word
  tile : Nat
  row0 : Nat
  rows : Nat
  rstride : Nat
  scoff : Nat
  dst : Nat
  dstride : Nat
  toff : Nat
  /-- The key of its tag array, which may lie in another scratchpad than its rows (R220). -/
  tag : Nat
  /-- The live image when the pass begins, and whether it is a switch image (R209). -/
  image : Nat
  exact : Bool
  run : Nat
  /-- Next row of this run, and whether its next symbol is a probe. -/
  row : Nat
  probe : Bool
  /-- Probe counts of this run still to come; the lowest value so far and the one the run ends with; and what the high
  vectors ended with (R206, R208). -/
  probes : List Nat
  eNow : Nat
  eFin : Nat
  eHigh : Nat
  mark : Bool
  split : Bool
  /-- Rows before this one carry lowered = 1 (R206). -/
  lowered : Nat
  exps : List (Nat × Int)
  flags : Word
  status : Nat
  /-- The governor has entered UNLOCKED: its rows to come get codes 0 (R203). -/
  aborted : Bool
  /-- Rows that have been read, and that their destination's ingress holds: their exponents and codes, and whether their source was
  poisoned (R489). -/
  late : List (Nat × Option Int × List Int × Bool)
  /-- It has streamed, and waits only for what such an ingress holds: the queue goes on without it. -/
  parked : Bool
  deriving DecidableEq, Repr

/-- A command of an OMU's queue (R200): a load with the key ranges of its image, a swap, a pass, a probe or a read of an image's
CRC. -/
inductive OptCmd where
  | load (seq who asid : Nat) (ranges : List (Nat × Nat))
  | swap (who : Nat) (d : XR)
  | pass (p : Pass)
  | prbe (who : Nat) (d : XR)
  /-- With its result, once every load and swap ahead of it is over (R231). -/
  | phcrc (who : Nat) (shadow : Bool) (d : XR) (word : Option Word)
  deriving DecidableEq, Repr

/-- An OMU (R65, R67, R199, R202, R545, R546): the governor's fields, its banks as images of 16,448 bytes, little-endian, and
the times its rules count from. -/
structure Omu where
  gov : Nat
  ebcmax : Nat
  temp : BitVec 12
  trim : Nat
  /-- The governor has reached LOCKED since it last entered UNLOCKED. -/
  locked : Bool
  live : Option Nat
  shadow : Option Nat
  loading : Bool
  queue : List OptCmd
  calibrating : Bool
  calData : Bool
  calEnd : Nat
  changed : Nat
  drifting : Nat
  /-- Lowest probe count since the last step of the temperature loop, and the cycle of that step. -/
  pmin : Nat
  loopAt : Nat
  /-- Heads that go to the queue and are not yet accepted, in order, each with the cycle in which it issued (R200, R218). -/
  waiting : List (Nat × OptForm × Nat)
  deriving DecidableEq, Repr
/-- An OMU after reset (R65, R199). -/
def Omu.reset : Omu :=
  { gov := 0, ebcmax := 0, temp := 0, trim := 0, locked := false, live := none, shadow := none, loading := false,
    queue := [], calibrating := false, calData := false, calEnd := 0, changed := 0, drifting := 0, pmin := 15, loopAt := 0,
    waiting := [] }

/-- A request to the millwright (R201, R229): the key ranges of the block and of the image with its report word; the words of
these that are formed and not yet written, by key and value; and what acceptance has made undefined: the key, the free value that stands
for it, and what it was. -/
structure Decomp where
  seq : Nat
  who : Nat
  asid : Nat
  bf : Bool
  fctx : Word
  block : List (Nat × Nat)
  image : List (Nat × Nat)
  out : List (Nat × Nat)
  old : List (Nat × Nat × Nat)
  deriving DecidableEq, Repr

/-- A cluster (R30, R65, R267, R412, R473). -/
structure Cluster where
  remap : Vector (BitVec 16) 64
  tlb : List TEntry
  walks : List Walk
  /-- Misses that wait for one of the 256 walks (R420). -/
  walkWait : List Nat
  /-- By unit, the answers that closed walks left for units that are no contexts (R361, R362, R373, R386). -/
  fails : List (Nat × WalkFail)
  carve : Nat
  lines : List SLine
  regRing : Ring
  spadRing : Ring
  l1Ring : Ring
  sliceRing : Ring
  faultRing : Ring
  spares : List Nat
  /-- Race trace rings of the four banks: enabled, records, loss (R294). -/
  trace : Vector (Bool × Ring) 4
  /-- The range table: for each entry the pass that holds it and the 256-byte blocks, by key / 256, that the OMU has
  yet to read (R214). -/
  ranges : List (Nat × List Nat)
  /-- Slot lending is suspended by a hot slice (R485). -/
  noLend : Bool
  /-- The cycle from which the slice's sensor samples next (R485). -/
  sampleAt : Nat
  /-- Emergency shutdown of the slice (R491), and the cycle from which its samples have stayed below 95 degrees (R492). -/
  shut : Option Shut
  coolFrom : Option Nat
  /-- The migration sequencer (R487 to R490). -/
  migReqs : List MigReq
  mig : Option Mig
  migCount : MigCount
  /-- Sequence counters: of R219 for kinds 0 to 2, then kinds 3 to 6 (R349). -/
  seqs : Vector (BitVec 32) 5
  /-- The kind of each command that has taken a number of the counter of R219 (R364). -/
  kinds : Tab Nat
  cmds : List EngCmd
  reds : List Red
  subs : List Sub
  rets : List Ret
  done : List Done
  awaits : List Await
  omu : Omu
  mill : List Decomp
  deriving DecidableEq, Repr

/-- A cluster after reset. -/
def Cluster.reset : Cluster :=
  { remap := Vector.replicate 64 0, tlb := [], walks := [], walkWait := [], fails := [], carve := 0, lines := [],
    regRing := .empty, spadRing := .empty, l1Ring := .empty, sliceRing := .empty, faultRing := .empty, spares := [],
    trace := Vector.replicate 4 (false, .empty),
    ranges := [], noLend := false, sampleAt := 0, shut := none, coolFrom := none, migReqs := [], mig := none,
    migCount := ⟨0, 0, 0, 0⟩, seqs := Vector.replicate 5 0, kinds := [], cmds := [], reds := [], subs := [], rets := [], done := [],
    awaits := [], omu := .reset, mill := [] }

/-! ## The machine -/

/-- How the head that has just been executed ended: it took effect, it trapped, or it must be issued again. -/
inductive Mark where
  | done | trapped | parked
  deriving DecidableEq, Repr

/-- The last write of a word (R276, R278, R294): the writing context, one of package q counted from 2^19 * (q + 1); the
scope of the release it carries; the model's stamp of the write; and whether it was performed at the word's home. -/
structure WTag where
  who : Nat
  rel : Option Scope
  stamp : Nat
  home : Bool
  deriving DecidableEq, Repr

/-- A sleeper of WAITV or SYNC, in its context's wait record (R333, R395): the context, whether its record stands in the
second bank because its core is saved (R442), the word it waits on, and the value it was woken with. -/
structure Sleeper where
  who : Nat
  saved : Bool
  sync : Bool
  loc : Nat
  wide : Bool
  woken : Option Word
  deriving DecidableEq, Repr

/-- Whether the head being executed issues alone, or as the first or the second of a pair (R87, R88). -/
inductive Pairing where
  | single | first | second
  deriving DecidableEq, Repr

/-- A sluice group (R320 to R328): the phase its tree counts; the phase each field's cores see as open; each core's
part of the member set of that phase, as context masks; the contexts that have arrived, with their phases, and those of them whose count
is pending; those that leave after it; the fields whose part of the phase has been reported to the root; the lost bit. -/
structure Group where
  tree : Nat
  views : Tab Nat
  parts : Tab Nat
  arrived : List (Nat × Nat)
  uncounted : List Nat
  drops : List Nat
  reported : List Nat
  lost : Bool
  /-- The cycle in which the open phase opened at each core: its part is fixed at the end of it (R64, R321). -/
  openedAt : Tab Nat
  deriving DecidableEq, Repr
/-- A group when its launch is placed (R320). -/
def Group.new : Group := ⟨0, [], [], [], [], [], [], false, []⟩

/-- A launch (R368 to R373): the context that issued it, its ASID, its core set in ascending order, its record and
shape record as read at acceptance, the cores placed so far, and its sluice groups by channel. -/
structure Launch where
  issuer : Nat
  asid : Nat
  cores : List Nat
  record : BitVec 2048
  shape : BitVec 1024
  placed : List Nat
  live : Bool
  /-- Its completion action is still to be performed (R373). -/
  acting : Bool
  /-- The LAUNCH that waits for the cores to be placed, and its register (R435). -/
  waiter : Option (Nat × XR)
  groups : Tab Group
  /-- Rounds of a channel's reductions that are broken: the channel, the round, the status, and whether every later round is
  broken with it (R358). -/
  redBad : List (Nat × Nat × Nat × Bool)
  deriving DecidableEq, Repr
/-- No launch. -/
def Launch.none : Launch := ⟨0, 0, [], 0, 0, [], false, false, .none, [], []⟩

/-- A host link: trained, AtomicOp completers reported (R448, R525), the Page Request Interface enabled and its
allocation of page requests (R423), and the writes its error log counts as dropped (R450). -/
structure HostLink where
  up : Bool
  atomics : Bool
  priOn : Bool
  alloc : Nat
  dropped : Nat
  /-- Page requests fail: after a Response Failure, or while the host has stopped the interface (R423). -/
  stopped : Bool
  /-- Page request groups that wait for a credit, in order: field, ASID and granule (R423). -/
  groups : List (Nat × Nat × Nat)
  /-- The completion of its latest read or AtomicOp: the data, or none for Unsupported Request (R448 to R450). -/
  completion : Option (Option Nat)
  deriving DecidableEq, Repr
/-- A host link after reset. -/
def HostLink.reset : HostLink := ⟨false, false, false, 0, 0, false, [], none⟩

/-- A function of the host links: its dispatcher table, HMSTAT and apertures, as base and size (R450, R451, R454). -/
structure Func where
  disp : Vector Word 16
  lastdrop : Nat
  dropped : Nat
  accepted : Nat
  apertures : List (Nat × Nat)
  /-- The MSI-X vectors that it has raised (R448, R529). -/
  msix : BitVec 64
  deriving DecidableEq, Repr
/-- A function after reset. -/
def Func.reset : Func := ⟨Vector.replicate 16 0, 0, 0, 0, [], 0⟩

/-! ## Columns: the vote and heat (R476 to R486) -/

/-- What a column has received from one neighbour: heartbeats, CRC failures and vote flits of the window, whether a
valid heartbeat of it came, and after an appeal the windows it has yet to hear (R477, R481). -/
structure Seen where
  window : Nat
  beats : Nat
  crcs : Nat
  flits : Nat
  /-- Flits whose headers have reserved bits set. -/
  rsv : Nat
  ok : Bool
  /-- Its deadline in the window has passed. -/
  judged : Bool
  appeal : Option Nat
  deriving DecidableEq, Repr
/-- Nothing received. -/
def Seen.none : Seen := ⟨0, 0, 0, 0, 0, false, false, .none⟩

/-- The health unit and the sensor of a physical column (R476 to R486). `told` holds the neighbours whose SUSPECT
notices have been delivered, `votes` and `refused` the neighbours that voted on its appeal. -/
structure Column where
  nbr : BitVec 4
  susp : BitVec 4
  told : BitVec 4
  votes : BitVec 4
  refused : BitVec 4
  miss : Vector Nat 4
  seen : Vector Seen 4
  state : Nat
  /-- Failed appeals, and failed self-tests (R481, R483). -/
  fails : Nat
  tests : Nat
  /-- The first window in which its next heartbeat may leave (R476, R481). -/
  beatFrom : Nat
  fencedAt : Nat
  temp : BitVec 12
  peak : BitVec 12
  sampled : Bool
  /-- The cycle from which its sensor samples next (R485). -/
  sampleAt : Nat
  therm : Nat
  nospare : Bool
  moves : Nat
  deriving DecidableEq, Repr
/-- A column after reset. -/
def Column.reset : Column :=
  { nbr := 0, susp := 0, told := 0, votes := 0, refused := 0, miss := Vector.replicate 4 0,
    seen := Vector.replicate 4 .none, state := 0, fails := 0, tests := 0, beatFrom := 0, fencedAt := 0, temp := 0, peak := 0, sampled := false, sampleAt := 0,
    therm := 0, nospare := false, moves := 0 }

/-! ## Port sites and management -/

/-- A port site (R457 to R462): its status record, the peers whose cache entry is valid, the connected time in
nanoseconds of each peer under full bring-up, and how many slots of the group had begun when it last began one. -/
structure Port where
  state : Nat
  skew : Bool
  run : Nat
  offset : BitVec 16
  relockf : Nat
  skipped : Nat
  refused : Nat
  valid : List Nat
  bringUp : Tab Nat
  slot : Nat
  /-- Flits of other packages in its relay buffer: destination, source, sequence number, and whether it has been
  forwarded (R459). -/
  relay : List (Nat × Nat × Nat × Bool)
  /-- Acknowledgements that wait for the control wavelength: the source package, the number, and whether it was received (R456). -/
  acks : List (Nat × Nat × Bool)
  deriving DecidableEq, Repr
/-- A port site after reset. -/
def Port.reset : Port := ⟨0, false, 0, 0, 0, 0, 0, [], [], 0, [], []⟩

/-- What a flit or a marker carries to another package: bytes for a place, with the transfer sequence they belong to (R292); the
completion marker of a sequence, with its flag's place and value and the numbers of the sequence's flits (R292, R317); a message (R335,
R341), with the register its status goes to; the status of a message that came from there (R338); or the answer to a read or an atomic
of a context there, none for a refusal (R464). Data and markers carry the source and the target partition (R456). -/
inductive FlitBody where
  | data (a : Nat) (bytes : List Byte) (tseq : Nat) (parts : Nat × Nat)
  | marker (a : Nat) (data : Word) (tseq : Nat) (after : List Nat) (parts : Nat × Nat)
  | message (m : Msg) (d : XR)
  | status (m : Msg) (code : Nat)
  | answer (ctx : Nat) (v : Option Nat)
  deriving DecidableEq, Repr

/-- A flit or marker of this module that its receiver has not acknowledged (R456, R459, R460): its sequence number,
destination package, issuing context, what it carries, and the port site that sends it in the current slot. -/
structure OutFlit where
  seq : Nat
  pkg : Nat
  ctx : Nat
  body : FlitBody
  sent : Option Nat
  /-- Its direct circuit was unavailable in its latest direct slot (R459). -/
  blocked : Bool
  deriving DecidableEq, Repr

/-- Requests to the host in host-assisted mode, by the unit that waits (R530). -/
inductive Assist where
  /-- PHWR of a context, in its millwright. -/
  | decompose (cluster : Nat)
  | calibrate (cluster : Nat)
  | page (field asid granule : Nat)
  | readmit (col : Nat)
  | relock (port peer : Nat)
  | migrate (core : Nat)
  deriving DecidableEq, Repr

/-- The management controller (R525 to R534): slots A and B hold the security version of an image that verifies; the
running slot, or recovery; requests to the host by tag; responses and reports held for the ring, and reports dropped. -/
structure Mgmt where
  vmain : Bool
  slotA : Option Nat
  slotB : Option Nat
  running : Option Bool
  runVersion : Nat
  fuseMin : Nat
  unlocked : Bool
  modes : BitVec 8
  /-- Modes that come into force once the response to the SET_CTRL that gave them is written (R530). -/
  newModes : Option (BitVec 8)
  reserve : Nat
  named : Tab (List Nat)
  calInterval : Nat
  priCap : Nat
  scrub : Tab Nat
  injection : Bool
  assists : List (Nat × Assist)
  nextTag : Nat
  /-- A command is being served (R529). -/
  busy : Bool
  /-- The response to the last command waits for room, so no further command starts (R529). -/
  waiting : Option (BitVec 512)
  held : List (BitVec 512)
  dropped : Nat
  /-- Inventory records change in memory at the next update (R531). -/
  stale : Bool
  /-- Events that cores have reported and that are yet to be written as reports (R429). -/
  alarms : Nat
  /-- Invalidations under way: the tag of an INVAL, none for an ATS request; ASID or all; VA range (R424, R425). -/
  invals : List (Option Nat × Option Nat × Nat × Nat)
  deriving DecidableEq, Repr
/-- The management controller after reset (R31, R472, R530). What the fuses hold before the first reset is not stated: the fused
minimum is 0 here, and a later reset leaves it as it stands (DESIGN CHOICE, log entry 74). -/
def Mgmt.reset : Mgmt :=
  { vmain := false, slotA := none, slotB := none, running := none, runVersion := 0, fuseMin := 0, unlocked := false,
    modes := 0, newModes := none, reserve := 1, named := [], calInterval := 0, priCap := 512, scrub := [], injection := false, assists := [],
    nextTag := 0, busy := false, waiting := none, held := [], dropped := 0, stale := false, alarms := 0, invals := [] }

/-- The state of one module. -/
structure State where
  /-- Bytes of memory: R253, R268; in canonical form. -/
  mem : List Host.Cell
  /-- Scratchpad words that are empty, by the key of their first byte, rising (R259). -/
  empties : List Nat
  /-- Poisoned 8-byte words, by the key of their first byte, rising (R470). -/
  poison : List Nat
  /-- Cells that have been written since their page was mapped, by the key of their first byte, rising (R238). -/
  cells : List Nat
  /-- Pages that have been installed in a slice, the latest first. -/
  pages : List PageHome
  ctxs : Tab Ctx
  cores : Tab Core
  clus : Tab Cluster
  /-- RDYMAP (R66). -/
  rdy : Vector Word 32
  /-- RDYMAP at the end of the previous cycle, and the bits set in this cycle (R527). -/
  rdySeen : Vector Word 32
  rdyNew : Vector Word 32
  /-- Partition records (R407). -/
  parts : Vector (BitVec 256) 32
  /-- The module's package number and the size n of its rotor group (R457). -/
  pkg : Nat
  groupN : Nat
  /-- Sleepers in their order of arrival at the homes (R331). -/
  sleepers : List Sleeper
  /-- Contexts that wait for an entry of a home's table of waited words, in arrival order: the home, the context, and
  the test that is to be made (R333). -/
  entryWait : List (Nat × Nat × Instr)
  /-- Launches by their number, and how many there have been (R368 to R373). -/
  launches : Tab Launch
  nLaunch : Nat
  /-- Error log rings of the HBM4 stacks, of the fields' mesh links, and of the port sites (R473). -/
  stackRings : Tab Ring
  meshRings : Tab Ring
  siteRings : Tab Ring
  /-- The two host links (R420 to R423, R448, R525). -/
  links : Tab HostLink
  /-- Clusters whose slot lending the power cap suspends: those below this key; and the measurements of the past 100 µs in
  watts, oldest first (R538). -/
  powerCap : Nat
  power : List Nat
  /-- Functions of the host links: 0 the PF, n VF n (R449). -/
  funcs : Tab Func
  /-- Physical columns (R476 to R486). -/
  cols : Tab Column
  /-- Port sites, and the traffic of ENL: flits sent and not acknowledged; the sequence numbers committed here by source package;
  the transfer sequences of which a part was refused, by source package, context and number (R456, R464). -/
  ports : Tab Port
  outFlits : List OutFlit
  flitSeq : Nat
  enlSeen : List (Nat × Nat)
  enlRefused : List (Nat × Nat × Nat)
  /-- The number of the next message that goes to, and of the next that is delivered from, another package, by source, destination and
channel (R465). -/
  msgOut : Tab Nat
  msgIn : Tab Nat
  /-- How many slots of the rotor group have begun (R457). -/
  slots : Nat
  /-- Of each scrubber, the unit that it visits next and the cycle from which it does (R472). -/
  scrubAt : Tab (Nat × Nat)
  /-- Comb light at the four sites (R541). -/
  light : BitVec 4
  mgmt : Mgmt
  /-- The last write of each word that a context wrote (R278, R294). -/
  wtags : Tab WTag
  /-- Counter of performed writes and acquires: the model's own order of them (R294). -/
  stamp : Nat
  cycle : Nat
  /-- Events that are pending: posted by a step, or put here by the outside world (log entries 6 and 10). -/
  agenda : List Instr
  /-- Cores of a lower rank have had their slot in this cycle; and the core of rank 0, which the spec does not choose
(R382). -/
  turn : Nat
  first : Nat
  /-- The context whose head is being executed. -/
  cur : Nat
  /-- How the head being executed issues. -/
  pairing : Pairing
  mark : Mark
  /-- Counter of the free values. -/
  free : Nat
  deriving DecidableEq, Repr

/-- Why a step stops. -/
inductive Fault where
  /-- A step names a unit the module does not have. No meaning raises it: an event that names none changes nothing.
Safe: an outcome that never arises proves nothing false. -/
  | noSuchUnit
  deriving DecidableEq, Repr

/-- Why an instruction has no meaning in this model. -/
inductive Refusal where
  /-- The instruction has no meaning yet. Raised by `exec`'s own arm. Safe: nothing is claimed of it. -/
  | notModelled (mnemonic : String)
  deriving DecidableEq, Repr

/-- The outcome of a step. -/
abbrev Out : Type := Host.Outcome State Fault Refusal

/-- The machine right after reset. -/
def State.reset : State :=
  { mem := [], empties := [], poison := [], cells := [], pages := [], ctxs := [], cores := [], clus := [],
    rdy := Vector.replicate 32 0, rdySeen := Vector.replicate 32 0, rdyNew := Vector.replicate 32 0, parts := Vector.replicate 32 0, pkg := 0, groupN := 1, sleepers := [],
    entryWait := [], launches := [], nLaunch := 0, stackRings := [], meshRings := [], siteRings := [], links := [],
    powerCap := 0, power := [], funcs := [], cols := [], ports := [], outFlits := [], flitSeq := 0, enlSeen := [], enlRefused := [], msgOut := [], msgIn := [], slots := 0, scrubAt := [],
    light := 0, mgmt := .reset, wtags := [],
    stamp := 0, cycle := 0, agenda := [], turn := 0, first := 0, cur := 0,
    pairing := .single, mark := .done, free := 0 }

end Sys2Proof.Machine
end

