-- ==== Sys2Proof/Machine/Ops.lean ====
section
/-! DEFINITION. The named operations of the machine: tables, units by their keys, registers, bytes and words of
memory, the flow of heads (R83, R84), and taking a trap and returning from one (R428 to R430, R434). -/
namespace Sys2Proof.Machine

/-! ## Tables -/

/-- The entry of key k, or the default. -/
def tget {α : Type} (t : Tab α) (k : Nat) (d : α) : α :=
  match t with
  | [] => d
  | (j, a) :: t => if j = k then a else tget t k d

/-- Set the entry of key k. -/
def tset {α : Type} (t : Tab α) (k : Nat) (a : α) : Tab α :=
  match t with
  | [] => [(k, a)]
  | (j, b) :: t => if k < j then (k, a) :: (j, b) :: t else if j = k then (k, a) :: t else (j, b) :: tset t k a

/-! ## Sorted sets of keys -/

/-- Put a key into a rising list. -/
def kput (l : List Nat) (k : Nat) : List Nat :=
  match l with
  | [] => [k]
  | j :: l => if k < j then k :: j :: l else if j = k then j :: l else j :: kput l k

/-- Take a key out of a list. -/
def kdel (l : List Nat) (k : Nat) : List Nat := l.filter (· != k)

/-! ## Units -/

/-- Context of a key. -/
def State.ctx (s : State) (c : Nat) : Ctx := tget s.ctxs c Ctx.reset
/-- Replace a context. -/
def State.setCtx (s : State) (c : Nat) (x : Ctx) : State := { s with ctxs := tset s.ctxs c x }
/-- Change a context. -/
def State.mapCtx (s : State) (c : Nat) (f : Ctx → Ctx) : State := s.setCtx c (f (s.ctx c))
/-- The context whose head is being executed. -/
def State.me (s : State) : Ctx := s.ctx s.cur
/-- Replace the executing context. -/
def State.setMe (s : State) (x : Ctx) : State := s.setCtx s.cur x
/-- Change the executing context. -/
def State.mapMe (s : State) (f : Ctx → Ctx) : State := s.setMe (f s.me)
/-- Core of a key. -/
def State.core (s : State) (n : Nat) : Core := tget s.cores n Core.reset
/-- Replace a core. -/
def State.setCore (s : State) (n : Nat) (x : Core) : State := { s with cores := tset s.cores n x }
/-- Change a core. -/
def State.mapCore (s : State) (n : Nat) (f : Core → Core) : State := s.setCore n (f (s.core n))
/-- Key of the core of a context. -/
def coreOf (c : Nat) : Nat := c / 16
/-- Number of a context in its core; 0 is the miller. -/
def ctxNo (c : Nat) : Nat := c % 16
/-- Key of the cluster of a core. -/
def clusterOf (n : Nat) : Nat := n / 64
/-- Field of a core. -/
def fieldOf (n : Nat) : Nat := n / 1024
/-- Cluster of a key. -/
def State.clu (s : State) (n : Nat) : Cluster := tget s.clus n Cluster.reset
/-- Replace a cluster. -/
def State.setClu (s : State) (n : Nat) (x : Cluster) : State := { s with clus := tset s.clus n x }
/-- Change a cluster. -/
def State.mapClu (s : State) (n : Nat) (f : Cluster → Cluster) : State := s.setClu n (f (s.clu n))
/-- Key of the core of the executing context. -/
def State.myCore (s : State) : Nat := coreOf s.cur
/-- Put an event on the agenda. -/
def State.post (s : State) (e : Instr) : State := { s with agenda := s.agenda ++ [e] }
/-- An event that cannot happen yet waits on, ahead of every later event of its kind (log entry 49). -/
def State.again (s : State) (e : Instr) : State := { s with agenda := e :: s.agenda }
/-- A wait for accesses that are under way: a head in it is never withdrawn, but takes effect before a stop takes its context
(R140, R256). -/
def Why.firm : Why → Bool
  | .buffer _ | .order _ _ | .cells _ | .moving => true
  | _ => false
/-- A wait after which a head is issued anew, or before it has issued: its translation or its line is absent, or its access is parked
(R85, R380, R444). -/
def Why.reissues : Why → Bool
  | .parked | .saved | .line => true
  | _ => false
/-- The executing head must be issued again: it has no effect but this. One that is held at its place is never withdrawn
(R256). -/
def State.park (s : State) (w : Why) : State :=
  { s.mapMe (fun c => { c with why := some w, held := w == .moving || (c.held && w.firm), sent := !w.reissues }) with mark := .parked }
/-- A context is back in the rotation from the next cycle (R376). -/
def State.wake (s : State) (c : Nat) : State :=
  s.mapCtx c fun x => { x with why := none, eligFrom := Nat.max x.eligFrom (s.cycle + 1) }
/-- The next free value, and the state that has used it. -/
def State.freeNat (s : State) (bound : Nat) : Nat × State :=
  ((Config.freeWord s.free).toNat % bound, { s with free := s.free + 1 })

/-! ## Bit fields -/

/-- Bits h down to l of a value (R13). -/
def bits (v h l : Nat) : Nat := v / 2 ^ l % 2 ^ (h + 1 - l)
/-- Replace bits [l + w - 1 : l] of a word. -/
def setField (v : Word) (l w : Nat) (x : Word) : Word :=
  let m : Word := BitVec.ofNat 64 ((2 ^ w - 1) * 2 ^ l)
  (v &&& ~~~m) ||| ((x <<< l) &&& m)
/-- Round up to a multiple. -/
def divUp (a b : Nat) : Nat := (a + b - 1) / b

/-! ## Registers (R39, R40, R79) -/

/-- Register code of an x register in the poison map. -/
def xBad (n : Nat) : BitVec 64 := (1#64) <<< n

/-- Read an x register: x0 reads zero. -/
def Ctx.getX (c : Ctx) (n : XR) : Word := if n = 0 then 0 else c.x[n]
/-- Read an x-class source (R79). -/
def Ctx.getS (c : Ctx) : XS → Word
  | .x n => c.getX n
  | .pc => c.pc
/-- Read a v-class operand: vz reads zero. -/
def Ctx.getV (c : Ctx) : VR → VWord
  | .v n => c.v[n]
  | .vz => 0
/-- Read a k register: k0 reads all ones. -/
def Ctx.getK (c : Ctx) (n : KR) : KWord := if n = 0 then BitVec.allOnes 32 else c.k[n]
/-- Write an x register: a write to x0 is discarded. A write replaces poison (R470). -/
def Ctx.setX (c : Ctx) (n : XR) (v : Word) : Ctx :=
  if n = 0 then c else { c with x := c.x.set n v, bad := c.bad &&& ~~~(xBad n.val) }
/-- Write a v register: a write to vz is discarded. -/
def Ctx.setV (c : Ctx) (r : VR) (v : VWord) : Ctx :=
  match r with
  | .v n => { c with v := c.v.set n v, bad := c.bad &&& ~~~(xBad (32 + n.val)) }
  | .vz => c
/-- Write a k register: a write to k0 is discarded. -/
def Ctx.setK (c : Ctx) (n : KR) (v : KWord) : Ctx :=
  if n = 0 then c else { c with k := c.k.set n v, bad := c.bad &&& ~~~(xBad (48 + n.val)) }
/-- FCTX in force (R48). -/
def Ctx.fctx (c : Ctx) : Word := if c.shadow then c.fctxS else c.fctxB
/-- SCPTR in force (R48). -/
def Ctx.scptr (c : Ctx) : Word := if c.shadow then c.scptrS else c.scptrB
/-- Write the FCTX in force. -/
def Ctx.setFctx (c : Ctx) (v : Word) : Ctx := if c.shadow then { c with fctxS := v } else { c with fctxB := v }
/-- Write the SCPTR in force. -/
def Ctx.setScptr (c : Ctx) (v : Word) : Ctx := if c.shadow then { c with scptrS := v } else { c with scptrB := v }
/-- FCTX.rmode (R44). -/
def rmodeOf (fctx : Word) : Nat := bits fctx.toNat 2 0
/-- FCTX.ebcmin (R44). -/
def ebcminOf (fctx : Word) : Nat := bits fctx.toNat 6 3
/-- FCTX.ftz (R44). -/
def ftzOf (fctx : Word) : Bool := fctx.getLsbD 7
/-- FCTX.seed (R44). -/
def seedOf (fctx : Word) : Nat := bits fctx.toNat 63 32
/-- PRIV.lvl = 1 (R56). -/
def Ctx.sys (c : Ctx) : Bool := c.priv.getLsbD 0
/-- The level as a bit. -/
def lvlBit (b : Bool) : Word := if b then 1 else 0
/-- Set bits of FSTAT (R49). -/
def Ctx.flag (c : Ctx) (f : Word) : Ctx := { c with fstat := c.fstat ||| f }
/-- Write a 64-bit result to an x register of the executing context. -/
def State.putX (s : State) (n : XR) (v : Word) : State := s.mapMe (·.setX n v)
/-- Write a v register of the executing context. -/
def State.putV (s : State) (r : VR) (v : VWord) : State := s.mapMe (·.setV r v)
/-- Write a k register of the executing context. -/
def State.putK (s : State) (n : KR) (v : KWord) : State := s.mapMe (·.setK n v)

/-! ## The code line and the flow of heads (R71 to R86) -/

/-- Parcel k of a code line (R71). -/
def lineParcel (d : Line) (k : Nat) : Parcel := d.extractLsb' (16 * k) 16
/-- H of a line word (R72). -/
def lineHeads (d : Line) : Nat := (d.extractLsb' 0 5).toNat
/-- S(h): tail parcels carried by heads 1 to h - 1 (R73). -/
def tailsBefore (d : Line) : Nat → Nat
  | 0 => 0
  | 1 => 0
  | h + 2 => tailsBefore d (h + 1) + (headT (lineParcel d (h + 1))).toNat
/-- The head parcel and the tail parcels of head h (R73). -/
def headParcels (d : Line) (h : Nat) : List Parcel :=
  let hp := lineParcel d h
  let s := tailsBefore d h
  hp :: (List.range (headT hp).toNat).map fun k => lineParcel d (32 - s - (k + 1))
/-- The head index of a code address (R41). -/
def headIndex (pc : Word) : Nat := bits pc.toNat 5 1
/-- The line address of a code address (R82). -/
def lineAddr (pc : Word) : Nat := pc.toNat / 64 * 64
/-- A code address is well formed (R83). -/
def goodPc (a : Nat) : Bool := a < 2 ^ 56 && a % 2 == 0 && a / 2 % 32 != 0
/-- H of the line the context issues from; 31 where it issues from none. -/
def Ctx.heads (c : Ctx) : Nat := (c.line.map fun l => lineHeads l.data).getD 31
/-- next_pc of the executing head (R83), before it is known to be well formed. -/
def State.nextPc (s : State) : Nat :=
  let c := s.me
  let h := headIndex c.pc + (if s.pairing = .first then 1 else 0)
  if h < c.heads then lineAddr c.pc + 2 * (h + 1) else lineAddr c.pc + 64 + 2
/-- The code address a trap of the executing head saves: its own, or its pair's first head (R89). -/
def State.headPc (s : State) : Word := if s.pairing = .second then s.me.pc - 2 else s.me.pc
/-- The first parcels of the executing head, as ILLEGAL_INSTR shows them (R427). -/
def State.headEval (s : State) : Word :=
  match s.me.line with
  | none => 0
  | some l =>
    let ps := headParcels l.data (headIndex s.me.pc)
    (ps.getD 0 0).setWidth 64 ||| ((ps.getD 1 0).setWidth 64 <<< 16)
/-- Control passes to a code address; a transfer leaves the line (R86, R92). -/
def Ctx.goto (c : Ctx) (a : Nat) : Ctx := { c with pc := BitVec.ofNat 64 a, line := none, held := false, sent := false, recBad := false }
/-- Control steps on to a code address: the line is kept while control stays in it (R86). -/
def Ctx.stepTo (c : Ctx) (a : Nat) : Ctx :=
  { c with pc := BitVec.ofNat 64 a, line := if a / 64 * 64 = lineAddr c.pc then c.line else none, held := false,
           sent := false, recBad := false }

/-! ## Taking a trap, and returning from one (R428 to R430, R434) -/

/-- ECAUSE of a trap (R58). -/
def ecauseOf (src : Nat) (deleg async : Bool) (cause : Nat) : Word :=
  BitVec.ofNat 64 (src % 16 * 4096 + (if deleg then 2048 else 0) + (if async then 1024 else 0) + cause % 256)
/-- The address a trap is taken at: TVEC.addr (R58). -/
def tvecAddr (t : Word) : Nat := bits t.toNat 55 1 * 2
/-- The number under which the model keeps the poison of a context's pc (R68, R467). -/
def pcNumber : Nat := 4096
/-- The poisoned system registers of a context that takes a trap: ECAUSE and EVAL are written whole, EPC has what the pc was (R470);
`left` says that the pc is written whole too. -/
def trapBad (left : Bool) (l : List Nat) : List Nat :=
  let l' := l.filter fun n => (n < 0x101 || 0x103 < n) && !(left && n == pcNumber)
  if l.contains pcNumber then kput l' 0x101 else l'
/-- Hold a context and queue its trap for the miller (R430, steps 1 to 3). -/
def delegate (s : State) (i cause : Nat) (val epc : Word) (async : Bool) : State :=
  let s := s.mapCtx i fun c =>
    { c with run := .held, why := none, taken := false, held := false, sent := false, epc := epc, eval := val,
             ecause := ecauseOf (ctxNo i) true async cause, badSys := trapBad false c.badSys }
  (s.mapCore (coreOf i) fun k => { k with pending := k.pending ++ [⟨ctxNo i, cause, val, async, false⟩] }).post
    (.millerTakeTrap (coreOf i))
/-- The launch that owns a core may be over: its end is looked at (R373). -/
def State.seeLaunch (s : State) (n : Nat) : State :=
  match (s.core n).launch with
  | some l => s.post (.launchEnd l)
  | none => s
/-- Halt a context as HALT halts it (R147); an armed error is dropped (R441), and a trap of an asynchronous operation that
it has yet to take is passed on (R232). -/
def haltCtx (s : State) (i : Nat) : State :=
  let s := if (s.ctx i).asyncs.isEmpty then s else s.post (.asyncTrapTake i)
  (s.mapCtx i fun c => { c with run := .halted, why := none, line := none, armed := none, reaping := false, taken := false, held := false, sent := false }).seeLaunch (coreOf i)
/-- DOUBLE_TRAP of context i (R429): the first trap's registers stand; the miller is halted and its core reports, any
other context is held and its trap delegated. The report is written by the management controller's next action. -/
def doubleTrap (s : State) (i first second : Nat) : State :=
  let val : Word := BitVec.ofNat 64 (first % 256 + second % 256 * 256)
  if ctxNo i = 0 then
    let s := s.mapCtx i fun c => { c with eval := val, ecause := (c.ecause &&& ~~~(0xFF#64)) ||| 9, entry := none }
    let s := haltCtx s i
    ({ s with mgmt := { s.mgmt with alarms := s.mgmt.alarms + 1 } } : State).post .inventoryUpdate
  else
    let async := (s.ctx i).ecause.getLsbD 10
    delegate (s.mapCtx i fun c => { c with entry := none }) i 9 val (s.ctx i).epc async
/-- Enter the handler of context i (R428): save, raise the level, and transfer control to TVEC.addr. A TVEC address
that is not well formed is a trap during trap entry (R429). -/
def enterTrap (s : State) (i src cause : Nat) (val epc : Word) (deleg async : Bool) : State :=
  let s := s.mapCtx i fun c =>
    { c with epc := epc, eval := val, ecause := ecauseOf src deleg async cause
             badSys := trapBad (goodPc (tvecAddr c.tvec)) c.badSys }
  let a := tvecAddr (s.ctx i).tvec
  if goodPc a then
    s.mapCtx i fun c =>
      { c.goto a with priv := lvlBit c.sys <<< 1 ||| 1, intv := true, entry := some cause, why := none }
  else doubleTrap s i cause 0x02
/-- take_trap of R428 for context i. One that was out of the rotation is back in it from the next cycle (R376). -/
def takeTrap (s : State) (i cause : Nat) (val epc : Word) (async : Bool) : State :=
  let s := if (s.ctx i).why.isSome then s.wake i else s
  if ctxNo i ≠ 0 ∧ (s.ctx i).tvec.getLsbD 0 then delegate s i cause val epc async
  else enterTrap s i (ctxNo i) cause val epc false async
/-- A core is saved or restoring under this ASID, so its traffic is held (R444). -/
def State.savedFor (s : State) (n asid : Nat) : Bool :=
  let k := s.core n
  (k.mode == .saved || k.mode == .restoring) && ((k.saved.map (·.workAsid)).getD 0 == asid && k.saved.isSome)
/-- The port of a core makes no update for traffic under this ASID while the core changes hands (R401, R444). -/
def State.portFrozen (s : State) (n asid : Nat) : Bool :=
  let k := s.core n
  k.mode == .freezing || k.mode == .frozen || s.savedFor n asid
/-- A deque has a core that runs behind it: its own, or the occupant of a saved one (R388, R444). -/
def State.portRuns (s : State) (n : Nat) : Bool :=
  let k := s.core n
  k.mode == .running || k.mode == .saved && k.launch.isSome
/-- Change what is kept of a saved core. -/
def State.mapSaved (s : State) (n : Nat) (f : Saved → Saved) : State :=
  s.mapCore n fun k => { k with saved := k.saved.map f }
/-- An asynchronous operation of a context merges its flags (R50): a context that is saved gets them when it is loaded
again. -/
def State.mergeFlags (s : State) (i asid : Nat) (f : Word) : State :=
  let n := coreOf i
  let s := if (s.core n).mode == .frozen || s.savedFor n asid then
      s.mapSaved n fun k => { k with flags := tset k.flags (ctxNo i) (tget k.flags (ctxNo i) 0 ||| f) }
    else s
  if s.savedFor n asid then s
  else s.mapCtx i fun c =>
    { c.flag f with merged := (s.cycle, if c.merged.1 = s.cycle then c.merged.2 ||| f else f),
                    undo := c.undo.map fun u => { u with flags := u.flags &&& ~~~f } }
/-- An asynchronous operation of a context raises a trap, taken before the next head the context issues; a halted
context passes it on (R232), and a saved one gets it when it runs again (R233). -/
def State.raiseAsync (s : State) (i asid cause : Nat) (val : Word) : State :=
  if s.savedFor (coreOf i) asid then
    s.mapSaved (coreOf i) fun k => { k with asyncs := tset k.asyncs (ctxNo i) (tget k.asyncs (ctxNo i) [] ++ [⟨cause, val⟩]) }
  else
  let s := s.mapCtx i fun c => { c with asyncs := c.asyncs ++ [⟨cause, val⟩] }
  if (s.ctx i).run = .halted then s.post (.asyncTrapTake i) else s
/-- What the latest head, or pair, of a context changed in its registers is taken back (R89, R428). -/
def Ctx.undone (c : Ctx) : Ctx :=
  match c.undo with
  | none => c
  | some u =>
    { c with pc := u.pc, x := u.x, v := u.v, k := u.k, bad := u.bad, fstat := c.fstat &&& ~~~u.flags, late := none, fill := none,
             undo := none }
/-- The head that a context has sent to a unit traps there: it has no effect (R89, R428, R471). -/
def State.lateTrap (s : State) (c cause : Nat) (val : Word) : State :=
  let s := s.mapCtx c Ctx.undone
  takeTrap s c cause val (s.ctx c).pc false
/-- The access that a head has sent finds its core saved: its context parks, and issues the head again (R380, R444). -/
def State.unsend (s : State) (c : Nat) : State := s.mapCtx c fun x => { x.undone with why := some .saved, sent := false }
/-- A trap of a context is raised after the effect of its latest head stands, with EPC at the next head (R400, R428): a context that
is held for it stands at the head that trapped (R438). -/
def State.trapAfter (s : State) (c cause : Nat) (val : Word) : State :=
  let at_ := ((s.ctx c).undo.map (·.pc)).getD (s.ctx c).pc
  let t := takeTrap s c cause val (s.ctx c).pc false
  if (t.ctx c).run = .held then t.mapCtx c fun x => { x with pc := at_ } else t
/-- The state before a pair, from the one its second head starts in (R89). -/
def State.unpaired (s : State) : State := if s.pairing = .second then s.mapMe fun c => { c with pc := c.pc - 2 } else s
/-- The executing head traps: every effect it or its pair partner had is discarded, s being the state before it. -/
def State.trapTo (s : State) (cause : Nat) (val epc : Word) : State :=
  { takeTrap s.unpaired s.cur cause val epc false with mark := .trapped }
/-- A precise trap of the executing head, with its own code address as EPC. -/
def State.trap (s : State) (cause : Nat) (val : Word) : State := s.trapTo cause val s.headPc
/-- ILLEGAL_INSTR, RESERVED_FIELD or PRIVILEGE of the executing head (R427). -/
def State.trapHead (s : State) (cause : Nat) : State := s.trap cause s.headEval
/-- An illegal-line trap or a fetch fault at the head where control stands: during trap entry it is a DOUBLE_TRAP
(R84, R85, R429). -/
def State.trapAtTarget (s : State) (cause : Nat) (val : Word) : State :=
  match s.me.entry with
  | some first => { doubleTrap s s.cur first cause with mark := .trapped }
  | none => s.trapTo cause val s.me.pc

/-! ## Ending a head -/

/-- Control may step on from the executing head (R84). The second head of a pair makes no step of its own: control passes as
the first one says (R88). -/
def State.stepsOn (s : State) : Bool := s.pairing == .second || goodPc s.nextPc
/-- The head has had its effect, s' being the state with it, and control steps on (R83). A next address that is not
well formed makes the head trap with no effect (R84). -/
def retire (s s' : State) : Out :=
  if s.stepsOn then .next { s'.mapMe (·.stepTo s.nextPc) with mark := .done }
  else .next (s.trap 0x02 (BitVec.ofNat 64 s.nextPc))
/-- The head has had its effect and transfers control to a code address (R84). -/
def transfer (s s' : State) (target : Nat) : Out :=
  if goodPc target then .next { s'.mapMe (·.goto target) with mark := .done }
  else .next (s.trap 0x02 (BitVec.ofNat 64 target))
/-- The head has had its effect; its result is in place and its context rejoins the rotation L cycles after the issue
(R139). -/
def retireAfter (s s' : State) (l : Nat) : Out :=
  retire s (s'.mapMe fun c => { c with eligFrom := s.cycle + l })
/-- The head is a long op with its result in place; its context rejoins when the reply arrives (R91). -/
def retireLong (s s' : State) : Out :=
  retire s ((s'.mapMe fun c => { c with why := some .longOp }).post (.longOpReply s.cur))
/-- The address after a BRK or a TRAP, as EPC holds it: its bits 63 to 56 are reserved and zero, past the topmost line too (R8, R58,
R434). -/
def State.epcNext (s : State) : Word := BitVec.ofNat 64 (s.nextPc % 2 ^ 56)
/-- next_pc of a context whose head waits (R83), before it is known to be well formed. -/
def Ctx.nextPc (c : Ctx) : Nat :=
  if headIndex c.pc < c.heads then lineAddr c.pc + 2 * (headIndex c.pc + 1) else lineAddr c.pc + 64 + 2
/-- The head goes on to a unit where it may yet be withdrawn: a next address that is not well formed makes it trap now
(R84). -/
def State.needNext (s : State) (k : Out) : Out :=
  if s.stepsOn then k else .next (s.trap 0x02 (BitVec.ofNat 64 s.nextPc))
/-- The waiting head of a context has had its effect: control steps on and the context is back in the rotation. -/
def State.finishHead (s : State) (c : Nat) : State := (s.mapCtx c fun x => x.stepTo x.nextPc).wake c
/-- The head runs only at the sys level (R106). -/
def State.needSys (s : State) (k : Out) : Out := if s.me.sys then k else .next (s.trapHead 0x04)
/-- The head runs only in the miller (R106). -/
def State.needMiller (s : State) (k : Out) : Out := if ctxNo s.cur = 0 then k else .next (s.trapHead 0x04)
/-- The head rounds: rmode 6 and 7 trap (R45). -/
def State.needRmode (s : State) (k : Out) : Out :=
  if rmodeOf s.me.fctx < 6 then k else .next (s.trap 0x05 s.me.fctx)

end Sys2Proof.Machine
end

