-- ==== Sys2Proof/Machine/Memory.lean ====
section
/-! DEFINITION. Memory: one list of bytes in canonical form, full/empty bits, poison, the places addresses name
(R253 to R260, R268 to R271, R470), and the error log rings (R473, R474, R544). -/
namespace Sys2Proof.Machine

/-- The bytes of memory. -/
abbrev Memory : Type := List Host.Cell

/-- What an unlisted address reads as (log entry 4; for scratchpads R259). -/
def unlisted : Byte := 0

/-- Read one byte. -/
def mget (m : Memory) (a : Nat) : Byte :=
  match m with
  | [] => unlisted
  | (j, b) :: m => if j = a then b else mget m a

/-- Write one byte, keeping the canonical form: the unlisted value takes its entry away. -/
def mput (m : Memory) (a : Nat) (b : Byte) : Memory :=
  match m with
  | [] => if b = unlisted then [] else [(a, b)]
  | (j, c) :: m =>
    if a < j then (if b = unlisted then (j, c) :: m else (a, b) :: (j, c) :: m)
    else if j = a then (if b = unlisted then m else (a, b) :: m)
    else (j, c) :: mput m a b

/-- Every entry lies above n, rises, and differs from the unlisted value. -/
def Memory.wfAbove (n : Nat) : Memory → Bool
  | [] => true
  | (a, b) :: m => n ≤ a && b != unlisted && Memory.wfAbove (a + 1) m

/-- The canonical form: addresses strictly rising, no entry equal to the unlisted value. -/
def Memory.wf (m : Memory) : Bool := Memory.wfAbove 0 m

/-- Read one byte of the machine's memory. -/
def State.byte (s : State) (a : Nat) : Byte := mget s.mem a
/-- Write one byte of the machine's memory. -/
def State.putByte (s : State) (a : Nat) (b : Byte) : State := { s with mem := mput s.mem a b }
/-- The n bytes at a, little-endian (R5). -/
def State.rdN (s : State) (a : Nat) : Nat → Nat
  | 0 => 0
  | n + 1 => (s.byte a).toNat + 256 * s.rdN (a + 1) n
/-- The 8-byte word at a. -/
def State.rd64 (s : State) (a : Nat) : Word := BitVec.ofNat 64 (s.rdN a 8)
/-- The low n bytes of a number, each with its address, little-endian (R5). -/
def byteList (a v : Nat) : Nat → List (Nat × Byte)
  | 0 => []
  | n + 1 => (a, BitVec.ofNat 8 v) :: byteList (a + 1) (v / 256) n
/-- Write bytes in order. -/
def State.wrBytes (s : State) (l : List (Nat × Byte)) : State := { s with mem := l.foldl (fun m p => mput m p.1 p.2) s.mem }
/-- Write the low n bytes of a number at a. -/
def State.wrN (s : State) (a n v : Nat) : State := s.wrBytes (byteList a v n)

/-! ## Words: full bits and poison -/

/-- The aligned 8-byte word that holds a byte. -/
def wordOf (a : Nat) : Nat := a / 8 * 8
/-- The full bit of a word (R259). -/
def State.isFull (s : State) (w : Nat) : Bool := !s.empties.contains w
/-- Set a word full. -/
def State.setFull (s : State) (w : Nat) : State := { s with empties := kdel s.empties w }
/-- Set a word empty. -/
def State.setEmpty (s : State) (w : Nat) : State := { s with empties := kput s.empties w }
/-- The word that holds a byte is poisoned (R470). -/
def State.isBad (s : State) (a : Nat) : Bool := s.poison.contains (wordOf a)
/-- Poison the word that holds a byte. -/
def State.setBad (s : State) (a : Nat) : State := { s with poison := kput s.poison (wordOf a) }
/-- The words that the n bytes at a touch. -/
def wordsOf (a n : Nat) : List Nat := (List.range (divUp (a % 8 + n) 8)).map fun k => wordOf a + 8 * k
/-- The first poisoned byte address among n bytes at a. -/
def State.badIn (s : State) (a n : Nat) : Option Nat :=
  ((wordsOf a n).find? fun w => s.isBad w).map fun w => Nat.max w a
/-- A write of the n bytes at a covers the whole word w. -/
def covers (a n w : Nat) : Bool := a ≤ w && w + 8 ≤ a + n
/-- Write n bytes as a store does: a word it covers whole loses its poison (R470); data from a poisoned source poisons
every word it touches. -/
def State.store (s : State) (a n v : Nat) (bad : Bool) : State :=
  let ws := wordsOf a n
  let s := { s with poison := ws.foldl (fun p w => if covers a n w then kdel p w else p) s.poison }
  let s := s.wrN a n v
  if bad then { s with poison := ws.foldl kput s.poison } else s

/-! ## Places (R253, R268 to R270) -/

/-- Key of byte o of the scratchpad of core n. -/
def spadKey (n o : Nat) : Nat := 2 ^ 52 + 2 ^ 19 * n + o
/-- A key is a scratchpad byte. -/
def isSpad (a : Nat) : Bool := 2 ^ 52 ≤ a
/-- The core whose scratchpad holds a byte. -/
def spadCore (a : Nat) : Nat := (a - 2 ^ 52) / 2 ^ 19
/-- The offset of a scratchpad byte. -/
def spadOff (a : Nat) : Nat := (a - 2 ^ 52) % 2 ^ 19
/-- An address lies in the local window (R253). -/
def inWindow (va : Nat) : Bool := va / 2 ^ 26 == 0x00F0000000000000 / 2 ^ 26
/-- A window address with bit 25 set and bits [24:19] not zero (R254). -/
def badWindow (va : Nat) : Bool := bits va 25 25 == 1 && bits va 24 19 != 0
/-- The core a window address of an access by core n names (R254). -/
def windowCore (n va : Nat) : Nat := if bits va 25 25 = 1 then n else clusterOf n * 64 + bits va 24 19
/-- The key of the byte a window address names. -/
def windowKey (n va : Nat) : Nat := spadKey (windowCore n va) (bits va 18 0)
/-- Bytes of HBM4 (R268). -/
def hbmTop : Nat := 0x0218711A0000
/-- First carve-out address (R268). -/
def carveBase : Nat := 0x080000000000
/-- A local address lies in the carve-out region. -/
def isCarve (a : Nat) : Bool := carveBase ≤ a && a < carveBase + 2 ^ 36
/-- The cluster key whose slice a carve-out address names. -/
def carveCluster (a : Nat) : Nat := (a - carveBase) / 2 ^ 27
/-- A local address names HBM or a carved byte (R268, R270). -/
def State.localNamed (s : State) (a : Nat) : Bool :=
  a < hbmTop || (isCarve a && (a - carveBase) % 2 ^ 27 < 2 ^ 23 * (s.clu (carveCluster a)).carve)
/-- The space of a PA (R268). -/
def spaceOf (pa : Nat) : Nat := bits pa 51 50
/-- The package a space 1 address names (R268). -/
def paPkg (pa : Nat) : Nat := bits pa 49 44
/-- A PA of space 1 that names the module's own package is the local address (R270). -/
def State.normPa (s : State) (pa : Nat) : Nat :=
  if spaceOf pa = 1 ∧ paPkg pa = s.pkg then bits pa 43 0 else pa
/-- A byte of local HBM. -/
def isHbm (a : Nat) : Bool := a < hbmTop
/-- A byte of this module's memory: a scratchpad byte or a local address. -/
def isLocal (a : Nat) : Bool := isSpad a || spaceOf a == 0
/-- A byte of host memory. -/
def isHost (a : Nat) : Bool := !isSpad a && spaceOf a == 2
/-- A byte of another package. -/
def isRemote (a : Nat) : Bool := !isSpad a && spaceOf a == 1

/-! ## Partitions (R407) -/

/-- The partition record i exists. -/
def partValid (r : BitVec 256) : Bool := r.getLsbD 32
/-- The partition that holds a field. -/
def State.partOf (s : State) (f : Nat) : Option Nat :=
  (List.range 32).find? fun i => let r := s.parts.toList.getD i 0; partValid r && r.getLsbD f
/-- A field belongs to partition p. -/
def State.inPart (s : State) (p f : Nat) : Bool :=
  let r := s.parts.toList.getD p 0
  partValid r && r.getLsbD f
/-- The home descriptor table of partition p (R407, R418). -/
def State.hdtOf (s : State) (p : Nat) : Nat := bits (s.parts.toList.getD p 0).toNat 167 128 * 4096
/-- The ENL permission entry of partition p for package q (R463). -/
def State.enlEntry (s : State) (p q : Nat) : Nat := s.rdN (bits (s.parts.toList.getD p 0).toNat 231 192 * 4096 + 8 * q) 8
/-- Package q can be reached under partition p for a right: bit 0 msg, 1 mem, 2 atom (R457, R463, R464). -/
def State.reaches (s : State) (p q right : Nat) : Bool :=
  1 < s.groupN && q < s.groupN && q != s.pkg && (s.enlEntry p q).testBit right

/-! ## Homes (R271, R418) -/

/-- Set bit positions of a group mask, rising. -/
def setBits (g : Nat) : List Nat := (List.range 64).filter fun i => g.testBit i
/-- home_bank of a hashed descriptor (R271). -/
def hashBank (pa g : Nat) : Nat :=
  let l := pa / 64
  let h := l ^^^ (l >>> 12) ^^^ (l >>> 24) ^^^ (l >>> 36)
  let ns := setBits g
  ns.getD (h % ns.length) 0
/-- The home slice bank, 64 * field + bank, that a home descriptor gives an address (R271, R418). -/
def bankOf (desc pa : Nat) : Nat :=
  let f := bits desc 12 8
  if bits desc 15 14 = 1 then 64 * f + 4 * bits desc 7 4 + bits pa 7 6 else 64 * f + hashBank pa (bits desc 127 64)
/-- The home slice bank of an address under partition p and descriptor index hdi; none off the module. -/
def State.homeOf (s : State) (p hdi pa : Nat) : Option Nat :=
  if isRemote pa ∨ isSpad pa then none
  else if isCarve pa then some (4 * carveCluster pa + bits pa 7 6)
  else some (bankOf (s.rdN (s.hdtOf p + 16 * hdi) 16) pa)

/-! ## Error log rings (R473, R474, R544) -/

/-- Put a record into a ring: a full ring loses its oldest record, and counts the loss of one that nobody has read (R473). -/
def Ring.push (r : Ring) (x : BitVec 128) : Ring :=
  if r.recs.length < 64 then { r with recs := r.recs ++ [x], unread := r.unread + 1 }
  else ⟨r.recs.drop 1 ++ [x], if r.unread < 64 then r.lost else Nat.min (r.lost + 1) (2 ^ 32 - 1), Nat.min 64 (r.unread + 1)⟩
/-- The records of a ring have been read (R473). -/
def Ring.seen (r : Ring) : Ring := { r with unread := 0 }
/-- Change the management controller. -/
def State.mapMgmt (s : State) (f : Mgmt → Mgmt) : State := { s with mgmt := f s.mgmt }
/-- The inventory has something to write (R531). -/
def State.inventory (s : State) : State :=
  if s.mgmt.stale then s else (s.mapMgmt fun m => { m with stale := true }).post .inventoryUpdate
/-- An error record (R474). -/
def errRec (type struct unit ukind addr syn time : Nat) : BitVec 128 :=
  BitVec.ofNat 128 (type % 16 * 2 ^ 124 + struct % 16 * 2 ^ 120 + unit % 2 ^ 21 * 2 ^ 99 + ukind % 8 * 2 ^ 96
    + addr % 2 ^ 48 * 2 ^ 48 + syn % 256 * 2 ^ 40 + time % 2 ^ 32)
/-- Unit code of a sub-unit of a cluster (R544). -/
def State.unitCode (s : State) (cluster sub : Nat) : Nat := s.pkg * 2 ^ 15 + cluster * 64 + sub % 64
/-- Unit code of the column that serves a core. -/
def State.colUnit (s : State) (n : Nat) : Nat := s.unitCode (clusterOf n) (s.core n).pcol
/-- Which ring of a cluster a record goes to (R473). -/
inductive RingKind where
  | reg | spad | l1 | slice | fault
  deriving DecidableEq, Repr
/-- Log a record in a ring of a cluster: the inventory publishes it (R473, R531). -/
def State.logClu (s : State) (cl : Nat) (k : RingKind) (x : BitVec 128) : State :=
  State.inventory <| s.mapClu cl fun c =>
    match k with
    | .reg => { c with regRing := c.regRing.push x }
    | .spad => { c with spadRing := c.spadRing.push x }
    | .l1 => { c with l1Ring := c.l1Ring.push x }
    | .slice => { c with sliceRing := c.sliceRing.push x }
    | .fault => { c with faultRing := c.faultRing.push x }
/-- The edge fields in the order of their indexes (R18). -/
def edgeFields : List Nat := [0, 1, 2, 3, 4, 9, 10, 15, 16, 21, 22, 27, 28, 29, 30, 31]
/-- The HBM4 stack of a local HBM address (R269). -/
def stackOf (pa : Nat) : Nat := pa / 4096 % 48
/-- The byte of its stack that a local HBM address names (R269). -/
def stackByte (pa : Nat) : Nat := 4096 * (pa / 4096 / 48) + pa % 4096
/-- Unit code of an HBM4 stack (R544). -/
def State.stackUnit (s : State) (h : Nat) : Nat := s.unitCode (16 * edgeFields.getD (h / 3) 0) h
/-- Log a record in the ring of an HBM4 stack (R473). -/
def State.logStack (s : State) (h : Nat) (x : BitVec 128) : State :=
  State.inventory { s with stackRings := tset s.stackRings h ((tget s.stackRings h .empty).push x) }
/-- Log a record in the ring of a field's mesh links (R473). -/
def State.logMesh (s : State) (f : Nat) (x : BitVec 128) : State :=
  State.inventory { s with meshRings := tset s.meshRings f ((tget s.meshRings f .empty).push x) }
/-- Log a record in the ring of a port site (R473). -/
def State.logSite (s : State) (k : Nat) (x : BitVec 128) : State :=
  State.inventory { s with siteRings := tset s.siteRings k ((tget s.siteRings k .empty).push x) }
/-- A DISCARD record of a message or action addressed to core n (R474). -/
def State.logDiscard (s : State) (n dst : Nat) : State :=
  s.logClu (clusterOf n) .fault (errRec 6 11 (s.colUnit n) 0 dst 0 s.cycle)

end Sys2Proof.Machine
end

