-- ==== Sys2Proof/Machine/Translate.lean ====
section
/-! DEFINITION. Address translation (R407 to R426): the five-level walk, the checks of a translation slice in the order
of R419, hits in L1 (R413), and parking on a miss (R380, R420). -/
namespace Sys2Proof.Machine

/-- The answer to a translation request. -/
inductive TRes where
  | ok (pa : Nat)
  | miss
  | trap (cause : Nat)
  deriving DecidableEq, Repr

/-- Who asks: the ASID in force, the core whose field and slices serve the access, and its level (R409, R411). -/
structure Asker where
  asid : Nat
  core : Nat
  sys : Bool
  deriving DecidableEq, Repr

/-- The asker a context is. -/
def State.asker (s : State) (c : Nat) : Asker := ⟨(s.ctx c).asid.toNat, coreOf c, (s.ctx c).sys⟩

/-- The number of the translation slice that serves a VA (R411). -/
def tslice (va : Nat) : Nat :=
  let g := bits va 55 26
  (List.range 8).foldl (fun r i => r ^^^ bits g (4 * i + 3) (4 * i)) 0 % 16
/-- The cluster whose slice serves a VA of a field. -/
def sliceOf (field va : Nat) : Nat := 16 * field + tslice va
/-- Address of the address-space table (R408, R528). -/
def asidTable : Nat := 0x200000
/-- The address-space entry of an ASID (R408). -/
def State.asidEntry (s : State) (asid : Nat) : Nat := s.rdN (asidTable + 16 * asid) 16
/-- R409: the ASID exists and its partition holds the field. -/
def State.asidOk (s : State) (asid field : Nat) : Bool :=
  let e := s.asidEntry asid
  e.testBit 0 && s.inPart (bits e 7 3) field
/-- The partition of an ASID (R408). -/
def State.asidPart (s : State) (asid : Nat) : Nat := bits (s.asidEntry asid) 7 3

/-! ## The walk (R414 to R418) -/

/-- What a walk finds: a leaf of 2^size bytes; or a failure of R419 with the PA of a malformed entry. -/
inductive WalkRes where
  | leaf (size leaf : Nat)
  | fault (badPa : Option Nat)
  deriving DecidableEq, Repr

/-- Walk levels from the top: lowest VA bit indexed and number of bits (R414). -/
def walkLevels : List (Nat × Nat) := [(43, 13), (30, 13), (26, 4), (21, 5), (16, 5)]
/-- Alignment of the table that a level's table entry names: the size of the next level's table (R414, R415). -/
def nextAlign : Nat → Nat
  | 43 => 2 ^ 16
  | 30 => 2 ^ 7
  | _ => 2 ^ 8
/-- A home descriptor a leaf may name (R418, R419 order 4). -/
def descOk (d : Nat) : Bool := bits d 15 14 == 1 || (bits d 15 14 == 2 && bits d 127 64 != 0)
/-- A leaf entry is well formed at a level other than the top (R416, R417, R419 order 4). -/
def State.leafOk (s : State) (part shift e : Nat) : Bool :=
  let pa := bits e 51 16 * 2 ^ 16
  bits e 63 60 == 0 && bits e 15 10 == 0 && !e.testBit 7 && bits e 9 8 < 2 && shift != 43
    && pa % 2 ^ shift == 0 && (!e.testBit 6 || pa == 0)
    && (bits e 9 8 == 0 || (!e.testBit 6 && isHbm pa && isHbm (pa + 2 ^ shift - 1)))
    && descOk (s.rdN (s.hdtOf part + 16 * bits e 59 52) 16)
/-- A table entry is well formed at a level other than 0 (R415, R419 order 4). -/
def tableOk (shift e : Nat) : Bool :=
  bits e 63 52 == 0 && bits e 6 2 == 0 && shift != 16 && bits e 51 7 * 2 ^ 7 % nextAlign shift == 0
    && spaceOf (bits e 51 7 * 2 ^ 7) == 0
/-- Walk the levels from a table at `base` (R414); a poisoned entry is no entry that a walk may use (DEDUCED, log entry 35). -/
def State.walkFrom (s : State) (part va : Nat) : List (Nat × Nat) → Nat → WalkRes
  | [], _ => .fault none
  | (shift, n) :: ls, base =>
    let ea := base + 8 * bits va (shift + n - 1) shift
    let e := s.rdN ea 8
    if s.isBad ea then .fault (some ea)
    else if !e.testBit 0 then .fault none
    else if e.testBit 1 then (if s.leafOk part shift e then .leaf shift e else .fault (some ea))
    else if tableOk shift e then s.walkFrom part va ls (bits e 51 7 * 2 ^ 7) else .fault (some ea)
/-- The device walk of a VA under an ASID whose entry is valid (R414). -/
def State.walk (s : State) (asid va : Nat) : WalkRes :=
  let e := s.asidEntry asid
  s.walkFrom (bits e 7 3) va walkLevels (bits e 115 80 * 2 ^ 16)
/-- The slice entry a device-managed leaf gives. -/
def leafEntry (asid va size e : Nat) : TEntry :=
  { asid := asid, va := va / 2 ^ size * 2 ^ size, size := size, pa := bits e 51 16 * 2 ^ 16, r := e.testBit 2,
    w := e.testBit 3, x := e.testBit 4, app := e.testBit 5, cell := bits e 9 8 == 1, hdi := bits e 59 52, pin := [],
    pinnedAt := 0 }

/-- No frame may lie on a page: it is a CELL page, or names another package or host memory (R384). -/
def State.leafAway (s : State) (e : TEntry) : Bool := e.cell || isRemote (s.normPa e.pa) || isHost (s.normPa e.pa)

/-! ## The checks of a slice (R419) -/

/-- The slice entry that maps a VA of an ASID. -/
def tlbFind (l : List TEntry) (asid va : Nat) : Option TEntry :=
  l.find? fun e => e.asid == asid && e.va ≤ va && va < e.va + 2 ^ e.size
/-- A right that an access needs (R419 order 8). -/
def hasRight (acc : Acc) (r w x : Bool) : Bool :=
  match acc with
  | .load => r
  | .store => w
  | .atomic | .cell => r && w
  | .fetch => x
/-- A PA names something that can be reached for an access (R270, R464, R419 order 6). -/
def State.paReach (s : State) (part pa : Nat) (acc : Acc) : Bool :=
  match spaceOf pa with
  | 0 => s.localNamed pa
  | 1 => s.reaches part (paPkg pa) (match acc with | .atomic => 2 | _ => 1)
  | 2 => true
  | _ => false
/-- The home field, or the carve-out's field, lies in the partition (R410, R419 order 7). -/
def State.homeIn (s : State) (part hdi pa : Nat) : Bool :=
  match s.homeOf part hdi pa with
  | none => true
  | some b => s.inPart part (b / 64)
/-- Orders 6 to 8 of R419 for an installed entry. -/
def State.checkEntry (s : State) (q : Asker) (e : TEntry) (va : Nat) (acc : Acc) : TRes :=
  let pa := s.normPa (e.pa + (va - e.va))
  let part := s.asidPart q.asid
  if !s.paReach part pa acc then .trap 0x14
  else if !s.homeIn part e.hdi pa then .trap 0x16
  else if !hasRight acc e.r e.w e.x || !(e.app || q.sys) then .trap 0x16
  else .ok pa
/-- A translation request to the slice (R419); `fail` is what a closed walk left for this context. -/
def State.askSlice (s : State) (q : Asker) (fail : Option WalkFail) (va : Nat) (acc : Acc) : TRes :=
  if 2 ^ 56 ≤ va then .trap 0x14
  else if !s.asidOk q.asid (fieldOf q.core) then .trap 0x16
  else
    match tlbFind (s.clu (sliceOf (fieldOf q.core) va)).tlb q.asid va with
    | some e => s.checkEntry q e va acc
    | none =>
      match fail with
      | some f => if f.granule = va / 2 ^ 16 then .trap f.cause else .miss
      | none => .miss
/-- The page of a VA, as the slice of an asker holds it. -/
def State.pageOf (s : State) (q : Asker) (va : Nat) : Option TEntry :=
  tlbFind (s.clu (sliceOf (fieldOf q.core) va)).tlb q.asid va

/-! ## L1 hits (R261, R413) -/

/-- The L1 data line of a VA under an ASID. -/
def dlineFind (l : List DLine) (asid va : Nat) : Option DLine := l.find? fun e => e.asid == asid && e.va == va / 64 * 64
/-- The L1 data line that answers an access (R409, R413): it records the right that the access needs. -/
def State.l1Answer (s : State) (q : Asker) (va : Nat) (acc : Acc) : Option DLine :=
  (dlineFind (s.core q.core).l1d q.asid va).bind fun e =>
    if hasRight acc e.r e.w e.x && (e.app || q.sys) && s.asidOk q.asid (fieldOf q.core)
        && s.paReach (s.asidPart q.asid) e.pa acc then some e
    else none
/-- Translate a data access of a core that may hit its L1 (R413): a line that records the needed right answers. -/
def State.translate (s : State) (q : Asker) (fail : Option WalkFail) (va : Nat) (acc : Acc) : TRes :=
  if 2 ^ 56 ≤ va then .trap 0x14
  else
    match s.l1Answer q va acc with
    | some e => .ok (e.pa + va % 64)
    | none => s.askSlice q fail va acc
/-- What an L1 line grants. -/
def DLine.grant (e : DLine) : Grant := ⟨e.r, e.w, e.x, e.app, e.cell⟩
/-- What a slice entry grants. -/
def TEntry.grant (e : TEntry) : Grant := ⟨e.r, e.w, e.x, e.app, e.cell⟩
/-- What the translation of an access grants: that of the L1 line that answers, or of the page that the slice holds. -/
def State.grantOf (s : State) (q : Asker) (va : Nat) (acc : Acc) : Option Grant :=
  match s.l1Answer q va acc with
  | some e => some e.grant
  | none => (s.pageOf q va).map TEntry.grant

/-! ## Misses (R420) -/

/-- The pending walk of an ASID and granule. -/
def walkFind (l : List Walk) (asid g : Nat) : Option Walk := l.find? fun w => w.asid == asid && w.granule == g
/-- Units that wait for walks and are no contexts have numbers from here on: the port of a core, a launch's completion action, the
headrace and the tailrace of a cluster. -/
def unitBase : Nat := 2 ^ 20
/-- The port of core n, which reaches its spill region (R386). -/
def portUnit (n : Nat) : Nat := unitBase + 4 * n
/-- The completion action of launch l (R373). -/
def launchUnit (l : Nat) : Nat := unitBase + 4 * l + 1
/-- A fill of a cluster's headrace, by its number (R361). -/
def fillUnit (cl seq : Nat) : Nat := unitBase + 4 * (cl + 512 * seq) + 2
/-- A return of a cluster's tailrace, by its number (R362). -/
def returnUnit (cl seq : Nat) : Nat := unitBase + 4 * (cl + 512 * seq) + 3
/-- Add a waiter to a walk's waiters: each waits once. -/
def addWaiter (l : List Nat) (c : Nat) : List Nat := if l.contains c then l else l ++ [c]
/-- Open a walk for a VA, or join the one that is open; `who` is the waiter, a context or a unit that is none. A slice with 256 open
walks lets the miss wait. -/
def State.openWalk (s : State) (q : Asker) (who va : Nat) (acc : Acc) : State :=
  let f := fieldOf q.core
  let cl := sliceOf f va
  let g := va / 2 ^ 16
  let r := acc == .load
  let w := acc == .store
  let rw := acc == .atomic || acc == .cell
  let x := acc == .fetch
  let c := s.clu cl
  match walkFind c.walks q.asid g with
  | some _ =>
    s.mapClu cl fun c => { c with walks := c.walks.map fun k =>
      if k.asid = q.asid ∧ k.granule = g then
        { k with waiters := addWaiter k.waiters who, r := k.r || r, w := k.w || w, x := k.x || x, rw := k.rw || rw, priv := k.priv || q.sys }
      else k }
  | none =>
    if c.walks.length < 256 then
      let k : Walk := { asid := q.asid, granule := g, field := f, waiters := [who], phase := .device, r := r, w := w,
                        x := x, rw := rw, priv := q.sys, link := 0, asked := 0, further := false, stale := false }
      (s.mapClu cl fun c => { c with walks := c.walks ++ [k] }).post (.walkComplete f q.asid g)
    else s.mapClu cl fun c => { c with walkWait := addWaiter c.walkWait who }
/-- The answer that a closed walk left for a unit that asks for a VA. -/
def State.unitFail (s : State) (q : Asker) (unit va : Nat) : Option WalkFail :=
  (((s.clu (sliceOf (fieldOf q.core) va)).fails.find? fun e => e.1 == unit && e.2.granule == va / 2 ^ 16)).map (·.2)
/-- A unit has met the answer of its walk, or has given up what it asked for: the answer is not kept, and no walk waits for it. -/
def State.failUsed (s : State) (unit : Nat) : State :=
  { s with clus := s.clus.map fun (p : Nat × Cluster) =>
      (p.1, { p.2 with fails := p.2.fails.filter fun e => e.1 != unit
                       walks := p.2.walks.map fun w => { w with waiters := w.waiters.filter (· != unit) } }) }
/-- The executing head misses at a VA: its context parks (R380, R420). -/
def State.parkMiss (s : State) (va : Nat) (acc : Acc) : State :=
  (s.openWalk (s.asker s.cur) s.cur va acc).park .parked

end Sys2Proof.Machine
end

