-- ==== Sys2Proof/Machine/Access.lean ====
section
/-! DEFINITION. Data accesses of a context: the checks of R299 in their order, the store buffer with its forwarding
(R283), the L1 and slice lines an access touches (R261, R266, R272), what an armed error does to a read (R441), and
the tags of writes that SADV and the race trace read (R278, R294). -/
namespace Sys2Proof.Machine

/-! ## Finding the bytes of an access -/

/-- The answer to the checks of an access. -/
inductive Res where
  | ok (ps : List Piece)
  | miss (va : Nat)
  /-- Held for a core that moves, or for a slice that is shut down (R256, R491). -/
  | held
  /-- Parked for a core that is saved (R444). -/
  | saved
  /-- Refused, at an order of R299. -/
  | trap (order cause va : Nat)
  deriving DecidableEq, Repr

/-- The remap entry of a core (R30). -/
def State.remapOf (s : State) (n : Nat) : BitVec 16 := (s.clu (clusterOf n)).remap.toList.getD (n % 64) 0
/-- State of a remap entry: 0 ABSENT, 1 MAPPED, 2 MOVING, 3 FENCED (R30). -/
def State.remapState (s : State) (n : Nat) : Nat := bits (s.remapOf n).toNat 15 14
/-- The VA ranges of an access of n bytes: one or two, split at the line boundary. -/
def spans (va n : Nat) : List (Nat × Nat) :=
  let r := 64 - va % 64
  if n ≤ r then [(va % 2 ^ 64, n)] else [(va % 2 ^ 64, r), ((va + r) % 2 ^ 64, n - r)]
/-- The cluster key of slice bank 64 * f + b. -/
def bankCluster (b : Nat) : Nat := b / 4
/-- The proxy bank in a field of the line whose home bank is b (R272). -/
def proxyBank (field b : Nat) : Nat := 64 * field + b % 64
/-- A slice holds a line. -/
def State.sliceHas (s : State) (cl pa : Nat) : Bool := (s.clu cl).lines.any fun l => l.pa == pa / 64 * 64
/-- The slice of a cluster is shut down (R491). -/
def State.sliceShut (s : State) (cl : Nat) : Bool := (s.clu cl).shut.isSome
/-- An access by a field to a line whose home bank is b needs a slice that is shut down (R491): the home's for an atomic
or a cell, else the proxy's, and the home's for a line the proxy does not hold. -/
def State.shutFor (s : State) (acc : Acc) (field b pa : Nat) : Bool :=
  let h := bankCluster b
  let p := bankCluster (proxyBank field b)
  match acc with
  | .atomic | .cell => s.sliceShut h
  | _ => s.sliceShut p || (!s.sliceHas p pa && s.sliceShut h)
/-- The home bank of a byte of memory, from any page that maps it, installed now or before (R271, R276); none for a scratchpad or
another package. -/
def State.homeKey (s : State) (pa : Nat) : Option Nat :=
  if isSpad pa ∨ isRemote pa then none
  else if isCarve pa then s.homeOf 0 0 pa
  else
    match (s.clus.flatMap fun c => c.2.tlb).find? fun e => e.pa ≤ pa && pa < e.pa + 2 ^ e.size with
    | some e => s.homeOf (s.asidPart e.asid) e.hdi pa
    | none =>
      match s.pages.find? fun e => e.pa ≤ pa && pa < e.pa + 2 ^ e.size with
      | some e => s.homeOf e.part e.hdi pa
      | none => none
/-- The home bank of an address that an asker reaches: as its page places it, or as an earlier entry of the page did. -/
def State.bankFor (s : State) (q : Asker) (va pa : Nat) : Option Nat :=
  match s.pageOf q va with
  | some e => s.homeOf (s.asidPart q.asid) e.hdi pa
  | none => s.homeKey pa
/-- Orders 3 to 5 of R299 for one run of bytes outside the window. A store is never held here: it takes its buffer entry, and
is held when it is performed (R256, R297). -/
def State.pieceAt (s : State) (q : Asker) (fail : Option WalkFail) (acc : Acc) (va n : Nat) : Res :=
  match s.translate q fail va acc with
  | .miss => .miss va
  | .trap c => .trap 4 c va
  | .ok pa =>
    let hit := (s.l1Answer q va acc).isSome
    let g := s.grantOf q va acc
    let bank := s.bankFor q va pa
    if acc != .store && !(hit && acc == .load) && (bank.map fun b => s.shutFor acc (fieldOf q.core) b pa).getD false then
      .held
    else .ok [⟨va, pa, n, (g.map (·.cell)).getD false, g⟩]
/-- The order of R299 at which an answer stands. -/
def Res.order : Res → Nat
  | .trap o _ _ => o
  | .miss _ => 3
  | .held | .saved => 50
  | .ok _ => 100
/-- Join the answers of two runs of an access: the first condition in the order of R299, and in it the first run. -/
def joinRes (a b : Res) : Res :=
  match a, b with
  | .ok p, .ok q => .ok (p ++ q)
  | a, b => if a.order ≤ b.order then a else b
/-- Join the answers of two lanes of a vector form: the lowest failing lane decides, with the first condition it meets
(R299, R306; log entry 55). -/
def joinLanes : Res → Res → Res
  | .ok p, .ok q => .ok (p ++ q)
  | .ok _, b => b
  | a, _ => a
/-- Order 5 of R299: only cell forms touch CELL pages. -/
def noCell : Res → Res
  | .ok ps =>
    match ps.find? (·.cell) with
    | some p => .trap 5 0x17 p.va
    | none => .ok ps
  | r => r
/-- Checks of a window access of n bytes at va (R254, R256, R298, R444). A store to a moving core takes its buffer entry and
is held there (R256). -/
def State.windowAt (s : State) (q : Asker) (acc : Acc) (va n : Nat) : Res :=
  if badWindow va || 2 ^ 19 < bits va 18 0 + n then .trap 1 0x11 va
  else
    let k := windowCore q.core va
    if k = q.core then .ok [⟨va, windowKey q.core va, n, false, none⟩]
    else
      match s.remapState k with
      | 0 => .trap 7 0x11 va
      | 3 => .trap 7 0x12 va
      | 2 => if acc = .store then .ok [⟨va, windowKey q.core va, n, false, none⟩] else .held
      | _ => if s.savedFor k q.asid then .saved else .ok [⟨va, windowKey q.core va, n, false, none⟩]
/-- The checks of R299, orders 1 to 7, of an access of n bytes at va, whose alignment has been checked. -/
def State.resolve (s : State) (q : Asker) (fail : Option WalkFail) (acc : Acc) (va n : Nat) : Res :=
  let last := (va + n - 1) % 2 ^ 64
  if inWindow va && inWindow last then s.windowAt q acc va n
  else if inWindow va || inWindow last then .trap 1 0x11 va
  else noCell ((spans va n).foldl (fun r p => joinRes r (s.pieceAt q fail acc p.1 p.2)) (.ok []))
/-- The checks of an access of the executing context. -/
def State.resolveMe (s : State) (acc : Acc) (va n : Nat) : Res :=
  s.resolve (s.asker s.cur) s.me.walkFail acc va n
/-- The answer to a failed check for the executing head: it parks, waits, or traps. -/
def State.onRes (s : State) (acc : Acc) (r : Res) (k : List Piece → Out) : Out :=
  match r with
  | .ok ps => k ps
  | .miss va => .next (s.parkMiss va acc)
  | .held => .next (s.park .moving)
  | .saved => .next (s.park .saved)
  | .trap _ c va => .next (s.trap c (BitVec.ofNat 64 va))
/-- The byte keys of the runs of an access, in order. -/
def pieceKeys (ps : List Piece) : List Nat := ps.flatMap fun p => (List.range p.len).map (p.key + ·)
/-- The first poisoned address among the runs (R471). -/
def State.badPiece (s : State) (ps : List Piece) : Option Nat :=
  ps.findSome? fun p => (s.badIn p.key p.len).map fun a => p.va + (a - p.key)
/-- A store that the executing context has buffered is to replace the whole of a word, and no poisoned one after it touches it
(R283, R470). -/
def State.mended (s : State) (w : Nat) : Bool :=
  s.me.buf.foldl (fun m e =>
    match e with
    | .store _ bs _ left _ bad =>
      if left.contains w then !bad && (m || (List.range 8).all fun i => bs.any fun b => b.1 == w + i) else m
    | .marker _ => m) false
/-- The first address where a write would merge with a poisoned word (R470). -/
def State.badMerge (s : State) (ps : List Piece) : Option Nat :=
  ps.findSome? fun p => ((wordsOf p.key p.len).find? fun w => s.isBad w && !covers p.key p.len w && !s.mended w).map
    fun w => p.va + (Nat.max w p.key - p.key)
/-- The value of the bytes of the runs, little-endian. -/
def State.readKeys (s : State) : List Nat → Nat
  | [] => 0
  | a :: as => (s.byte a).toNat + 256 * s.readKeys as
/-- Every byte lies in the scratchpad of core n. -/
def allOwn (n : Nat) (ps : List Piece) : Bool := ps.all fun p => isSpad p.key && spadCore p.key == n

/-! ## Lines of the L1 caches and of the slices (R261, R266, R272, R273) -/

/-- The home of a byte of memory is a slice that is shut down: an access there waits (R491). -/
def State.homeShut (s : State) (pa : Nat) : Bool := ((s.homeKey pa).map fun b => s.sliceShut (bankCluster b)).getD false
/-- The table entries that a walk reads, from a table at `base` on (R414). -/
def State.walkKeys (s : State) (va : Nat) : List (Nat × Nat) → Nat → List Nat
  | [], _ => []
  | (shift, n) :: ls, base =>
    let ea := base + 8 * bits va (shift + n - 1) shift
    let e := s.rdN ea 8
    ea :: if e.testBit 0 && !e.testBit 1 then s.walkKeys va ls (bits e 51 7 * 2 ^ 7) else []
/-- A walk has an entry to read whose home is shut down: it waits (R414, R491). -/
def State.walkShut (s : State) (asid va : Nat) : Bool :=
  (s.walkKeys va walkLevels (bits (s.asidEntry asid) 115 80 * 2 ^ 16)).any s.homeShut
/-- Line slots of one bank of the cache part of a slice with carve-out k, which is taken equally from the four banks (R266,
R267, R491). -/
def bankSlots (carve : Nat) : Nat := (1572864 - 131072 * carve) / 4
/-- The first slot at or after `a` that no line holds, of the n slots from `base` on. -/
def slotFrom (used : List Nat) (base n : Nat) : Nat → Nat → Nat
  | 0, a => base + a
  | k + 1, a => if used.contains (base + a) then slotFrom used base n k ((a + 1) % n) else base + a
/-- The states a proxy's directory knows for a core's copy of a line (R272). -/
inductive Moesi where
  | modified | owned | exclusive | shared | invalid
  deriving DecidableEq, Repr
/-- The directory of a field for a line (R272): what its proxy records of the copy that a core holds, from the L1 lines of
the field. -/
def State.directory (s : State) (n pa : Nat) : Moesi :=
  let holds (k : Core) : Bool := k.l1d.any fun d => d.pa == pa / 64 * 64
  let others := s.cores.any fun p => p.1 != n && fieldOf p.1 == fieldOf n && holds p.2
  match (s.core n).l1d.find? fun d => d.pa == pa / 64 * 64 with
  | none => .invalid
  | some d => if d.dirty then (if others then .owned else .modified) else if others then .shared else .exclusive
/-- A line leaves a slice. From a proxy, the copies that its directory records go with it (R272); dirty data is written back
to the line's home, or by the home to HBM (R273): memory holds the newest value already. -/
def State.sliceOut (s : State) (cl : Nat) (l : SLine) : State :=
  let s := s.mapClu cl fun c => { c with lines := c.lines.erase l }
  { s with cores := s.cores.map fun p =>
      if fieldOf p.1 = cl / 16 ∧ s.directory p.1 l.pa ≠ .invalid then
        (p.1, { p.2 with l1d := p.2.l1d.filter fun d => d.pa != l.pa })
      else p }
/-- Bring a line into a bank of a slice, in a free slot of the bank that the spec does not choose; a full bank loses a line
that the spec does not choose (R266, R267, R491). The carve-out's own lines take no slot. -/
def State.sliceIn (s : State) (b pa : Nat) (home : Bool) : State :=
  let cl := bankCluster b
  if s.sliceHas cl pa || home && isCarve pa then s
  else
    let n := bankSlots (s.clu cl).carve
    let base := 393216 * (b % 4)
    let mine (l : SLine) : Bool := base ≤ l.slot && l.slot < base + n
    let s :=
      if ((s.clu cl).lines.filter mine).length < n then s
      else
        let v := s.freeNat n
        match ((s.clu cl).lines.filter mine)[v.1]? with
        | some l => v.2.sliceOut cl l
        | none => v.2
    let r := s.freeNat n
    let k := slotFrom ((s.clu cl).lines.map (·.slot)) base n (s.clu cl).lines.length r.1
    r.2.mapClu cl fun c => { c with lines := c.lines ++ [⟨pa / 64 * 64, false, home, k⟩] }
/-- Mark a line of a slice dirty. -/
def State.sliceDirty (s : State) (cl pa : Nat) : State :=
  s.mapClu cl fun c => { c with lines := c.lines.map fun l => if l.pa = pa / 64 * 64 then { l with dirty := true } else l }
/-- A line has been written at a home bank: the home's slice holds it dirty (R266, R273, R491). -/
def State.dirtyAt (s : State) (bank : Option Nat) (pa : Nat) : State :=
  match bank with
  | some b => (s.sliceIn b pa true).sliceDirty (bankCluster b) pa
  | none => s
/-- A line has been written at its home, or its newest copy has come there. -/
def State.homeDirty (s : State) (pa : Nat) : State := s.dirtyAt (s.homeKey pa) pa
/-- The dirty data of an L1 line of core n goes to the field's proxy, and to the home where that does not hold the line (R261,
R273). -/
def State.l1Back (s : State) (n pa : Nat) : State :=
  match s.homeKey pa with
  | some b =>
    let p := bankCluster (proxyBank (fieldOf n) b)
    if s.sliceHas p pa then s.sliceDirty p pa else s.homeDirty pa
  | none => s
/-- Put a line into the L1 data cache of a core: a full set loses its oldest line, whose dirty data goes to its slice
(R261). -/
def State.l1In (s : State) (n : Nat) (l : DLine) : State :=
  let set := (s.core n).l1d.filter fun e => e.va / 64 % 2048 == l.va / 64 % 2048
  let out := if set.length < 16 then none else set.head?
  let s := s.mapCore n fun k => { k with l1d := (k.l1d.filter fun e => some e != out) ++ [l] }
  match out with
  | some e => if e.dirty then s.l1Back n e.pa else s
  | none => s
/-- An L1 miss is served by the field proxy or the home bank, and the line stands in L1, the proxy and the home
(R271 to R273), with what the access's own translation grants (R413); with none, since an invalidation has taken it away (R425), no
line is installed. A line that L1 holds for the PA is only upgraded. -/
def State.proxyServe (s : State) (q : Asker) (va pa : Nat) (grant : Option Grant) : State :=
  match grant with
  | none => s
  | some e =>
    if e.cell then s
    else
      let s :=
        match s.homeKey pa with
        | none => s
        | some b => (s.sliceIn b pa true).sliceIn (proxyBank (fieldOf q.core) b) pa (b / 64 == fieldOf q.core)
      let l : DLine := ⟨q.asid, va / 64 * 64, pa / 64 * 64, e.r, e.w, e.x, e.app, false, false⟩
      match dlineFind (s.core q.core).l1d q.asid va with
      | some o =>
        if o.pa = l.pa then
          s.mapCore q.core fun k => { k with l1d := k.l1d.map fun d => if d = o then { l with dirty := o.dirty } else d }
        else s
      | none => s.l1In q.core l
/-- A write makes the writer's L1 line dirty and takes the line from every other L1 (R272, R279); one that no L1 line of the writer
holds is performed at the proxy or the home. -/
def State.l1Write (s : State) (n pa : Nat) : State :=
  let s : State := { s with cores := s.cores.map fun p =>
      if p.1 = n then (p.1, { p.2 with l1d := p.2.l1d.map fun d => if d.pa = pa / 64 * 64 then { d with dirty := true } else d })
      else (p.1, { p.2 with l1d := p.2.l1d.filter fun d => d.pa != pa / 64 * 64 }) }
  if (s.core n).l1d.any fun d => d.pa == pa / 64 * 64 then s else s.l1Back n pa
/-- A form that acts at the home recalls every copy of the line from the L1s and from the proxies; the home holds what they
held dirty (R312, R330, R350). -/
def State.recall (s : State) (pa : Nat) : State :=
  let here (l : SLine) : Bool := l.pa == pa / 64 * 64
  let dirty := (s.clus.any fun p => p.2.lines.any fun l => here l && !l.home && l.dirty)
    || s.cores.any fun p => p.2.l1d.any fun d => d.pa == pa / 64 * 64 && d.dirty
  let t : State := { s with
    cores := s.cores.map fun p => (p.1, { p.2 with l1d := p.2.l1d.filter fun d => d.pa != pa / 64 * 64 }),
    clus := s.clus.map fun p => (p.1, { p.2 with lines := p.2.lines.filter fun l => !here l || l.home }) }
  if dirty then t.homeDirty pa else t

/-! ## Write tags, SADV and the race trace (R276 to R278, R294, R295) -/

/-- The instance of a scope relative to context a contains context b (R275). Contexts of package q count from
2^19 * (q + 1). -/
def scopeHas (sc : Scope) (a b : Nat) : Bool :=
  match sc with
  | .thread => a == b
  | .core => coreOf a == coreOf b
  | .cluster => clusterOf (coreOf a) == clusterOf (coreOf b)
  | .field => fieldOf (coreOf a) == fieldOf (coreOf b)
  | .device => a / 2 ^ 19 == b / 2 ^ 19
  | .system => true
/-- The instance of a scope relative to context a contains the place where a word is performed: a scratchpad's port, or a
slice bank; none stands for a place off the module (R276). -/
def scopeHasPlace (sc : Scope) (a key : Nat) (bank : Option Nat) : Bool :=
  if isSpad key then sc != .thread && scopeHas sc a (16 * spadCore key)
  else
    match bank with
    | none => sc == .system
    | some b => scopeHas sc a (1024 * bankCluster b) && sc != .core && sc != .thread
/-- A release at scope sa by context a and an acquire at scope sb by context b pair (R276). -/
def pairs (sa : Scope) (a : Nat) (sb : Scope) (b key : Nat) (bankA bankB : Option Nat) : Bool :=
  scopeHas sa a b && scopeHas sb b a && scopeHasPlace sa a key bankA && scopeHasPlace sa a key bankB
    && scopeHasPlace sb b key bankA && scopeHasPlace sb b key bankB
/-- The bank where an access of a context to a key is performed: the home of the key, or the proxy of the context's field
(R276). -/
def State.bankOfAccess (s : State) (c key : Nat) (home : Bool) : Option Nat :=
  (s.homeKey key).map fun b => if home then b else proxyBank (fieldOf (coreOf c)) b
/-- A released store that context c has read pairs with its acquire at a scope (R276). -/
def State.pairsTag (s : State) (c : Nat) (sc : Scope) (r : ReadTag) : Bool :=
  pairs r.rel r.who sc c r.key (s.bankOfAccess r.who r.key r.homeW) (s.bankOfAccess c r.key r.homeR)
/-- Count an acquire that reads an unpaired release (R278). -/
def State.bumpSadv (s : State) (n : Nat) : State :=
  s.mapCore n fun k => { k with sadv := if k.sadv = BitVec.allOnes 32 then k.sadv else k.sadv + 1 }
/-- An acquire of context c at a scope that has read these released stores: SADV counts it when it reads one it does not pair with
and pairs with none (R278); the race trace notes its time (R294). -/
def State.acquireOf (s : State) (c : Nat) (sc : Scope) (rs : List ReadTag) : State :=
  let n := coreOf c
  let s := if rs.any (fun r => !s.pairsTag c sc r) && !rs.any (s.pairsTag c sc) then s.bumpSadv n else s
  { s.mapCore n fun k => { k with acquires := tset k.acquires sc.code.toNat (s.stamp + 1) } with stamp := s.stamp + 1 }
/-- A fence of context c acquires at a scope: it is judged by what the context has read since its last one (R277, R278). -/
def State.acquire (s : State) (c : Nat) (sc : Scope) : State :=
  (s.acquireOf c sc (s.ctx c).reads).mapCtx c fun x => { x with reads := [] }
/-- A release of context c at a scope: later stores carry it (R278). -/
def State.release (s : State) (c : Nat) (sc : Scope) : State := s.mapCtx c fun x => { x with rel := some sc }
/-- The released stores that a context reads in words, at their homes or as ordinary loads do (R276, R278). -/
def State.tagsOf (s : State) (c : Nat) (home : Bool) (keys : List Nat) : List ReadTag :=
  keys.filterMap fun w =>
    let t := tget s.wtags w ⟨c, none, 0, false⟩
    if t.who = c then none else t.rel.map fun sc => (⟨t.who, sc, w, t.home, home⟩ : ReadTag)
/-- A form of a context that acquires nothing itself has read words: the context notes the releases their writers made, for its next
fence (R278). -/
def State.noteReads (s : State) (c : Nat) (home : Bool) (keys : List Nat) : State :=
  let new := s.tagsOf c home keys
  if new.isEmpty then s else s.mapCtx c fun x => { x with reads := x.reads ++ new }
/-- A form of a context that acquires has its result, read from words, for its head to take (R278, R331). -/
def State.gotFrom (s : State) (c : Nat) (v : Word) (keys : List Nat) : State :=
  let new := s.tagsOf c true keys
  s.mapCtx c fun x => { x with got := some v, gotTags := new }
/-- The head takes the result that its wait has left. -/
def Ctx.tookGot (c : Ctx) : Ctx := { c with got := none, gotTags := [] }
/-- The global core address of a context: one of package q counts from 2^19 * (q + 1) (R25). -/
def State.globalCore (s : State) (c : Nat) : Nat :=
  (if c < 2 ^ 19 then s.pkg else c / 2 ^ 19 - 1) * 32768 + coreOf c % 32768
/-- A race trace record (R295). -/
def raceRec (src prev word time : Nat) : BitVec 128 :=
  BitVec.ofNat 128 (src * 2 ^ 107 + prev * 2 ^ 86 + word % 2 ^ 49 * 2 ^ 32 + time % 2 ^ 32)
/-- The latest stamp at which a core completed an acquire whose scope includes a home bank. -/
def State.lastAcquire (s : State) (n bank : Nat) : Nat :=
  [Scope.cluster, .field, .device, .system].foldl (fun m sc =>
    if scopeHas sc (16 * n) (1024 * bankCluster bank) then Nat.max m (tget (s.core n).acquires sc.code.toNat 0) else m) 0
/-- A home bank traces a write of a context to a word whose last write is `old`, if its ring is enabled (R294). Whether a core
of another package has acquired is not known here: it is free. -/
def State.traceWrite (s : State) (c : Nat) (old : WTag) (w b : Nat) : State :=
  let t := (s.clu (bankCluster b)).trace.toList.getD (b % 4) (false, .empty)
  if t.1 && coreOf old.who != coreOf c then
    let r := if c < 2 ^ 19 then ((if s.lastAcquire (coreOf c) b ≤ old.stamp then 0 else 1), s) else s.freeNat 2
    if r.1 = 0 then
      let x := t.2.push (raceRec (s.globalCore c) (s.globalCore old.who) (w / 8) s.cycle)
      r.2.mapClu (bankCluster b) fun k => { k with trace := k.trace.set (b % 4) (true, x) (Nat.mod_lt _ (by decide)) }
    else r.2
  else s
/-- Note the last write of a word (R278). -/
def State.setTag (s : State) (c : Nat) (rel : Option Scope) (home : Bool) (w : Nat) : State :=
  { s with wtags := tset s.wtags w ⟨c, rel, s.stamp + 1, home⟩, stamp := s.stamp + 1 }
/-- A context writes a word whose home bank is given, at its home or as an ordinary store does: its tag changes, and the home bank
traces an unsynchronised write (R278, R294). -/
def State.tagAt (s : State) (bank : Option Nat) (c : Nat) (rel : Option Scope) (home : Bool) (w : Nat) : State :=
  let old := tget s.wtags w ⟨c, none, 0, false⟩
  match bank with
  | none => s.setTag c rel home w
  | some b => (s.traceWrite c old w b).setTag c rel home w
/-- A context of the module writes a word: its home bank is what its page says. -/
def State.tagWrite (s : State) (c : Nat) (rel : Option Scope) (home : Bool) (w : Nat) : State :=
  s.tagAt (s.homeKey w) c rel home w

/-! ## The store buffer (R283) -/

/-- The keys an entry writes. -/
def BufEntry.keys : BufEntry → List Nat
  | .store _ bs _ _ _ _ => bs.map (·.1)
  | .marker _ => []
/-- A byte lies in a 256-byte block that the OMU of its cluster has yet to read (R214). -/
def State.inRange (s : State) (a : Nat) : Bool :=
  isSpad a && (s.clu (clusterOf (spadCore a))).ranges.any fun r => r.2.contains (a / 256)
/-- Some of the n bytes at a key lies in a block that an OMU has yet to read, for a pass other than number `me` of the optical
counter (R214). -/
def State.blocked (s : State) (me a n : Nat) : Bool :=
  isSpad a && (s.clu (clusterOf (spadCore a))).ranges.any fun r =>
    r.1 != me && (List.range ((a + n - 1) / 256 + 1 - a / 256)).any fun i => r.2.contains (a / 256 + i)
/-- An access of a context that has been sent is held at the ingress of a moving core: it is never withdrawn (R256). -/
def State.holdAt (s : State) (c a : Nat) : State :=
  if isSpad a && s.remapState (spadCore a) == 2 then s.mapCtx c fun x => { x with held := true } else s
/-- An event has reached the place of a byte, which holds it, and waits on: the ingress of a moving core notes it in the order of its
arrival (R488). -/
def State.heldBy (s : State) (a : Nat) (e : Instr) : State :=
  let note (g : Mig) : Mig :=
    if g.core == spadCore a && g.waiting.count e ≤ s.agenda.count e then { g with waiting := g.waiting ++ [e] } else g
  (if isSpad a && s.remapState (spadCore a) == 2 then s.mapClu (clusterOf (spadCore a)) fun c => { c with mig := c.mig.map note }
   else s).again e
/-- An access of a context to a peer's scratchpad finds that core saved (R444). -/
def State.peerSaved (s : State) (c a : Nat) : Bool :=
  isSpad a && spadCore a != coreOf c && s.remapState (spadCore a) == 1 && s.savedFor (spadCore a) (s.ctx c).asid.toNat
/-- A byte of a moving core, or of a saved core under the issuer's ASID, or one whose slice is shut down, holds an
access of context c back at its place (R256, R444, R491). -/
def State.heldKey (s : State) (c asid : Nat) (acc : Acc) (a : Nat) : Bool :=
  if isSpad a then
    spadCore a != coreOf c && (s.remapState (spadCore a) == 2 || s.savedFor (spadCore a) asid)
  else ((s.homeKey a).map fun b => s.shutFor acc (fieldOf (coreOf c)) b a).getD false
/-- The words of a list of byte keys. -/
def keyWords (ks : List Nat) : List Nat := ks.foldl (fun l a => kput l (wordOf a)) []
/-- The sequence number of a context's open transfer sequence towards a package (R292). -/
def Ctx.seqOf (c : Ctx) (p : Nat) : Nat := tget c.seqs p 0
/-- Hand a flit or a marker of context c for package p to the ENL port (R456). -/
def State.sendOut (s : State) (c p : Nat) (b : FlitBody) : State :=
  { s with outFlits := s.outFlits ++ [⟨s.flitSeq, p, c, b, none, false⟩], flitSeq := s.flitSeq + 1 }
/-- The source and the target partition that a flit or a marker of context c for package p carries (R456, R463). -/
def State.flitParts (s : State) (c p : Nat) : Nat × Nat :=
  let src := (s.partOf (fieldOf (coreOf c))).getD 0
  (src, bits (s.enlEntry src p) 9 5)
/-- A write of context c to another package is handed to the ENL port as a flit of its transfer sequence (R292, R456). -/
def State.handFlit (s : State) (c a : Nat) (bs : List Byte) : State :=
  if isRemote a then s.sendOut c (paPkg a) (.data a bs ((s.ctx c).seqOf (paPkg a)) (s.flitParts c (paPkg a))) else s
/-- Perform the bytes of a store of context c in one aligned word at their place (R258, R279). -/
def State.performWord (s : State) (c : Nat) (bs : List (Nat × Byte)) (rel : Option Scope) (bad : Bool) (w : Nat) : State :=
  let bs := bs.filter fun b => wordOf b.1 == w
  let whole := (List.range 8).all fun i => bs.any fun b => b.1 == w + i
  let s := if whole then { s with poison := kdel s.poison w } else s
  let s := s.wrBytes bs
  let s := if bad then s.setBad w else s
  let s := s.tagWrite c rel (isRemote w) w
  let s := if isSpad w then s else s.l1Write (coreOf c) w
  let a := (bs.map (·.1)).foldl Nat.min (w + 8)
  s.handFlit c a ((List.range (w + 8 - a)).map fun i => s.byte (a + i))

/-- Freed entries of the tables of waited words are offered to those that wait for one (R333). -/
def State.grants (s : State) : State :=
  (s.entryWait.foldl (fun l e => kput l e.1) []).foldl (fun s h => s.post (.waitTableEntryGrant h)) s
/-- Wake the SYNC sleepers on a word that has become zero (R395). -/
def State.wakeSyncs (s : State) (w : Nat) : State :=
  if s.rdN w 8 = 0 then
    let ws := s.sleepers.filter fun q => q.sync && q.loc == w && q.woken.isNone
    let s := { s with sleepers := s.sleepers.filterMap fun q =>
      if q.sync && q.loc == w && q.woken.isNone then (if q.saved then some { q with woken := some 0 } else none) else some q }
    let s := ws.foldl (fun (s : State) (q : Sleeper) => if q.saved then s else
      (s.gotFrom q.who 0 [w]).wake q.who) s
    s.grants
  else s
/-- A context has flits or markers to another package that are not acknowledged (R288, R456), those to one package left out
(R292). -/
def State.flitsOut (s : State) (c : Nat) (but : Option Nat) : Bool := s.outFlits.any fun f => f.ctx == c && but != some f.pkg
/-- A command, as context and ASID, counts among the accesses of context c that a fence waits for (R288): not while the core it
belongs to is saved. -/
def State.counts (s : State) (c who asid : Nat) : Bool := who == c && !s.savedFor (coreOf c) asid
/-- A contribution to a reduction has not completed (R358). -/
def Red.pending (x : Red) : Bool := x.result.isNone || !x.out.isEmpty
/-- Key of the marker of slot i (R359). -/
def Sub.marker (u : Sub) (i : Nat) : Nat := u.ring + 64 * u.su * u.ns + 8 * i
/-- Key of slot i. -/
def Sub.slot (u : Sub) (i : Nat) : Nat := u.ring + 64 * u.su * i
/-- A subscription fills a tile, or has one that it can begin to fill: its slot and its marker are empty (R361, R363). -/
def State.fillDue (s : State) (u : Sub) : Bool :=
  let i := u.tile % u.ns
  u.work.step != 0 || (u.stop.isEmpty && u.tile < bits u.desc.toNat 271 256 * bits u.desc.toNat 287 272
    && ((List.range (8 * u.su)).all fun k => !s.isFull (u.slot i + 8 * k)) && !s.isFull (u.marker i))
/-- The engine and optical commands of context c whose accesses are still to be performed, by kind and number (R288; log entry
19): copies, reductions, subscriptions with a fill that can be performed, returns, loads, decompositions and passes. -/
def State.cmdIds (s : State) (c : Nat) : List (Nat × Nat) :=
  let k := s.clu (clusterOf (coreOf c))
  let one (kind who asid seq : Nat) : Option (Nat × Nat) := if s.counts c who asid then some (kind, seq) else none
  (k.cmds.filterMap fun x => one 3 x.who x.asid x.seq) ++ ((k.reds.filter Red.pending).filterMap fun x => one 4 x.who x.asid x.seq)
    ++ ((k.subs.filter s.fillDue).filterMap fun x => one 5 x.who x.asid x.seq) ++ (k.rets.filterMap fun x => one 6 x.who x.asid x.seq) ++ (k.mill.filterMap fun x => one 2 x.who x.asid x.seq)
    ++ k.omu.queue.filterMap fun x =>
      match x with
      | .load q w a _ => one 1 w a q
      | .pass p => one 0 p.who p.asid (p.seq.getD (2 ^ 32))
      | .swap _ _ | .prbe _ _ | .phcrc _ _ _ _ => none
/-- Context c has engine or optical commands whose accesses are still to be performed. -/
def State.cmdsOut (s : State) (c : Nat) : Bool := !(s.cmdIds c).isEmpty
/-- A pending operation of context c on a cell that its home has accepted, or has yet to accept (R242). -/
def isCellOp (c : Nat) (accepted : Bool) : Instr → Bool
  | .cellOperationAtHome _ _ w => w.ctx == c && w.accepted == accepted
  | _ => false
/-- Context c has operations on cells that are accepted and not performed (R242, R251). -/
def State.cellsOut (s : State) (c : Nat) : Bool := s.agenda.any (isCellOp c true)
/-- Every earlier access of context c outside its store buffer, its engine and optical commands apart, has been performed at a
scope (R251, R288). -/
def State.calm (s : State) (c : Nat) (sc : Scope) (but : Option Nat) : Bool :=
  !s.cellsOut c && !(sc == .system && s.flitsOut c but)
/-- Copies of a cluster of which nothing is left but flits that have been handed to the ENL port for a package: towards that package an
FFLAG waits no longer for them (R292). -/
def State.handedOver (s : State) (cl : Nat) (but : Option Nat) : List (Nat × Nat) :=
  ((s.clu cl).cmds.filter fun x => but.isSome && x.moves.isEmpty && x.push.isNone &&
    x.flits.all fun n => s.outFlits.all fun f => f.seq != n || some f.pkg == but).map fun x => (3, x.seq)
/-- Every earlier access of context c outside its store buffer has been performed at a scope, or, towards one package, handed over
(R251, R288, R292, R316). -/
def State.quiet (s : State) (c : Nat) (sc : Scope) (but : Option Nat) : Bool :=
  (s.cmdIds c).all (s.handedOver (clusterOf (coreOf c)) but).contains && s.calm c sc but
/-- A word of a store of context c can be performed now (R214, R256, R444, R491). -/
def State.canPerform (s : State) (c asid w : Nat) : Bool := !s.inRange w && !s.heldKey c asid .load w
/-- Perform words of the oldest entry of context c's store buffer, which is done with when none is left (R261, R280, R283).
The lines it writes come into L1 under the ASID it was issued with (R60, R261). -/
def State.drainWords (s : State) (c : Nat) (ws : List Nat) : State :=
  match (s.ctx c).buf with
  | .store ps bs asid left rel bad :: rest =>
    let q : Asker := ⟨asid, coreOf c, false⟩
    let s := ps.foldl (fun s p => if isSpad p.key || isRemote p.key || !ws.any (fun w => p.key / 64 == w / 64) then s
      else s.proxyServe q p.va p.key p.grant) s
    let s := ws.foldl (fun s w => (s.performWord c bs rel bad w).wakeSyncs w) s
    let left := left.filter (!ws.contains ·)
    s.mapCtx c fun x =>
      if left.isEmpty then { x with buf := rest, drains := x.drains + 1, due := none }
      else { x with buf := .store ps bs asid left rel bad :: rest }
  | _ => s
/-- Perform the oldest entry of context c's store buffer, or answer none when it must wait (R214, R256, R283, R316). -/
def State.drainOne (s : State) (c : Nat) : Option State :=
  match (s.ctx c).buf with
  | [] => none
  | .store _ _ asid left _ _ :: _ => if left.all (s.canPerform c asid) then some (s.drainWords c left) else none
  | .marker sc :: rest =>
    if s.quiet c sc none then some (s.mapCtx c fun x => { x with buf := rest, drains := x.drains + 1 }) else none
/-- Perform entries of context c's store buffer until n are left, or answer none when one must wait. -/
def State.drainTo (s : State) (c n : Nat) : Nat → Option State
  | 0 => some s
  | k + 1 => if (s.ctx c).buf.length ≤ n then some s else (s.drainOne c).bind fun s => s.drainTo c n k
/-- Perform every entry of context c's store buffer, or answer none when one must wait. -/
def State.drainAll (s : State) (c : Nat) : Option State := s.drainTo c 0 8
/-- The executing head waits until its context's buffer has performed n more entries (R283). -/
def State.awaitDrain (s : State) (n : Nat) : State := (s.park (.buffer (s.me.drains + n))).post (.storeBufferDrain s.cur)
/-- The executing head goes on once every entry of its context's buffer has been performed; else it waits (R302, R313). -/
def State.drained (s : State) (k : State → Out) : Out :=
  if s.me.buf.isEmpty then k s else .next (s.awaitDrain s.me.buf.length)
/-- The executing head goes on once every earlier access of its context has been performed at a scope; else it waits (R288,
R313, R316, R317). -/
def State.ordered (s : State) (sc : Scope) (but : Option Nat) (k : State → Out) : Out :=
  s.drained fun s => if s.quiet s.cur sc but then k s else .next ((s.park (.order sc but)).post (.storeBufferDrain s.cur))
/-- The executing head, a full/empty store or an engine command, goes on once its context's buffer and its operations on cells,
and at the SYSTEM scope its writes to other packages, have been performed; else it waits (R251, R290). -/
def State.released (s : State) (sc : Scope) (k : State → Out) : Out :=
  s.drained fun s => if s.calm s.cur sc none then k s else .next ((s.park (.cells sc)).post (.storeBufferDrain s.cur))
/-- An entry is a release marker. -/
def BufEntry.isMarker : BufEntry → Bool
  | .marker _ => true
  | .store _ _ _ _ _ _ => false
/-- The executing head goes on once every release marker of its context has been performed (R316). -/
def State.pastMarkers (s : State) (k : State → Out) : Out :=
  match ((List.range s.me.buf.length).filter fun i => (s.me.buf.getD i (.marker .thread)).isMarker).getLast? with
  | none => k s
  | some i => .next (s.awaitDrain (i + 1))
/-- Put an entry into the executing context's store buffer; with all 8 taken, the head waits until one frees (R283). A store
to the own scratchpad that finds the buffer empty is performed by the end of cycle c + 7. -/
def State.buffer (s : State) (e : BufEntry) (k : State → Out) : Out :=
  if s.me.buf.length < 8 then
    let own := s.me.buf.isEmpty && !e.isMarker && e.keys.all fun a => isSpad a && spadCore a == s.myCore
    k ((s.mapMe fun c => { c with buf := c.buf ++ [e], due := if own then some (s.cycle + 7) else c.due }).post
      (.storeBufferDrain s.cur))
  else .next (s.awaitDrain 1)
/-- Stores whose last cycle has come are performed (R283). -/
def State.performDue (s : State) : State :=
  (s.ctxs.filter fun p => p.2.due.any (· ≤ s.cycle)).foldl (fun s p =>
    let s := s.mapCtx p.1 fun c => { c with due := none }
    (s.drainOne p.1).getD s) s
/-- Buffered stores of a context that touch a byte key: their positions. -/
def bufHits (buf : List BufEntry) (ks : List Nat) : List Nat :=
  (List.range buf.length).filter fun i => ((buf.getD i (.marker .thread)).keys.any ks.contains)
/-- The value a store writes to a byte: its latest byte for that key. -/
def entryByte (bs : List (Nat × Byte)) (a : Nat) : Byte :=
  bs.foldl (fun v p => if p.1 = a then p.2 else v) 0
/-- The value of byte keys in one buffered store. -/
def entryVal (bs : List (Nat × Byte)) : List Nat → Nat
  | [] => 0
  | a :: as => (entryByte bs a).toNat + 256 * entryVal bs as
/-- Where a load of the executing context takes its value (R283). -/
inductive Source where
  /-- From memory. -/
  | memory
  /-- From a younger buffered store that holds all of its bytes, and whether that carries poison (R470). -/
  | forward (v : Nat) (bad : Bool)
  /-- From memory, once the first n entries of the buffer have been performed. -/
  | after (n : Nat)
  deriving DecidableEq, Repr
/-- Where a load of byte keys takes its value (R283): the youngest buffered store that touches them decides. Memory holds one value of a
PA, so a load through another VA of a writable page returns the latest store performed there, one of the values that R264 leaves open
(DESIGN CHOICE, log entry 91). -/
def State.loadSource (s : State) (ks : List Nat) : Source :=
  match (bufHits s.me.buf ks).getLast? with
  | none => .memory
  | some i =>
    match s.me.buf.getD i (.marker .thread) with
    | .store _ bs _ _ _ bad => if ks.all fun a => bs.any fun b => b.1 == a then .forward (entryVal bs ks) bad else .after (i + 1)
    | .marker _ => .memory

/-! ## Waits (R304, R333, R430) -/

/-- A pending event by which a waiting form of context c would reach its place. -/
def waitEvent (c : Nat) : Instr → Bool
  | .fullEmptyAtPort j _ _ _ _ => j == c
  | .waitvAtHome j _ _ _ _ _ => j == c
  | .syncAtHome j _ => j == c
  | .stealProbeRead j _ _ => j == c
  | .stealCas j _ _ _ => j == c
  | .engineAcceptance j _ => j == c
  | .opticalAcceptance j _ => j == c
  | _ => false
/-- Withdraw the wait of a context: its entries at ports and homes go (R304, R430). -/
def State.withdraw (s : State) (c : Nat) : State :=
  let s :=
    match (s.ctx c).why with
    | some (.fullEmpty n) => s.mapCore n fun k => { k with feq := k.feq.filter (·.ctx != c) }
    | _ => s
  let s := { s with sleepers := s.sleepers.filter (fun q => q.who != c || q.saved),
                    entryWait := s.entryWait.filter (·.2.1 != c), agenda := s.agenda.filter (!waitEvent c ·) }
  let s := s.mapClu (clusterOf (coreOf c)) fun k => { k with omu.waiting := k.omu.waiting.filter (·.1 != c) }
  (if (s.ctx c).why.isSome then (s.mapCtx c fun x => { x with held := false, sent := false }).wake c else s).grants

end Sys2Proof.Machine
end

