-- ==== Sys2Proof/Machine/Operands.lean ====
section
/-! DEFINITION. Operand forms: the registers a head reads (R79, R80, R97, R471), the lanes of a vector (R39, R142), the
mask (R40), register groups (R172), and code offsets (R82). -/
namespace Sys2Proof.Machine

/-- Register codes of a group of g registers (R172). -/
def groupCodes (r : VR) (g : Nat) : List (BitVec 6) :=
  match r with
  | .v n => (List.range g).map fun i => BitVec.ofNat 6 (32 + n.val + i)
  | .vz => []
/-- Mask bits that take part for n lanes (R40). -/
def maskBits (k : KWord) (n : Nat) : Nat := k.toNat % 2 ^ n
/-- A destination is read where an inactive lane keeps its value (R471). -/
def kept (c : Ctx) (ds : List (BitVec 6)) (m : KR) (n : Nat) : List (BitVec 6) :=
  if maskBits (c.getK m) n = 2 ^ n - 1 then [] else ds

/-- The register codes a head reads in context c. Codes of x0, vz, pc and k0 may stand among them: they hold no
poison. -/
def regsRead (cx : Ctx) : Instr → List (BitVec 6)
  | .nop | .halt | .yield | .brk | .j _ | .jal _ _ | .li _ _ | .addpc _ _ | .vli16 _ _ | .vli32 _ _ | .vli64 _ _ |
    .ldp _ _ _ | .fenceAcq _ | .fenceRel _ | .fenceAr _ | .fenceSc _ | .arv _ _ | .arvRlx _ _ | .arvd _ _ |
    .btest _ _ | .recv _ _ _ _ | .recvt _ _ _ _ | .take _ | .tdone _ | .dqlen _ | .phsw _ | .prbe _ | .phcrc _ _ |
    .reap _ _ | .trap _ | .eret | .mfs _ _ => []
  | .jalr _ b | .addi _ b _ | .andi _ b _ | .ori _ b _ | .xori _ b _ | .slli _ b _ | .srli _ b _ | .srai _ b _ |
    .slti _ b _ | .sltni _ b _ | .clz _ b | .ctz _ b | .popc _ b | .brev _ b | .fsqrtF32 _ b | .fsqrtF64 _ b |
    .kmovx _ b | .fcvt _ _ _ b | .ldS8 _ b _ | .ldN8 _ b _ | .ldS16 _ b _ | .ldN16 _ b _ | .ldS32 _ b _ |
    .ldN32 _ b _ | .ld64 _ b _ | .ldFe _ b _ | .ldFc _ b _ | .prefL1 b _ | .prefSl b _ | .cclean b _ |
    .cflush b _ | .iflush b _ | .cld _ _ b | .cclr b | .cstat _ b | .cldx _ b | .ntf1 _ _ b | .ntfa _ _ b |
    .sync _ b | .steal _ b | .hdend _ b | .await _ b | .phld _ b | .launch _ b | .start _ _ b | .migr _ b |
    .ctxsv _ _ b | .ctxld _ _ b | .prmt _ b | .rsme _ b | .errinj _ b => [b.code]
  | .beq a b _ | .bne a b _ | .blt a b _ | .bge a b _ | .bltn a b _ | .bgen a b _ | .st8 a b _ | .st16 a b _ |
    .st32 a b _ | .st64 a b _ | .stEf a b _ | .stF a b _ | .redAdd _ _ _ a b | .redAnd _ _ _ a b |
    .redOr _ _ _ a b | .redXor _ _ _ a b | .redMin _ _ _ a b | .redMax _ _ _ a b | .redMinn _ _ _ a b |
    .redMaxn _ _ _ a b | .cadd _ a b | .fflag _ a b => [a.code, b.code]
  | .bkany a b _ | .bkall a b _ | .bknone a b _ => [a.kcode, b.kcode]
  | .dbnz a _ | .bwt _ a | .mts a _ | .mtsFctx a | .mtsEbcmin a | .mtsScptr a | .mtsFstat a | .mtsPriv a |
    .mtsEpc a | .mtsTvec a | .mtsAsid a | .mtsDqbase a | .mtsDqtop a | .mtsDqbot a | .mtsDqspill a |
    .mtsSgmask _ a => [a.code]
  | .add _ b c | .sub _ b c | .and _ b c | .or _ b c | .xor _ b c | .andn _ b c | .sll _ b c | .srl _ b c |
    .sra _ b c | .ror _ b c | .slt _ b c | .sltn _ b c | .min _ b c | .max _ b c | .minn _ b c | .maxn _ b c |
    .mul _ b c | .mulh _ b c | .mulhn _ b c | .div _ b c | .divn _ b c | .rem _ b c | .remn _ b c |
    .faddF32 _ b c | .fsubF32 _ b c | .fmulF32 _ b c | .fdivF32 _ b c | .fminF32 _ b c | .fmaxF32 _ b c |
    .feqF32 _ b c | .fltF32 _ b c | .fleF32 _ b c | .faddF64 _ b c | .fsubF64 _ b c | .fmulF64 _ b c |
    .fdivF64 _ b c | .fminF64 _ b c | .fmaxF64 _ b c | .feqF64 _ b c | .fltF64 _ b c | .fleF64 _ b c |
    .vextr _ _ b c | .ldxS8 _ b c | .ldxN8 _ b c | .ldxS16 _ b c | .ldxN16 _ b c | .ldxS32 _ b c | .ldxN32 _ b c |
    .ldx64 _ b c | .amoAdd _ _ _ _ b c | .amoAnd _ _ _ _ b c | .amoOr _ _ _ _ b c | .amoXor _ _ _ _ b c |
    .amoMin _ _ _ _ b c | .amoMax _ _ _ _ b c | .amoMinn _ _ _ _ b c | .amoMaxn _ _ _ _ b c |
    .amoSwap _ _ _ _ b c | .send _ _ _ b c | .spawn _ b c | .slice _ b c | .joina _ b c | .tlret _ _ b c |
    .phwr _ _ b c => [b.code, c.code]
  | .lih d _ => [d.code]
  | .ffmaF32 d b c | .ffmaF64 d b c | .vins _ d b c => [b.code, c.code, d.code]
  | .vadd t d b c m | .vsub t d b c m | .vmul t d b c m | .vmulh t d b c m | .vand t d b c m | .vor t d b c m |
    .vxor t d b c m | .vandn t d b c m | .vsll t d b c m | .vsrl t d b c m | .vsra t d b c m | .vmin t d b c m |
    .vmax t d b c m | .vadds t d b c m | .vsubs t d b c m | .vfadd t d b c m | .vfsub t d b c m |
    .vfmul t d b c m | .vfmin t d b c m | .vfmax t d b c m | .vfdiv t d b c m | .vslup t d b c m |
    .vsldn t d b c m | .vzip t d b c m | .vunzip t d b c m | .vlds t d b c _ m |
    .vldg t d b c _ m => [b.code, c.code, m.kcode] ++ kept cx [d.code] m (256 / t.width)
  | .vabs t d b m | .vsplat t d b m | .vneg t d b m | .vfsqrt t d b m | .vfabs t d b m | .vfneg t d b m |
    .vaddi t d b _ m | .vandi t d b _ m | .vori t d b _ m | .vslli t d b _ m | .vsrli t d b _ m |
    .vsrai t d b _ m | .vscanAdd t d b m | .vscanMin t d b m | .vscanMax t d b m | .frsqa t d b m |
    .frcpa t d b m | .vld t d b _ m => [b.code, m.kcode] ++ kept cx [d.code] m (256 / t.width)
  | .vcmpeq _ _ b c m | .vcmplt _ _ b c m | .vcmple _ _ b c m | .vsel _ _ b c m | .vfcmpeq _ _ b c m |
    .vfcmplt _ _ b c m | .vfcmple _ _ b c m | .vxlr _ _ b c m => [b.code, c.code, m.kcode]
  | .vfma _ d b c m | .vfms _ d b c m | .vfnma _ d b c m => [b.code, c.code, m.kcode, d.code]
  | .kand _ b c | .kor _ b c | .kxor _ b c | .kandn _ b c => [b.kcode, c.kcode]
  | .knot _ b | .ktox _ b | .kpopc _ b | .kfirst _ b => [b.kcode]
  | .vsplati t d _ m => [m.kcode] ++ kept cx [d.code] m (256 / t.width)
  | .vperm t d b c i m => [b.code, c.code, i.code, m.kcode] ++ kept cx [d.code] m (256 / t.width)
  | .vcompr _ _ b m | .vexpnd _ _ b m | .vredAdd _ _ b m | .vredMin _ _ b m | .vredMax _ _ b m | .vredAnd _ _ b m |
    .vredOr _ _ b m => [b.code, m.kcode]
  |
    .vcvt td ts d b _ m => [b.code, m.kcode] ++ kept cx [d.code] m (256 / td.width) ++ (if ts.width < td.width ∨ td.width = ts.width then [] else [d.code])
  | .vqnt _ t _ b c m => groupCodes b (32 * t.width / 256) ++ [c.code, m.kcode]
  | .vdqnt _ t d b c m => [b.code, c.code, m.kcode] ++ kept cx (groupCodes d (32 * t.width / 256)) m 32
  | .vrsc _ _ b c e m => [b.code, c.code, e.code, m.kcode]
  | .vemax _ t _ b m => groupCodes b (32 * t.width / 256) ++ [m.kcode]
  | .vpack td _ d b c m => [b.code, c.code, m.kcode] ++ kept cx [d.code] m (256 / td.width)
  | .vunpk td _ d b _ m => [b.code, m.kcode] ++ kept cx [d.code] m (256 / td.width)
  | .vphcv t d b c m => [b.code, c.code, m.kcode] ++ kept cx (groupCodes d (16 * t.width / 256)) m 16
  | .vst _ a b _ m => [a.code, b.code, m.kcode]
  | .vsts _ a b c _ m | .vstg _ a b c _ m | .caddv _ a b c m => [a.code, b.code, c.code, m.kcode]
  | .stx8 a b c | .stx16 a b c | .stx32 a b c | .stx64 a b c => [a.code, b.code, c.code]
  | .amoCas _ _ _ _ b c e | .waitv _ _ _ _ b c e | .cpy _ _ b c e | .cpyt _ _ b c e | .gath _ _ b c e |
    .scat _ _ b c e | .mcst _ _ _ b c e | .rdct _ _ _ b c e | .hdsub _ _ b c e | .omx _ _ _ b c e |
    .omxa _ _ _ b c e | .omxw _ _ _ b c e => [b.code, c.code, e.code]
  | .millerTakeTrap .. | .asyncTrapTake .. | .longOpReply .. | .yieldRejoin .. | .ifetchLineArrival .. |
    .corePlacement .. | .launchEnd .. | .storeBufferDrain .. | .fullEmptyAtPort .. | .peerAccessAtPort .. |
    .proxyAccess .. | .atomicAtPlace .. | .cellOperationAtHome .. | .waitvAtHome .. | .notifyAtHome .. |
    .waitTableEntryGrant .. | .syncAtHome .. | .joinUpdateAtHome .. | .sluiceArrivalCount .. | .sluiceRelay .. |
    .sluiceCompletionSeen .. | .messageArrival .. | .sendStatusReturn .. | .spilledMessageMove .. |
    .engineAcceptance .. | .engineWordWrite .. | .engineCommandComplete .. | .cpytFramePush .. |
    .rdctNodeCombine .. | .headraceTileFill .. | .tailraceWriteback .. | .opticalAcceptance .. | .passRowWrite .. |
    .probeSymbol .. | .passComplete .. | .phaseLoadEnd .. | .phaseSwap .. | .decompositionComplete .. |
    .calibrationStart .. | .calibrationComplete .. | .governorLock .. | .governorEnterDrift .. |
    .governorLeaveDrift .. | .recalibrationStart .. | .temperatureLoop .. | .dequeRefill .. | .stealProbeRead .. |
    .stealCas .. | .loadTask .. | .translationRequest .. | .walkComplete .. | .sliceEntryPinExpiry .. |
    .atsTranslationCompletion .. | .pageRequestSend .. | .pageRequestResponse .. | .priEnable .. | .priStop .. |
    .atsInvalidationRequest .. | .invalidationComplete .. | .hostMessage .. | .bar2Access .. | .bar2AtomicOp .. |
    .bar0RegisterWrite .. | .rotorSlotStart .. | .flitReceive .. | .flitAck .. | .completionMarkerReceive .. |
    .circuitBringUpComplete .. | .portResyncComplete .. | .scrubVisit .. | .verticalBusTest .. |
    .heartbeatSend .. | .heartbeatReceive .. | .heartbeatDeadline .. | .suspectNotice .. | .fenceNotice .. |
    .quarantineEnd .. | .appeal .. | .temperatureSample .. | .migrationStart .. | .migrationRetry .. |
    .migrationStateCopy .. | .migrationCommit .. | .sliceFrameWriteback .. | .slicePowerOff .. |
    .sliceRecovery .. | .powerSample .. | .moduleReset | .vmainLoss | .vmainPowerOn | .hostLinkTrained .. |
    .hbmStackReady .. | .fieldReady .. | .clusterReady .. | .combLightLoss .. | .combLightReturn .. |
    .commandRingTailWrite .. | .responseRingHeadWrite .. | .spdm .. | .setCtrl .. | .setCtrlMinSecurityVersion .. |
    .setTable .. | .inval .. | .hostAssist .. | .fwStage .. | .readDebug .. | .illegalInstruction .. |
    .softError .. | .inventoryUpdate => []

/-! ## The system registers a head reads as operands (R68, R469; log entry 65) -/

/-- A head that computes under FCTX, or sends it on (R44, R45, R357). -/
def readsFctx : Instr → Bool
  | .fsqrtF32 _ _ | .fsqrtF64 _ _ | .fcvt _ _ _ _ | .faddF32 _ _ _ | .fsubF32 _ _ _ | .fmulF32 _ _ _ | .fdivF32 _ _ _ | .fminF32 _ _ _ |
    .fmaxF32 _ _ _ | .feqF32 _ _ _ | .fltF32 _ _ _ | .fleF32 _ _ _ | .faddF64 _ _ _ | .fsubF64 _ _ _ | .fmulF64 _ _ _ |
    .fdivF64 _ _ _ | .fminF64 _ _ _ | .fmaxF64 _ _ _ | .feqF64 _ _ _ | .fltF64 _ _ _ | .fleF64 _ _ _ | .ffmaF32 _ _ _ | .ffmaF64 _ _ _ |
    .vfadd _ _ _ _ _ | .vfsub _ _ _ _ _ | .vfmul _ _ _ _ _ | .vfmin _ _ _ _ _ | .vfmax _ _ _ _ _ | .vfdiv _ _ _ _ _ | .vfsqrt _ _ _ _ |
    .frsqa _ _ _ _ | .frcpa _ _ _ _ | .vfcmpeq _ _ _ _ _ | .vfcmplt _ _ _ _ _ | .vfcmple _ _ _ _ _ | .vfma _ _ _ _ _ | .vfms _ _ _ _ _ |
    .vfnma _ _ _ _ _ | .vcvt .. | .vqnt .. | .vdqnt .. | .vrsc .. | .vemax .. | .vpack .. | .vunpk .. | .vphcv .. | .cld _ _ _ |
    .rdct .. | .omx .. | .omxa .. | .omxw .. | .phwr .. => true
  | _ => false
/-- A head whose accesses, or whose command's, are translated under ASID and checked at the level of PRIV (R60, R299). -/
def readsAsid : Instr → Bool
  | .ldS8 .. | .ldN8 .. | .ldS16 .. | .ldN16 .. | .ldS32 .. | .ldN32 .. | .ld64 .. | .ldxS8 .. | .ldxN8 .. | .ldxS16 .. | .ldxN16 .. | .ldxS32 .. |
    .ldxN32 .. | .ldx64 .. | .st8 .. | .st16 .. | .st32 .. | .st64 .. | .stx8 .. | .stx16 .. | .stx32 .. | .stx64 .. | .vld .. | .vst .. | .vlds .. |
    .vsts .. | .vldg .. | .vstg .. | .ldp .. | .prefL1 .. | .prefSl .. | .cclean .. | .cflush .. | .iflush .. | .amoAdd .. | .amoAnd .. | .amoOr .. |
    .amoXor .. | .amoMin .. | .amoMax .. | .amoMinn .. | .amoMaxn .. | .amoSwap .. | .amoCas .. | .redAdd .. | .redAnd .. | .redOr .. | .redXor .. |
    .redMin .. | .redMax .. | .redMinn .. | .redMaxn .. | .fflag .. | .cadd .. | .caddv .. | .cld .. | .cclr .. | .cstat .. | .cldx .. | .waitv .. |
    .ntf1 .. | .ntfa .. | .sync .. | .spawn .. | .joina .. | .tdone .. | .take .. | .steal .. | .cpy .. | .cpyt .. | .gath .. | .scat .. | .mcst .. | .rdct .. |
    .hdsub .. | .tlret .. | .phld .. | .phwr .. | .omx .. | .omxa .. | .omxw .. | .launch .. | .start .. | .ctxsv .. | .ctxld .. | .prmt .. |
    .rsme .. => true
  | _ => false
/-- A head that only the sys level runs, or that looks at the level (R57, R106). -/
def readsPriv : Instr → Bool
  | .eret | .errinj .. | .migr .. => true
  | _ => false
/-- The system registers, by number, that a head reads as operands: shadow copies count from 128. -/
def sysReads (c : Ctx) (i : Instr) : List Nat :=
  let fctx := if c.shadow then 129 else 1
  let own : List Nat :=
    match i with
    | .mfs _ n => if n == 1#12 || n == 4#12 then [fctx] else if n == 2#12 && c.shadow then [130] else [n.toNat]
    | .mtsEbcmin _ => [fctx]
    | .mtsFstat _ => [3]
    | .eret => [0x101]
    | .halt | .tdone _ | .steal _ _ => [0x013]
    | .take _ => [0x013, 0x200, 0x201, 0x202, 0x203]
    | .spawn _ _ _ | .dqlen _ => [0x200, 0x201, 0x202, 0x203]
    | .slice _ _ _ => [0x011]
    | .send .. => [0x010]
    | .arv ch _ | .arvRlx ch _ | .arvd ch _ => [0x210 + ch.val / 4]
    | _ => []
  pcNumber :: own ++ (if readsFctx i then [fctx] else []) ++ (if readsAsid i then [0x105] else [])
    ++ (if readsAsid i || readsPriv i then [0x100] else [])

/-! ## Code offsets (R82) -/

/-- The target of a code offset relative to a code address's line, modulo 2^64. -/
def codeTarget (pc : Word) (off : Int) : Nat := (((lineAddr pc : Int) + off * 2) % (2 : Int) ^ 64).toNat

/-! ## Lanes (R39, R142) -/

/-- Lane i of width w. -/
def lane (v : VWord) (w i : Nat) : Nat := v.toNat / 2 ^ (w * i) % 2 ^ w
/-- A vector from the lanes of width w, lane 0 first. -/
def ofLanes (w : Nat) (l : List Nat) : VWord :=
  BitVec.ofNat 256 (l.foldr (fun x acc => x % 2 ^ w + 2 ^ w * acc) 0)
/-- Lane count of width w (R142). -/
def lanesOf (w : Nat) : Nat := 256 / w
/-- Bit i of a mask. -/
def active (k : KWord) (i : Nat) : Bool := k.getLsbD i
/-- A destination from per-lane results: an inactive lane keeps its value (R142). -/
def mergeLanes (old : VWord) (w : Nat) (k : KWord) (f : Nat → Nat) : VWord :=
  ofLanes w ((List.range (lanesOf w)).map fun i => if active k i then f i else lane old w i)
/-- A mask result from per-lane bits: 0 in every inactive lane and above (R142). -/
def maskLanes (n : Nat) (k : KWord) (f : Nat → Bool) : KWord :=
  BitVec.ofNat 32 ((List.range n).foldl (fun acc i => if active k i && f i then acc + 2 ^ i else acc) 0)
/-- Read a group of registers as one value of g * 256 bits (R172). -/
def Ctx.getGroup (c : Ctx) (r : VR) (g : Nat) : Nat :=
  match r with
  | .vz => 0
  | .v n => (List.range g).foldr (fun i acc => (c.v.toList.getD (n.val + i) 0).toNat + 2 ^ 256 * acc) 0
/-- Write a group of registers from one value of g * 256 bits (R172). -/
def Ctx.setGroup (c : Ctx) (r : VR) (g v : Nat) : Ctx :=
  match r with
  | .vz => c
  | .v n => (List.range g).foldl (fun c i =>
      if h : n.val + i < 16 then c.setV (.v ⟨n.val + i, h⟩) (BitVec.ofNat 256 (v / 2 ^ (256 * i))) else c) c
/-- Element j of width w of a group's value. -/
def elem (v w j : Nat) : Nat := v / 2 ^ (w * j) % 2 ^ w
/-- A group's value from elements of width w, element 0 first. -/
def ofElems (w : Nat) (l : List Nat) : Nat := l.foldr (fun x acc => x % 2 ^ w + 2 ^ w * acc) 0

end Sys2Proof.Machine
end

