-- ==== Sys2Proof/Machine/Flags.lean ====
section
/-! DEFINITION. Number formats, rounding and the flags they raise (R115 to R136): integers narrowed with and without
saturation, the floating formats as exact dyadic values, rounding once into a format or an integer type, and the
results and flags of the operations of R144 and R145. -/
namespace Sys2Proof.Machine

/-! ## The flags of FSTAT (R49) -/

/-- FSTAT.nv. -/
def fNv : Word := 1
/-- FSTAT.dz. -/
def fDz : Word := 2
/-- FSTAT.of. -/
def fOf : Word := 4
/-- FSTAT.uf. -/
def fUf : Word := 8
/-- FSTAT.nx. -/
def fNx : Word := 16
/-- FSTAT.cellovf. -/
def fCellovf : Word := 32
/-- FSTAT.pwoob. -/
def fPwoob : Word := 64
/-- FSTAT.ebclow. -/
def fEbclow : Word := 128
/-- FSTAT.sat. -/
def fSat : Word := 256

/-- A value and the flags that producing it raises. -/
abbrev Fp : Type := Nat × Word

/-! ## Integers (R116, R117) -/

/-- A w-bit pattern read as signed. -/
def sext (v w : Nat) : Int := (v % 2 ^ w : Nat) - (if v.testBit (w - 1) then (2 ^ w : Nat) else 0 : Nat)
/-- A w-bit pattern read as unsigned. -/
def zext (v w : Nat) : Nat := v % 2 ^ w
/-- Narrow with no flag. -/
def wrap (v : Int) (w : Nat) : Nat := (v % (2 ^ w : Nat)).toNat
/-- Saturate to the signed range. -/
def satS (v : Int) (w : Nat) : Fp :=
  if (2 ^ (w - 1) : Nat) - 1 < v then (2 ^ (w - 1) - 1, fSat)
  else if v < -((2 ^ (w - 1) : Nat) : Int) then (2 ^ (w - 1), fSat) else (wrap v w, 0)
/-- Saturate to the unsigned range. -/
def satN (v : Int) (w : Nat) : Fp :=
  if (2 ^ w : Nat) - 1 < v then (2 ^ w - 1, fSat) else if v < 0 then (0, fSat) else (wrap v w, 0)
/-- A pattern read under the signedness of an integer type. -/
def readInt (t : ElemT) (v : Nat) : Int := if t.isSigned then sext v t.width else (zext v t.width : Nat)
/-- Saturate to the range of an integer type. -/
def satT (t : ElemT) (v : Int) : Fp := if t.isSigned then satS v t.width else satN v t.width

/-- Shift left of a w-bit value (R143). -/
def shl (w b k : Nat) : Nat := if w ≤ k then 0 else b * 2 ^ k % 2 ^ w
/-- Logical shift right (R143). -/
def shr (w b k : Nat) : Nat := if w ≤ k then 0 else b % 2 ^ w / 2 ^ k
/-- Arithmetic shift right (R143). -/
def sar (w b k : Nat) : Nat := wrap (sext b w / (2 ^ Nat.min k (w - 1) : Nat)) w

/-! ## Floating formats (R118 to R121) -/

/-- A floating format: exponent bits, mantissa bits, bias, and the code of the largest finite magnitude. -/
structure Fmt where
  eb : Nat
  mb : Nat
  bias : Nat
  maxCode : Nat
  /-- It has infinities. -/
  inf : Bool
  /-- FTZ applies to it (R128). -/
  ftz : Bool
  /-- Its quiet NaNs have mantissa bit mb - 1 set; else no NaN signals. -/
  snan : Bool
  /-- Code of the canonical NaN; 0 for a format that has none. -/
  nan : Nat
  deriving DecidableEq, Repr

/-- F64. -/
def fmtF64 : Fmt := ⟨11, 52, 1023, 0x7FEFFFFFFFFFFFFF, true, true, true, 0x7FF8000000000000⟩
/-- F32. -/
def fmtF32 : Fmt := ⟨8, 23, 127, 0x7F7FFFFF, true, true, true, 0x7FC00000⟩
/-- F16. -/
def fmtF16 : Fmt := ⟨5, 10, 15, 0x7BFF, true, true, true, 0x7E00⟩
/-- BF16. -/
def fmtBF16 : Fmt := ⟨8, 7, 127, 0x7F7F, true, true, true, 0x7FC0⟩
/-- F8E4. -/
def fmtF8E4 : Fmt := ⟨4, 3, 7, 0x7E, false, false, false, 0x7F⟩
/-- F8E5. -/
def fmtF8E5 : Fmt := ⟨5, 2, 15, 0x7B, true, false, false, 0x7E⟩
/-- F6E3. -/
def fmtF6E3 : Fmt := ⟨3, 2, 3, 0x1F, false, false, false, 0⟩
/-- F4E2. -/
def fmtF4E2 : Fmt := ⟨2, 1, 1, 0x7, false, false, false, 0⟩
/-- The format of a floating element type; an integer type has none. -/
def fmtOf : ElemT → Option Fmt
  | .f64 => some fmtF64
  | .f32 => some fmtF32
  | .f16 => some fmtF16
  | .bf16 => some fmtBF16
  | .f8e4 => some fmtF8E4
  | .f8e5 => some fmtF8E5
  | .f6e3 => some fmtF6E3
  | .f4e2 => some fmtF4E2
  | .s8 | .s16 | .s32 | .s64 | .n8 | .n16 | .n32 | .n64 => none

/-- Position of the sign bit. -/
def Fmt.sgn (f : Fmt) : Nat := f.eb + f.mb
/-- A sign as a bit of the format. -/
def Fmt.sign (f : Fmt) (s : Bool) : Nat := if s then 2 ^ f.sgn else 0
/-- Code of infinity: the code above the largest finite one. -/
def Fmt.infCode (f : Fmt) : Nat := f.maxCode + 1

/-- What a floating pattern stands for: a NaN, signaling or quiet; an infinity; or the exact value m * 2^e with a
sign. -/
inductive Num where
  | nan (sig : Bool)
  | inf (s : Bool)
  | fin (s : Bool) (m : Nat) (e : Int)
  deriving DecidableEq, Repr

/-- decode of R118 with the special values of R120. -/
def Fmt.decode (f : Fmt) (b : Nat) : Num :=
  let s := b.testBit f.sgn
  let mag := b % 2 ^ f.sgn
  let x := mag / 2 ^ f.mb
  let m := mag % 2 ^ f.mb
  if f.maxCode < mag then
    if f.inf && m == 0 then .inf s
    else .nan (f.snan && !m.testBit (f.mb - 1))
  else if x = 0 then .fin s m (1 - (f.bias : Int) - f.mb)
  else .fin s (m + 2 ^ f.mb) ((x : Int) - f.bias - f.mb)

/-- The format context an operation captured (R48): rmode, seed and ftz. -/
structure FEnv where
  rm : Nat
  seed : Nat
  ftz : Bool
  deriving DecidableEq, Repr
/-- The format context of an FCTX. -/
def envOf (fctx : Word) : FEnv := ⟨rmodeOf fctx, seedOf fctx, ftzOf fctx⟩
/-- The format context in force for the executing context. -/
def State.env (s : State) : FEnv := envOf s.me.fctx

/-- Read an operand: under FTZ a subnormal is a zero of its sign (R129). -/
def Fmt.read (f : Fmt) (v : FEnv) (b : Nat) : Num :=
  match f.decode b with
  | .fin s m e => if v.ftz && f.ftz && m < 2 ^ f.mb then .fin s 0 e else .fin s m e
  | n => n

/-! ## Rounding (R127, R128, R131, R132) -/

/-- hash16 of R132. -/
def hash16 (seed idx : Nat) : Nat :=
  let h : BitVec 32 := BitVec.ofNat 32 seed ^^^ (BitVec.ofNat 32 idx * 0x9E3779B1#32)
  let h := h ^^^ (h >>> 16)
  let h := h * 0x85EBCA6B#32
  let h := h ^^^ (h >>> 13)
  let h := h * 0xC2B2AE35#32
  let h := h ^^^ (h >>> 16)
  h.toNat % 2 ^ 16

/-- A magnitude: n * 2^e exactly, or with `st` a value above n * 2^e and below (n + 1) * 2^e. -/
structure Mag where
  n : Nat
  e : Int
  st : Bool
  deriving DecidableEq, Repr

/-- A magnitude in units of 2^q: its whole part, its fraction as rem / 2^k, and whether more follows (R128). -/
structure Cut where
  n : Nat
  rem : Nat
  k : Nat
  st : Bool
  deriving DecidableEq, Repr
/-- Cut a magnitude at spacing 2^q. -/
def Mag.cut (a : Mag) (q : Int) : Cut :=
  if a.e ≤ q then
    let k := (q - a.e).toNat
    ⟨a.n / 2 ^ k, a.n % 2 ^ k, k, a.st⟩
  else ⟨a.n * 2 ^ (a.e - q).toNat, 0, 0, a.st⟩
/-- The fraction is not zero. -/
def Cut.inexact (c : Cut) : Bool := c.rem != 0 || c.st
/-- The fraction is above one half. -/
def Cut.aboveHalf (c : Cut) : Bool := 2 ^ c.k < 2 * c.rem || (2 * c.rem == 2 ^ c.k && c.st)
/-- The fraction is one half. -/
def Cut.half (c : Cut) : Bool := 2 * c.rem == 2 ^ c.k && !c.st
/-- rounds_up of R128. -/
def Cut.up (c : Cut) (v : FEnv) (s : Bool) (idx : Nat) : Bool :=
  match v.rm with
  | 0 => c.aboveHalf || (c.half && c.n % 2 == 1)
  | 1 => false
  | 2 => c.inexact && s
  | 3 => c.inexact && !s
  | 4 => c.aboveHalf || c.half
  | _ => hash16 v.seed idx < c.rem * 65536 / 2 ^ c.k

/-- A result above the largest finite value, or an infinite one (overflow_or_inf of R128). -/
def Fmt.overflow (f : Fmt) (v : FEnv) (s exact : Bool) : Fp :=
  if !f.inf then (f.sign s + f.maxCode, if exact then fSat else fSat ||| fOf ||| fNx)
  else if exact then (f.sign s + f.infCode, 0)
  else if v.rm = 1 ∨ (v.rm = 2 ∧ s = false) ∨ (v.rm = 3 ∧ s = true) then (f.sign s + f.maxCode, fOf ||| fNx)
  else (f.sign s + f.infCode, fOf ||| fNx)

/-- round_to of R128 for a finite value of magnitude a and sign s. -/
def Fmt.round (f : Fmt) (v : FEnv) (idx : Nat) (s : Bool) (a : Mag) : Fp :=
  if a.n = 0 then (f.sign s, 0)
  else
    let lg : Int := a.n.log2 + a.e
    let emin : Int := 1 - (f.bias : Int)
    if v.ftz && f.ftz && lg < emin then (f.sign s, fUf ||| fNx)
    else
      let q := max lg emin - f.mb
      let c := a.cut q
      let n := c.n + if c.up v s idx then 1 else 0
      let code := (q + f.mb + f.bias - 1).toNat * 2 ^ f.mb + n
      let fl := (if c.inexact then fNx else 0) ||| (if c.inexact && lg < emin then fUf else 0)
      if f.maxCode < code then ((f.overflow v s false).1, (f.overflow v s false).2 ||| fl) else (f.sign s + code, fl)

/-- round_int of R131 into an integer type. -/
def roundInt (t : ElemT) (v : FEnv) (idx : Nat) : Num → Fp
  | .nan _ => (0, fNv)
  | .inf s => ((satT t (if s then -(2 ^ 70) else 2 ^ 70)).1, fNv ||| fSat)
  | .fin s m e =>
    let c := Mag.cut ⟨m, e, false⟩ 0
    let n : Int := c.n + if c.up v s idx then 1 else 0
    let x := if s then -n else n
    let r := satT t x
    (r.1, (if c.inexact then fNx else 0) ||| (if r.2 = 0 then 0 else fNv ||| fSat))

/-- A value delivered into a format that may be a NaN: R134 for one, R128 else. -/
def Fmt.deliver (f : Fmt) (v : FEnv) (idx : Nat) : Num → Fp
  | .nan sig => if f.nan = 0 then (0, fNv) else (f.nan, if sig then fNv else 0)
  | .inf s => f.overflow v s true
  | .fin s m e => f.round v idx s ⟨m, e, false⟩

/-! ## Operations (R130, R144, R145) -/

/-- The exact sum of two dyadic values, with the sign of a zero sum by R130. -/
def addNum (v : FEnv) (s1 : Bool) (m1 : Nat) (e1 : Int) (s2 : Bool) (m2 : Nat) (e2 : Int) : Bool × Mag :=
  let e := min e1 e2
  let a : Int := m1 * (2 ^ (e1 - e).toNat : Nat)
  let b : Int := m2 * (2 ^ (e2 - e).toNat : Nat)
  let t := (if s1 then -a else a) + (if s2 then -b else b)
  if t = 0 then (if m1 = 0 ∧ m2 = 0 ∧ s1 = s2 then s1 else v.rm == 2, ⟨0, e, false⟩)
  else (t < 0, ⟨t.natAbs, e, false⟩)
/-- Invert the sign of a value. -/
def Num.neg : Num → Num
  | .nan g => .nan g
  | .inf s => .inf !s
  | .fin s m e => .fin (!s) m e
/-- The exact product of two values that are not NaN; none for 0 times infinity. -/
def mulNum : Num → Num → Option Num
  | .fin s m e, .fin t n f => some (.fin (s ^^ t) (m * n) (e + f))
  | .inf s, .inf t => some (.inf (s ^^ t))
  | .inf s, .fin t n _ => if n = 0 then none else some (.inf (s ^^ t))
  | .fin s m _, .inf t => if m = 0 then none else some (.inf (s ^^ t))
  | .nan g, _ => some (.nan g)
  | _, .nan g => some (.nan g)
/-- A NaN among operands: rows 1 and 2 of R144. -/
def nanOf (f : Fmt) (l : List Num) : Option Fp :=
  if l.contains (.nan true) then some (f.nan, fNv) else if l.contains (.nan false) then some (f.nan, 0) else none
/-- An invalid operation: row 3 of R144. -/
def Fmt.invalid (f : Fmt) : Fp := (f.nan, fNv)
/-- The rounded sum of two values that are not NaN. -/
def Fmt.sum (f : Fmt) (v : FEnv) (idx : Nat) : Num → Num → Fp
  | .inf s, .inf t => if s = t then f.overflow v s true else f.invalid
  | .inf s, _ => f.overflow v s true
  | _, .inf t => f.overflow v t true
  | .fin s m e, .fin t n g => let r := addNum v s m e t n g; f.round v idx r.1 r.2
  | .nan _, _ => f.invalid
  | _, .nan _ => f.invalid
/-- Addition. -/
def Fmt.add (f : Fmt) (v : FEnv) (idx b c : Nat) : Fp :=
  let x := f.read v b
  let y := f.read v c
  (nanOf f [x, y]).getD (f.sum v idx x y)
/-- Subtraction: the sum with the sign of c inverted (R130). -/
def Fmt.sub (f : Fmt) (v : FEnv) (idx b c : Nat) : Fp :=
  let x := f.read v b
  let y := f.read v c
  (nanOf f [x, y]).getD (f.sum v idx x y.neg)
/-- Multiplication. -/
def Fmt.mul (f : Fmt) (v : FEnv) (idx b c : Nat) : Fp :=
  let x := f.read v b
  let y := f.read v c
  (nanOf f [x, y]).getD
    (match mulNum x y with
     | none => f.invalid
     | some p => f.deliver v idx p)
/-- The fused forms: +- d +- b * c, rounded once. -/
def Fmt.fma (f : Fmt) (v : FEnv) (idx : Nat) (negD negP : Bool) (d b c : Nat) : Fp :=
  let z := f.read v d
  let x := f.read v b
  let y := f.read v c
  (nanOf f [z, x, y]).getD
    (match mulNum x y with
     | none => f.invalid
     | some p => f.sum v idx (if negD then z.neg else z) (if negP then p.neg else p))
/-- The exact quotient of finite values to 147 bits or more, the divisor not zero. -/
def divMag (m : Nat) (e : Int) (n : Nat) (g : Int) : Mag :=
  ⟨m * 2 ^ 200 / n, e - g - 200, m * 2 ^ 200 % n != 0⟩
/-- Division. -/
def Fmt.div (f : Fmt) (v : FEnv) (idx b c : Nat) : Fp :=
  let x := f.read v b
  let y := f.read v c
  (nanOf f [x, y]).getD
    (match x, y with
     | .inf _, .inf _ => f.invalid
     | .inf s, .fin t _ _ => f.overflow v (s ^^ t) true
     | .fin s _ _, .inf t => (f.sign (s ^^ t), 0)
     | .fin s m e, .fin t n g =>
       if n = 0 then (if m = 0 then f.invalid else (f.sign (s ^^ t) + f.infCode, fDz))
       else f.round v idx (s ^^ t) (divMag m e n g)
     | .nan _, _ => f.invalid
     | _, .nan _ => f.invalid)
/-- The whole part of a square root below 2^(k + 1), from the bits above. -/
def isqrt (n : Nat) : Nat → Nat → Nat
  | 0, r => if (r + 1) * (r + 1) ≤ n then r + 1 else r
  | k + 1, r => isqrt n k (if (r + 2 ^ (k + 1)) * (r + 2 ^ (k + 1)) ≤ n then r + 2 ^ (k + 1) else r)
/-- The square root of m * 2^e to 100 bits or more. -/
def sqrtMag (m : Nat) (e : Int) : Mag :=
  let m' := if e % 2 = 0 then m else 2 * m
  let e' := if e % 2 = 0 then e else e - 1
  let n := m' * 2 ^ 200
  let r := isqrt n 128 0
  ⟨r, e' / 2 - 100, r * r != n⟩
/-- Square root. -/
def Fmt.sqrt (f : Fmt) (v : FEnv) (idx b : Nat) : Fp :=
  let x := f.read v b
  (nanOf f [x]).getD
    (match x with
     | .inf s => if s then f.invalid else f.overflow v false true
     | .fin s m e => if m = 0 then (f.sign s, 0) else if s then f.invalid else f.round v idx false (sqrtMag m e)
     | .nan _ => f.invalid)

/-- Less than, for values that are not NaN; a zero's sign counts when `zs` is set. -/
def Num.lt (zs : Bool) : Num → Num → Bool
  | .inf s, .inf t => s && !t
  | .inf s, _ => s
  | _, .inf t => !t
  | .fin s m e, .fin t n g =>
    if m = 0 ∧ n = 0 then zs && s && !t
    else
      let l := min e g
      let a : Int := m * (2 ^ (e - l).toNat : Nat)
      let b : Int := n * (2 ^ (g - l).toNat : Nat)
      (if s then -a else a) < (if t then -b else b)
  | _, _ => false
/-- A pattern as R129 reads it: a subnormal under FTZ is the zero of its sign. -/
def Fmt.pat (f : Fmt) (v : FEnv) (b : Nat) : Nat :=
  match f.read v b with
  | .fin s 0 _ => f.sign s
  | _ => b % 2 ^ (f.sgn + 1)
/-- Minimum (or maximum with `hi`) of two operands (R145). -/
def Fmt.minMax (f : Fmt) (v : FEnv) (hi : Bool) (b c : Nat) : Fp :=
  let x := f.read v b
  let y := f.read v c
  (nanOf f [x, y]).getD
    (if hi then (if x.lt true y then f.pat v c else f.pat v b, 0) else (if y.lt true x then f.pat v c else f.pat v b, 0))
/-- Equality (R145): the flags are those of a signaling NaN. -/
def Fmt.eq (f : Fmt) (v : FEnv) (b c : Nat) : Bool × Word :=
  let x := f.read v b
  let y := f.read v c
  match nanOf f [x, y] with
  | some r => (false, r.2)
  | none => (!x.lt false y && !y.lt false x, 0)
/-- Less than, or with `le` less than or equal (R145): any NaN sets nv. -/
def Fmt.less (f : Fmt) (v : FEnv) (le : Bool) (b c : Nat) : Bool × Word :=
  let x := f.read v b
  let y := f.read v c
  match nanOf f [x, y] with
  | some _ => (false, fNv)
  | none => (if le then !y.lt false x else x.lt false y, 0)
/-- Absolute value and negation (R145). -/
def Fmt.absNeg (f : Fmt) (v : FEnv) (neg : Bool) (b : Nat) : Fp :=
  (nanOf f [f.read v b]).getD
    (let p := f.pat v b
     let mag := p % 2 ^ f.sgn
     if neg then (mag + f.sign (!p.testBit f.sgn), 0) else (mag, 0))

/-! ## Lanes with flags -/

/-- The union of the flags of the active lanes (R142). -/
def laneFlags (n : Nat) (k : KWord) (f : Nat → Word) : Word :=
  (List.range n).foldl (fun a i => if active k i then a ||| f i else a) 0

end Sys2Proof.Machine
end

