-- ==== Sys2Proof/Machine/Integer.lean ====
section
/-! DEFINITION. The integer and address forms (R153 to R158). -/
namespace Sys2Proof.Machine

/-- An integer form writes one x register and raises no flag (R153). -/
def intOut (s : State) (d : XR) (v : Word) : Out := retire s (s.putX d v)
/-- A form of two sources. -/
def intOp2 (s : State) (d : XR) (b c : XS) (f : Word → Word → Word) : Out := intOut s d (f (s.me.getS b) (s.me.getS c))
/-- The 64-bit word of a number. -/
def w64 (n : Nat) : Word := BitVec.ofNat 64 n
/-- 1 or 0. -/
def boolW (b : Bool) : Word := if b then 1 else 0

/-- ADD (R153). -/
def execAdd (d : XR) (b c : XS) (s : State) : Out := intOp2 s d b c (· + ·)
/-- SUB (R153). -/
def execSub (d : XR) (b c : XS) (s : State) : Out := intOp2 s d b c (· - ·)
/-- AND (R153). -/
def execAnd (d : XR) (b c : XS) (s : State) : Out := intOp2 s d b c (· &&& ·)
/-- OR (R153). -/
def execOr (d : XR) (b c : XS) (s : State) : Out := intOp2 s d b c (· ||| ·)
/-- XOR (R153). -/
def execXor (d : XR) (b c : XS) (s : State) : Out := intOp2 s d b c (· ^^^ ·)
/-- ANDN (R153). -/
def execAndn (d : XR) (b c : XS) (s : State) : Out := intOp2 s d b c fun b c => b &&& ~~~c
/-- SLL (R143, R153). -/
def execSll (d : XR) (b c : XS) (s : State) : Out := intOp2 s d b c fun b c => w64 (shl 64 b.toNat c.toNat)
/-- SRL (R143, R153). -/
def execSrl (d : XR) (b c : XS) (s : State) : Out := intOp2 s d b c fun b c => w64 (shr 64 b.toNat c.toNat)
/-- SRA (R143, R153). -/
def execSra (d : XR) (b c : XS) (s : State) : Out := intOp2 s d b c fun b c => w64 (sar 64 b.toNat c.toNat)
/-- ROR (R143, R153). -/
def execRor (d : XR) (b c : XS) (s : State) : Out := intOp2 s d b c fun b c => b.rotateRight (c.toNat % 64)
/-- SLT (R153). -/
def execSlt (d : XR) (b c : XS) (s : State) : Out := intOp2 s d b c fun b c => boolW (b.slt c)
/-- SLTN (R153). -/
def execSltn (d : XR) (b c : XS) (s : State) : Out := intOp2 s d b c fun b c => boolW (b.ult c)
/-- MIN (R153). -/
def execMin (d : XR) (b c : XS) (s : State) : Out := intOp2 s d b c fun b c => if c.slt b then c else b
/-- MAX (R153). -/
def execMax (d : XR) (b c : XS) (s : State) : Out := intOp2 s d b c fun b c => if b.slt c then c else b
/-- MINN (R153). -/
def execMinn (d : XR) (b c : XS) (s : State) : Out := intOp2 s d b c fun b c => if c.ult b then c else b
/-- MAXN (R153). -/
def execMaxn (d : XR) (b c : XS) (s : State) : Out := intOp2 s d b c fun b c => if b.ult c then c else b

/-- ADDI (R154). -/
def execAddi (d : XR) (b : XS) (imm : BitVec 16) (s : State) : Out := intOut s d (s.me.getS b + imm.signExtend 64)
/-- ANDI (R154). -/
def execAndi (d : XR) (b : XS) (imm : BitVec 16) (s : State) : Out := intOut s d (s.me.getS b &&& imm.setWidth 64)
/-- ORI (R154). -/
def execOri (d : XR) (b : XS) (imm : BitVec 16) (s : State) : Out := intOut s d (s.me.getS b ||| imm.setWidth 64)
/-- XORI (R154). -/
def execXori (d : XR) (b : XS) (imm : BitVec 16) (s : State) : Out := intOut s d (s.me.getS b ^^^ imm.setWidth 64)
/-- SLLI (R143, R154). -/
def execSlli (d : XR) (b : XS) (sh : BitVec 6) (s : State) : Out := intOut s d (w64 (shl 64 (s.me.getS b).toNat sh.toNat))
/-- SRLI (R143, R154). -/
def execSrli (d : XR) (b : XS) (sh : BitVec 6) (s : State) : Out := intOut s d (w64 (shr 64 (s.me.getS b).toNat sh.toNat))
/-- SRAI (R143, R154). -/
def execSrai (d : XR) (b : XS) (sh : BitVec 6) (s : State) : Out := intOut s d (w64 (sar 64 (s.me.getS b).toNat sh.toNat))
/-- SLTI (R154). -/
def execSlti (d : XR) (b : XS) (imm : BitVec 16) (s : State) : Out :=
  intOut s d (boolW ((s.me.getS b).slt (imm.signExtend 64)))
/-- SLTNI (R154). -/
def execSltni (d : XR) (b : XS) (imm : BitVec 16) (s : State) : Out :=
  intOut s d (boolW ((s.me.getS b).ult (imm.setWidth 64)))

/-- LI (R155). -/
def execLi (d : XR) (imm : BitVec 32) (s : State) : Out := intOut s d (imm.signExtend 64)
/-- LIH (R155): bits [31:0] are kept. -/
def execLih (d : XR) (imm : BitVec 32) (s : State) : Out := intOut s d (imm ++ (s.me.getX d).setWidth 32)

/-- MUL (R156). -/
def execMul (d : XR) (b c : XS) (s : State) : Out := intOp2 s d b c (· * ·)
/-- MULH (R156). -/
def execMulh (d : XR) (b c : XS) (s : State) : Out :=
  intOp2 s d b c fun b c => BitVec.ofInt 64 (b.toInt * c.toInt / (2 ^ 64 : Nat))
/-- MULHN (R156). -/
def execMulhn (d : XR) (b c : XS) (s : State) : Out := intOp2 s d b c fun b c => w64 (b.toNat * c.toNat / 2 ^ 64)
/-- Cycles of DIV, DIVN, REM and REMN (R139). -/
def divCycles : Nat := 40
/-- A division form is a long op of 40 cycles (R139, R156). -/
def divOut (s : State) (d : XR) (v : Word) : Out := retireAfter s (s.putX d v) divCycles
/-- The signed quotient of R156. -/
def divS (b c : Word) : Int :=
  if c = 0 then -1 else if b.toInt = -((2 ^ 63 : Nat) : Int) ∧ c.toInt = -1 then -((2 ^ 63 : Nat) : Int)
  else b.toInt.tdiv c.toInt
/-- The signed remainder of R156. -/
def remS (b c : Word) : Int :=
  if c = 0 then b.toInt else if b.toInt = -((2 ^ 63 : Nat) : Int) ∧ c.toInt = -1 then 0
  else b.toInt - divS b c * c.toInt
/-- The unsigned quotient of R156. -/
def divN (b c : Word) : Nat := if c = 0 then 2 ^ 64 - 1 else b.toNat / c.toNat
/-- The unsigned remainder of R156. -/
def remN (b c : Word) : Nat := if c = 0 then b.toNat else b.toNat - divN b c * c.toNat
/-- DIV (R156). -/
def execDiv (d : XR) (b c : XS) (s : State) : Out := divOut s d (BitVec.ofInt 64 (divS (s.me.getS b) (s.me.getS c)))
/-- DIVN (R156). -/
def execDivn (d : XR) (b c : XS) (s : State) : Out := divOut s d (w64 (divN (s.me.getS b) (s.me.getS c)))
/-- REM (R156). -/
def execRem (d : XR) (b c : XS) (s : State) : Out := divOut s d (BitVec.ofInt 64 (remS (s.me.getS b) (s.me.getS c)))
/-- REMN (R156). -/
def execRemn (d : XR) (b c : XS) (s : State) : Out := divOut s d (w64 (remN (s.me.getS b) (s.me.getS c)))

/-- Index of the lowest set bit among n bits of a value, or n (R157, R167). -/
def lowBit (v n : Nat) : Nat := ((List.range n).find? fun i => v.testBit i).getD n
/-- Number of zero bits above the highest set bit among n bits (R157). -/
def leadZeros (v n : Nat) : Nat := ((List.range n).find? fun i => v.testBit (n - 1 - i)).getD n
/-- Number of set bits among n bits (R157). -/
def countBits (v n : Nat) : Nat := (List.range n).countP fun i => v.testBit i
/-- The bits of a 64-bit word in reverse order (R157). -/
def revBits (v : Nat) : Nat := (List.range 64).foldl (fun a i => if v.testBit (63 - i) then a + 2 ^ i else a) 0
/-- CLZ (R157). -/
def execClz (d : XR) (b : XS) (s : State) : Out := intOut s d (w64 (leadZeros (s.me.getS b).toNat 64))
/-- CTZ (R157). -/
def execCtz (d : XR) (b : XS) (s : State) : Out := intOut s d (w64 (lowBit (s.me.getS b).toNat 64))
/-- POPC (R157). -/
def execPopc (d : XR) (b : XS) (s : State) : Out := intOut s d (w64 (countBits (s.me.getS b).toNat 64))
/-- BREV (R157). -/
def execBrev (d : XR) (b : XS) (s : State) : Out := intOut s d (w64 (revBits (s.me.getS b).toNat))
/-- ADDPC (R158): nothing is checked here. -/
def execAddpc (d : XR) (off : BitVec 32) (s : State) : Out := intOut s d (w64 (codeTarget s.me.pc off.toInt))

end Sys2Proof.Machine
end

