-- ==== Sys2Proof/Machine/Vector.lean ====
section
/-! DEFINITION. The vector integer, vector floating-point, vector immediate and mask forms (R142, R161 to R167). -/
namespace Sys2Proof.Machine

/-! ## Lane-wise results -/

/-- Write lanes of width w from per-lane results with their flags: active lanes only (R142). -/
def State.putLanes (s : State) (w : Nat) (d : VR) (m : KR) (f : Nat → Fp) : State :=
  let k := s.me.getK m
  s.mapMe fun c =>
    (c.setV d (mergeLanes (c.getV d) w k fun i => (f i).1)).flag (laneFlags (lanesOf w) k fun i => (f i).2)
/-- Write a mask from per-lane bits with their flags (R142). -/
def State.putMask (s : State) (w : Nat) (d m : KR) (f : Nat → Bool × Word) : State :=
  let k := s.me.getK m
  s.mapMe fun c =>
    (c.setK d (maskLanes (lanesOf w) k fun i => (f i).1)).flag (laneFlags (lanesOf w) k fun i => (f i).2)
/-- Lane i of width w of a source. -/
def State.lane (s : State) (b : VR) (w i : Nat) : Nat := Machine.lane (s.me.getV b) w i
/-- An integer form of two vector sources: f takes the lanes as patterns (R162). -/
def vInt2 (s : State) (t : ElemT) (d b c : VR) (m : KR) (f : Nat → Nat → Fp) : Out :=
  retire s (s.putLanes t.width d m fun i => f (s.lane b t.width i) (s.lane c t.width i))
/-- An integer form of one vector source. -/
def vInt1 (s : State) (t : ElemT) (d b : VR) (m : KR) (f : Nat → Fp) : Out :=
  retire s (s.putLanes t.width d m fun i => f (s.lane b t.width i))
/-- An integer comparison (R163). -/
def vCmp (s : State) (t : ElemT) (d : KR) (b c : VR) (m : KR) (f : Int → Int → Bool) : Out :=
  retire s (s.putMask t.width d m fun i => (f (readInt t (s.lane b t.width i)) (readInt t (s.lane c t.width i)), 0))
/-- A value with no flag. -/
def plain (v : Nat) : Fp := (v, 0)

/-! ## Major 0x28 (R162) -/

/-- VADD (R162). -/
def execVadd (t : ElemT) (d b c : VR) (m : KR) (s : State) : Out := vInt2 s t d b c m fun b c => plain ((b + c) % 2 ^ t.width)
/-- VSUB (R162). -/
def execVsub (t : ElemT) (d b c : VR) (m : KR) (s : State) : Out := vInt2 s t d b c m fun b c => plain (wrap ((b : Int) - c) t.width)
/-- VMUL (R162). -/
def execVmul (t : ElemT) (d b c : VR) (m : KR) (s : State) : Out := vInt2 s t d b c m fun b c => plain (b * c % 2 ^ t.width)
/-- VMULH (R162). -/
def execVmulh (t : ElemT) (d b c : VR) (m : KR) (s : State) : Out :=
  vInt2 s t d b c m fun b c => plain (wrap (readInt t b * readInt t c / (2 ^ t.width : Nat)) t.width)
/-- VAND (R162). -/
def execVand (t : ElemT) (d b c : VR) (m : KR) (s : State) : Out := vInt2 s t d b c m fun b c => plain (b &&& c)
/-- VOR (R162). -/
def execVor (t : ElemT) (d b c : VR) (m : KR) (s : State) : Out := vInt2 s t d b c m fun b c => plain (b ||| c)
/-- VXOR (R162). -/
def execVxor (t : ElemT) (d b c : VR) (m : KR) (s : State) : Out := vInt2 s t d b c m fun b c => plain (b ^^^ c)
/-- VANDN (R162). -/
def execVandn (t : ElemT) (d b c : VR) (m : KR) (s : State) : Out := vInt2 s t d b c m fun b c => plain (b &&& (2 ^ t.width - 1 - c))
/-- VSLL (R143, R162). -/
def execVsll (t : ElemT) (d b c : VR) (m : KR) (s : State) : Out := vInt2 s t d b c m fun b c => plain (shl t.width b c)
/-- VSRL (R143, R162). -/
def execVsrl (t : ElemT) (d b c : VR) (m : KR) (s : State) : Out := vInt2 s t d b c m fun b c => plain (shr t.width b c)
/-- VSRA (R143, R162). -/
def execVsra (t : ElemT) (d b c : VR) (m : KR) (s : State) : Out := vInt2 s t d b c m fun b c => plain (sar t.width b c)
/-- VMIN (R162). -/
def execVmin (t : ElemT) (d b c : VR) (m : KR) (s : State) : Out := vInt2 s t d b c m fun b c => plain (if readInt t c < readInt t b then c else b)
/-- VMAX (R162). -/
def execVmax (t : ElemT) (d b c : VR) (m : KR) (s : State) : Out := vInt2 s t d b c m fun b c => plain (if readInt t b < readInt t c then c else b)
/-- VADDS (R162). -/
def execVadds (t : ElemT) (d b c : VR) (m : KR) (s : State) : Out := vInt2 s t d b c m fun b c => satT t (readInt t b + readInt t c)
/-- VSUBS (R162). -/
def execVsubs (t : ElemT) (d b c : VR) (m : KR) (s : State) : Out := vInt2 s t d b c m fun b c => satT t (readInt t b - readInt t c)
/-- VABS (R162). -/
def execVabs (t : ElemT) (d b : VR) (m : KR) (s : State) : Out :=
  vInt1 s t d b m fun b => satS (sext b t.width).natAbs t.width

/-! ## Major 0x29 (R163) -/

/-- VCMPEQ (R163). -/
def execVcmpeq (t : ElemT) (d : KR) (b c : VR) (m : KR) (s : State) : Out := vCmp s t d b c m fun b c => b == c
/-- VCMPLT (R163). -/
def execVcmplt (t : ElemT) (d : KR) (b c : VR) (m : KR) (s : State) : Out := vCmp s t d b c m fun b c => b < c
/-- VCMPLE (R163). -/
def execVcmple (t : ElemT) (d : KR) (b c : VR) (m : KR) (s : State) : Out := vCmp s t d b c m fun b c => b ≤ c
/-- VSEL (R163): the mask selects, and every lane is written. -/
def execVsel (t : ElemT) (d b c : VR) (m : KR) (s : State) : Out :=
  retire s (s.putV d (ofLanes t.width ((List.range (lanesOf t.width)).map fun i =>
    if active (s.me.getK m) i then s.lane b t.width i else s.lane c t.width i)))
/-- VSPLAT (R163). -/
def execVsplat (t : ElemT) (d : VR) (b : XS) (m : KR) (s : State) : Out :=
  retire s (s.putLanes t.width d m fun _ => plain ((s.me.getS b).toNat % 2 ^ t.width))
/-- VNEG (R163). -/
def execVneg (t : ElemT) (d b : VR) (m : KR) (s : State) : Out := vInt1 s t d b m fun b => plain (wrap (-(b : Int)) t.width)

/-! ## Major 0x2C and 0x2D (R164, R165) -/

/-- VADDI (R164). -/
def execVaddi (t : ElemT) (d b : VR) (imm : BitVec 16) (m : KR) (s : State) : Out :=
  vInt1 s t d b m fun b => plain (wrap ((b : Int) + imm.toInt) t.width)
/-- VANDI (R164). -/
def execVandi (t : ElemT) (d b : VR) (imm : BitVec 16) (m : KR) (s : State) : Out :=
  vInt1 s t d b m fun b => plain (b &&& imm.toNat % 2 ^ t.width)
/-- VORI (R164). -/
def execVori (t : ElemT) (d b : VR) (imm : BitVec 16) (m : KR) (s : State) : Out :=
  vInt1 s t d b m fun b => plain (b ||| imm.toNat % 2 ^ t.width)
/-- VSLLI (R143, R164). -/
def execVslli (t : ElemT) (d b : VR) (sh : BitVec 6) (m : KR) (s : State) : Out :=
  vInt1 s t d b m fun b => plain (shl t.width b sh.toNat)
/-- VSRLI (R143, R164). -/
def execVsrli (t : ElemT) (d b : VR) (sh : BitVec 6) (m : KR) (s : State) : Out :=
  vInt1 s t d b m fun b => plain (shr t.width b sh.toNat)
/-- VSRAI (R143, R164). -/
def execVsrai (t : ElemT) (d b : VR) (sh : BitVec 6) (m : KR) (s : State) : Out :=
  vInt1 s t d b m fun b => plain (sar t.width b sh.toNat)
/-- VSPLATI (R164). -/
def execVsplati (t : ElemT) (d : VR) (imm : BitVec 16) (m : KR) (s : State) : Out :=
  retire s (s.putLanes t.width d m fun _ => plain (wrap imm.toInt t.width))
/-- One value in every lane of width w. -/
def splat (w v : Nat) : VWord := ofLanes w (List.replicate (lanesOf w) v)
/-- VLI.16 (R165). -/
def execVli16 (d : VR) (imm : BitVec 16) (s : State) : Out := retire s (s.putV d (splat 16 imm.toNat))
/-- VLI.32 (R165). -/
def execVli32 (d : VR) (imm : BitVec 32) (s : State) : Out := retire s (s.putV d (splat 32 imm.toNat))
/-- VLI.64 (R165). -/
def execVli64 (d : VR) (imm : BitVec 32) (s : State) : Out := retire s (s.putV d (splat 64 (imm.signExtend 64).toNat))

/-! ## Major 0x2A (R166) -/

/-- The format of a vector floating type; F64 has no lanes. -/
def vFmt : ElemT → Fmt
  | .f16 => fmtF16
  | .bf16 => fmtBF16
  | _ => fmtF32
/-- A lane-wise floating result; f takes the lane number (R133). -/
def State.vf (s : State) (t : ElemT) (d : VR) (m : KR) (f : Nat → Fp) : State := s.putLanes t.width d m f
/-- A rounding form of two sources (R144). -/
def vf2 (s : State) (t : ElemT) (d b c : VR) (m : KR) (f : Nat → Nat → Nat → Fp) : Out :=
  s.needRmode (retire s (s.vf t d m fun i => f i (s.lane b t.width i) (s.lane c t.width i)))
/-- Cycles of VFDIV and VFSQRT (R139). -/
def vfCycles (t : ElemT) : Nat := if t = .f32 then 28 else 20
/-- A fused form (R166). VFNMA inverts the signs of both addends, so two zeros of one sign give the zero of the other (DESIGN
CHOICE, log entry 72). -/
def vfFma (s : State) (t : ElemT) (d b c : VR) (m : KR) (negD negP : Bool) : Out :=
  vf2 s t d b c m fun i x y => (vFmt t).fma s.env i negD negP (s.lane d t.width i) x y
/-- VFADD (R166). -/
def execVfadd (t : ElemT) (d b c : VR) (m : KR) (s : State) : Out := vf2 s t d b c m fun i b c => (vFmt t).add s.env i b c
/-- VFSUB (R166). -/
def execVfsub (t : ElemT) (d b c : VR) (m : KR) (s : State) : Out := vf2 s t d b c m fun i b c => (vFmt t).sub s.env i b c
/-- VFMUL (R166). -/
def execVfmul (t : ElemT) (d b c : VR) (m : KR) (s : State) : Out := vf2 s t d b c m fun i b c => (vFmt t).mul s.env i b c
/-- VFMA (R166): d + b * c. -/
def execVfma (t : ElemT) (d b c : VR) (m : KR) (s : State) : Out := vfFma s t d b c m false false
/-- VFMS (R166): d - b * c. -/
def execVfms (t : ElemT) (d b c : VR) (m : KR) (s : State) : Out := vfFma s t d b c m false true
/-- VFNMA (R166): -(d + b * c). -/
def execVfnma (t : ElemT) (d b c : VR) (m : KR) (s : State) : Out := vfFma s t d b c m true true
/-- VFMIN (R145, R166). -/
def execVfmin (t : ElemT) (d b c : VR) (m : KR) (s : State) : Out :=
  retire s (s.vf t d m fun i => (vFmt t).minMax s.env false (s.lane b t.width i) (s.lane c t.width i))
/-- VFMAX (R145, R166). -/
def execVfmax (t : ElemT) (d b c : VR) (m : KR) (s : State) : Out :=
  retire s (s.vf t d m fun i => (vFmt t).minMax s.env true (s.lane b t.width i) (s.lane c t.width i))
/-- VFDIV (R139, R166). -/
def execVfdiv (t : ElemT) (d b c : VR) (m : KR) (s : State) : Out :=
  s.needRmode (retireAfter s (s.vf t d m fun i => (vFmt t).div s.env i (s.lane b t.width i) (s.lane c t.width i))
    (vfCycles t))
/-- VFSQRT (R139, R166). -/
def execVfsqrt (t : ElemT) (d b : VR) (m : KR) (s : State) : Out :=
  s.needRmode (retireAfter s (s.vf t d m fun i => (vFmt t).sqrt s.env i (s.lane b t.width i)) (vfCycles t))
/-- VFABS (R145, R166). -/
def execVfabs (t : ElemT) (d b : VR) (m : KR) (s : State) : Out :=
  retire s (s.vf t d m fun i => (vFmt t).absNeg s.env false (s.lane b t.width i))
/-- VFNEG (R145, R166). -/
def execVfneg (t : ElemT) (d b : VR) (m : KR) (s : State) : Out :=
  retire s (s.vf t d m fun i => (vFmt t).absNeg s.env true (s.lane b t.width i))
/-- VFCMPEQ (R145, R166). -/
def execVfcmpeq (t : ElemT) (d : KR) (b c : VR) (m : KR) (s : State) : Out :=
  retire s (s.putMask t.width d m fun i => (vFmt t).eq s.env (s.lane b t.width i) (s.lane c t.width i))
/-- VFCMPLT (R145, R166). -/
def execVfcmplt (t : ElemT) (d : KR) (b c : VR) (m : KR) (s : State) : Out :=
  retire s (s.putMask t.width d m fun i => (vFmt t).less s.env false (s.lane b t.width i) (s.lane c t.width i))
/-- VFCMPLE (R145, R166). -/
def execVfcmple (t : ElemT) (d : KR) (b c : VR) (m : KR) (s : State) : Out :=
  retire s (s.putMask t.width d m fun i => (vFmt t).less s.env true (s.lane b t.width i) (s.lane c t.width i))

/-! ## Major 0x2B (R167) -/

/-- KAND (R167). -/
def execKand (d b c : KR) (s : State) : Out := retire s (s.putK d (s.me.getK b &&& s.me.getK c))
/-- KOR (R167). -/
def execKor (d b c : KR) (s : State) : Out := retire s (s.putK d (s.me.getK b ||| s.me.getK c))
/-- KXOR (R167). -/
def execKxor (d b c : KR) (s : State) : Out := retire s (s.putK d (s.me.getK b ^^^ s.me.getK c))
/-- KANDN (R167). -/
def execKandn (d b c : KR) (s : State) : Out := retire s (s.putK d (s.me.getK b &&& ~~~s.me.getK c))
/-- KNOT (R167). -/
def execKnot (d b : KR) (s : State) : Out := retire s (s.putK d (~~~s.me.getK b))
/-- KMOVX (R167). -/
def execKmovx (d : KR) (b : XS) (s : State) : Out := retire s (s.putK d ((s.me.getS b).setWidth 32))
/-- KTOX (R167). -/
def execKtox (d : XR) (b : KR) (s : State) : Out := retire s (s.putX d ((s.me.getK b).setWidth 64))
/-- KPOPC (R167). -/
def execKpopc (d : XR) (b : KR) (s : State) : Out := retire s (s.putX d (w64 (countBits (s.me.getK b).toNat 32)))
/-- KFIRST (R167). -/
def execKfirst (d : XR) (b : KR) (s : State) : Out := retire s (s.putX d (w64 (lowBit (s.me.getK b).toNat 32)))

end Sys2Proof.Machine
end

