-- ==== Sys2Proof/Machine/Lanes.lean ====
section
/-! DEFINITION. The lane forms and the reductions (R168 to R177). -/
namespace Sys2Proof.Machine

/-! ## Lane forms, major 0x30 (R174) -/

/-- A lane form: active lanes take f (R174). -/
def laneOut (s : State) (t : ElemT) (d : VR) (m : KR) (f : Nat → Nat) : Out :=
  retire s (s.putLanes t.width d m fun i => plain (f i))
/-- A lane form that writes every lane. -/
def laneAll (s : State) (t : ElemT) (d : VR) (f : Nat → Nat) : Out :=
  retire s (s.putV d (ofLanes t.width ((List.range (lanesOf t.width)).map f)))
/-- The number of active lanes below lane i. -/
def activeBelow (k : KWord) (i : Nat) : Nat := (List.range i).countP (active k)
/-- The active lanes of n, rising. -/
def activeLanes (k : KWord) (n : Nat) : List Nat := (List.range n).filter (active k)
/-- VXLR (R174): the mask marks source lanes. -/
def execVxlr (t : ElemT) (d b c : VR) (m : KR) (s : State) : Out :=
  laneAll s t d fun i =>
    let j := s.lane c t.width i
    if j < lanesOf t.width && active (s.me.getK m) j then s.lane b t.width j else 0
/-- VPERM (R174). -/
def execVperm (t : ElemT) (d b c i : VR) (m : KR) (s : State) : Out :=
  laneOut s t d m fun l =>
    let n := lanesOf t.width
    let j := s.lane i t.width l % (2 * n)
    if j < n then s.lane b t.width j else s.lane c t.width (j - n)
/-- VCOMPR (R174). -/
def execVcompr (t : ElemT) (d b : VR) (m : KR) (s : State) : Out :=
  let l := activeLanes (s.me.getK m) (lanesOf t.width)
  laneAll s t d fun i => if i < l.length then s.lane b t.width (l.getD i 0) else 0
/-- VEXPND (R174). -/
def execVexpnd (t : ElemT) (d b : VR) (m : KR) (s : State) : Out :=
  laneAll s t d fun i =>
    if active (s.me.getK m) i then s.lane b t.width (activeBelow (s.me.getK m) i) else 0
/-- VSLUP (R174). -/
def execVslup (t : ElemT) (d b : VR) (c : XS) (m : KR) (s : State) : Out :=
  laneOut s t d m fun i => let k := (s.me.getS c).toNat; if k ≤ i then s.lane b t.width (i - k) else 0
/-- VSLDN (R174). -/
def execVsldn (t : ElemT) (d b : VR) (c : XS) (m : KR) (s : State) : Out :=
  laneOut s t d m fun i => let k := (s.me.getS c).toNat; if i + k < lanesOf t.width then s.lane b t.width (i + k) else 0
/-- VZIP (R174). -/
def execVzip (t : ElemT) (d b c : VR) (m : KR) (s : State) : Out :=
  laneOut s t d m fun i => if i % 2 = 0 then s.lane b t.width (i / 2) else s.lane c t.width ((i - 1) / 2)
/-- VUNZIP (R174). -/
def execVunzip (t : ElemT) (d b c : VR) (m : KR) (s : State) : Out :=
  laneOut s t d m fun i =>
    let n := lanesOf t.width
    if i < n / 2 then s.lane b t.width (2 * i) else s.lane c t.width (2 * i - n)
/-- A lane value as an x register holds it: sign-extended for sN types (R174, R176). -/
def xOfLane (t : ElemT) (v : Nat) : Word := if t.isSigned then BitVec.ofInt 64 (sext v t.width) else w64 (zext v t.width)
/-- VEXTR (R174). -/
def execVextr (t : ElemT) (d : XR) (b : VR) (c : XS) (s : State) : Out :=
  let k := (s.me.getS c).toNat
  retire s (s.putX d (xOfLane t (if k < lanesOf t.width then s.lane b t.width k else 0)))
/-- VINS (R174). -/
def execVins (t : ElemT) (d : VR) (b c : XS) (s : State) : Out :=
  let k := (s.me.getS c).toNat
  retire s (s.putV d (ofLanes t.width ((List.range (lanesOf t.width)).map fun i =>
    if i = k then (s.me.getS b).toNat % 2 ^ t.width else s.lane d t.width i)))

/-! ## Reductions, major 0x31 (R176, R177) -/

/-- Operations of the reductions. -/
inductive RedK where
  | add | min | max | and | or
  deriving DecidableEq, Repr
/-- The identity of R177. -/
def redIdent (op : RedK) (t : ElemT) : Nat :=
  let w := t.width
  match op with
  | .add | .or => 0
  | .and => 2 ^ w - 1
  | .min => if t.isInt then (if t.isSigned then 2 ^ (w - 1) - 1 else 2 ^ w - 1) else (vFmt t).infCode
  | .max => if t.isInt then (if t.isSigned then 2 ^ (w - 1) else 0) else (vFmt t).sign true + (vFmt t).infCode
/-- The first active lane: a floating one is read under R129, and a NaN becomes canonical (R176). -/
def redFirst (t : ElemT) (v : FEnv) (b : Nat) : Fp :=
  if t.isInt then plain b
  else (nanOf (vFmt t) [(vFmt t).read v b]).getD (plain ((vFmt t).pat v b))
/-- One further step of a reduction (R176): every rounded step has element index 0. -/
def redStep (op : RedK) (t : ElemT) (v : FEnv) (a b : Nat) : Fp :=
  let f := vFmt t
  match op with
  | .add => if t.isInt then plain ((a + b) % 2 ^ t.width) else f.add v 0 a b
  | .min => if t.isInt then plain (if readInt t b < readInt t a then b else a) else f.minMax v false a b
  | .max => if t.isInt then plain (if readInt t a < readInt t b then b else a) else f.minMax v true a b
  | .and => plain (a &&& b)
  | .or => plain (a ||| b)
/-- The running results of a reduction over lane values in order, each with the flags of its own step (R176). -/
def redRun (op : RedK) (t : ElemT) (v : FEnv) : Option Nat → List Nat → List Fp
  | _, [] => []
  | none, b :: bs => let r := redFirst t v b; r :: redRun op t v (some r.1) bs
  | some a, b :: bs => let r := redStep op t v a b; r :: redRun op t v (some r.1) bs
/-- The flags of a list of steps. -/
def allFlags (l : List Fp) : Word := l.foldl (fun a r => a ||| r.2) 0
/-- A reduction form rounds when it adds floats (R170). -/
def redRounds (op : RedK) (t : ElemT) (s : State) (k : Out) : Out :=
  if op = .add ∧ t.isInt = false then s.needRmode k else k
/-- The steps of a reduction of b under a mask. -/
def State.redSteps (s : State) (op : RedK) (t : ElemT) (b : VR) (m : KR) : List Fp :=
  redRun op t s.env none ((activeLanes (s.me.getK m) (lanesOf t.width)).map (s.lane b t.width))
/-- Cycles of a reduction of a active lanes (R169). -/
def redCycles (a : Nat) : Nat := 2 * a + 6
/-- VRED (R176): a long op of 2a + 6 cycles (R169). -/
def vred (op : RedK) (t : ElemT) (d : XR) (b : VR) (m : KR) (s : State) : Out :=
  let l := s.redSteps op t b m
  let v := ((l.getLast?).map (·.1)).getD (redIdent op t)
  redRounds op t s (retireAfter s (s.mapMe fun c => (c.setX d (xOfLane t v)).flag (allFlags l)) (redCycles l.length))
/-- VSCAN (R176): an active lane takes the running result. -/
def vscan (op : RedK) (t : ElemT) (d b : VR) (m : KR) (s : State) : Out :=
  let l := s.redSteps op t b m
  let k := s.me.getK m
  redRounds op t s (retireAfter s (s.mapMe fun c =>
    (c.setV d (mergeLanes (c.getV d) t.width k fun i => (l.getD (activeBelow k i) (0, 0)).1)).flag (allFlags l))
    (redCycles l.length))
/-- VRED.ADD (R176). -/
def execVredAdd (t : ElemT) (d : XR) (b : VR) (m : KR) (s : State) : Out := vred .add t d b m s
/-- VRED.MIN (R176). -/
def execVredMin (t : ElemT) (d : XR) (b : VR) (m : KR) (s : State) : Out := vred .min t d b m s
/-- VRED.MAX (R176). -/
def execVredMax (t : ElemT) (d : XR) (b : VR) (m : KR) (s : State) : Out := vred .max t d b m s
/-- VRED.AND (R176). -/
def execVredAnd (t : ElemT) (d : XR) (b : VR) (m : KR) (s : State) : Out := vred .and t d b m s
/-- VRED.OR (R176). -/
def execVredOr (t : ElemT) (d : XR) (b : VR) (m : KR) (s : State) : Out := vred .or t d b m s
/-- VSCAN.ADD (R176). -/
def execVscanAdd (t : ElemT) (d b : VR) (m : KR) (s : State) : Out := vscan .add t d b m s
/-- VSCAN.MIN (R176). -/
def execVscanMin (t : ElemT) (d b : VR) (m : KR) (s : State) : Out := vscan .min t d b m s
/-- VSCAN.MAX (R176). -/
def execVscanMax (t : ElemT) (d b : VR) (m : KR) (s : State) : Out := vscan .max t d b m s

end Sys2Proof.Machine
end

