-- ==== Sys2Proof/Machine/LoadStore.lean ====
section
/-! DEFINITION. Ordinary, vector, indexed and parameter loads and stores, and the events that perform them elsewhere
(R255, R258, R272, R283, R297 to R300, R305 to R307, R91). -/
namespace Sys2Proof.Machine

/-! ## Armed errors of memory (R441, R467) -/

/-- The unit that serves a piece of a read, as a structure code of R441: the scratchpad, an L1 line, a slice line, or an
HBM line. A form that acts at the home reads there, not in an L1 (R312, R330). -/
def State.servedBy (s : State) (home : Bool) (p : Piece) : Nat :=
  if isSpad p.key then 3
  else if !home && (dlineFind (s.core s.myCore).l1d s.me.asid.toNat p.va).isSome then 4
  else
    match s.bankFor (s.asker s.cur) p.va p.key with
    | none => 15
    | some b =>
      if (!home && s.sliceHas (bankCluster (proxyBank (fieldOf s.myCore) b)) p.key) || s.sliceHas (bankCluster b) p.key then 5
      else if isHbm p.key then 6 else 15
/-- Poison a 64-byte line. -/
def State.setBadLine (s : State) (pa : Nat) : State :=
  (List.range 8).foldl (fun s i => s.setBad (pa / 64 * 64 + 8 * i)) s
/-- The armed error of a memory unit meets a piece: corrected and logged, or the data is poisoned; an uncorrectable
error in a clean L1 line only drops the line (R441, R467, R474). -/
def State.meetPiece (s : State) (a : Armed) (p : Piece) : State :=
  let n := s.myCore
  let s := s.mapMe fun c => { c with armed := none }
  let ty := if a.unc then 1 else 0
  match a.struct with
  | 3 =>
    let k := spadCore p.key
    let s := s.logClu (clusterOf k) .spad (errRec ty 3 (s.colUnit k) 0 (wordOf (spadOff p.key)) (a.bit % 64) s.cycle)
    if a.unc then s.setBad p.key else s
  | 4 =>
    let dirty := ((dlineFind (s.core n).l1d s.me.asid.toNat p.va).map (·.dirty)).getD false
    let s := s.logClu (clusterOf n) .l1
      (errRec (if a.unc && dirty then 1 else 0) 4 (s.colUnit n) 0 (p.key / 64 * 4) (a.bit % 512) s.cycle)
    if !a.unc then s
    else if dirty then s.setBadLine p.key
    else s.mapCore n fun k => { k with l1d := k.l1d.filter fun d => d.pa != p.key / 64 * 64 }
  | 5 =>
    let b := (s.bankFor (s.asker s.cur) p.va p.key).getD 0
    let b := if s.sliceHas (bankCluster (proxyBank (fieldOf n) b)) p.key then proxyBank (fieldOf n) b else b
    let s := s.logClu (bankCluster b) .slice
      (errRec ty 5 (s.unitCode (bankCluster b) (b % 4)) 1 (p.key / 64 * 4) (a.bit % 512) s.cycle)
    if a.unc then s.setBadLine p.key else s
  | _ =>
    let h := stackOf p.key
    let s := s.logStack h (errRec ty 6 (s.stackUnit h) 3 (p.key / 64 * 4) (a.bit % 512) s.cycle)
    if a.unc then s.setBadLine p.key else s
/-- A read of the executing context meets its armed error, if the read reaches the armed structure (R441). -/
def State.meetRead (s : State) (home : Bool) (ps : List Piece) : State :=
  match s.me.armed with
  | none => s
  | some a =>
    match ps.find? fun p => s.servedBy home p == a.struct with
    | some p => s.meetPiece a p
    | none => s

/-! ## Reads -/

/-- Bring the lines of a read into L1 and the slices, all but the first missing one, which is returned (R272). -/
def State.bringLines (s : State) (ps : List Piece) : State × Option Piece :=
  let q := s.asker s.cur
  let out := ps.find? fun p => !isSpad p.key && !isRemote p.key && (dlineFind (s.core q.core).l1d q.asid p.va).isNone
  (ps.foldl (fun s p => if isSpad p.key || isRemote p.key || some p == out then s else s.proxyServe q p.va p.key p.grant) s, out)
/-- An access whose record has met an uncorrectable error: the word that it is for is written poisoned when it is performed (R467). -/
def State.meetRecord (s : State) (ps : List Piece) : State :=
  match ps with
  | p :: _ => if s.me.recBad then (s.mapMe fun c => { c with recBad := false }).setBad p.key else s
  | [] => s
/-- Order 8 of R299: a read of a poisoned word traps; the read may meet an armed error first. `home` says that the form acts at the
home. -/
def State.readCheck (s : State) (home : Bool) (ps : List Piece) (k : State → Out) : Out :=
  let s := (s.meetRead home ps).meetRecord ps
  match s.badPiece ps with
  | some a => .next (s.trap 0x1A (BitVec.ofNat 64 a))
  | none => k s
/-- A read has its value, s' being the state with its effect. A read of the own scratchpad alone has fixed latency; any
other is a long op, whose reply comes from the proxy when L1 misses (R91, R255, R272, R297). -/
def endRead (s s' : State) (fixed : Bool) (ps : List Piece) : Out :=
  if fixed && allOwn s.myCore ps then retire s s'
  else
    match s'.bringLines ps with
    | (t, none) => retireLong s t
    | (t, some p) => retire s ((t.mapMe fun c => { c with why := some .longOp, fill := some ⟨c.asid.toNat, p.va, p.key, p.grant⟩ }).post
        (.proxyAccess s.cur p.va p.key false))
/-- A read of several aligned words from memory: its words are performed one by one, at any time until its reply arrives, or, of the
own scratchpad, until its context issues again (R258, R280). -/
def State.readLate (s : State) (ps : List Piece) (dst : XR × Bool ⊕ VR × ElemT × KWord) : State :=
  let ks := pieceKeys ps
  let ws := keyWords ks
  if ws.length < 2 then s
  else
    let vas := ps.flatMap fun p => (List.range p.len).map (p.va + ·)
    s.mapMe fun c => { c with late := some ⟨ks, vas, ws.map fun w => (w, s.rdN w 8), dst⟩ }
/-- Read the bytes of the pieces for the executing context and go on with their value (R283, R299 order 8). -/
def readPieces (s : State) (fixed : Bool) (ps : List Piece) (dst : XR × Bool ⊕ VR × ElemT × KWord) (fin : State → Nat → State) : Out :=
  let ks := pieceKeys ps
  match s.loadSource ks with
  | .after n => .next (s.awaitDrain n)
  | .forward v bad =>
    if bad then .next (s.trap 0x1A (BitVec.ofNat 64 ((ps.map (·.va)).headD 0))) else endRead s (fin s v) fixed ps
  | .memory => s.readCheck false ps fun s =>
      endRead s (fin ((s.noteReads s.cur false (keyWords ks)).readLate ps dst) (s.readKeys ks)) fixed ps
/-- The value a scalar load of n bytes puts into its register (R300). -/
def loadVal (sg : Bool) (n v : Nat) : Word := if sg then BitVec.ofInt 64 (sext v (8 * n)) else w64 v
/-- Every byte lies in one word of a peer's scratchpad, and no buffered store of the context touches it. -/
def State.atPeer (s : State) (ps : List Piece) : Option Piece :=
  match ps with
  | [p] => if isSpad p.key && spadCore p.key != s.myCore && p.key % 8 + p.len ≤ 8 && (bufHits s.me.buf (pieceKeys ps)).isEmpty then some p else none
  | _ => none
/-- A scalar load of n bytes at ea (R300): of a peer slot, it is performed at the peer's port, and the context waits
for the reply (R255, R258). -/
def load (s : State) (sg : Bool) (n : Nat) (d : XR) (ea : Word) : Out :=
  s.onRes .load (s.resolveMe .load ea.toNat n) fun ps =>
    match s.atPeer ps with
    | some p =>
      s.readCheck false ps fun s =>
        retire s ((s.mapMe fun c => { c with why := some .longOp, fill := some ⟨c.asid.toNat, p.va, p.key, none⟩ }).post
          (.peerAccessAtPort (spadCore p.key) (spadOff p.key) n sg false 0 s.cur d))
    | none => readPieces s true ps (.inl (d, sg)) fun s v => s.putX d (loadVal sg n v)
/-- The reply of a long op reaches its context (R91). -/
def State.reply (s : State) (c : Nat) : State :=
  if (s.ctx c).why = some .longOp then (s.mapCtx c fun x => { x with fill := none }).wake c else s
/-- The place that a context's long op has sent its access to is poisoned when it gets there: the head traps with the address of
the poisoned byte (R471). -/
def State.poisonTrap (s : State) (c a : Nat) : State :=
  let va := ((s.ctx c).fill.map fun f => f.va + a - f.key).getD 0
  s.lateTrap c 0x1A (BitVec.ofNat 64 va)
/-- The vector whose active lanes come from a read value in their order, n bytes each (R306). -/
def lanesFrom (old : VWord) (t : ElemT) (k : KWord) (v : Nat) : VWord :=
  mergeLanes old t.width k fun i => elem v t.width (activeBelow k i)
/-- The value of byte keys, from words that have been read. -/
def wordsVal (ws : List (Nat × Nat)) : List Nat → Nat
  | [] => 0
  | a :: as => tget ws (wordOf a) 0 / 256 ^ (a % 8) % 256 + 256 * wordsVal ws as
/-- Some words of a read under way, a free choice, are read anew (R258, R280): the state then, and the VA of a poisoned word among
those read. -/
def State.rereads (s : State) (c : Nat) : State × Option Nat :=
  match (s.ctx c).late with
  | none => (s, none)
  | some l =>
    let r := l.words.foldl (fun (p : State × List (Nat × Nat) × Option Nat) w =>
      let v := p.1.freeNat 2
      if v.1 = 0 then (v.2, p.2.1 ++ [w], p.2.2)
      else (v.2.noteReads c false [w.1], p.2.1 ++ [(w.1, s.rdN w.1 8)], p.2.2 <|> if s.isBad w.1 then some w.1 else none)) (s, [], none)
    (r.1.mapCtx c fun x => { x with late := some { l with words := r.2.1 } },
      r.2.2.map fun w => ((l.keys.zip l.vas).find? fun p => wordOf p.1 == w).elim 0 (·.2))
/-- The destination of a read under way has the words as they were last read. -/
def Ctx.finishLate (x : Ctx) : Ctx :=
  match x.late with
  | none => x
  | some l =>
    let v := wordsVal l.words l.keys
    let x := { x with late := none }
    match l.dst with
    | .inl (d, sg) => x.setX d (loadVal sg l.keys.length v)
    | .inr (d, t, k) => x.setV d (lanesFrom (x.getV d) t k v)
/-- The reply of a read arrives, or comes later where the read goes on word by word (R91, R280); a word that is found poisoned traps
(R471). -/
def State.readReply (s : State) (c : Nat) (e : Instr) : State :=
  if (s.ctx c).late.isNone then s.reply c
  else
    let r := s.rereads c
    match r.2 with
    | some va => r.1.lateTrap c 0x1A (BitVec.ofNat 64 va)
    | none =>
      let v := r.1.freeNat 2
      if v.1 = 0 then (v.2.mapCtx c Ctx.finishLate).reply c else v.2.again e
/-- LONG_OP_REPLY (R91, R376). -/
def execLongOpReply (c : Nat) (s : State) : Out :=
  .next (if (s.ctx c).why = some .longOp then s.readReply c (.longOpReply c) else s)
/-- PROXY_ACCESS (R272): the proxy or the home serves an L1 miss, with what the access's own translation grants, and the context's
reply arrives. -/
def execProxyAccess (c va pa : Nat) (wr : Bool) (s : State) : Out :=
  let g := (s.ctx c).fill.bind fun f => if f.va = va ∧ f.key = pa then f.grant else none
  let t := s.proxyServe (s.asker c) va pa g
  let t := if wr then t.l1Write (coreOf c) pa else t
  .next (if (t.ctx c).why = some .longOp then t.readReply c (.longOpReply c) else t)
/-- Write an x register of a context from a place that may be poisoned (R470). -/
def State.replyX (s : State) (c : Nat) (d : XR) (v : Word) (bad : Bool) : State :=
  s.mapCtx c fun x =>
    let x := x.setX d v
    if bad && d != 0 then { x with bad := x.bad ||| xBad d.val } else x
/-- PEER_ACCESS_AT_PORT (R256, R258): one access of n bytes to scratchpad offset `off` of a core, for a context. One that a migration
holds waits at the ingress; one that finds the core saved parks its context (R444); poison traps it (R471). -/
def execPeerAccessAtPort (core off n : Nat) (sg wr : Bool) (data : Word) (c : Nat) (d : XR) (s : State) : Out :=
  let a := spadKey core off
  if s.peerSaved c a && !wr then .next (s.unsend c)
  else if s.heldKey c (s.ctx c).asid.toNat .load a then .next ((s.holdAt c a).heldBy a (.peerAccessAtPort core off n sg wr data c d))
  else if wr then
    .next ((((wordsOf a n).foldl (fun s w => s.tagWrite c (s.ctx c).rel false w) (s.store a n data.toNat false))).reply c)
  else
    match s.badIn a n with
    | some w => .next (s.poisonTrap c w)
    | none => .next (((s.noteReads c false (wordsOf a n)).replyX c d (loadVal sg n (s.rdN a n)) false).reply c)

/-! ## Writes -/

/-- The bytes of an n-byte value at the keys of an access. -/
def storeBytes (ks : List Nat) (v : Nat) : List (Nat × Byte) :=
  (List.range ks.length).map fun i => (ks.getD i 0, BitVec.ofNat 8 (v / 2 ^ (8 * i)))
/-- Put a store of these pieces and bytes into the buffer (R283). A store to the own scratchpad that a range table holds
back is a long op (R214). -/
def bufferStore (s : State) (ps : List Piece) (bs : List (Nat × Byte)) : Out :=
  match s.badMerge ps with
  | some a => .next (s.trap 0x1A (BitVec.ofNat 64 a))
  | none =>
    s.buffer (.store ps bs s.me.asid.toNat (keyWords (bs.map (·.1))) s.me.rel s.me.recBad) fun t =>
      if bs.any fun b => s.inRange b.1 && spadCore b.1 == s.myCore then
        retire s (t.mapMe fun c => { c with why := some (.stored (c.drains + c.buf.length)) })
      else retire s t
/-- A scalar store of n bytes at ea (R300). -/
def store (s : State) (n : Nat) (a : XS) (ea : Word) : Out :=
  s.onRes .store (s.resolveMe .store ea.toNat n) fun ps =>
    bufferStore s ps (storeBytes (pieceKeys ps) (s.me.getS a).toNat)
/-- A context that waits for its buffer, or for its earlier accesses, is back in the rotation once they have been performed
(R283, R288). -/
def State.drainWake (s : State) (c : Nat) : State :=
  match (s.ctx c).why with
  | some (.buffer n) | some (.stored n) => if n ≤ (s.ctx c).drains || (s.ctx c).buf.isEmpty then s.wake c else s
  | some (.order sc but) => if (s.ctx c).buf.isEmpty && s.quiet c sc but then s.wake c else s
  | some (.cells sc) => if s.calm c sc none then s.wake c else s
  | _ => s
/-- STORE_BUFFER_DRAIN (R258, R280, R283, R288): the oldest entry is performed at its place, its words all at once or one by
one, in an order that is free. A held entry, and a wait for earlier accesses, waits on. -/
def execStoreBufferDrain (c : Nat) (s : State) : Out :=
  let again (t : State) : Out := .next (t.again (.storeBufferDrain c))
  match (s.ctx c).buf with
  | [] =>
    match (s.ctx c).why with
    | some (.order sc but) => if s.quiet c sc but then .next (s.wake c) else again s
    | some (.cells sc) => if s.calm c sc none then .next (s.wake c) else again s
    | _ => .next (s.drainWake c)
  | .marker _ :: _ =>
    match s.drainOne c with
    | some t => .next (t.drainWake c)
    | none => again s
  | .store _ _ asid left _ _ :: _ =>
    let rs := left.filter (s.canPerform c asid)
    if rs.isEmpty && !left.isEmpty then again s
    else
      let r := if rs.length < 2 then (0, s) else s.freeNat (rs.length + 1)
      let ws :=
        match r.1 with
        | 0 => rs
        | k + 1 => [rs.getD k 0]
      let t := r.2.drainWords c ws
      if left.all ws.contains then .next (t.drainWake c) else again t

/-- The effective address of a base and an s16 offset (R300). -/
def State.eaOff (s : State) (b : XS) (off : BitVec 16) : Word := s.me.getS b + off.signExtend 64
/-- The effective address of a base and an index (R300). -/
def State.eaIdx (s : State) (b c : XS) : Word := s.me.getS b + s.me.getS c

/-- LD.S8 (R300). -/
def execLdS8 (d : XR) (b : XS) (off : BitVec 16) (s : State) : Out := load s true 1 d (s.eaOff b off)
/-- LD.N8 (R300). -/
def execLdN8 (d : XR) (b : XS) (off : BitVec 16) (s : State) : Out := load s false 1 d (s.eaOff b off)
/-- LD.S16 (R300). -/
def execLdS16 (d : XR) (b : XS) (off : BitVec 16) (s : State) : Out := load s true 2 d (s.eaOff b off)
/-- LD.N16 (R300). -/
def execLdN16 (d : XR) (b : XS) (off : BitVec 16) (s : State) : Out := load s false 2 d (s.eaOff b off)
/-- LD.S32 (R300). -/
def execLdS32 (d : XR) (b : XS) (off : BitVec 16) (s : State) : Out := load s true 4 d (s.eaOff b off)
/-- LD.N32 (R300). -/
def execLdN32 (d : XR) (b : XS) (off : BitVec 16) (s : State) : Out := load s false 4 d (s.eaOff b off)
/-- LD.64 (R300). -/
def execLd64 (d : XR) (b : XS) (off : BitVec 16) (s : State) : Out := load s false 8 d (s.eaOff b off)
/-- LDX.S8 (R300). -/
def execLdxS8 (d : XR) (b c : XS) (s : State) : Out := load s true 1 d (s.eaIdx b c)
/-- LDX.N8 (R300). -/
def execLdxN8 (d : XR) (b c : XS) (s : State) : Out := load s false 1 d (s.eaIdx b c)
/-- LDX.S16 (R300). -/
def execLdxS16 (d : XR) (b c : XS) (s : State) : Out := load s true 2 d (s.eaIdx b c)
/-- LDX.N16 (R300). -/
def execLdxN16 (d : XR) (b c : XS) (s : State) : Out := load s false 2 d (s.eaIdx b c)
/-- LDX.S32 (R300). -/
def execLdxS32 (d : XR) (b c : XS) (s : State) : Out := load s true 4 d (s.eaIdx b c)
/-- LDX.N32 (R300). -/
def execLdxN32 (d : XR) (b c : XS) (s : State) : Out := load s false 4 d (s.eaIdx b c)
/-- LDX.64 (R300). -/
def execLdx64 (d : XR) (b c : XS) (s : State) : Out := load s false 8 d (s.eaIdx b c)
/-- ST.8 (R300). -/
def execSt8 (a b : XS) (off : BitVec 16) (s : State) : Out := store s 1 a (s.eaOff b off)
/-- ST.16 (R300). -/
def execSt16 (a b : XS) (off : BitVec 16) (s : State) : Out := store s 2 a (s.eaOff b off)
/-- ST.32 (R300). -/
def execSt32 (a b : XS) (off : BitVec 16) (s : State) : Out := store s 4 a (s.eaOff b off)
/-- ST.64 (R300). -/
def execSt64 (a b : XS) (off : BitVec 16) (s : State) : Out := store s 8 a (s.eaOff b off)
/-- STX.8 (R300). -/
def execStx8 (a b c : XS) (s : State) : Out := store s 1 a (s.eaIdx b c)
/-- STX.16 (R300). -/
def execStx16 (a b c : XS) (s : State) : Out := store s 2 a (s.eaIdx b c)
/-- STX.32 (R300). -/
def execStx32 (a b c : XS) (s : State) : Out := store s 4 a (s.eaIdx b c)
/-- STX.64 (R300). -/
def execStx64 (a b c : XS) (s : State) : Out := store s 8 a (s.eaIdx b c)

/-! ## Vector loads and stores (R305, R306) -/

/-- The active lanes of a form, each with its address (R305). -/
def State.laneAddrs (s : State) (t : ElemT) (m : KR) (base : Word) (step : Nat → Int) : List (Nat × Nat) :=
  (activeLanes (s.me.getK m) (lanesOf t.width)).map fun i => (i, ((base.toNat : Int) + step i) % (2 ^ 64 : Nat) |>.toNat)
/-- Order 8 of R299 for one lane: a read of a poisoned word, or a write that would merge with one (R470, R471). -/
def State.laneBad (s : State) (acc : Acc) (r : Res) : Res :=
  match r with
  | .ok ps =>
    match if acc = .store then s.badMerge ps else s.badPiece ps with
    | some a => .trap 8 0x1A a
    | none => r
  | _ => r
/-- The checks of every active lane (R306). -/
def State.resolveLanes (s : State) (acc : Acc) (n : Nat) (l : List (Nat × Nat)) : Res :=
  l.foldl (fun r p => joinLanes r (s.laneBad acc (s.resolveMe acc p.2 n))) (.ok [])
/-- Lane steps of the contiguous, strided and indexed forms (R305). -/
def stepUnit (t : ElemT) (i : Nat) : Int := (i * (t.width / 8) : Nat)
/-- A byte stride. -/
def State.stepStride (s : State) (c : XS) (i : Nat) : Int := i * (s.me.getS c).toInt
/-- Indices scaled by the lane size. -/
def State.stepIndex (s : State) (t : ElemT) (c : VR) (i : Nat) : Int := sext (s.lane c t.width i) t.width * (t.width / 8 : Nat)
/-- A vector load (R306): all of it or none. -/
def vload (s : State) (t : ElemT) (d : VR) (m : KR) (fixed : Bool) (base : Word) (step : Nat → Int) : Out :=
  let l := s.laneAddrs t m base step
  s.onRes .load (s.resolveLanes .load (t.width / 8) l) fun ps =>
    readPieces s fixed ps (.inr (d, t, s.me.getK m)) fun s v => s.mapMe fun c => c.setV d (lanesFrom (c.getV d) t (c.getK m) v)
/-- The value of a vector's active lanes in their order. -/
def packActive (v : VWord) (t : ElemT) (k : KWord) : Nat :=
  ofElems t.width ((activeLanes k (lanesOf t.width)).map fun i => Machine.lane v t.width i)
/-- A vector store (R306): one entry holds every active lane, in ascending order. -/
def vstore (s : State) (t : ElemT) (a : VR) (m : KR) (base : Word) (step : Nat → Int) : Out :=
  let l := s.laneAddrs t m base step
  s.onRes .store (s.resolveLanes .store (t.width / 8) l) fun ps =>
    bufferStore s ps (storeBytes (pieceKeys ps) (packActive (s.me.getV a) t (s.me.getK m)))
/-- VLD (R305, R306). -/
def execVld (t : ElemT) (d : VR) (b : XS) (off : BitVec 16) (m : KR) (s : State) : Out :=
  vload s t d m true (s.eaOff b off) (stepUnit t)
/-- VST (R305, R306). -/
def execVst (t : ElemT) (a : VR) (b : XS) (off : BitVec 16) (m : KR) (s : State) : Out :=
  vstore s t a m (s.eaOff b off) (stepUnit t)
/-- VLDS (R305, R306): a long op wherever it reads. -/
def execVlds (t : ElemT) (d : VR) (b c : XS) (off : BitVec 16) (m : KR) (s : State) : Out :=
  vload s t d m false (s.eaOff b off) (s.stepStride c)
/-- VSTS (R305, R306). -/
def execVsts (t : ElemT) (a : VR) (b c : XS) (off : BitVec 16) (m : KR) (s : State) : Out :=
  vstore s t a m (s.eaOff b off) (s.stepStride c)
/-- VLDG (R305, R306): a long op wherever it reads. -/
def execVldg (t : ElemT) (d : VR) (b : XS) (c : VR) (off : BitVec 16) (m : KR) (s : State) : Out :=
  vload s t d m false (s.eaOff b off) (s.stepIndex t c)
/-- VSTG (R305, R306). -/
def execVstg (t : ElemT) (a : VR) (b : XS) (c : VR) (off : BitVec 16) (m : KR) (s : State) : Out :=
  vstore s t a m (s.eaOff b off) (s.stepIndex t c)

/-! ## Parameter windows (R307) -/

/-- LDP (R307): beyond the bound it reads zero and sets pwoob. An unbound window comes before a misaligned offset, and that before the
bound (DESIGN CHOICE, log entry 81). -/
def execLdp (d : XR) (w : Fin 4) (off : BitVec 16) (s : State) : Out :=
  let win := (s.core s.myCore).windows[w]
  if win.2 = 0 then .next (s.trap 0x19 (w64 w.val))
  else if off.toNat % 8 ≠ 0 then .next (s.trap 0x10 (win.1 + w64 off.toNat))
  else
    if off.toNat + 8 ≤ win.2 then
      let ea := win.1 + w64 off.toNat
      s.onRes .load (s.resolveMe .load ea.toNat 8) fun ps => readPieces s false ps (.inl (d, false)) fun s v => s.putX d (w64 v)
    else retireLong s (s.mapMe fun c => (c.setX d 0).flag fPwoob)

/-! ## Prefetch and cache maintenance (R308) -/

/-- What a prefetch does with its translation: only a CELL page traps (R308). -/
def prefetch (s : State) (ea : Word) (k : State → Piece → State) : Out :=
  if inWindow ea.toNat then retireLong s s
  else
    match s.resolveMe .load ea.toNat 1 with
    | .trap 5 c va => .next (s.trap c (BitVec.ofNat 64 va))
    | .ok (p :: _) => retireLong s (if isCarve p.key then s else k s p)
    | _ => retireLong s s
/-- PREF.L1 (R308). -/
def execPrefL1 (b : XS) (off : BitVec 16) (s : State) : Out :=
  prefetch s (s.eaOff b off) fun s p => s.proxyServe (s.asker s.cur) p.va p.key p.grant
/-- PREF.SL (R308): the line comes into its home bank. -/
def execPrefSl (b : XS) (off : BitVec 16) (s : State) : Out :=
  prefetch s (s.eaOff b off) fun s p =>
    match s.bankFor (s.asker s.cur) p.va p.key with
    | some h => s.sliceIn h p.key true
    | none => s
/-- Every copy of a line is clean (R308). -/
def State.cleanLine (s : State) (pa : Nat) : State :=
  { s with
    cores := s.cores.map fun p => (p.1, { p.2 with l1d := p.2.l1d.map fun d =>
      if d.pa = pa / 64 * 64 then { d with dirty := false } else d }),
    clus := s.clus.map fun p => (p.1, { p.2 with lines := p.2.lines.map fun l =>
      if l.pa = pa / 64 * 64 then { l with dirty := false } else l }) }
/-- Remove a line from the issuer's L1 and from the slices of its field that are not its home (R308). -/
def State.dropLine (s : State) (n pa : Nat) (home : Option Nat) : State :=
  let s := s.mapCore n fun k => { k with l1d := k.l1d.filter fun d => d.pa != pa / 64 * 64 }
  (List.range 16).foldl (fun s i =>
    let cl := 16 * fieldOf n + i
    if home.map bankCluster = some cl then s
    else s.mapClu cl fun c => { c with lines := c.lines.filter fun l => l.pa != pa / 64 * 64 }) s
/-- A maintenance form (R308): the checks of a load, and nothing for a window address. It reads no data, so poison does not stop
it (DESIGN CHOICE, log entry 80). -/
def maintain (s : State) (ea : Word) (k : Piece → Out) : Out :=
  if inWindow ea.toNat then retireLong s s
  else
    s.onRes .load (s.resolveMe .load ea.toNat 1) fun ps =>
      match ps with
      | p :: _ => k p
      | [] => retireLong s s
/-- A head that works on a line waits while the slice of its home, or of its field's proxy, is shut down (R491). -/
def State.openLine (s : State) (pa : Nat) (k : Out) : Out :=
  let shut := (s.homeKey pa).map fun b => s.sliceShut (bankCluster b) || s.sliceShut (bankCluster (proxyBank (fieldOf s.myCore) b))
  if shut.getD false then .next (s.park .moving) else k
/-- CCLEAN (R308): as a store of its context, it stands behind the buffer (R283). -/
def execCclean (b : XS) (off : BitVec 16) (s : State) : Out :=
  maintain s (s.eaOff b off) fun p =>
    s.openLine p.key <| s.drained fun t => retireLong s (if isCarve p.key then t else t.cleanLine p.key)
/-- CFLUSH (R308). -/
def execCflush (b : XS) (off : BitVec 16) (s : State) : Out :=
  maintain s (s.eaOff b off) fun p =>
    s.openLine p.key <| s.drained fun t => retireLong s (if isCarve p.key then t
      else (t.cleanLine p.key).dropLine s.myCore p.key (s.bankFor (s.asker s.cur) p.va p.key))
/-- IFLUSH (R308, R309): once the context's store buffer has drained. -/
def execIflush (b : XS) (off : BitVec 16) (s : State) : Out :=
  let ea := s.eaOff b off
  maintain s ea fun _ =>
    s.drained fun t => retireLong s (t.mapCore s.myCore fun k => { k with l1i := k.l1i.filter fun l =>
      !(l.asid == s.me.asid.toNat && l.va == ea.toNat / 64 * 64) })

end Sys2Proof.Machine
end

