-- ==== Sys2Proof/Machine/Atomics.lean ====
section
/-! DEFINITION. Full/empty forms, atomics, fences and the flagged fence (R301 to R304, R310 to R317). -/
namespace Sys2Proof.Machine

/-! ## Full/empty forms (R301 to R304) -/

/-- The form may proceed at its word (R301); a store into a block that an OMU has yet to read waits (R214). -/
def State.feReady (s : State) (op : FeOp) (w : Nat) : Bool :=
  match op with
  | .fe | .fc => s.isFull w
  | .ef => !s.isFull w && !s.inRange w
  | .f => !s.inRange w
/-- The effect of a full/empty form of context c on its word and bit (R301): its result is what it returns, with the releases it has
read (R278). -/
def State.feDo (s : State) (c : Nat) (op : FeOp) (w : Nat) (data : Word) : State :=
  match op with
  | .fe => s.gotFrom c (s.rd64 w) [w]
  | .fc => (s.gotFrom c (s.rd64 w) [w]).setEmpty w
  | .ef | .f => (((s.gotFrom c 0 []).store w 8 data.toNat false).tagWrite c (some .cluster) true w).setFull w
/-- Whether the form is an acquire at CLUSTER scope; else it is a release (R301). -/
def feAcquires : FeOp → Bool
  | .fe | .fc => true
  | .ef | .f => false
/-- Serve the wait list of a word (R303): repeatedly the oldest entry whose condition holds. A waiter of a poisoned word
looks again at its head (R471). -/
def State.serve (s : State) (w : Nat) : Nat → State
  | 0 => s
  | k + 1 =>
    let n := spadCore w
    match (s.core n).feq.find? fun q => q.loc == w && (s.feReady q.op w || s.isBad w) with
    | none => s
    | some q =>
      let s := s.mapCore n fun x => { x with feq := x.feq.filter fun r => r.ctx != q.ctx }
      if s.isBad w then (s.wake q.ctx).serve w k
      else
        (((s.feDo q.ctx q.op w q.data).wake q.ctx).serve w k)
/-- Serve a word until nothing on its list can proceed. -/
def State.serveAll (s : State) (w : Nat) : State := s.serve w ((s.core (spadCore w)).feq.length + 1)
/-- Every word of a core's scratchpad that a form waits on is served: bits have changed, or blocks are free (R214, R303). -/
def State.serveCore (s : State) (n : Nat) : State := ((s.core n).feq.map (·.loc)).foldl (fun s w => s.serveAll w) s
/-- A full/empty form takes its result: its register, and its acquire or release (R301). -/
def State.feEnd (s : State) (op : FeOp) (d : Option XR) : State :=
  let v := s.me.got.getD 0
  let s := if feAcquires op then s.acquireOf s.cur .cluster s.me.gotTags else s.release s.cur .cluster
  let s := s.mapMe Ctx.tookGot
  match d with
  | some d => s.putX d v
  | none => s
/-- A full/empty form at ea (R302): its buffer is empty before it is sent; on the own scratchpad with its condition true
it has fixed latency, else it waits at the port. -/
def fullEmpty (s : State) (op : FeOp) (d : Option XR) (data : Word) (ea : Word) : Out :=
  match s.me.got with
  | some _ => retire s (s.feEnd op d)
  | none =>
    if ea.toNat % 8 ≠ 0 then .next (s.trap 0x10 ea)
    else if inWindow ea.toNat = true ∧ badWindow ea.toNat = true then .next (s.trap 0x11 ea)
    else if inWindow ea.toNat = false then .next (s.trap 0x13 ea)
    else
      s.onRes .load (s.resolveMe .load ea.toNat 8) fun ps =>
        (if feAcquires op then s.drained else s.released .cluster) fun s =>
          s.readCheck false ps fun s =>
            let w := windowKey s.myCore ea.toNat
            if allOwn s.myCore ps && s.feReady op w then retire s (((s.feDo s.cur op w data).serveAll w).feEnd op d)
            else
              .next ((s.park (.fullEmpty (spadCore w))).post (.fullEmptyAtPort s.cur op w (d.getD 0) data))
/-- FULL_EMPTY_AT_PORT (R303): a form arrives at the port of its word, joins the list, and the list is served. A core that moves
holds it at the ingress, and it is not withdrawn until it has arrived (R256); at a saved core its context parks (R444). -/
def execFullEmptyAtPort (c : Nat) (op : FeOp) (w : Nat) (d : XR) (data : Word) (s : State) : Out :=
  let n := spadCore w
  if (s.ctx c).why ≠ some (.fullEmpty n) then .next s
  else if s.peerSaved c w then .next (s.unsend c)
  else if s.heldKey c (s.ctx c).asid.toNat .load w then .next ((s.holdAt c w).heldBy w (.fullEmptyAtPort c op w d data))
  else
    let s := s.mapCtx c fun x => { x with held := false }
    let t := (s.mapCore n fun k => { k with feq := k.feq ++ [⟨c, op, w, d, data⟩] }).serveAll w
    .next (if (t.ctx c).taken && (t.ctx c).why == some (.fullEmpty n) then t.withdraw c else t)
/-- LD.FE (R301). -/
def execLdFe (d : XR) (b : XS) (off : BitVec 16) (s : State) : Out := fullEmpty s .fe (some d) 0 (s.eaOff b off)
/-- LD.FC (R301). -/
def execLdFc (d : XR) (b : XS) (off : BitVec 16) (s : State) : Out := fullEmpty s .fc (some d) 0 (s.eaOff b off)
/-- ST.EF (R301). -/
def execStEf (a b : XS) (off : BitVec 16) (s : State) : Out := fullEmpty s .ef none (s.me.getS a) (s.eaOff b off)
/-- ST.F (R301). -/
def execStF (a b : XS) (off : BitVec 16) (s : State) : Out := fullEmpty s .f none (s.me.getS a) (s.eaOff b off)

/-! ## Atomics (R310 to R314) -/

/-- Bytes of an atomic. -/
def amoBytes (w : Bool) : Nat := if w then 8 else 4
/-- The new value of an atomic's location, or none where it writes nothing (R311). -/
def amoNew (op : AmoOp) (w old c e : Nat) : Option Nat :=
  match op with
  | .add => some ((old + c) % 2 ^ w)
  | .and => some (old &&& c)
  | .or => some (old ||| c)
  | .xor => some (old ^^^ c)
  | .min => some (if sext c w < sext old w then c else old)
  | .max => some (if sext old w < sext c w then c else old)
  | .minn => some (if c < old then c else old)
  | .maxn => some (if old < c then c else old)
  | .swap => some c
  | .cas => if old = c then some e else none
/-- An order acquires. -/
def ordAcquires : Ord → Bool
  | .acq | .ar => true
  | .rlx | .rel => false
/-- An order releases. -/
def ordReleases : Ord → Bool
  | .rel | .ar => true
  | .rlx | .acq => false
/-- The size bit of an atomic gives 8 bytes. -/
def amoW (w : Bool) : Nat := 8 * amoBytes w
/-- Perform an atomic of context x at its place (R311, R312): the old value, the state after it, and whether it wrote. The home
recalls the copies of the line first. -/
def State.amoAt (s : State) (x : Nat) (rel : Option Scope) (op : AmoOp) (w : Bool) (loc : Nat) (c e : Word) : Nat × State × Bool :=
  let old := s.rdN loc (amoBytes w)
  let s := if isSpad loc then s else s.recall loc
  match amoNew op (amoW w) old (c.toNat % 2 ^ amoW w) (e.toNat % 2 ^ amoW w) with
  | none => (old, s, false)
  | some v =>
    let s := (s.wrN loc (amoBytes w) v).tagWrite x rel true (wordOf loc)
    (old, if isSpad loc then s else (s.homeDirty loc).wakeSyncs (wordOf loc), true)
/-- An atomic to host memory that the link carries (R314). -/
def State.amoHost (s : State) (op : AmoOp) (loc : Nat) : Bool :=
  (op == .add || op == .swap || op == .cas) && (tget s.links (bits loc 49 49) HostLink.reset).atomics
/-- The scope an atomic's write carries as a release (R278, R286). -/
def State.amoRel (s : State) (c : Nat) (o : Ord) (sc : Scope) : Option Scope := if ordReleases o then some sc else (s.ctx c).rel
/-- An atomic form (R310 to R313): checked, sent after its context's stores, and waited for. -/
def atomic (s : State) (op : AmoOp) (o : Ord) (sc : Scope) (w : Bool) (ea c e : Word) (d : Option XR) : Out :=
  if ea.toNat % amoBytes w ≠ 0 then .next (s.trap 0x10 ea)
  else
    s.onRes .atomic
      (match s.resolveMe .atomic ea.toNat (amoBytes w) with
       | .ok (p :: ps) => if isHost p.key && !s.amoHost op p.key then .trap 6 0x18 p.va else .ok (p :: ps)
       | r => r) fun ps =>
      let send (s : State) : Out :=
        s.readCheck true ps fun s =>
          let loc := (pieceKeys ps).getD 0 0
          retire s ((s.mapMe fun x => { x with why := some .longOp, fill := some ⟨x.asid.toNat, ea.toNat, loc, none⟩ }).post (.atomicAtPlace op w o sc loc c e s.cur d))
      if ordReleases o then s.ordered sc none send else s.drained send
/-- ATOMIC_AT_PLACE (R256, R312): an atomic of context x is performed at its port, home or host, and the reply reaches
the context. One that writes nothing is no release (R311). A saved core parks the context (R444), and poison traps it (R471). -/
def execAtomicAtPlace (op : AmoOp) (w : Bool) (o : Ord) (sc : Scope) (loc : Nat) (c e : Word) (x : Nat) (d : Option XR)
    (s : State) : Out :=
  if s.peerSaved x loc then .next (s.unsend x)
  else if s.heldKey x (s.ctx x).asid.toNat .atomic loc || s.inRange loc then
    .next ((s.holdAt x loc).heldBy loc (.atomicAtPlace op w o sc loc c e x d))
  else if s.isBad loc then .next (s.poisonTrap x loc)
  else
    let tags := s.tagsOf x true [wordOf loc]
    let s := if ordAcquires o then s else s.noteReads x true [wordOf loc]
    let r := s.amoAt x (s.amoRel x o sc) op w loc c e
    let t := if ordReleases o && r.2.2 then r.2.1.release x sc else r.2.1
    let t := if ordAcquires o then t.acquireOf x sc tags else t
    .next ((match d with
      | some d => t.replyX x d (BitVec.ofInt 64 (sext r.1 (amoW w))) false
      | none => t).reply x)

/-- AMO.ADD (R311). -/
def execAmoAdd (o : Ord) (sc : Scope) (w : Bool) (d : XR) (b c : XS) (s : State) : Out :=
  atomic s .add o sc w (s.me.getS b) (s.me.getS c) 0 (some d)
/-- AMO.AND (R311). -/
def execAmoAnd (o : Ord) (sc : Scope) (w : Bool) (d : XR) (b c : XS) (s : State) : Out :=
  atomic s .and o sc w (s.me.getS b) (s.me.getS c) 0 (some d)
/-- AMO.OR (R311). -/
def execAmoOr (o : Ord) (sc : Scope) (w : Bool) (d : XR) (b c : XS) (s : State) : Out :=
  atomic s .or o sc w (s.me.getS b) (s.me.getS c) 0 (some d)
/-- AMO.XOR (R311). -/
def execAmoXor (o : Ord) (sc : Scope) (w : Bool) (d : XR) (b c : XS) (s : State) : Out :=
  atomic s .xor o sc w (s.me.getS b) (s.me.getS c) 0 (some d)
/-- AMO.MIN (R311). -/
def execAmoMin (o : Ord) (sc : Scope) (w : Bool) (d : XR) (b c : XS) (s : State) : Out :=
  atomic s .min o sc w (s.me.getS b) (s.me.getS c) 0 (some d)
/-- AMO.MAX (R311). -/
def execAmoMax (o : Ord) (sc : Scope) (w : Bool) (d : XR) (b c : XS) (s : State) : Out :=
  atomic s .max o sc w (s.me.getS b) (s.me.getS c) 0 (some d)
/-- AMO.MINN (R311). -/
def execAmoMinn (o : Ord) (sc : Scope) (w : Bool) (d : XR) (b c : XS) (s : State) : Out :=
  atomic s .minn o sc w (s.me.getS b) (s.me.getS c) 0 (some d)
/-- AMO.MAXN (R311). -/
def execAmoMaxn (o : Ord) (sc : Scope) (w : Bool) (d : XR) (b c : XS) (s : State) : Out :=
  atomic s .maxn o sc w (s.me.getS b) (s.me.getS c) 0 (some d)
/-- AMO.SWAP (R311). -/
def execAmoSwap (o : Ord) (sc : Scope) (w : Bool) (d : XR) (b c : XS) (s : State) : Out :=
  atomic s .swap o sc w (s.me.getS b) (s.me.getS c) 0 (some d)
/-- AMO.CAS (R311). -/
def execAmoCas (o : Ord) (sc : Scope) (w : Bool) (d : XR) (b c e : XS) (s : State) : Out :=
  atomic s .cas o sc w (s.me.getS b) (s.me.getS c) (s.me.getS e) (some d)
/-- RED.ADD (R311). -/
def execRedAdd (o : Ord) (sc : Scope) (w : Bool) (a b : XS) (s : State) : Out :=
  atomic s .add o sc w (s.me.getS b) (s.me.getS a) 0 none
/-- RED.AND (R311). -/
def execRedAnd (o : Ord) (sc : Scope) (w : Bool) (a b : XS) (s : State) : Out :=
  atomic s .and o sc w (s.me.getS b) (s.me.getS a) 0 none
/-- RED.OR (R311). -/
def execRedOr (o : Ord) (sc : Scope) (w : Bool) (a b : XS) (s : State) : Out :=
  atomic s .or o sc w (s.me.getS b) (s.me.getS a) 0 none
/-- RED.XOR (R311). -/
def execRedXor (o : Ord) (sc : Scope) (w : Bool) (a b : XS) (s : State) : Out :=
  atomic s .xor o sc w (s.me.getS b) (s.me.getS a) 0 none
/-- RED.MIN (R311). -/
def execRedMin (o : Ord) (sc : Scope) (w : Bool) (a b : XS) (s : State) : Out :=
  atomic s .min o sc w (s.me.getS b) (s.me.getS a) 0 none
/-- RED.MAX (R311). -/
def execRedMax (o : Ord) (sc : Scope) (w : Bool) (a b : XS) (s : State) : Out :=
  atomic s .max o sc w (s.me.getS b) (s.me.getS a) 0 none
/-- RED.MINN (R311). -/
def execRedMinn (o : Ord) (sc : Scope) (w : Bool) (a b : XS) (s : State) : Out :=
  atomic s .minn o sc w (s.me.getS b) (s.me.getS a) 0 none
/-- RED.MAXN (R311). -/
def execRedMaxn (o : Ord) (sc : Scope) (w : Bool) (a b : XS) (s : State) : Out :=
  atomic s .maxn o sc w (s.me.getS b) (s.me.getS a) 0 none

/-! ## Fences (R315, R316) -/

/-- FENCE.ACQ (R316): earlier loads have returned before a later head issues. -/
def execFenceAcq (sc : Scope) (s : State) : Out := retireLong s (s.acquire s.cur sc)
/-- FENCE.REL (R316): a release marker behind every earlier store. -/
def execFenceRel (sc : Scope) (s : State) : Out := s.buffer (.marker sc) fun t => retire s (t.release s.cur sc)
/-- FENCE.AR (R316): a release marker, and the wait of an acquire. -/
def execFenceAr (sc : Scope) (s : State) : Out :=
  s.buffer (.marker sc) fun t => retireLong s ((t.release s.cur sc).acquire s.cur sc)
/-- FENCE.SC (R289, R316): the buffer drains, and every earlier access is performed, first. -/
def execFenceSc (sc : Scope) (s : State) : Out :=
  s.ordered sc none fun t => retireLong s ((t.release s.cur sc).acquire s.cur sc)

/-! ## The flagged fence (R317) -/

/-- The context's next store to a package begins a new sequence (R317). -/
def State.nextSeq (s : State) (c p : Nat) : State := s.mapCtx c fun x => { x with seqs := tset x.seqs p (x.seqOf p + 1) }
/-- The numbers of the flits of the open sequence of a context towards a package that are not acknowledged (R292). -/
def State.seqFlits (s : State) (c p : Nat) : List Nat :=
  (s.outFlits.filter fun f => f.ctx == c && f.pkg == p &&
    match f.body with
    | .data _ _ q _ => q == (s.ctx c).seqOf p
    | _ => false).map (·.seq)
/-- FFLAG (R292, R317): the flag is written at its home after every earlier access of the context; towards another package
a marker with the flag follows the data of its own sequence. -/
def execFflag (sc : Scope) (a b : XS) (s : State) : Out :=
  let ea := s.me.getS b
  let v := s.me.getS a
  if ea.toNat % 8 ≠ 0 then .next (s.trap 0x10 ea)
  else
    s.onRes .store (s.resolveMe .store ea.toNat 8) fun ps =>
      let loc := (pieceKeys ps).getD 0 0
      let p := paPkg loc
      if isHost loc then .next (s.trap 0x14 ea)
      else if isRemote loc then
        s.ordered sc (some p) fun t =>
          let t := (t.release s.cur sc).sendOut s.cur p (.marker loc v (s.me.seqOf p) (t.seqFlits s.cur p) (t.flitParts s.cur p))
          retireLong s (t.nextSeq s.cur p)
      else
        s.ordered sc none fun t =>
          if s.heldKey s.cur s.me.asid.toNat .atomic loc then .next (s.park .moving)
          else if s.inRange loc then .next ((s.park (.order sc none)).post (.storeBufferDrain s.cur))
          else
            let t := t.release s.cur sc
            let t := if isSpad loc then t else t.recall loc
            let t := (t.store loc 8 v.toNat false).tagWrite s.cur (some sc) true loc
            retireLong s (if isSpad loc then t else (t.homeDirty loc).wakeSyncs loc)

end Sys2Proof.Machine
end

