-- ==== Sys2Proof/Machine/Cells.lean ====
section
/-! DEFINITION. Accumulator cells and the cell forms (R236 to R252). -/
namespace Sys2Proof.Machine

/-- A cell's 64 bytes, by field (R238). -/
structure Cell where
  val : Int
  state : Nat
  ovf : Bool
  count : Nat
  deriving DecidableEq, Repr
/-- The cell that 64 bytes hold (R238). -/
def cellOf (n : Nat) : Cell := ⟨sext (n % 2 ^ 320) 320, bits n 321 320, n.testBit 324, bits n 383 352⟩
/-- The 64 bytes of a cell (R238): every reserved bit is zero. -/
def cellBytes (c : Cell) : Nat := wrap c.val 320 + c.state % 4 * 2 ^ 320 + (if c.ovf then 2 ^ 324 else 0) + c.count * 2 ^ 352
/-- cell_add of R239. -/
def cellAdd (c : Cell) (t : ElemT) (b : Nat) : Cell :=
  let c := { c with count := Nat.min (c.count + 1) (2 ^ 32 - 1) }
  match ((fmtOf t).getD fmtF32).decode b with
  | .nan _ => { c with state := 3 }
  | .inf false => { c with state := if c.state = 2 ∨ c.state = 3 then 3 else 1 }
  | .inf true => { c with state := if c.state = 1 ∨ c.state = 3 then 3 else 2 }
  | .fin s m e =>
    let x : Int := m * (2 ^ (e + 160).toNat : Nat)
    let v := c.val + if s then -x else x
    { c with ovf := c.ovf || (2 ^ 319 : Nat) - 1 < v || v < -((2 ^ 319 : Nat) : Int), val := sext (wrap v 320) 320 }
/-- The value CLD reads from a cell, with its flags (R245). -/
def cellRead (c : Cell) (t : ElemT) (v : FEnv) : Fp :=
  let f := if t = .bf16 then fmtBF16 else fmtF32
  if c.ovf then (if t = .bf16 then 0x7FC0 else 0x7FC00F0F, fCellovf)
  else if c.state = 3 then (f.nan, 0)
  else if c.state ≠ 0 then (f.sign (c.state == 2) + f.infCode, 0)
  else f.round v 0 (c.val < 0) ⟨c.val.natAbs, -160, false⟩
/-- The word CSTAT returns (R247). -/
def cellStat (c : Cell) : Word := w64 (c.count + c.state * 2 ^ 32 + if c.ovf then 2 ^ 40 else 0)

/-- The 64 bytes of a cell: all zeros where it has not been written since its page was mapped, and every reserved bit zero
(R238; log entry 66). -/
def State.cellNow (s : State) (pa : Nat) : Nat := if s.cells.contains pa then cellBytes (cellOf (s.rdN pa 64)) else 0
/-- Write a cell at its home, as a store of context c, behind the release that its form stood behind (R236, R251, R278). -/
def State.cellPut (s : State) (pa c n : Nat) (rel : Option Scope) : State :=
  let s := (s.wrN pa 64 n).homeDirty pa
  ({ s with cells := kput s.cells pa } : State).setTag c rel true pa
/-- A cell operation writes its cell (R251). -/
def cellWrites : CellOp → Bool
  | .add _ _ | .clear => true
  | .ld _ _ _ | .stat _ | .ldx _ => false
/-- Apply one cell operation at its home, whole, for its context (R236, R239, R245 to R249): the line comes into the home slice. -/
def State.cellAt (s : State) (op : CellOp) (pa : Nat) (who : CellSend) : State :=
  let n := s.cellNow pa
  let c := who.ctx
  let s := ((s.homeKey pa).map fun b => s.sliceIn b pa true).getD s
  match op with
  | .add t b => s.cellPut pa c (cellBytes (cellAdd (cellOf n) t b.toNat)) who.rel
  | .clear => s.cellPut pa c 0 who.rel
  | .ld t d fctx =>
    let r := cellRead (cellOf n) t (envOf fctx)
    (s.noteReads c true [pa]).mapCtx c fun x => (x.setX d (BitVec.ofNat 64 r.1)).flag r.2
  | .stat d => (s.noteReads c true [pa]).mapCtx c fun x => x.setX d (cellStat (cellOf n))
  | .ldx d => (s.noteReads c true [pa]).mapCtx c fun x => x.setGroup d 2 n
/-- The reply of a context's last cell operation reaches it (R242). -/
def State.cellReply (s : State) (c : Nat) : State := if s.agenda.any (isCellOp c false) then s else s.reply c
/-- An event is an operation of the cell form that a context issued in a cycle. -/
def ofForm (who : CellSend) : Instr → Bool
  | .cellOperationAtHome _ _ w => w.ctx == who.ctx && w.time == who.time
  | _ => false
/-- CELL_OPERATION_AT_HOME (R236, R242, R243, R249): the home accepts an operation, unless its slice is shut down or the cell's line is
poisoned, which traps the whole form; it performs a read then and replies; an add or a clear it performs at or after the
acceptance of the whole form, whose reply ends the form. -/
def execCellOperationAtHome (op : CellOp) (pa : Nat) (who : CellSend) (s : State) : Out :=
  let c := who.ctx
  if s.heldKey c who.asid .cell pa then .next (s.again (.cellOperationAtHome op pa who))
  else if who.accepted then
    if s.agenda.any fun e => ofForm who e && isCellOp c false e then .next (s.again (.cellOperationAtHome op pa who))
    else .next (s.cellAt op pa who)
  else if (s.badIn pa 64).isSome then
    .next (({ s with agenda := s.agenda.filter (!ofForm who ·) } : State).lateTrap c 0x1A (BitVec.ofNat 64 who.va))
  else if cellWrites op then .next ((s.post (.cellOperationAtHome op pa { who with accepted := true })).cellReply c)
  else .next ((s.cellAt op pa who).cellReply c)

/-- Orders 1 to 3 of R243 for one cell address. -/
def State.resolveCell (s : State) (acc : Acc) (va : Nat) : Res :=
  if inWindow va then .trap 5 0x17 va
  else
    match s.askSlice (s.asker s.cur) s.me.walkFail va acc with
    | .miss => .miss va
    | .trap c => .trap 4 c va
    | .ok pa =>
      if va % 64 ≠ 0 ∨ ((s.pageOf (s.asker s.cur) va).map (·.cell)).getD false = false then .trap 5 0x17 va
      else .ok [⟨va, pa, 64, true, none⟩]
/-- Orders 1 to 4 of R243 for one cell address. -/
def State.checkCell (s : State) (acc : Acc) (va : Nat) : Res :=
  match s.resolveCell acc va with
  | .ok ps => if (s.badPiece ps).isSome then .trap 8 0x1A va else .ok ps
  | r => r
/-- A cell form (R242, R243): the checks of every cell, the lowest failing lane first; then its operations are sent in order
after the release markers before it (R316), and its context waits for them. -/
def cellForm (s : State) (acc : Acc) (vas : List Nat) (ops : List CellOp) : Out :=
  s.onRes acc (vas.foldl (fun r va => joinLanes r (s.checkCell acc va)) (.ok [])) fun ps =>
    s.readCheck true ps fun s => s.pastMarkers fun t =>
      let who (p : Piece) : CellSend := ⟨s.cur, false, s.me.asid.toNat, p.va, s.me.rel, s.cycle⟩
      let t := (ps.zip ops).foldl (fun t p => t.post (.cellOperationAtHome p.2 p.1.key (who p.1))) t
      retire s (t.mapMe fun c => { c with why := some .longOp })
/-- CADD (R244). -/
def execCadd (t : ElemT) (a b : XS) (s : State) : Out :=
  cellForm s .store [(s.me.getS b).toNat] [.add t (w64 ((s.me.getS a).toNat % 2 ^ t.width))]
/-- The active lanes of a CADDV: bits [7:0] of the mask (R244). -/
def State.caddLanes (s : State) (m : KR) : List Nat := activeLanes (s.me.getK m) 8
/-- CADDV (R244): with no active lane it only leaves the rotation for 8 cycles. -/
def execCaddv (t : ElemT) (a : VR) (b c : XS) (m : KR) (s : State) : Out :=
  let l := s.caddLanes m
  if l.isEmpty then retireAfter s s 8
  else
    cellForm s .store (l.map fun i => (s.me.getS b + BitVec.ofNat 64 i * s.me.getS c).toNat)
      (l.map fun i => .add t (w64 (s.lane a t.width i)))
/-- CLD (R245): it captures FCTX at issue. -/
def execCld (t : ElemT) (d : XR) (b : XS) (s : State) : Out :=
  s.needRmode (cellForm s .load [(s.me.getS b).toNat] [.ld t d s.me.fctx])
/-- CCLR (R246). -/
def execCclr (b : XS) (s : State) : Out := cellForm s .store [(s.me.getS b).toNat] [.clear]
/-- CSTAT (R247). -/
def execCstat (d : XR) (b : XS) (s : State) : Out := cellForm s .load [(s.me.getS b).toNat] [.stat d]
/-- CLDX (R241, R248): only at the sys level. -/
def execCldx (d : VR) (b : XS) (s : State) : Out := s.needSys (cellForm s .load [(s.me.getS b).toNat] [.ldx d])

end Sys2Proof.Machine
end

