-- ==== Sys2Proof/Machine/Control.lean ====
section
/-! DEFINITION. The control forms (R146 to R152). -/
namespace Sys2Proof.Machine

/-- NOP (R146). -/
def execNop (s : State) : Out := retire s s
/-- HALT (R147): a task in hand traps; the store buffer drains (R283); the context is halted. -/
def execHalt (s : State) : Out :=
  if s.me.taskf ≠ 0 then .next (s.trap 0x08 s.me.taskf)
  else s.drained fun t => retire s (haltCtx t s.cur)
/-- The first home slot of context j after cycle c + 16 (R147). -/
def yieldSlot (j c : Nat) : Nat := c + 17 + (j + 16 - (c + 17) % 16) % 16
/-- YIELD (R147). -/
def execYield (s : State) : Out :=
  retire s ((s.mapMe fun c => { c with why := some .yield, eligFrom := yieldSlot (ctxNo s.cur) s.cycle }).post
    (.yieldRejoin s.cur))
/-- YIELD_REJOIN (R147, R376): the context is in the rotation again, eligible from its slot. -/
def execYieldRejoin (c : Nat) (s : State) : Out :=
  .next (if (s.ctx c).why = some .yield then s.mapCtx c fun x => { x with why := none } else s)
/-- BRK (R147): EPC holds the address after it. -/
def execBrk (s : State) : Out := .next (s.trapTo 0x06 s.headPc s.epcNext)

/-- The target of a 32-bit code offset of the executing head (R82). -/
def State.target32 (s : State) (off : BitVec 32) : Nat := codeTarget s.me.pc off.toInt
/-- The target of a 16-bit code offset of the executing head (R82). -/
def State.target16 (s : State) (off : BitVec 16) : Nat := codeTarget s.me.pc off.toInt
/-- Take a conditional branch or step on, s' being the state with the head's register effect (R150). -/
def branch (s s' : State) (taken : Bool) (off : BitVec 16) : Out :=
  if taken then transfer s s' (s.target16 off) else retire s s'
/-- The link value: next_pc, counting the pair (R148). -/
def State.returnPc (s : State) : Word := BitVec.ofNat 64 s.nextPc

/-- J (R148). -/
def execJ (off : BitVec 32) (s : State) : Out := transfer s s (s.target32 off)
/-- JAL (R148). -/
def execJal (d : XR) (off : BitVec 32) (s : State) : Out := transfer s (s.putX d s.returnPc) (s.target32 off)
/-- JALR (R149): the target is read before the link is written. -/
def execJalr (d : XR) (b : XS) (s : State) : Out := transfer s (s.putX d s.returnPc) (s.me.getS b).toNat
/-- BEQ (R150). -/
def execBeq (a b : XS) (off : BitVec 16) (s : State) : Out := branch s s (s.me.getS a == s.me.getS b) off
/-- BNE (R150). -/
def execBne (a b : XS) (off : BitVec 16) (s : State) : Out := branch s s (s.me.getS a != s.me.getS b) off
/-- BLT (R150). -/
def execBlt (a b : XS) (off : BitVec 16) (s : State) : Out := branch s s ((s.me.getS a).slt (s.me.getS b)) off
/-- BGE (R150). -/
def execBge (a b : XS) (off : BitVec 16) (s : State) : Out := branch s s (!(s.me.getS a).slt (s.me.getS b)) off
/-- BLTN (R150). -/
def execBltn (a b : XS) (off : BitVec 16) (s : State) : Out := branch s s ((s.me.getS a).ult (s.me.getS b)) off
/-- BGEN (R150). -/
def execBgen (a b : XS) (off : BitVec 16) (s : State) : Out := branch s s (!(s.me.getS a).ult (s.me.getS b)) off
/-- BKANY (R151). -/
def execBkany (a b : KR) (off : BitVec 16) (s : State) : Out := branch s s (s.me.getK a &&& s.me.getK b != 0) off
/-- BKALL (R151). -/
def execBkall (a b : KR) (off : BitVec 16) (s : State) : Out :=
  branch s s (s.me.getK a &&& s.me.getK b == s.me.getK b) off
/-- BKNONE (R151). -/
def execBknone (a b : KR) (off : BitVec 16) (s : State) : Out := branch s s (s.me.getK a &&& s.me.getK b == 0) off
/-- DBNZ (R152): x0 reads zero, so its branch is always taken. -/
def execDbnz (a : XR) (off : BitVec 16) (s : State) : Out :=
  branch s (s.putX a (s.me.getX a - 1)) (s.me.getX a - 1 != 0) off

end Sys2Proof.Machine
end

