-- ==== Sys2Proof/Machine/Convert.lean ====
section
/-! DEFINITION. The conversions of major 0x38 (R178 to R188), and reading and quantising block elements (R123, R124,
R183), which the optical forms share. -/
namespace Sys2Proof.Machine

/-! ## Element conversions (R179) -/

/-- A pattern read as an element type (R179). -/
def readElem (t : ElemT) (v : FEnv) (b : Nat) : Num :=
  match fmtOf t with
  | some f => f.read v b
  | none => let x := readInt t b; .fin (x < 0) x.natAbs 0
/-- cvt of R179. -/
def cvt (td ts : ElemT) (v : FEnv) (idx b : Nat) : Fp :=
  match fmtOf td with
  | some f => f.deliver v idx (readElem ts v b)
  | none => if ts.isInt then satT td (readInt ts b) else roundInt td v idx (readElem ts v b)
/-- A conversion rounds unless both types are integers (R170). -/
def cvtRounds (td ts : ElemT) (s : State) (k : Out) : Out := if td.isInt && ts.isInt then k else s.needRmode k
/-- The source lane of a destination lane of VCVT, if one reaches it (R179). -/
def cvtSource (td ts : ElemT) (p j : Nat) : Option Nat :=
  let n := 256 / Nat.max td.width ts.width
  if td.width < ts.width then (if p * n ≤ j ∧ j < p * n + n then some (j - p * n) else none)
  else if ts.width < td.width then some (p * n + j)
  else some j
/-- VCVT (R179). -/
def execVcvt (td ts : ElemT) (d b : VR) (p : BitVec 6) (m : KR) (s : State) : Out :=
  cvtRounds td ts s (retire s (s.putLanes td.width d m fun j =>
    match cvtSource td ts p.toNat j with
    | some i => cvt td ts s.env j (s.lane b ts.width i)
    | none => plain (s.lane d td.width j)))
/-- FCVT (R179). -/
def execFcvt (td ts : ElemT) (d : XR) (b : XS) (s : State) : Out :=
  let r := cvt td ts s.env 0 ((s.me.getS b).toNat % 2 ^ ts.width)
  cvtRounds td ts s (retire s (s.mapMe fun c => (c.setX d (xOfLane td r.1)).flag r.2))

/-! ## Packing (R180, R181) -/

/-- Nibble i of a vector. -/
def nibble (v : VWord) (i : Nat) : Nat := Machine.lane v 4 i
/-- The pair packs 4-bit values. -/
def packs4 (td ts : ElemT) : Bool := td == ts
/-- One packed nibble (R181). -/
def packNib (t : ElemT) (x : Nat) : Fp := if t = .s8 then satS (sext x 8) 4 else plain (x % 16)
/-- VPACK (R181). -/
def execVpack (td ts : ElemT) (d b c : VR) (m : KR) (s : State) : Out :=
  retire s (s.putLanes td.width d m fun i =>
    if packs4 td ts then
      let x (q : Nat) : Nat := if q < 32 then s.lane b 8 q else s.lane c 8 (q - 32)
      let lo := packNib td (x (2 * i))
      let hi := packNib td (x (2 * i + 1))
      (lo.1 + 16 * hi.1, lo.2 ||| hi.2)
    else
      let n := lanesOf ts.width
      satT td (readInt ts (if i < n then s.lane b ts.width i else s.lane c ts.width (i - n))))
/-- VUNPK (R181): the source is one half of vb. -/
def execVunpk (td ts : ElemT) (d b : VR) (p : Bool) (m : KR) (s : State) : Out :=
  let half (w i : Nat) : Nat := s.lane b w ((if p then 128 / w else 0) + i)
  retire s (s.putLanes td.width d m fun i =>
    plain (if packs4 td ts then
        (if td = .s8 then wrap (sext (half 4 i) 4) 8 else half 4 i)
      else wrap (readInt ts (half ts.width i)) td.width))

/-! ## Blocks (R122 to R124, R182 to R185) -/

/-- Bits of one stored block element (R123). -/
def blkWidth : BlkF → Nat
  | .b8i | .b8f => 8
  | .b4i | .b4f => 4
/-- The value of a block element's bits before its scale (R123). -/
def blkElem (f : BlkF) (b : Nat) : Num :=
  match f with
  | .b8i => let x := sext b 8; .fin (x < 0) x.natAbs 0
  | .b4i => let x := sext b 4; .fin (x < 0) x.natAbs 0
  | .b8f => fmtF8E4.decode b
  | .b4f => fmtF4E2.decode b
/-- A value times 2^k. -/
def Num.scale (x : Num) (k : Int) : Num :=
  match x with
  | .fin s m e => .fin s m (e + k)
  | n => n
/-- block_value of R124, read digitally. -/
def blockValue (f : BlkF) (b e : Nat) : Num := if e = 255 then .nan false else (blkElem f b).scale (e - 127)
/-- Quantise one value into a block element's bits at scale e (R183). -/
def quantise (f : BlkF) (v : FEnv) (idx e : Nat) (x : Num) : Fp :=
  if e = 255 then plain 0
  else
    let y := x.scale (127 - (e : Int))
    match f with
    | .b8f => fmtF8E4.deliver v idx y
    | .b4f => fmtF4E2.deliver v idx y
    | .b8i | .b4i =>
      let w := blkWidth f
      let l : Nat := 2 ^ (w - 1) - 1
      match y with
      | .nan _ => (0, fNv)
      | .inf s => (wrap (if s then -(l : Int) else l) w, fSat)
      | .fin s a g =>
        let c := Mag.cut ⟨a, g, false⟩ 0
        let n := c.n + if c.up v s idx then 1 else 0
        let n' := Nat.min n l
        (wrap (if s then -(n' : Int) else n') w, (if c.inexact then fNx else 0) ||| (if l < n then fSat else 0))
/-- kf of R182. -/
def kfOf : BlkF → Int
  | .b8i => 6
  | .b4i => 2
  | .b8f => 8
  | .b4f => 2
/-- floor(log2) of a magnitude that is not zero. -/
def magLog (m : Nat) (e : Int) : Int := m.log2 + e
/-- Element j of a register group of a floating type. -/
def State.groupElem (s : State) (t : ElemT) (b : VR) (j : Nat) : Nat :=
  elem (s.me.getGroup b (32 * t.width / 256)) t.width j
/-- The largest floor(log2) of the non-zero magnitudes, from what is known so far. -/
def maxLog (l : List Num) : Option Int :=
  l.foldl (fun a x =>
    match x with
    | .fin _ m e => if m = 0 then a else some (match a with | none => magLog m e | some g => max g (magLog m e))
    | _ => a) none
/-- VEMAX (R182). -/
def execVemax (bf : BlkF) (t : ElemT) (d : XR) (b : VR) (m : KR) (s : State) : Out :=
  let xs := (activeLanes (s.me.getK m) 32).map fun j => (vFmt t).read s.env (s.groupElem t b j)
  let special := xs.any fun x => match x with | .fin _ _ _ => false | _ => true
  let nv := xs.any fun x => match x with | .nan g => g | .inf _ => true | .fin _ _ _ => false
  let code : Nat :=
    if special then 255
    else
      match maxLog xs with
      | none => 127
      | some g => (min (max (g - kfOf bf + 127) 0) 254).toNat
  retire s (s.mapMe fun c => (c.setX d (w64 code)).flag (if nv then fNv else 0))
/-- The state with a whole block in vd: f gives each element's bits, an inactive element 0 (R183). -/
def State.putBlock (s : State) (bf : BlkF) (d : VR) (m : KR) (f : Nat → Fp) : State :=
  let k := s.me.getK m
  let v := BitVec.ofNat 256 (ofElems (blkWidth bf) ((List.range 32).map fun j => if active k j then (f j).1 else 0))
  s.mapMe fun c => (c.setV d v).flag (laneFlags 32 k fun j => (f j).2)
/-- The E8 code an x operand supplies (R178). -/
def State.scaleOf (s : State) (c : XS) : Nat := (s.me.getS c).toNat % 256
/-- VQNT (R183). -/
def execVqnt (bf : BlkF) (t : ElemT) (d b : VR) (c : XS) (m : KR) (s : State) : Out :=
  s.needRmode (retire s (s.putBlock bf d m fun j =>
    quantise bf s.env j (s.scaleOf c) ((vFmt t).read s.env (s.groupElem t b j))))
/-- The bits of block element j in a vector (R183). -/
def State.blkBits (s : State) (bf : BlkF) (b : VR) (j : Nat) : Nat := s.lane b (blkWidth bf) j
/-- The state with elements of a group of n elements: active ones take f, the others keep their values (R172). -/
def State.putGroup (s : State) (t : ElemT) (n : Nat) (d : VR) (m : KR) (f : Nat → Fp) : State :=
  let k := s.me.getK m
  let g := n * t.width / 256
  let old := s.me.getGroup d g
  let v := ofElems t.width ((List.range n).map fun j => if active k j then (f j).1 else elem old t.width j)
  s.mapMe fun c => (c.setGroup d g v).flag (laneFlags n k fun j => (f j).2)
/-- VDQNT (R184): a NaN gives the canonical NaN with no flag. -/
def execVdqnt (bf : BlkF) (t : ElemT) (d b : VR) (c : XS) (m : KR) (s : State) : Out :=
  s.needRmode (retire s (s.putGroup t 32 d m fun j =>
    (vFmt t).deliver s.env j (blockValue bf (s.blkBits bf b j) (s.scaleOf c))))
/-- VRSC (R185). -/
def execVrsc (bf : BlkF) (d b : VR) (c e : XS) (m : KR) (s : State) : Out :=
  s.needRmode (retire s (s.putBlock bf d m fun j =>
    quantise bf s.env j (s.scaleOf e) (blockValue bf (s.blkBits bf b j) (s.scaleOf c))))
/-- VPHCV (R186). -/
def execVphcv (t : ElemT) (d b : VR) (c : XS) (m : KR) (s : State) : Out :=
  let x := sext (s.scaleOf c) 8
  s.needRmode (retire s (s.putGroup t 16 d m fun j =>
    let v := sext (s.lane b 16 j) 16
    (vFmt t).deliver s.env j (.fin (v < 0) v.natAbs x)))

/-! ## Approximations (R187, R188) -/

/-- The table entry of FRSQA (R188). -/
def rsqEntry (p j : Nat) : Nat := (isqrt (2 ^ 41 / (2 ^ p * (2048 + j))) 24 0 + 1) / 2
/-- The table entry of FRCPA (R188). -/
def rcpEntry (j : Nat) : Nat := (2 ^ 27 + (4096 + j)) / (2 * (4096 + j))
/-- The leading fraction bits of a magnitude normalised to [1, 2): floor((m - 1) * 2^k). -/
def fracBits (m k : Nat) : Nat := m * 2 ^ k / 2 ^ m.log2 - 2 ^ k
/-- The environment of the approximations: RNE, with the FTZ in force (R188). -/
def approxEnv (v : FEnv) : FEnv := { v with rm := 0, seed := 0 }
/-- FRSQA of one pattern (R187, R188). -/
def frsqa (f : Fmt) (v : FEnv) (idx b : Nat) : Fp :=
  match f.read v b with
  | .nan g => (f.nan, if g then fNv else 0)
  | .inf s => if s then f.invalid else plain 0
  | .fin s m e =>
    if m = 0 then (f.sign s + f.infCode, fDz)
    else if s then f.invalid
    else
      let x := magLog m e
      let p := (x % 2).toNat
      let q := (x - p) / 2
      f.round (approxEnv v) idx false ⟨rsqEntry p (fracBits m 11), -14 - q, false⟩
/-- FRCPA of one pattern (R187, R188). -/
def frcpa (f : Fmt) (v : FEnv) (idx b : Nat) : Fp :=
  match f.read v b with
  | .nan g => (f.nan, if g then fNv else 0)
  | .inf s => plain (f.sign s)
  | .fin s m e =>
    if m = 0 then (f.sign s + f.infCode, fDz)
    else f.round (approxEnv v) idx s ⟨rcpEntry (fracBits m 12), -14 - magLog m e, false⟩
/-- FRSQA (R188). -/
def execFrsqa (t : ElemT) (d b : VR) (m : KR) (s : State) : Out :=
  retire s (s.vf t d m fun i => frsqa (vFmt t) s.env i (s.lane b t.width i))
/-- FRCPA (R188). -/
def execFrcpa (t : ElemT) (d b : VR) (m : KR) (s : State) : Out :=
  retire s (s.vf t d m fun i => frcpa (vFmt t) s.env i (s.lane b t.width i))

end Sys2Proof.Machine
end

