-- ==== Sys2Proof/Machine/Sluice.lean ====
section
/-! DEFINITION. Sluice groups and the sluice forms (R319 to R328). -/
namespace Sys2Proof.Machine

/-! ## Groups (R319 to R324) -/

/-- The launch of a number. -/
def State.launch (s : State) (l : Nat) : Launch := tget s.launches l Launch.none
/-- Change a launch. -/
def State.mapLaunch (s : State) (l : Nat) (f : Launch → Launch) : State :=
  { s with launches := tset s.launches l (f (s.launch l)) }
/-- The launch owns a channel (R368: chown). -/
def Launch.owns (l : Launch) (ch : Nat) : Bool := l.record.getLsbD (176 + ch)
/-- The group of a channel of a launch. -/
def State.group (s : State) (l ch : Nat) : Group := tget (s.launch l).groups ch Group.new
/-- Change the group of a channel of a launch. -/
def State.mapGroup (s : State) (l ch : Nat) (f : Group → Group) : State :=
  s.mapLaunch l fun x => { x with groups := tset x.groups ch (f (tget x.groups ch Group.new)) }
/-- The scope of a group: the narrowest that contains the core set (R320). -/
def groupScope (cores : List Nat) : Scope :=
  match cores with
  | [] => .core
  | n :: ns =>
    if ns.isEmpty then .core
    else if ns.all fun m => clusterOf m == clusterOf n then .cluster
    else if ns.all fun m => fieldOf m == fieldOf n then .field
    else .device
/-- The context mask of a channel in SGMASK registers (R63). -/
def sgMask (v : Vector Word 4) (ch : Nat) : Nat := bits (v.toList.getD (ch / 4) 0).toNat (16 * (ch % 4) + 15) (16 * (ch % 4))
/-- Core n is saved, and launch l is the work that is saved with it (R442). -/
def State.holdsSaved (s : State) (l n : Nat) : Bool := (s.core n).mode == .saved && (s.core n).saved.bind (·.launch) == some l
/-- The SGMASK registers of core n for launch l: those of the saved work, or the core's own (R444). -/
def State.masksOf (s : State) (l n : Nat) : Vector Word 4 :=
  let k := s.core n
  match if s.holdsSaved l n then k.saved else none with
  | some v => v.sgmask
  | none => k.sgmask
/-- The part of a core in a phase that opens now (R64, R321): one that the launch has lost has none (R328). -/
def State.partNow (s : State) (l n ch : Nat) : Nat :=
  if (s.remapState n = 1 ∨ s.remapState n = 2) ∧ ((s.core n).launch = some l ∨ (s.core n).saved.bind (·.launch) = some l) then sgMask (s.masksOf l n) ch
  else 0
/-- The phase a core's view names as open (R322). -/
def Group.view (g : Group) (n : Nat) : Nat := tget g.views (fieldOf n) 0
/-- A context is a member of the phase its core sees as open (R327). -/
def Group.member (g : Group) (c : Nat) : Bool := (tget g.parts (coreOf c) 0).testBit (ctxNo c)
/-- A context has arrived in a phase, its count pending or not. -/
def Group.hasArrived (g : Group) (c p : Nat) : Bool := g.arrived.contains (c, p)
/-- An arrival of a context has been counted in a phase. -/
def Group.counted (g : Group) (c p : Nat) : Bool := g.hasArrived c p && !g.uncounted.contains c
/-- Contexts of a mask of a core. -/
def maskCtxs (n m : Nat) : List Nat := ((List.range 16).filter fun j => m.testBit j).map fun j => 16 * n + j
/-- A field's part of the open phase is fixed, and every member of it has been counted (R321, R322). -/
def Group.fieldDone (g : Group) (cores : List Nat) (f : Nat) : Bool :=
  tget g.views f 0 == g.tree &&
    (cores.filter fun n => fieldOf n == f).all fun n =>
      g.parts.any (·.1 == n) && (maskCtxs n (tget g.parts n 0)).all fun c => g.counted c g.tree
/-- Fields of a core set, rising. -/
def setFields (cores : List Nat) : List Nat := cores.foldl (fun l n => kput l (fieldOf n)) []
/-- The root sees whether the phase is complete: every field has reported and some member exists (R321, R322). From then
the tree counts the next phase, and the completion goes out (R324). -/
def State.rootCheck (s : State) (l ch : Nat) : State :=
  let x := s.launch l
  let g := s.group l ch
  let fs := setFields x.cores
  if fs.all g.reported.contains && x.cores.any (fun n => tget g.parts n 0 != 0) then
    let s := s.mapGroup l ch fun g => { g with tree := (g.tree + 1) % 2 ^ 16, reported := [] }
    fs.foldl (fun s f => s.post (if some f = fs.head? then .sluiceCompletionSeen l ch f else .sluiceRelay l ch f)) s
  else s
/-- A relay between a field's root and the root of the lowest field is under way. -/
def State.relaying (s : State) (l ch f : Nat) : Bool := s.agenda.contains (.sluiceRelay l ch f)
/-- A field's tree looks at its part of the open phase: complete, it reports to the root (R324). -/
def State.treeCheck (s : State) (l ch f : Nat) : State :=
  let g := s.group l ch
  if g.fieldDone (s.launch l).cores f && !g.reported.contains f && !s.relaying l ch f then s.post (.sluiceRelay l ch f) else s
/-- The bits of SGMASK that the ARVDs of a core's contexts clear in a register (R321). -/
def dropBits (ds : List Nat) (ch i : Nat) : Word :=
  if i = ch / 4 then ds.foldl (fun v c => v ||| ((1#64) <<< (16 * (ch % 4) + ctxNo c))) 0 else 0
/-- Open a phase at a core: its part is fixed, after an ARVD has cleared its context's bit; an MTS of the same cycle is applied
after the clear (R64, R321). -/
def State.openPhase (s : State) (l ch n : Nat) : State :=
  let ds := (s.group l ch).drops.filter fun c => coreOf c == n
  let clear (v : Vector Word 4) : Vector Word 4 := Vector.ofFn fun i => v[i] &&& ~~~(dropBits ds ch i.val)
  let s :=
    if s.holdsSaved l n then s.mapSaved n fun k =>
      { k with sgmask := clear k.sgmask, cleared := Vector.ofFn fun i => k.cleared[i] ||| dropBits ds ch i.val }
    else
      let s := if (s.core n).mode == .frozen then s.mapSaved n fun k =>
          { k with sgmask := clear k.sgmask, cleared := Vector.ofFn fun i => k.cleared[i] ||| dropBits ds ch i.val }
        else s
      s.mapCore n fun k =>
        { k with sgmask := Vector.ofFn fun i => if k.sgWrote[i] = s.cycle + 1 then k.sgmask[i] else (clear k.sgmask)[i] }
  s.mapGroup l ch fun g =>
    { g with drops := g.drops.filter fun c => coreOf c != n, parts := tset g.parts n (s.partNow l n ch),
             openedAt := tset g.openedAt n s.cycle }
/-- An MTS to SGMASK register i completes at a core: the phases that opened there in this cycle take their part from it (R64,
R321). -/
def State.maskWritten (s : State) (n i : Nat) : State :=
  match (s.core n).launch with
  | none => s
  | some l =>
    ((List.range 4).map (4 * i + ·)).foldl (fun s ch =>
      if tget (s.group l ch).openedAt n (s.cycle + 1) = s.cycle then
        (s.mapGroup l ch fun g => { g with parts := tset g.parts n (s.partNow l n ch) }).treeCheck l ch (fieldOf n)
      else s) s
/-- Wake the contexts of a core that wait in a sluice form. -/
def State.wakeSluice (s : State) (n : Nat) : State :=
  (List.range 16).foldl (fun s j =>
    let w := (s.ctx (16 * n + j)).why
    if w = some .sluice ∨ w = some .arrive then s.wake (16 * n + j) else s) s
/-- SLUICE_COMPLETION_SEEN (R322, R324): every core of a field sees the completion, and the next phase opens there. -/
def execSluiceCompletionSeen (l ch f : Nat) (s : State) : Out :=
  let x := s.launch l
  let g := s.group l ch
  if !x.live || tget g.views f 0 == g.tree then .next s
  else
    let ns := x.cores.filter fun n => fieldOf n == f
    let old := tget g.views f 0
    let s := s.mapGroup l ch fun g =>
      { g with views := tset g.views f g.tree,
               arrived := g.arrived.filter fun a => !(fieldOf (coreOf a.1) == f && a.2 == old) }
    let s := ns.foldl (fun s n => s.openPhase l ch n) s
    let s := ns.foldl (fun s n => s.wakeSluice n) s
    .next (s.treeCheck l ch f)
/-- SLUICE_RELAY (R324): a relay between a field's root and the root of the lowest field arrives. A report stands only while the
field's part of the phase is complete, and after the cycle in which the phase opened there (R321, R322). -/
def execSluiceRelay (l ch f : Nat) (s : State) : Out :=
  let g := s.group l ch
  let x := s.launch l
  if !x.live then .next s
  else if tget g.views f 0 ≠ g.tree then .next (s.post (.sluiceCompletionSeen l ch f))
  else if x.cores.any fun n => fieldOf n == f && tget g.openedAt n (s.cycle + 1) == s.cycle then .next (s.again (.sluiceRelay l ch f))
  else if g.reported.contains f || !g.fieldDone x.cores f then .next s
  else .next ((s.mapGroup l ch fun g => { g with reported := g.reported ++ [f] }).rootCheck l ch)
/-- SLUICE_ARRIVAL_COUNT (R251, R326): the arrival of a launch's context is counted once the accesses before it have been
performed: `after` holds one more than the count of store-buffer entries up to then, or 0 for ARV.RLX, and the commands then
under way. -/
def execSluiceArrivalCount (who : Nat × Nat) (ch p : Nat) (after : Nat × List (Nat × Nat)) (s : State) : Out :=
  let l := who.1
  let c := who.2
  let g := s.group l ch
  if !g.uncounted.contains c || !g.hasArrived c p then .next s
  else if (s.ctx c).drains + 1 < after.1 || (0 < after.1 && s.cellsOut c) || (s.cmdIds c).any after.2.contains then
    .next (s.again (.sluiceArrivalCount who ch p after))
  else .next ((s.mapGroup l ch fun g => { g with uncounted := g.uncounted.filter (· != c) }).treeCheck l ch (fieldOf (coreOf c)))
/-- The vote fences a core of a launch: its expected contexts count as arrived and leave later phases, and the lost bit is set
(R328). -/
def State.sluiceLost (s : State) (n l : Nat) : State :=
  ((List.range 16).filter fun ch => (s.launch l).owns ch).foldl (fun s ch =>
    let g := s.group l ch
    let ms := maskCtxs n (tget g.parts n 0)
    let p := g.view n
    let new := ms.filter fun c => !g.hasArrived c p
    (s.mapGroup l ch fun g =>
      { g with arrived := g.arrived ++ new.map (·, p), uncounted := g.uncounted.filter fun c => coreOf c != n,
               lost := g.lost || !(ms.isEmpty && sgMask (s.masksOf l n) ch == 0) }).treeCheck l ch (fieldOf n)) s
/-- The vote fences a core: of the launch that runs on it, and of the one that is saved with it (R328). -/
def State.sluiceFence (s : State) (n : Nat) : State :=
  let k := s.core n
  let ls := k.launch.toList ++ ((k.saved.bind (·.launch)).filter fun l => k.launch != some l).toList
  ls.foldl (fun s l => s.sluiceLost n l) s

/-! ## Forms (R325 to R327) -/

/-- SLUICE_ACCESS with its EVAL (R326). -/
def State.sluiceTrap (s : State) (v : Nat) : Out := .next (s.trap 0x20 (w64 v))
/-- check(ch) of R326: the number of the launch that owns the channel. -/
def State.sluiceCheck (s : State) (ch : Fin 16) (k : Nat → Out) : Out :=
  match (s.core s.myCore).launch with
  | none => s.sluiceTrap ch.val
  | some l => if (s.launch l).live && (s.launch l).owns ch.val then k l else s.sluiceTrap ch.val
/-- An arrival form (R326): counted in the open phase, held for the next, or refused. `rel` says it is a release; `drop`
that its context leaves. -/
def arrive (s : State) (ch : Fin 16) (d : XR) (rel drop : Bool) : Out :=
  s.sluiceCheck ch fun l =>
    let g := s.group l ch.val
    let p := g.view s.myCore
    if g.member s.cur && !g.hasArrived s.cur p then
      let t := s.mapGroup l ch.val fun g =>
        { g with arrived := g.arrived ++ [(s.cur, p)], uncounted := g.uncounted ++ [s.cur],
                 drops := if drop then g.drops ++ [s.cur] else g.drops }
      let t := if rel then t.release s.cur (groupScope (s.launch l).cores) else t
      let upto := if rel then s.me.drains + s.me.buf.length + 1 else 0
      let cmds := if rel then s.cmdIds s.cur else []
      retire s ((t.putX d (w64 p)).post (.sluiceArrivalCount (l, s.cur) ch.val p (upto, cmds)))
    else if (sgMask (s.core s.myCore).sgmask ch.val).testBit (ctxNo s.cur) && !g.drops.contains s.cur then .next (s.park .arrive)
    else s.sluiceTrap (0x100 + ch.val)
/-- ARV (R326). -/
def execArv (ch : Fin 16) (d : XR) (s : State) : Out := arrive s ch d true false
/-- ARV.RLX (R326). -/
def execArvRlx (ch : Fin 16) (d : XR) (s : State) : Out := arrive s ch d false false
/-- ARVD (R326). -/
def execArvd (ch : Fin 16) (d : XR) (s : State) : Out := arrive s ch d true true
/-- Phase p is complete where P is open (R323). -/
def phaseDone (open_ p : Nat) : Bool :=
  let d := (open_ + 2 ^ 16 - p % 2 ^ 16) % 2 ^ 16
  1 ≤ d && d ≤ 32768
/-- BWT (R326): an acquire at group scope. -/
def execBwt (ch : Fin 16) (a : XS) (s : State) : Out :=
  s.sluiceCheck ch fun l =>
    let sc := groupScope (s.launch l).cores
    if phaseDone ((s.group l ch.val).view s.myCore) ((s.me.getS a).toNat % 2 ^ 16) then
      let t := s.acquireOf s.cur sc []
      if sc = .device then retireLong s t else retire s t
    else .next (s.park .sluice)
/-- BTEST (R327). -/
def execBtest (ch : Fin 16) (d : XR) (s : State) : Out :=
  s.sluiceCheck ch fun l =>
    let g := s.group l ch.val
    let p := g.view s.myCore
    retire s (s.putX d (w64 (p + (if g.member s.cur then 2 ^ 16 else 0) + (if g.counted s.cur p then 2 ^ 17 else 0)
      + (if g.lost then 2 ^ 18 else 0))))

end Sys2Proof.Machine
end

