-- ==== Sys2Proof/Machine/Messages.lean ====
section
/-! DEFINITION. Messages (R335 to R342, R446), the message area of a saved core (R443, R444), and host messages
(R449 to R454). -/
namespace Sys2Proof.Machine

/-! ## Context addresses (R25) -/

/-- Global context address of a context of this module (R25). -/
def State.globalCtx (s : State) (c : Nat) : Nat := s.pkg * 2 ^ 19 + c
/-- Package of a global context address. -/
def gctxPkg (a : Nat) : Nat := bits a 24 19
/-- Context key of a global context address. -/
def gctxKey (a : Nat) : Nat := a % 2 ^ 19
/-- The number under which write tags and scopes know the context of a global address (R25, R275). -/
def State.whoOf (s : State) (a : Nat) : Nat :=
  if gctxPkg a = s.pkg then gctxKey a else 2 ^ 19 * (gctxPkg a + 1) + gctxKey a
/-- The issuer of a flit that no context of the module sends: a status or a returned message. -/
def noCtx : Nat := 2 ^ 19

/-! ## The save block (R443, R445) -/

/-- The key of a byte of a save block, for the device's own accesses to it: translated as its issuer's would be, and never
refused later (R445). -/
def State.blockKey (s : State) (q : Asker) (va : Nat) : Option Nat :=
  if inWindow va then some (windowKey q.core va)
  else
    match tlbFind (s.clu (sliceOf (fieldOf q.core) va)).tlb q.asid va with
    | some e => some (s.normPa (e.pa + (va - e.va)))
    | none =>
      match s.walk q.asid va with
      | .leaf size e => some (s.normPa (bits e 51 16 * 2 ^ 16 + va % 2 ^ size))
      | .fault _ => none
/-- The asker a saved core's device writes go as (R445). -/
def Saved.asker (k : Saved) : Asker := ⟨k.asid, coreOf k.issuer, k.sys⟩
/-- The metadata word of a message (R340). -/
def metaWord (m : Msg) : Nat :=
  m.status % 4 * 2 ^ 32 + 2 ^ 31 + (if m.host then 2 ^ 30 else 0) + m.ch % 4 * 2 ^ 25 + m.addr % 2 ^ 25
/-- Write 64 bytes of a saved core's block, as the device does. -/
def State.blockStore (s : State) (k : Saved) (off v : Nat) (bad : Bool) : State :=
  match s.blockKey k.asker (k.block + off) with
  | some a => s.store a 64 v bad
  | none => s
/-- The word at 16,448 of the save block: ρ, the nblk copy and the number of messages (R443). -/
def countWord (rho nblk nmsg : Nat) : Nat := rho % 2 ^ 32 + nblk % 8 * 2 ^ 32 + nmsg % 2 ^ 13 * 2 ^ 35
/-- The 64 bytes of entry i of a message area (R443). -/
def areaEntry (m : Msg) : Nat := m.payload.toNat + metaWord m * 2 ^ 256
/-- Append a message to the message area of a saved core, and count it there (R443, R444). Of the messages that a core held when it
froze, those beyond the 1,024 entries stay behind it in the spill ring (log entry 21). -/
def State.areaPut (s : State) (n : Nat) (k : Saved) (m : Msg) : State :=
  let s := if k.msgs.length < 1024 then s.blockStore k (589824 + 64 * k.msgs.length) (areaEntry m) m.poisoned else s
  let s :=
    match s.blockKey k.asker (k.block + 16448) with
    | some a => let w := s.rdN a 8; s.store a 8 (countWord (bits w 31 0) (bits w 34 32) (Nat.min 1024 (k.msgs.length + 1))) false
    | none => s
  s.mapCore n fun c => { c with saved := some { k with msgs := k.msgs ++ [m] } }
/-- A message for a saved core; none when the area is full (R444). -/
def State.toArea (s : State) (n : Nat) (k : Saved) (m : Msg) : Option State :=
  if k.msgs.length < 1024 then some (s.areaPut n k m) else none

/-! ## Receive queue and spill queue (R335, R336, R446) -/

/-- How many entries of a queue a context holds. -/
def heldCount (q : List Msg) (c : Nat) : Nat := (q.filter (·.dst == c)).length
/-- Shared entries of a receive queue in use (R336). -/
def sharedUsed (q : List Msg) (n : Nat) : Nat :=
  (List.range 16).foldl (fun t j => t + (heldCount q (16 * n + j) - 2)) 0
/-- A message for a context may enter the receive queue (R336). -/
def Core.takes (k : Core) (c : Nat) : Bool := heldCount k.rq c < 2 || sharedUsed k.rq (coreOf c) < 32
/-- Two messages belong to one triple (R335). -/
def sameTriple (a b : Msg) : Bool := a.dst == b.dst && a.ch == b.ch && a.addr == b.addr && a.host == b.host
/-- A match in the queue wakes a RECV of its context (R339). -/
def State.wakeRecv (s : State) (c : Nat) : State := if (s.ctx c).why = some .recv then s.wake c else s
/-- Key of entry i of the spill ring of core n (R446, R528). -/
def spillRing (n i : Nat) : Nat := 0x100000000 + 131072 * n + 64 * i
/-- The first entry of a ring of 2,048 that holds no message, from entry `a` on (R446). -/
def freeEntry (used : List Nat) : Nat → Nat → Nat
  | 0, a => a
  | k + 1, a => if used.contains a then freeEntry used k ((a + 1) % 2048) else a
/-- A message joins the spill queue of core n, in the entry of the ring after that of the one before it (R335, R446). -/
def State.spillPut (s : State) (n : Nat) (m : Msg) : State :=
  let k := s.core n
  let i := freeEntry k.spillSlots 2048 (k.spillSlots.getLast?.elim 0 fun i => (i + 1) % 2048)
  (s.store (spillRing n i) 64 (areaEntry m) m.poisoned).mapCore n fun k =>
    { k with spill := k.spill ++ [m], spillSlots := k.spillSlots ++ [i] }
/-- Spilled message i as its entry of the ring holds it: an entry that is poisoned makes the message so (R467). -/
def State.spillTake (s : State) (n i : Nat) (m : Msg) : Msg :=
  { m with poisoned := m.poisoned || (s.badIn (spillRing n ((s.core n).spillSlots.getD i 0)) 64).isSome }
/-- Every message of a core's queues, the receive queue's first (R336, R341). -/
def State.queued (s : State) (n : Nat) : List Msg :=
  let k := s.core n
  k.rq ++ (List.range k.spill.length).map fun i => s.spillTake n i (k.spill.getD i ⟨0, 0, 0, 0, 0, false, 0, .thread, false, none⟩)
/-- The queues of a core are empty. -/
def State.dropQueue (s : State) (n : Nat) : State := s.mapCore n fun k => { k with rq := [], spill := [], spillSlots := [] }
/-- The address that a message was sent to (R25, R340, R474). -/
def State.intended (s : State) (m : Msg) : Nat := if m.status = 0 then s.globalCtx m.dst else m.addr
/-- A message is accepted at its destination's core: into the message area of a saved core, the receive queue, or the
spill queue; none while it finds no room (R335, R336, R444, R446). -/
def State.accept (s : State) (m : Msg) : Option State :=
  let n := coreOf m.dst
  let k := s.core n
  match if s.savedFor n m.asid then k.saved else none with
  | some v => s.toArea n v m
  | none =>
    if k.takes m.dst && !k.spill.any (sameTriple m) then
      some ((s.mapCore n fun k => { k with rq := k.rq ++ [m] }).wakeRecv m.dst)
    else if k.spill.length < 2048 then some (s.spillPut n m)
    else none
/-- The first spilled message that may move: no earlier one is for its context, and its context may take it (R336). -/
def nextSpilled (k : Core) : List Msg → List Nat → Option Msg
  | [], _ => none
  | m :: ms, seen => if !seen.contains m.dst && k.takes m.dst then some m else nextSpilled k ms (m.dst :: seen)
/-- SPILLED_MESSAGE_MOVE (R336): one spilled message moves into the receive queue. -/
def execSpilledMessageMove (n : Nat) (s : State) : Out :=
  let k := s.core n
  match nextSpilled k k.spill [] with
  | none => .next s
  | some m =>
    let i := (k.spill.findIdx? (· == m)).getD 0
    .next (((s.mapCore n fun k =>
      { k with rq := k.rq ++ [s.spillTake n i m], spill := k.spill.eraseIdx i, spillSlots := k.spillSlots.eraseIdx i }).wakeRecv m.dst).post
      (.spilledMessageMove n))

/-! ## SEND (R338) -/

/-- The ingress holds a message for a moving or FENCED or ABSENT core, or accepts it (R33, R338): the state after it, and
the status, if it is settled. -/
def State.ingress (s : State) (m : Msg) : Option (State × Nat) :=
  match s.remapState (coreOf m.dst) with
  | 0 => some (s, 1)
  | 3 => some (s, 2)
  | 2 => none
  | _ => (s.accept m).map (·, 0)
/-- The receiving port lets a message from another package reach its destination context (R464). -/
def State.portLets (s : State) (m : Msg) : Bool :=
  match m.via with
  | none => true
  | some v =>
    let e := s.enlEntry v.tgt (gctxPkg m.addr)
    partValid (s.parts.toList.getD v.tgt 0) && bits e 9 5 == v.src && e.testBit 0 && s.inPart v.tgt (fieldOf (coreOf m.dst))
/-- The number of a triple of source, destination and channel (R465). -/
def tripleKey (src dst ch : Nat) : Nat := (src % 2 ^ 25 * 2 ^ 25 + dst % 2 ^ 25) * 4 + ch % 4
/-- A message leaves for another package, with its number (R456, R463, R465). -/
def State.sendMessage (s : State) (c p : Nat) (m : Msg) (d : XR) : State :=
  let k := tripleKey m.addr (p * 2 ^ 19 + m.dst) m.ch
  let n := tget s.msgOut k 0
  let ps := s.flitParts (gctxKey m.addr) p
  ({ s with msgOut := tset s.msgOut k (n + 1) }).sendOut c p (.message { m with via := some ⟨ps.1, ps.2, n, 0⟩ } d)
/-- The numbers of a message's triple: its own, and the one that is delivered next; equal for a message of this package (R465). -/
def State.turnOf (s : State) (m : Msg) : Nat × Nat :=
  match m.via with
  | none => (0, 0)
  | some v => (v.num, tget s.msgIn (tripleKey m.addr (s.globalCtx m.dst) m.ch) 0)
/-- A message from another package has been delivered or refused: the next of its triple may come (R465). -/
def State.turnTaken (s : State) (m : Msg) : State :=
  match m.via with
  | none => s
  | some v => { s with msgIn := tset s.msgIn (tripleKey m.addr (s.globalCtx m.dst) m.ch) (v.num + 1) }
/-- A message is refused at a port site, which counts it (R462, R464). -/
def State.countRefused (s : State) (m : Msg) : State :=
  match m.via with
  | none => s
  | some v =>
    let p := tget s.ports v.port Port.reset
    State.inventory { s with ports := tset s.ports v.port { p with refused := Nat.min (p.refused + 1) (2 ^ 32 - 1) } }
/-- The status of a message goes to its sender: to its SEND, or back to another package (R338). One that was itself returned, or
that a launch's completion action sent, waits for no status: it is discarded and logged when it is not delivered (R341, R373). -/
def State.answerSend (s : State) (m : Msg) (st c : Nat) (d : XR) : State :=
  if m.status ≠ 0 then (if st = 0 then s else s.logDiscard (coreOf m.dst) m.addr)
  else if gctxPkg m.addr = s.pkg then
    if c = noCtx then (if st = 0 then s else s.logDiscard (coreOf (gctxKey m.addr)) (s.intended m))
    else s.post (.sendStatusReturn c (BitVec.ofNat 2 st) d)
  else s.sendOut noCtx (gctxPkg m.addr) (.status m st)
/-- MESSAGE_ARRIVAL (R33, R338, R464, R465): the message is queued, held or refused; one from another package waits for those before it
of its triple, and changes nothing when it comes again. A message on its way back to its sender carries status 2. -/
def execMessageArrival (m : Msg) (c : Nat) (d : XR) (s : State) : Out :=
  if (s.turnOf m).2 < (s.turnOf m).1 then .next (s.again (.messageArrival m c d))
  else if (s.turnOf m).1 < (s.turnOf m).2 then .next s
  else if !s.portLets m then .next (((s.countRefused m).turnTaken m).answerSend m 3 c d)
  else
    match s.ingress m with
    | none => .next (s.heldBy (spadKey (coreOf m.dst) 0) (.messageArrival m c d))
    | some (t, st) => .next ((t.turnTaken m).answerSend m st c d)
/-- SEND_STATUS_RETURN (R338). -/
def execSendStatusReturn (c : Nat) (st : BitVec 2) (d : XR) (s : State) : Out :=
  .next ((s.replyX c d (st.setWidth 64) false).reply c)
/-- SEND (R338): a release; the message leaves once every earlier access of its context has been performed at the scope. A
context outside the sender's partition, or on a package it cannot reach, is unreachable (R410, R457, R464). -/
def execSend (sc : Scope) (q : Fin 4) (d : XR) (b : XS) (c : VR) (s : State) : Out :=
  s.ordered sc none fun t =>
    let dst := (s.me.getS b).toNat % 2 ^ 25
    let part := s.partOf (fieldOf s.myCore)
    let t := t.release s.cur sc
    let m : Msg := { dst := gctxKey dst, ch := q.val, payload := s.me.getV c, addr := s.globalCtx s.cur, status := 0, host := false, asid := s.me.asid.toNat, scope := sc, poisoned := false, via := none }
    let go (t : State) : Out := retire s (t.mapMe fun x => { x with why := some .longOp })
    if gctxPkg dst = s.pkg then
      if part.isSome && s.partOf (fieldOf (coreOf (gctxKey dst))) == part then go (t.post (.messageArrival m s.cur d))
      else go (t.post (.sendStatusReturn s.cur 3 d))
    else
      match part with
      | some p =>
        if s.reaches p (gctxPkg dst) 0 then
          go (t.sendMessage s.cur (gctxPkg dst) m d)
        else go (t.post (.sendStatusReturn s.cur 3 d))
      | none => go (t.post (.sendStatusReturn s.cur 3 d))

/-! ## RECV and RECVT (R339, R471) -/

/-- Position of the oldest entry for a context on a channel, or on any. -/
def recvAt (l : List Msg) (c : Nat) (q : Option (Fin 4)) : Option Nat :=
  l.findIdx? fun m => m.dst == c && (q.map fun n => m.ch == n.val).getD true
/-- EVAL of a poisoned receive-queue entry (R471). -/
def queueEval (i : Nat) : Word := w64 (2 ^ 63 + 7 * 256 + i % 64)
/-- An error armed on the receive queue meets the entry taken (R441): its record, and whether the entry is poisoned. -/
def State.meetEntry (s : State) (i : Nat) : State × Bool :=
  match s.me.armed with
  | some a =>
    if a.struct = 7 then
      let s := s.mapMe fun c => { c with armed := none }
      (s.logClu (clusterOf s.myCore) .reg
        (errRec (if a.unc then 1 else 0) 7 (s.colUnit s.myCore) 0 i (a.bit % 256) s.cycle), a.unc)
    else (s, false)
  | none => (s, false)
/-- Take an entry (R339): an acquire that is judged by its SEND (R278); a
poisoned entry is removed and traps (R471). -/
def takeEntry (s : State) (sc : Scope) (i : Nat) (m : Msg) (d : VR) (xm : XR) : Out :=
  let t := (s.mapCore s.myCore fun k => { k with rq := k.rq.eraseIdx i }).post (.spilledMessageMove s.myCore)
  let r := t.meetEntry i
  if m.poisoned || r.2 then .next (r.1.trap 0x1A (queueEval i))
  else
    let tag : ReadTag := ⟨s.whoOf m.addr, m.scope, spadKey s.myCore 0, true, true⟩
    retire s (((r.1.acquireOf s.cur sc (if m.host || m.status != 0 then [] else [tag])).putV d m.payload).putX xm (w64 (metaWord m)))
/-- RECV (R339): with no match its context waits for one. -/
def execRecv (sc : Scope) (q : Option (Fin 4)) (d : VR) (xm : XR) (s : State) : Out :=
  let l := (s.core s.myCore).rq
  match recvAt l s.cur q with
  | some i => takeEntry s sc i (l.getD i ⟨0, 0, 0, 0, 0, false, 0, .thread, false, none⟩) d xm
  | none => .next (s.park .recv)
/-- RECVT (R339): with no match it writes xm := 0. -/
def execRecvt (sc : Scope) (q : Option (Fin 4)) (d : VR) (xm : XR) (s : State) : Out :=
  let l := (s.core s.myCore).rq
  match recvAt l s.cur q with
  | some i => takeEntry s sc i (l.getD i ⟨0, 0, 0, 0, 0, false, 0, .thread, false, none⟩) d xm
  | none => retire s (s.putX xm 0)

/-! ## Functions of the host links (R449 to R454) -/

/-- A function by its number: 0 the PF, n VF n. -/
def State.func (s : State) (f : Nat) : Func := tget s.funcs f Func.reset
/-- Change a function. -/
def State.mapFunc (s : State) (f : Nat) (g : Func → Func) : State := { s with funcs := tset s.funcs f (g (s.func f)) }
/-- A host message of a function is dropped, with a code (R453, R454). -/
def State.hostDrop (s : State) (f code : Nat) : State :=
  s.mapFunc f fun x => { x with lastdrop := code, dropped := Nat.min (x.dropped + 1) 0xFFFF }
/-- HMSTAT of a function (R454). -/
def Func.hmstat (x : Func) : Nat := x.lastdrop % 16 * 2 ^ 60 + x.dropped % 2 ^ 16 * 2 ^ 16 + x.accepted % 2 ^ 16
/-- A field lies in a function's reach (R451). -/
def State.fnReach (s : State) (f field : Nat) : Bool :=
  if f = 0 then (s.partOf field).isSome else s.inPart (f - 1) field
/-- HOST_MESSAGE (R452 to R454): a doorbell write. The posted writes that PCI Express orders before it are events that
have happened. -/
def execHostMessage (link f : Nat) (whole : Bool) (r : BitVec 512) (s : State) : Out :=
  let e := ((s.func f).disp.toList.getD (bits r.toNat 259 256) 0).toNat
  let a := e % 2 ^ 25
  let c := gctxKey a
  if f ≠ 0 ∧ !partValid (s.parts.toList.getD (f - 1) 0) then .next s
  else if !whole || bits r.toNat 511 262 != 0 then .next (s.hostDrop f 1)
  else if !e.testBit 25 then .next (s.hostDrop f 2)
  else if gctxPkg a != s.pkg || !s.fnReach f (fieldOf (coreOf c)) then .next (s.hostDrop f 5)
  else
    let m : Msg := { dst := c, ch := bits r.toNat 261 260, payload := r.setWidth 256, addr := link % 2 + 2 * (f % 64),
                     status := 0, host := true, asid := 2 ^ 16, scope := .system, poisoned := false, via := none }
    match s.ingress m with
    | none => .next (s.heldBy (spadKey (coreOf m.dst) 0) (.hostMessage link f whole r))
    | some (_, 1) => .next (s.hostDrop f 3)
    | some (_, 2) => .next (s.hostDrop f 4)
    | some (t, _) => .next (t.mapFunc f fun x => { x with accepted := (x.accepted + 1) % 2 ^ 16 })

/-! ## Fencing (R341) -/

/-- A message held at a fenced core goes back to its sender with status 2, or is discarded and logged. -/
def State.returnMsg (s : State) (n : Nat) (m : Msg) : State :=
  if m.host then (s.logDiscard n (s.intended m)).hostDrop (m.addr / 2 % 64) 4
  else if m.status ≠ 0 then s.logDiscard n (s.intended m)
  else
    let back : Msg := { m with dst := gctxKey m.addr, addr := s.globalCtx m.dst, status := 2, via := none }
    if gctxPkg m.addr = s.pkg then s.post (.messageArrival back 0 0)
    else s.sendMessage noCtx (gctxPkg m.addr) back 0
/-- Every message of a fenced core's queues is returned, those that its message area holds for saved work included (R341, R444). -/
def State.messagesFence (s : State) (n : Nat) : State :=
  let ms := (((s.core n).saved.map (·.msgs)).getD []) ++ s.queued n
  ms.foldl (fun s m => s.returnMsg n m) ((s.dropQueue n).mapSaved n fun k => { k with msgs := [] })

end Sys2Proof.Machine
end

