-- ==== Sys2Proof/Machine/Wait.lean ====
section
/-! DEFINITION. Wait and notify (R329 to R334), and the test of SYNC at the home of a join word (R395). -/
namespace Sys2Proof.Machine

/-! ## Homes of waited words (R330, R333) -/

/-- The home of a waited word: a scratchpad port, or a slice bank (R330). -/
def State.waitHome (s : State) (loc : Nat) : Nat := if isSpad loc then 2 ^ 20 + spadCore loc else (s.homeKey loc).getD (2 ^ 19)
/-- A word has an entry in its home's table: it has a sleeper (R333). -/
def State.hasEntry (s : State) (loc : Nat) : Bool := s.sleepers.any fun q => wordOf q.loc == wordOf loc && q.woken.isNone
/-- The words that have entries at a home. -/
def State.entryWords (s : State) (h : Nat) : List Nat :=
  s.sleepers.foldl (fun l q => if q.woken.isNone && s.waitHome q.loc == h then kput l (wordOf q.loc) else l) []
/-- The home can take a sleeper of a word (R333). -/
def State.entryFree (s : State) (loc : Nat) : Bool := s.hasEntry loc || (s.entryWords (s.waitHome loc)).length < 1024
/-- A waited form ends with the value read from its word: its context takes it when its head issues again (R278, R331). -/
def State.endWait (s : State) (c loc : Nat) (v : Word) : State := (s.gotFrom c v [wordOf loc]).wake c
/-- A sleeper is woken with a value: one of a saved core keeps it until its context is restored (R334). One whose word is poisoned
leaves its place, and its head looks again (R471); a record beyond correction poisons the word (R467). -/
def State.wakeSleeper (s : State) (q : Sleeper) (v : Word) : State :=
  let s := if (s.ctx q.who).recBad then (s.mapCtx q.who fun c => { c with recBad := false }).setBad q.loc else s
  if s.isBad q.loc then
    let t : State := { s with sleepers := s.sleepers.filter fun r => !(r.who == q.who && r.saved == q.saved) }
    if q.saved then t else t.wake q.who
  else
  let s := { s with sleepers := s.sleepers.filterMap fun r =>
    if r.who = q.who ∧ r.saved = q.saved then (if q.saved then some { r with woken := some v } else none) else some r }
  if q.saved then s else s.endWait q.who q.loc v
/-- The w-bit word of a sleeper, as it stands. -/
def State.waitWord (s : State) (loc : Nat) (wide : Bool) : Word := w64 (s.rdN loc (amoBytes wide))

/-! ## WAITV and SYNC at the home (R331, R333, R395) -/

/-- A waiting form reaches its home: held while the core of its word moves, and not withdrawn until it has arrived; parked at a saved
core; queued for a table entry behind those that came before, or tested (R256, R333, R444). -/
def atHome (s : State) (c loc : Nat) (e : Instr) (test : State → Out) : Out :=
  if (s.ctx c).why ≠ some .sleep then .next s
  else if s.peerSaved c loc then .next (s.unsend c)
  else if s.heldKey c (s.ctx c).asid.toNat .atomic loc then .next ((s.holdAt c loc).heldBy loc e)
  else
    let s := s.mapCtx c fun x => { x with held := false }
    if s.hasEntry loc || (s.entryFree loc && s.entryWait.all fun w => w.1 != s.waitHome loc) then test s
    else if (s.ctx c).taken then .next (s.withdraw c)
    else .next { s with entryWait := s.entryWait ++ [(s.waitHome loc, c, e)] }
/-- The test of WAITV (R331): the word is returned, or the context sleeps behind every earlier sleeper. A poisoned word
is met by the head when it looks again (R471). -/
def waitvTest (s : State) (c loc : Nat) (wide ne : Bool) (x m : Word) : Out :=
  let s := if isSpad loc then s else s.recall loc
  let v := s.waitWord loc wide
  let lo (a : Word) : Nat := a.toNat % 2 ^ amoW wide
  let hit := (lo v &&& lo m) == (lo x &&& lo m)
  if s.isBad loc then .next (s.wake c)
  else if hit != ne then .next { s with sleepers := s.sleepers ++ [⟨c, false, false, loc, wide, none⟩] }
  else .next (s.endWait c loc v)
/-- WAITV_AT_HOME (R331). -/
def execWaitvAtHome (c loc : Nat) (wide ne : Bool) (x m : Word) (s : State) : Out :=
  atHome s c loc (.waitvAtHome c loc wide ne x m) fun s => waitvTest s c loc wide ne x m
/-- The test of SYNC (R395). -/
def syncTest (s : State) (c loc : Nat) : Out :=
  let s := s.recall loc
  if s.isBad loc then .next (s.wake c)
  else if s.rdN loc 8 = 0 then .next (s.endWait c loc 0)
  else .next { s with sleepers := s.sleepers ++ [⟨c, false, true, loc, true, none⟩] }
/-- SYNC_AT_HOME (R395). -/
def execSyncAtHome (c loc : Nat) (s : State) : Out := atHome s c loc (.syncAtHome c loc) fun s => syncTest s c loc
/-- WAIT_TABLE_ENTRY_GRANT (R333): the oldest form that waits at a home takes a freed entry and makes its test. -/
def execWaitTableEntryGrant (h : Nat) (s : State) : Out :=
  match s.entryWait.find? fun e => e.1 == h with
  | none => .next s
  | some w =>
    match w.2.2 with
    | .waitvAtHome c loc wide ne x m =>
      if s.entryFree loc then
        let s := { s with entryWait := s.entryWait.filter fun e => e.2.1 != w.2.1 }
        waitvTest s.grants c loc wide ne x m
      else .next s
    | .syncAtHome c loc =>
      if s.entryFree loc then
        let s := { s with entryWait := s.entryWait.filter fun e => e.2.1 != w.2.1 }
        syncTest s.grants c loc
      else .next s
    | _ => .next s

/-! ## Forms (R329 to R332) -/

/-- The checks of a wait or notify form (R330): those of a load, with WAIT_REMOTE after order 5. -/
def waitChecks (s : State) (ea : Word) (n : Nat) (rel : Option Scope) (k : State → Nat → Out) : Out :=
  if ea.toNat % n ≠ 0 then .next (s.trap 0x10 ea)
  else
    s.onRes .load
      (match s.resolveMe .load ea.toNat n with
       | .ok (p :: ps) => if isRemote p.key || isHost p.key then .trap 6 0x21 ea.toNat else .ok (p :: ps)
       | r => r) fun ps =>
      let go (s : State) : Out := s.readCheck true ps fun s => k s ((pieceKeys ps).getD 0 0)
      match rel with
      | some sc => s.ordered sc none go
      | none => s.drained go
/-- WAITV (R331): sent to the home of its word once its context's buffer has drained; it ends when its head issues with
the value, as an acquire. -/
def execWaitv (ne : Bool) (sc : Scope) (w : Bool) (d : XR) (b c e : XS) (s : State) : Out :=
  match s.me.got with
  | some v => retireLong s (((s.acquireOf s.cur sc s.me.gotTags).mapMe Ctx.tookGot).putX d v)
  | none =>
    waitChecks s (s.me.getS b) (amoBytes w) none fun s loc =>
      .next ((s.park .sleep).post (.waitvAtHome s.cur loc w ne (s.me.getS c) (s.me.getS e)))
/-- A notify (R332): a release, then performed at the home. -/
def notify (s : State) (sc : Scope) (all : Bool) (d : XR) (b : XS) : Out :=
  waitChecks s (s.me.getS b) 4 (some sc) fun s loc =>
    let sent (x : Ctx) : Ctx := { x with why := some .longOp, fill := some ⟨x.asid.toNat, (s.me.getS b).toNat, loc, none⟩ }
    retire s (((s.release s.cur sc).mapMe sent).post (.notifyAtHome s.cur loc all d))
/-- NTF1 (R332). -/
def execNtf1 (sc : Scope) (d : XR) (b : XS) (s : State) : Out := notify s sc false d b
/-- NTFA (R332). -/
def execNtfa (sc : Scope) (d : XR) (b : XS) (s : State) : Out := notify s sc true d b
/-- NOTIFY_AT_HOME (R330, R332): the oldest sleeper on the aligned 8 bytes, or every one, is woken with its word. At a saved core
the notifying context parks (R444). -/
def execNotifyAtHome (c loc : Nat) (all : Bool) (d : XR) (s : State) : Out :=
  if s.peerSaved c loc then .next (s.unsend c)
  else if s.heldKey c (s.ctx c).asid.toNat .atomic loc then .next ((s.holdAt c loc).heldBy loc (.notifyAtHome c loc all d))
  else
    let s := if isSpad loc then s else s.recall loc
    let qs := s.sleepers.filter fun q => !q.sync && wordOf q.loc == wordOf loc && q.woken.isNone
    let qs := if all then qs else qs.take 1
    let t := qs.foldl (fun t q => t.wakeSleeper q (t.waitWord q.loc q.wide)) s
    .next (((t.grants).replyX c d (w64 qs.length) false).reply c)

end Sys2Proof.Machine
end

