-- ==== Sys2Proof/Machine/Tasks.lean ====
section
/-! DEFINITION. Tasks: frames, deques, spawn, join, take and steal (R383 to R406), and SLICE (R403, R404). -/
namespace Sys2Proof.Machine

/-! ## Frames (R383, R384, R391) -/

/-- Bytes [off, off + n) of the frame at a VA, under the checks of R384 and R391 orders 2 to 4; the frame is reached at its
home. -/
def State.frameAt (s : State) (q : Asker) (fail : Option WalkFail) (acc : Acc) (va off n : Nat) : Res :=
  let page := s.pageOf q va
  let away : Bool :=
    match page with
    | some e => s.leafAway e
    | none => fail.any fun f => f.granule == va / 2 ^ 16 && f.away
  if va % 64 ≠ 0 ∨ 2 ^ 56 ≤ va ∨ inWindow va ∨ away then .trap 2 0x30 va
  else
    match s.askSlice q fail va acc with
    | .miss => .miss va
    | .trap c => .trap 4 c va
    | .ok pa =>
      if ((s.homeOf (s.asidPart q.asid) ((page.map (·.hdi)).getD 0) pa).map fun b => s.sliceShut (bankCluster b)).getD false
      then .held
      else .ok [⟨va + off, pa + off, n, false, none⟩]
/-- The checks of a frame of the executing context. -/
def State.frameMe (s : State) (acc : Acc) (va off n : Nat) : Res :=
  s.frameAt (s.asker s.cur) s.me.walkFail acc va off n
/-- The first key of a list of pieces. -/
def key0 (ps : List Piece) : Nat := (ps.map (·.key)).getD 0 0
/-- Write an 8-byte word at its home for context c (R312, R384): every copy of its line is recalled, and the home tests
the word again for sleepers of SYNC (R395). -/
def State.homeWrite (s : State) (c loc : Nat) (v : Word) (rel : Option Scope) : State :=
  let s := if isSpad loc then s else s.recall loc
  let s := (s.store loc 8 v.toNat false).tagWrite c rel true loc
  let s := (if isSpad loc then s else s.homeDirty loc).wakeSyncs loc
  if isRemote loc then s.sendOut noCtx (paPkg loc) (.data loc ((byteList loc v.toNat 8).map (·.2)) 0 (s.flitParts c (paPkg loc))) else s

/-! ## Deques (R61, R62, R385 to R388) -/

/-- Number of entries (R61). -/
def Core.dqLen (k : Core) : Nat := (k.dqbot.toNat + 2 ^ 32 - k.dqtop.toNat % 2 ^ 32) % 2 ^ 32
/-- Key of the slot of entry j of core n's deque (R385). -/
def State.dqSlot (s : State) (n j : Nat) : Nat :=
  spadKey n (bits (s.core n).dqbase.toNat 18 11 * 2048 + 8 * (j % 256))
/-- VA of the spill region of core n; 0 for none (R61, R386). -/
def State.spillVa (s : State) (n : Nat) : Nat := bits (s.core n).dqspill.toNat 55 12 * 4096
/-- Who the port of core n is for its spill region: the ASID of the core's launch, at the sys level (R386). -/
def State.spillAsker (s : State) (n : Nat) : Asker :=
  ⟨(((s.core n).launch.map fun l => (s.launch l).asid).getD 0), n, true⟩
/-- The answer of the port about its spill region: no region can be used, the walk or a slice that is shut down is awaited, or its
key. -/
inductive Spill where
  | none
  | walk
  | shut
  | at (key : Nat)
  deriving DecidableEq, Repr
/-- Reach the spill region of core n (R386). -/
def State.spillAt (s : State) (n : Nat) (acc : Acc) : Spill :=
  let va := s.spillVa n
  if va = 0 ∨ inWindow va then .none
  else
    match s.askSlice (s.spillAsker n) (s.unitFail (s.spillAsker n) (portUnit n) va) va acc with
    | .ok pa =>
      if ((s.pageOf (s.spillAsker n) va).map (·.cell)).getD false then .none else if s.homeShut pa then .shut else .at pa
    | .trap _ => .none
    | .miss => .walk
/-- The port begins a refill that is due (R388). -/
def State.refillDue (s : State) (n : Nat) : State :=
  let k := s.core n
  if k.dqLen ≤ 64 && 0 < k.nblk && k.refill.isNone && s.portRuns n then
    (s.mapCore n fun k => { k with refill := some (k.nblk - 1) }).post (.dequeRefill n)
  else s
/-- Copy 64 entries between slots and a block of memory, with their poison (R385, R386, R470). -/
def State.copyEntries (s : State) (src dst : Nat → Nat) : State :=
  (List.range 64).foldl (fun s i =>
    let t := (if isSpad (dst i) then s else s.recall (dst i)).store (dst i) 8 (s.rdN (src i) 8) (s.isBad (src i))
    if isSpad (dst i) then t else t.homeDirty (dst i)) s
/-- Write the header word of a spill region (R386). -/
def State.spillHeader (s : State) (key n : Nat) : State := ((s.recall key).store key 8 n false).homeDirty key
/-- The outcome of a push. -/
inductive Push where
  | done (s : State)
  /-- The spill is forbidden (R387). -/
  | full
  /-- The spill waits for a walk (R386); a refill under way is abandoned (R388). -/
  | walk (s : State)
  /-- The slot lies in a block that an OMU has yet to read (R214), or the spill's slice is shut down (R491). -/
  | wait
/-- Put a frame into the next slot at the bottom. -/
def State.pushSlot (s : State) (n : Nat) (f : Word) : State :=
  let j := (s.core n).dqbot.toNat
  (s.store (s.dqSlot n j) 8 f.toNat false).mapCore n fun k => { k with dqbot := w64 ((j + 1) % 2 ^ 32) }
/-- The port of core n has nothing more to ask a walk for: no answer is kept for it (R412). -/
def State.portAsks (s : State) (n : Nat) : State :=
  if s.clus.any fun p => p.2.fails.any fun e => e.1 == portUnit n then s.failUsed (portUnit n) else s
/-- Push a frame on the deque of core n, in one update of its port, spilling first when it is full (R387, R388, R392). -/
def State.push (s : State) (n : Nat) (f : Word) : Push :=
  let k := s.core n
  if s.inRange (s.dqSlot n k.dqbot.toNat) then .wait
  else if k.dqLen < 256 then .done ((s.portAsks n).pushSlot n f)
  else if 7 ≤ k.nblk then .full
  else
    match s.spillAt n .store with
    | .none => .full
    | .walk => .walk (s.mapCore n fun k => { k with refill := none })
    | .shut => .wait
    | .at r =>
      let t := k.dqtop.toNat
      let s := (s.copyEntries (fun i => s.dqSlot n (t + i)) fun i => r + 512 + 512 * k.nblk + 8 * i).spillHeader r (k.nblk + 1)
      let s := s.mapCore n fun k => { k with nblk := k.nblk + 1, dqtop := w64 ((t + 64) % 2 ^ 32), refill := none }
      .done (s.pushSlot n f)
/-- An event carries the STEAL of a context on. -/
def stealsFor (c : Nat) : Instr → Bool
  | .stealProbeRead x .. => x == c
  | .stealCas x .. => x == c
  | _ => false
/-- Contexts of a core that wait at its port look again; a STEAL between two probes does not, since its probes go on as events. -/
def State.wakeDeque (s : State) (n : Nat) : State :=
  (List.range 16).foldl (fun s j =>
    let c := 16 * n + j
    if (s.ctx c).why = some .deque && !s.agenda.any (stealsFor c) then s.wake c else s) s
/-- Drop the block of a refill that cannot be read, and report it to the miller (R386, R388). -/
def State.dropBlock (s : State) (n : Nat) (va : Nat) : State :=
  ((s.portAsks n).mapCore n fun k => { k with refill := none, nblk := k.nblk - 1 }).raiseAsync (16 * n) (s.ctx (16 * n)).asid.toNat 0x30 (w64 va)
/-- DEQUE_REFILL (R388): once the block can be read, a refill that finds more than 192 entries is abandoned. -/
def execDequeRefill (n : Nat) (s : State) : Out :=
  let k := s.core n
  let full : Bool := 192 < k.dqLen
  let leave : Out := .next ((s.mapCore n fun k => { k with refill := none }).refillDue n)
  match k.refill with
  | none => .next s
  | some b =>
    if !s.portRuns n then .next (s.mapCore n fun k => { k with refill := none })
    else
      let va := s.spillVa n + 512 + 512 * b
      match s.spillAt n .load with
      | .walk => .next ((s.openWalk (s.spillAsker n) (portUnit n) va .load).post (.dequeRefill n))
      | .shut => .next (s.again (.dequeRefill n))
      | .none => if full then leave else .next (((s.dropBlock n va).refillDue n).wakeDeque n)
      | .at r =>
        let src (i : Nat) : Nat := r + 512 + 512 * b + 8 * i
        let t := k.dqtop.toNat + 2 ^ 32 - 64
        if full then leave
        else if (s.badIn (src 0) 512).isSome then .next ((((s.dropBlock n va).spillHeader r b).refillDue n).wakeDeque n)
        else if (List.range 64).any fun i => s.inRange (s.dqSlot n (t + i)) then .next (s.again (.dequeRefill n))
        else
          let s := (s.copyEntries src fun i => s.dqSlot n (t + i)).spillHeader r b
          let s := s.mapCore n fun k => { k with refill := none, nblk := b, dqtop := w64 (t % 2 ^ 32) }
          .next ((s.refillDue n).wakeDeque n)

/-! ## Spawn, join and done (R392 to R395) -/

/-- A form that needs TASKF zero, or not (R391, order 1). -/
def State.needTask (s : State) (zero : Bool) (k : Out) : Out :=
  if (s.me.taskf == 0) == zero then k else .next (s.trap 0x08 s.me.taskf)
/-- SPAWN (R392): a release at DEVICE scope; the writes to both frames come before the push. -/
def execSpawn (d : XR) (b c : XS) (s : State) : Out :=
  let child := s.me.getS b
  let parent := s.me.getS c
  let n := s.myCore
  s.onRes .atomic
    (joinRes (s.frameMe .store child.toNat 8 8) (if parent = 0 then .ok [] else s.frameMe .atomic parent.toNat 16 8)) fun ps =>
    s.ordered .device none fun t =>
      t.readCheck true (ps.drop 1) fun t =>
        match t.push n child with
        | .full => .next ((s.portAsks n).trap 0x31 child)
        | .walk t => .next (((t.openWalk (t.spillAsker n) (portUnit n) (t.spillVa n) .store).openWalk (t.spillAsker n) s.cur
            (t.spillVa n) .store).park .parked)
        | .wait => .next ((s.park (.order .device none)).post (.storeBufferDrain s.cur))
        | .done _ =>
          let t := (t.release s.cur .device).homeWrite s.cur (key0 ps) parent (some .device)
          let t :=
            match (ps.drop 1).head? with
            | some p => (t.noteReads s.cur true [p.key]).homeWrite s.cur p.key (t.rd64 p.key + 1) (some .device)
            | none => t
          match t.push n child with
          | .done u => retireLong s ((u.refillDue n).wakeDeque n |>.putX d (w64 (u.core n).dqLen))
          | _ => .next (s.trap 0x31 child)
/-- A join update of the frame word at a VA is sent to its home (R393, R394). -/
def joinUpdate (s t : State) (va loc : Nat) (v : Word) (d : XR) (new : Bool) : Out :=
  retire s ((t.mapMe fun x => { x with why := some .longOp, fill := some ⟨x.asid.toNat, va, loc, none⟩ }).post (.joinUpdateAtHome loc v s.cur d new))
/-- JOIN_UPDATE_AT_HOME (R393 to R395): add to a join word in one step; the old or the new value is the reply. A word that has become
poisoned traps (R471). -/
def execJoinUpdateAtHome (loc : Nat) (v : Word) (c : Nat) (d : XR) (new : Bool) (s : State) : Out :=
  if s.heldKey c (s.ctx c).asid.toNat .atomic loc then .next (s.again (.joinUpdateAtHome loc v c d new))
  else if s.isBad loc then .next (s.poisonTrap c loc)
  else
    let old := s.rd64 loc
    let t := s.homeWrite c loc (old + v) (some .device)
    .next ((t.replyX c d (if new then old + v else old) false).reply c)
/-- JOINA (R393). -/
def execJoina (d : XR) (b c : XS) (s : State) : Out :=
  s.onRes .atomic (s.frameMe .atomic (s.me.getS b).toNat 16 8) fun ps =>
    s.ordered .device none fun t => t.readCheck true ps fun t =>
      joinUpdate s (t.release s.cur .device) ((s.me.getS b).toNat + 16) (key0 ps) (s.me.getS c) d false
/-- The task of a context ends (R394): the base copies are in force again. -/
def Ctx.endTask (c : Ctx) : Ctx := { c with taskf := 0, shadow := false }
/-- TDONE (R394). -/
def execTdone (d : XR) (s : State) : Out :=
  s.needTask false
    (s.onRes .load (s.frameMe .load s.me.taskf.toNat 8 8) fun ps =>
      s.ordered .device none fun t => t.readCheck true ps fun t =>
        let p := t.rd64 (key0 ps)
        let u := t.release s.cur .device
        if p = 0 then retireLong s ((u.mapMe Ctx.endTask).putX d 0)
        else
          s.onRes .atomic (t.frameMe .atomic p.toNat 16 8) fun qs =>
            u.readCheck true qs fun u => joinUpdate s (u.mapMe Ctx.endTask) (p.toNat + 16) (key0 qs) (-1) d true)
/-- SYNC (R395): tested at the home of the join word; an acquire at DEVICE scope. -/
def execSync (d : XR) (b : XS) (s : State) : Out :=
  match s.me.got with
  | some v => retireLong s (((s.acquireOf s.cur .device s.me.gotTags).mapMe Ctx.tookGot).putX d v)
  | none =>
    s.onRes .load (s.frameMe .load (s.me.getS b).toNat 16 8) fun ps =>
      s.drained fun t => t.readCheck true ps fun t => .next ((t.park .sleep).post (.syncAtHome s.cur (key0 ps)))
/-- DQLEN (R402). -/
def execDqlen (d : XR) (s : State) : Out :=
  let k := s.core s.myCore
  retire s (s.putX d (w64 (k.dqLen + k.nblk % 8 * 2 ^ 32)))

/-! ## Take and steal (R396 to R400) -/

/-- A context has an entry that was removed: the frame is its own, and its load_task is under way (R400, R401). -/
def State.taken (s : State) (c : Nat) (f : Word) (d : XR) : State :=
  (s.mapCtx c fun x => { x.setX d f with pendf := some f, why := some .longOp }).post (.loadTask c f.toNat d)
/-- EVAL of a poisoned slot of a deque: its address in the self alias or as a global scratchpad address (R254, R346). -/
def slotEval (c slot : Nat) : Word :=
  if spadCore slot = coreOf c then w64 (0x00F0000002000000 + spadOff slot)
  else w64 (2 ^ 56 + spadCore slot * 2 ^ 19 + spadOff slot)
/-- TAKE (R396). -/
def execTake (d : XR) (s : State) : Out :=
  let n := s.myCore
  let k := s.core n
  s.needTask true
    (if 1 ≤ k.dqLen then
      let j := (k.dqbot.toNat + 2 ^ 32 - 1) % 2 ^ 32
      let slot := s.dqSlot n j
      if s.isBad slot then .next (s.trap 0x1A (slotEval s.cur slot))
      else
        let t := (s.mapCore n fun k => { k with dqbot := w64 j }).refillDue n
        retire s ((t.taken s.cur (s.rd64 slot) d).wakeDeque n)
    else if k.refill.isSome || 0 < k.nblk then .next ((s.refillDue n).park .deque)
    else retireAfter s (s.putX d 0) 8)
/-- Core numbers a STEAL of domain d probes, in order (R398); o, c and f are the thief's core, cluster and field. -/
def stealOrder (d n ρ : Nat) : List Nat :=
  let o := n % 64
  let c := clusterOf n % 16
  let f := fieldOf n
  let a := (List.range 63).map fun i => 1024 * f + 64 * c + (o + 1 + (ρ + i) % 63) % 64
  let b := (List.range 15).map fun i => 1024 * f + 64 * ((c + 1 + (ρ + i) % 15) % 16) + (o + ρ) % 64
  let e := (List.range 31).map fun i => 1024 * ((f + 1 + (ρ + i) % 31) % 32) + 64 * ((c + ρ) % 16) + (o + ρ) % 64
  if d = 0 then a else if d = 1 then a ++ b else a ++ b ++ e
/-- STEAL (R397, R398): the probes follow as events. -/
def execSteal (d : XR) (b : XS) (s : State) : Out :=
  s.needTask true
    (s.needNext
      (let n := s.myCore
       let w := (s.me.getS b).toNat
       let ρ := (s.core n).rho.toNat
       let vs := if w % 4 = 3 then (if bits w 24 19 = s.pkg then [bits w 24 4 % 2 ^ 15] else []) else stealOrder (w % 4) n ρ
       let mine : List Nat := (((s.core n).launch.map fun l => (s.launch l).cores).getD [])
       let vs := vs.filter fun v => v != n && mine.contains v
       let t := s.mapCore n fun k => { k with rho := k.rho + 1 }
       .next ((t.park .deque).post (.stealProbeRead s.cur vs d))))
/-- A pending STEAL of a context waits for its next probe. -/
def State.stealing (s : State) (c : Nat) : Bool := (s.ctx c).why == some .deque
/-- A STEAL moves on to its next victim; with none left it ends with 0 (R398). -/
def State.stealNext (s : State) (c : Nat) (vs : List Nat) (d : XR) : State :=
  if vs.isEmpty then (s.mapCtx c fun x => x.setX d 0).finishHead c else s.post (.stealProbeRead c vs d)
/-- STEAL_PROBE_READ (R399). -/
def execStealProbeRead (c : Nat) (vs : List Nat) (d : XR) (s : State) : Out :=
  if !s.stealing c then .next s
  else
    match vs with
    | [] => .next (s.stealNext c [] d)
    | v :: rest =>
      let k := s.core v
      if s.remapState v = 2 then .next (s.heldBy (spadKey v 0) (.stealProbeRead c vs d))
      else if s.remapState v != 1 || s.portFrozen v (s.ctx c).asid.toNat then .next (s.stealNext c rest d)
      else if 1 ≤ k.dqLen then .next (s.post (.stealCas c vs k.dqtop.toNat d))
      else .next ((s.refillDue v).stealNext c rest d)
/-- STEAL_CAS (R399). -/
def execStealCas (c : Nat) (vs : List Nat) (t : Nat) (d : XR) (s : State) : Out :=
  if !s.stealing c then .next s
  else
    match vs with
    | [] => .next (s.stealNext c [] d)
    | v :: rest =>
      let k := s.core v
      if s.remapState v = 2 then .next (s.heldBy (spadKey v 0) (.stealCas c vs t d))
      else if s.remapState v != 1 || s.portFrozen v (s.ctx c).asid.toNat then .next (s.stealNext c rest d)
      else if k.dqtop.toNat = t ∧ 1 ≤ k.dqLen then
        let slot := s.dqSlot v t
        if s.isBad slot then .next (takeTrap s c 0x1A (slotEval c slot) (s.ctx c).pc false)
        else
          let f := s.rd64 slot
          let s := (s.mapCore v fun k => { k with dqtop := w64 ((t + 1) % 2 ^ 32) }).refillDue v
          .next (((s.finishHead c).taken c f d).wakeDeque v)
      else .next (s.stealNext c rest d)
/-- The bits of FCTX and of SCPTR that a frame loads (R44, R47, R400). -/
def loadedFctx (w : Word) : Word := w &&& ~~~(0xFFF00000#64)
/-- SCPTR without its reserved bits (R47). -/
def loadedScptr (w : Word) : Word := w &&& 0x00FFFFFFFFFFFFC0#64
/-- The frame is the context's task, with these shadow copies in force (R400); the reserved bits of TASKF stay zero (R8, R55). -/
def Ctx.putTask (c : Ctx) (f fctx scptr : Word) : Ctx :=
  { c with taskf := loadedScptr f, shadow := true, fctxS := fctx, scptrS := scptr, pendf := none, walkFail := none }
/-- Context c takes the run state of a run code (R438, R439): halted; running; held, with its trap delegated again; or waiting in its
wait record, where a notify may have ended the wait meanwhile. -/
def State.assumeRun (s : State) (c code : Nat) : State :=
  let run (s : State) : State := s.mapCtx c fun x => { x with run := .running, why := none, resume := none }
  match code with
  | 0 =>
    let s := if (s.ctx c).asyncs.isEmpty then s else s.post (.asyncTrapTake c)
    (s.mapCtx c fun x => { x with run := .halted, why := none, resume := none }).seeLaunch (coreOf c)
  | 1 => run s
  | 2 =>
    let s := s.mapCtx c fun x => { x with resume := none }
    let x := s.ctx c
    delegate s c (bits x.ecause.toNat 7 0) x.eval x.epc (x.ecause.getLsbD 10)
  | _ =>
    match s.sleepers.find? fun q => q.who == c && q.saved with
    | none => run s
    | some q =>
      match q.woken with
      | some w =>
        let rest := s.sleepers.filter fun (r : Sleeper) => !(r.who == c && r.saved)
        ((run { s with sleepers := rest }).gotFrom c w [wordOf q.loc]).mapCtx c fun x => { x with sent := true }
      | none =>
        let back (r : Sleeper) : Sleeper := if r.who == c && r.saved then { r with saved := false } else r
        ({ s with sleepers := s.sleepers.map back } : State).mapCtx c fun x =>
          { x with run := .running, why := some .sleep, sent := true, resume := none }
/-- The load_task of a context has ended: its reply comes, or the context takes the run state that its image gave (R439). -/
def State.taskLoaded (s : State) (c : Nat) : State :=
  match (s.ctx c).resume with
  | none => s.reply c
  | some r => s.assumeRun c r
/-- LOAD_TASK (R400): the frame is read at its home; a refused or poisoned read leaves the task with the taker and
raises TASK_FRAME at the next head, which a context that is to be halted or held does not reach. -/
def execLoadTask (c f : Nat) (d : XR) (s : State) : Out :=
  let x := s.ctx c
  let lost (s : State) : Out :=
    let s := s.mapCtx c fun x => (x.putTask (w64 f) x.fctxB x.scptrB).setX d (w64 f)
    match x.resume with
    | some 0 | some 2 => .next (s.taskLoaded c)
    | _ => .next ((s.mapCtx c fun x => { x with resume := none }).trapAfter c 0x30 (w64 f))
  if x.pendf ≠ some (w64 f) then .next s
  else
    match s.frameAt (s.asker c) x.walkFail .load f 0 40 with
    | .miss va =>
      let q := s.asker c
      let waits := ((walkFind (s.clu (sliceOf (fieldOf q.core) va)).walks q.asid (va / 2 ^ 16)).map
        fun w => w.waiters.contains c).getD false
      .next ((if waits then s else s.openWalk q c va .load).post (.loadTask c f d))
    | .held | .saved => .next (s.again (.loadTask c f d))
    | .trap _ _ _ => lost s
    | .ok ps =>
      let a := key0 ps
      if (s.badIn a 8).isSome || (s.badIn (a + 24) 16).isSome then lost s
      else
        let inh := (s.rd64 a).getLsbD 0
        let t := s.acquireOf c .device (s.tagsOf c true [a, a + 24, a + 32])
        let t := t.mapCtx c fun x =>
          (x.putTask (w64 f) (if inh then x.fctxB else loadedFctx (s.rd64 (a + 24)))
            (if inh then x.scptrB else loadedScptr (s.rd64 (a + 32)))).setX d (w64 f)
        .next (t.taskLoaded c)

/-! ## SLICE (R403, R404) -/

/-- The fields of a shape record (R403). -/
structure Shape where
  gran : Nat
  parts : Nat
  pdim : Nat
  ndm1 : Nat
  pstride : Word
  ext : List Nat
  base : Word
  reserved : Nat
  deriving DecidableEq, Repr
/-- The shape record that 128 bytes hold (R403). -/
def shapeOf (v : Nat) : Shape :=
  { gran := bits v 319 288, parts := bits v 287 272, pdim := bits v 259 258, ndm1 := bits v 257 256,
    pstride := w64 (bits v 255 192), ext := [bits v 95 64, bits v 127 96, bits v 159 128, bits v 191 160],
    base := w64 (bits v 63 0), reserved := bits v 1023 320 + bits v 271 260 }
/-- The part of rank r (R404): its first index and its extent along pdim, for P parts. -/
def Shape.part (h : Shape) (p r : Nat) : Nat × Nat :=
  let e := h.ext.getD h.pdim 0
  let g := divUp e h.gran
  let q := g / p
  let m := g % p
  let a : Nat × Nat :=
    if p ≤ r then (g, 0) else if r < m then (r * (q + 1), q + 1) else (m * (q + 1) + (r - m) * q, q)
  let start := Nat.min (a.1 * h.gran) e
  (start, Nat.min (a.2 * h.gran) (e - start))
/-- LCORE.nrank (R52). -/
def Ctx.nrank (c : Ctx) : Nat := bits c.lcore.toNat 47 32
/-- SLICE (R404). -/
def execSlice (d : XR) (b c : XS) (s : State) : Out :=
  let ea := s.me.getS b
  let va := ea.toNat
  let o := bits va 18 0
  let bad : Out := .next (s.trap 0x32 ea)
  if va % 64 ≠ 0 ∨ !inWindow va ∨ badWindow va ∨ windowCore s.myCore va ≠ s.myCore ∨ 2 ^ 19 < o + 128 then bad
  else
    let ps : List Piece := [⟨va, spadKey s.myCore o, 128, false, none⟩]
    let go (v : Nat) (t : State) : Out :=
      let h := shapeOf v
      if h.reserved ≠ 0 ∨ h.gran = 0 ∨ h.ndm1 < h.pdim then .next (s.trap 0x32 ea)
      else
        let w := (s.me.getS c).toNat
        let p := h.part (if h.parts = 0 then s.me.nrank else h.parts) (bits w 15 0)
        let r := if w.testBit 16 then w64 p.2 else h.base + w64 p.1 * h.pstride
        retireAfter s (t.putX d r) 24
    match s.loadSource (pieceKeys ps) with
    | .after n => .next (s.awaitDrain n)
    | .forward v bad => if bad then .next (s.trap 0x1A ea) else go v s
    | .memory => s.readCheck false ps fun s => go (s.readKeys (pieceKeys ps)) (s.noteReads s.cur false (keyWords (pieceKeys ps)))

end Sys2Proof.Machine
end

