-- ==== Sys2Proof/Machine/Engines.lean ====
section
/-! DEFINITION. Engines: copies, reductions, headrace and tailrace, tokens and AWAIT (R344 to R367). -/
namespace Sys2Proof.Machine

/-! ## Engine addresses (R346, R348) -/

/-- A field lies in the partition of a core's field, which bounds the scratchpads and deques that its engines reach (R410). -/
def State.besideField (s : State) (n field : Nat) : Bool :=
  let part := s.partOf (fieldOf n)
  part.isSome && s.partOf field == part
/-- The n bytes at an engine address, for a command of the asker (R346), under R348 orders 1 to 6. -/
def State.engRange (s : State) (q : Asker) (fail : Option WalkFail) (acc : Acc) (va n : Nat) : Res :=
  let spad (k o : Nat) : Res :=
    if 2 ^ 19 < o + n then .trap 1 0x28 va
    else if s.remapState k = 0 then .trap 6 0x11 va
    else if s.remapState k = 3 then .trap 6 0x12 va
    else .ok [⟨va, spadKey k o, n, false, none⟩]
  if va % 8 ≠ 0 ∨ 1 < bits va 63 56 then .trap 1 0x28 va
  else if bits va 63 56 = 1 then
    let k := bits va 39 19 % 2 ^ 15
    if bits va 55 40 ≠ 0 ∨ 2 ^ 19 < bits va 18 0 + n then .trap 1 0x28 va
    else if bits va 39 34 ≠ s.pkg then .trap 4 0x14 va
    else if !s.besideField q.core (fieldOf k) then .trap 4 0x16 va
    else spad k (bits va 18 0)
  else if inWindow va then
    if 2 ^ 19 < bits va 18 0 + n then .trap 1 0x28 va
    else if badWindow va then .trap 2 0x11 va
    else spad (windowCore q.core va) (bits va 18 0)
  else if inWindow (va + n - 1) ∨ 2 ^ 56 < va + n then .trap 1 0x28 va
  else
    noCell ((List.range ((va + n - 1) / 2 ^ 16 + 1 - va / 2 ^ 16)).foldl (fun r i =>
      let a := Nat.max va ((va / 2 ^ 16 + i) * 2 ^ 16)
      let b := Nat.min (va + n) ((va / 2 ^ 16 + i + 1) * 2 ^ 16)
      joinRes r
        (match s.askSlice q fail a acc with
         | .miss => .miss a
         | .trap c => .trap 4 c a
         | .ok pa => .ok [⟨a, pa, b - a, ((s.pageOf q a).map (·.cell)).getD false, none⟩])) (.ok []))
/-- The same for a unit that no context waits for (R361, R362). -/
def State.devRange (s : State) (q : Asker) (unit : Nat) (acc : Acc) (va n : Nat) : Res :=
  match s.engRange q none acc va n with
  | .miss a =>
    match s.unitFail q unit a with
    | some f => .trap 4 f.cause a
    | none => .miss a
  | r => r
/-- A row of a stream lies in translated memory: a row elsewhere is refused as a page is (R359, R360; log entry 28). -/
def State.rowRange (s : State) (q : Asker) (unit : Nat) (acc : Acc) (va n : Nat) : Res :=
  if inWindow va || 2 ^ 56 ≤ va then .trap 1 0x28 va else s.devRange q unit acc va n
/-- The place a range is judged by for overlap (R346): a VA, or a scratchpad, of this package or of another, and an offset. -/
def State.engPlace (s : State) (core va : Nat) : Nat :=
  let p := bits va 39 34
  if bits va 63 56 = 1 then spadKey (bits va 39 19 % 2 ^ 15) (bits va 18 0) + 2 ^ 64 * (if p = s.pkg then 1 else 2 + p)
  else if inWindow va then windowKey core va + 2 ^ 64
  else va
/-- The scratchpad byte of a core of this package that an engine address names (R346). -/
def State.spadPlace (s : State) (core va : Nat) : Option Nat :=
  let a := s.engPlace core va
  if a / 2 ^ 64 = 1 then some (a % 2 ^ 64) else none
/-- Two ranges overlap. -/
def overlaps (a n b m : Nat) : Bool := a < b + m && b < a + n
/-- The 8-byte words of an access, in order. -/
def State.pieceWords (s : State) (ps : List Piece) : List Nat :=
  ps.flatMap fun p => (List.range (p.len / 8)).map fun k => s.rdN (p.key + 8 * k) 8
/-- The runs of two accesses of one length, cut where either is cut. -/
def zipMoves : Nat → List (Nat × Nat) → List (Nat × Nat) → List Move
  | 0, _, _ => []
  | f + 1, (a, n) :: as, (b, m) :: bs =>
    let k := Nat.min n m
    ⟨a, b, 0, k / 8⟩ :: zipMoves f (if n = k then as else (a + k, n - k) :: as) (if m = k then bs else (b + k, m - k) :: bs)
  | _, _, _ => []
/-- Runs of an access. -/
def runsOf (ps : List Piece) : List (Nat × Nat) := ps.map fun p => (p.key, p.len)

/-! ## Tokens (R349, R364) -/

/-- The counter that serves a kind (R219, R349). -/
def kindIx (kind : Nat) : Fin 5 := if kind = 3 then 1 else if kind = 4 then 2 else if kind = 5 then 3 else if kind = 6 then 4 else 0
/-- The token of a command (R349). -/
def tokenOf (kind seq : Nat) : Word := w64 (kind * 2 ^ 32 + seq % 2 ^ 32)
/-- The next number of a kind's counter. -/
def State.seqNext (s : State) (cl kind : Nat) : Nat := ((s.clu cl).seqs[kindIx kind]).toNat
/-- Advance the counter of a kind, and note what its number was taken for (R364). -/
def State.bumpSeq (s : State) (cl kind : Nat) : State :=
  s.mapClu cl fun c =>
    { c with seqs := c.seqs.set (kindIx kind) (c.seqs[kindIx kind] + 1),
             kinds := if kind < 3 then tset c.kinds (c.seqs[kindIx kind]).toNat kind else c.kinds }
/-- Keep the newest 4,096 entries of a kind (R364). A round that breaks gives its status also to a participant that had
completed (R358). -/
def keepDone (l : List Done) (d : Done) : List Done :=
  let l := l.filter fun x => !(x.kind == d.kind && x.seq == d.seq)
  let same := l.filter (·.kind == d.kind)
  (if same.length < 4096 then l else match same.head? with | some o => l.erase o | none => l) ++ [d]
/-- Scope of the acquire of an AWAIT (R364). -/
def awaitScope (kind : Nat) (sc : Scope) : Scope := if kind < 3 then .cluster else sc
/-- A command completes with a status (R350, R364, R365): AWAITs on it end, and a failure raises ENGINE_FAULT in its
issuer. -/
def State.complete (s : State) (cl kind seq status : Nat) (sc : Scope) (who asid : Nat) : State :=
  let ws := (s.clu cl).awaits.filter fun a => a.kind == kind && a.seq == seq
  let s := s.mapClu cl fun c =>
    { c with done := keepDone c.done ⟨kind, seq, status, sc⟩,
             awaits := c.awaits.filter fun a => !(a.kind == kind && a.seq == seq) }
  let s := ws.foldl (fun (s : State) (a : Await) =>
    ((s.acquireOf a.ctx (awaitScope kind sc) []).replyX a.ctx a.d (w64 status) false).reply a.ctx) s
  let s := if (s.ctx who).run = .halted then s.seeLaunch (coreOf who) else s
  if [1, 2, 3, 4, 6].contains status then s.raiseAsync who asid 0x29 (tokenOf kind seq) else s

/-! ## Acceptance (R347, R348) -/

/-- A head sent for acceptance keeps what its walk found until it has been answered (R420). -/
def answered (c : Nat) : Out → Out
  | .next t => .next (if (t.ctx c).why = some .accept then t else t.mapCtx c fun x => { x with walkFail := none })
  | o => o
/-- An engine head is refused, or waits, at acceptance (R348). -/
def refuse (s : State) (c : Nat) (r : Res) (acc : Acc) (again : Instr) (k : List Piece → Out) : Out :=
  match r with
  | .ok ps => k ps
  | .miss va => .next ((s.openWalk (s.asker c) c va acc).mapCtx c fun x => { x with why := some .parked, sent := false })
  | .held | .saved => .next (s.again again)
  | .trap _ cause va => .next (takeTrap s c cause (w64 va) (s.ctx c).pc false)
/-- ENGINE_ARG at acceptance. -/
def engArg (s : State) (c v : Nat) : Out := .next (takeTrap s c 0x28 (w64 v) (s.ctx c).pc false)
/-- A command is accepted: its token is written and its context rejoins (R347). -/
def State.acceptCmd (s : State) (c kind : Nat) (d : XR) : State :=
  let cl := clusterOf (coreOf c)
  let v := tokenOf kind (s.seqNext cl kind)
  ((s.mapCtx c fun x => x.setX d v).bumpSeq cl kind).finishHead c
/-- A join of the answers to several ranges. -/
def joinAll (l : List Res) : Res := l.foldl joinRes (.ok [])
/-- The copies of a command, with what acceptance reads (R345, R351 to R354): the list's or block's range, the sources and
destinations by VA and length, and a CPYT's core and frame. -/
structure Plan where
  list : Option (Nat × Nat)
  rows : List (Nat × Nat × Nat)
  push : Option (Nat × Word)
  deriving DecidableEq, Repr
/-- A length of CPY (R345). -/
def okLen (n : Nat) : Bool := 8 ≤ n && n ≤ 16777208 && n % 8 == 0
/-- The list or block a copy form reads at acceptance: its address and size; or the offending value of a shape out of range. -/
def copyList (r : EngReq) : Except Nat (Option (Nat × Nat)) :=
  let e := r.e.toNat
  match r.form with
  | .cpy => if okLen (bits e 23 0) && bits e 63 24 == 0 then .ok none else .error e
  | .cpyt => .ok (some (e, 32))
  | .gath | .scat =>
    let n := bits e 12 0
    let rs := bits e 25 16
    if bits e 15 13 == 0 && bits e 63 26 == 0 && 1 ≤ n && n ≤ 4096 && 1 ≤ rs && rs ≤ 512 then
      .ok (some (if r.form = .gath then r.c.toNat else r.b.toNat, 8 * n))
    else .error e
  | .mcst l =>
    let n := bits e 23 0
    let aux := bits e 50 32
    if !okLen n || bits e 31 24 != 0 || bits e 63 51 != 0 then .error e
    else if l then (if 1 ≤ aux && aux ≤ 64 then .ok (some (r.b.toNat, 8 * aux)) else .error e)
    else if aux % 8 == 0 && aux + n ≤ 524288 then (if r.b = 0 then .error 0 else .ok none) else .error e
  | _ => .error e
/-- The rows of a copy form, with the words of its list or block (R351 to R354). -/
def copyRows (r : EngReq) (ws : List Nat) : List (Nat × Nat × Nat) :=
  let e := r.e.toNat
  let b := r.b.toNat
  let c := r.c.toNat
  match r.form with
  | .cpy => [(c, b, bits e 23 0)]
  | .cpyt => [(c, b, bits (ws.getD 0 0) 23 0)]
  | .gath =>
    let n := 8 * bits e 25 16
    (List.range ws.length).map fun i => (ws.getD i 0, (b + n * i) % 2 ^ 64, n)
  | .scat =>
    let n := 8 * bits e 25 16
    (List.range ws.length).map fun i => ((c + n * i) % 2 ^ 64, ws.getD i 0, n)
  | .mcst true => ws.map fun w => (c, w, bits e 23 0)
  | .mcst false => (setBits b).map fun k => (c, 0x00F0000000000000 + k * 2 ^ 19 + bits e 50 32, bits e 23 0)
  | _ => []
/-- The rules of a CPYT block (R345, R348, R354): one that breaks them is refused with its 8-byte word, a word with reserved bits set
included (DESIGN CHOICE, log entry 86). -/
def cpytWords (ws : List Nat) : Res :=
  let w (i : Nat) : Nat := ws.getD i 0
  if !okLen (bits (w 0) 23 0) then .trap 1 0x28 (w 0)
  else if bits (w 0) 63 24 ≠ 0 then .trap 1 0x28 (w 0)
  else if bits (w 1) 5 0 ≠ 0 ∨ bits (w 1) 63 56 ≠ 0 then .trap 1 0x28 (w 1)
  else if bits (w 2) 63 21 ≠ 0 then .trap 1 0x28 (w 2)
  else if w 3 ≠ 0 then .trap 1 0x28 (w 3)
  else .ok []
/-- The push that a CPYT block asks for, and what R348 and R354 say of its core, which is reached after the copy (R355). -/
def State.cpytBlock (s : State) (q : Asker) (ws : List Nat) : Res × (Nat × Word) :=
  let w (i : Nat) : Nat := ws.getD i 0
  let core := bits (w 2) 20 0
  let k := core % 2 ^ 15
  let frame := w64 ((bits (w 1) 55 6) * 64)
  let res : Res :=
    if core / 2 ^ 15 ≠ s.pkg then .trap 4 0x14 core
    else if !s.besideField q.core (fieldOf k) then .trap 4 0x16 core
    else if s.remapState k = 0 then .trap 6 0x11 core
    else if s.remapState k = 3 then .trap 6 0x12 core
    else .ok []
  (res, (k, frame))
/-- The destinations that overlap a source or the list of their own command (R346). -/
def State.overlapping (s : State) (core : Nat) (rows : List (Nat × Nat × Nat)) (list : Option (Nat × Nat)) : Option Nat :=
  let srcs := rows.map (fun r => (s.engPlace core r.1, r.2.2)) ++ (list.map fun l => (s.engPlace core l.1, l.2)).toList
  (rows.find? fun r => srcs.any fun x => overlaps (s.engPlace core r.2.1) r.2.2 x.1 x.2).map (·.2.1)
/-- The answer of the probe of a copy: sources before destinations (R348), and the words to move. -/
def State.probeCopy (s : State) (q : Asker) (fail : Option WalkFail) (rows : List (Nat × Nat × Nat)) : Res × Res × List Move :=
  let srcs := joinAll (rows.map fun r => s.engRange q fail .load r.1 r.2.2)
  let dsts := joinAll (rows.map fun r => s.engRange q fail .store r.2.1 r.2.2)
  let ms :=
    match srcs, dsts with
    | .ok a, .ok b => zipMoves (a.length + b.length + 1) (runsOf a) (runsOf b)
    | _, _ => []
  (srcs, dsts, ms)
/-- Which access a miss of several joined answers was for. -/
def missAcc (l : List (Res × Acc)) : Acc :=
  ((l.find? fun x => match x.1 with | .miss _ => true | _ => false).map (·.2)).getD .load
/-- Only a condition of order 1 of R348 counts. -/
def argOnly : Res → Res
  | .trap 1 c v => .trap 1 c v
  | _ => .ok []
/-- What an answer counts for beside one whose contents are yet to be read: once those can be read, only order 1 comes before
what they say (R348). -/
def beside (lr r : Res) : Res :=
  match lr with
  | .ok _ => argOnly r
  | _ => r
/-- The bytes of the contiguous side of GATH or SCAT (R345, R352). -/
def rowBytes (e : Nat) : Nat := bits e 12 0 * (8 * bits e 25 16)
/-- The contiguous ranges of a copy form that its list or block does not place (R345, R346): of CPYT the shortest. -/
def knownRanges (r : EngReq) : List (Acc × Nat × Nat) :=
  match r.form with
  | .cpyt => [(.load, r.c.toNat, 8), (.store, r.b.toNat, 8)]
  | .gath => [(.store, r.b.toNat, rowBytes r.e.toNat)]
  | .scat => [(.load, r.c.toNat, rowBytes r.e.toNat)]
  | .mcst true => [(.load, r.c.toNat, bits r.e.toNat 23 0)]
  | _ => []
/-- What breaks R346 before a list or block is read: a CPYT block that is misaligned, a GATH row on its own list. -/
def State.knownClash (s : State) (core : Nat) (r : EngReq) : Res :=
  match r.form with
  | .cpyt => if r.e.toNat % 32 = 0 then .ok [] else .trap 1 0x28 r.e.toNat
  | .gath =>
    let n := 8 * bits r.e.toNat 25 16
    let rows := (List.range (bits r.e.toNat 12 0)).map fun i => (r.b.toNat + n * i) % 2 ^ 64
    match rows.find? fun a => overlaps (s.engPlace core a) n (s.engPlace core r.c.toNat) (8 * bits r.e.toNat 12 0) with
    | some a => .trap 1 0x28 a
    | none => .ok []
  | _ => .ok []
/-! ## Words of a copy (R350, R365) -/

/-- What a place answers to an engine word: it can be reached now, it is held, or the word is dropped with a status. -/
inductive Reach where
  | ok
  | held
  | lost (status : Nat)
  deriving DecidableEq, Repr
/-- Reach a byte for an engine command of context c under an ASID (R33, R256, R365, R444, R491). -/
def State.engReach (s : State) (c asid a : Nat) : Reach :=
  if isSpad a then
    match s.remapState (spadCore a) with
    | 0 => .lost 1
    | 3 => .lost 2
    | 2 => .held
    | _ => if s.savedFor (spadCore a) asid then .held else .ok
  else if s.heldKey c asid .atomic a then .held
  else .ok
/-- Reach a word of a copy: the handler that restores a core's scratchpad reaches it before the core runs (R444, R445). -/
def State.copyReach (s : State) (x : EngCmd) (a : Nat) : Reach :=
  if x.restorer && isSpad a && spadCore a == coreOf x.who && (s.core (coreOf x.who)).mode == .restoring then .ok
  else s.engReach x.who x.asid a
/-- A command of a cluster is counted as redirected when one of its words is held by a migration (R489). -/
def State.countRedir (s : State) (cl kind seq a : Nat) : State :=
  let note (g : Mig) : Mig :=
    if g.core == spadCore a && !g.redir.contains (cl, kind, seq) then { g with redir := g.redir ++ [(cl, kind, seq)] } else g
  if isSpad a && s.remapState (spadCore a) == 2 then
    s.mapClu (clusterOf (spadCore a)) fun c => { c with mig := c.mig.map note }
  else s
/-- An engine acts at the home of a byte: the home recalls every copy of its line first (R350). -/
def State.engRead (s : State) (a : Nat) : State := if isSpad a then s else s.recall a
/-- What a list, a block or a descriptor that acceptance reads holds, as 8-byte words: it is read at its place, once that can be
reached (R256, R350, R444, R491), and a poisoned one traps (R471). -/
def engRecord (s : State) (c : Nat) (ps : List Piece) (again : Instr) (k : State → List Nat → Out) : Out :=
  let ws := keyWords (pieceKeys ps)
  match ws.find? fun a => s.engReach c (s.ctx c).asid.toNat a == .held with
  | some a => .next (s.heldBy a again)
  | none =>
    let s := ws.foldl (fun (s : State) a => s.engRead a) s
    match s.badPiece ps with
    | some a => .next (takeTrap s c 0x1A (w64 a) (s.ctx c).pc false)
    | none => k s (s.pieceWords ps)
/-- Acceptance of a copy form by the cluster's copy engine (R347, R348, R351 to R354): of the conditions of one order, those of the list
or block come first, then those of the sources, of the destinations, and of the core that a CPYT pushes to. -/
def acceptCopy (s : State) (c : Nat) (r : EngReq) : Out :=
  let cl := clusterOf (coreOf c)
  let q := s.asker c
  let fail := (s.ctx c).walkFail
  let again : Instr := .engineAcceptance c r
  if 32 ≤ (s.clu cl).cmds.length then .next (s.again again)
  else
    match copyList r with
    | .error v => engArg s c v
    | .ok list =>
      let lr : Res := (list.map fun l => s.engRange q fail .load l.1 l.2).getD (.ok [])
      let known := (knownRanges r).map fun k => (s.engRange q fail k.1 k.2.1 k.2.2, k.1)
      let first := joinAll (lr :: beside lr (s.knownClash (coreOf c) r) :: known.map fun k => beside lr k.1)
      -- where the list can be read, what it says comes before what is known of the destinations
      let early := match lr with | .ok _ => (if r.form = .cpyt then s.knownClash (coreOf c) r else .ok []) | _ => first
      refuse s c early (missAcc ((lr, .load) :: known)) again fun _ =>
      let bad := match lr with | .ok ps => (s.badPiece ps).isSome | _ => false
      refuse s c (if bad then first else .ok []) (missAcc ((lr, .load) :: known)) again fun _ =>
      refuse s c lr .load again fun lps =>
        engRecord s c lps again fun s ws =>
          let rows := copyRows r ws
          let push := if r.form = .cpyt then some (s.cpytBlock q ws) else none
          let rules := if r.form = .cpyt then cpytWords ws else .ok []
          let p := s.probeCopy q fail rows
          let clash : Res :=
            match s.overlapping (coreOf c) rows (if r.form = .cpyt then none else list) with
            | some v => .trap 1 0x28 v
            | none => .ok []
          let side (a : Acc) : Res := joinAll ((known.filter fun k => k.2 == a).map fun k => argOnly k.1)
          let all := joinAll [rules, side .load, p.1, side .store, p.2.1, clash, (push.map (·.1)).getD (.ok [])]
          refuse s c all (missAcc [(p.1, .load), (p.2.1, .store)]) again fun _ =>
            let seq := s.seqNext cl 3
            let cmd : EngCmd := { seq := seq, who := c, asid := q.asid, sc := r.sc, moves := p.2.2, status := 0,
                                  push := push.map (·.2), flits := [], restorer := (s.core (coreOf c)).mode == .restoring }
            .next ((((s.acceptCmd c 3 r.d).release c r.sc).mapClu cl fun k => { k with cmds := k.cmds ++ [cmd] }).post (.engineWordWrite cl 3 seq))

/-- An engine writes n bytes of an 8-byte word (R259, R260, R350): a scratchpad word becomes full with it. -/
def State.engWrite (s : State) (c : Nat) (sc : Scope) (a n v : Nat) (bad : Bool) : State :=
  let s := (((s.engRead a).store a n v bad).tagWrite c (some sc) true a).handFlit c a ((byteList a v n).map (·.2))
  if isSpad a then (s.setFull a).serveAll a else (s.homeDirty a).wakeSyncs a
/-- Take word k out of a run. -/
def Move.without (m : Move) (k : Nat) : List Move :=
  (if m.lo < k then [{ m with hi := k }] else []) ++ (if k + 1 < m.hi then [{ m with lo := k + 1 }] else [])
/-- Change the copy command of a number. -/
def State.mapCmd (s : State) (cl seq : Nat) (f : EngCmd → EngCmd) : State :=
  s.mapClu cl fun c => { c with cmds := c.cmds.map fun x => if x.seq = seq then f x else x }
/-- The end of a copy's words: its push, or its completion. -/
def State.copyNext (_ : State) (cl : Nat) (x : EngCmd) : Instr :=
  if x.moves.isEmpty then
    (if x.push.isSome && x.status == 0 then .cpytFramePush cl x.seq else .engineCommandComplete cl 3 x.seq)
  else .engineWordWrite cl 3 x.seq
/-- An L1 holds the line of a byte dirty: a home that acts there recalls it (R350). -/
def State.dirtyCopy (s : State) (a : Nat) : Bool := s.cores.any fun p => p.2.l1d.any fun d => d.pa == a / 64 * 64 && d.dirty
/-- ENGINE_WORD_WRITE (R350, R365): one word of a copy, in no fixed order, is read and written whole, held, or dropped. A poisoned
source word is not written, with status 3 (R365, R470); that of a dirty L1 line, which the read recalls, is written poisoned (R484;
DEDUCED, log entry 89). -/
def execEngineWordWrite (cl kind seq : Nat) (s : State) : Out :=
  match (s.clu cl).cmds.find? (·.seq == seq) with
  | none => .next s
  | some x =>
    let r := s.freeNat (Nat.max 1 x.moves.length)
    match x.moves[r.1]? with
    | none => .next (s.post (s.copyNext cl x))
    | some m =>
      let r2 := r.2.freeNat (Nat.max 1 (m.hi - m.lo))
      let s := r2.2
      let k := m.lo + r2.1
      let a := m.src + 8 * k
      let b := m.dst + 8 * k
      let rest := x.moves.eraseIdx r.1 ++ m.without k
      let fin (s : State) (status : Nat) : Out :=
        let y := { x with moves := rest, status := if x.status = 0 then status else x.status, flits := if isRemote b then x.flits ++ [r2.2.flitSeq] else x.flits }
        .next ((s.mapCmd cl seq fun _ => y).post (s.copyNext cl y))
      let wait (a : Nat) : Out := .next ((s.countRedir cl kind seq a).heldBy a (.engineWordWrite cl kind seq))
      match s.copyReach x a, s.copyReach x b with
      | .lost e, _ => fin s e
      | _, .lost e => fin s e
      | .held, _ => wait a
      | _, .held => wait b
      | .ok, .ok =>
        if s.inRange b then wait b
        else if s.isBad a && s.dirtyCopy a then fin ((s.engRead a).engWrite x.who x.sc b 8 (s.rdN a 8) true) 0
        else if s.isBad a then fin (s.engRead a) 3
        else fin ((s.engRead a).engWrite x.who x.sc b 8 (s.rdN a 8) false) 0
/-- A copy's writes to other packages are not all acknowledged (R350, R456). -/
def State.copyFlying (s : State) (x : EngCmd) : Bool := x.flits.any fun n => s.outFlits.any (·.seq == n)
/-- CPYT_FRAME_PUSH (R355): the frame is pushed once the copy is performed; it waits while the target moves or is
saved, or while its deque can take no push (R387, R401). -/
def execCpytFramePush (cl seq : Nat) (s : State) : Out :=
  match (s.clu cl).cmds.find? (·.seq == seq) with
  | none => .next s
  | some x =>
    match x.push with
    | none => .next (s.post (.engineCommandComplete cl 3 seq))
    | some (n, f) =>
      let done (s : State) (e : Nat) : Out :=
        .next ((s.mapCmd cl seq fun x => { x with status := e, push := none }).post (.engineCommandComplete cl 3 seq))
      let wait : Out := .next ((s.countRedir cl 3 seq (spadKey n 0)).heldBy (spadKey n 0) (.cpytFramePush cl seq))
      if s.copyFlying x then .next (s.again (.cpytFramePush cl seq)) else
      match s.remapState n with
      | 0 => done s 1
      | 3 => done s 2
      | 2 => wait
      | _ =>
        if s.portFrozen n x.asid || (s.core n).mode == .restoring then wait
        else
          match s.push n f with
          | .done t => done (((t.tagWrite x.who (some x.sc) true (s.dqSlot n (s.core n).dqbot.toNat)).refillDue n).wakeDeque n) 0
          | .walk t => .next ((t.openWalk (t.spillAsker n) (portUnit n) (t.spillVa n) .store).post (.cpytFramePush cl seq))
          | .wait => wait
          | .full => .next ((s.portAsks n).again (.cpytFramePush cl seq))
/-- ENGINE_COMMAND_COMPLETE (R350, R365). -/
def execEngineCommandComplete (cl kind seq : Nat) (s : State) : Out :=
  match (s.clu cl).cmds.find? (·.seq == seq) with
  | none => .next s
  | some x =>
    if s.copyFlying x then .next (s.again (.engineCommandComplete cl kind seq)) else
    let s := s.mapClu cl fun c => { c with cmds := c.cmds.filter (·.seq != seq) }
    .next (s.complete cl kind seq x.status x.sc x.who x.asid)

/-! ## Tree reduction (R356 to R358) -/

/-- The launch a core belongs to, its rank and the size of the core set; a core of no launch stands alone. -/
def State.rankOf (s : State) (n : Nat) : Nat × Nat × Nat :=
  match (s.core n).launch with
  | none => (s.nLaunch, 0, 1)
  | some l => (l, ((s.launch l).cores.findIdx? (· == n)).getD 0, (s.launch l).cores.length)
/-- Every contribution that is under way, with its cluster. -/
def State.allReds (s : State) : List (Nat × Red) := s.clus.flatMap fun c => c.2.reds.map fun r => (c.1, r)
/-- The contribution of a rank to a round. -/
def State.redOf (s : State) (l ch k r : Nat) : Option (Nat × Red) :=
  s.allReds.find? fun x => x.2.launch == l && x.2.ch == ch && x.2.round == k && x.2.rank == r
/-- Element types of a reduction (R345). -/
def redT (t : Nat) : Option ElemT :=
  if t = 2 then some .s32 else if t = 3 then some .s64 else if t = 6 then some .n32 else if t = 7 then some .n64
  else if t = 10 then some .f32 else none
/-- Bytes of an element. -/
def redBytes (t : Nat) : Nat := if t = 3 ∨ t = 7 then 8 else 4
/-- A round is broken, with this status (R358). -/
def Launch.broken (l : Launch) (ch k : Nat) : Option Nat :=
  (l.redBad.find? fun b => b.1 == ch && (b.2.1 == k || (b.2.2.2 && b.2.1 ≤ k))).map (·.2.2.1)
/-- A contribution ends with a status, and merges the flags that it has yet to merge (R50). -/
def State.redEnd (s : State) (cl : Nat) (x : Red) (status : Nat) : State :=
  let s := if x.flags = 0 then s else s.mergeFlags x.who x.asid x.flags
  (s.mapClu cl fun c => { c with reds := c.reds.filter (·.seq != x.seq) }).complete cl 4 x.seq status x.sc x.who x.asid
/-- The root of a round is done: the contributions of the round, which have all completed, are not kept any longer (R358). -/
def State.redDone (s : State) (cl : Nat) (x : Red) (status : Nat) : State :=
  let same (y : Red) : Bool := y.launch == x.launch && y.ch == x.ch && y.round == x.round
  let t := s.redEnd cl x status
  { t with clus := t.clus.map fun (p : Nat × Cluster) => (p.1, { p.2 with reds := p.2.reds.filter (!same ·) }) }
/-- A round, or it and every later round of its channel, is broken: every participant ends with the status (R358). -/
def State.redBreak (s : State) (l ch k status : Nat) (later : Bool) : State :=
  let s := s.mapLaunch l fun x => { x with redBad := x.redBad ++ [(ch, k, status, later)] }
  (s.allReds.filter fun x => x.2.launch == l && x.2.ch == ch && (x.2.round == k || (later && k ≤ x.2.round))).foldl
    (fun (s : State) (x : Nat × Red) => s.redEnd x.1 x.2 status) s
/-- A fenced core breaks the rounds of a launch to which it has not contributed, `counts` being its counts of RDCTs (R358). -/
def State.redLost (s : State) (n l : Nat) (counts : Vector Nat 4) : State :=
  (List.range 4).foldl (fun s ch =>
    let k := counts.toList.getD ch 0
    let mine := s.allReds.filter fun x => x.2.launch == l && x.2.ch == ch && coreOf x.2.who == n && x.2.pending
    s.redBreak l ch ((mine.map (·.2.round)).foldl Nat.min k) 2 true) s
/-- A fenced core breaks the rounds of the launch that runs on it, and of the one that is saved with it (R358). -/
def State.redFence (s : State) (n : Nat) : State :=
  let k := s.core n
  let s := match k.launch with | some l => s.redLost n l k.redCount | none => s
  match k.saved with
  | some v => match v.launch with | some l => if k.launch = some l then s else s.redLost n l v.redCount | none => s
  | none => s
/-- A context's RDCT on a channel is the first that its core has issued there of those not accepted (R356). An entry counts while its
context stands at the head that made it. -/
def State.redFirst (s : State) (c ch : Nat) : Bool :=
  let live := (s.core (coreOf c)).redOrder.filter fun o => o.2.1 == ch && (s.ctx o.1).pc == o.2.2 && (s.ctx o.1).run == .running
  (live.head?.map (·.1 == c)).getD true
/-- Acceptance of RDCT (R345, R348, R356). -/
def acceptRdct (s : State) (c : Nat) (op : RedOp) (r : EngReq) : Out :=
  let n := coreOf c
  let cl := clusterOf n
  let q := s.asker c
  let fail := (s.ctx c).walkFail
  let again : Instr := .engineAcceptance c r
  let e := r.e.toNat
  let num := bits e 11 0
  let t := bits e 19 16
  let ch := bits e 21 20
  let len := divUp (num * redBytes t) 8 * 8
  let k := (s.core n).redCount.toList.getD ch 0
  let rk := s.rankOf n
  let own := (s.spadPlace n r.b.toNat).any fun a => spadCore a == n
  if num = 0 ∨ 2048 < num ∨ (redT t).isNone ∨ bits e 15 12 ≠ 0 ∨ bits e 63 22 ≠ 0 then engArg s c e
  else if ((s.clu cl).reds.any fun x => coreOf x.who == n && x.ch == ch && x.pending) || !s.redFirst c ch then .next (s.again again)
  else
    let src := s.engRange q fail .load r.b.toNat len
    let dst := if rk.2.1 = 0 then s.engRange q fail .store r.c.toNat len else .ok []
    let mine : Res := if own then .ok [] else .trap 1 0x28 r.b.toNat
    let clash : Res :=
      if rk.2.1 = 0 && overlaps (s.engPlace n r.c.toNat) len (s.engPlace n r.b.toNat) len then .trap 1 0x28 r.c.toNat else .ok []
    refuse s c (joinAll [mine, src, dst, clash]) (missAcc [(src, .load), (dst, .store)]) again fun _ =>
      let dps := match dst with
        | .ok ps => runsOf ps
        | _ => []
      let seq := s.seqNext cl 4
      let x : Red := { seq := seq, who := c, asid := (s.ctx c).asid.toNat, sc := r.sc, ch := ch, launch := rk.1, rank := rk.2.1, round := k,
                       src := (s.spadPlace n r.b.toNat).getD 0, n := num, t := t, op := op, fctx := r.fctx, dst := dps,
                       result := none, out := [], flags := 0, flits := [] }
      let s := (s.acceptCmd c 4 r.d).release c r.sc
      let s := s.mapCore n fun z =>
        { z with redCount := z.redCount.set (ch % 4) (k + 1), redOrder := z.redOrder.filter fun o => !(o.1 == c && o.2.1 == ch) }
      let s := s.mapClu cl fun z => { z with reds := z.reds ++ [x] }
      match (s.launch rk.1).broken ch k with
      | some st => .next (s.redEnd cl x st)
      | none =>
        if s.allReds.any fun y => y.2.launch == x.launch && y.2.ch == ch && y.2.round == k &&
            (y.2.n != num || y.2.t != t || y.2.op != op) then .next (s.redBreak rk.1 ch k 4 false)
        else .next (s.post (.rdctNodeCombine cl seq))
/-- Combine two elements (R357). -/
def redCombine (t : ElemT) (op : RedOp) (v : FEnv) (idx a b : Nat) : Fp :=
  let w := t.width
  match t with
  | .f32 =>
    match op with
    | .add => fmtF32.add v idx a b
    | .min => fmtF32.minMax v false a b
    | .max => fmtF32.minMax v true a b
  | _ =>
    let sg := t == .s32 || t == .s64
    let lt := if sg then decide (sext a w < sext b w) else decide (a < b)
    match op with
    | .add => ((a + b) % 2 ^ w, 0)
    | .min => (if lt then a else b, 0)
    | .max => (if lt then b else a, 0)
/-- The elements of a node: its own, with each child's combined in rising rank (R357); their flags. DEDUCED (log entry 67): a
node with no child passes its source elements on bit for bit, for R357 combines nothing there, so nothing reads them as
R129 and R134 say. -/
def redNode (t : ElemT) (op : RedOp) (v : FEnv) (own : List Nat) (kids : List (List Nat)) : List Fp :=
  (List.range own.length).map fun j =>
    kids.foldl (fun (a : Fp) k =>
      let r := redCombine t op v j a.1 (k.getD j 0)
      (r.1, a.2 ||| r.2)) (own.getD j 0, 0)
/-- Bytes of a list of elements, little-endian. -/
def elemBytes (w : Nat) (l : List Nat) : Nat := l.foldr (fun a n => a % 2 ^ w + 2 ^ w * n) 0
/-- The writes of a result over runs of bytes: whole words, the last one half when the elements end inside it. -/
def redWrites (v len : Nat) : List (Nat × Nat) → Nat → List (Nat × Nat × Nat)
  | [], _ => []
  | (a, n) :: rest, off =>
    ((List.range (n / 8)).map fun i =>
      let o := off + 8 * i
      let k := Nat.min 8 (len - o)
      (a + 8 * i, v / 2 ^ (8 * o) % 2 ^ (8 * k), k)) ++ redWrites v len rest (off + n)
/-- A command's writes to other packages are not all acknowledged (R350, R456). -/
def State.flying (s : State) (flits : List Nat) : Bool := flits.any fun n => s.outFlits.any (·.seq == n)
/-- The root writes one word of its result, in no fixed order (R290, R357); with all of them performed the round is done (R358). -/
def State.redRoot (s : State) (cl : Nat) (x : Red) : Out :=
  let e : Instr := .rdctNodeCombine cl x.seq
  let r := s.freeNat (Nat.max 1 x.out.length)
  match x.out[r.1]? with
  | none => .next (if s.flying x.flits then s.again e else s.redDone cl x 0)
  | some w =>
    match s.engReach x.who x.asid w.1 with
    | .lost st => .next (s.redDone cl x st)
    | .held => .next ((s.countRedir cl 4 x.seq w.1).heldBy w.1 e)
    | .ok =>
      if s.inRange w.1 then .next (r.2.again e)
      else
        let y := { x with out := x.out.eraseIdx r.1, flits := if isRemote w.1 then x.flits ++ [r.2.flitSeq] else x.flits }
        let s := r.2.engWrite x.who x.sc w.1 w.2.2 w.2.1 false
        .next ((s.mapClu cl fun c => { c with reds := c.reds.map fun z => if z.seq = x.seq then y else z }).post e)
/-- RDCT_NODE_COMBINE (R357, R358): once every child's result has arrived, the node reads its source and combines; the
root then writes the destination, any other node sends its result to its parent and has completed. -/
def execRdctNodeCombine (cl seq : Nat) (s : State) : Out :=
  match (s.clu cl).reds.find? (·.seq == seq) with
  | none => .next s
  | some x =>
    let size := Nat.max 1 (s.launch x.launch).cores.length
    let qs := ((List.range 4).map fun i => 4 * x.rank + 1 + i).filter (· < size)
    let kids := qs.map fun r => (s.redOf x.launch x.ch x.round r).bind fun k => k.2.result
    let t := (redT x.t).getD .s64
    let len := x.n * redBytes x.t
    if x.rank = 0 ∧ x.result.isSome then s.redRoot cl x
    else if x.result.isSome || kids.any Option.isNone then .next s
    else if s.engReach x.who x.asid x.src == .held then .next ((s.countRedir cl 4 seq x.src).heldBy x.src (.rdctNodeCombine cl seq))
    else if (s.badIn x.src len).isSome then .next (s.redBreak x.launch x.ch x.round 3 false)
    else
      let own := (List.range x.n).map fun j => s.rdN (x.src + j * redBytes x.t) (redBytes x.t)
      let res := redNode t x.op (envOf x.fctx) own (kids.map fun k => k.getD [])
      let fl := res.foldl (fun f r => f ||| r.2) 0
      let vals := res.map (·.1)
      let out := if x.rank = 0 then redWrites (elemBytes t.width vals) len x.dst 0 else []
      let keep (y : Red) : Red :=
        if y.seq = seq then { y with result := some vals, out := out, flags := if x.rank = 0 then fl else 0 } else y
      let s := s.mapClu cl fun c => { c with reds := c.reds.map keep }
      if x.rank = 0 then .next (s.post (.rdctNodeCombine cl seq))
      else
        let s := (s.mergeFlags x.who x.asid fl).complete cl 4 seq 0 x.sc x.who x.asid
        match s.redOf x.launch x.ch x.round ((x.rank - 1) / 4) with
        | some p => .next (s.post (.rdctNodeCombine p.1 p.2.seq))
        | none => .next s

/-! ## Headrace and tailrace (R359 to R363) -/

/-- The fields of a stream descriptor (R360). -/
structure Stream where
  hdrt : Nat
  hdr : Bool
  swz : Nat
  rowlen : Nat
  rstride : Int
  rows : Nat
  n1 : Nat
  n0 : Nat
  s1 : Int
  s0 : Int
  wbbase : Nat
  base : Nat
  deriving DecidableEq, Repr
/-- The descriptor that 512 bits hold (R360). -/
def streamOf (v : Nat) : Stream :=
  { hdrt := bits v 511 384, hdr := v.testBit 374, swz := bits v 373 368, rowlen := bits v 367 352,
    rstride := sext (bits v 351 320) 32, rows := bits v 303 288, n1 := bits v 287 272, n0 := bits v 271 256,
    s1 := sext (bits v 255 192) 64, s0 := sext (bits v 191 128) 64, wbbase := bits v 127 64, base := bits v 63 0 }
/-- A descriptor keeps its table (R360), for slots of n bytes: every row begins on an engine address (R346), so a stride that
some row uses is a multiple of 8. -/
def streamOk (v n : Nat) : Bool :=
  let d := streamOf v
  bits v 383 375 == 0 && bits v 319 304 == 0 && d.rowlen % 64 == 0 && 64 ≤ d.rowlen && d.rowlen ≤ 32768 && 1 ≤ d.rows
    && 1 ≤ d.n1 && 1 ≤ d.n0 && d.base % 64 == 0 && d.wbbase % 8 == 0 && (d.rows == 1 || d.rstride % 8 == 0)
    && (d.n0 == 1 || d.s0 % 8 == 0) && (d.n1 == 1 || d.s1 % 8 == 0) && (if d.hdr then 64 else 0) + d.rows * d.rowlen ≤ n
/-- Address of row j of tile t, from a base (R360). -/
def Stream.row (d : Stream) (base t j : Nat) : Nat :=
  (((base : Int) + (t % d.n0 : Nat) * d.s0 + (t / d.n0 : Nat) * d.s1 + (j : Int) * d.rstride) % (2 ^ 64 : Nat)).toNat
/-- Tiles of a stream. -/
def Stream.tiles (d : Stream) : Nat := d.n0 * d.n1
/-- The key of byte o of a row that stands in runs of bytes. -/
def runByte : List (Nat × Nat) → Nat → Nat
  | [], _ => 0
  | (a, n) :: l, o => if o < n then a + o else runByte l (o - n)
/-- The word at offset o of a row whose bytes are swizzled within each 64-byte unit, byte k standing where byte k XOR swz of the
other side stands (R360); `key` gives the place of a byte of that side. -/
def State.swizzled (s : State) (key : Nat → Nat) (o swz : Nat) : Nat :=
  (List.range 8).foldr (fun i v => (s.byte (key ((o + i) / 64 * 64 + ((o + i) % 64 ^^^ swz)))).toNat + 256 * v) 0
/-- The place of the word that such a word comes from. -/
def swizzledFrom (key : Nat → Nat) (o swz : Nat) : Nat := key (o / 64 * 64 + (o % 64 ^^^ (swz / 8 * 8)))
/-- Bytes of a tile in its slot, header block included (R360). -/
def Stream.size (d : Stream) : Nat := (if d.hdr then 64 else 0) + d.rows * d.rowlen
/-- First byte of the rows in a slot (R360). -/
def Stream.off (d : Stream) : Nat := if d.hdr then 64 else 0
/-- The header block of a tile: hdrt with the swizzle tag of the descriptor, bytes 16 to 63 zero (R360). -/
def Stream.header (d : Stream) : Nat := d.hdrt / 64 * 64 + d.swz
/-- The row and the offset in it of byte o of a slot. -/
def Stream.at (d : Stream) (o : Nat) : Nat × Nat := ((o - d.off) / d.rowlen, (o - d.off) % d.rowlen)
/-- Offsets of the words from a to b. -/
def wordOffs (a b : Nat) : List Nat := (List.range ((b - a) / 8)).map fun i => a + 8 * i
/-- Change the subscription of a number. -/
def State.mapSub (s : State) (cl seq : Nat) (f : Sub → Sub) : State :=
  s.mapClu cl fun c => { c with subs := c.subs.map fun x => if x.seq = seq then f x else x }
/-- The subscription ends: it leaves its cluster, HDENDs on it get the number of tiles filled, and its token completes. -/
def State.subEnd (s : State) (cl : Nat) (u : Sub) (status : Nat) : State :=
  let s := s.mapClu cl fun c => { c with subs := c.subs.filter (·.seq != u.seq) }
  let s := u.stop.foldl (fun (s : State) (h : Nat × XR) => (s.replyX h.1 h.2 (w64 u.tile) false).reply h.1) s
  s.complete cl 5 u.seq status u.sc u.who u.asid
/-- Whether a subscription is over (R363). -/
def State.subCheck (s : State) (cl seq : Nat) : State :=
  match (s.clu cl).subs.find? (·.seq == seq) with
  | none => s
  | some u =>
    if u.work.step ≠ 0 ∨ (s.clu cl).rets.any (·.sub.seq == seq) then s
    else if !u.stop.isEmpty then s.subEnd cl u 5
    else if u.tile = (streamOf u.desc.toNat).tiles ∧ u.returned = u.tile then s.subEnd cl u 0
    else s
/-- Acceptance of HDSUB (R345, R348, R359, R360): a descriptor that breaks its rules is refused with its address (DESIGN CHOICE, log
entry 87). -/
def acceptHdsub (s : State) (c : Nat) (r : EngReq) : Out :=
  let cl := clusterOf (coreOf c)
  let e := r.e.toNat
  let su := bits e 10 0
  let ns := bits e 22 16
  let b := r.b.toNat
  let n := 64 * su * ns + 8 * ns
  let again : Instr := .engineAcceptance c r
  if 16 ≤ (s.clu cl).subs.length then .next (s.again again)
  else if bits e 15 11 ≠ 0 ∨ bits e 63 23 ≠ 0 ∨ su = 0 ∨ 1024 < su ∨ ns < 2 ∨ 64 < ns then engArg s c e
  else if b % 64 ≠ 0 ∨ !inWindow b then engArg s c b
  else if r.c.toNat % 64 ≠ 0 then engArg s c r.c.toNat
  else
    let src := s.engRange (s.asker c) (s.ctx c).walkFail .load r.c.toNat 64
    let dst := s.engRange (s.asker c) (s.ctx c).walkFail .store b n
    refuse s c (joinRes src (beside src dst)) (missAcc [(src, .load), (dst, .store)]) again fun _ =>
      refuse s c src .load again fun ps =>
        engRecord s c ps again fun s ws =>
          let v := elemBytes 64 ws
          let ring := windowKey (coreOf c) b
          let seq := s.seqNext cl 5
          if !streamOk v (64 * su) then engArg s c r.c.toNat
          else refuse s c dst .store again fun _ =>
            match s.engReach c (s.ctx c).asid.toNat ring with
            | .ok =>
              let u : Sub := { seq := seq, who := c, asid := (s.ctx c).asid.toNat, sys := (s.ctx c).sys, sc := r.sc, ring := ring,
                               su := su, ns := ns, desc := BitVec.ofNat 512 v, tile := 0, returned := 0, stop := [], work := .none }
              let s := (List.range (n / 8)).foldl (fun (s : State) i => (s.setEmpty (ring + 8 * i)).serveAll (ring + 8 * i)) s
              .next ((((s.acceptCmd c 5 r.d).release c r.sc).mapClu cl fun k => { k with subs := k.subs ++ [u] }).post (.headraceTileFill cl seq))
            | _ => .next (s.heldBy ring again)
/-- HEADRACE_TILE_FILL (R361): the tile's pages are probed; then its words are written, in no fixed order, each becoming full;
then its marker. -/
def execHeadraceTileFill (cl seq : Nat) (s : State) : Out :=
  match (s.clu cl).subs.find? (·.seq == seq) with
  | none => .next s
  | some u =>
    let d := streamOf u.desc.toNat
    let i := u.tile % u.ns
    let slot := u.slot i
    let e : Instr := .headraceTileFill cl seq
    match s.engReach u.who u.asid u.ring with
    | .lost st => .next (s.subEnd cl u st)
    | .held => .next ((s.countRedir cl 5 seq u.ring).heldBy u.ring e)
    | .ok =>
      match u.work.step with
      | 0 =>
        if !u.stop.isEmpty || d.tiles ≤ u.tile then .next (s.subCheck cl seq)
        else if !((List.range (8 * u.su)).all fun k => !s.isFull (slot + 8 * k)) || s.isFull (u.marker i) then .next (s.again e)
        else
          let q : Asker := ⟨u.asid, coreOf u.who, u.sys⟩
          let rs := (List.range d.rows).map fun j => s.rowRange q (fillUnit cl seq) .load (d.row d.base u.tile j) d.rowlen
          match joinAll rs with
          | .miss va => .next ((s.openWalk q (fillUnit cl seq) va .load).post e)
          | .held | .saved => .next (s.again e)
          | .trap _ _ _ => .next ((s.failUsed (fillUnit cl seq)).subEnd cl u 6)
          | .ok _ =>
            let rows := rs.map fun r => match r with | .ok ps => runsOf ps | _ => []
            .next (((s.failUsed (fillUnit cl seq)).mapSub cl seq fun u => { u with work := ⟨1, wordOffs 0 d.size, rows⟩ }).post e)
      | 1 =>
        let r := s.freeNat (Nat.max 1 u.work.left.length)
        let o := u.work.left.getD r.1 0
        let p := d.at o
        let key := runByte (u.work.rows.getD p.1 [])
        let from_ := swizzledFrom key p.2 d.swz
        if s.inRange (slot + o) || (d.off ≤ o && s.heldKey u.who u.asid .atomic from_) then .next (r.2.again e)
        else
          let t :=
            if o < d.off then r.2.engWrite u.who u.sc (slot + o) 8 (if o < 16 then d.header / 2 ^ (8 * o) % 2 ^ 64 else 0) false
            else (r.2.engRead from_).engWrite u.who u.sc (slot + o) 8 (s.swizzled key p.2 d.swz) (s.isBad from_)
          let left := u.work.left.eraseIdx r.1
          .next ((t.mapSub cl seq fun u => { u with work := { u.work with left := left, step := if left.isEmpty then 3 else 1 } }).post e)
      | _ =>
        if s.inRange (u.marker i) then .next (s.again e)
        else
          let t := s.engWrite u.who u.sc (u.marker i) 8 u.tile false
          .next ((t.mapSub cl seq fun u => { u with tile := u.tile + 1, work := .none }).post e)
/-- The tile a slot holds: the last one filled into it. -/
def Sub.tileIn (u : Sub) (i : Nat) : Option Nat :=
  if u.tile ≤ i then none else some (i + (u.tile - 1 - i) / u.ns * u.ns)
/-- The live subscription that a token names in a cluster (R362). -/
def State.subOf (s : State) (cl : Nat) (tok : Word) : Option Sub :=
  if bits tok.toNat 63 32 = 5 then (s.clu cl).subs.find? (·.seq == bits tok.toNat 31 0) else none
/-- Acceptance of TLRET (R362). -/
def acceptTlret (s : State) (c : Nat) (r : EngReq) : Out :=
  let cl := clusterOf (coreOf c)
  let i := r.c.toNat
  match s.subOf cl r.b with
  | none => engArg s c r.b.toNat
  | some u =>
    if s.engReach c (s.ctx c).asid.toNat u.ring == .held then .next (s.heldBy u.ring (.engineAcceptance c r))
    else if u.ns ≤ i ∨ !s.isFull (u.marker i) ∨ (s.clu cl).rets.any (fun x => x.sub.seq == u.seq && x.slot == i) then engArg s c i
    else
      match u.tileIn i with
      | none => engArg s c i
      | some t =>
        let seq := s.seqNext cl 6
        let x : Ret := { seq := seq, who := c, asid := (s.ctx c).asid.toNat, sub := u, slot := i, tile := t, sc := r.sc, work := .none, flits := [] }
        .next ((((s.acceptCmd c 6 r.d).release c r.sc).mapClu cl fun k => { k with rets := k.rets ++ [x] }).post (.tailraceWriteback cl seq))
/-- Change the return of a number. -/
def State.mapRet (s : State) (cl seq : Nat) (f : Ret → Ret) : State :=
  s.mapClu cl fun c => { c with rets := c.rets.map fun x => if x.seq = seq then f x else x }
/-- A return ends with a status, and its subscription may be over with it (R362, R363). -/
def State.retEnd (s : State) (cl : Nat) (x : Ret) (status : Nat) : State :=
  ((s.mapClu cl fun c => { c with rets := c.rets.filter (·.seq != x.seq) }).complete cl 6 x.seq status x.sc x.who x.asid).subCheck
    cl x.sub.seq
/-- TAILRACE_WRITEBACK (R362, R363): the pages of the tile are probed, and a refused one ends the return with status 6; the
slot's rows are written back, in no fixed order; then the slot's words become empty, and then, once the write-back has been performed
at its homes, its marker. -/
def execTailraceWriteback (cl seq : Nat) (s : State) : Out :=
  match (s.clu cl).rets.find? (·.seq == seq) with
  | none => .next s
  | some x =>
    let u := x.sub
    let d := streamOf u.desc.toNat
    let slot := u.slot x.slot
    let e : Instr := .tailraceWriteback cl seq
    let work (t : State) (w : TileWork) : Out := .next ((t.mapRet cl seq fun x => { x with work := w }).post e)
    let unit := returnUnit cl seq
    match s.engReach u.who u.asid u.ring with
    | .lost st => .next (s.retEnd cl x st)
    | .held => .next ((s.countRedir cl 6 seq u.ring).heldBy u.ring e)
    | .ok =>
      match x.work.step with
      | 0 =>
        if d.wbbase = 0 then work s ⟨2, wordOffs 0 (64 * u.su), []⟩
        else
          let q : Asker := ⟨u.asid, coreOf u.who, u.sys⟩
          let rs := (List.range d.rows).map fun j => s.rowRange q unit .store (d.row d.wbbase x.tile j) d.rowlen
          match joinAll rs with
          | .miss va => .next ((s.openWalk q unit va .store).post e)
          | .held | .saved => .next (s.again e)
          | .trap _ _ _ => .next ((s.failUsed unit).retEnd cl x 6)
          | .ok _ => work (s.failUsed unit) ⟨1, wordOffs d.off d.size, rs.map fun r => match r with | .ok ps => runsOf ps | _ => []⟩
      | 1 =>
        let r := s.freeNat (Nat.max 1 x.work.left.length)
        let o := x.work.left.getD r.1 0
        let p := d.at o
        let dst := runByte (x.work.rows.getD p.1 []) p.2
        let key (k : Nat) : Nat := slot + d.off + p.1 * d.rowlen + k
        if s.heldKey u.who u.asid .atomic dst then .next (r.2.again e)
        else
          let t := r.2.engWrite x.who x.sc dst 8 (s.swizzled key p.2 d.swz) (s.isBad (swizzledFrom key p.2 d.swz))
          let left := x.work.left.eraseIdx r.1
          let t := if isRemote dst then t.mapRet cl seq fun x => { x with flits := x.flits ++ [r.2.flitSeq] } else t
          work t (if left.isEmpty then ⟨2, wordOffs 0 (64 * u.su), []⟩ else { x.work with left := left })
      | 2 =>
        let r := s.freeNat (Nat.max 1 x.work.left.length)
        let w := slot + x.work.left.getD r.1 0
        let left := x.work.left.eraseIdx r.1
        work ((r.2.setEmpty w).serveAll w) (if left.isEmpty then ⟨3, [], []⟩ else { x.work with left := left })
      | _ =>
        if s.flying x.flits then .next (s.again e) else
        let t := (s.setEmpty (u.marker x.slot)).serveAll (u.marker x.slot)
        .next ((t.mapSub cl u.seq fun y => { y with returned := y.returned + 1 }).retEnd cl x 0)

/-! ## The forms -/

/-- ENGINE_ACCEPTANCE (R347, R348): a head that has been withdrawn is not accepted. -/
def execEngineAcceptance (c : Nat) (r : EngReq) (s : State) : Out :=
  if (s.ctx c).why ≠ some .accept then .next s
  else
    answered c
      (match r.form with
       | .rdct op => acceptRdct s c op r
       | .hdsub => acceptHdsub s c r
       | .tlret => acceptTlret s c r
       | _ => acceptCopy s c r)
/-- An engine head (R290, R347): it drains its context's buffer and waits for the accesses before it, commands apart, which run
concurrently (log entry 19); then it is sent to its engine. Accepted, it is a release at its scope. -/
def engine (s : State) (form : EngForm) (sc : Scope) (d : XR) (b c e : XS) : Out :=
  s.needNext (s.released sc fun t =>
    let r : EngReq := { form := form, sc := sc, d := d, b := s.me.getS b, c := s.me.getS c, e := s.me.getS e, fctx := s.me.fctx }
    .next ((t.park .accept).post (.engineAcceptance s.cur r)))
/-- CPY (R351). -/
def execCpy (sc : Scope) (d : XR) (b c e : XS) (s : State) : Out := engine s .cpy sc d b c e
/-- CPYT (R354). -/
def execCpyt (sc : Scope) (d : XR) (b c e : XS) (s : State) : Out := engine s .cpyt sc d b c e
/-- GATH (R352). -/
def execGath (sc : Scope) (d : XR) (b c e : XS) (s : State) : Out := engine s .gath sc d b c e
/-- SCAT (R352). -/
def execScat (sc : Scope) (d : XR) (b c e : XS) (s : State) : Out := engine s .scat sc d b c e
/-- MCST (R353). -/
def execMcst (list : Bool) (sc : Scope) (d : XR) (b c e : XS) (s : State) : Out := engine s (.mcst list) sc d b c e
/-- The executing head, an RDCT on a channel, has been issued: it keeps its place among those of its core (R356). -/
def State.noteRdct (s : State) (ch : Nat) : State :=
  let e := (s.cur, ch, s.me.pc)
  s.mapCore s.myCore fun k =>
    if k.redOrder.contains e then k else { k with redOrder := (k.redOrder.filter fun o => o.1 != s.cur) ++ [e] }
/-- RDCT (R356): an F32 sum rounds, so rmode 6 and 7 trap (R45, R357). -/
def execRdct (op : RedOp) (sc : Scope) (d : XR) (b c e : XS) (s : State) : Out :=
  let ch := bits (s.me.getS e).toNat 21 20
  let t := s.noteRdct ch
  if op = .add ∧ bits (s.me.getS e).toNat 19 16 = 10 then s.needRmode (engine t (.rdct op) sc d b c e)
  else engine t (.rdct op) sc d b c e
/-- HDSUB (R359). -/
def execHdsub (sc : Scope) (d : XR) (b c e : XS) (s : State) : Out := engine s .hdsub sc d b c e
/-- TLRET (R362). -/
def execTlret (sc : Scope) (d : XR) (b c : XS) (s : State) : Out := engine s .tlret sc d b c (.x 0)
/-- HDEND (R363): the subscription stops, and xd gets the number of tiles filled once it has ended. -/
def execHdend (d : XR) (b : XS) (s : State) : Out :=
  s.drained fun t =>
    let cl := clusterOf s.myCore
    match t.subOf cl (s.me.getS b) with
    | none => .next (s.trap 0x28 (s.me.getS b))
    | some u =>
      let t := t.mapClu cl fun c => { c with subs := c.subs.map fun x => if x.seq = u.seq then { x with stop := x.stop ++ [(s.cur, d)] } else x }
      retire s ((t.mapMe fun x => { x with why := some .longOp }).post (.headraceTileFill cl u.seq))
/-- A command of a kind is under way in a cluster. -/
def Cluster.busy (c : Cluster) (kind seq : Nat) : Bool :=
  match kind with
  | 0 => c.omu.queue.any fun
    | .pass p => p.seq == some seq
    | _ => false
  | 1 => c.omu.queue.any fun
    | .load n _ _ _ => n == seq
    | _ => false
  | 2 => c.mill.any (·.seq == seq)
  | 3 => c.cmds.any (·.seq == seq)
  | 4 => c.reds.any fun r => r.seq == seq && r.pending
  | 5 => c.subs.any (·.seq == seq)
  | _ => c.rets.any (·.seq == seq)
/-- A number of the optical counter belongs to a command of another kind (R364). -/
def Cluster.otherKind (c : Cluster) (kind seq : Nat) : Bool := kind < 3 && tget c.kinds seq kind != kind
/-- AWAIT (R347, R364): it drains its context's buffer; an acquire at the scope of the command, with its status; where that is no longer
held the scope is SYSTEM (DESIGN CHOICE, log entry 85). -/
def execAwait (d : XR) (b : XS) (s : State) : Out :=
  let tok := (s.me.getS b).toNat
  let cl := clusterOf s.myCore
  let c := s.clu cl
  let kind := bits tok 35 32
  let seq := bits tok 31 0
  let ahead := (s.seqNext cl kind + 2 ^ 32 - seq) % 2 ^ 32
  if bits tok 63 36 ≠ 0 ∨ 7 ≤ kind ∨ ahead = 0 ∨ 2 ^ 31 < ahead ∨ c.otherKind kind seq then
    .next (s.trap 0x28 (s.me.getS b))
  else s.drained fun _ =>
    if c.busy kind seq then
      retire s ((s.mapMe fun x => { x with why := some .longOp }).mapClu cl fun k =>
        { k with awaits := k.awaits ++ [⟨s.cur, kind, seq, d⟩] })
    else
      let r := c.done.find? fun x => x.kind == kind && x.seq == seq
      retireLong s ((s.acquireOf s.cur (awaitScope kind ((r.map (·.sc)).getD .system)) []).putX d
        (w64 ((r.map (·.status)).getD 15)))

end Sys2Proof.Machine
end

