-- ==== Sys2Proof/Machine/Fetch.lean ====
section
/-! DEFINITION. Reading a code line and choosing what issues: entry into a line (R74, R84 to R86), pairs (R87), the barrel
rule (R375 to R381), and the errors found when a head reads its operands (R441, R469 to R471). -/
namespace Sys2Proof.Machine
noncomputable section

/-! ## Legal lines (R72 to R74, R87) -/

/-- Pair class of a major (R100): S, M, B, V or none; an unassigned major counts as whatever is required (R87). -/
inductive PairClass where
  | s | m | b | v | none | any
  deriving DecidableEq, Repr

/-- The pair class column of R100. -/
def pairClass (major : Nat) : PairClass :=
  if major = 0x00 ∨ 0x10 ≤ major ∧ major ≤ 0x15 ∨ major = 0x20 ∨ major = 0x21 then .s
  else if 0x48 ≤ major ∧ major ≤ 0x4E then .m
  else if 0x02 ≤ major ∧ major ≤ 0x07 then .b
  else if 0x28 ≤ major ∧ major ≤ 0x2D then .v
  else if (forms major).isNone then .any
  else .none
/-- May stand first in a pair. -/
def mayLead : PairClass → Bool
  | .s | .m | .b | .any => true
  | _ => false
/-- May stand second in a pair. -/
def mayFollow : PairClass → Bool
  | .v | .any => true
  | _ => false
/-- The register code a pairable head names as its destination (R79, R87, and the A column of R100 as R97 reads it). Codes 57 to
63 name no destination. DESIGN CHOICE (log entry 64): an unassigned major, which R100 gives no A role, has no
destination; a head of 0x4B with an unlisted minor has the role d of its row. -/
def destCode (h t1 : Parcel) : Option (BitVec 6) :=
  let m := (headMajor h).toNat
  let minor := (tailMinor t1).toNat
  if [0x00, 0x02, 0x05, 0x06, 0x49, 0x4C, 0x4E].contains m || (m == 0x4B && (minor == 1 || minor == 3 || minor == 5)) then none
  else if (forms m).isNone || 57 ≤ (headA h).toNat then none
  else some (headA h)
/-- The pair that head h of a line leads is legal (R87). -/
def pairOk (d : Line) (h : Nat) : Bool :=
  let a := headParcels d h
  let b := headParcels d (h + 1)
  let ah := a.getD 0 0
  let bh := b.getD 0 0
  h < lineHeads d && mayLead (pairClass (headMajor ah).toNat) && mayFollow (pairClass (headMajor bh).toNat) && !headP bh
    && (match destCode ah (a.getD 1 0), destCode bh (b.getD 1 0) with
        | some x, some y => x != y
        | _, _ => true)
/-- A line is legal (R74). -/
def lineLegal (d : Line) : Bool :=
  let hh := lineHeads d
  hh != 0 && d.extractLsb' 5 11 == 0#11 && hh + tailsBefore d (hh + 1) ≤ 31
    && (List.range hh).all fun i => !headP (lineParcel d (i + 1)) || pairOk d (i + 1)

/-! ## Entering a line (R85, R86, R261) -/

/-- The line an L1 instruction cache holds for an asker with the right to fetch it. -/
def ilineFind (l : List ILine) (q : Asker) (va : Nat) : Option ILine :=
  l.find? fun e => e.asid == q.asid && e.va == va && e.x && (e.app || q.sys)
/-- The line that the L1 instruction cache of an asker's core answers a fetch with (R409, R413). -/
def State.l1iAnswer (s : State) (q : Asker) (va : Nat) : Option ILine :=
  if s.asidOk q.asid (fieldOf q.core) then ilineFind (s.core q.core).l1i q va else none
/-- What entering a line gives. -/
inductive Enter where
  | line (d : Line)
  /-- The context is kept out of the rotation, or has trapped: no head issues. -/
  | stop (s : State)
/-- Read the line at which control stands into the executing context, or start its fetch, or trap (R85). -/
def State.enterLine (s : State) : Enter :=
  let va := lineAddr s.me.pc
  let q := s.asker s.cur
  if inWindow va then .stop (s.trapAtTarget 0x11 s.me.pc)
  else
    match s.l1iAnswer q va with
    | some e => .line e.data
    | none =>
      match s.askSlice q s.me.walkFail va .fetch with
      | .miss => .stop (s.parkMiss va .fetch)
      | .trap c => .stop (s.trapAtTarget c s.me.pc)
      | .ok pa =>
        if ((s.pageOf q va).map (·.cell)).getD false then .stop (s.trapAtTarget 0x17 s.me.pc)
        else if (s.badIn pa 64).isSome then .stop (s.trapAtTarget 0x1A s.me.pc)
        else .stop ((s.park .line).post (.ifetchLineArrival s.cur))
/-- An L1 instruction cache takes a line: with its 64 KiB full it loses a line that the spec does not choose (R261). -/
def State.l1iIn (s : State) (n : Nat) (e : ILine) : State :=
  let l := (s.core n).l1i.filter fun l => !(l.asid == e.asid && l.va == e.va)
  if l.length < 1024 then s.mapCore n fun k => { k with l1i := l ++ [e] }
  else
    let r := s.freeNat 1024
    r.2.mapCore n fun k => { k with l1i := l.eraseIdx r.1 ++ [e] }
/-- A context that waits for its code line is back in the rotation (R376). -/
def State.wakeLine (s : State) (c : Nat) : State := if (s.ctx c).why = some .line then s.wake c else s
/-- A line arrives in the L1 instruction cache of a context's core, and the context is eligible from the next cycle
(R376). A line that can no longer be fetched is not installed: the context meets R85 when it enters it again. A slice that is shut
down, as the line's proxy or home, lets it wait (R491). -/
def State.lineArrival (s : State) (c : Nat) : State :=
  let va := lineAddr (s.ctx c).pc
  let q := s.asker c
  match s.askSlice q none va .fetch, s.pageOf q va with
  | .ok pa, some e =>
    if ((s.bankFor q va pa).map fun b => s.shutFor .fetch (fieldOf q.core) b pa).getD false then s.again (.ifetchLineArrival c)
    else if e.cell || (s.badIn pa 64).isSome then s.wakeLine c
    else (s.l1iIn q.core ⟨q.asid, va, BitVec.ofNat 512 (s.rdN pa 64), e.r, e.w, e.x, e.app, e.cell⟩).wakeLine c
  | _, _ => s.wakeLine c

/-! ## The miller's pending traps (R430) -/

/-- A context is out of the rotation in one of the waits a miller's trap is taken from (R430). -/
def inWait : Option Why → Bool
  | some .sluice | some .sleep | some .recv | some (.fullEmpty _) => true
  | _ => false
/-- The oldest PREEMPT, or else the oldest delegated trap, and the rest of the list (R430). -/
def pickPending (l : List PendTrap) : Option (PendTrap × List PendTrap) :=
  match l.find? (·.preempt) with
  | some p => some (p, l.erase p)
  | none =>
    match l with
    | [] => none
    | p :: l => some (p, l)
/-- The miller of a core can take a pending trap: outside a handler interval, at a line boundary or in a wait (R430). -/
def State.millerReady (s : State) (n : Nat) : Bool :=
  let c := s.ctx (16 * n)
  c.run == .running && !c.intv && c.got.isNone && !c.held && ((c.why.isNone && c.line.isNone) || inWait c.why)
/-- The miller of a core takes its oldest pending trap (R430, step 5). -/
def State.millerTake (s : State) (n : Nat) : State :=
  match pickPending (s.core n).pending with
  | none => s
  | some (p, rest) =>
    let c := 16 * n
    let s := (s.mapCore n fun k => { k with pending := rest }).withdraw c
    enterTrap s c (if p.preempt then 0 else p.src) p.cause p.val (s.ctx c).pc (!p.preempt) p.async

/-! ## The barrel (R375 to R379) -/

/-- The cycle from which a context in the rotation has been eligible without issuing (R377). -/
def Ctx.since (c : Ctx) : Nat :=
  Nat.max c.eligFrom (match c.lastIssue with | some l => l + 8 | none => 0)
/-- A context is in the rotation: one that yields is in it again from its slot (R147, R376). -/
def Ctx.inRotation (c : Ctx) : Bool := c.run == .running && (c.why.isNone || c.why == some .yield)
/-- Context j is eligible in cycle t (R376). -/
def Ctx.eligible (c : Ctx) (t : Nat) : Bool := c.inRotation && c.since ≤ t
/-- next_home of R377. -/
def nextHome (j t : Nat) : Nat := t + 1 + (j + 16 - (t + 1) % 16) % 16
/-- Slot lending is on in a cluster: neither a hot slice nor the power cap suspends it (R485, R538). -/
def State.lends (s : State) (cl : Nat) : Bool := !(s.clu cl).noLend && s.powerCap ≤ cl
/-- The issuer of cycle t on core n (R377). -/
def State.issuer (s : State) (n t : Nat) : Option Nat :=
  if (s.core n).stalled then none
  else
    let home := 16 * n + t % 16
    if (s.ctx home).eligible t then some home
    else if !s.lends (clusterOf n) then none
    else
      let l := ((List.range 16).map (16 * n + ·)).filter fun c =>
        c != home && (s.ctx c).eligible t && t + 8 ≤ nextHome (c % 16) t
      l.foldl (fun best c =>
        match best with
        | none => some c
        | some b => if (s.ctx c).since < (s.ctx b).since then some c else some b) none
/-- Keys of the cores that have contexts placed, rising. -/
def State.liveCores (s : State) : List Nat := s.ctxs.foldl (fun l p => kput l (coreOf p.1)) []
/-- The rank of a core in the order in which the cores of the module issue in this cycle (R382; log entry 75). -/
def State.rank (s : State) (n : Nat) : Nat := (n + Config.nCores - s.first) % Config.nCores
/-- The cores that have yet to have their slot in this cycle, by rank. -/
def State.coresDue (s : State) : List Nat :=
  let l := s.liveCores
  ((l.filter (s.first ≤ ·)) ++ (l.filter (· < s.first))).filter (s.turn ≤ s.rank ·)
/-- The next context to issue in this cycle. -/
def State.nextIssuer (s : State) : Option Nat := s.coresDue.findSome? fun n => s.issuer n s.cycle
/-- A context has a trap of an asynchronous operation to take before the next head it issues: not while its head that has issued waits,
or has yet to take its result (R232, R376). -/
def Ctx.takesAsync (x : Ctx) : Bool := !x.asyncs.isEmpty && x.got.isNone && !x.sent
/-- A stop takes a context at its line boundary, or where it stands (R92, R140, R437, R442, R488); not while its head stands
at a place that holds it (R256), nor once a wait of its head has ended. -/
def State.stops (s : State) (c : Nat) : Bool :=
  let x := s.ctx c
  let k := s.core (coreOf c)
  (x.line.isNone || x.taken) && !x.held && x.got.isNone && (x.reaping || k.stop == 2 || (k.stop == 1 && ctxNo c != 0))
/-- Control stands at a line that is not in the L1 instruction cache and can be fetched: the context is out of the rotation
from the cycle in which control enters the line (R85, R376). -/
def State.lineAbsent (s : State) (c : Nat) : Bool :=
  let x := s.ctx c
  let q := s.asker c
  let va := lineAddr x.pc
  (x.line.all fun l => l.addr != va) && !inWindow va && (s.l1iAnswer q va).isNone &&
    match s.askSlice q x.walkFail va .fetch with
    | .miss => true
    | .trap _ => false
    | .ok pa => !((s.pageOf q va).map (·.cell)).getD false && (s.badIn pa 64).isNone
/-- A context that leaves the rotation without a slot: one that a stop takes, or one that waits for its line. -/
def State.leaver (s : State) : Option Nat :=
  s.coresDue.findSome? fun n => ((List.range 16).map (16 * n + ·)).find? fun c =>
    let x := s.ctx c
    x.inRotation && !x.takesAsync &&
      if s.stops c then x.eligFrom ≤ s.cycle
      else !(ctxNo c == 0 && s.millerReady n && !(s.core n).pending.isEmpty) && s.lineAbsent c
/-- A context is kept out of the rotation where it stands (R92, R442). -/
def State.freezeCtx (s : State) (c : Nat) : State :=
  s.mapCtx c fun x => { x.finishLate with why := some .frozen, line := none, taken := false, held := false, sent := false }
/-- A leaver leaves the rotation. -/
def State.leave (s : State) (c : Nat) : State :=
  let s := { s with cur := c, pairing := .single, mark := .parked }
  if s.stops c then s.freezeCtx c
  else
    match s.enterLine with
    | .stop t => t
    | .line _ => s

/-! ## Errors in operands (R441, R469, R471) -/

/-- Structure code of a register code (R471). -/
def regStruct (r : BitVec 6) : Nat := if r.toNat < 32 then 0 else if r.toNat < 48 then 1 else 2
/-- EVAL of a poisoned register (R471). -/
def badRegEval (r : BitVec 6) : Word := BitVec.ofNat 64 (2 ^ 63 + regStruct r * 256 + r.toNat)
/-- The first poisoned register among those a head reads. -/
def firstBad (c : Ctx) (rs : List (BitVec 6)) : Option (BitVec 6) := rs.find? fun r => c.bad.getLsbD r.toNat
/-- Flip bit i of the register of a code (R441). -/
def flipReg (c : Ctx) (r : BitVec 6) (i : Nat) : Ctx :=
  if h : r.toNat < 32 then { c with x := c.x.set r.toNat (c.x[r.toNat] ^^^ (1#64 <<< (i % 64))) }
  else if h : r.toNat - 32 < 16 then { c with v := c.v.set (r.toNat - 32) (c.v[r.toNat - 32] ^^^ (1#256 <<< (i % 256))) }
  else if h : r.toNat - 48 < 8 then { c with k := c.k.set (r.toNat - 48) (c.k[r.toNat - 48] ^^^ (1#32 <<< (i % 32))) }
  else c
/-- The error of a register that a head reads: one that ERRINJ has armed (R441, codes 0 to 2), or one that stands in a register or in a
system register (R467). -/
def armedReg (c : Ctx) (rs : List (BitVec 6)) (ys : List Nat) : Option Armed :=
  (c.armed.toList ++ c.latent).find? fun a =>
    if a.struct = 11 then ys.contains a.reg else a.struct < 3 && rs.any fun r => r.toNat == a.reg
/-- An error of a register is met: uncorrectable, the register is poisoned; correctable, it is corrected and logged
(R441, R467, R474). -/
def State.meetArmed (s : State) (a : Armed) : State :=
  let r : BitVec 6 := BitVec.ofNat 6 a.reg
  let n := s.myCore
  let rec_ := errRec (if a.unc then 1 else 2) a.struct (s.colUnit n) 0 a.reg (a.bit % 256) s.cycle
  let s := s.logClu (clusterOf n) .reg rec_
  s.mapMe fun c =>
    let c := if c.armed = some a then { c with armed := none } else { c with latent := c.latent.erase a }
    if a.unc then
      let c := flipReg (flipReg c r a.bit) r (a.bit + 1)
      { c with bad := c.bad ||| xBad a.reg }
    else c

/-! ## Preparing an issue -/

/-- What the slot of a context does. -/
inductive Prep where
  /-- Something comes before its next head, or keeps it from issuing. -/
  | stop (s : State)
  | go (s : State) (i : Instr)
  | pair (s : State) (i j : Instr)
/-- The instruction at head h of a line; a head that decodes to none is the illegal-instruction event. -/
def instrAt (d : Line) (h : Nat) : Instr :=
  match decode (headParcels d h) with
  | .ok i => i
  | .illegal => .illegalInstruction false
  | .reserved => .illegalInstruction true
/-- Prepare the slot of context c (R85, R86, R92, R232, R374, R430, R442). -/
def State.prepare (s : State) (c : Nat) : Prep :=
  let s := { s with cur := c, pairing := .single, mark := .done, turn := s.rank (coreOf c) + 1 }
  let s := if s.me.why = some .yield then s.mapMe fun x => { x with why := none } else s
  let k := s.core (coreOf c)
  let r := s.rereads c
  let s := r.1.mapMe Ctx.finishLate
  match r.2, (if s.me.takesAsync then s.me.asyncs else []) with
  | some va, _ => .stop { s.lateTrap c 0x1A (BitVec.ofNat 64 va) with mark := .parked }
  | none, a :: as => .stop (takeTrap (s.mapMe fun x => { x with asyncs := as }) c a.cause a.val s.me.pc true)
  | none, [] =>
    if s.stops c then .stop { s.freezeCtx c with mark := .parked }
    else if ctxNo c = 0 ∧ s.millerReady (coreOf c) ∧ k.pending ≠ [] then .stop (s.millerTake (coreOf c))
    else
      let entered :=
        match s.me.line with
        | some l => if l.addr = lineAddr s.me.pc then Enter.line l.data else s.enterLine
        | none => s.enterLine
      match entered with
      | .stop s => .stop s
      | .line d =>
        let h := headIndex s.me.pc
        if !lineLegal d || lineHeads d < h then .stop (s.trapAtTarget 0x02 s.me.pc)
        else
          let s := s.mapMe fun x =>
            { x with line := some ⟨lineAddr x.pc, d⟩, entry := none, lastIssue := some s.cycle }
          if headP (lineParcel d h) then .pair { s with pairing := .first } (instrAt d h) (instrAt d (h + 1))
          else .go s (instrAt d h)
/-- The state in which the second head of a pair is executed: it reads what stood before the pair (R88). -/
def State.second (s : State) : State := { s.mapMe (fun x => { x with pc := x.pc + 2 }) with pairing := .second }
/-- One value of a pair: the second head's where it wrote, else the first's. -/
def pick {α : Type} [DecidableEq α] (old a b : α) : α := if b = old then a else b
/-- Both heads of a pair take effect together: s before the pair, s1 after its first head, s2 after its second (R88). -/
def mergePair (s s1 s2 : State) : State :=
  let o := s.me
  let b := s2.ctx s.cur
  s1.mapCtx s.cur fun a =>
    { a with x := Vector.ofFn fun i => pick o.x[i] a.x[i] b.x[i], v := Vector.ofFn fun i => pick o.v[i] a.v[i] b.v[i],
             k := Vector.ofFn fun i => pick o.k[i] a.k[i] b.k[i], fstat := a.fstat ||| b.fstat,
             bad := a.bad &&& b.bad, eligFrom := Nat.max a.eligFrom b.eligFrom }
/-- A register among these is poisoned: of the context, or of its core. -/
def State.sysBad (s : State) (ys : List Nat) : Bool := ys.any fun n => s.me.badSys.contains n || (s.core s.myCore).badSys.contains n
/-- EVAL of a poisoned system register (R471): the manual lists no structure code and no index for one, so both are free. -/
def State.badSysEval (s : State) : Word :=
  let v := (Config.freeWord s.free).toNat
  BitVec.ofNat 64 (2 ^ 63 + v % 16 * 256 + v / 16 % 64)
/-- What a head, or pair, that leaves its context so may have to take back, s being the state before it: one that goes on at a unit, or
whose read goes on word by word (R89, R258, R428). -/
def State.undoOf (s : State) (c : Ctx) : Option Undo :=
  let o := s.me
  if c.why = some .longOp ∨ c.late.isSome then some ⟨o.pc, o.x, o.v, o.k, o.bad, c.fstat &&& ~~~o.fstat⟩ else none
/-- What the errors in the operands of a head make of its execution: s before it with `rs` the registers and `ys` the system
registers it reads, s1 after it. The conditions of R93, orders 1 to 5, come first; then a poisoned register traps (R471).
The first cause of a DOUBLE_TRAP stands in EVAL (R429). -/
def State.settle (s : State) (rs : List (BitVec 6)) (ys : List Nat) (s1 : State) : State :=
  let cause := bits s1.me.ecause.toNat 7 0
  let first := if cause = 9 then bits s1.me.eval.toNat 7 0 else cause
  let s1 :=
    if s1.mark = Mark.trapped ∧ first ≤ 5 then s1
    else
      match firstBad s.me rs with
      | some r => s.trap 0x1A (badRegEval r)
      | none => if s.sysBad ys then ({ s with free := s.free + 1 } : State).trap 0x1A s.badSysEval else s1
  let s1 := s1.mapCtx s.cur fun c => if c.why = some .accept then c else { c with walkFail := none }
  let s1 := s1.mapCtx s.cur fun c => { c with undo := s.undoOf c }
  if ctxNo s.cur = 0 ∧ inWait s1.me.why ∧ s1.me.intv = false ∧ (s1.core s.myCore).pending ≠ [] then
    s1.post (.millerTakeTrap s.myCore)
  else s1

/-! ## The target of a head (R84, R93 order 1) -/

/-- A conditional branch is taken (R150 to R152). -/
def Ctx.takes (c : Ctx) : Instr → Bool
  | .beq a b _ => c.getS a == c.getS b
  | .bne a b _ => c.getS a != c.getS b
  | .blt a b _ => (c.getS a).slt (c.getS b)
  | .bge a b _ => !(c.getS a).slt (c.getS b)
  | .bltn a b _ => (c.getS a).ult (c.getS b)
  | .bgen a b _ => !(c.getS a).ult (c.getS b)
  | .bkany a b _ => c.getK a &&& c.getK b != 0
  | .bkall a b _ => c.getK a &&& c.getK b == c.getK b
  | .bknone a b _ => c.getK a &&& c.getK b == 0
  | .dbnz a _ => c.getX a - 1 != 0
  | _ => false
/-- The code address that the executing head passes control to when it ends (R83, R84); none for TRAP and BRK, which trap, for
a miller's CTXLD of itself, and for an event. -/
def State.headTarget (s : State) : Instr → Option Nat
  | .brk | .trap _ => none
  | .ctxld n _ _ => if n.val = ctxNo s.cur then none else some s.nextPc
  | .j off | .jal _ off => some (codeTarget s.me.pc off.toInt)
  | .jalr _ b => some (s.me.getS b).toNat
  | .eret => some (bits s.me.epc.toNat 55 1 * 2)
  | .beq a b off => some (if s.me.takes (.beq a b off) then codeTarget s.me.pc off.toInt else s.nextPc)
  | .bne a b off => some (if s.me.takes (.bne a b off) then codeTarget s.me.pc off.toInt else s.nextPc)
  | .blt a b off => some (if s.me.takes (.blt a b off) then codeTarget s.me.pc off.toInt else s.nextPc)
  | .bge a b off => some (if s.me.takes (.bge a b off) then codeTarget s.me.pc off.toInt else s.nextPc)
  | .bltn a b off => some (if s.me.takes (.bltn a b off) then codeTarget s.me.pc off.toInt else s.nextPc)
  | .bgen a b off => some (if s.me.takes (.bgen a b off) then codeTarget s.me.pc off.toInt else s.nextPc)
  | .bkany a b off => some (if s.me.takes (.bkany a b off) then codeTarget s.me.pc off.toInt else s.nextPc)
  | .bkall a b off => some (if s.me.takes (.bkall a b off) then codeTarget s.me.pc off.toInt else s.nextPc)
  | .bknone a b off => some (if s.me.takes (.bknone a b off) then codeTarget s.me.pc off.toInt else s.nextPc)
  | .dbnz a off => some (if s.me.takes (.dbnz a off) then codeTarget s.me.pc off.toInt else s.nextPc)
  | _ => some s.nextPc
/-- The form of the executing head: one whose reserved bits are set has the target that its codes name (R93 orders 1 and 3). -/
def State.formOf (s : State) (i : Instr) : Instr :=
  match i, s.me.line with
  | .illegalInstruction true, some l => (looseDecode (headParcels l.data (headIndex s.me.pc))).getD i
  | _, _ => i
/-- A head whose target is not well formed raises the illegal-line trap, before every other condition (R84, R93 order 1):
the state after it. -/
def State.badTarget (s : State) (i : Instr) : Option State :=
  match s.headTarget (s.formOf i) with
  | some a => if goodPc a then none else some (s.trap 0x02 (BitVec.ofNat 64 a))
  | none => none

end
end Sys2Proof.Machine
end

