-- ==== Sys2Proof/Machine/Optics.lean ====
section
/-! DEFINITION. The arithmetic of the optical matrix unit: phase images and the matrix they denote (R194 to R197,
R209), row exponents and codes (R191, R192, R205, R208, R210), and what the millwright derives from a block (R229).
The matrix of an image is computed exactly, as R196 asks; that of a switch image, whose entries are 0 and ±smax, also in
integers. -/
namespace Sys2Proof.Machine

/-! ## Phase images (R194, R197, R209) -/

/-- Bytes of a phase image (R194). -/
def imageLen : Nat := 16448
/-- The n 16-bit codes of a number, least significant first. -/
def codes16 : Nat → Nat → List Nat
  | 0, _ => []
  | n + 1, v => v % 2 ^ 16 :: codes16 n (v / 2 ^ 16)
/-- The phase codes of an image (R194). -/
def imagePhases (img : Nat) : List Nat := codes16 8192 (img / 2 ^ 512)
/-- One step of CRC-32 over a bit of the reflected register. -/
def crcBit (r : BitVec 32) : BitVec 32 := if r.getLsbD 0 then (r >>> 1) ^^^ 0xEDB88320#32 else r >>> 1
/-- CRC-32 of the n low bytes of a number (R194). -/
def crcBytes : Nat → Nat → BitVec 32 → BitVec 32
  | 0, _, r => r
  | n + 1, v, r => crcBytes n (v / 256) ((List.range 8).foldl (fun r _ => crcBit r) (r ^^^ BitVec.ofNat 32 (v % 256)))
/-- CRC-32 of the phases of an image (R194). -/
def imageCrc (img : Nat) : Nat := (crcBytes 16384 (img / 2 ^ 512) 0xFFFFFFFF#32 ^^^ 0xFFFFFFFF#32).toNat
/-- smax of an image, as an F32 (R194). -/
def imageSmax (img : Nat) : Nat := bits img 127 96
/-- swz of an image (R194). -/
def imageSwz (img : Nat) : Nat := bits img 133 128
/-- An F32 is normal and positive. -/
def normalPos (b : Nat) : Bool := b < 2 ^ 31 && 0 < bits b 30 23 && bits b 30 23 < 255
/-- An image is valid (R197). -/
def imageValid (img : Nat) : Bool :=
  bits img 31 0 == 0x474D4950 && bits img 47 32 == 1 && bits img 63 48 == 64 && bits img 511 134 == 0
    && normalPos (imageSmax img) && ((imagePhases img).drop 4032 |>.take 64).all (· ≤ 32768)
    && bits img 95 64 == imageCrc img
/-- smax as m * 2^e. -/
def smaxParts (b : Nat) : Nat × Int := (2 ^ 23 + b % 2 ^ 23, (bits b 30 23 : Int) - 150)
/-- A switch image (R209): its θ codes are bar or cross, φ, trim and attenuator codes 0 or 32,768, smax a power of two. -/
def isSwitch (img : Nat) : Bool :=
  let ps := imagePhases img
  let mesh (k : Nat) : Bool := (List.range 2016).all fun i =>
    [0, 16384].contains (ps.getD (k + 2 * i) 0) && [0, 32768].contains (ps.getD (k + 2 * i + 1) 0)
  mesh 0 && mesh 4096 && (ps.drop 4032 |>.take 64).all [0, 32768].contains && (ps.drop 8128).all [0, 32768].contains
    && bits (imageSmax img) 22 0 == 0

/-! ## The meshes (R195) -/

/-- The MZIs of one column on pairs of neighbouring modes: `mix` gives what the MZI with these codes of θ and φ makes of two. -/
def mixPairs {α : Type} (mix : Nat → Nat → α → α → α × α) : List α → List Nat → List α
  | a :: b :: l, θ :: φ :: ps => let r := mix θ φ a b; r.1 :: r.2 :: mixPairs mix l ps
  | l, _ => l
/-- Column col of a mesh: on modes (i, i + 1) from i = col mod 2 (R195). -/
def mixColumn {α : Type} (mix : Nat → Nat → α → α → α × α) (col : Nat) (v : List α) (ps : List Nat) : List α :=
  if col % 2 = 0 then mixPairs mix v ps
  else
    match v with
    | [] => []
    | a :: l => a :: mixPairs mix l ps
/-- Codes of one column: 32 MZIs, or 31. -/
def columnCodes (col : Nat) : Nat := if col % 2 = 0 then 64 else 62
/-- The 64 columns of a mesh, in order, from column `col` on. -/
def mixMesh {α : Type} (mix : Nat → Nat → α → α → α × α) : Nat → Nat → List α → List Nat → List α
  | 0, _, v, _ => v
  | n + 1, col, v, ps =>
    mixMesh mix n (col + 1) (mixColumn mix col v (ps.take (columnCodes col))) (ps.drop (columnCodes col))
/-- A · v for the matrix A that the phases of an image denote (R195, R196): the input mesh, the attenuators, the output mesh and
the output trims, `gain` and `trim` giving what a code does to a mode. -/
def throughMeshes {α : Type} (mix : Nat → Nat → α → α → α × α) (gain trim : Nat → α → α) (img : Nat) (v : List α) : List α :=
  let ps := imagePhases img
  let v := (mixMesh mix 64 0 v ps).zipWith (fun a p => gain p a) (ps.drop 4032 |>.take 64)
  (mixMesh mix 64 0 v (ps.drop 4096)).zipWith (fun a p => trim p a) (ps.drop 8128)

/-! ## The matrix of an image (R196)

The entries of A are sums of cis(2πk/65,536) with coefficients that are integers over a power of two: cos, sin and cis of a
phase code turn and halve such sums, and an attenuator multiplies by an integer over 2^15. They are kept so, exactly; only
the floor of a real part is computed from approximations, at a precision that decides it exactly (log entry 30). -/

/-- Σ_k coef[k] * cis(2πk/65,536) / 2^den, k = 0..65,535. -/
structure Cyc where
  den : Nat
  coef : List Int
  deriving DecidableEq, Repr
/-- An integer. -/
def Cyc.ofInt (n : Int) : Cyc := ⟨0, n :: List.replicate 65535 0⟩
/-- A sum. -/
def Cyc.add (a b : Cyc) : Cyc :=
  let d := Nat.max a.den b.den
  ⟨d, a.coef.zipWith (fun x y => x * (2 ^ (d - a.den) : Nat) + y * (2 ^ (d - b.den) : Nat)) b.coef⟩
/-- A multiple by an integer over 2^q. -/
def Cyc.times (n : Int) (q : Nat) (a : Cyc) : Cyc := ⟨a.den + q, a.coef.map (· * n)⟩
/-- cis(ang(p)) * a (R194, R196). -/
def Cyc.turn (p : Nat) (a : Cyc) : Cyc := { a with coef := a.coef.rotateLeft (65536 - p % 65536) }
/-- cos(ang(p)) * a: the mean of the turns by p and by −p. -/
def Cyc.cos (p : Nat) (a : Cyc) : Cyc := ((a.turn p).add (a.turn (65536 - p % 65536))).times 1 1
/-- sin(ang(p)) * a: cos of ang(p) less a quarter turn. -/
def Cyc.sin (p : Nat) (a : Cyc) : Cyc := a.cos (p + 49152)
/-- mzi on two modes (R196), for the codes of θ and φ. -/
def mziMix (θ φ : Nat) (a b : Cyc) : Cyc × Cyc :=
  let x := a.turn φ
  ((x.cos θ).add ((b.sin θ).times (-1) 0), (x.sin θ).add (b.cos θ))
/-- A · v for an integer vector v whose element j stands at its mode (R196). -/
def imageApply (img : Nat) (v : List Int) : List Cyc :=
  throughMeshes mziMix (fun p => .times (Nat.min p 32768) 15) .turn img (v.map .ofInt)
/-- 2 cos(2π/65,536) to P fraction bits, below it by less than 2 units: from 2 cos(π/2) = 0 by 14 half angles. -/
def cosStep (P : Nat) : Int :=
  ((List.range 14).foldl (fun c _ => Nat.sqrt ((2 * 2 ^ P + c) * 2 ^ P)) 0 : Nat)
/-- The next n values of cos(2πk/65,536) to P fraction bits, a and b being the two before: by the recurrence of cos. -/
def cosines (P : Nat) (c : Int) : Nat → Int → Int → List Int
  | 0, _, _ => []
  | n + 1, a, b => a :: cosines P c n b (c * b / (2 ^ P : Nat) - a)
/-- 2^den * Re a as Σ r[k] cos(2πk/65,536), k below 16,384: these cosines are linearly independent over the rationals. -/
def Cyc.re (a : Cyc) : List Int :=
  let h := (a.coef.take 32768).zipWith (· - ·) (a.coef.drop 32768)
  h.headD 0 :: ((h.take 16384).drop 1).zipWith (· - ·) (h.drop 16385).reverse
/-- Σ r[k] cos(2πk/65,536) to P fraction bits, wrong by less than 2^33 * Σ |r[k]| units. -/
def approxRe (r : List Int) (P : Nat) : Int :=
  let c := cosStep P
  (r.zipWith (· * ·) (cosines P c 16384 (2 ^ P : Nat) (c / 2))).foldl (· + ·) 0
/-- n * 2^d, rounded down. -/
def shiftInt (n d : Int) : Int := if 0 ≤ d then n * (2 ^ d.toNat : Nat) else n / (2 ^ (-d).toNat : Nat)
/-- ⌊v * 2^d⌋ for the irrational number v = Σ r[k] cos(2πk/65,536) and Σ |r[k]| = `size`: the precision P doubles until the
floor is decided, at most n times. -/
def floorFrom (r : List Int) (size : Nat) (d : Int) : Nat → Nat → Int
  | 0, P => shiftInt (approxRe r P) (d - P)
  | n + 1, P =>
    let lo := shiftInt (approxRe r P - 2 ^ 33 * size) (d - P)
    if lo = shiftInt (approxRe r P + 2 ^ 33 * size) (d - P) then lo else floorFrom r size d n (2 * P)
/-- ⌊Re a * 2^d⌋, exactly. An irrational Re a * 2^d less an integer is an algebraic integer of degree at most 2^14 over a power
of two, and its conjugates are bounded by `size`: it is above 2^-(2^14 * (log2 size + |d| + 8)) in magnitude, so that
`floorFrom` decides before it has doubled its precision as often as it may (log entry 30). -/
def Cyc.floor (a : Cyc) (d : Int) : Int :=
  let r := a.re
  let d := d - a.den
  if (r.drop 1).all (· == 0) then shiftInt (r.headD 0) d
  else
    let size := r.foldl (fun t x => t + x.natAbs) 0
    floorFrom r size d (17 + Nat.log2 (Nat.log2 size + d.natAbs + 64)) 256
/-- ⌈Re a * 2^d⌉, exactly. -/
def Cyc.ceil (a : Cyc) (d : Int) : Int := -((a.times (-1) 0).floor d)
/-- mzi on two modes for the codes of a switch image (R209): bar or cross, with a sign. -/
def switchMix (θ φ : Nat) (a b : Int) : Int × Int :=
  let x := if φ = 0 then a else -a
  if θ = 0 then (x, b) else (-b, x)
/-- A · v for a switch image and an integer vector (R196, R209). -/
def switchApply (img : Nat) (v : List Int) : List Int :=
  throughMeshes switchMix (fun p a => if p = 0 then 0 else a) (fun p a => if p = 0 then a else -a) img v
/-- Element j of a vector stands at mode j XOR s (R196, R213). -/
def toModes {α : Type} (s : Nat) (d : α) (a : List α) : List α := (List.range 64).map fun m => a.getD (m ^^^ s) d

/-! ## Rows (R191, R192) -/

/-- The elements of a B8I row: −128 reads as −127 (R191). -/
def rowElem (b : Nat) : Int := let v := sext (b % 256) 8; if v = -128 then -127 else v
/-- Some element of the row is read as −128, so sat is set (R191): none of a block whose scale makes it NaN is (R124). -/
def rowSat (l : List Nat) (e0 e1 : Nat) : Bool :=
  (List.range 64).any fun j => l.getD j 0 % 256 == 128 && (if j < 32 then e0 else e1) != 0xFF
/-- The least k with n ≤ 2^k. -/
def clog2 (n : Nat) : Nat := if n ≤ 1 then 0 else Nat.log2 (n - 1) + 1
/-- row_exponent of R192: none for a NaN row; the exponent and whether it was clamped at 127. -/
def rowExponent (smax e0 e1 : Nat) : Option (Int × Bool) :=
  if e0 = 0xFF ∨ e1 = 0xFF then none
  else
    let p := smaxParts smax
    let x : Int := clog2 (p.1 * 1016) + p.2 + (Nat.max e0 e1 : Int) - 127 - 15
    if x < -127 then some (-127, false) else if 127 < x then some (127, true) else some (x, false)
/-- The quantised row, over 2^(min(e0, e1) - 127) (R191). -/
def rowInts (l : List Nat) (e0 e1 : Nat) : List Int :=
  (List.range 64).map fun j => rowElem (l.getD j 0) * (2 ^ ((if j < 32 then e0 else e1) - Nat.min e0 e1) : Nat)
/-- The power of two that stands between smax · A · (such a row), smax taken as an integer, and y / 2^x. -/
def rowScale (img e0 e1 : Nat) (x : Int) : Int := (smaxParts (imageSmax img)).2 + (Nat.min e0 e1 : Int) - 127 - x
/-- y_r / 2^x of every element of a row's exact product with a switch image, over 2^1000 (R196, R210). -/
def switchProduct (img : Nat) (l : List Nat) (e0 e1 : Nat) (x : Int) : List Int :=
  (switchApply img (toModes (imageSwz img) 0 (rowInts l e0 e1))).map fun c =>
    c * (smaxParts (imageSmax img)).1 * (2 ^ (rowScale img e0 e1 x + 1000).toNat : Nat)
/-- The floor and the ceiling of y_r / 2^x for every element of a row's exact product, y = W · a (R191, R196, R205). -/
def rowProduct (img : Nat) (l : List Nat) (e0 e1 : Nat) (x : Int) : List (Int × Int) :=
  (imageApply img (toModes (imageSwz img) 0 (rowInts l e0 e1))).map fun c =>
    let y := c.times (smaxParts (imageSmax img)).1 0
    (y.floor (rowScale img e0 e1 x), y.ceil (rowScale img e0 e1 x))
/-- The nearest integer to n / 2^1000, ties to even (R210). -/
def roundEven (n : Int) : Int :=
  let d : Int := (2 ^ 1000 : Nat)
  let q := n / d
  let r := n % d
  if 2 * r < d then q else if d < 2 * r then q + 1 else if q % 2 = 0 then q else q + 1
/-- Saturate a code at ±32,767 (R125). -/
def satCode (c : Int) : Int := if 32767 < c then 32767 else if c < -32767 then -32767 else c
/-- A code within the bound of R205 for ebc e of an element whose y / 2^x has the floor `lo` and the ceiling `hi`, before it
saturates, `pick` choosing among all of them: the bound is a whole number of steps. -/
def boundCode (e : Nat) (lo hi : Int) (pick : Nat) : Int :=
  let w : Int := (2 ^ (15 - Nat.min e 15) : Nat)
  hi - w + (pick % (lo - hi + 2 * w + 1).toNat : Nat)
/-- The codes of a row before they saturate: exact with a switch image (R210), else any within the bound of R205 for ebc e,
chosen by free values from number `free` on. -/
def rowRaw (img : Nat) (exact : Bool) (l : List Nat) (e0 e1 : Nat) (x : Int) (e free : Nat) : List Int :=
  if exact then (switchProduct img l e0 e1 x).map roundEven
  else ((rowProduct img l e0 e1 x).zipIdx).map fun n => boundCode e n.1.1 n.1.2 (Config.freeWord (free + n.2)).toNat
/-- A tag word (R125). -/
def tagWord (e : Nat) (mark split lowered : Bool) (x : Int) : Nat :=
  e % 16 * 2 ^ 12 + (if mark then 2 ^ 11 else 0) + (if split then 2 ^ 10 else 0) + (if lowered then 2 ^ 9 else 0)
    + wrap x 8

/-! ## The millwright (R201, R229) -/

/-- One step of fraction-free elimination of a symmetric matrix: none when a pivot shows that it is not positive
semidefinite; `prev` is the pivot before. -/
def psdStep (prev : Int) : List (List Int) → Option (Int × List (List Int))
  | [] => some (prev, [])
  | row :: rows =>
    match row with
    | [] => some (prev, [])
    | p :: rs =>
      if p < 0 then none
      else if p = 0 then (if rs.all (· == 0) then some (prev, rows.map (·.drop 1)) else none)
      else some (p, rows.map fun r => (r.drop 1).zipWith (fun x y => (p * x - r.headD 0 * y) / prev) rs)
/-- A symmetric integer matrix is positive semidefinite. -/
def isPsd : Nat → Int → List (List Int) → Bool
  | 0, _, _ => true
  | n + 1, prev, m =>
    match psdStep prev m with
    | none => false
    | some r => isPsd n r.1 r.2
/-- Every singular value of the integer matrix b is at most 2^k / 2^q: 4^k - 4^q * bᵀb is positive semidefinite. -/
def normAtMost (b : List (List Int)) (k q : Nat) : Bool :=
  let n := b.length
  let dot (i j : Nat) : Int := b.foldl (fun t r => t + r.getD i 0 * r.getD j 0) 0
  isPsd n 1 ((List.range n).map fun i => (List.range n).map fun j =>
    (if i = j then (4 ^ k : Nat) else 0) - (4 ^ q : Nat) * dot i j)
/-- ceil(log2 σ₁) of the matrix b * 2^e, b not zero (R229): at least the size of its largest entry, and at most 6 more. -/
def normLog (b : List (List Int)) (e : Int) : Int :=
  let top := b.foldl (fun m r => r.foldl (fun m x => Nat.max m x.natAbs) m) 0
  let k0 := clog2 top
  let k := ((List.range 8).find? fun i => normAtMost b (k0 + i) 0).getD 7
  k0 + k + e
/-- A block's elements, as integers over one power of two (R229); none with a NaN or an infinity. -/
def blockInts (f : Fmt) (v : FEnv) (l : List Nat) : Option (List Int × Int) :=
  let ns := l.map (f.read v)
  if ns.any fun n => match n with
    | .fin _ _ _ => false
    | _ => true then none
  else
    let lo := ns.foldl (fun m n => match n with
      | .fin _ a e => if a = 0 then m else min m e
      | _ => m) (400 : Int)
    some (ns.map fun n => match n with
      | .fin s a e => let x : Int := if a = 0 then 0 else a * (2 ^ (e - lo).toNat : Nat); if s then -x else x
      | _ => 0, lo)
/-- The n rows of 64 of a list. -/
def rowsOf64 : Nat → List Int → List (List Int)
  | 0, _ => []
  | n + 1, l => l.take 64 :: rowsOf64 n (l.drop 64)
/-- smax for a block (R229), as an F32: a power of two, or 1.0 for a block of zeros. Where that power lies outside the normal F32
numbers, which are what a valid image may hold (R197), the spec gives none: its exponent is a free value (DESIGN CHOICE, log entry 83). -/
def blockSmax (b : List (List Int)) (e : Int) : Nat :=
  if b.all fun r => r.all (· == 0) then 0x3F800000
  else
    let k := normLog b e + 127
    (if 1 ≤ k ∧ k ≤ 254 then k.toNat else 1 + Config.smaxExponent k % 254) * 2 ^ 23
/-- An image with these phases (R194): its attenuator codes at most 32,768, its header as R194 and R229 give it. -/
def buildImage (smax phases : Nat) : Nat :=
  let ps := codes16 8192 phases
  let ps := (List.range 8192).map fun k =>
    let p := ps.getD k 0
    if 4032 ≤ k ∧ k < 4096 then Nat.min p 32768 else p
  let body := ps.foldr (fun p n => p + 2 ^ 16 * n) 0
  let img := body * 2 ^ 512
  img + 0x474D4950 + 2 ^ 32 + 64 * 2 ^ 48 + imageCrc img * 2 ^ 64 + smax * 2 ^ 96
/-- The F32 of the least value at or above n * 2^-149. -/
def f32Up (n : Nat) : Nat :=
  let k := Nat.log2 n - 23
  Nat.min 0x7F800000 (k * 2 ^ 23 + (n + 2 ^ k - 1) / 2 ^ k)
/-- ⌈|B[r][j] − W[r][j]| * 2^149⌉ for a block's element b * 2^e, `w` being A[r][j] and `smax` that of the image (R196, R229). -/
def entryGap (smax : Nat) (w : Cyc) (b e : Int) : Nat :=
  let p := smaxParts smax
  let lo := min e p.2
  let g := (Cyc.ofInt (b * (2 ^ (e - lo).toNat : Nat))).add (w.times (-(p.1 * 2 ^ (p.2 - lo).toNat : Nat)) 0)
  (max (g.ceil (lo + 149)) (-(g.floor (lo + 149)))).toNat
/-- max |B[r][j] − W[r][j]| for a block b * 2^e and the matrix of an image with swizzle tag 0, rounded upward to F32 (R229). -/
def residual (img : Nat) (b : List (List Int)) (e : Int) : Nat :=
  let cols := (List.range 64).map fun j => imageApply img ((List.range 64).map fun m => if m = j then 1 else 0)
  f32Up ((List.range 64).foldl (fun t r => (List.range 64).foldl (fun t j =>
    Nat.max t (entryGap (imageSmax img) ((cols.getD j []).getD r (.ofInt 0)) ((b.getD r []).getD j 0) e)) t) 0)

end Sys2Proof.Machine
end

