-- ==== Sys2Proof/Machine/Reports.lean ====
section
/-! DEFINITION. The response ring of the management controller: responses, unsolicited reports and requests to the host
(R528 to R530). -/
namespace Sys2Proof.Machine

/-- Command ring (R528). -/
def cmdRing : Nat := 0
/-- Response ring (R528). -/
def respRing : Nat := 0x100000
/-- Entries of a ring (R529). -/
def ringLen : Nat := 16383
/-- Tail and head of a ring (R529). -/
def State.ringTail (s : State) (r : Nat) : Nat := s.rdN r 8 % ringLen
/-- Head of a ring. -/
def State.ringHead (s : State) (r : Nat) : Nat := s.rdN (r + 8) 8 % ringLen
/-- Key of entry i of a ring. -/
def ringEntry (r i : Nat) : Nat := r + 64 + 64 * i
/-- Put an entry on the response ring and raise MSI-X vector 0 of the PF; none when the ring is full (R448,
R529). -/
def State.ringPut (s : State) (e : BitVec 512) : Option State :=
  let t := s.ringTail respRing
  if (t + 1) % ringLen = s.ringHead respRing then none
  else
    let pf := tget s.funcs 0 Func.reset
    let s := (s.store (ringEntry respRing t) 64 e.toNat false).store respRing 8 ((t + 1) % ringLen) false
    some { s with funcs := tset s.funcs 0 { pf with msix := pf.msix ||| 1 } }
/-- The next 64-byte entry with tag 0xFFFF; the manual gives its other fields no contents (R529). -/
def State.openEntry (s : State) : BitVec 512 × State :=
  let v := (List.range 8).foldl (fun n i => n * 2 ^ 64 + (Config.freeWord (s.free + i)).toNat) 0
  (BitVec.ofNat 512 (v / 2 ^ 32 * 2 ^ 32 + 0xFFFF * 2 ^ 16 + v % 2 ^ 16), { s with free := s.free + 8 })
/-- Write an entry, or hold it for a ring that is full; `keep` says it is never lost (R529). -/
def State.putOrHold (s : State) (e : BitVec 512) (keep : Bool) : State :=
  match if s.mgmt.held.isEmpty then s.ringPut e else none with
  | some t => t
  | none =>
    if keep || s.mgmt.held.length < 4096 then s.mapMgmt fun m => { m with held := m.held ++ [e] }
    else (s.mapMgmt fun m => { m with dropped := Nat.min (m.dropped + 1) (2 ^ 32 - 1) }).inventory
/-- An unsolicited report (R529). -/
def State.report (s : State) : State := let r := s.openEntry; r.2.putOrHold r.1 false
/-- A request to the host for a unit in host-assisted mode (R529, R530). -/
def State.assist (s : State) (a : Assist) : State :=
  if s.mgmt.assists.any (·.2 == a) then s
  else
    let r := s.openEntry
    (r.2.mapMgmt fun m => { m with assists := m.assists ++ [(m.nextTag, a)], nextTag := m.nextTag + 1 }).putOrHold r.1 true
/-- A function is in host-assisted mode (R530). -/
def State.hostMode (s : State) (f : Nat) : Bool := s.mgmt.modes.getLsbD f
/-- The management controller's firmware runs: it has verified (R525, R533). -/
def State.fwRuns (s : State) : Bool := s.mgmt.running.isSome
/-- A bit of RDYMAP (R66). -/
def State.ready (s : State) (w b : Nat) : Bool := (s.rdy.toList.getD w 0).getLsbD b
/-- A bit of RDYMAP that a LAUNCH counts: one set in this cycle counts as 0 (R527). -/
def State.readySeen (s : State) (w b : Nat) : Bool := s.ready w b && !(s.rdyNew.toList.getD w 0).getLsbD b
/-- Put a bit into a map of units. -/
def mapBit (m : Vector Word 32) (w b : Nat) (v : Bool) : Vector Word 32 :=
  Vector.ofFn fun i => if i.val = w then setField m[i] b 1 (if v then 1 else 0) else m[i]
/-- Set or clear a bit of RDYMAP. -/
def State.setReady (s : State) (w b : Nat) (v : Bool) : State :=
  if s.ready w b = v then s
  else { s with rdy := mapBit s.rdy w b v, rdyNew := mapBit s.rdyNew w b v : State }.inventory
/-- RDYMAP word and bit of a cluster (R66). -/
def clusterBit (cl : Nat) : Nat × Nat := (2 + cl / 64, cl % 64)
/-- RDYMAP word and bit of the OMU of a cluster (R66). -/
def omuBit (cl : Nat) : Nat × Nat := (10 + cl / 64, cl % 64)
/-- A cluster is ready. -/
def State.clusterUp (s : State) (cl : Nat) : Bool := s.ready (clusterBit cl).1 (clusterBit cl).2
/-- An OMU is ready. -/
def State.omuUp (s : State) (cl : Nat) : Bool := s.ready (omuBit cl).1 (omuBit cl).2
/-- Port site whose comb light serves a field (R19). -/
def lightSite (f : Nat) : Nat :=
  if [0, 1, 4, 5, 6, 10, 11, 12].contains f then 0
  else if [2, 3, 7, 8, 9, 13, 14, 15].contains f then 1
  else if [16, 17, 18, 22, 23, 24, 28, 29].contains f then 2
  else 3

end Sys2Proof.Machine
end

