-- ==== Sys2Proof/Machine/Omu.lean ====
section
/-! DEFINITION. The OMU's command queue, banks and governor, the millwright, and the optical forms (R199 to R235, R545,
R546). -/
namespace Sys2Proof.Machine

/-! ## The unit -/

/-- Change the OMU of a cluster. -/
def State.mapOmu (s : State) (cl : Nat) (f : Omu → Omu) : State := s.mapClu cl fun c => { c with omu := f c.omu }
/-- The OMU of a cluster. -/
def State.omu (s : State) (cl : Nat) : Omu := (s.clu cl).omu
/-- GOVSTAT of a cluster (R65). -/
def State.govstat (s : State) (cl : Nat) : Word :=
  let o := s.omu cl
  if Config.omuPresent cl then
    w64 (o.trim % 256 * 2 ^ 20 + o.temp.toNat * 2 ^ 8 + o.ebcmax % 16 * 2 ^ 4 + o.gov % 4)
  else 0
/-- An OMU that meets R67's rule sets its bit. -/
def State.omuSetReady (s : State) (cl : Nat) : State :=
  if s.clusterUp cl && Config.omuPresent cl && (s.omu cl).locked then s.setReady (omuBit cl).1 (omuBit cl).2 true else s
/-- The governor offers another ebcmax: in LOCKED it moves to TRACKING, and the wait for LOCKED begins again (R202, R546). -/
def State.setEbc (s : State) (cl e : Nat) : State :=
  let o := s.omu cl
  if o.ebcmax = e then s
  else
    let s := s.mapOmu cl fun o => { o with ebcmax := e, changed := s.cycle, gov := if o.gov = 2 then 1 else o.gov }
    if o.gov = 2 then s.post (.governorLock cl) else s
/-- A probe count (R546): it may lower ebcmax. -/
def State.probed (s : State) (cl p : Nat) : State :=
  let s := s.mapOmu cl fun o => { o with pmin := Nat.min o.pmin p }
  if p < (s.omu cl).ebcmax then s.setEbc cl p else s

/-! ## The queue (R200) -/

/-- A command is a load. -/
def OptCmd.isLoad : OptCmd → Bool
  | .load _ _ _ _ => true
  | _ => false
/-- A command that those behind it do not wait for: a PHCRC without its result, or a pass that has streamed and whose last words
an ingress holds (R200, R489). -/
def OptCmd.aside : OptCmd → Bool
  | .phcrc _ _ _ none => true
  | .pass p => p.parked
  | _ => false
/-- The first command that is no load and that those behind it wait for, and whether a load stands before it. -/
def firstOther : List OptCmd → Bool → Option (OptCmd × Bool)
  | [], _ => none
  | x :: l, b => if x.isLoad then firstOther l true else if x.aside then firstOther l b else some (x, b)
/-- Take a command out of the queue. -/
def State.omuDrop (s : State) (cl : Nat) (x : OptCmd) : State := s.mapOmu cl fun o => { o with queue := o.queue.erase x }
/-- The word PHCRC writes (R231). -/
def Omu.crcWord (o : Omu) (shadow : Bool) : Word :=
  match if shadow then o.shadow else o.live with
  | some img => w64 (imageCrc img + 2 * 2 ^ 32)
  | none => if shadow && o.loading then w64 (2 ^ 32) else 0
/-- Every PHCRC with no load and no swap ahead of it takes its result: nothing ahead of it can change a bank any more (R231). -/
def Omu.capture (o : Omu) : List OptCmd → List OptCmd
  | [] => []
  | .load q w a r :: l => .load q w a r :: l
  | .swap w d :: l => .swap w d :: l
  | .pass p :: l => .pass p :: o.capture l
  | .prbe w d :: l => .prbe w d :: o.capture l
  | .phcrc w b d v :: l => .phcrc w b d (some (v.getD (o.crcWord b))) :: o.capture l
/-- Let the PHCRCs of a cluster's queue take their results. -/
def State.capture (s : State) (cl : Nat) : State := s.mapOmu cl fun o => { o with queue := o.capture o.queue }
/-- The first command that is not a load goes on: a pass or a probe to its next symbol; a swap once nothing is ahead of
it; a PHCRC at once, when it has its result (R200, R226, R228, R231). -/
def State.omuNext (s : State) (cl : Nat) : Nat → State
  | 0 => s
  | f + 1 =>
    match firstOther (s.omu cl).queue false with
    | none => s
    | some (.pass p, _) =>
      s.post (if p.probe then .probeSymbol cl else if p.rows ≤ p.row then .passComplete cl else .passRowWrite cl)
    | some (.prbe _ _, _) => s.post (.probeSymbol cl)
    | some (.swap _ _, false) => s.post (.phaseSwap cl)
    | some (.phcrc c b d (some v), _) =>
      let t := (s.omuDrop cl (.phcrc c b d (some v))).mapCtx c fun x => x.setX d v
      (t.finishHead c).omuNext cl f
    | some _ => s
/-- Let the queue go on. -/
def State.omuGo (s : State) (cl : Nat) : State := s.omuNext cl ((s.omu cl).queue.length + 1)
/-- A load begins when none is ahead of it (R199, R200). -/
def State.loadBegin (s : State) (cl : Nat) : State :=
  if (s.omu cl).loading || !(s.omu cl).queue.any OptCmd.isLoad then s
  else (s.mapOmu cl fun o => { o with loading := true, shadow := none }).post (.phaseLoadEnd cl)
/-- The bytes of runs of memory, as one little-endian number. -/
def State.readRuns (s : State) (rs : List (Nat × Nat)) : Nat :=
  rs.foldr (fun r n => s.rdN r.1 r.2 + n * 2 ^ (8 * r.2)) 0
/-- A unit reads runs of memory at their homes, which recall every copy first (R350). -/
def State.readHomes (s : State) (rs : List (Nat × Nat)) : State :=
  rs.foldl (fun s r => (List.range (divUp r.2 64)).foldl (fun (s : State) i => s.engRead (r.1 + 64 * i)) s) s
/-- PHASE_LOAD_END (R197, R199, R227). DESIGN CHOICE (log entry 82): the load reads its whole image here. -/
def execPhaseLoadEnd (cl : Nat) (s : State) : Out :=
  match (s.omu cl).queue.find? OptCmd.isLoad with
  | some (.load seq who asid rs) =>
    match rs.find? fun r => s.engReach who asid r.1 == .held with
    | some r => .next (s.heldBy r.1 (.phaseLoadEnd cl))
    | none =>
    let img := s.readRuns rs
    let ok := imageValid img && !(rs.any fun r => (s.badIn r.1 r.2).isSome)
    let t := (s.readHomes rs).mapOmu cl fun o => { o with loading := false, shadow := if ok then some img else none }
    let t := ((t.omuDrop cl (.load seq who asid rs)).capture cl).complete cl 1 seq (if ok then 0 else 7) .cluster who asid
    let t := if ok then t else t.raiseAsync who asid 0x3A (tokenOf 1 seq)
    let t := t.loadBegin cl
    .next (match firstOther (t.omu cl).queue false with
      | some (.swap _ _, false) | some (.phcrc _ _ _ _, _) => t.omuGo cl
      | _ => t)
  | _ => .next s
/-- PHASE_SWAP (R199, R228). -/
def execPhaseSwap (cl : Nat) (s : State) : Out :=
  match firstOther (s.omu cl).queue false with
  | some (.swap c d, false) =>
    let o := s.omu cl
    let t := s.omuDrop cl (.swap c d)
    .next (match o.shadow with
      | none => (takeTrap (t.capture cl) c 0x3A 0 (s.ctx c).pc false).omuGo cl
      | some img =>
        let t := (t.mapOmu cl fun o => { o with live := some img, shadow := o.live }).capture cl
        ((t.mapCtx c fun x => x.setX d (w64 (imageCrc img))).finishHead c).omuGo cl)
  | _ => .next s

/-! ## Passes (R204 to R210, R221 to R224) -/

/-- Bytes of an output row (R220). -/
def Pass.rowBytes (p : Pass) : Nat := if p.ofm = .f32 then 256 else 128
/-- Key of output row i. -/
def Pass.rowKey (p : Pass) (i : Nat) : Nat := p.dst + 64 * p.dstride * i
/-- Key of the tag word of row i. -/
def Pass.tagKey (p : Pass) (i : Nat) : Nat := p.tag + 8 * i
/-- Words of the data of a pass. -/
def Pass.dataWords (p : Pass) : List Nat :=
  (List.range p.rows).flatMap fun i => (List.range (p.rowBytes / 8)).map fun k => p.rowKey i + 8 * k
/-- Words of the tags of a pass. -/
def Pass.tagWords (p : Pass) : List Nat := if p.toff = 0 then [] else (List.range p.rows).map p.tagKey
/-- The number by which the range table knows a pass (R214). -/
def Pass.id (p : Pass) : Nat := p.seq.getD (2 ^ 32 + p.who)
/-- The pass may run again in split mode (R207). -/
def Pass.mayRerun (p : Pass) : Bool := p.run == 0 && p.pol == .split && p.form != .omxa
/-- ebc of the pass as its run stands (R206, R208). -/
def Pass.ebc (p : Pass) (e : Nat) : Nat :=
  if p.exact then 15 else if p.run = 0 then e else Nat.min 15 (Nat.min p.eHigh e + 3)
/-- Captured ebcmin. -/
def Pass.ebcmin (p : Pass) : Nat := ebcminOf p.fctx
/-- Replace the pass at the head of its kind in the queue. -/
def State.putPass (s : State) (cl : Nat) (p q : Pass) : State :=
  s.mapOmu cl fun o => { o with queue := o.queue.map fun x => if x = .pass p then .pass q else x }
/-- The pass that streams in a cluster. -/
def State.streaming (s : State) (cl : Nat) : Option Pass :=
  match firstOther (s.omu cl).queue false with
  | some (.pass p, _) => some p
  | _ => none
/-- Draw n free probe counts. -/
def State.drawProbes (s : State) : Nat → List Nat × State
  | 0 => ([], s)
  | n + 1 =>
    let r := s.freeNat 16
    let t := r.2.drawProbes n
    (r.1 :: t.1, t.2)
/-- Probes of one run of S rows (R204). -/
def probeCount (rows : Nat) : Nat := 2 + (rows - 1) / 1023
/-- The pass goes on after row or probe: a probe comes after each 1,023 rows and after the last (R204, R226). -/
def Pass.due (p : Pass) : Bool := p.row % 1023 == 0 || p.row == p.rows
/-- PROBE_SYMBOL for a pass (R204, R206, R546): the first probe of a run draws the run's counts. -/
def probePass (s : State) (cl : Nat) (p : Pass) : State :=
  let opening := p.row = 0
  let r := if opening then s.drawProbes (probeCount p.rows) else (p.probes, s)
  let c := r.1.headD 15
  let e0 := if opening then (s.omu cl).ebcmax else p.eNow
  let e := Nat.min e0 c
  let q := { p with probes := r.1.drop 1, probe := false, eNow := e,
                    eFin := if opening then r.1.foldl Nat.min e0 else p.eFin,
                    lowered := if p.ebc e < p.ebc e0 ∧ p.run ≠ 1 ∧ !opening then p.row else p.lowered }
  let s := (r.2.putPass cl p q).probed cl c
  if q.row = q.rows then s.post (.passComplete cl) else s.post (.passRowWrite cl)
/-- PROBE_SYMBOL (R204, R230). DESIGN CHOICE (log entry 84): EVAL of a PRBE on an EMPTY bank is a free value. -/
def execProbeSymbol (cl : Nat) (s : State) : Out :=
  match firstOther (s.omu cl).queue false with
  | some (.pass p, _) => if p.probe then .next (probePass s cl p) else .next s
  | some (.prbe c d, _) =>
    let t := s.omuDrop cl (.prbe c d)
    if (s.omu cl).live.isNone then
      let r := t.freeNat (2 ^ 64)
      .next ((takeTrap r.2 c 0x3A (w64 r.1) (s.ctx c).pc false).omuGo cl)
    else
      let r := t.freeNat 16
      let t := r.2.probed cl r.1
      let e := (t.omu cl).ebcmax
      let v := r.1 + e * 16 + if r.1 < (s.omu cl).ebcmax then 256 else 0
      .next (((t.mapCtx c fun x => x.setX d (w64 v)).finishHead c).omuGo cl)
  | _ => .next s
/-- 256-byte blocks, by key / 256, that n bytes at a key touch (R214). -/
def blocksOf (a n : Nat) : List Nat := (List.range ((a + n - 1) / 256 + 1 - a / 256)).map (a / 256 + ·)
/-- Key of tile row r, and of its scale bytes (R212). -/
def Pass.srcKey (p : Pass) (r : Nat) : Nat := p.tile + 64 + 64 * p.rstride * r
/-- Key of the scales of tile row r. -/
def Pass.scaleKey (p : Pass) (r : Nat) : Nat := p.tile + 64 * p.scoff + 2 * r
/-- Blocks that rows from i on still need. -/
def Pass.needs (p : Pass) (i : Nat) : List Nat :=
  ((List.range (p.rows - i)).flatMap fun k =>
    blocksOf (p.srcKey (p.row0 + i + k)) 64 ++ blocksOf (p.scaleKey (p.row0 + i + k)) 2).foldl kput []
/-- The range-table entry of a pass keeps the blocks it still needs (R214): a form that waits at the port for a block to free goes on
(R303). -/
def State.setRange (s : State) (cl : Nat) (p : Pass) (bs : List Nat) : State :=
  State.serveCore (n := spadCore p.tile) <| s.mapClu cl fun c =>
    { c with ranges := if bs.isEmpty then c.ranges.filter (·.1 != p.id)
                       else c.ranges.map fun r => if r.1 = p.id then (p.id, bs) else r }
/-- Reach a row or a tag word of a pass: one that goes to the scratchpad of its own core is performed on the old column while that core
moves, which waits for it (R233, R488). -/
def State.passReach (s : State) (p : Pass) (a : Nat) : Reach :=
  if isSpad a && spadCore a == coreOf p.who && s.remapState (spadCore a) == 2 then .ok else s.engReach p.who p.asid a
/-- One output element: its bits and flags (R193, R222). -/
def passElem (p : Pass) (i r : Nat) (nan : Bool) (c x : Int) (old : Nat) : Fp :=
  let f := if p.ofm = .bf16 then fmtBF16 else fmtF32
  let v := envOf p.fctx
  let num : Num := if nan then .nan false else .fin (c < 0) c.natAbs x
  if p.ofm = .ph16 then (wrap c 16, 0)
  else if p.form = .omxa then
    let d := f.read v old
    (nanOf f [d, num]).getD (f.sum v (64 * i + r) d num)
  else f.deliver v (64 * i + r) num
/-- The scales of row i of a pass (R212). -/
def State.rowScales (s : State) (p : Pass) (i : Nat) : Nat × Nat :=
  ((s.byte (p.scaleKey (p.row0 + i))).toNat, (s.byte (p.scaleKey (p.row0 + i) + 1)).toNat)
/-- The codes of a row, their flags, and the state that has used its free values (R191, R192, R205, R208). Element j of a row
stands at byte j XOR swz (R213). A pass that has ended early writes codes 0, with the row's exponent (R203). -/
def State.rowCodes (s : State) (p : Pass) (i e : Nat) : Option Int × List Int × Word × State :=
  let a := p.srcKey (p.row0 + i)
  let l := (List.range 64).map fun j => (s.byte (a + (j ^^^ imageSwz p.image))).toNat
  let k := s.rowScales p i
  let sat := if !p.aborted && rowSat l k.1 k.2 then fSat else 0
  match rowExponent (imageSmax p.image) k.1 k.2 with
  | none => (none, List.replicate 64 0, sat ||| fNv, s)
  | some (x, clamped) =>
    let raw := if p.aborted then List.replicate 64 0 else rowRaw p.image p.exact l k.1 k.2 x e s.free
    let clipped := clamped || raw.any fun c => satCode c != c
    (some x, raw.map satCode, sat ||| (if clipped then fSat else 0), { s with free := s.free + 64 })
/-- Write row i of a pass with these codes (R193, R221): each word becomes full. DESIGN CHOICE (log entry 90): OMXA reads a row and
writes its sum in one step, so no store comes between the two (R235). -/
def State.writeRow (s : State) (p : Pass) (i : Nat) (x : Option Int) (cs : List Int) (bad : Bool) : State × Word :=
  let w := if p.ofm = .f32 then 4 else 2
  let a := p.rowKey i
  let es := (cs.zipIdx).map fun c =>
    passElem p i c.2 x.isNone c.1 (x.getD (-128)) (if p.form = .omxa then s.rdN (a + w * c.2) w else 0)
  let bad := bad || (p.form == .omxa && (s.badIn a p.rowBytes).isSome)
  let v := elemBytes (8 * w) (es.map (·.1))
  let s := (List.range (p.rowBytes / 8)).foldl (fun (s : State) k =>
    s.engWrite p.who .cluster (a + 8 * k) 8 (v / 2 ^ (64 * k) % 2 ^ 64) bad) s
  (s, es.foldl (fun f e => f ||| e.2) 0)
/-- Row i of a pass gets what has been read for it: its exponent, its codes, and whether its source was poisoned (R222). -/
def State.passRow (s : State) (p : Pass) (i : Nat) (x : Option Int) (cs : List Int) (bad : Bool) : State × Pass :=
  let w := s.writeRow p i x cs bad
  (w.1, { p with exps := p.exps ++ [(i, x.getD (-128))], flags := p.flags ||| w.2 })
/-- PASS_ROW_WRITE (R190, R222): one row. The high vectors of a split pass only stream. A row whose destination holds blocks that
another pass has yet to read waits (R214). A row that the ingress of a moving core holds has been read all the same (R488, R489).
DESIGN CHOICE (log entry 69): of a pass that SPLIT may run again, every block is kept until its first run is over. -/
def execPassRowWrite (cl : Nat) (s : State) : Out :=
  match s.streaming cl with
  | none => .next s
  | some p =>
    if p.probe || p.rows ≤ p.row then .next s
    else
      let i := p.row
      let go (s : State) (q : Pass) : Out :=
        let q := { q with row := i + 1 }
        let q := { q with probe := !q.aborted && q.due }
        let s := if p.mayRerun || p.run == 1 then s else s.setRange cl p (p.needs (i + 1))
        .next ((s.putPass cl p q).post
          (if q.probe then .probeSymbol cl else if q.rows ≤ q.row then .passComplete cl else .passRowWrite cl))
      if p.run = 1 then go s p
      else
        let r := s.passReach p p.dst
        if r == .ok && s.blocked p.id (p.rowKey i) p.rowBytes then .next (s.again (.passRowWrite cl))
        else
          let c := s.rowCodes p i (p.ebc p.eFin)
          let bad := ((s.badIn (p.srcKey (p.row0 + i)) 64).isSome || (s.badIn (p.scaleKey (p.row0 + i)) 2).isSome) && !p.aborted
          let q := { p with flags := p.flags ||| c.2.2.1 }
          match r with
          | .lost e => go s { p with status := e }
          | .held => go (c.2.2.2.countRedir cl 0 p.id p.dst) { q with late := p.late ++ [(i, c.1, c.2.1, bad)] }
          | .ok =>
            let w := c.2.2.2.passRow q i c.1 c.2.1 bad
            go w.1 w.2
/-- Rows that were held are written once their place can be reached: of the list, those that are left (R489). -/
def State.passLate (s : State) (cl : Nat) (p : Pass) : State × Pass :=
  match if p.late.isEmpty then .held else s.passReach p p.dst with
  | .held => (s, p)
  | .lost e => (s.putPass cl p { p with late := [], status := e }, { p with late := [], status := e })
  | .ok =>
    let r := p.late.foldl (fun (t : State × Pass × List (Nat × Option Int × List Int × Bool)) x =>
      if t.1.blocked p.id (p.rowKey x.1) p.rowBytes then (t.1, t.2.1, t.2.2 ++ [x])
      else
        let w := t.1.passRow t.2.1 x.1 x.2.1 x.2.2.1 x.2.2.2
        (w.1, w.2, t.2.2)) (s, p, [])
    let q := { r.2.1 with late := r.2.2 }
    (r.1.putPass cl p q, q)
/-- The tags of a pass can be written now (R214, R256, R444). -/
def State.tagsWait (s : State) (p : Pass) : Bool :=
  p.toff != 0 && (s.passReach p p.tag == .held || s.blocked p.id p.tag (8 * p.rows))
/-- Write the tags of a pass, each word full (R206, R222). -/
def State.writeTags (s : State) (p : Pass) (e : Nat) (all : Bool) : State :=
  if p.toff = 0 then s
  else
    match s.passReach p p.tag with
    | .lost _ => s
    | _ =>
      p.exps.foldl (fun (s : State) t =>
        s.engWrite p.who .cluster (p.tagKey t.1) 8 (tagWord e p.mark p.split (all || t.1 < p.lowered) t.2) false) s
/-- A pass ends (R222 to R224, R232): its flags are merged, and its token completes or its OMXW writes its result. `trap` is an
asynchronous cause, or EBC_LOW. -/
def State.passEnd (s : State) (cl : Nat) (p : Pass) (e : Nat) (all : Bool) (trap : Option Nat) : State :=
  let s := (s.mapOmu cl fun o => { o with queue := o.queue.erase (.pass p) }).setRange cl p []
  let s := s.mergeFlags p.who p.asid p.flags
  match p.seq with
  | some n =>
    let s := s.complete cl 0 n (if trap.isSome then 7 else p.status) .cluster p.who p.asid
    match trap with
    | some c => s.raiseAsync p.who p.asid c (tokenOf 0 n)
    | none => s
  | none =>
    let v := e + (if p.mark then 16 else 0) + (if p.split then 32 else 0) + (if all || 0 < p.lowered then 64 else 0)
    let s := (s.mapCtx p.who fun c => c.setX p.d (w64 v)).reply p.who
    match trap with
    | some 0x3B => takeTrap s p.who 0x3B (w64 (e + 16 * p.ebcmin)) (s.ctx p.who).pc false
    | some c => let r := s.freeNat (2 ^ 64); r.2.raiseAsync p.who p.asid c (w64 r.1)
    | none => s
/-- A pass that has streamed and that nothing holds is over, or runs again in split mode (R206, R207, R222, R223). -/
def State.passOver (s : State) (cl : Nat) (p : Pass) : State :=
  if p.aborted then ((s.writeTags p 0 true).passEnd cl p 0 true (some 0x38)).omuGo cl
  else
    let e := p.ebc p.eNow
    let low := e < p.ebcmin
    if p.run = 1 then
      let q := { p with run := 2, row := 0, probe := true, eHigh := p.eNow }
      (s.putPass cl p q).post (.probeSymbol cl)
    else if p.mayRerun && low then
      let t := p.dataWords.foldl (fun (s : State) w => (s.setEmpty w).serveAll w) s
      let q := { p with run := 1, row := 0, probe := true, split := true, exps := [], flags := p.flags &&& fEbclow,
                        lowered := 0 }
      (t.putPass cl p q).post (.probeSymbol cl)
    else
      let mark := p.mark || (low && p.pol != .trap)
      let q := { p with mark := mark, flags := p.flags ||| (if mark then fEbclow else 0) }
      let t := (s.putPass cl p q).writeTags q e false
      (t.passEnd cl q e false (if low && p.pol == .trap then some 0x3B else none)).omuGo cl
/-- A pass has streamed, and its last words are held: the queue goes on without it, unless it is to run again (R200, R207). -/
def State.passAside (s : State) (cl : Nat) (p : Pass) : State :=
  if p.parked || p.run == 1 || p.mayRerun && !p.aborted && decide (p.ebc p.eNow < p.ebcmin) then s
  else (s.putPass cl p { p with parked := true }).omuGo cl
/-- The passes that wait for what an ingress holds. -/
def State.parkedPasses (s : State) (cl : Nat) : List Pass :=
  (s.omu cl).queue.filterMap fun x =>
    match x with
    | .pass p => if p.parked then some p else none
    | _ => none
/-- PASS_COMPLETE (R206, R207, R222, R223): the rows that were held are written; the policy acts on the final ebc; the tags are
written; or the pass runs again in split mode. DESIGN CHOICE (log entry 69): flags that the first run of such a pass has raised are
not merged. A pass that UNLOCKED has ended gets ebc 0 and lowered 1 in every tag, and raises OMU_UNAVAIL (R203); DESIGN CHOICE
(log entry 68): its policy does not act. -/
def execPassComplete (cl : Nat) (s : State) : Out :=
  let ended := (s.streaming cl).filter fun p => !p.probe && p.row == p.rows
  let waits (p : Pass) : Bool := p.late.isEmpty && !s.tagsWait p
  match (s.parkedPasses cl).find? fun p => waits p || s.passReach p p.dst != .held && !p.late.isEmpty, ended with
  | none, none => .next (if (s.parkedPasses cl).isEmpty then s else s.again (.passComplete cl))
  | some p, _ | none, some p =>
    let r := s.passLate cl p
    if !r.2.late.isEmpty then .next ((r.1.heldBy p.dst (.passComplete cl)).passAside cl r.2)
    else if r.1.tagsWait r.2 then .next (((r.1.countRedir cl 0 p.id p.tag).heldBy p.tag (.passComplete cl)).passAside cl r.2)
    else .next (r.1.passOver cl r.2)

/-! ## The governor (R202, R203, R545, R546) -/

/-- A pass ends because the governor enters UNLOCKED (R203): its rows to come are written as codes 0; of a pass that runs again
in split mode, those that no split run has written. -/
def Pass.abort (p : Pass) : Pass :=
  let p := if p.run = 1 && !p.parked then { p with row := 0, exps := [], run := 2 } else p
  if p.parked then p else { p with aborted := true, probe := false }
/-- An event by which the queue of a cluster's OMU goes on. -/
def omuEvent (cl : Nat) : Instr → Bool
  | .passRowWrite k | .probeSymbol k | .passComplete k | .phaseLoadEnd k | .phaseSwap k => k == cl
  | _ => false
/-- The governor enters UNLOCKED (R67, R199, R203): its bit goes, the banks are empty, passes and loads end. DESIGN CHOICE (log
entry 68): a pass that is accepted and does not yet stream ends in the same way as one that streams. -/
def State.omuUnlock (s : State) (cl : Nat) : State :=
  let s := s.setReady (omuBit cl).1 (omuBit cl).2 false
  let q := (s.omu cl).queue
  let s := s.mapOmu cl fun o =>
    { o with gov := 0, ebcmax := 0, locked := false, live := none, shadow := none, loading := false, calibrating := false,
             queue := (o.queue.filter fun x => !x.isLoad).map fun
               | .pass p => .pass p.abort
               | .phcrc w b d _ => .phcrc w b d none
               | x => x }
  let s : State := { s with agenda := s.agenda.filter (!omuEvent cl ·) }
  let s := q.foldl (fun (s : State) x =>
    match x with
    | .load n who asid _ => (s.complete cl 1 n 7 .cluster who asid).raiseAsync who asid 0x3A (tokenOf 1 n)
    | _ => s) s
  let s := (s.parkedPasses cl).foldl (fun (s : State) _ => s.post (.passComplete cl)) s
  (s.capture cl).omuGo cl
/-- CALIBRATION_START (R545). -/
def execCalibrationStart (cl : Nat) (s : State) : Out :=
  let o := s.omu cl
  if o.gov = 0 && !o.calibrating && s.fwRuns && s.light.getLsbD (lightSite (cl / 16)) && Config.omuPresent cl then
    let s := s.mapOmu cl fun o => { o with calibrating := true, calData := false }
    .next (if s.hostMode 1 then s.assist (.calibrate cl) else s.post (.calibrationComplete cl))
  else .next s
/-- CALIBRATION_COMPLETE (R202, R545, R546): in host-assisted mode once the host's data has arrived. DESIGN CHOICE (log entry
70): the trim headroom starts at a free value above 0 and stays as it is until DRIFT is entered. -/
def execCalibrationComplete (cl : Nat) (s : State) : Out :=
  let o := s.omu cl
  if o.calibrating && s.light.getLsbD (lightSite (cl / 16)) && (!s.mgmt.assists.any (·.2 == .calibrate cl) || o.calData) then
    let r := s.freeNat 16
    let t := r.2.freeNat 256
    let s := t.2.mapOmu cl fun o => { o with gov := 1, calibrating := false, ebcmax := r.1, trim := Nat.max 1 t.1, changed := s.cycle,
                                             calEnd := s.cycle, pmin := 15, loopAt := s.cycle }
    let s := (s.post (.governorLock cl)).post (.temperatureLoop cl)
    .next (if s.mgmt.calInterval = 0 then s else s.post (.recalibrationStart cl))
  else .next s
/-- GOVERNOR_LOCK (R67, R202). -/
def execGovernorLock (cl : Nat) (s : State) : Out :=
  let o := s.omu cl
  if o.gov ≠ 1 then .next s
  else if s.cycle < o.changed + 2 ^ 20 then .next (s.post (.governorLock cl))
  else .next ((s.mapOmu cl fun o => { o with gov := 2, locked := true }).omuSetReady cl)
/-- GOVERNOR_ENTER_DRIFT (R202): the trim headroom has reached 0. -/
def execGovernorEnterDrift (cl : Nat) (s : State) : Out :=
  let o := s.omu cl
  if o.gov = 1 ∨ o.gov = 2 then
    .next (((s.mapOmu cl fun o => { o with gov := 3, trim := 0, drifting := s.cycle }).report).post (.recalibrationStart cl))
  else .next s
/-- GOVERNOR_LEAVE_DRIFT (R202): the trim headroom is above 16 again. DESIGN CHOICE (log entry 70): its value is free, and the
count of cycles with ebcmax unchanged begins again here, without those spent in DRIFT. -/
def execGovernorLeaveDrift (cl : Nat) (s : State) : Out :=
  if (s.omu cl).gov ≠ 3 then .next s
  else
    let r := s.freeNat 239
    .next ((r.2.mapOmu cl fun o => { o with gov := 1, trim := 17 + r.1, changed := s.cycle }).post (.governorLock cl))
/-- RECALIBRATION_START (R545): the calibration interval has elapsed, or DRIFT has lasted 2^26 cycles. DESIGN CHOICE (log entry
70): the interval counts cycles. -/
def execRecalibrationStart (cl : Nat) (s : State) : Out :=
  let o := s.omu cl
  let interval := s.mgmt.calInterval ≠ 0 && o.gov != 0
  if (interval && o.calEnd + s.mgmt.calInterval ≤ s.cycle) || (o.gov == 3 && o.drifting + 2 ^ 26 ≤ s.cycle) then
    .next ((s.omuUnlock cl).post (.calibrationStart cl))
  else if interval || o.gov == 3 then .next (s.post (.recalibrationStart cl))
  else .next s
/-- TEMPERATURE_LOOP (R546): every 2^16 cycles, from the mesh's ceiling, which is not published, and the lowest probe. -/
def execTemperatureLoop (cl : Nat) (s : State) : Out :=
  let o := s.omu cl
  if o.gov = 0 then .next s
  else if s.cycle < o.loopAt + 2 ^ 16 then .next (s.post (.temperatureLoop cl))
  else
    let r := s.freeNat 16
    let t := r.2.freeNat 4096
    let s := (t.2.setEbc cl (Nat.min r.1 o.pmin)).mapOmu cl fun o =>
      { o with pmin := 15, loopAt := s.cycle, temp := BitVec.ofNat 12 t.1 }
    .next (s.post (.temperatureLoop cl))

/-! ## Acceptance (R218, R225, R227 to R231) -/

/-- The bytes of a range of ordinary addresses, as a load or store of the asker would be checked. -/
def State.vaRange (s : State) (q : Asker) (fail : Option WalkFail) (acc : Acc) (va n : Nat) : Res :=
  if inWindow va then s.windowAt q acc va n
  else if inWindow (va + n - 1) then .trap 1 0x11 va
  else if 2 ^ 56 ≤ va then .trap 4 0x14 va
  else s.engRange q fail acc va n
/-- A precise trap at the waiting head of a context. -/
def headTrap (s : State) (c cause : Nat) (val : Word) : State := takeTrap s c cause val (s.ctx c).pc false
/-- An optical head leaves the list of those that wait, and goes on with acceptance's answer. -/
def State.leaveQueue (s : State) (c : Nat) : State :=
  s.mapOmu (clusterOf (coreOf c)) fun o => { o with waiting := o.waiting.filter (·.1 != c) }
/-- A head refused at acceptance. -/
def optTrap (s : State) (c cause : Nat) (val : Word) : Out := .next (headTrap (s.leaveQueue c) c cause val)
/-- A head accepted, to complete later: its context stays out of the rotation. -/
def State.holdHead (s : State) (c : Nat) : State := (s.leaveQueue c).mapCtx c fun x => { x with why := some .await }
/-- Whether a head has to wait for one that reaches the queue before it (R200, R231): a load and a PHCRC for a swap, a load or a
PHCRC; a swap for every one; a pass or a probe for all but loads and PHCRCs. -/
def behind (l : List (Nat × OptForm × Nat)) (c : Nat) (form : OptForm) : Bool :=
  (l.takeWhile (·.1 != c)).any fun x =>
    match form with
    | .phsw => true
    | .phld | .phcrc _ => match x.2.1 with | .phld | .phsw | .phcrc _ => true | _ => false
    | _ => match x.2.1 with | .phld | .phcrc _ => false | _ => true
/-- A head joins those that go to the queue, by the cycle of its issue and then by the number of its core (R200). -/
def joinQueue (x : Nat × OptForm × Nat) : List (Nat × OptForm × Nat) → List (Nat × OptForm × Nat)
  | [] => [x]
  | y :: l => if y.2.2 = x.2.2 ∧ coreOf x.1 < coreOf y.1 then x :: y :: l else y :: joinQueue x l
/-- A head has reached its queue: two cycles after its issue (R218). -/
def Omu.reached (o : Omu) (c now : Nat) : Bool := o.waiting.all fun x => x.1 != c || decide (x.2.2 + 2 ≤ now)
/-- The queue holds a swap that has not settled (R218). -/
def Omu.swapping (o : Omu) : Bool := o.queue.any fun
  | .swap _ _ => true
  | _ => false
/-- Put a command on the queue, and begin what can begin. -/
def State.enqueue (s : State) (cl : Nat) (x : OptCmd) : State :=
  let idle := (firstOther (s.omu cl).queue false).isNone
  let s := ((s.mapOmu cl fun o => { o with queue := o.queue ++ [x] }).capture cl).loadBegin cl
  if idle && !x.isLoad then s.omuGo cl else s
/-- OMU_UNAVAIL of R225, order 1. -/
def State.omuAway (s : State) (cl : Nat) : Bool := !Config.omuPresent cl || !s.omuUp cl || (s.omu cl).gov == 0
/-- The result of the checks of a pass (R225, orders 3 to 8). -/
inductive PassCheck where
  | trap (cause : Nat) (val : Word)
  | wait
  | ok (p : Pass)
/-- An address is 64-byte aligned and in the local window. -/
def okTileAddr (a : Nat) : Bool := a % 64 == 0 && inWindow a && !badWindow a
/-- The pieces of a pass's tile, rows and tags: keys and lengths (R212, R220). -/
def Pass.srcRuns (p : Pass) : List (Nat × Nat) :=
  (p.tile, 16) :: ((List.range p.rows).map fun i => (p.srcKey (p.row0 + i), 64)) ++ [(p.scaleKey p.row0, 2 * p.rows)]
/-- The rows a pass writes. -/
def Pass.dstRuns (p : Pass) : List (Nat × Nat) := (List.range p.rows).map fun i => (p.rowKey i, p.rowBytes)
/-- The tags a pass writes. -/
def Pass.tagRuns (p : Pass) : List (Nat × Nat) := if p.toff = 0 then [] else [(p.tagKey 0, 8 * p.rows)]
/-- The first key of runs that leave the scratchpad of the key `base` (R225). -/
def leaves (base : Nat) (l : List (Nat × Nat)) : Option Nat :=
  let e := base - spadOff base + 2 ^ 19
  (l.find? fun r => decide (e < r.1 + r.2)).map fun r => Nat.max e r.1
/-- The first key at which two lists of runs meet (R225). -/
def meets (a b : List (Nat × Nat)) : Option Nat :=
  let l := a.flatMap fun x => b.filterMap fun y => if overlaps x.1 x.2 y.1 y.2 then some (Nat.max x.1 y.1) else none
  l.foldl (fun m k => some (Nat.min k (m.getD k))) none
/-- The regions of a pass break order 5 of R225 at this address: `b` and `d` are its tile's and its destination's. The rows
that the tile has come first, then a region that leaves its scratchpad, then one that meets another. -/
def Pass.misplaced (p : Pass) (nrows b d : Nat) : Option Nat :=
  let src (k : Nat) : Nat := b + k - p.tile
  let out (k : Nat) : Nat := d + k - p.dst
  let tag (k : Nat) : Nat := d + 64 * p.toff + k - p.tag
  if nrows < p.row0 + p.rows then some (src (p.srcKey (Nat.max p.row0 nrows)))
  else
    ((leaves p.tile p.srcRuns).map src) <|> ((leaves p.dst p.dstRuns).map out) <|> ((leaves p.tag p.tagRuns).map tag)
      <|> ((meets p.dstRuns p.srcRuns).map out) <|> ((meets p.tagRuns p.srcRuns).map tag)
      <|> ((meets p.tagRuns p.dstRuns).map tag)
/-- Orders 3 to 8 of R225. -/
def State.checkPass (s : State) (c : Nat) (r : OptReq) : PassCheck :=
  let n := coreOf c
  let cl := clusterOf n
  let o := s.omu cl
  let b := r.b.toNat
  let d := r.c.toNat
  let e := r.e.toNat
  let toff := bits e 63 48
  let dstride := bits e 47 32
  let rows := bits e 31 16
  let row0 := bits e 15 0
  let tag := d + 64 * toff
  let least := if r.ofm = .f32 then 4 else 2
  if !okTileAddr b then .trap 0x3C r.b
  else if !okTileAddr d then .trap 0x3C r.c
  else if toff ≠ 0 ∧ !okTileAddr tag then .trap 0x3C (w64 tag)
  else if rows = 0 ∨ dstride < least ∨ (r.ofm = .ph16 ∧ toff = 0) then .trap 0x3C r.e
  else
    let tile := windowKey n b
    let dst := windowKey n d
    let h := s.rdN tile 16
    let gone (k : Nat) : Option Nat :=
      if s.remapState (spadCore k) = 0 then some 0x11 else if s.remapState (spadCore k) = 3 then some 0x12 else none
    let tkey := windowKey n tag
    let p : Pass :=
      { seq := if r.form = .omxw then none else some (s.seqNext cl 0), who := c, asid := (s.ctx c).asid.toNat, form := r.form, pol := r.pol, ofm := r.ofm,
        d := r.d, fctx := r.fctx, tile := tile, row0 := row0, rows := rows, rstride := bits h 63 48, scoff := bits h 47 32,
        dst := dst, dstride := dstride, toff := toff, tag := tkey, image := o.live.getD 0, exact := isSwitch (o.live.getD 0),
        run := 0, row := 0, probe := true, probes := [], eNow := 0, eFin := 0, eHigh := 0, mark := false, split := false,
        lowered := 0, exps := [], flags := 0, status := 0, aborted := false, late := [], parked := false }
    if (gone tile).isNone ∧ (s.badIn tile 16).isSome then .trap 0x1A r.b
    else if (gone tile).isNone ∧ (bits h 127 80 ≠ 0 ∨ bits h 31 16 ≠ 0 ∨ bits h 11 6 ≠ 0 ∨ bits h 15 12 ≠ 0 ∨
        bits h 79 64 = 0 ∨ bits h 63 48 = 0) then .trap 0x3D r.b
    else
      match gone tile, p.misplaced (bits h 79 64) b d, gone dst, (if toff = 0 then none else gone tkey) with
      | some x, _, _, _ => .trap x r.b
      | none, some v, _, _ => .trap 0x3C (w64 v)
      | none, none, some x, _ => .trap x r.c
      | none, none, none, some x => .trap x (w64 tag)
      | none, none, none, none =>
        if o.live.isNone then .trap 0x3A 0
        else if bits h 5 0 ≠ imageSwz p.image then .trap 0x3E (w64 (bits h 5 0 + imageSwz p.image * 2 ^ 8))
        else
          let low := o.ebcmax < p.ebcmin
          if r.pol = .trap ∧ low then .trap 0x3B (w64 (o.ebcmax + 16 * p.ebcmin))
          else
            let p := if r.pol = .split ∧ low then { p with run := 1, split := true } else p
            .ok (if r.pol = .mark ∧ low then { p with mark := true, flags := fEbclow } else p)
/-- A pass is accepted (R214, R219, R221): its data and tag words become empty, and it takes a range-table entry. -/
def acceptPass (s : State) (c : Nat) (r : OptReq) (p : Pass) : State :=
  let cl := clusterOf (coreOf c)
  let s := (p.dataWords ++ p.tagWords).foldl (fun (s : State) w => (s.setEmpty w).serveAll w) s
  let s := s.mapClu cl fun k => { k with ranges := k.ranges ++ [(p.id, p.needs 0)] }
  let s :=
    if r.form = .omxw then
      (s.leaveQueue c).mapCtx c fun x => { x.stepTo x.nextPc with why := some .longOp }
    else (s.leaveQueue c).acceptCmd c 0 r.d
  s.enqueue cl (.pass p)
/-- The words that a number makes of runs of bytes, by key. -/
def runWords : List (Nat × Nat) → Nat → List (Nat × Nat)
  | [], _ => []
  | (a, n) :: rs, v => ((List.range (n / 8)).map fun k => (a + 8 * k, v / 2 ^ (64 * k) % 2 ^ 64)) ++ runWords rs (v / 2 ^ (8 * n))
/-- Words of an image under construction are undefined: each takes a free value (R229). What they held is kept, by key, beside that
value. A block that an OMU has yet to read keeps its bytes (R215). -/
def State.scribble (s : State) (ws : List Nat) : List (Nat × Nat × Nat) × State :=
  ws.foldl (fun (t : List (Nat × Nat × Nat) × State) w =>
    if t.2.inRange w then t
    else
      let v := (Config.freeWord t.2.free).toNat
      (t.1 ++ [(w, v, t.2.rdN w 8)], ({ t.2 with free := t.2.free + 1 } : State).wrN w 8 v)) ([], s)
/-- Nothing is written at the image: a word that acceptance made undefined is what it was, unless something has stored there since
(R229). -/
def State.unscribble (s : State) (old : List (Nat × Nat × Nat)) : State :=
  old.foldl (fun (s : State) x => if s.rdN x.1 8 = x.2.1 then s.wrN x.1 8 x.2.2 else s) s
/-- Acceptance of an optical head that has not been withdrawn (R218). -/
def acceptOptical (c : Nat) (r : OptReq) (s : State) : Out :=
  let cl := clusterOf (coreOf c)
  let o := s.omu cl
  let again := s.again (.opticalAcceptance c r)
  let miss (va : Nat) (acc : Acc) : Out :=
    .next (((s.leaveQueue c).openWalk (s.asker c) c va acc).mapCtx c fun x => { x with why := some .parked, sent := false })
  match r.form with
    | .phwr bf =>
      let q := s.asker c
      let n := if bf then 8192 else 16384
      let src := s.vaRange q (s.ctx c).walkFail .load r.b.toNat n
      let dst := s.vaRange q (s.ctx c).walkFail .store r.c.toNat (imageLen + 8)
      if 17 ≤ (s.clu cl).mill.length then .next again
      else if r.b.toNat % 64 ≠ 0 then optTrap s c 0x3A r.b
      else if r.c.toNat % 64 ≠ 0 then optTrap s c 0x3A r.c
      else
        match joinRes src dst with
        | .miss va => miss va (missAcc [(src, .load), (dst, .store)])
        | .held | .saved => .next again
        | .trap _ cause va => optTrap s c cause (w64 va)
        | .ok _ =>
          let runs : Res → List (Nat × Nat) := fun
            | .ok ps => runsOf ps
            | _ => []
          let u := s.scribble ((runWords (runs dst) 0).map (·.1))
          let x : Decomp := { seq := s.seqNext cl 2, who := c, asid := (s.ctx c).asid.toNat, bf := bf, fctx := r.fctx,
                              block := runs src, image := runs dst, out := [], old := u.1 }
          let t := ((u.2.leaveQueue c).acceptCmd c 2 r.d).mapClu cl fun k => { k with mill := k.mill ++ [x] }
          .next (if (s.clu cl).mill.isEmpty then
              (if t.hostMode 0 then t.assist (.decompose cl) else t.post (.decompositionComplete cl)) else t)
    | form =>
      if !o.reached c s.cycle || behind o.waiting c form || o.swapping then .next again
      else
        match form with
        | .phcrc b =>
          if !Config.omuPresent cl then optTrap s c 0x38 (s.govstat cl)
          else .next ((s.holdHead c).enqueue cl (.phcrc c b r.d none))
        | .prbe =>
          if s.omuAway cl then optTrap s c 0x38 (s.govstat cl)
          else .next ((s.holdHead c).enqueue cl (.prbe c r.d))
        | .phsw =>
          if s.omuAway cl then optTrap s c 0x38 (s.govstat cl)
          else .next ((s.holdHead c).enqueue cl (.swap c r.d))
        | .phld =>
          if s.omuAway cl then optTrap s c 0x38 (s.govstat cl)
          else if r.b.toNat % 64 ≠ 0 then optTrap s c 0x3A r.b
          else
            match s.vaRange (s.asker c) (s.ctx c).walkFail .load r.b.toNat imageLen with
            | .miss va => miss va .load
            | .held | .saved => .next again
            | .trap _ cause va => optTrap s c cause (w64 va)
            | .ok ps =>
              let seq := s.seqNext cl 1
              .next (((s.leaveQueue c).acceptCmd c 1 r.d).enqueue cl (.load seq c (s.ctx c).asid.toNat (runsOf ps)))
        | _ =>
          if s.omuAway cl then optTrap s c 0x38 (s.govstat cl)
          else if o.gov = 3 then optTrap s c 0x39 (s.govstat cl)
          else
            match s.checkPass c r with
            | .trap cause val => optTrap s c cause val
            | .wait => .next again
            | .ok p => if 8 ≤ (s.clu cl).ranges.length then .next again else .next (acceptPass s c r p)
/-- OPTICAL_ACCEPTANCE (R218): a head that has been withdrawn is not accepted. -/
def execOpticalAcceptance (c : Nat) (r : OptReq) (s : State) : Out :=
  if (s.ctx c).why ≠ some .accept then .next (s.leaveQueue c) else answered c (acceptOptical c r s)

/-! ## The millwright (R201, R229) -/

/-- The first request of a millwright changes. -/
def State.mapMill (s : State) (cl : Nat) (f : Decomp → Decomp) : State :=
  s.mapClu cl fun c => { c with mill := match c.mill with | x :: l => f x :: l | [] => [] }
/-- The millwright turns to its next request, or passes it to the host (R229, R530). -/
def State.millNext (s : State) (cl : Nat) : State :=
  if (s.clu cl).mill.isEmpty then s
  else if s.hostMode 0 then s.assist (.decompose cl) else s.post (.decompositionComplete cl)
/-- The image of a millwright's first request is formed: what stands there is undefined until its words are written (R229). -/
def State.millOut (s : State) (cl : Nat) (ws : List (Nat × Nat)) : State :=
  (((s.scribble (ws.map (·.1))).2).mapMill cl fun x => { x with out := ws }).post (.decompositionComplete cl)
/-- A millwright's first request fails, and writes nothing (R229, R530). -/
def State.millFail (s : State) (cl : Nat) (x : Decomp) (status : Nat) : State :=
  ((s.unscribble x.old).mapClu cl fun c => { c with mill := c.mill.drop 1 }).complete cl 2 x.seq status .cluster x.who x.asid
/-- Elements of a block, in order. -/
def blockElems (bf : Bool) (v : Nat) : List Nat :=
  let w := if bf then 16 else 32
  (List.range 4096).map fun i => v / 2 ^ (w * i) % 2 ^ w
/-- The millwright writes one word of its image or of the report word, in no fixed order; with the last one the request is
done. -/
def State.millWrite (s : State) (cl : Nat) (x : Decomp) : Out :=
  let r := s.freeNat (Nat.max 1 x.out.length)
  let stop (t : State) (e : Nat) : Out :=
    .next (((t.mapClu cl fun c => { c with mill := c.mill.drop 1 }).complete cl 2 x.seq e .cluster x.who x.asid).millNext cl)
  match x.out[r.1]? with
  | none => stop s 0
  | some w =>
    match s.engReach x.who x.asid w.1 with
    | .lost e => stop s e
    | .held => .next (r.2.heldBy w.1 (.decompositionComplete cl))
    | .ok =>
      if s.inRange w.1 then .next (r.2.again (.decompositionComplete cl))
      else
        let t := r.2.engWrite x.who .cluster w.1 8 w.2 false
        let out := x.out.eraseIdx r.1
        if out.isEmpty then stop t 0 else .next ((t.mapMill cl fun x => { x with out := out }).post (.decompositionComplete cl))
/-- DECOMPOSITION_COMPLETE (R201, R229): the block is read and its image is formed; the bytes of the image are undefined until its
words have been written, one by one. A NaN or infinite element raises PHASE_IMAGE and writes nothing. -/
def execDecompositionComplete (cl : Nat) (s : State) : Out :=
  match (s.clu cl).mill with
  | [] => .next s
  | x :: _ =>
    if !x.out.isEmpty then s.millWrite cl x
    else
      match (x.block ++ x.image).find? fun r => s.engReach x.who x.asid r.1 == .held with
      | some r => .next (s.heldBy r.1 (.decompositionComplete cl))
      | none =>
        let s := s.readHomes x.block
        let f := if x.bf then fmtBF16 else fmtF32
        let bs := blockElems x.bf (s.readRuns x.block)
        let lost := (x.block ++ x.image).findSome? fun r =>
          match s.engReach x.who x.asid r.1 with
          | .lost e => some e
          | _ => none
        let poisoned := x.block.any fun r => (s.badIn r.1 r.2).isSome
        match lost, poisoned, blockInts f (envOf x.fctx) bs with
        | some e, _, _ => .next ((s.millFail cl x e).millNext cl)
        | none, true, _ => .next ((s.millFail cl x 3).millNext cl)
        | none, false, none => .next (((s.millFail cl x 7).raiseAsync x.who x.asid 0x3A (tokenOf 2 x.seq)).millNext cl)
        | none, false, some (ints, e) =>
          let b := rowsOf64 64 ints
          let img := buildImage (blockSmax b e) (Config.decompose bs x.fctx)
          .next (s.millOut cl (runWords x.image (img + residual img b e * 2 ^ (8 * imageLen))))

/-! ## The forms (R216 to R218) -/

/-- An optical head goes to its cluster's queue (R218). The stores of its context before it have been performed (R214). -/
def optical (s : State) (form : OptForm) (pol : Pol) (ofm : Ofm) (d : XR) (b c e : XS) : Out :=
  s.needNext (s.drained fun (t : State) =>
    let r : OptReq := { form := form, pol := pol, ofm := ofm, d := d, b := s.me.getS b, c := s.me.getS c, e := s.me.getS e,
                        fctx := s.me.fctx }
    let t := match form with
      | .phwr _ => t
      | _ => t.mapOmu (clusterOf s.myCore) fun (o : Omu) =>
        { o with waiting := joinQueue (s.cur, form, s.cycle) (o.waiting.filter fun x => x.1 != s.cur) }
    .next ((t.park .accept).post (.opticalAcceptance s.cur r)))
/-- The output format of a pass (R217): with .dfmt the one FCTX.fmto names, where the form accepts it. -/
def passOfm (form : OptForm) (ofm : Ofm) (fctx : Word) : Option Ofm :=
  let o : Option Ofm := match ofm with
    | .dfmt =>
      let c := bits fctx.toNat 19 16
      if c = 4 then some .f32 else if c = 5 then some .bf16 else if c = 9 then some .ph16 else none
    | o => some o
  match o with
  | some .ph16 => if form = .omxa then none else some .ph16
  | o => o
/-- A pass form (R217, R222): a format it does not accept is illegal (R126); a converting pass rounds (R45). -/
def passForm (s : State) (form : OptForm) (pol : Pol) (ofm : Ofm) (d : XR) (b c e : XS) : Out :=
  match passOfm form ofm s.me.fctx with
  | none => .next (s.trapHead 0x01)
  | some .ph16 => optical s form pol .ph16 d b c e
  | some o => s.needRmode (optical s form pol o d b c e)
/-- PHLD (R227). -/
def execPhld (d : XR) (b : XS) (s : State) : Out := optical s .phld .mark .ph16 d b (.x 0) (.x 0)
/-- PHSW (R228). -/
def execPhsw (d : XR) (s : State) : Out := optical s .phsw .mark .ph16 d (.x 0) (.x 0) (.x 0)
/-- PHWR (R229). -/
def execPhwr (bf : Bool) (d : XR) (b c : XS) (s : State) : Out :=
  s.needRmode (optical s (.phwr bf) .mark .ph16 d b c (.x 0))
/-- OMX (R222). -/
def execOmx (pol : Pol) (ofm : Ofm) (d : XR) (b c e : XS) (s : State) : Out := passForm s .omx pol ofm d b c e
/-- OMXA (R222). -/
def execOmxa (pol : Pol) (ofm : Ofm) (d : XR) (b c e : XS) (s : State) : Out := passForm s .omxa pol ofm d b c e
/-- OMXW (R224). -/
def execOmxw (pol : Pol) (ofm : Ofm) (d : XR) (b c e : XS) (s : State) : Out := passForm s .omxw pol ofm d b c e
/-- PRBE (R230). -/
def execPrbe (d : XR) (s : State) : Out := optical s .prbe .mark .ph16 d (.x 0) (.x 0) (.x 0)
/-- PHCRC (R231). -/
def execPhcrc (shadow : Bool) (d : XR) (s : State) : Out := optical s (.phcrc shadow) .mark .ph16 d (.x 0) (.x 0) (.x 0)

end Sys2Proof.Machine
end

