-- ==== Sys2Proof/Machine/Freeze.lean ====
section
/-! DEFINITION. Stopping the contexts of a core (R92, R437, R442, R488), the images of contexts (R438), and the save
and the resumption of a core (R442 to R445). -/
namespace Sys2Proof.Machine

/-! ## Stopping contexts (R92, R442) -/

/-- Contexts a stop takes: every one but the miller, or every one (R442, R488). -/
def stopSet (n stop : Nat) : List Nat :=
  ((List.range 16).filter fun j => 1 < stop || j != 0).map fun j => 16 * n + j
/-- A context leaves the chains of the walks it waits for (R420). -/
def State.leaveWalks (s : State) (c : Nat) : State :=
  { s with clus := s.clus.map fun (p : Nat × Cluster) =>
      (p.1, { p.2 with walks := p.2.walks.map (fun w => { w with waiters := w.waiters.filter (· != c) }),
                       walkWait := p.2.walkWait.filter (· != c) }) }
/-- A context has a wait record at a home (R333). -/
def State.sleeps (s : State) (c : Nat) : Bool := s.sleepers.any fun q => q.who == c && !q.saved
/-- A pending event completes a half-taken task of context c (R401). -/
def loadsTask (c : Nat) : Instr → Bool
  | .loadTask j _ _ => j == c
  | _ => false
/-- A stop is to take a context where it stands (R92): a head that waits for accesses under way takes effect first (R140, R256). -/
def State.take (s : State) (c : Nat) : State :=
  s.mapCtx c fun x => { x with taken := true, held := x.held || (x.why.map Why.firm).getD false }
/-- A context out of the rotation is taken where it stands (R92, R442). A wait is withdrawn, and its head issues again
(R233, R304, R328, R342, R366, R401, R420); a sleeper keeps its wait record (R334); a long op goes on to its result, after
which its context issues no further head (R140, R242, R312); a form that a moving core holds is not
withdrawn (R256), and a half-taken task is kept (R401). -/
def State.stopCtx (s : State) (c : Nat) : State :=
  let x := s.ctx c
  if x.run ≠ .running then s
  else
    match x.why with
    | none => if s.cycle < x.eligFrom then s.take c else s
    | some .frozen => s
    | some .longOp =>
      if x.pendf.isSome then
        ({ s with agenda := s.agenda.filter (!loadsTask c ·) }.leaveWalks c).freezeCtx c
      else s.take c
    | some (.stored _) | some (.buffer _) | some (.order _ _) | some (.cells _) | some .moving | some .await => s.take c
    | some (.fullEmpty _) => if x.held then s.take c else (s.withdraw c).freezeCtx c
    | some .sleep => if s.sleeps c then s else if x.held then s.take c else (s.withdraw c).freezeCtx c
    | some .parked => (s.leaveWalks c).freezeCtx c
    | some _ => (s.withdraw c).freezeCtx c
/-- A context has stopped. -/
def State.isStopped (s : State) (c : Nat) : Bool :=
  let x := s.ctx c
  x.run != .running || x.why == some .frozen || (x.why == some .sleep && s.sleeps c)
/-- Begin to stop the contexts of a core. -/
def State.stopCore (s : State) (n stop : Nat) : State :=
  (stopSet n stop).foldl (fun s c => s.stopCtx c) (s.mapCore n fun k => { k with stop := stop })
/-- An accepted pass, PHSW, PRBE or PHCRC of a context of core n is in the queue of its OMU (R233). -/
def State.optBusy (s : State) (n : Nat) : Bool :=
  (s.clu (clusterOf n)).omu.queue.any fun x =>
    match x with
    | .load _ _ _ _ => false
    | .swap w _ | .prbe w _ | .phcrc w _ _ _ => coreOf w == n
    | .pass p => coreOf p.who == n
/-- Every context of a stop has stopped, with its store buffer drained and its optical commands done: the state then. -/
def State.stopped (s : State) (n stop : Nat) : Option State :=
  let cs := stopSet n stop
  if cs.all s.isStopped && !s.optBusy n then
    cs.foldl (fun (r : Option State) c => r.bind fun t => t.drainAll c) (some s)
  else none
/-- A context that stood frozen runs on: a half-taken task is loaded first (R401). -/
def State.resumeCtx (s : State) (c : Nat) : State :=
  let x := s.ctx c
  if x.why ≠ some .frozen then s
  else
    match x.pendf with
    | some f => (s.mapCtx c fun x => { x with why := some .longOp }).post (.loadTask c f.toNat 0)
    | none => s.wake c
/-- The contexts of a core run on. -/
def State.resumeCore (s : State) (n : Nat) : State :=
  (stopSet n 2).foldl (fun s c => (s.mapCtx c fun x => { x with taken := false }).resumeCtx c) (s.mapCore n fun k => { k with stop := 0 })
/-- Contexts whose access is held for a core look again (R380, R444). -/
def State.wakeMoving (s : State) : State :=
  (s.ctxs.filter fun p => p.2.why == some .moving || p.2.why == some .saved).foldl (fun (s : State) (p : Nat × Ctx) => s.wake p.1) s

/-! ## Context images (R438, R439) -/

/-- The run code of a context (R438): one whose half-taken task is still to be loaded keeps the code it is to take after that (R439),
and one whose wait has ended stands in its wait record until its head takes the result (R334). -/
def State.runCode (s : State) (c : Nat) : Nat :=
  match (s.ctx c).run with
  | .halted => 0
  | .held => 2
  | .running =>
    match (s.ctx c).resume with
    | some r => r
    | none => if (s.ctx c).why = some .sleep || s.sleepers.any fun q => q.who == c && q.saved then 3 else 1
/-- The image of a context, with the pc given; the slots of x0 and k0 are 0 (R438). -/
def State.image (s : State) (c pc run : Nat) (x : Ctx) : Nat :=
  let at_ (b : Nat) (v : Word) : Nat := v.toNat * 2 ^ b
  let st := run + (if x.shadow then 8 else 0) + (if x.pendf.isSome then 16 else 0) + (if x.intv then 32 else 0)
  (List.range 32).foldl (fun n i => n + (if i = 0 then 0 else (x.x.toList.getD i 0).toNat) * 2 ^ (64 * i)) 0
    + (List.range 16).foldl (fun n i => n + (x.v.toList.getD i 0).toNat * 2 ^ (2048 + 256 * i)) 0
    + (List.range 8).foldl (fun n i => n + (if i = 0 then 0 else (x.k.toList.getD i 0).toNat) * 2 ^ (6144 + 64 * i)) 0
    + pc * 2 ^ 6656 + st * 2 ^ 6720
    + at_ 6784 x.fctxB + at_ 6848 x.scptrB + at_ 6912 x.fctxS + at_ 6976 x.scptrS
    + at_ 7040 x.fstat + at_ 7104 x.taskf + at_ 7168 x.priv
    + at_ 7232 x.epc + at_ 7296 x.ecause + at_ 7360 x.eval + at_ 7424 x.tvec + at_ 7488 x.asid
    + at_ 7552 x.ctxid + at_ 7616 x.lcore + at_ 7680 x.stage + at_ 7744 (x.pendf.getD 0)
/-- Reserved bits of FCTX, SCPTR, FSTAT, TASKF, PRIV, EPC, ECAUSE, TVEC and ASID (R44 to R60). -/
def rsvFctx : Word := 0xFFF00000
/-- Reserved bits of SCPTR and TASKF. -/
def rsvFrame : Word := 0xFF0000000000003F
/-- Reserved bits of FSTAT. -/
def rsvFstat : Word := 0xFFFFFFFFFFFFFE00
/-- Reserved bits of PRIV. -/
def rsvPriv : Word := 0xFFFFFFFFFFFFFFFC
/-- Reserved bits of EPC. -/
def rsvEpc : Word := 0xFF00000000000001
/-- Reserved bits of ECAUSE. -/
def rsvEcause : Word := 0xFFFFFFFFFFFF0300
/-- Reserved bits of TVEC. -/
def rsvTvec : Word := 0xFF00000000000000
/-- Reserved bits of ASID. -/
def rsvAsid : Word := 0xFFFFFFFFFFFF0000
/-- The word of an image at a bit. -/
def imgWord (v b : Nat) : Word := BitVec.ofNat 64 (v / 2 ^ b)
/-- CTXLD accepts an image (R439). -/
def imageOk (v : Nat) : Bool :=
  let clear (b : Nat) (m : Word) : Bool := imgWord v b &&& m == 0
  v / 2 ^ 7808 == 0 && clear 6720 (~~~0x3B#64) && goodPc (imgWord v 6656).toNat
    && clear 6784 rsvFctx && clear 6848 rsvFrame && clear 6912 rsvFctx && clear 6976 rsvFrame
    && clear 7040 rsvFstat && clear 7104 rsvFrame && clear 7168 rsvPriv
    && clear 7232 rsvEpc && clear 7296 rsvEcause && clear 7424 rsvTvec && clear 7488 rsvAsid
/-- TVEC as a context holds it: in context 0 its dlg reads 0 (R58). -/
def tvecFor (c : Nat) (v : Word) : Word := if ctxNo c = 0 then v &&& ~~~1#64 else v
/-- A context with the fields of an image (R439): all but STAGE, LCORE and CTXID. -/
def Ctx.load (x : Ctx) (c v : Nat) : Ctx :=
  { x with
    x := Vector.ofFn fun i => if i.val = 0 then 0 else imgWord v (64 * i.val)
    v := Vector.ofFn fun i => BitVec.ofNat 256 (v / 2 ^ (2048 + 256 * i.val))
    k := Vector.ofFn fun i => if i.val = 0 then 0 else BitVec.ofNat 32 (v / 2 ^ (6144 + 64 * i.val))
    pc := imgWord v 6656, fctxB := imgWord v 6784, scptrB := imgWord v 6848, fctxS := imgWord v 6912
    scptrS := imgWord v 6976, shadow := v.testBit 6723, fstat := imgWord v 7040, taskf := imgWord v 7104
    priv := imgWord v 7168, epc := imgWord v 7232, ecause := imgWord v 7296, eval := imgWord v 7360
    tvec := tvecFor c (imgWord v 7424), asid := imgWord v 7488, intv := v.testBit 6725, badSys := []
    pendf := if v.testBit 6724 then some (imgWord v 7744) else none
    line := none, entry := none, got := none, gotTags := [], walkFail := none, bad := 0, reads := [], armed := none, latent := [],
    recBad := false, late := none, fill := none, undo := none, sent := false, resume := none }
/-- Load an image into context c, and give it its run state (R439). A context of a restoring core also gets what its
asynchronous operations left for it (R50, R233). A half-taken task is loaded first, whatever the run state (R439). -/
def State.loadImage (s : State) (c v : Nat) : State :=
  let n := coreOf c
  let k := (s.core n).saved
  let late := (k.map fun k => tget k.asyncs (ctxNo c) []).getD []
  let fl := (k.map fun k => tget k.flags (ctxNo c) 0).getD 0
  let s := s.mapSaved n fun k => { k with asyncs := tset k.asyncs (ctxNo c) [], flags := tset k.flags (ctxNo c) 0 }
  let s := s.mapCore n fun k => { k with pending := k.pending.filter fun p => p.preempt || p.src != ctxNo c }
  let s := s.mapCtx c fun x =>
    let x := (x.load c v).flag fl
    { x with asyncs := x.asyncs ++ late, why := none, eligFrom := s.cycle + 1 }
  let code := bits v 6722 6720
  match (s.ctx c).pendf with
  | some f =>
    (s.mapCtx c fun x => { x with run := .running, why := some .longOp, resume := if code = 1 then none else some code }).post
      (.loadTask c f.toNat 0)
  | none => s.assumeRun c code

/-! ## Saving a core (R442, R443) -/

/-- The full-bit map of a core's scratchpad (R443). -/
def State.fullMap (s : State) (n : Nat) : Nat :=
  (s.empties.filter fun w => isSpad w && spadCore w == n).foldl (fun m w => m - 2 ^ (spadOff w / 8)) (2 ^ 65536 - 1)
/-- Move the messages of a core's queues to its message area, in order (R442). -/
def State.queuesToArea (s : State) (n : Nat) : State :=
  (s.queued n).foldl (fun (s : State) m => match (s.core n).saved with | some k => s.areaPut n k m | none => s) (s.dropQueue n)
/-- A context of a core that freezes has the result of a wait that its head is yet to take: its wait record keeps it (R334). -/
def State.keepGot (s : State) (c : Nat) : State :=
  match (s.ctx c).got with
  | none => s
  | some v =>
    let loc := ((s.ctx c).gotTags.head?.map (·.key)).getD 0
    let q : Sleeper := ⟨c, true, false, loc, true, some v⟩
    ({ s with sleepers := s.sleepers ++ [q] } : State).mapCtx c Ctx.tookGot
/-- The core is FROZEN: its queue moves to the message area, the device writes the core record and the full-bit map, and
PREEMPT joins the miller's list (R442). The wait records of its sleepers go to the second bank. -/
def State.freezeDone (s : State) (n : Nat) (k : Saved) : State :=
  let c := s.core n
  let regs := [c.dqbase, c.dqtop, c.dqbot, c.dqspill] ++ c.sgmask.toList
  let rec0 := (List.range 8).foldl (fun v i => v + (regs.getD i 0).toNat * 2 ^ (64 * i)) 0
  let map := s.fullMap n
  let s := s.blockStore k 16384 rec0 false
  let s := s.blockStore k 16448 (countWord c.rho.toNat c.nblk 0) false
  let s := (List.range 128).foldl (fun (s : State) i => s.blockStore k (16512 + 64 * i) (map / 2 ^ (512 * i) % 2 ^ 512) false) s
  let s := (s.queuesToArea n).mapSaved n fun k => { k with sgmask := c.sgmask, cleared := Vector.replicate 4 0 }
  let bank (q : Sleeper) : Sleeper := if coreOf q.who == n && !q.saved then { q with saved := true } else q
  let s : State := { s with sleepers := s.sleepers.map bank }
  let s := (stopSet n 1).foldl (fun (s : State) c => s.keepGot c) s
  s.mapCore n fun c =>
    { c with mode := .frozen, refill := none, pending := c.pending ++ [⟨0, 0x0A, BitVec.ofNat 64 k.block, false, true⟩] }
/-- A freeze goes on: done once every context other than the miller has stopped (R442). -/
def State.freezeStep (s : State) (n : Nat) : State :=
  match (s.core n).saved with
  | none => s
  | some k =>
    match s.stopped n 1 with
    | some t => (t.freezeDone n k).post (.millerTakeTrap n)
    | none => s.post (.millerTakeTrap n)
/-- A PRMT or RSME that waits for a core ends with a status (R445). -/
def State.answerSaver (s : State) (n status : Nat) : State :=
  match (s.core n).saved.bind (·.waiter) with
  | some w => ((s.mapSaved n fun k => { k with waiter := none }).replyX w.1 w.2 (BitVec.ofNat 64 status) false).reply w.1
  | none => s
/-- The core is SAVED (R442): every context is halted, with the traps it has yet to take kept, and the PRMT ends. -/
def State.saveDone (s : State) (n : Nat) : State :=
  let s := s.queuesToArea n
  let s := (stopSet n 2).foldl (fun (s : State) c =>
    let l := (s.ctx c).asyncs
    let s := s.mapSaved n fun k => { k with asyncs := tset k.asyncs (ctxNo c) (tget k.asyncs (ctxNo c) [] ++ l) }
    s.mapCtx c fun x => { x with run := .halted, why := none, line := none, armed := none, asyncs := [], got := none, gotTags := [],
                                 walkFail := none, entry := none, pendf := none, resume := none, taken := false, held := false,
                                 sent := false, latent := [], recBad := false, undo := none, fill := none, reaping := false,
                                 late := none }) s
  let s := s.mapSaved n fun k => { k with launch := (s.core n).launch, redCount := (s.core n).redCount }
  (s.mapCore n fun k => { k with mode := .saved, launch := none, pending := [], redOrder := [], stop := 0 }).answerSaver n 0

/-! ## Restoring a core (R445) -/

/-- A word of a save block that an RSME reads, and the block's entry key. -/
def State.blockWord (s : State) (q : Asker) (va : Nat) : Word :=
  match s.blockKey q va with
  | some a => s.rd64 a
  | none => 0
/-- CTXID of a context (R25, R51). -/
def State.ctxidOf (s : State) (c : Nat) : Word := BitVec.ofNat 64 (s.globalCtx c)
/-- LCORE of core n at rank r of m, served by column p (R52). -/
def lcoreOf (n r m p : Nat) : Word := BitVec.ofNat 64 (m % 2 ^ 16 * 2 ^ 32 + r % 2 ^ 16 * 2 ^ 16 + p % 64 * 2 ^ 8 + n % 64)
/-- The fields of a launch record (R368). -/
def recField (r : BitVec 2048) (hi lo : Nat) : Nat := bits r.toNat hi lo
/-- STAGE of rank r (R54, R369). -/
def stageOf (r : BitVec 2048) (rank : Nat) : Word :=
  let last := recField r 1301 1296
  BitVec.ofNat 64 (last * 64 + Nat.min last (rank / recField r 1295 1280))
/-- The window bindings of a launch (R307, R368). -/
def windowsOf (r : BitVec 2048) : Vector (Word × Nat) 4 :=
  Vector.ofFn fun i => (BitVec.ofNat 64 (recField r (128 * i.val + 575) (128 * i.val + 512)),
    recField r (128 * i.val + 592) (128 * i.val + 576))
/-- Drop and log the messages that stand in a core's queues (R70). -/
def State.dropQueues (s : State) (n : Nat) : State :=
  (s.queued n).foldl (fun (s : State) m => s.logDiscard n (s.intended m)) (s.dropQueue n)
/-- Give the contexts of a core the identity its launch gives them (R51, R52, R54, R369). -/
def State.identify (s : State) (n l : Nat) : State :=
  let x := s.launch l
  let rank := (x.cores.findIdx? (· == n)).getD 0
  (stopSet n 2).foldl (fun (s : State) c => s.mapCtx c fun y =>
    { y with ctxid := s.ctxidOf c, lcore := lcoreOf n rank x.cores.length (s.core n).pcol, stage := stageOf x.record rank }) s
/-- The core becomes RESTORING: its core record is restored and image 0 is loaded into the miller; from now on
the block is read as RSME's issuer reads it (R445). -/
def State.restore (s : State) (q : Asker) (n : Nat) (k : Saved) (img : Nat) (w : Nat × XR) : State :=
  let wd (i : Nat) : Word := s.blockWord q (k.block + 16384 + 8 * i)
  let cw := (wd 8).toNat
  let s := s.dropQueues n
  let s := s.mapCore n fun c =>
    { c with mode := .restoring, launch := k.launch, dqbase := wd 0 &&& 0x7F800, dqtop := wd 1 &&& 0xFFFFFFFF,
             dqbot := wd 2 &&& 0xFFFFFFFF, dqspill := wd 3 &&& 0x00FFFFFFFFFFF000,
             sgmask := Vector.ofFn fun i => wd (4 + i.val) &&& ~~~k.cleared[i], badSys := [], rho := BitVec.ofNat 32 (bits cw 31 0), nblk := bits cw 34 32,
             refill := none, pending := [], redOrder := [], stop := 0, redCount := k.redCount, saved := some { k with waiter := some w, issuer := w.1, asid := q.asid, sys := q.sys },
             lastAsid := some k.workAsid }
  let s :=
    match k.launch with
    | some l => (s.mapCore n fun c => { c with windows := windowsOf (s.launch l).record }).identify n l
    | none => s
  s.loadImage (16 * n) img
/-- Apply a full-bit map to a core's scratchpad. -/
def State.applyMap (s : State) (n map : Nat) : State :=
  let s := { s with empties := s.empties.filter fun w => !(isSpad w && spadCore w == n) }
  (List.range 65536).foldl (fun (s : State) w => if map.testBit w then s else s.setEmpty (spadKey n (8 * w))) s
/-- A message of a saved core as its entry of the message area holds it: what the area does not hold is kept beside it (R443, R445). -/
def State.areaTake (s : State) (k : Saved) (i : Nat) (m : Msg) : Msg :=
  if 1024 ≤ i then m
  else
    match s.blockKey k.asker (k.block + 589824 + 64 * i) with
    | none => m
    | some a =>
      let w := s.rdN (a + 32) 8
      { m with payload := BitVec.ofNat 256 (s.rdN a 32), status := bits w 33 32, host := w.testBit 30, ch := bits w 26 25,
               addr := bits w 24 0, poisoned := (s.badIn a 64).isSome }
/-- CORE_RESUME (R445): the core is RUNNING; its full-bit map is applied, and forms that wait there are served; its messages come from
the message area ahead of every newer one, and what was held for it goes on. -/
def State.coreResume (s : State) (n : Nat) (k : Saved) : State :=
  let map := (List.range 1024).foldl (fun v i => v + (s.blockWord k.asker (k.block + 16512 + 8 * i)).toNat * 2 ^ (64 * i)) 0
  let ms := (k.msgs.zipIdx.map fun p => s.areaTake k p.2 p.1) ++ s.queued n
  let s := (s.applyMap n map).serveCore n
  let s := s.answerSaver n 0
  let s := (s.dropQueue n).mapCore n fun c => { c with mode := .running, saved := none }
  let s := ms.foldl (fun (s : State) m =>
    let c := s.core n
    if c.takes m.dst && !c.spill.any (sameTriple m) then (s.mapCore n fun c => { c with rq := c.rq ++ [m] }).wakeRecv m.dst
    else s.spillPut n m) s
  ((s.wakeMoving.refillDue n).wakeDeque n).post (.migrationStart (clusterOf n))

end Sys2Proof.Machine
end

