-- ==== Sys2Proof/Machine/Pages.lean ====
section
/-! DEFINITION. The events of translation: walks that end, host-managed pages over ATS and page requests, and
invalidation (R411 to R425). -/
namespace Sys2Proof.Machine

/-- A host link. -/
def State.link (s : State) (l : Nat) : HostLink := tget s.links l HostLink.reset
/-- Change a host link. -/
def State.mapLink (s : State) (l : Nat) (f : HostLink → HostLink) : State := { s with links := tset s.links l (f (s.link l)) }
/-- The cluster of the slice that serves a granule of a field. -/
def walkCluster (f g : Nat) : Nat := sliceOf f (g * 2 ^ 16)
/-- The pending walk of a granule. -/
def State.walkOf (s : State) (f asid g : Nat) : Option Walk := walkFind (s.clu (walkCluster f g)).walks asid g
/-- Change a pending walk. -/
def State.mapWalk (s : State) (f asid g : Nat) (k : Walk → Walk) : State :=
  let one (w : Walk) : Walk := if w.asid = asid ∧ w.granule = g then k w else w
  s.mapClu (walkCluster f g) fun c => { c with walks := c.walks.map one }
/-- A slice logs a table entry or a granule (R419 order 4, R422, R474). -/
def State.logTable (s : State) (cl pa : Nat) : State :=
  s.logClu cl .slice (errRec 9 11 (s.unitCode cl 0) 2 (pa / 16) 0 s.cycle)
/-- A walk closes, with the trap its waiters are to meet, if any: the contexts are woken in order of arrival, and so are the
misses that wait for a walk (R420); for a unit that is none, the answer is kept. -/
def State.closeWalk (s : State) (w : Walk) (fail : Option Nat) : State :=
  let cl := walkCluster w.field w.granule
  let more := (s.clu cl).walkWait
  let va := w.granule * 2 ^ 16
  let away : Bool :=
    match s.walk w.asid va with
    | .leaf size l => l.testBit 6 || s.leafAway (leafEntry w.asid va size l)
    | .fault _ => false
  let answer : Option WalkFail := fail.map fun e => ⟨w.granule, e, s.asidOk w.asid w.field && away⟩
  let s := s.mapClu cl fun c =>
    { c with walks := c.walks.filter fun k => !(k.asid == w.asid && k.granule == w.granule), walkWait := []
             fails := c.fails ++ (w.waiters.filter (unitBase ≤ ·)).flatMap fun u => answer.toList.map (u, ·) }
  let wake (s : State) (c : Nat) : State := if (s.ctx c).why = some .parked then s.wake c else s
  let s := (w.waiters.filter (· < unitBase)).foldl (fun (s : State) c =>
    wake (s.mapCtx c fun x => { x with walkFail := answer }) c) s
  (more.filter (· < unitBase)).foldl wake s
/-- A pinned entry may not be evicted: some context that its walk woke has not issued since, and 4,096 cycles have not
passed (R412). -/
def State.pinned (s : State) (e : TEntry) : Bool :=
  s.cycle < e.pinnedAt + 4096 && e.pin.any fun c => !((s.ctx c).lastIssue.map fun l => decide (e.pinnedAt < l)).getD false
/-- Install an entry: a full slice evicts one, in no fixed order; where every entry must be kept, the new one is not (R412), and
its waiters miss again. -/
def State.install (s : State) (cl : Nat) (e : TEntry) : State :=
  let l := (s.clu cl).tlb
  if l.length < 4096 then s.mapClu cl fun c => { c with tlb := c.tlb ++ [e] }
  else
    let free := l.filter fun e => !s.pinned e
    let r := s.freeNat (Nat.max 1 free.length)
    match free[r.1]? with
    | some o => r.2.mapClu cl fun c => { c with tlb := c.tlb.erase o ++ [e] }
    | none => s
/-- The accesses that the waiters of a walk need. -/
def Walk.needs (w : Walk) : List Acc :=
  (if w.r then [.load] else []) ++ (if w.w then [.store] else []) ++ (if w.x then [.fetch] else []) ++ (if w.rw then [.atomic] else [])
/-- A page that was installed for cells is still mapped so: its VA walks to a CELL leaf of the same bytes (R417). -/
def State.cellMapped (s : State) (p : PageHome) : Bool :=
  p.cell && (s.asidEntry p.asid).testBit 0 &&
    match s.walk p.asid p.va with
    | .leaf size l => let e := leafEntry p.asid p.va size l; e.cell && s.normPa e.pa == p.pa && size == p.size
    | .fault _ => false
/-- A byte lies on a page. -/
def PageHome.holds (p : PageHome) (a : Nat) : Bool := p.pa ≤ a && a < p.pa + 2 ^ p.size
/-- Pages that were mapped for cells and are no longer have lost their cells, which start at zero when the bytes are mapped for cells
again; bytes that another CELL page still maps keep theirs (R238; log entry 66). -/
def State.cellsFresh (s : State) : State :=
  let gone := s.pages.filter fun p => p.cell && !s.cellMapped p
  if gone.isEmpty then s
  else
    let kept := s.pages.filter s.cellMapped
    { s with cells := s.cells.filter fun a => kept.any (·.holds a) || !gone.any (·.holds a)
             pages := s.pages.map fun p => if gone.contains p then { p with cell := false } else p }
/-- A page is mapped for other data than cells: its cells are to start at zero when it is mapped for cells again (R238; log entry
66). -/
def State.cellsGone (s : State) (e : TEntry) : State :=
  if e.cell then s
  else
    let pa := s.normPa e.pa
    { s with cells := s.cells.filter fun a => !(pa ≤ a && a < pa + 2 ^ e.size) }
/-- A page is installed: what places the homes of its bytes is kept (R271). -/
def State.notePage (s : State) (e : TEntry) : State :=
  let p : PageHome := ⟨e.asid, e.va, e.size, s.normPa e.pa, s.asidPart e.asid, e.hdi, e.cell⟩
  { s with pages := p :: s.pages.filter (· != p) }
/-- A walk has found a translation (R412, R419): it is installed when some request on it passes orders 6 to 8; the
others meet their trap. A walk that an invalidation has overtaken installs nothing (R425). -/
def State.walkFound (s : State) (w : Walk) (e : TEntry) : State :=
  let q : Asker := ⟨w.asid, 1024 * w.field, w.priv⟩
  let rs := w.needs.map fun a => s.checkEntry q e (w.granule * 2 ^ 16) a
  let ok := rs.any fun r => match r with | .ok _ => true | _ => false
  let bad := rs.findSome? fun r => match r with | .trap c => some c | _ => none
  if w.stale then s.closeWalk w none
  else if ok || rs.isEmpty then
    let cl := walkCluster w.field w.granule
    let s := ((s.cellsFresh.cellsGone e).notePage e).install cl { e with pin := w.waiters.filter (· < unitBase), pinnedAt := s.cycle }
    (s.closeWalk w none).post (.sliceEntryPinExpiry cl w.asid e.va)
  else s.closeWalk w bad
/-- TRANSLATION_REQUEST (R419, R420): a request of a context that misses opens or joins a walk. -/
def execTranslationRequest (c va : Nat) (acc : Acc) (s : State) : Out :=
  match s.askSlice (s.asker c) (s.ctx c).walkFail va acc with
  | .miss => .next (s.openWalk (s.asker c) c va acc)
  | _ => .next s
/-- WALK_COMPLETE (R414 to R421): a device walk ends in a leaf, in a fault, or in a host-managed leaf, for which a
Translation Request goes to the host. It waits for a table entry whose home is shut down (R491). -/
def execWalkComplete (f asid g : Nat) (s : State) : Out :=
  match s.walkOf f asid g with
  | none => .next s
  | some w =>
    let va := g * 2 ^ 16
    let e := s.asidEntry asid
    if w.phase ≠ .device then .next s
    else if s.walkShut asid va then .next (s.again (.walkComplete f asid g))
    else if !s.asidOk asid f then .next (s.closeWalk w (some 0x16))
    else
      match s.walk asid va with
      | .fault none => .next (s.closeWalk w (some 0x15))
      | .fault (some pa) => .next ((s.logTable (walkCluster f g) pa).closeWalk w (some 0x15))
      | .leaf size l =>
        if !l.testBit 6 then .next (s.walkFound w (leafEntry asid va size l))
        else if !e.testBit 2 then .next (s.closeWalk w (some 0x15))
        else .next (s.mapWalk f asid g fun w => { w with phase := .ats, link := bits e 1 1 })
/-- SLICE_ENTRY_PIN_EXPIRY (R412). -/
def execSliceEntryPinExpiry (cl asid va : Nat) (s : State) : Out :=
  let hit (e : TEntry) : Bool := e.asid == asid && e.va == va && !e.pin.isEmpty
  if (s.clu cl).tlb.any fun e => hit e && s.pinned e then .next (s.post (.sliceEntryPinExpiry cl asid va))
  else .next (s.mapClu cl fun c => { c with tlb := c.tlb.map fun e => if hit e then { e with pin := [] } else e })

/-! ## Host-managed pages (R421 to R423) -/

/-- The rights a walk needs, as bits. -/
def Walk.need (w : Walk) : Nat := (if w.r || w.rw then 1 else 0) + (if w.w || w.rw then 2 else 0) + (if w.x then 4 else 0)
/-- A walk asks the host for its page: by a page request group (R422, R423), or, in host-assisted mode, by a request on the
response ring (R530). -/
def State.askPage (s : State) (w : Walk) : State :=
  let s := s.mapWalk w.field w.asid w.granule fun w => { w with asked := w.need }
  if s.hostMode 2 then
    (s.mapWalk w.field w.asid w.granule fun w => { w with phase := .assist }).assist (.page w.field w.asid w.granule)
  else if (s.link w.link).stopped then s.closeWalk w (some 0x15)
  else
    ((s.mapWalk w.field w.asid w.granule fun w => { w with phase := .pageWait }).mapLink w.link fun l =>
      { l with groups := l.groups ++ [(w.field, w.asid, w.granule)] }).post (.pageRequestSend w.link)
/-- ATS_TRANSLATION_COMPLETION (R421, R422). A walk that an invalidation has overtaken installs nothing (R425), and one whose leaf no
longer is the host's ends as a device walk does (R419). -/
def execAtsTranslationCompletion (f asid g pa : Nat) (contiguous r w x : Bool) (s : State) : Out :=
  match s.walkOf f asid g with
  | none => .next s
  | some k =>
    let got := (if r then 1 else 0) + (if w then 2 else 0) + (if x then 4 else 0)
    if k.phase ≠ .ats then .next s
    else if k.stale then .next (s.closeWalk k none)
    else
      match s.walk asid (g * 2 ^ 16) with
      | .fault none => .next (s.closeWalk k (some 0x15))
      | .fault (some e) => .next ((s.logTable (walkCluster f g) e).closeWalk k (some 0x15))
      | .leaf size l =>
        if !l.testBit 6 then .next (s.walkFound k (leafEntry asid (g * 2 ^ 16) size l))
        else if got &&& k.need = 0 then .next (s.askPage k)
        else if !contiguous || pa % 65536 != 0 then
          .next ((s.logTable (walkCluster f g) (2 ^ 51 + k.link * 2 ^ 49 + pa % 2 ^ 49)).closeWalk k (some 0x15))
        else if k.asked != 0 && !k.further && (k.need &&& (7 ^^^ got) &&& (7 ^^^ k.asked)) != 0 then
          .next ((s.mapWalk f asid g fun k => { k with further := true }).askPage k)
        else
          let e := leafEntry asid (g * 2 ^ 16) 16 l
          .next (s.walkFound k { e with pa := 2 ^ 51 + k.link % 2 * 2 ^ 49 + pa % 2 ^ 49, r := e.r && r, w := e.w && w, x := e.x && x })
/-- The host has answered for a page: Success sends the Translation Request again (R422). -/
def State.pageAnswer (s : State) (f asid g : Nat) (ok : Bool) : State :=
  match s.walkOf f asid g with
  | none => s
  | some w => if ok then s.mapWalk f asid g fun w => { w with phase := .ats } else s.closeWalk w (some 0x15)
/-- Page request groups of a link that are out. -/
def State.pagesOut (s : State) (l : Nat) : List Walk :=
  s.clus.flatMap fun c => c.2.walks.filter fun w => w.link == l && w.phase == .pageSent
/-- PAGE_REQUEST_SEND (R422, R423): the oldest waiting group goes, if the pool has a credit; it asks for what every waiter needs by
then. -/
def execPageRequestSend (l : Nat) (s : State) : Out :=
  let k := s.link l
  match k.groups with
  | [] => .next s
  | (f, asid, g) :: rest =>
    let credits := if k.priOn then Nat.min k.alloc (Nat.min 512 s.mgmt.priCap) else 0
    if (s.pagesOut l).length < credits then
      .next (((s.mapLink l fun k => { k with groups := rest }).mapWalk f asid g fun w => { w with phase := .pageSent, asked := w.need }).post
        (.pageRequestSend l))
    else .next s
/-- Every group of a link closes its walk with PAGE_FAULT, until the host enables the interface again (R423). -/
def State.pagesFail (s : State) (l : Nat) : State :=
  let ws := s.clus.flatMap fun c => c.2.walks.filter fun w => w.link == l && (w.phase == .pageSent || w.phase == .pageWait)
  ws.foldl (fun (s : State) w => s.closeWalk w (some 0x15))
    (s.mapLink l fun k => { k with priOn := false, stopped := true, groups := [] })
/-- PAGE_REQUEST_RESPONSE (R422, R423): 0 Success, 1 Invalid Request; any other code is a Response Failure. -/
def execPageRequestResponse (l f asid g code : Nat) (s : State) : Out :=
  match s.walkOf f asid g with
  | none => .next s
  | some w =>
    if w.phase ≠ .pageSent || w.link != l then .next s
    else if code < 2 then .next ((s.pageAnswer f asid g (code == 0)).post (.pageRequestSend l))
    else .next (s.pagesFail l)
/-- PRI_ENABLE (R423): the host enables the Page Request Interface with an allocation. -/
def execPriEnable (l alloc : Nat) (s : State) : Out :=
  .next ((s.mapLink l fun k => { k with priOn := true, stopped := false, alloc := alloc }).post (.pageRequestSend l))
/-- PRI_STOP (R423). -/
def execPriStop (l : Nat) (s : State) : Out := .next (s.pagesFail l)

/-! ## Invalidation (R424, R425) -/

/-- Two ranges share an address. -/
def overlap (a n b m : Nat) : Bool := a < b + m && b < a + n
/-- A context's accesses under way install no line any more where an invalidation has taken their translation away (R425). -/
def Ctx.ungrant (c : Ctx) (who : Nat → Bool) (va len : Nat) : Ctx :=
  let piece (p : Piece) : Piece := if overlap p.va p.len va len then { p with grant := none } else p
  { c with
    buf := c.buf.map fun e =>
      match e with
      | .store ps bs a left rel bad => if who a then .store (ps.map piece) bs a left rel bad else e
      | .marker _ => e
    fill := c.fill.map fun f => if who f.asid && overlap f.va 1 va len then { f with grant := none } else f }
/-- An invalidation begins (R425, steps 1 and 2): the slice entries and L1 lines of the ASIDs and of the range go, dirty
lines first written back; a walk under way is overtaken. -/
def State.invalidate (s : State) (who : Nat → Bool) (va len : Nat) : State :=
  let dirty := s.cores.flatMap fun p => (p.2.l1d.filter fun d => d.dirty && who d.asid && overlap d.va 64 va len).map (p.1, ·)
  let s := dirty.foldl (fun (s : State) (p : Nat × DLine) => s.l1Back p.1 p.2.pa) s
  let s := s.cellsFresh
  { s with
    ctxs := s.ctxs.map fun (p : Nat × Ctx) => (p.1, p.2.ungrant who va len)
    clus := s.clus.map fun (p : Nat × Cluster) =>
      (p.1, { p.2 with tlb := p.2.tlb.filter (fun e => !(who e.asid && overlap e.va (2 ^ e.size) va len)),
                       walks := p.2.walks.map fun w =>
                         if who w.asid && overlap (w.granule * 65536) 65536 va len then { w with stale := true } else w })
    cores := s.cores.map fun (p : Nat × Core) =>
      (p.1, { p.2 with l1d := p.2.l1d.filter (fun d => !(who d.asid && overlap d.va 64 va len)),
                       l1i := p.2.l1i.filter fun d => !(who d.asid && overlap d.va 64 va len) }) }
/-- The context and the ASID of an access, already translated, that an event is to perform. -/
def State.accessEvent (s : State) : Instr → Option Nat
  | .cellOperationAtHome _ _ w => some w.asid
  | .atomicAtPlace _ _ _ _ _ _ _ c _ | .joinUpdateAtHome _ _ c _ _ | .syncAtHome c _
  | .waitvAtHome c _ _ _ _ _ | .notifyAtHome c _ _ _ => some (s.ctx c).asid.toNat
  | _ => none
/-- An access of a context that may use an old translation is still to be performed: a buffered store, or a read or a long op under
way (R425). -/
def Ctx.oldAccess (c : Ctx) (who : Nat → Bool) (va len : Nat) : Bool :=
  let old : BufEntry → Bool
    | .store ps _ a _ _ _ => who a && ps.any fun p => overlap p.va p.len va len
    | .marker _ => false
  c.buf.any old || (c.fill.map fun f => who f.asid && overlap f.va 1 va len).getD false
    || (c.late.map fun l => who c.asid.toNat && l.vas.any fun a => overlap a 1 va len).getD false
/-- An access that may use an old translation is still to be performed: one of a context, an operation at a home under way, or a
command accepted (R425). -/
def State.oldAccess (s : State) (asid : Option Nat) (va len : Nat) : Bool :=
  let who (a : Nat) : Bool := (asid.map (· == a)).getD true
  s.ctxs.any (fun p => p.2.oldAccess who va len) || s.agenda.any (fun e => ((s.accessEvent e).map who).getD false)
    || s.clus.any fun p => p.2.cmds.any (fun x => who x.asid) || p.2.mill.any (fun x => who x.asid)
      || p.2.reds.any (fun x => who x.asid && x.pending) || p.2.subs.any (fun x => who x.asid && x.work.step == 1)
      || p.2.rets.any (fun x => who x.asid && x.work.step == 1)
      || p.2.omu.queue.any fun x => match x with | .load _ _ a _ => who a | _ => false
/-- ATS_INVALIDATION_REQUEST (R424, R425): it names a PASID of a link; its completion follows. -/
def execAtsInvalidationRequest (l pasid va len : Nat) (s : State) : Out :=
  let who (a : Nat) : Bool :=
    let e := s.asidEntry a
    e.testBit 0 && e.testBit 2 && bits e 1 1 == l && bits e 27 8 == pasid
  .next (((s.invalidate who va len).mapMgmt fun m => { m with invals := m.invals ++ [(none, none, va, len)] }).post
    (.invalidationComplete none va len))

end Sys2Proof.Machine
end

