-- ==== Sys2Proof/Machine/Fabric.lean ====
section
/-! DEFINITION. The host's accesses to the module (R448 to R454) and the Ennor Link: the rotor, its flits and its markers
(R455 to R465). -/
namespace Sys2Proof.Machine

/-! ## Writes that no context of the module makes -/

/-- Little-endian value of a list of bytes. -/
def bytesVal : List Byte → Nat
  | [] => 0
  | b :: bs => b.toNat + 256 * bytesVal bs
/-- The scopes, by code (R99). -/
def scopeList : List Scope := [.thread, .core, .cluster, .field, .device, .system]
/-- A 64-byte line lies on a page that a translation slice maps for cells. -/
def State.onCellPage (s : State) (a : Nat) : Bool :=
  s.clus.any fun c => c.2.tlb.any fun e => e.cell && s.normPa e.pa ≤ a && a < s.normPa e.pa + 2 ^ e.size
/-- A cell that has not been written since its page was mapped is all zeros before bytes of it are written from outside (R238,
R450). -/
def State.cellTouched (s : State) (a : Nat) : State :=
  let l := a / 64 * 64
  if s.onCellPage a && !s.cells.contains l then { s.wrN l 64 0 with cells := kput s.cells l } else s
/-- Bytes arrive from outside at their homes, as `home` places them: copies of their lines are recalled, the words they cover are whole
again, the home's slice holds them dirty, and sleepers of SYNC look at them (R271, R273, R395, R450, R470). A write of a context of
another package, `who`, carries a scope that this package does not know (R278): it is free. The words that the host writes lose their
writers. -/
def State.outsideAt (s : State) (who : Option Nat) (home : Nat → Option Nat) (a : Nat) (bs : List Byte) : State :=
  let ws := wordsOf a bs.length
  let s := if isSpad a then s else ws.foldl State.cellTouched s
  let s := s.store a bs.length (bytesVal bs) false
  let s : State :=
    match who with
    | none => { s with wtags := s.wtags.filter fun t => !ws.contains t.1 }
    | some c =>
      let r := s.freeNat 7
      ws.foldl (fun (s : State) w => s.tagAt (home w) c scopeList[r.1]? true w) r.2
  ws.foldl (fun (s : State) w => if isSpad w then (s.setFull w).serveAll w else ((s.recall w).dirtyAt (home w) w).wakeSyncs w) s
/-- Bytes arrive from outside at their homes, as the pages that map them place those. -/
def State.outsideWrite (s : State) (who : Option Nat) (a : Nat) (bs : List Byte) : State := s.outsideAt who s.homeKey a bs
/-- Bytes leave for the outside from their homes, which recall every copy first (R273, R450): a cell that has not been written is all
zeros (R238). What a poisoned word gives is free (DESIGN CHOICE, log entry 50). -/
def State.outsideRead (s : State) (a n : Nat) : Nat × State :=
  let s := (wordsOf a n).foldl (fun (s : State) w => if isSpad w then s else (s.cellTouched w).recall w) s
  if (s.badIn a n).isSome then s.freeNat (2 ^ (8 * n)) else (s.rdN a n, s)

/-! ## Host accesses (R448 to R450) -/

/-- A function serves requests: the PF, or a VF whose partition exists (R449). -/
def State.fnServes (s : State) (f : Nat) : Bool := f == 0 || partValid (s.parts.toList.getD (f - 1) 0)
/-- A BAR2 request is accepted: it lies in local PA space 0, names something, and, for a VF, lies in one aperture and acts on its own
partition (R449, R450). -/
def State.bar2Ok (s : State) (f a n : Nat) : Bool :=
  s.fnServes f && 0 < n && s.localNamed a && s.localNamed (a + n - 1) &&
    (f == 0 || ((s.func f).apertures.any (fun p => p.1 ≤ a && a + n ≤ p.1 + p.2) && (!isCarve a || s.inPart (f - 1) (carveCluster a / 16))))
/-- A read or an AtomicOp of a host link completes, with data or as an Unsupported Request (R448 to R450). -/
def State.hostComplete (s : State) (l : Nat) (v : Option Nat) : State := s.mapLink l fun k => { k with completion := some v }
/-- A posted write of a host link is dropped and counted (R450). -/
def State.linkDrop (s : State) (l : Nat) : State := s.mapLink l fun k => { k with dropped := k.dropped + 1 }
/-- The host has written the tail of the command ring or the head of the response ring (R529). -/
def State.ringsWritten (s : State) (a n : Nat) : State :=
  let s := if overlap a n 0 8 then s.post (.commandRingTailWrite (s.rdN 0 8)) else s
  if overlap a n 0x100008 8 then s.post (.responseRingHeadWrite (s.rdN 0x100008 8)) else s
/-- BAR2_ACCESS (R450): a host read of n bytes or write, performed at the home of each line; what a read returns leaves in its
completion. A write has its bytes and its Relaxed Ordering attribute: those without it are performed in their order on the link (R293),
as `readyEvents` has it. An access whose home is shut down waits (R491). -/
def execBar2Access (l f a : Nat) (wr : Option (List Byte × Bool)) (n : Nat) (s : State) : Out :=
  if s.homeShut a then .next (s.again (.bar2Access l f a wr n))
  else
    match wr with
    | none =>
      if s.bar2Ok f a n then
        let r := s.outsideRead a n
        .next (r.2.hostComplete l (some r.1))
      else .next (s.hostComplete l none)
    | some (bs, _) =>
      if s.bar2Ok f a bs.length && bs.length ≤ n then .next ((s.outsideWrite none a bs).ringsWritten a bs.length)
      else .next (s.linkDrop l)
/-- BAR2_ATOMIC_OP (R448, R450): FetchAdd, Swap and CAS of 32 and 64 bits, at the home of the line; w tells 64 bits, and none stands for
a CAS of 128, which is an Unsupported Request, as is one that is refused. One that meets poison writes nothing. -/
def execBar2AtomicOp (l f : Nat) (op : AmoOp) (w : Option Bool) (a : Nat) (c e : Word) (s : State) : Out :=
  match w with
  | none => .next (s.hostComplete l none)
  | some w =>
    if s.homeShut a then .next (s.again (.bar2AtomicOp l f op (some w) a c e))
    else if !s.bar2Ok f a (amoBytes w) || a % amoBytes w != 0 || !(op == .add || op == .swap || op == .cas) then .next (s.hostComplete l none)
    else
      let r := s.outsideRead a (amoBytes w)
      let t := r.2.hostComplete l (some r.1)
      if s.isBad a then .next t
      else
        match amoNew op (amoW w) r.1 (c.toNat % 2 ^ amoW w) (e.toNat % 2 ^ amoW w) with
        | none => .next t
        | some v => .next ((t.outsideWrite none a ((byteList a v (amoBytes w)).map (·.2))).ringsWritten a (amoBytes w))
/-- BAR0_REGISTER_WRITE (R451, R453, R454): a write to the dispatcher table or to HMSTAT is dropped; a write to the doorbell
that is not one whole message is a malformed one. -/
def execBar0RegisterWrite (fn : Nat × Nat) (off : Nat) (_data : Word) (s : State) : Out :=
  if s.fnServes fn.2 && 0x1000 ≤ off && off < 0x1040 then .next (s.hostDrop fn.2 1) else .next s

/-! ## The rotor (R457 to R462) -/

/-- Change a port site, whose status record the inventory publishes (R462, R531). -/
def State.mapPort (s : State) (k : Nat) (f : Port → Port) : State :=
  State.inventory { s with ports := tset s.ports k (f (tget s.ports k Port.reset)) }
/-- A port site. -/
def State.port (s : State) (k : Nat) : Port := tget s.ports k Port.reset
/-- m of slot σ at port site k, for a group of n (R457). -/
def rotorM (n σ k : Nat) : Nat := (σ + k * divUp (n - 1) 4) % (n - 1)
/-- The package that port site k of package p transmits to in slot σ (R457). -/
def rotorPeer (n p σ k : Nat) : Nat := (p + 1 + rotorM n σ k) % n
/-- The package that it receives from (R457). -/
def rotorFrom (n p σ k : Nat) : Nat := (p + 2 * n - 1 - rotorM n σ k) % n
/-- How many slots after σ a package p next transmits to q through any of some port sites. -/
def nextDirect (n p q σ : Nat) (ks : List Nat) : Nat :=
  ((List.range n).find? fun i => ks.any fun k => rotorPeer n p (σ + i + 1) k == q).getD n
/-- A port site carries data: it is in the rotor (R461, R462). -/
def State.portUp (s : State) (k : Nat) : Bool := (s.port k).state == 2
/-- The relay that a flit for q takes in slot σ (R459): of the packages met in this slot whose buffers have room, which this
package does not decide, the one with the earliest second hop that is earlier than the next direct slot. -/
def State.relayFor (s : State) (σ q : Nat) : Option Nat × State :=
  let n := s.groupN
  let ks := (List.range 4).filter s.portUp
  let direct := nextDirect n s.pkg q σ ks
  let now := ks.filter fun k => (s.port k).run == 0 && (s.port k).valid.contains (rotorPeer n s.pkg σ k)
  let rs := (now.map (rotorPeer n s.pkg σ)).filter fun r => r != q && nextDirect n r q σ [0, 1, 2, 3] < direct
  let room := s.freeNat (2 ^ 4)
  let rs := (List.range rs.length).filterMap fun i => if room.1.testBit i then rs[i]? else none
  (rs.foldl (fun (b : Option Nat) r =>
    match b with
    | none => some r
    | some o =>
      let x := nextDirect n r q σ [0, 1, 2, 3]
      let y := nextDirect n o q σ [0, 1, 2, 3]
      if x < y || (x == y && r < o) then some r else b) none, room.2)
/-- The flits that leave through a port site in a slot whose peer is r: those for r, those whose direct circuit was
unavailable and whose relay is r, and those that any port site holds as a relay for r (R456, R459). -/
def State.sendFlits (s : State) (k σ r : Nat) : State :=
  let go (p : State × List OutFlit) (f : OutFlit) : State × List OutFlit :=
    if f.sent.isSome then (p.1, p.2 ++ [f])
    else if f.pkg = r then (p.1, p.2 ++ [{ f with sent := some k, blocked := false }])
    else if f.blocked then
      let v := p.1.relayFor σ f.pkg
      (v.2, p.2 ++ [{ f with sent := if v.1 == some r then some k else none }])
    else (p.1, p.2 ++ [f])
  let x := s.outFlits.foldl go (s, [])
  let fwd (f : Nat × Nat × Nat × Bool) : Nat × Nat × Nat × Bool := if f.1 = r then (f.1, f.2.1, f.2.2.1, true) else f
  let s : State := { x.1 with outFlits := x.2 }
  { s with ports := s.ports.map fun p => (p.1, { p.2 with relay := p.2.relay.map fwd }) }
/-- A slot of a port site is over: what it sent and was not acknowledged is to be sent again, and the acknowledgements that it kept have
gone (R456, R458). -/
def State.slotOver (s : State) (k : Nat) : State :=
  let back (f : OutFlit) : OutFlit := if f.sent = some k then { f with sent := none } else f
  let s : State := { s with outFlits := s.outFlits.map back }
  s.mapPort k fun p => { p with acks := [] }
/-- Flits for a peer whose direct circuit is unavailable in its slot (R459). -/
def State.blockFlits (s : State) (q : Nat) : State :=
  let mark (f : OutFlit) : OutFlit := if f.pkg = q then { f with blocked := true } else f
  { s with outFlits := s.outFlits.map mark }
/-- Saturating count of 32 bits. -/
def sat32 (n : Nat) : Nat := Nat.min n (2 ^ 32 - 1)
/-- RDYMAP bit of a port site (R66). -/
def State.setPort (s : State) (k : Nat) (v : Bool) : State := s.setReady 1 (48 + k) v
/-- A circuit's settings are in the port's cache, used from the next visit (R460). -/
def State.circuitReady (s : State) (k r : Nat) : State :=
  let first := (s.port k).state != 2 && (s.port k).state != 3
  let s := s.mapPort k fun p =>
    { p with valid := p.valid.filter (· != r) ++ [r], bringUp := p.bringUp.filter fun b => b.1 != r,
             state := if p.state = 3 then 3 else 2 }
  if first then s.setPort k true else s
/-- The group's slot that port site k begins, counted from 0: the one that another port site has begun, if it has not, or the next
(R457). -/
def State.slotAt (s : State) (k : Nat) : Nat := if (s.port k).slot < s.slots then s.slots - 1 else s.slots
/-- ROTOR_SLOT_START (R457 to R461): the time exchange and the skip check; then the re-lock, or a visit of full bring-up;
then the flits of the slot. A site without comb light has its slots too, and no circuit in them. -/
def execRotorSlotStart (k : Nat) (offset : BitVec 16) (relockOk : Bool) (s : State) : Out :=
  let p := s.port k
  if s.groupN < 2 || 4 ≤ k then .next s
  else
    let σ := s.slotAt k
    let r := rotorPeer s.groupN s.pkg σ k
    let s := (({ s with slots := σ + 1 } : State).slotOver k).mapPort k fun p => { p with slot := σ + 1 }
    if !s.light.getLsbD k then .next (s.blockFlits r)
    else
      let s := s.mapPort k fun p => { p with offset := offset, state := if p.state = 0 then 1 else p.state }
      if p.state = 3 then .next (s.blockFlits r)
      else if offset.toInt < -40 || 40 < offset.toInt then
        let s := (s.mapPort k fun p => { p with skew := true, skipped := sat32 (p.skipped + 1), run := p.run + 1 }).blockFlits r
        if p.run + 1 < 4 then .next s
        else .next (((s.mapPort k fun p => { p with state := 3 }).setPort k false).post (.portResyncComplete k))
      else
        let s := s.mapPort k fun p => { p with run := 0 }
        if p.valid.contains r && relockOk then .next ((s.circuitReady k r).sendFlits k σ r)
        else
          let s :=
            if p.valid.contains r then
              s.mapPort k fun p => { p with relockf := Nat.min (p.relockf + 1) 0xFFFF, valid := p.valid.filter (· != r),
                                            bringUp := tset p.bringUp r 0 }
            else s
          let s := s.blockFlits r
          if s.hostMode 4 then .next (s.assist (.relock k r))
          else
            let t := tget (s.port k).bringUp r 0 + 1960
            let s := s.mapPort k fun p => { p with bringUp := tset p.bringUp r t }
            if t < 50000 then .next s else .next (s.post (.circuitBringUpComplete k r))
/-- CIRCUIT_BRING_UP_COMPLETE (R460, R462, R525). -/
def execCircuitBringUpComplete (k r : Nat) (s : State) : Out :=
  if s.groupN < 2 || 4 ≤ k || !s.light.getLsbD k then .next s else .next (s.circuitReady k r)
/-- PORT_RESYNC_COMPLETE (R461): the port waits until its offset is within 10 ns. -/
def execPortResyncComplete (k : Nat) (s : State) : Out :=
  let p := s.port k
  if p.state ≠ 3 then .next s
  else if p.offset.toInt < -10 || 10 < p.offset.toInt then .next (s.again (.portResyncComplete k))
  else .next ((s.mapPort k fun p => { p with state := 2, run := 0 }).setPort k true)

/-! ## Flits and markers (R456, R463 to R465) -/

/-- The home bank of a place at the receiving end: a carve-out's own, or what the target partition's descriptor 0 chooses (R418,
R464). -/
def State.placeBank (s : State) (part a : Nat) : Option Nat := if isSpad a then none else s.homeOf part 0 a
/-- The field that a place at the receiving end lies in (R464). -/
def State.placeField (s : State) (part a : Nat) : Option Nat :=
  if isSpad a then some (fieldOf (spadCore a))
  else if isCarve a then some (carveCluster a / 16)
  else (s.homeOf part 0 a).map (· / 64)
/-- The receiving port lets a flit of a package and partition reach a place for a right (R464). -/
def State.flitOk (s : State) (src srcPart tgtPart a right : Nat) : Bool :=
  let e := s.enlEntry tgtPart src
  partValid (s.parts.toList.getD tgtPart 0) && bits e 9 5 == srcPart && e.testBit right &&
    (isSpad a || (spaceOf a == 0 && s.localNamed a)) && ((s.placeField tgtPart a).map fun f => s.inPart tgtPart f).getD false
/-- A flit or a marker is refused and counted (R462, R464). -/
def State.flitCounted (s : State) (k : Nat) : State := s.mapPort k fun p => { p with refused := sat32 (p.refused + 1) }
/-- Data of a transfer sequence, by source, context and number, is refused and counted, and its marker will be (R464). -/
def State.flitRefused (s : State) (k src : Nat) (c : Nat × Nat) : State :=
  let s := s.flitCounted k
  let x := (src, c.1, c.2)
  { s with enlRefused := if s.enlRefused.contains x then s.enlRefused else s.enlRefused ++ [x] }
/-- The number under which a context of another package is known (R25, R278). -/
def farCtx (src c : Nat) : Nat := 2 ^ 19 * (src + 1) + c % 2 ^ 19
/-- What a flit or a marker asks of n bytes of a place is held: its core moves, an OMU has yet to read a word that it writes, or its home
is shut down (R33, R214, R491). -/
def State.placeHeld (s : State) (part a n : Nat) (writes : Bool) : Bool :=
  ((s.placeBank part a).map fun b => s.sliceShut (bankCluster b)).getD false
    || isSpad a && (s.remapState (spadCore a) == 2 || writes && (wordsOf a n).any s.inRange)
/-- A scratchpad has no column that takes an access (R33). -/
def State.placeGone (s : State) (a : Nat) : Bool :=
  isSpad a && (s.remapState (spadCore a) == 0 || s.remapState (spadCore a) == 3)
/-- The lower-numbered of the two fields that a port site adjoins (R19). -/
def siteFieldOf (k : Nat) : Nat := [0, 3, 22, 27].getD k 0
/-- A port site hears a package: it is in the rotor and does not skip this slot (R457, R461, R462). A site k + 4 stands for what has come
in through site k and is held. -/
def State.hears (s : State) (k src : Nat) : Bool :=
  4 ≤ k || (1 < s.groupN && src < s.groupN && src != s.pkg && (s.port k).state == 2 && (s.port k).run == 0)
/-- The package whose transmitter a port site hears in its slot (R457). -/
def State.hearsFrom (s : State) (k : Nat) : Nat := rotorFrom s.groupN s.pkg ((s.port k).slot - 1) k
/-- An acknowledgement waits for the control wavelength of a port site (R456). -/
def State.ackFlit (s : State) (k src seq : Nat) (ok : Bool) : State := s.mapPort (k % 4) fun p => { p with acks := p.acks ++ [(src, seq, ok)] }
/-- Port site k records that a flit is sent again (R456, R474). -/
def State.logRetry (s : State) (k seq : Nat) : State :=
  s.logSite k (errRec 3 9 (s.unitCode (16 * siteFieldOf k) (16 * k)) 5 seq 0 s.cycle)
/-- The right of R463 that a flit needs, and the bytes it touches. -/
def flitNeeds : FlitWork → Nat × Nat
  | .store bs => (1, bs.length)
  | .load n => (1, n)
  | .atomic _ w _ _ => (2, amoBytes w)
/-- A flit writes its place. -/
def flitWrites : FlitWork → Bool
  | .load _ => false
  | _ => true
/-- Data of a transfer sequence, which its marker closes (R292). -/
def flitIsData : FlitWork → Bool
  | .store _ => true
  | _ => false
/-- A flit that is let through is performed at the home of its place, for a context of another package; a read or an atomic sends its
answer there (R456, R464). -/
def State.flitDone (s : State) (src tgtPart c a : Nat) (w : FlitWork) : State :=
  let home (x : Nat) : Option Nat := s.placeBank tgtPart x
  match w with
  | .store bs => s.outsideAt (some (farCtx src c)) home a bs
  | .load n =>
    let r := s.outsideRead a n
    r.2.sendOut noCtx src (.answer c (some r.1))
  | .atomic op w x e =>
    let r := s.outsideRead a (amoBytes w)
    let t := r.2.sendOut noCtx src (.answer c (some r.1))
    match if s.isBad a then none else amoNew op (amoW w) r.1 (x.toNat % 2 ^ amoW w) (e.toNat % 2 ^ amoW w) with
    | none => t
    | some v => t.outsideAt (some (farCtx src c)) home a ((byteList a v (amoBytes w)).map (·.2))
/-- FLIT_RECEIVE (R456, R457, R459, R464): a flit of at most 240 bytes that a port site hears. One with a bad CRC is to be sent again,
and its port site records that; one for another package, straight from its source, goes into the relay buffer; one already committed
changes nothing more; one that is let through is committed at its home; a refused read or atomic sends a refusal. -/
def execFlitReceive (k src srcPart tgtPart seq : Nat) (c : Nat × Nat) (crcOk : Bool) (a : Nat) (w : FlitWork) (s : State) : Out :=
  if !s.hears k src || (flitNeeds w).2 = 0 || 240 < (flitNeeds w).2 then .next s
  else if !crcOk then .next ((s.logRetry (k % 4) seq).ackFlit k src seq false)
  else if isRemote a && paPkg a != s.pkg then
    let l := (s.port k).relay
    if s.hearsFrom k == src && l.length < 16384 && !l.any (fun f => f.2.1 == src && f.2.2.1 == seq) then
      .next (s.mapPort k fun p => { p with relay := p.relay ++ [(paPkg a, src, seq, false)] })
    else .next s
  else if s.enlSeen.contains (src, seq) then .next (s.ackFlit k src seq true)
  else
    let pl := if isSpad a then a else s.normPa a
    let t := ({ s with enlSeen := s.enlSeen ++ [(src, seq)] } : State).ackFlit k src seq true
    if !t.flitOk src srcPart tgtPart pl (flitNeeds w).1 || t.placeGone pl then
      .next (if flitIsData w then t.flitRefused (k % 4) src c else (t.flitCounted (k % 4)).sendOut noCtx src (.answer c.1 none))
    else if s.placeHeld tgtPart pl (flitNeeds w).2 (flitWrites w) then
      .next (s.heldBy pl (.flitReceive (k % 4 + 4) src srcPart tgtPart seq c crcOk a w))
    else .next (t.flitDone src tgtPart c.1 pl w)
/-- What follows when package q has acknowledged what a flit or a marker carried: the flag of a marker stands there, unless it
was refused there; a message gets a status, which this package does not decide (R292, R338, R341, R464). -/
def State.carried (s : State) (f : OutFlit) : State :=
  match f.body with
  | .data _ _ _ _ | .status _ _ | .answer _ _ => s
  | .marker a v _ _ _ =>
    let r := s.freeNat 2
    if r.1 = 0 then r.2.store a 8 v.toNat false else r.2
  | .message m d =>
    let r := s.freeNat 4
    if f.ctx ≠ noCtx then r.2.post (.sendStatusReturn f.ctx (BitVec.ofNat 2 r.1) d)
    else if r.1 = 0 then r.2
    else r.2.logDiscard (coreOf (gctxKey m.addr)) (f.pkg * 2 ^ 19 + m.dst)
/-- FLIT_ACK (R456, R459, R474): an acknowledged flit is kept no longer, by its source, which the acknowledgement names with its number,
or by a relay; one acknowledged negatively is sent again, which the port site records. -/
def execFlitAck (k : Nat) (seq : Nat × Nat) (ok : Bool) (s : State) : Out :=
  let own := seq.1 == s.pkg
  let mine := if own then s.outFlits.filter (·.seq == seq.2) else []
  let relayed (f : Nat × Nat × Nat × Bool) : Bool := !own && f.2.1 == seq.1 && f.2.2.1 == seq.2 && f.2.2.2
  if ok then
    let s : State := { s with outFlits := if own then s.outFlits.filter (·.seq != seq.2) else s.outFlits
                              ports := s.ports.map fun p => (p.1, { p.2 with relay := p.2.relay.filter (!relayed ·) }) }
    .next (mine.foldl State.carried s)
  else
    let again (f : OutFlit) : OutFlit := if own && f.seq == seq.2 then { f with sent := none } else f
    let keep (f : Nat × Nat × Nat × Bool) : Nat × Nat × Nat × Bool := if relayed f then (f.1, f.2.1, f.2.2.1, false) else f
    let t : State := { s with outFlits := s.outFlits.map again
                              ports := s.ports.map fun p => (p.1, { p.2 with relay := p.2.relay.map keep }) }
    .next (if mine.isEmpty then t else t.logRetry k seq.2)
/-- COMPLETION_MARKER_RECEIVE (R292, R464, R465): the marker is held until every flit of its sequence has been committed;
it is refused when one of them was. -/
def execCompletionMarkerReceive (k src srcPart tgtPart : Nat) (c : Nat × Nat) (seqs : List Nat) (a : Nat) (data : Word) (s : State) : Out :=
  let held : Instr := .completionMarkerReceive (k % 4 + 4) src srcPart tgtPart c seqs a data
  if !s.hears k src || isRemote a && paPkg a != s.pkg then .next s
  else if !seqs.all fun q => s.enlSeen.contains (src, q) then .next (s.again held)
  else
    let a := if isSpad a then a else s.normPa a
    let x := (src, c.1, c.2)
    if s.enlRefused.contains x then .next { s.flitCounted (k % 4) with enlRefused := s.enlRefused.filter (· != x) }
    else if !s.flitOk src srcPart tgtPart a 1 || s.placeGone a then .next (s.flitCounted (k % 4))
    else if s.placeHeld tgtPart a 8 true then .next (s.heldBy a held)
    else .next (s.outsideAt (some (farCtx src c.1)) (s.placeBank tgtPart) a ((byteList a data.toNat 8).map (·.2)))

end Sys2Proof.Machine
end

