-- ==== Sys2Proof/Machine/Order.lean ====
section
/-! DEFINITION. Which pending events may come next: an event that the manual orders behind an earlier one of the agenda
waits for it. -/
namespace Sys2Proof.Machine

/-- The link of a host's posted write to the module that later writes stay behind, a doorbell write included: one with the Relaxed
Ordering attribute may be performed in any order (R293, R452). -/
def postedOn : Instr → Option Nat
  | .bar2Access l _ _ (some (_, ro)) _ => if ro then none else some l
  | .hostMessage l _ _ _ => some l
  | .bar0RegisterWrite w _ _ => some w.1
  | _ => none
/-- The link of a host request that passes no posted write ahead of it: all but a write with the Relaxed Ordering attribute
(R293). -/
def staysBehind : Instr → Option Nat
  | .bar2Access l _ _ (some (_, ro)) _ => if ro then none else some l
  | .bar2Access l _ _ none _ => some l
  | .bar2AtomicOp l _ _ _ _ _ _ => some l
  | .hostMessage l _ _ _ => some l
  | .bar0RegisterWrite w _ _ => some w.1
  | _ => none
/-- The line in which an event stands, for events that are taken in the order in which they were posted: the operations of
one context on one cell (R250), the messages of one triple within the module (R335; those over ENL are numbered, R465), the RDCTs of
one core on one channel (R356), the heads at a millwright (R229), the arrivals of one context at a channel (R326), and the reports of
a channel's tree (R324). -/
def lineOf : Instr → Option (List Nat)
  | .cellOperationAtHome _ pa w => some [0, pa, w.ctx]
  | .messageArrival m _ _ => if m.via.isSome then none else some [1, m.dst, m.ch, m.addr, if m.host then 1 else 0, m.status]
  | .engineAcceptance c r =>
    match r.form with
    | .rdct _ => some [2, c / 16, r.e.toNat / 2 ^ 20 % 4]
    | _ => none
  | .opticalAcceptance c r =>
    match r.form with
    | .phwr _ => some [3, c / 1024]
    | _ => none
  | .sluiceArrivalCount (l, c) ch _ _ => some [5, l, c, ch]
  | .sluiceRelay l ch _ => some [6, l, ch]
  | _ => none
/-- Event e, which stands behind f in the agenda, may not come before it. -/
def mustFollow (f e : Instr) : Bool :=
  (match postedOn f, staysBehind e with
   | some a, some b => a == b
   | _, _ => false) ||
  (match lineOf f, lineOf e with
   | some a, some b => a == b
   | _, _ => false)
/-- The context whose form an event carries on to its place: none for one that a home, an engine or a queue has accepted. -/
def actorOf : Instr → Option Nat
  | .asyncTrapTake c | .longOpReply c | .yieldRejoin c | .ifetchLineArrival c | .storeBufferDrain c => some c
  | .fullEmptyAtPort c _ _ _ _ | .peerAccessAtPort _ _ _ _ _ _ c _ | .proxyAccess c _ _ _ => some c
  | .atomicAtPlace _ _ _ _ _ _ _ c _ | .waitvAtHome c _ _ _ _ _ | .notifyAtHome c _ _ _ | .syncAtHome c _ => some c
  | .joinUpdateAtHome _ _ c _ _ => some c
  | .cellOperationAtHome _ _ w => if w.accepted then none else some w.ctx
  | .messageArrival m c _ => if m.status = 0 && !m.host then some c else none
  | .sendStatusReturn c _ _ | .engineAcceptance c _ | .opticalAcceptance c _ => some c
  | .stealProbeRead c _ _ | .stealCas c _ _ _ | .loadTask c _ _ | .translationRequest c _ _ => some c
  | _ => none
/-- The positions of the events of an agenda that may come next. -/
def readyEvents (l : List Instr) : List Nat :=
  (List.range l.length).filter fun i =>
    match l[i]? with
    | some e => (l.take i).all fun f => !mustFollow f e
    | none => false

end Sys2Proof.Machine
end

