-- ==== Sys2Proof/Machine/System.lean ====
section
/-! DEFINITION. The system forms of majors 0x70 and 0x71 but MIGR (R431 to R445), the launch record, placement and the end
of a launch (R368 to R373), and the events of traps and issue (R92, R232, R376, R430). -/
namespace Sys2Proof.Machine

/-! ## Records and blocks a system form reads or writes -/

/-- The checks of an access of n bytes, a multiple of 64, at a 64-byte-aligned address (R299). -/
def State.blockMe (s : State) (acc : Acc) (va n : Nat) : Res :=
  (List.range (n / 64)).foldl (fun r i => joinRes r (s.resolveMe acc (va + 64 * i) 64)) (.ok [])
/-- A head whose operand must be aligned (R435, R436, R439, R445). -/
def State.needAligned (s : State) (v : Word) (n : Nat) (k : Out) : Out :=
  if v.toNat % n = 0 then k else .next (s.trap 0x10 v)
/-- Read a record with the checks of a load, behind the context's own stores, and, for a release, behind its every earlier
access (R288). -/
def readRecord (s : State) (r : Res) (rel : Option Scope) (k : State → Nat → Out) : Out :=
  s.onRes .load r fun ps =>
    let go (t : State) : Out := t.readCheck false ps fun t => k t (t.readKeys (pieceKeys ps))
    match rel with
    | some sc => s.ordered sc none go
    | none => s.drained go
/-- A system form ends with a status (R432). -/
def endStatus (s t : State) (d : XR) (status : Nat) : Out := retireLong s (t.putX d (BitVec.ofNat 64 status))

/-! ## Launch (R368 to R373, R435) -/

/-- Fields a record selects. -/
def recFields (r : BitVec 2048) : List Nat := (List.range 32).filter fun f => r.getLsbD (32 + f)
/-- Core set of a record, in ascending order (R369). -/
def recCores (r : BitVec 2048) : List Nat :=
  let clo := recField r 5 0
  let chi := recField r 11 6
  let cs := (List.range 16).filter fun c => r.getLsbD (16 + c)
  (recFields r).flatMap fun f => cs.flatMap fun c => (List.range (chi + 1 - clo)).map fun i => 1024 * f + 64 * c + clo + i
/-- The record is refused with BADREC (R371, order 1). DESIGN CHOICE (log entry 88): a shoff that is not 64-byte aligned is accepted,
and the shape record is written at that offset. -/
def recBad (r : BitVec 2048) : Bool :=
  let g (hi lo : Nat) : Nat := recField r hi lo
  let ck := g 1345 1344
  let tgt := g 1471 1408
  let val := g 1535 1472
  let bound (i : Nat) : Bool := let b := g (128 * i + 592) (128 * i + 576); b % 8 != 0 || 65536 < b
  g 2047 1792 != 0 || (ck != 2 && g 1791 1536 != 0)
    || (ck == 0 && (val != 0 || tgt != 0)) || (ck == 2 && (val / 4 != 0 || tgt / 2 ^ 25 != 0)) || (ck == 3 && val / 2 ^ 21 != 0)
    || g 1407 1346 != 0 || g 1343 1302 != 0 || (List.range 4).any (fun i => g (128 * i + 639) (128 * i + 593) != 0)
    || g 511 467 != 0 || g 159 152 != 0 || g 146 120 != 0 || g 64 64 != 0 || g 15 12 != 0
    || g 63 32 == 0 || g 31 16 == 0 || g 11 6 < g 5 0 || g 1295 1280 == 0 || g 69 65 == 0
    || (List.range 4).any bound
    || (g 447 384 != 0 && (g 447 384 % 64 != 0 || 524288 < g 466 448 + 128)) || (ck == 1 && tgt % 8 != 0) || (ck == 3 && tgt % 64 != 0)
/-- The core belongs to a live launch. -/
def State.inLaunch (s : State) (n : Nat) : Bool := ((s.core n).launch.map fun l => (s.launch l).live).getD false
/-- A core of a set counts as busy (R371 order 6, R435). -/
def State.coreBusy (s : State) (n asid : Nat) : Bool :=
  let k := s.core n
  s.remapState n == 2 || s.inLaunch n ||
    (k.mode != .running && (k.mode != .saved || (k.saved.map (·.workAsid)).getD asid == asid))
/-- A live launch that shares a field owns one of the channels (R319). -/
def State.channelsBusy (s : State) (r : BitVec 2048) : Bool :=
  s.launches.any fun p => p.2.live && recField p.2.record 191 176 &&& recField r 191 176 != 0 &&
    (recFields p.2.record).any (recFields r).contains
/-- The status a LAUNCH of the executing context is refused with (R371). -/
def State.launchRefused (s : State) (r : BitVec 2048) : Option Nat :=
  let cs := recCores r
  let asid := recField r 175 160
  let part := s.partOf (fieldOf s.myCore)
  if recBad r then some 6
  else if !s.me.sys && (r.getLsbD 147 || asid != s.me.asid.toNat) then some 7
  else if (recFields r).any fun f => part.isNone || s.partOf f != part then some 7
  else if cs.any fun n => !s.readySeen 0 (fieldOf n) || !s.readySeen (clusterBit (clusterOf n)).1 (clusterBit (clusterOf n)).2 then some 4
  else if cs.any fun n => s.remapState n == 0 then some 1
  else if cs.any fun n => s.remapState n == 3 then some 2
  else if cs.any fun n => s.coreBusy n asid then some 3
  else if s.channelsBusy r then some 5
  else none
/-- A LAUNCH is accepted (R70, R371, R435): its cores are placed in no defined order. -/
def State.launchAccept (s : State) (r : BitVec 2048) (shape : Nat) (d : XR) : State :=
  let l := s.nLaunch
  let cs := recCores r
  let x : Launch :=
    { issuer := s.cur, asid := recField r 175 160, cores := cs, record := r, shape := BitVec.ofNat 1024 shape, placed := [],
      live := true, acting := false, waiter := some (s.cur, d), groups := [], redBad := [] }
  let s : State := { s with launches := tset s.launches l x, nLaunch := l + 1 }
  cs.foldl (fun (s : State) n =>
    ((s.dropQueues n).mapCore n fun k => { k with launch := some l }).post (.corePlacement l n)) s
/-- LAUNCH (R435): a release at DEVICE scope. -/
def execLaunch (d : XR) (b : XS) (s : State) : Out :=
  let va := s.me.getS b
  s.needAligned va 64
    (readRecord s (s.blockMe .load va.toNat 256) (some .device) fun t v =>
      let r : BitVec 2048 := BitVec.ofNat 2048 v
      let u := t.release s.cur .device
      let go (u : State) (shape : Nat) : Out :=
        retire s ((u.launchAccept r shape d).mapMe fun x => { x with why := some .longOp })
      match t.launchRefused r with
      | some st => endStatus s u d st
      | none =>
        if recField r 447 384 = 0 then go u 0
        else readRecord s (t.blockMe .load (recField r 447 384) 128) none fun _ shape => go u shape)

/-- Place a context of core n under launch l (R57, R69): its entry, x1 and whether sys was asked for by one at sys. A
miller's asynchronous traps wait for this (R232). -/
def State.placeCtx (s : State) (c l pc : Nat) (x1 : Word) (sys : Bool) : State :=
  let n := coreOf c
  let x := s.launch l
  let old := s.ctx c
  let rank := (x.cores.findIdx? (· == n)).getD 0
  let f := loadedFctx (BitVec.ofNat 64 (recField x.record 255 192))
  let sc := loadedScptr (BitVec.ofNat 64 (recField x.record 319 256))
  let y : Ctx :=
    { Ctx.reset with
      x := Ctx.reset.x.set 1 x1, pc := BitVec.ofNat 64 pc, fctxB := f, fctxS := f, scptrB := sc, scptrS := sc
      ctxid := s.ctxidOf c, lcore := lcoreOf n rank x.cores.length (s.core n).pcol, stage := stageOf x.record rank
      priv := lvlBit sys, tvec := tvecFor c (BitVec.ofNat 64 (recField x.record 375 320)), asid := BitVec.ofNat 64 x.asid
      run := .running, lastIssue := old.lastIssue, eligFrom := s.cycle + 1, asyncs := if ctxNo c = 0 then old.asyncs else [], drains := old.drains }
  s.setCtx c y
/-- Clear the scratchpad of a core: every word zero and full (R70). -/
def State.clearSpad (s : State) (n : Nat) : State :=
  let other (a : Nat) : Bool := !(isSpad a && spadCore a == n)
  { s with mem := s.mem.filter (fun p => other p.1), empties := s.empties.filter other, poison := s.poison.filter other }
/-- The state of a core that a launch sets before it places contexts (R70, R370): a form that waits at its port for a word that is full
now is served (R303). -/
def State.prepareCore (s : State) (l n : Nat) : State :=
  let x := s.launch l
  let r := x.record
  let old := (s.core n).lastAsid
  let s := if old.isSome && old != some x.asid then s.clearSpad n else s
  let mine (c : Nat) : Bool := coreOf c == n
  let s : State := { s with sleepers := s.sleepers.filter (fun (q : Sleeper) => q.saved || !mine q.who),
                            entryWait := s.entryWait.filter fun e => !mine e.2.1 }
  let s := (stopSet n 2).foldl (fun (s : State) c => s.leaveWalks c) s
  let s := s.mapCore n fun k =>
    { k with dqbase := 0, dqtop := 0, dqbot := 0, dqspill := 0, nblk := 0, rho := 0, refill := none, pending := [],
             sgmask := Vector.ofFn fun i => BitVec.ofNat 64 (recField r (1087 + 64 * i.val) (1024 + 64 * i.val)),
             windows := windowsOf r, redCount := Vector.replicate 4 0, lastAsid := some x.asid, stop := 0, badSys := [], redOrder := [] }
  let o := recField r 466 448
  let s :=
    if recField r 447 384 = 0 then s
    else (wordsOf (spadKey n o) 128).foldl (fun (s : State) w => s.setFull w) (s.store (spadKey n o) 128 x.shape.toNat false)
  let s := s.serveCore n
  ((List.range 16).filter x.owns).foldl (fun (s : State) ch =>
    (s.mapGroup l ch fun g => { g with parts := tset g.parts n (s.partNow l n ch) }).treeCheck l ch (fieldOf n)) s
/-- Place the contexts of a core of a launch (R69, R370), each an acquire at DEVICE scope (R372); an accepted record that asks
for sys was issued at sys (R57, R371). -/
def State.placeCore (s : State) (l n : Nat) : State :=
  let r := (s.launch l).record
  let s := (List.range (recField r 151 148 + 1)).foldl (fun (s : State) j =>
    (s.placeCtx (16 * n + j) l (recField r 119 65 * 2) 0 (r.getLsbD 147)).acquireOf (16 * n + j) .device []) (s.prepareCore l n)
  let s := s.mapLaunch l fun x => { x with placed := x.placed ++ [n] }
  let x := s.launch l
  if x.placed.length < x.cores.length then s
  else
    match x.waiter with
    | none => s
    | some w => ((s.mapLaunch l fun x => { x with waiter := none }).replyX w.1 w.2 0 false).reply w.1 |>.seeLaunch n
/-- A core is fenced: one of a launch that is accepted and not yet placed on it is placed first, and then fenced (R382). -/
def State.placeFirst (s : State) (n : Nat) : State :=
  match (s.core n).launch with
  | some l => if (s.launch l).live && !(s.launch l).placed.contains n then s.placeCore l n else s
  | none => s
/-- CORE_PLACEMENT (R370): all the contexts of a core are placed in one cycle. -/
def execCorePlacement (l n : Nat) (s : State) : Out :=
  let x := s.launch l
  if x.placed.contains n || !x.live then .next s
  else if s.remapState n = 2 then .next (s.again (.corePlacement l n))
  else .next (s.placeCore l n)

/-! ## The end of a launch (R373) -/

/-- Some context that `mine` takes has a command of a cluster that has not completed (R373). A contribution to a reduction completes
with its round, though its result may wait for the parent node (R358); the commands of a saved launch belong to no other one that
occupies its core. -/
def State.outstanding (s : State) (k : Cluster) (mine : Nat → Bool) : Bool :=
  let on (who asid : Nat) : Bool := mine who && !s.savedFor (coreOf who) asid
  k.cmds.any (fun x => on x.who x.asid) || (k.reds.filter Red.pending).any (fun x => on x.who x.asid) || k.subs.any (fun x => on x.who x.asid)
    || k.rets.any (fun x => on x.who x.asid) || k.mill.any (fun x => on x.who x.asid)
    || k.omu.queue.any fun x =>
      match x with
      | .load _ w a _ => on w a
      | .swap w _ | .prbe w _ | .phcrc w _ _ _ => mine w
      | .pass p => on p.who p.asid
/-- Every context of a launch has halted, and none of its cores is saved (R373). -/
def State.launchHalted (s : State) (l : Nat) : Bool :=
  let x := s.launch l
  let out (n : Nat) : Bool :=
    let k := s.core n
    (k.launch != some l || ((k.mode == .running || k.mode == .saved) && (List.range 16).all fun j => (s.ctx (16 * n + j)).run == .halted))
      && k.saved.bind (·.launch) != some l
  x.placed.length == x.cores.length && x.cores.all fun n => s.remapState n == 3 || out n
/-- Every access and every asynchronous operation of a launch's contexts is done: a core that another launch has taken over since is
that one's. -/
def State.launchQuiet (s : State) (l : Nat) : Bool :=
  let here (n : Nat) : Bool := ((s.core n).launch.getD l) == l
  let ns := (s.launch l).cores.filter here
  let mine (c : Nat) : Bool := ns.contains (coreOf c)
  ns.all (fun n => (List.range 16).all fun j => (s.ctx (16 * n + j)).buf.isEmpty && s.calm (16 * n + j) .system none) &&
    s.clus.all fun p => !s.outstanding p.2 mine
/-- The asker of a completion action (R373): the record's ASID, by a slice of the issuer's field, at sys. -/
def Launch.asker (x : Launch) : Asker := ⟨x.asid, coreOf x.issuer, true⟩
/-- A completion action that its target refuses is discarded and logged with its destination: the VA of a flag, a context or a core
(R373, R474). -/
def State.actDropped (s : State) (x : Launch) : State :=
  s.logDiscard (coreOf x.issuer)
    (if recField x.record 1345 1344 = 3 then recField x.record 1492 1472 else recField x.record 1471 1408)
/-- The outcome of a completion action: done, or to be tried again. -/
inductive Act where
  | done (s : State)
  | again (s : State)
/-- Completion action of ckind 1 of launch l: the flag is written at its home, its VA translated by a slice (R373). -/
def State.actFlag (s : State) (l : Nat) (x : Launch) : Act :=
  let va := recField x.record 1471 1408
  if inWindow va ∨ 2 ^ 56 ≤ va then .done (s.actDropped x)
  else
    match s.devRange x.asker (launchUnit l) .store va 8 with
    | .miss a => .again (s.openWalk x.asker (launchUnit l) a .store)
    | .held | .saved => .again s
    | .trap _ _ _ => .done ((s.failUsed (launchUnit l)).actDropped x)
    | .ok ps =>
      let a := key0 ps
      if (s.badPiece ps).isSome then .done (s.actDropped x)
      else if s.heldKey x.issuer x.asid .atomic a then .again s
      else .done (s.homeWrite x.issuer a (BitVec.ofNat 64 (recField x.record 1535 1472)) (some .system))
/-- Completion action of ckind 2: a message from the issuer's address as recorded at acceptance (R373); to a context of this package it
comes behind those of its triple (R335). -/
def State.actSend (s : State) (x : Launch) : Act :=
  let dst := recField x.record 1432 1408
  let part := s.partOf (fieldOf (coreOf x.issuer))
  let m : Msg := { dst := gctxKey dst, ch := recField x.record 1473 1472, payload := BitVec.ofNat 256 (recField x.record 1791 1536), addr := s.globalCtx x.issuer, status := 0, host := false, asid := x.asid, scope := .system, poisoned := false, via := none }
  match part with
  | none => .done (s.actDropped x)
  | some p =>
    if gctxPkg dst = s.pkg then
      if s.partOf (fieldOf (coreOf (gctxKey dst))) = some p then .done (s.post (.messageArrival m noCtx 0))
      else .done (s.actDropped x)
    else if s.reaches p (gctxPkg dst) 0 then .done (s.sendMessage noCtx (gctxPkg dst) m 0)
    else .done (s.actDropped x)
/-- Completion action of ckind 3 of launch l: a frame is pushed on the deque of a core as CPYT pushes one (R355, R373). -/
def State.actPush (s : State) (l : Nat) (x : Launch) : Act :=
  let g := recField x.record 1492 1472
  let n := g % 2 ^ 15
  let va := recField x.record 1471 1408
  let part := s.partOf (fieldOf (coreOf x.issuer))
  if g / 2 ^ 15 ≠ s.pkg || part.isNone || s.partOf (fieldOf n) != part then .done (s.actDropped x)
  else
    match s.remapState n with
    | 0 | 3 => .done (s.actDropped x)
    | 2 => .again s
    | _ =>
      if s.portFrozen n x.asid || (s.core n).mode == .restoring then .again s
      else
        match s.frameAt x.asker (s.unitFail x.asker (launchUnit l) va) .load va 0 8 with
        | .miss a => .again (s.openWalk x.asker (launchUnit l) a .load)
        | .held | .saved => .again s
        | .trap _ _ _ => .done ((s.failUsed (launchUnit l)).actDropped x)
        | .ok ps =>
          if (s.badPiece ps).isSome then .done (s.actDropped x)
          else
            match s.push n (BitVec.ofNat 64 va) with
            | .done t =>
              .done (((t.tagWrite x.issuer (some .system) true (s.dqSlot n (s.core n).dqbot.toNat)).refillDue n).wakeDeque n)
            | .walk t => .again (t.openWalk (t.spillAsker n) (portUnit n) (t.spillVa n) .store)
            | .wait => .again s
            | .full => .again (s.portAsks n)
/-- The completion action of launch l (R373). -/
def State.act (s : State) (l : Nat) (x : Launch) : Act :=
  match recField x.record 1345 1344 with
  | 0 => .done s
  | 1 => s.actFlag l x
  | 2 => s.actSend x
  | _ => s.actPush l x
/-- The core whose ingress a launch's completion action has reached: that of a push (R33, R373). -/
def Launch.pushKey (x : Launch) : Nat :=
  if recField x.record 1345 1344 = 3 then spadKey (recField x.record 1492 1472 % 2 ^ 15) 0 else 0
/-- LAUNCH_END (R373): the cores stop counting as busy and the channels are freed; then the completion action is performed,
waiting for a walk or a held target. -/
def execLaunchEnd (l : Nat) (s : State) : Out :=
  let x := s.launch l
  let act (s : State) : Out :=
    match s.act l x with
    | .done t => .next (t.mapLaunch l fun x => { x with acting := false })
    | .again t => .next (t.heldBy x.pushKey (.launchEnd l))
  if x.acting then act s
  else if !x.live || !s.launchHalted l then .next s
  else if !s.launchQuiet l then .next (s.again (.launchEnd l))
  else
    let s := x.cores.foldl (fun (s : State) n =>
      s.mapCore n fun k => if k.launch = some l then { k with launch := none } else k) s
    act (s.mapLaunch l fun x => { x with live := false, acting := true })

/-! ## START and REAP (R436, R437) -/

/-- START (R33, R436): a release at CORE scope; the context's first head pairs with it. A context with a trap that it has yet to
pass to the miller (R232) is about to be held, and counts as busy. -/
def execStart (n : Fin 16) (d : XR) (b : XS) (s : State) : Out :=
  let va := s.me.getS b
  let c := 16 * s.myCore + n.val
  s.needMiller (s.needAligned va 16
    (readRecord s (s.resolveMe .load va.toNat 16) (some .core) fun t v =>
      let u := t.release s.cur .core
      let l := (s.core s.myCore).launch.getD s.nLaunch
      let entry := s.remapState s.myCore
      if entry = 0 then endStatus s u d 1
      else if entry = 3 then endStatus s u d 2
      else if entry = 2 ∨ (s.ctx c).run ≠ .halted ∨ (s.ctx c).asyncs ≠ [] then endStatus s u d 3
      else if !goodPc (v % 2 ^ 64) then endStatus s u d 6
      else
        let sys := (s.launch l).record.getLsbD 147 && s.me.sys
        endStatus s ((u.placeCtx c l (v % 2 ^ 64) (BitVec.ofNat 64 (v / 2 ^ 64)) sys).acquireOf c .core []) d 0))
/-- REAP waits for the context to reach its line boundary, or for its buffer to drain. -/
def reapWait (s : State) (c : Nat) : Out :=
  .next (((s.park (.buffer 0)).post (.storeBufferDrain c)).post (.storeBufferDrain s.cur))
/-- A context that has stopped for REAP is halted, and its task is given up (R437); a half-taken one stays recorded in it, as a freeze
leaves it (R401). -/
def State.reaped (s : State) (c : Nat) : State :=
  let s := s.mapCore (coreOf c) fun k => { k with pending := k.pending.filter fun p => p.preempt || p.src != ctxNo c }
  haltCtx (s.mapCtx c fun x => { x with taskf := 0, shadow := false, resume := none }) c
/-- REAP (R437): what is outstanding is carried over as a freeze does it, but for a sleeper, which keeps no place. -/
def execReap (n : Fin 16) (d : XR) (s : State) : Out :=
  let c := 16 * s.myCore + n.val
  let x := s.ctx c
  s.needMiller
    (match x.run with
     | .halted => retireLong s (s.putX d 0)
     | .held =>
       match s.drainAll c with
       | none => reapWait s c
       | some t => retireLong s ((t.reaped c).putX d x.taskf)
     | .running =>
       let s1 := s.mapCtx c fun x => { x with reaping := true }
       let s1 := if x.why = some .sleep && s.sleeps c then (s1.withdraw c).freezeCtx c else s1.stopCtx c
       if (s1.ctx c).why = some .frozen then
         match s1.drainAll c with
         | none => reapWait s1 c
         | some t => retireLong s ((t.reaped c).putX d x.taskf)
       else reapWait s1 c)

/-! ## TRAP and ERET (R434) -/

/-- TRAP (R434): SOFT with EPC at the next head. -/
def execTrap (n : BitVec 6) (s : State) : Out := .next (s.trapTo 0x07 (n.setWidth 64) s.epcNext)
/-- ERET (R434): back to EPC at the previous level; a restoring core's miller makes the core RUNNING (R445). -/
def execEret (s : State) : Out :=
  s.needSys
    (let c := s.me
     let t := s.mapMe fun x => { x with priv := setField x.priv 0 1 (x.priv >>> 1), intv := false }
     let k := s.core s.myCore
     let t :=
       match k.saved with
       | some v => if ctxNo s.cur = 0 ∧ k.mode = .restoring then t.coreResume s.myCore v else t
       | none => t
     transfer s t (bits c.epc.toNat 55 1 * 2))

/-! ## Context images (R439) -/

/-- The words of an image that hold system registers (R438): the register's number, shadow copies counted from 128, and the word. -/
def sysWords : List (Nat × Nat) :=
  [(1, 106), (2, 107), (129, 108), (130, 109), (3, 110), (0x13, 111), (0x100, 112), (0x101, 113), (0x102, 114), (0x103, 115),
   (0x104, 116), (0x105, 117), (pcNumber, 104), (0x10, 118), (0x11, 119), (0x12, 120)]
/-- Words of an image that hold a poisoned register. -/
def badWords (c : Ctx) : List Nat :=
  ((List.range 32).filter fun i => c.bad.getLsbD i)
    ++ ((List.range 64).filter fun i => c.bad.getLsbD (32 + i / 4)).map (32 + ·)
    ++ ((List.range 8).filter fun i => c.bad.getLsbD (48 + i)).map (96 + ·)
    ++ (sysWords.filter fun p => c.badSys.contains p.1).map (·.2)
/-- CTXSV may save a context (R439). -/
def State.savable (s : State) (c : Nat) : Bool :=
  c == s.cur || (s.ctx c).run != .running || (s.ctx c).why == some .frozen
    || ((s.core (coreOf c)).mode == .frozen && (s.ctx c).why == some .sleep)
/-- CTXSV (R439); the miller's own, while the core is FROZEN, ends the save (R442). -/
def execCtxsv (n : Fin 16) (d : XR) (b : XS) (s : State) : Out :=
  let va := s.me.getS b
  let c := 16 * s.myCore + n.val
  s.needSys (s.needAligned va 64
    (s.onRes .store (s.blockMe .store va.toNat 1024) fun ps => s.drained fun t =>
      if !t.savable c then endStatus s t d 3
      else
        match t.drainAll c with
        | none => reapWait s c
        | some t =>
          let self := c == s.cur
          let x := t.ctx c
          let x := if self then x.setX d 1 else x
          let v := if self then t.image c s.nextPc 1 x else t.image c x.pc.toNat (t.runCode c) x
          let ks := pieceKeys ps
          let ws := keyWords ks
          let bs := storeBytes ks v
          if !ws.all (t.canPerform s.cur s.me.asid.toNat) then reapWait s c else
          let t := ws.foldl (fun (t : State) w => t.performWord s.cur bs s.me.rel false w) t
          let t := (badWords x).foldl (fun (t : State) i => t.setBad (ks.getD (8 * i) 0)) t
          let t := (t.mapCtx c fun y => { y with armed := none }).putX d 0
          if self && ctxNo c == 0 && (s.core s.myCore).mode == .frozen then
            if goodPc s.nextPc then retire s (t.saveDone s.myCore) else .next (s.trap 0x02 (BitVec.ofNat 64 s.nextPc))
          else retireLong s t))
/-- CTXLD (R439). -/
def execCtxld (n : Fin 16) (d : XR) (b : XS) (s : State) : Out :=
  let va := s.me.getS b
  let c := 16 * s.myCore + n.val
  s.needSys (s.needAligned va 64
    (readRecord s (s.blockMe .load va.toNat 1024) none fun t v =>
      if c ≠ s.cur ∧ (t.ctx c).run = .running then endStatus s t d 3
      else if !imageOk v then endStatus s t d 6
      else if c = s.cur then .next { t.loadImage c v with mark := .done }
      else endStatus s (t.loadImage c v) d 0))

/-! ## Pre-emption (R442, R445) -/

/-- A MIGR of a core has been accepted in this cycle, or its sequencer is about to take it up: the core is as good as MOVING (R447). -/
def State.migrStarts (s : State) (n : Nat) : Bool :=
  let k := s.clu (clusterOf n)
  k.migReqs.any fun r => r.core == n && r.migr && (r.arrived == s.cycle || k.mig.isNone)
/-- The status both forms refuse with first (R445). -/
def State.saverRefused (s : State) (g : Nat) : Option Nat :=
  let n := g % 2 ^ 15
  let part := s.partOf (fieldOf s.myCore)
  let st := s.remapState n
  let m := (s.core n).mode
  if bits g 20 15 ≠ s.pkg || st == 0 then some 1
  else if part.isNone || s.partOf (fieldOf n) != part then some 7
  else if st = 3 then some 2
  else if st = 2 || m == .freezing || m == .frozen || m == .restoring || s.migrStarts n then some 3
  else none
/-- The first failing page of a save block, for a right (R445). -/
def State.saveBlockMe (s : State) (acc : Acc) (va : Nat) : Res :=
  (List.range 10).foldl (fun r i => joinLanes r (s.resolveMe acc (va + 65536 * i) 64)) (.ok [])
/-- The request of PRMT and RSME (R445): its target core and its save block. -/
def readRequest (s : State) (b : XS) (k : State → Nat → Nat → Out) : Out :=
  let va := s.me.getS b
  s.needSys (s.needAligned va 16
    (readRecord s (s.resolveMe .load va.toNat 16) none fun t v =>
      let blk := v / 2 ^ 64
      s.needAligned (BitVec.ofNat 64 blk) 65536 (k t (v % 2 ^ 21) blk)))
/-- The core begins to freeze (R442). -/
def State.freezeBegin (s : State) (n block : Nat) (d : XR) : State :=
  let k : Saved :=
    { block := block, issuer := s.cur, asid := s.me.asid.toNat, sys := s.me.sys,
      workAsid := ((s.core n).launch.map fun l => (s.launch l).asid).getD 0, launch := (s.core n).launch, msgs := [],
      waiter := some (s.cur, d), asyncs := [], flags := [], redCount := Vector.replicate 4 0,
      sgmask := (s.core n).sgmask, cleared := Vector.replicate 4 0 }
  ((s.mapCore n fun c => { c with mode := .freezing, saved := some k, refill := none }).stopCore n 1).post (.millerTakeTrap n)
/-- PRMT (R445). -/
def execPrmt (d : XR) (b : XS) (s : State) : Out :=
  readRequest s b fun t g blk =>
    let n := g % 2 ^ 15
    match t.saverRefused g with
    | some st => endStatus s t d st
    | none =>
      if (t.core n).mode = .saved ∧ t.inLaunch n then endStatus s t d 3
      else if !t.inLaunch n || (t.ctx (16 * n)).run == .halted then endStatus s t d 9
      else
        t.onRes .store (t.saveBlockMe .store blk) fun _ =>
          retire s ((t.freezeBegin n blk d).mapMe fun x => { x with why := some .longOp })
/-- What the device itself reads of a save block of m messages when it restores a core: image 0, the core record with the full-bit map,
and the entries of the message area, by offset and length (R443, R445). The rest is the handler's to read. -/
def blockReads (m : Nat) : List (Nat × Nat) :=
  [(0, 1024), (16384, 8320)] ++ if m = 0 then [] else [(589824, 64 * Nat.min m 1024)]
/-- RSME (R445). -/
def execRsme (d : XR) (b : XS) (s : State) : Out :=
  readRequest s b fun t g blk =>
    let n := g % 2 ^ 15
    match t.saverRefused g, (t.core n).saved with
    | some st, _ => endStatus s t d st
    | none, none => endStatus s t d 10
    | none, some k =>
      if (t.core n).mode ≠ .saved ∨ k.block ≠ blk then endStatus s t d 10
      else if t.inLaunch n then endStatus s t d 3
      else
        t.onRes .load ((blockReads k.msgs.length).foldl (fun r p => joinRes r (t.blockMe .load (blk + p.1) p.2)) (t.saveBlockMe .load blk))
          fun ps => t.readCheck false ps fun t =>
            match t.blockMe .load blk 1024 with
            | .ok qs =>
              let v := t.readKeys (pieceKeys qs)
              if !imageOk v then endStatus s t d 6
              else retire s ((t.restore (t.asker s.cur) n k v (s.cur, d)).mapMe fun x => { x with why := some .longOp })
            | _ => endStatus s t d 6
/-- MILLER_TAKE_TRAP (R430, R442): a freeze goes on, or a miller that waits is taken where it stands. -/
def execMillerTakeTrap (n : Nat) (s : State) : Out :=
  if (s.core n).mode = .freezing then .next (s.freezeStep n)
  else if s.millerReady n && inWait (s.ctx (16 * n)).why && !(s.core n).pending.isEmpty then .next (s.millerTake n)
  else .next s
/-- ASYNC_TRAP_TAKE (R232): a halted context passes its trap to the miller by delegation; a halted miller holds it. -/
def execAsyncTrapTake (c : Nat) (s : State) : Out :=
  match (s.ctx c).asyncs with
  | [] => .next s
  | a :: as =>
    if (s.ctx c).run ≠ .halted ∨ ctxNo c = 0 then .next s
    else .next (delegate (s.mapCtx c fun x => { x with asyncs := as }) c a.cause a.val (s.ctx c).pc true)
/-- IFETCH_LINE_ARRIVAL (R376). -/
def execIfetchLineArrival (c : Nat) (s : State) : Out := .next (s.lineArrival c)

/-! ## ERRINJ (R441) -/

/-- The register code names a register that an injection of this structure may take. -/
def injectable (struct reg : Nat) : Bool :=
  match struct with
  | 0 => 1 ≤ reg && reg < 32
  | 1 => 32 ≤ reg && reg < 48
  | 2 => 49 ≤ reg && reg < 56
  | _ => struct < 8
/-- ERRINJ (R441). -/
def execErrinj (d : XR) (b : XS) (s : State) : Out :=
  let w := (s.me.getS b).toNat
  let st := bits w 3 0
  s.needSys
    (if !injectable st (bits w 20 15) then .next (s.trapHead 0x01)
     else if !s.mgmt.injection then retireLong s (s.putX d 0)
     else
       let a : Armed := { struct := st, reg := bits w 20 15, bit := bits w 14 5, unc := w.testBit 4 }
       retireLong s ((s.mapMe fun x => { x with armed := some a }).putX d 1))

/-! ## System registers (R42, R43, R433) -/

/-- A right the table of R42 asks for. -/
inductive Right where
  | any | sys | miller | ro
  deriving DecidableEq, Repr
/-- Read and write rights of a register number (R42). -/
def regRights (num : Nat) : Option (Right × Right) :=
  if num ∈ [0x001, 0x002, 0x003, 0x004] then some (.any, .any)
  else if num ∈ [0x010, 0x011, 0x012, 0x013, 0x300] || (0x400 ≤ num && num ≤ 0x41F) then some (.any, .ro)
  else if num = 0x100 then some (.any, .sys)
  else if num ∈ [0x101, 0x102, 0x103, 0x104, 0x105] then some (.sys, .sys)
  else if num ∈ [0x200, 0x201, 0x202, 0x203, 0x210, 0x211, 0x212, 0x213] then some (.any, .miller)
  else none
/-- sysreg_check of R43, up to its rights. -/
def State.regCheck (s : State) (num : Nat) (write : Bool) (k : Out) : Out :=
  match regRights num with
  | none => .next (s.trapHead 0x01)
  | some (r, w) =>
    match if write then w else r with
    | .sys => if s.me.sys then k else .next (s.trap 0x04 (BitVec.ofNat 64 num))
    | .miller => if ctxNo s.cur = 0 then k else .next (s.trap 0x04 (BitVec.ofNat 64 num))
    | _ => k
/-- The value MFS reads (R42 to R66). -/
def State.readReg (s : State) (num : Nat) : Word :=
  let c := s.me
  let k := s.core s.myCore
  if num = 0x001 then c.fctx
  else if num = 0x002 then c.scptr
  else if num = 0x003 then c.fstat
  else if num = 0x004 then BitVec.ofNat 64 (ebcminOf c.fctx)
  else if num = 0x010 then c.ctxid
  else if num = 0x011 then c.lcore
  else if num = 0x012 then c.stage
  else if num = 0x013 then c.taskf
  else if num = 0x100 then c.priv
  else if num = 0x101 then c.epc
  else if num = 0x102 then c.ecause
  else if num = 0x103 then c.eval
  else if num = 0x104 then c.tvec
  else if num = 0x105 then c.asid
  else if num = 0x200 then k.dqbase
  else if num = 0x201 then k.dqtop
  else if num = 0x202 then k.dqbot
  else if num = 0x203 then k.dqspill
  else if 0x210 ≤ num ∧ num ≤ 0x213 then k.sgmask.toList.getD (num - 0x210) 0
  else if num = 0x300 then s.govstat (clusterOf s.myCore)
  else s.rdySeen.toList.getD (num - 0x400) 0
/-- MFS (R433). -/
def execMfs (d : XR) (num : BitVec 12) (s : State) : Out :=
  s.regCheck num.toNat false (retire s (s.putX d (s.readReg num.toNat)))
/-- An MTS (R433): the checks of R43, then its own effect. -/
def writeReg (s : State) (num : Nat) (a : XS) (rsv : Word) (k : Word → Out) : Out :=
  let v := s.me.getS a
  s.regCheck num true (if v &&& rsv = 0 then k v else .next (s.trap 0x03 v))
/-- The number under which the poison of a register that an MTS writes stands: shadow copies count from 128 (R48, R68). -/
def Ctx.badNo (c : Ctx) (num : Nat) : Nat := if c.shadow && (num == 1 || num == 2) then 128 + num else num
/-- An MTS that writes a register of the context, whose poison it replaces (R470). -/
def writeCtx (s : State) (num : Nat) (a : XS) (rsv : Word) (f : Ctx → Word → Ctx) : Out :=
  writeReg s num a rsv fun v => retire s (s.mapMe fun c => { f c v with badSys := kdel c.badSys (c.badNo num) })
/-- MTS FCTX (R44, R48). -/
def execMtsFctx (a : XS) (s : State) : Out := writeCtx s 0x001 a rsvFctx Ctx.setFctx
/-- MTS EBCMIN (R46). -/
def execMtsEbcmin (a : XS) (s : State) : Out :=
  writeCtx s 0x004 a (~~~0xF#64) fun c v => c.setFctx (setField c.fctx 3 4 v)
/-- MTS SCPTR (R47, R48). -/
def execMtsScptr (a : XS) (s : State) : Out := writeCtx s 0x002 a rsvFrame Ctx.setScptr
/-- MTS FSTAT (R7, R49): a 0 clears its bit, a 1 has no effect. A flag that was merged in the same cycle stays set (R50). -/
def execMtsFstat (a : XS) (s : State) : Out :=
  writeCtx s 0x003 a rsvFstat fun c v =>
    { c with fstat := (c.fstat &&& v) ||| (if c.merged.1 = s.cycle then c.fstat &&& c.merged.2 else 0) }
/-- MTS PRIV (R56, R57). -/
def execMtsPriv (a : XS) (s : State) : Out := writeCtx s 0x100 a rsvPriv fun c v => { c with priv := v }
/-- A code address whose head index is 0 is refused (R59). -/
def needHead (s : State) (v : Word) (k : Out) : Out := if bits v.toNat 5 1 = 0 then .next (s.trap 0x03 v) else k
/-- MTS EPC (R58, R59). -/
def execMtsEpc (a : XS) (s : State) : Out :=
  writeReg s 0x101 a rsvEpc fun v => needHead s v (retire s (s.mapMe fun c => { c with epc := v, badSys := kdel c.badSys 0x101 }))
/-- MTS TVEC (R58, R59). -/
def execMtsTvec (a : XS) (s : State) : Out :=
  writeReg s 0x104 a rsvTvec fun v => needHead s v (retire s (s.mapMe fun c => { c with tvec := tvecFor s.cur v, badSys := kdel c.badSys 0x104 }))
/-- MTS ASID (R60). -/
def execMtsAsid (a : XS) (s : State) : Out := writeCtx s 0x105 a rsvAsid fun c v => { c with asid := v }
/-- An MTS to a deque register (R61, R62, R389): a write that its rule forbids raises TASK_STATE. -/
def writeDeque (s : State) (num : Nat) (a : XS) (rsv : Word) (ok : Core → Word → Bool) (f : Core → Word → Core) : Out :=
  let n := s.myCore
  writeReg s num a rsv fun v =>
    if ok (s.core n) v then retire s ((((s.mapCore n fun k => { f k v with badSys := kdel k.badSys num })).refillDue n).wakeDeque n)
    else .next (s.trap 0x08 v)
/-- MTS DQBASE (R389). -/
def execMtsDqbase (a : XS) (s : State) : Out :=
  writeDeque s 0x200 a (~~~0x7F800#64) (fun k _ => k.dqLen == 0) fun k v => { k with dqbase := v }
/-- MTS DQTOP (R389). -/
def execMtsDqtop (a : XS) (s : State) : Out :=
  writeDeque s 0x201 a (~~~0xFFFFFFFF#64) (fun k v => ({ k with dqtop := v }).dqLen ≤ 256) fun k v => { k with dqtop := v }
/-- MTS DQBOT (R389). -/
def execMtsDqbot (a : XS) (s : State) : Out :=
  writeDeque s 0x202 a (~~~0xFFFFFFFF#64) (fun k v => ({ k with dqbot := v }).dqLen ≤ 256) fun k v => { k with dqbot := v }
/-- MTS DQSPILL (R389). -/
def execMtsDqspill (a : XS) (s : State) : Out :=
  writeDeque s 0x203 a 0xFF00000000000FFF (fun k _ => k.nblk == 0) fun k v => { k with dqspill := v }
/-- MTS SGMASK (R63, R64): a phase that is open keeps its member set, unless it opened in this cycle (R321). -/
def execMtsSgmask (n : Fin 4) (a : XS) (s : State) : Out :=
  writeReg s (0x210 + n.val) a 0 fun v =>
    let t := s.mapCore s.myCore fun k =>
      { k with sgmask := k.sgmask.set n v, sgWrote := k.sgWrote.set n (s.cycle + 1), badSys := kdel k.badSys (0x210 + n.val) }
    retire s (t.maskWritten s.myCore n.val)
/-- MTS of a register that has no row of its own (R433): ECAUSE and EVAL; a write of a read-only register is discarded. -/
def execMts (a : XS) (num : BitVec 12) (s : State) : Out :=
  if num = 0x102#12 then writeCtx s 0x102 a rsvEcause fun c v => { c with ecause := v }
  else if num = 0x103#12 then writeCtx s 0x103 a 0 fun c v => { c with eval := v }
  else if (regRights num.toNat).map (·.2) = some .ro then s.regCheck num.toNat true (retire s s)
  else .next (s.trapHead 0x01)

end Sys2Proof.Machine
end

