-- ==== Sys2Proof/Machine/Vote.lean ====
section
/-! DEFINITION. Soft errors, scrubbing and the vertical-bus tester (R467 to R475); heartbeats, the vote, the fence and
readmission (R476 to R484). -/
namespace Sys2Proof.Machine

/-! ## Columns and their neighbours (R17, R20, R476) -/

/-- Grid site of a field (R17). -/
def fieldSite (f : Nat) : Nat × Nat :=
  if f < 4 then (f + 1, 0) else if f < 28 then ((f - 4) % 6, (f - 4) / 6 + 1) else (f - 27, 5)
/-- Field at a grid site (R17). -/
def siteField (fx fy : Nat) : Option Nat :=
  if 5 < fx || 5 < fy || ((fx == 0 || fx == 5) && (fy == 0 || fy == 5)) then none
  else if fy = 0 then some (fx - 1) else if fy = 5 then some (27 + fx) else some (4 + 6 * (fy - 1) + fx)
/-- Mesh coordinates of a column, by its key 64 * cluster + column (R20). -/
def colXY (col : Nat) : Nat × Nat :=
  let p := col % 64
  let c := col / 64 % 16
  let g := fieldSite (col / 1024)
  (32 * g.1 + 8 * (c % 4) + p % 8, 32 * g.2 + 8 * (c / 4) + p / 8)
/-- The column at mesh coordinates (R20). -/
def colAt (x y : Nat) : Option Nat :=
  (siteField (x / 32) (y / 32)).map fun f =>
    1024 * f + 64 * (4 * (y % 32 / 8) + x % 32 / 8) + 8 * (y % 8) + x % 8
/-- The good column north, east, south or west of a column (R476). -/
def nbrOf (col d : Nat) : Option Nat :=
  let p := colXY col
  let q :=
    match d with
    | 0 => if p.2 = 0 then none else colAt p.1 (p.2 - 1)
    | 1 => colAt (p.1 + 1) p.2
    | 2 => colAt p.1 (p.2 + 1)
    | _ => if p.1 = 0 then none else colAt (p.1 - 1) p.2
  q.filter Config.goodColumn
/-- The direction back. -/
def oppDir (d : Nat) : Nat := (d + 2) % 4
/-- A column. -/
def State.col (s : State) (k : Nat) : Column := tget s.cols k Column.reset
/-- Change a column. -/
def State.mapCol (s : State) (k : Nat) (f : Column → Column) : State := { s with cols := tset s.cols k (f (s.col k)) }
/-- Set or clear bit d. -/
def bit4 (v : BitVec 4) (d : Nat) (on : Bool) : BitVec 4 :=
  if on then v ||| BitVec.ofNat 4 (2 ^ d) else v &&& ~~~(BitVec.ofNat 4 (2 ^ d))
/-- Number of bits set. -/
def count4 (v : BitVec 4) : Nat := ((List.range 4).filter v.getLsbD).length
/-- Directions of the bits set. -/
def dirs4 (v : BitVec 4) : List Nat := (List.range 4).filter v.getLsbD
/-- The majority of R478. -/
def majority (n : Nat) : Nat := if n = 4 then 3 else if n = 1 then 1 else 2
/-- The neighbours that a column has when it is brought up (R476, R483). -/
def nbrBits (col : Nat) : BitVec 4 := (List.range 4).foldl (fun v d => bit4 v d (nbrOf col d).isSome) 0
/-- Key of the column that serves a core. -/
def State.colOf (s : State) (n : Nat) : Nat := 64 * clusterOf n + bits (s.remapOf n).toNat 5 0
/-- The logical core that a column serves, or is leaving (R30). -/
def State.coreAt (s : State) (col : Nat) : Option Nat :=
  ((List.range 64).map (64 * (col / 64) + ·)).find? fun n => s.remapState n != 0 && s.colOf n == col
/-- Write a remap entry (R30). -/
def State.setRemap (s : State) (n st p : Nat) : State :=
  (s.mapClu (clusterOf n) fun c =>
    { c with remap := Vector.ofFn fun i => if i.val = n % 64 then BitVec.ofNat 16 (st * 2 ^ 14 + p % 64) else c.remap[i] }).inventory
/-- A column takes part in a migration, so the vote exempts it (R480). -/
def State.isMoving (s : State) (col : Nat) : Bool := ((s.coreAt col).map fun n => s.remapState n == 2).getD false

/-! ## Soft errors (R467 to R475) -/

/-- Poison the 8 words of a line (R467). -/
def State.badLine (s : State) (pa : Nat) : State := (List.range 8).foldl (fun (s : State) i => s.setBad (pa / 64 * 64 + 8 * i)) s
/-- The registers of a core, of its cluster and of its module that its heads read, by number (R61, R63, R65, R66). -/
def coreRegs : List Nat :=
  [0x200, 0x201, 0x202, 0x203, 0x210, 0x211, 0x212, 0x213, 0x300] ++ (List.range 32).map (0x400 + ·)
/-- The width of a register of structure 0, 1 or 2 (R441). -/
def regWidth (struct : Nat) : Nat := if struct = 0 then 64 else if struct = 1 then 256 else 32
/-- An error comes into a register of a context: uncorrectable it poisons the register. Correctable it stands there until a head reads
it, replays and corrects it (R469); it undoes one in the same bit, and with another in one 64-bit word it is uncorrectable (R467, R469). -/
def State.regError (s : State) (c struct reg bit : Nat) (unc : Bool) : State :=
  let n := coreOf c
  let b := bit % regWidth struct
  let old := (s.ctx c).armed.toList ++ (s.ctx c).latent
  let here (a : Armed) : Bool := a.struct == struct && a.reg == reg
  let same (a : Armed) : Bool := here a && a.bit % regWidth struct == b
  let mates := old.any fun a => here a && a.bit % regWidth struct / 64 == b / 64
  let drop (x : Ctx) (p : Armed → Bool) : Ctx := { x with armed := x.armed.filter (!p ·), latent := x.latent.filter (!p ·) }
  if !injectable struct reg then s
  else if !unc && old.any same then s.mapCtx c fun x => drop x same
  else if unc || mates then
    (s.logClu (clusterOf n) .reg (errRec 1 struct (s.colUnit n) 0 reg b s.cycle)).mapCtx c fun x =>
      { drop x here with bad := x.bad ||| xBad reg }
  else s.mapCtx c fun x => { x with latent := x.latent ++ [⟨struct, reg, b, false⟩] }
/-- An error comes into a system register or a shadow copy of a context, into its pc, or into a register of its core, by number (R68,
R467): as one of a register does. -/
def State.sysError (s : State) (c num bit : Nat) (unc : Bool) : State :=
  let n := coreOf c
  let b := bit % 64
  let same (a : Armed) : Bool := a.struct == 11 && a.reg == num && a.bit == b
  let here (a : Armed) : Bool := a.struct == 11 && a.reg == num
  let x := s.ctx c
  let own := sysWords.any (·.1 == num)
  if !own && !coreRegs.contains num then s
  else if !unc && x.latent.any same then s.mapCtx c fun x => { x with latent := x.latent.filter (!same ·) }
  else if unc || x.latent.any here then
    let s := (s.logClu (clusterOf n) .reg (errRec 1 11 (s.colUnit n) 0 num b s.cycle)).mapCtx c fun x =>
      { x with latent := x.latent.filter (!here ·) }
    if own then s.mapCtx c fun x => { x with badSys := kput x.badSys num }
    else s.mapCore n fun k => { k with badSys := kput k.badSys num }
  else s.mapCtx c fun x => { x with latent := x.latent ++ [⟨11, num, b, false⟩] }
/-- An error in a store-buffer entry of a context, 0 to 7, or in its wait or translation record, beyond: the word it is for is written
poisoned when the entry is performed (R467). -/
def State.recordError (s : State) (c i bit : Nat) (unc : Bool) : State :=
  let n := coreOf c
  let t := s.logClu (clusterOf n) .reg (errRec (if unc then 1 else 0) 8 (s.colUnit n) 0 i (bit % 256) s.cycle)
  let mark : BufEntry → BufEntry
    | .store ps bs a left rel _ => .store ps bs a left rel true
    | e => e
  if !unc then t
  else if 8 ≤ i then t.mapCtx c fun x => { x with recBad := x.recBad || x.why.isSome || s.sleepers.any (·.who == c) }
  else t.mapCtx c fun x => { x with buf := x.buf.zipIdx.map fun p => if p.2 = i then mark p.1 else p.1 }
/-- An error in an entry of a core's receive queue, or beyond it of its spill queue in HBM: the entry is poisoned (R467). -/
def State.queueError (s : State) (n i bit : Nat) (unc : Bool) : State :=
  let t := s.logClu (clusterOf n) .reg (errRec (if unc then 1 else 0) 7 (s.colUnit n) 0 i (bit % 256) s.cycle)
  let k := s.core n
  if !unc then t
  else if i < k.rq.length then
    t.mapCore n fun k => { k with rq := k.rq.zipIdx.map fun p => if p.2 = i then { p.1 with poisoned := true } else p.1 }
  else
    match k.spillSlots[i - k.rq.length]? with
    | some j => t.badLine (spillRing n j)
    | none => t
/-- Fields of the gateway routers of a port site (R19). -/
def gatewayFields : List (List Nat) := [[0, 4], [3, 9], [22, 28], [27, 31]]
/-- A parity error on a mesh link: the flit is sent again and a record names the router that found it: the one of a column, by its key, or,
from 32768 on, gateway router i of field f, as 32768 + 16 f + i (R467, R473, R544). -/
def State.linkError (s : State) (unit seq bit : Nat) : State :=
  let r (u k : Nat) : BitVec 128 := errRec 3 9 u k seq (bit % 256) s.cycle
  let f := (unit - 32768) / 16
  if unit < 32768 then s.logMesh (unit / 1024) (r (s.unitCode (unit / 64) (unit % 64)) 4)
  else
    match gatewayFields.findIdx? (·.contains f) with
    | some k => s.logSite k (r (s.unitCode (16 * f) (16 * k + unit % 16)) 5)
    | none => s
/-- An error in a line of an L1 data cache: a clean line is dropped and fetched again, a dirty one is poisoned (R467). -/
def State.l1Error (s : State) (n pa bit : Nat) (unc : Bool) : State :=
  let dirty := (s.core n).l1d.any fun d => d.pa == pa / 64 * 64 && d.dirty
  let t := s.logClu (clusterOf n) .l1 (errRec (if unc && dirty then 1 else 0) 4 (s.colUnit n) 0 (pa / 64 * 4) (bit % 256) s.cycle)
  if !unc then t else if dirty then t.badLine pa
  else t.mapCore n fun k => { k with l1d := k.l1d.filter fun d => d.pa != pa / 64 * 64 }
/-- An error met in a structure is corrected and logged, or poisons its unit (R467, R468, R474). `unit` is a context, a core, a slice
bank, a column or a router, as the structure asks: 0 to 7 as ERRINJ has them (R441); 8 a store-buffer entry or a record; 9 a link; 10 a
vertical bus; 11 a system register; 12 an L1 instruction line and 13 an entry of a translation slice, which are dropped; 14 a directory
entry, which is rebuilt by recall. -/
def State.softError (s : State) (struct unit addr bit : Nat) (unc : Bool) : State :=
  let ty := if unc then 1 else 0
  let r (ty st u k a : Nat) : BitVec 128 := errRec ty st u k a (bit % 256) s.cycle
  match struct with
  | 0 | 1 | 2 => s.regError unit struct addr bit unc
  | 3 =>
    let t := s.logClu (clusterOf unit) .spad (r ty 3 (s.colUnit unit) 0 (wordOf (addr % 2 ^ 19)))
    if unc then t.setBad (spadKey unit (addr % 2 ^ 19)) else t
  | 4 => s.l1Error unit addr bit unc
  | 5 =>
    let t := s.logClu (bankCluster unit) .slice (r ty 5 (s.unitCode (bankCluster unit) (unit % 4)) 1 (addr / 64 * 4))
    if unc && s.sliceHas (bankCluster unit) addr then t.badLine addr else t
  | 6 =>
    let h := stackOf addr
    let t := s.logStack h (r ty 6 (s.stackUnit h) 3 (addr / 64 * 4))
    if unc && isHbm addr then t.badLine addr else t
  | 7 => s.queueError unit addr bit unc
  | 8 => s.recordError unit addr bit unc
  | 9 => s.linkError unit addr bit
  | 10 => s.logClu (unit / 64) .reg (r (if unc then 3 else 0) 10 (s.unitCode (unit / 64) (unit % 64)) 0 addr)
  | 11 => s.sysError unit addr bit unc
  | 12 =>
    let t := s.logClu (clusterOf unit) .l1 (r 0 11 (s.colUnit unit) 0 (addr / 64 * 4))
    if unc then t.mapCore unit fun k => { k with l1i := k.l1i.filter fun l => l.va != addr / 64 * 64 } else t
  | 13 =>
    let t := s.logClu unit .slice (r 0 11 (s.unitCode unit 0) 2 0)
    if unc then t.mapClu unit fun c => { c with tlb := c.tlb.eraseIdx addr } else t
  | 14 =>
    let t := s.logClu (bankCluster unit) .slice (r 0 11 (s.unitCode (bankCluster unit) (unit % 4)) 1 (addr / 64 * 4))
    if unc then t.recall addr else t
  | _ => s
/-- SOFT_ERROR (R467, R468). -/
def execSoftError (struct unit addr bit : Nat) (unc : Bool) (s : State) : Out := .next (s.softError struct unit addr bit unc)

/-! ## Scrubbing (R472) -/

/-- The number of the scrubber of a structure's unit, as SET_CTRL of function 6 counts them, and how many 64-byte units it visits: a
scratchpad, an L1 data cache, an L1 instruction cache, a store slice or a stack (R472, R530; log entry 60). -/
def scrubber (struct unit : Nat) : Option (Nat × Nat) :=
  match struct with
  | 3 => some (unit, 8192)
  | 4 => some (Config.nCores + unit, 32768)
  | 12 => some (2 * Config.nCores + unit, 1024)
  | 5 => some (3 * Config.nCores + unit, 1572864)
  | 6 => some (3 * Config.nCores + Config.nClusters + unit, 750000000)
  | _ => none
/-- A scrubber finds an error in bit b of word w of its unit i: it is met as any other, but for one in a clean line of an L1 cache, which
it leaves where it is (R467, R472). -/
def State.scrubFind (s : State) (struct unit i w b : Nat) (unc : Bool) : State :=
  match struct with
  | 3 => s.softError 3 unit (64 * i + 8 * w) b unc
  | 4 =>
    let set := (s.core unit).l1d.filter fun d => d.va / 64 % 2048 == i / 16
    match set[i % 16]? with
    | some d => s.l1Error unit d.pa b (unc && d.dirty)
    | none => s
  | 12 => if i < (s.core unit).l1i.length then s.softError 12 unit (((s.core unit).l1i.map (·.va)).getD i 0) b false else s
  | 5 =>
    match (s.clu unit).lines.find? fun l => l.slot == i with
    | some l => s.softError 5 (4 * unit + i / 393216) l.pa b unc
    | none => s
  | 6 => s.softError 6 unit (4096 * (48 * (i / 64) + unit) + 64 * (i % 64)) b unc
  | _ => s
/-- SCRUB_VISIT (R472): a scrubber that is not idle visits its next unit, in ascending order with a wrap at the end, once its interval
has gone by. It corrects what it finds there; what that is, is free: nothing, a correctable error or an uncorrectable one. It changes no
value, no full bit, no cache state and no poisoned word. -/
def execScrubVisit (struct unit addr : Nat) (s : State) : Out :=
  match scrubber struct unit with
  | none => .next s
  | some (k, n) =>
    let r := tget s.mgmt.scrub k 8
    let p := tget s.scrubAt k (0, 0)
    if r = 0 ∨ addr ≠ 64 * p.1 then .next s
    else if s.cycle < p.2 then .next (s.again (.scrubVisit struct unit addr))
    else
      let s := { s with scrubAt := tset s.scrubAt k ((p.1 + 1) % n, s.cycle + 64 * 2 ^ (15 - r)) }
      let f := s.freeNat 3
      let w := f.2.freeNat 8
      let b := w.2.freeNat 64
      .next (if f.1 = 0 then f.2 else b.2.scrubFind struct unit p.1 w.1 b.1 (f.1 == 2))
/-- VERTICAL_BUS_TEST (R475): a signal that fails a pattern is recorded. -/
def execVerticalBusTest (col : Nat) (fails : Bool) (s : State) : Out :=
  if fails then .next (s.logClu (col / 64) .fault (errRec 8 10 (s.unitCode (col / 64) (col % 64)) 0 0 0 s.cycle)) else .next s

/-! ## The fence (R328, R334, R341, R358, R478, R479) -/

/-- The window address of a byte of core n as its neighbours in the cluster name it (R254). -/
def windowEa (a : Nat) : Word := BitVec.ofNat 64 (0x00F0000000000000 + spadCore a % 64 * 2 ^ 19 + spadOff a)
/-- The place in a fenced core that a pending form of a waiting context is on its way to. -/
def goesTo (n : Nat) : Instr → Option (Nat × Nat)
  | .fullEmptyAtPort c _ loc _ _ => if isSpad loc ∧ spadCore loc = n then some (c, loc) else none
  | .waitvAtHome c loc _ _ _ _ => if isSpad loc ∧ spadCore loc = n then some (c, loc) else none
  | _ => none
/-- Contexts of other cores that wait on a word of a fenced core trap with CORE_FENCED at their heads (R304, R334): a pre-empted
one, whose wait record is dropped, when its head issues again. -/
def State.trapWaiters (s : State) (n : Nat) : State :=
  let fe := (s.core n).feq.map fun w => (w.ctx, w.loc)
  let sl := (s.sleepers.filter fun (q : Sleeper) => isSpad q.loc && spadCore q.loc == n && !q.saved && q.woken.isNone).map
    fun q => (q.who, q.loc)
  let ev := s.agenda.filterMap (goesTo n)
  let en := s.entryWait.filterMap fun e => goesTo n e.2.2
  let s := ((fe ++ sl ++ ev ++ en).filter fun w => coreOf w.1 != n).foldl (fun (s : State) (w : Nat × Nat) =>
    takeTrap (s.withdraw w.1) w.1 0x12 (windowEa w.2) (s.ctx w.1).pc false) s
  { s with sleepers := s.sleepers.filter fun (q : Sleeper) => !(isSpad q.loc && spadCore q.loc == n && q.saved && q.woken.isNone) }
/-- A context of a fenced core is halted, with nothing of it left in a queue (R304, R334, R479). -/
def State.cutCtx (s : State) (c : Nat) : State :=
  let s := (s.withdraw c).leaveWalks c
  { s with sleepers := s.sleepers.filter fun (q : Sleeper) => q.who != c }.mapCtx c fun x =>
    { x with run := .halted, why := none, line := none, armed := none, latent := [], recBad := false, buf := [], asyncs := [],
             got := none, gotTags := [], pendf := none, resume := none, reaping := false, entry := none, taken := false, held := false,
             sent := false, undo := none, fill := none, late := none }
/-- The PA of the spill region of a core: what the tables hold for its VA (R386, R474). -/
def State.spillPa (s : State) (n : Nat) : Nat :=
  let q := s.spillAsker n
  let va := s.spillVa n
  match s.walk q.asid va with
  | .leaf size e => let t := leafEntry q.asid va size e; s.normPa (t.pa + (va - t.va))
  | .fault _ => 0
/-- The thermal state of a column whose request has gone without a move (R486). -/
def State.unrequest (s : State) (n : Nat) : State :=
  (s.mapClu (clusterOf n) fun c => { c with migReqs := c.migReqs.filter (·.core != n) }).mapCol (s.colOf n) fun x =>
    { x with therm := if x.therm = 1 then 0 else x.therm }
/-- An event carries on a form of a context of core n. -/
def actsFor (n : Nat) (e : Instr) : Bool := ((actorOf e).map fun c => coreOf c == n).getD false
/-- The core of a fenced column is cut off (R479). -/
def State.fenceCore (s : State) (n : Nat) : State :=
  let k := s.core n
  let s := { s with agenda := s.agenda.filter (!actsFor n ·) }
  let s :=
    if 0 < k.dqLen || 0 < k.nblk then
      s.logClu (clusterOf n) .fault (errRec 7 11 (s.colUnit n) 0 (s.spillPa n / 16) 0 s.cycle)
    else s
  let s := s.trapWaiters n
  let s := (s.messagesFence n).sluiceFence n
  let s := (s.redFence n).answerSaver n 2
  let s := (stopSet n 2).foldl (fun (s : State) c => s.cutCtx c) s
  let s := s.unrequest n
  let s := s.mapCore n fun k =>
    { k with mode := .running, saved := none, pending := [], feq := [], refill := none, stop := 0, stalled := false, redOrder := [], ingress := [] }
  let s := s.seeLaunch n
  let s :=
    match k.saved.bind (·.launch) with
    | some l => s.post (.launchEnd l)
    | none => s
  s.wakeMoving
/-- Neighbours that suspect a column. -/
def State.suspects (s : State) (col : Nat) : List Nat :=
  (List.range 4).filter fun d => ((nbrOf col d).map fun y => (s.col y).susp.getLsbD (oppDir d)).getD false
/-- Some existing neighbour of a column counts a majority: its own suspicion with the notices it holds (R478). -/
def State.condemned (s : State) (col : Nat) : Bool :=
  let x := s.col col
  let own := s.suspects col
  (dirs4 x.nbr).any fun d =>
    let by_ := (List.range 4).filter fun e => x.nbr.getLsbD e && (x.told.getLsbD e || (e == d && own.contains d))
    majority (count4 x.nbr) ≤ by_.length
/-- The neighbours of a column count it as existing, or no longer do (R476, R483). -/
def State.tellNbrs (s : State) (col : Nat) (on : Bool) : State :=
  (List.range 4).foldl (fun (s : State) d =>
    match nbrOf col d with
    | some y => s.mapCol y fun x => { x with nbr := bit4 x.nbr (oppDir d) on }
    | none => s) s
/-- A quarantine begins in this cycle: how its self-test will end is free (R481). -/
def State.quarantine (s : State) (col : Nat) : State :=
  let r := s.freeNat 2
  (r.2.mapCol col fun x => { x with state := 2, fencedAt := s.cycle, votes := 0, refused := 0 }).post (.quarantineEnd col (r.1 == 1))
/-- The first neighbour fences a column that has been condemned: it counts as a neighbour no longer, the core issues nothing more, what its
contexts have in flight goes no further (`State.cutOff`), and the notice goes to the remap table (R478, R479). -/
def State.tryFence (s : State) (col : Nat) : State :=
  let x := s.col col
  if (x.state == 0 || x.state == 1) && !s.isMoving col && s.condemned col then
    let s := (s.tellNbrs col false).quarantine col
    let s := match s.coreAt col with | some n => s.mapCore n fun k => { k with stalled := true } | none => s
    s.post (.fenceNotice col)
  else s
/-- The column of a core has been fenced, and the notice has yet to reach the remap table: what its contexts send is dropped (R479). -/
def State.cutOff (s : State) (n : Nat) : Bool := s.remapState n == 1 && (s.col (s.colOf n)).state == 2
/-- A neighbour of a column, at direction d of it, comes to suspect it (R477, R478). -/
def State.suspect (s : State) (col d : Nat) : State :=
  match nbrOf col d with
  | none => s
  | some y =>
    if (s.col y).susp.getLsbD (oppDir d) || s.isMoving col then s
    else
      let s := s.mapCol y fun x => { x with susp := bit4 x.susp (oppDir d) true }
      let s := s.mapCol col fun x => { x with state := if x.state = 0 then 1 else x.state }
      ((s.post (.suspectNotice col d)).tryFence col).inventory
/-- SUSPECT_NOTICE (R478): a neighbour's notice has reached every other neighbour of the column. -/
def execSuspectNotice (col voter : Nat) (s : State) : Out :=
  if !(s.suspects col).contains voter || s.isMoving col then .next s
  else .next (((s.mapCol col fun x => { x with told := bit4 x.told voter true }).tryFence col).inventory)
/-- A fence notice reaches the remap table (R479, R480): the entry becomes FENCED and the column is cut off; one that finds the entry
MOVING is discarded. -/
def State.fenceNow (s : State) (col : Nat) : State :=
  if (s.col col).state ≠ 2 then s
  else if s.isMoving col then ((s.tellNbrs col true).mapCol col fun x => { x with state := 4 }).inventory
  else
    let t := (s.col col).fencedAt
    let s := s.logClu (col / 64) .fault (errRec 4 11 (s.unitCode (col / 64) (col % 64)) 0 0 0 t)
    let s :=
      match s.coreAt col with
      | some n => ((s.placeFirst n).setRemap n 3 (col % 64)).fenceCore n
      | none => s
    s.inventory
/-- FENCE_NOTICE (R479, R480). -/
def execFenceNotice (col : Nat) (s : State) : Out :=
  .next (s.fenceNow col)

/-! ## Readmission (R481, R482) -/

/-- The majority readmits a column: its entry becomes MAPPED, its core is empty, and its neighbours clear their suspicion
(R479, R481). -/
def State.readmit (s : State) (col : Nat) : State :=
  let s := s.logClu (col / 64) .fault (errRec 5 11 (s.unitCode (col / 64) (col % 64)) 0 0 0 s.cycle)
  let s :=
    match s.coreAt col with
    | some n =>
      let k := s.core n
      (((s.clearSpad n).setCore n { Core.reset with pcol := col % 64, sadv := k.sadv, acquires := k.acquires }).setRemap n 1
        (col % 64))
    | none => s
  let s := (List.range 4).foldl (fun (s : State) d =>
    match nbrOf col d with
    | some y =>
      let live := (s.col y).state != 2 && (s.col y).state != 3
      let s := s.mapCol y fun x =>
        { x with nbr := bit4 x.nbr (oppDir d) true, susp := bit4 x.susp (oppDir d) false,
                 miss := Vector.ofFn fun i => if i.val = oppDir d then 0 else x.miss[i],
                 seen := Vector.ofFn fun i => if i.val = oppDir d then .none else x.seen[i] }
      s.mapCol col fun x => { x with nbr := bit4 x.nbr d live }
    | none => s) s
  (s.mapCol col fun x => { x with state := 0, told := 0, votes := 0, refused := 0, susp := 0, miss := Vector.replicate 4 0 }).inventory
/-- An appeal has failed: another quarantine, unless it is the third failure, after which the column stays FENCED (R481). -/
def State.appealFails (s : State) (col : Nat) : State :=
  let s := (List.range 4).foldl (fun (s : State) d =>
    match nbrOf col d with
    | some y => s.mapCol y fun x =>
        { x with seen := Vector.ofFn fun i => if i.val = oppDir d then { x.seen[i] with appeal := none } else x.seen[i] }
    | none => s) s
  ((s.mapCol col fun x => { x with fails := Nat.min 3 (x.fails + 1) }).quarantine col).inventory
/-- A neighbour's vote on an appeal (R481, R482). -/
def State.appealVote (s : State) (col d : Nat) (yes : Bool) : State :=
  if (s.col col).state ≠ 3 then s
  else
    let s := s.mapCol col fun x =>
      if yes then { x with votes := bit4 x.votes d true } else { x with refused := bit4 x.refused d true }
    let x := s.col col
    let n := count4 x.nbr
    if majority n ≤ count4 (x.votes &&& x.nbr) then (if s.hostMode 3 then s.assist (.readmit col) else s.readmit col)
    else if n < majority n + count4 (x.refused &&& x.nbr) then s.appealFails col
    else s
/-- QUARANTINE_END (R481): with self-test passed, the column appeals, and sends heartbeats again from the next window; with it failed,
another quarantine begins. After three failures it stays FENCED. -/
def execQuarantineEnd (col : Nat) (testPass : Bool) (s : State) : Out :=
  let x := s.col col
  if x.state ≠ 2 || 3 ≤ x.fails + x.tests then .next s
  else if s.cycle < x.fencedAt + 1000000 then .next (s.again (.quarantineEnd col testPass))
  else if !testPass then .next ((s.mapCol col fun x => { x with tests := x.tests + 1 }).quarantine col).inventory
  else
    let s := s.mapCol col fun x => { x with state := 3, votes := 0, refused := 0, beatFrom := s.cycle / 2000 + 1 }
    .next ((dirs4 x.nbr).foldl (fun (s : State) d => s.post (.appeal col d)) s.inventory)

/-! ## Heartbeats (R476, R477, R480) -/

/-- What a column has seen of a neighbour, in this window. -/
def Seen.at (x : Seen) (w : Nat) : Seen :=
  if x.window = w then x else { x with window := w, beats := 0, crcs := 0, flits := 0, rsv := 0, ok := false, judged := false }
/-- Change what column y has seen of its neighbour at direction d. -/
def State.mapSeen (s : State) (y d : Nat) (f : Seen → Seen) : State :=
  s.mapCol y fun x => { x with seen := Vector.ofFn fun i => if i.val = d then f (x.seen[i].at (s.cycle / 2000)) else x.seen[i] }
/-- What column y has seen of its neighbour at direction d in this window. -/
def State.seenBy (s : State) (y d : Nat) : Seen := ((s.col y).seen.toList.getD d .none).at (s.cycle / 2000)
/-- Set the miss count of column y for its neighbour at direction d. -/
def State.setMiss (s : State) (y d n : Nat) : State :=
  s.mapCol y fun x => { x with miss := Vector.ofFn fun i => if i.val = d then n else x.miss[i] }
/-- Column y has cause against its neighbour z at direction d: it refuses z's appeal, or suspects z (R477, R481). -/
def State.cause (s : State) (y d z : Nat) : State :=
  if (s.seenBy y d).appeal.isSome then (s.mapSeen y d fun q => { q with appeal := none }).appealVote z (oppDir d) false
  else s.suspect z (oppDir d)
/-- APPEAL (R481): a neighbour hears an appeal, and counts the three windows that follow. -/
def execAppeal (col d : Nat) (s : State) : Out :=
  match nbrOf col d with
  | none => .next s
  | some y =>
    if (s.col col).state ≠ 3 then .next s
    else .next (s.mapSeen y (oppDir d) fun q => { q with appeal := some 3, ok := true, judged := true, beats := 0, crcs := 0, flits := q.flits + 1 })
/-- The cycle of each window in which a column sends its heartbeat (R476). -/
def beatCycle (col : Nat) : Nat := ((colXY col).1 + (colXY col).2) % 16
/-- A column's heartbeat of this window leaves for every existing neighbour, once, with its MOVING bit; a column in quarantine sends
none, nor one that appeals in the window of the appeal (R476, R480, R481). -/
def State.beat (s : State) (col : Nat) : State :=
  let x := s.col col
  let w := s.cycle / 2000
  if x.state = 2 ∨ w < x.beatFrom then s
  else
    (dirs4 x.nbr).foldl (fun (s : State) d =>
      match nbrOf col d with
      | some y => s.post (.heartbeatReceive y (oppDir d) (w % 256) true ⟨true, s.isMoving col, false⟩ true)
      | none => s) (s.mapCol col fun x => { x with beatFrom := w + 1 })
/-- HEARTBEAT_SEND (R476): a column sends its heartbeat in its cycle of the window. -/
def execHeartbeatSend (col : Nat) (s : State) : Out :=
  if (s.col col).state = 2 then .next s
  else if s.cycle % 2000 ≠ beatCycle col then .next (s.again (.heartbeatSend col))
  else .next (s.beat col)
/-- HEARTBEAT_RECEIVE (R477, R480, R481): column y receives a vote-protocol flit from its neighbour at direction d. -/
def execHeartbeatReceive (y d window : Nat) (coordsOk : Bool) (flit : VoteFlit) (crcOk : Bool) (s : State) : Out :=
  match nbrOf y d with
  | none => .next s
  | some z =>
    let q := s.seenBy y d
    if s.isMoving z || (flit.beat && crcOk && flit.moving) then
      .next ((s.mapSeen y d fun _ => { q with beats := 0, crcs := 0, ok := true }).setMiss y d 0)
    else if !(s.col y).nbr.getLsbD d && q.appeal.isNone then .next s
    else
      let good := coordsOk && window % 256 == s.cycle / 2000 % 256
      let beats := if flit.beat && crcOk then q.beats + 1 else q.beats
      let crcs := if flit.beat && !crcOk then q.crcs + 1 else q.crcs
      let rsv := if flit.reserved then q.rsv + 1 else q.rsv
      let babbles := 2 ≤ beats || (flit.beat && crcOk && !good) || 2 ≤ crcs || 3 ≤ rsv || 4 < q.flits + 1
      let valid := flit.beat && crcOk && good
      let timely := valid && s.cycle % 2000 ≤ 1000
      let s := s.mapSeen y d fun _ => { q with beats := beats, crcs := crcs, rsv := rsv, flits := q.flits + 1, ok := q.ok || timely }
      if babbles then .next (s.cause y d z)
      else
        let s := if valid && !(s.col y).susp.getLsbD d then s.setMiss y d 0 else s
        match q.appeal with
        | some n =>
          if !timely || q.judged then .next s
          else if n ≤ 1 then .next ((s.mapSeen y d fun q => { q with appeal := none }).appealVote z (oppDir d) true)
          else .next (s.mapSeen y d fun q => { q with appeal := some (n - 1) })
        | none => .next s
/-- The windows of a column's neighbours are judged, once each (R477, R480, R481). -/
def State.judge (s : State) (y : Nat) : State :=
  ((List.range 4).foldl (fun (s : State) d =>
    match nbrOf y d with
    | none => s
    | some z =>
      let q := s.seenBy y d
      if q.judged || (!(s.col y).nbr.getLsbD d && q.appeal.isNone) then s
      else
        let s := s.mapSeen y d fun q => { q with judged := true }
        if s.isMoving z then s.setMiss y d 0
        else if q.ok || (s.col y).susp.getLsbD d && q.appeal.isNone then s
        else if q.appeal.isSome then s.cause y d z
        else
          let m := (s.col y).miss.toList.getD d 0 + 1
          let s := s.setMiss y d (Nat.min m 3)
          if m < 3 then s else s.cause y d z) s).inventory
/-- HEARTBEAT_DEADLINE (R477): cycle 2,000 w + 1,000 of a window has ended. -/
def execHeartbeatDeadline (y : Nat) (s : State) : Out :=
  if s.cycle % 2000 ≤ 1000 then .next (s.again (.heartbeatDeadline y)) else .next (s.judge y)

/-! ## The vote at the end of a cycle (R476 to R479) -/

/-- Columns that have been brought up. -/
def State.upCols (s : State) : List Nat := (s.cols.filter fun p => p.2.nbr != 0).map (·.1)
/-- A fence notice that the first neighbour sent 16 cycles ago reaches the remap table by the end of this one (R479). -/
def State.noticeDue (s : State) : Instr → Option Nat
  | .fenceNotice col => if (s.col col).fencedAt + 16 ≤ s.cycle then some col else none
  | _ => none
/-- What the health units do by the end of a cycle: the columns whose cycle of the window it is have sent their heartbeats; at the end of
cycle 2,000 w + 1,000 the windows are judged; a column that its neighbours condemn by now is fenced, since the majority counts the
neighbours that exist in this cycle; and fence notices are in time. -/
def State.vote (s : State) : State :=
  let s := if s.cycle % 2000 < 16 then (s.upCols.filter fun c => beatCycle c == s.cycle % 2000).foldl (fun (s : State) c => s.beat c) s else s
  let s := if s.cycle % 2000 = 1000 then s.upCols.foldl (fun (s : State) c => s.judge c) s else s
  let l := (s.cols.filter fun p => p.2.state == 1).map (·.1)
  let s := (List.range l.length).foldl (fun (s : State) _ => l.foldl (fun (s : State) c => s.tryFence c) s) s
  (s.agenda.filterMap s.noticeDue).foldl (fun (s : State) c =>
    ({ s with agenda := s.agenda.erase (.fenceNotice c) } : State).fenceNow c) s

end Sys2Proof.Machine
end

