-- ==== Sys2Proof/Machine/Heat.lean ====
section
/-! DEFINITION. Heat and power: sensors (R485, R486), the migration sequencer and MIGR (R440, R487 to R490), the shutdown
and the recovery of a store slice (R491, R492), the power cap, VMAIN and comb light (R537, R538, R541). -/
namespace Sys2Proof.Machine

/-! ## Requests of the migration sequencer (R440, R487) -/

/-- Put a request in its place: arrival order, ties to the lower core (R487). -/
def insertReq (r : MigReq) : List MigReq → List MigReq
  | [] => [r]
  | q :: l => if r.arrived < q.arrived ∨ (r.arrived = q.arrived ∧ r.core < q.core) then r :: q :: l else q :: insertReq r l
/-- A core has a request that waits (R485). -/
def State.requested (s : State) (n : Nat) : Bool :=
  (s.clu (clusterOf n)).migReqs.any (·.core == n) || s.mgmt.assists.any (·.2 == .migrate n)
/-- A column's thermal state (R486): a spare that cools stays so until a sample says otherwise. -/
def State.setTherm (s : State) (col : Nat) : State :=
  match s.coreAt col with
  | none => s.mapCol col fun x => { x with therm := if x.therm = 4 then 4 else 0 }
  | some n =>
    s.mapCol col fun x =>
      { x with therm := if s.remapState n = 2 then 2 else if (s.core n).stalled then 3 else if s.requested n then 1 else 0 }
/-- A request reaches the sequencer of its cluster; one that waits for the same core takes it in
(R486, R487). -/
def State.request (s : State) (r : MigReq) : State :=
  let cl := clusterOf r.core
  let join (q : MigReq) : MigReq :=
    if q.core = r.core then { q with sensor := q.sensor || r.sensor, migr := q.migr || r.migr, nospare := none
                                     named := if r.named.isSome then r.named else q.named } else q
  let s := s.mapClu cl fun c =>
    { c with migReqs := if c.migReqs.any (·.core == r.core) then c.migReqs.map join else insertReq r c.migReqs }
  ((s.setTherm (s.colOf r.core)).post (.migrationStart cl)).inventory
/-- A good spare column of the cluster that is not fenced (R487). -/
def State.sparesOf (s : State) (cl : Nat) : List Nat :=
  (s.clu cl).spares.filter fun p =>
    let st := (s.col (64 * cl + p)).state
    Config.goodColumn (64 * cl + p) && st != 2 && st != 3
/-- An eligible spare: it has been sampled, is not cooling, and its latest sample is below 85 degrees (R487, R488). -/
def State.eligible (s : State) (cl p : Nat) : Bool :=
  let x := s.col (64 * cl + p)
  x.sampled && x.therm != 4 && x.temp.toInt < 1360
/-- The spare the sequencer picks: the lowest sample, then the lowest column; or the one the host named (R487, R530). -/
def State.pickSpare (s : State) (cl : Nat) (named : Option Nat) : Option Nat :=
  let l := (s.sparesOf cl).filter fun p => s.eligible cl p && (named.map (· == p)).getD true
  l.foldl (fun (b : Option Nat) p =>
    match b with
    | none => some p
    | some o =>
      let x := (s.col (64 * cl + p)).temp.toInt
      let y := (s.col (64 * cl + o)).temp.toInt
      if x < y || (x == y && p < o) then some p else b) none
/-- MIGR (R440, R487): it ends at acceptance, with NOSPARE where no spare is eligible then; the request of one that is accepted waits
while its core freezes, is frozen or restores (R487; log entry 37). -/
def execMigr (d : XR) (b : XS) (s : State) : Out :=
  let g := bits (s.me.getS b).toNat 20 0
  let n := g % 2 ^ 15
  let part := s.partOf (fieldOf s.myCore)
  let st := s.remapState n
  s.needSys
    (if g / 2 ^ 15 ≠ s.pkg || st == 0 then endStatus s s d 1
     else if part.isNone || s.partOf (fieldOf n) != part then endStatus s s d 7
     else if st = 3 then endStatus s s d 2
     else if st = 2 || (s.core n).mode == .saved then endStatus s s d 3
     else if (s.pickSpare (clusterOf n) none).isNone then endStatus s ((s.mapCol (s.colOf n) fun x => { x with nospare := true }).inventory) d 8
     else endStatus s (s.request ⟨n, s.cycle, false, true, none, none⟩) d 0)

/-! ## The sequence of a migration (R488) -/

/-- Neighbours of a column start over with it: no misses, and its present window counts as heard (R480). -/
def State.freshTo (s : State) (col : Nat) : State :=
  (List.range 4).foldl (fun (s : State) d =>
    match nbrOf col d with
    | some y => (s.mapSeen y (oppDir d) fun q => { q with beats := 0, crcs := 0, ok := true, judged := true }).setMiss y (oppDir d) 0
    | none => s) s
/-- An attempt has found no eligible spare: a sensor's request stays, one of a MIGR alone ends (R487). -/
def State.noSpare (s : State) (r : MigReq) : State :=
  let cl := clusterOf r.core
  let stay (q : MigReq) : MigReq := if q.core = r.core then { q with migr := false, nospare := some s.cycle } else q
  let s := s.mapCol (s.colOf r.core) fun x => { x with nospare := true }
  (if r.sensor then (s.mapClu cl fun c => { c with migReqs := c.migReqs.map stay }).post (.migrationRetry cl)
   else (s.unrequest r.core).setTherm (s.colOf r.core)).inventory
/-- Step 1 of R488: the entry becomes MOVING, and the contexts begin to stop. -/
def State.moveBegin (s : State) (r : MigReq) (b : Nat) : State :=
  let n := r.core
  let cl := clusterOf n
  let a := s.colOf n
  let s := s.unrequest n
  let s := s.setRemap n 2 (a % 64)
  let s := s.mapClu cl fun c => { c with mig := some ⟨n, a % 64, b, s.cycle, false, [], []⟩ }
  let s := (s.mapCore n fun k => { k with stalled := false }).mapCol a fun x => { x with state := 4, nospare := false }
  (((s.freshTo a).setTherm a).stopCore n 2).post (.migrationStateCopy cl)
/-- A request may be served now: its core is running, and it is new or its wait for a spare is over (R487). -/
def State.reqReady (s : State) (r : MigReq) : Bool :=
  s.remapState r.core == 3 ||
    ((s.core r.core).mode == .running && (r.nospare.map fun t => decide (t + 2 ^ 20 ≤ s.cycle)).getD true)
/-- Serve requests in their order, until one begins to move: each request is met once. -/
def State.serveReqs (s : State) : List MigReq → State
  | [] => s
  | r :: l =>
    if !s.reqReady r then s.serveReqs l
    else if s.remapState r.core = 3 then ((s.unrequest r.core).inventory).serveReqs l
    else
      match s.pickSpare (clusterOf r.core) r.named with
      | none => (s.noSpare r).serveReqs l
      | some b => s.moveBegin r b
/-- MIGRATION_START (R487, R488): the sequencer serves the requests that have reached it before this cycle. -/
def execMigrationStart (cl : Nat) (s : State) : Out :=
  let c := s.clu cl
  if c.mig.isSome then .next s
  else if c.migReqs.any fun r => r.arrived = s.cycle then .next (s.post (.migrationStart cl))
  else .next (s.serveReqs c.migReqs)
/-- MIGRATION_RETRY (R487): a request that found no spare is tried again 2^20 cycles later. -/
def execMigrationRetry (cl : Nat) (s : State) : Out :=
  let ts := (s.clu cl).migReqs.filterMap (·.nospare)
  if ts.isEmpty then .next s
  else if ts.any fun t => t + 2 ^ 20 ≤ s.cycle then .next (s.post (.migrationStart cl))
  else .next (s.post (.migrationRetry cl))
/-- A range-table entry covers the scratchpad of a core (R214). -/
def State.spadRanged (s : State) (n : Nat) : Bool :=
  s.clus.any fun c => c.2.ranges.any fun r => r.2.any fun b => isSpad (256 * b) && spadCore (256 * b) == n
/-- MIGRATION_STATE_COPY (R488, steps 2 to 5): once every context has stopped with its buffer drained, nothing more is due
at the old column, and the state is copied. -/
def execMigrationStateCopy (cl : Nat) (s : State) : Out :=
  match (s.clu cl).mig with
  | none => .next s
  | some g =>
    if g.copied then .next s
    else
      match if s.spadRanged g.core then none else s.stopped g.core 2 with
      | none => .next (s.post (.migrationStateCopy cl))
      | some t =>
        .next ((t.mapClu cl fun c => { c with mig := c.mig.map fun g => { g with copied := true } }).post (.migrationCommit cl))
/-- A message that an ingress holds (R490). -/
def isMessage : Instr → Bool
  | .messageArrival _ _ _ | .hostMessage _ _ _ _ => true
  | _ => false
/-- MIGRATION_COMMIT (R488, steps 6 to 8): the entry is MAPPED to the new column, held traffic goes on, the contexts resume,
and the old column is a spare that cools. -/
def execMigrationCommit (cl : Nat) (s : State) : Out :=
  match (s.clu cl).mig with
  | none => .next s
  | some g =>
    if !g.copied then .next s
    else
      let n := g.core
      let a := 64 * cl + g.src
      let b := 64 * cl + g.dst
      let s := s.setRemap n 1 g.dst
      let s := s.mapCore n fun k => { k with pcol := g.dst, ingress := g.waiting }
      let s := (stopSet n 2).foldl (fun (s : State) c => s.mapCtx c fun x =>
        { x with lcore := BitVec.ofNat 64 (bits x.lcore.toNat 63 16 * 2 ^ 16 + g.dst * 2 ^ 8 + bits x.lcore.toNat 7 0) }) s
      let cnt (m : MigCount) : MigCount :=
        ⟨Nat.min (m.moves + 1) 0xFFFF, Nat.min (g.waiting.filter isMessage).length 0xFFFF, Nat.min g.redir.length 0xFFFF,
          Nat.min (s.cycle - g.start) 0xFFFF⟩
      let s := s.mapClu cl fun c =>
        { c with mig := none, migCount := cnt c.migCount, spares := c.spares.filter (· != g.dst) ++ [g.src] }
      let s := s.mapCol a fun x =>
        { x with therm := 4, moves := Nat.min (x.moves + 1) 0xFFFF, state := if (s.suspects a).isEmpty then 0 else 1 }
      let s := (((s.mapCol b fun x => { x with therm := 0 }).freshTo a).freshTo b).inventory
      .next (((s.wakeMoving.resumeCore n).refillDue n).wakeDeque n |>.post (.migrationStart cl))

/-! ## Sensors (R485, R491, R492) -/

/-- A sample of a column's sensor (R485, R486). -/
def State.columnSample (s : State) (col : Nat) (temp : BitVec 12) : State :=
  let t := temp.toInt
  let s := s.mapCol col fun x =>
    { x with temp := temp, peak := if !x.sampled || x.peak.toInt < t then temp else x.peak, sampled := true }
  let s :=
    match s.coreAt col with
    | none => s.mapCol col fun x => { x with therm := if t < 1360 then 0 else 4 }
    | some n =>
      let st := s.remapState n
      let s :=
        if 1520 ≤ t && st == 1 && !s.requested n then
          if s.hostMode 5 then s.assist (.migrate n) else s.request ⟨n, s.cycle, true, false, none, none⟩
        else s
      if 1680 ≤ t && st != 2 then s.mapCore n fun k => { k with stalled := true }
      else if t < 1600 && (s.core n).stalled && !s.cutOff n then
        (stopSet n 2).foldl (fun (s : State) c => s.mapCtx c fun x => { x with eligFrom := Nat.max x.eligFrom (s.cycle + 1) })
          (s.mapCore n fun k => { k with stalled := false })
      else s
  (s.setTherm col).inventory
/-- The frame of a line slot (R491). -/
def SLine.frame (l : SLine) : Nat := l.slot / 2
/-- Frames of a slice that hold a dirty line, rising (R491). -/
def dirtyFrames (l : List SLine) : List Nat := (l.filter (·.dirty)).foldl (fun fs x => kput fs x.frame) []
/-- Write the dirty bitmap of a slice to reserved HBM (R491, R528). -/
def State.writeBitmap (s : State) (cl : Nat) (fs : List Nat) : State :=
  s.store (0x40000000 + 98304 * cl) 98304 (fs.foldl (fun v f => v + 2 ^ f) 0) false
/-- A sample of a slice's sensor (R485, R491, R492). -/
def State.sliceSample (s : State) (cl : Nat) (temp : BitVec 12) : State :=
  let t := temp.toInt
  let s := s.mapClu cl fun c => { c with noLend := if 1680 ≤ t then true else if t < 1600 then false else c.noLend }
  let c := s.clu cl
  let s :=
    if c.shut.isNone && 1840 ≤ t then
      let fs := dirtyFrames c.lines
      (((s.mapClu cl fun c => { c with shut := some ⟨s.cycle, fs, 0, false⟩, coolFrom := none }).writeBitmap cl fs).post
        (.sliceFrameWriteback cl)).post (.slicePowerOff cl)
    else s
  if (s.clu cl).shut.isNone then s
  else if 1520 ≤ t then s.mapClu cl fun c => { c with coolFrom := none }
  else if (s.clu cl).coolFrom.isSome then s
  else (s.mapClu cl fun c => { c with coolFrom := some s.cycle }).post (.sliceRecovery cl)
/-- TEMPERATURE_SAMPLE (R485): kind 0 a column, 1 a store slice, both sampled every 1,024 cycles; 2 the mesh of an OMU (R65); in 1/16
degree. -/
def execTemperatureSample (kind unit : Nat) (temp : BitVec 12) (s : State) : Out :=
  match kind with
  | 0 =>
    if s.cycle < (s.col unit).sampleAt then .next (s.again (.temperatureSample kind unit temp))
    else .next ((s.mapCol unit fun x => { x with sampleAt := s.cycle + 1024 }).columnSample unit temp)
  | 1 =>
    if s.cycle < (s.clu unit).sampleAt then .next (s.again (.temperatureSample kind unit temp))
    else .next ((s.mapClu unit fun c => { c with sampleAt := s.cycle + 1024 }).sliceSample unit temp)
  | _ => .next (s.mapOmu unit fun o => { o with temp := temp })

/-! ## Emergency shutdown of a store slice (R491, R492) -/

/-- Frames that a slice shut down in cycle t sends up to a cycle: one a cycle from t + 769, to t + 8,191 (R491). -/
def framesDue (t now : Nat) : Nat := Nat.min (now - (t + 768)) 7423
/-- A slice sends its next dirty frame: its dirty lines reach their homes, and the frame's bit is cleared; a home that is itself shut down
accepts none, and the frame is tried again after the others (R491; log entry 92). -/
def State.sendFrame (s : State) (cl : Nat) : State :=
  match (s.clu cl).shut with
  | none => s
  | some h =>
    match h.frames with
    | [] => s
    | f :: fs =>
      let ls := (s.clu cl).lines.filter fun x => x.dirty && x.frame == f
      let taken (x : SLine) : Bool := x.home || !s.homeShut x.pa
      let clean (x : SLine) : SLine := if x.frame = f ∧ taken x then { x with dirty := false } else x
      let rest := if ls.all taken then fs else fs ++ [f]
      let t := s.mapClu cl fun c => { c with lines := c.lines.map clean, shut := some { h with frames := rest, sent := h.sent + 1 } }
      (ls.filter fun x => !x.home && taken x).foldl (fun (s : State) (x : SLine) => s.homeDirty x.pa) t
/-- Send what is due. -/
def State.sendFrames (s : State) (cl : Nat) : Nat → State
  | 0 => s
  | k + 1 => (s.sendFrame cl).sendFrames cl k
/-- SLICE_FRAME_WRITEBACK (R491): one dirty frame of a slice is sent in a cycle. -/
def execSliceFrameWriteback (cl : Nat) (s : State) : Out :=
  match (s.clu cl).shut with
  | none => .next s
  | some h =>
    if h.off || h.frames.isEmpty then .next s
    else if h.sent < framesDue h.since s.cycle then .next ((s.sendFrame cl).post (.sliceFrameWriteback cl))
    else .next (s.post (.sliceFrameWriteback cl))
/-- SLICE_POWER_OFF (R491): at cycle t + 8,192 the data arrays power off; every frame that was due has been sent. -/
def execSlicePowerOff (cl : Nat) (s : State) : Out :=
  match (s.clu cl).shut with
  | none => .next s
  | some h =>
    if h.off then .next s
    else if s.cycle < h.since + 8192 then .next (s.post (.slicePowerOff cl))
    else
      let t := s.sendFrames cl (7423 - h.sent)
      .next (t.mapClu cl fun c => { c with shut := c.shut.map fun h => { h with off := true } })
/-- The lines of the carve-out of a slice (R267). -/
def carveLines (cl k : Nat) : List Nat := (List.range (131072 * k)).map fun i => carveBase + 2 ^ 27 * cl + 64 * i
/-- SLICE_RECOVERY (R492): the slice has stayed below 95 degrees for 2^20 cycles. -/
def execSliceRecovery (cl : Nat) (s : State) : Out :=
  let c := s.clu cl
  match c.shut, c.coolFrom with
  | some h, some t =>
    if s.cycle < t + 2 ^ 20 || !h.off then .next (s.post (.sliceRecovery cl))
    else
      let lost := (c.lines.filter fun x => x.dirty && h.frames.contains x.frame).map (·.pa)
      let s := (lost ++ carveLines cl c.carve).foldl (fun (s : State) a => s.badLine a) s
      let s := s.writeBitmap cl h.frames
      .next ((s.mapClu cl fun c => { c with lines := [], shut := none, coolFrom := none }).wakeMoving)
  | _, _ => .next s

/-! ## Power (R537, R538) -/

/-- POWER_SAMPLE (R538): a measurement of VMAIN power, every 10 µs; the average of the latest ten decides. -/
def execPowerSample (watts : Nat) (s : State) : Out :=
  let l := (s.power ++ [watts]).drop (s.power.length + 1 - 10)
  let sum := l.foldl (· + ·) 0
  let s := { s with power := l }
  if l.length < 10 then .next s
  else if 235000 < sum then .next { s with powerCap := Nat.min (s.powerCap + 1) Config.nClusters }
  else if sum < 225000 then .next { s with powerCap := s.powerCap - 1 }
  else .next s
/-- Bytes that are not of this module: host memory and other packages. -/
def outside (a : Nat) : Bool := isHost a || isRemote a
/-- Every unit but the management controller takes its reset values (R9, R537); what lies outside the module, and the
model's own counters, go on. -/
def State.resetUnits (s : State) : State :=
  { State.reset with
    mem := s.mem.filter (fun p => outside p.1), poison := s.poison.filter outside, free := s.free, stamp := s.stamp,
    light := s.light, mgmt := s.mgmt }
/-- Calibration begins wherever a governor may calibrate (R545). -/
def State.calibrateAll (s : State) : State :=
  (List.range Config.nClusters).foldl (fun (s : State) cl =>
    if s.light.getLsbD (lightSite (cl / 16)) && Config.omuPresent cl then s.post (.calibrationStart cl) else s) s
/-- Events of the management controller, of the host links' logic, and of what supplies the module: a loss of VMAIN leaves them
(R537). -/
def onVaux : Instr → Bool
  | .commandRingTailWrite _ | .responseRingHeadWrite _ | .spdm _ _ _ | .setCtrl _ _ _ _ _ | .setCtrlMinSecurityVersion _ _
  | .setTable _ _ _ _ | .inval _ _ _ _ | .hostAssist _ _ _ _ | .fwStage _ _ _ | .readDebug _ _ _ _ | .inventoryUpdate
  | .invalidationComplete _ _ _ | .hostMessage _ _ _ _ | .bar2Access _ _ _ _ _ | .bar2AtomicOp _ _ _ _ _ _ _
  | .bar0RegisterWrite _ _ _ | .hostLinkTrained _ _ | .priEnable _ _ | .priStop _ | .atsInvalidationRequest _ _ _ _
  | .moduleReset | .vmainLoss | .vmainPowerOn | .combLightLoss _ | .combLightReturn _ => true
  | _ => false
/-- VMAIN_LOSS (R537, R543): every unit but the management controller and the host links' logic is reset; a slice shutdown
under way is reported. -/
def execVmainLoss (s : State) : Out :=
  let shut := s.clus.any fun c => c.2.shut.isSome
  let t := { s.resetUnits with links := s.links, funcs := s.funcs, parts := s.parts, pkg := s.pkg, groupN := s.groupN, light := 0, agenda := s.agenda.filter onVaux }
  let t := (t.mapMgmt fun m => { m with vmain := false, assists := [] }).inventory
  .next (if shut then t.report else t)
/-- VMAIN_POWER_ON (R525, R537): the units beyond stage 1 begin to come up. -/
def execVmainPowerOn (s : State) : Out := .next ((s.mapMgmt fun m => { m with vmain := true }).calibrateAll)

/-! ## Comb light (R541) -/

/-- Clusters whose OMUs a port site feeds with light (R19). -/
def siteClusters (k : Nat) : List Nat := (List.range Config.nClusters).filter fun cl => lightSite (cl / 16) == k
/-- COMB_LIGHT_LOSS (R541): the governors of the quadrant enter UNLOCKED, and the site's ports are down. -/
def execCombLightLoss (k : Nat) (s : State) : Out :=
  let s := (siteClusters k).foldl (fun (s : State) cl =>
    if Config.omuPresent cl then s.omuUnlock cl else s) { s with light := bit4 s.light k false }
  .next ((s.mapPort k fun p => { p with state := 0 }).setPort k false)
/-- COMB_LIGHT_RETURN (R541, R545): the governors of the quadrant recalibrate. -/
def execCombLightReturn (k : Nat) (s : State) : Out :=
  .next ((siteClusters k).foldl (fun (s : State) cl =>
    if Config.omuPresent cl then s.post (.calibrationStart cl) else s) { s with light := bit4 s.light k true })

end Sys2Proof.Machine
end

