-- ==== Sys2Proof/Machine/Manage.lean ====
section
/-! DEFINITION. Bring-up, firmware, the commands of the management rings, host-assisted modes and the module inventory
(R525 to R534); illegal instructions (R78). -/
namespace Sys2Proof.Machine

/-! ## Bring-up (R9, R31, R525, R533) -/

/-- The boot ROM accepts a slot: its image verifies, and its version is at least the fused minimum (R533). -/
def Mgmt.accepts (m : Mgmt) (slot : Option Nat) : Bool := (slot.map fun v => decide (m.fuseMin ≤ v)).getD false
/-- The management controller after reset: it boots slot A, then slot B, or stays in recovery (R533). What the fuses and
the slots hold stands. -/
def Mgmt.boot (m : Mgmt) : Mgmt :=
  let run := if m.accepts m.slotA then some true else if m.accepts m.slotB then some false else none
  { Mgmt.reset with
    vmain := m.vmain, slotA := m.slotA, slotB := m.slotB, fuseMin := m.fuseMin, running := run
    runVersion := match run with
      | some true => m.slotA.getD 0
      | some false => m.slotB.getD 0
      | none => 0 }
/-- MODULE_RESET (R9, R525): every field takes its Reset value, and bring-up starts. -/
def execModuleReset (s : State) : Out :=
  let s := { s.resetUnits with mgmt := s.mgmt.boot }
  .next (if s.fwRuns && s.mgmt.vmain then s.calibrateAll else s)
/-- HOST_LINK_TRAINED (R525): once the firmware has verified; in recovery only link 0 trains (R533). -/
def execHostLinkTrained (l : Nat) (atomics : Bool) (s : State) : Out :=
  if l < 2 && (s.fwRuns || l == 0) then .next (s.mapLink l fun k => { k with up := true, atomics := atomics }) else .next s
/-- Stages beyond the first run: the firmware has verified, and VMAIN is present (R525, R537). -/
def State.staged (s : State) : Bool := s.fwRuns && s.mgmt.vmain
/-- Every HBM4 stack is ready. -/
def State.stacksUp (s : State) : Bool := (List.range 48).all fun h => s.ready 1 h
/-- HBM_STACK_READY (R525): a stack that fails its test is reported, and bring-up stops before stage 3. -/
def execHbmStackReady (h : Nat) (pass : Bool) (s : State) : Out :=
  if !s.staged || 48 ≤ h || s.ready 1 h then .next s
  else if !pass then .next s.report
  else
    let s := s.setReady 1 h true
    .next (if s.stacksUp then (List.range Config.nFields).foldl (fun (s : State) f => s.post (.fieldReady f)) s else s)
/-- FIELD_READY (R525). -/
def execFieldReady (f : Nat) (s : State) : Out :=
  if !s.staged || !s.stacksUp || Config.nFields ≤ f then .next s
  else .next ((List.range 16).foldl (fun (s : State) c => s.post (.clusterReady (16 * f + c))) (s.setReady 0 f true))
/-- Good columns of a cluster, rising (R27). -/
def goodCols (cl : Nat) : List Nat := (List.range 64).filter fun p => Config.goodColumn (64 * cl + p)
/-- Spare columns of a cluster (R31): the named ones that are good, or the highest-numbered good ones. -/
def State.spareCols (s : State) (cl : Nat) : List Nat :=
  let g := goodCols cl
  match s.mgmt.named.find? (·.1 == cl) with
  | some l => g.filter l.2.contains
  | none => g.drop (g.length - s.mgmt.reserve)
/-- Fill the remap table of a cluster (R31). -/
def State.fillRemap (s : State) (cl : Nat) : State :=
  let sp := s.spareCols cl
  let used := (goodCols cl).filter fun p => !sp.contains p
  let s := s.mapClu cl fun c =>
    { c with spares := sp
             remap := Vector.ofFn fun i => match used[i.val]? with | some p => BitVec.ofNat 16 (2 ^ 14 + p) | none => 0 }
  let s := (List.range used.length).foldl (fun (s : State) i =>
    s.mapCore (64 * cl + i) fun k => { k with pcol := used.getD i 0 }) s
  (goodCols cl).foldl (fun (s : State) p => s.mapCol (64 * cl + p) fun x => { x with nbr := nbrBits (64 * cl + p) }) s
/-- CLUSTER_READY (R31, R525): its remap table is filled first, and its OMU is ready with it if its governor has
locked (R67). -/
def execClusterReady (cl : Nat) (s : State) : Out :=
  if !s.staged || !s.ready 0 (cl / 16) || s.clusterUp cl || Config.nClusters ≤ cl then .next s
  else .next ((((s.fillRemap cl).setReady (clusterBit cl).1 (clusterBit cl).2 true).omuSetReady cl).inventory)

/-! ## Commands (R529) -/

/-- A word of 8 bytes of a ring entry. -/
def entryWord (e : BitVec 512) (i : Nat) : Word := e.extractLsb' (64 * i) 64
/-- The command that an entry holds (R529). The manual does not place the arguments within bytes 8 to 63: the model takes
one 8-byte word for each, in their order, and four for a unit mask (log entry 60). -/
def commandOf (e : BitVec 512) : Option Instr :=
  let tag := bits e.toNat 31 16
  let a (i : Nat) : Word := entryWord e (1 + i)
  let n (i : Nat) : Nat := (a i).toNat
  match bits e.toNat 15 0 with
  | 1 => some (.spdm tag (n 0) (e.extractLsb' 128 384))
  | 2 => some (if n 0 = 8 ∧ n 1 = 15 then .setCtrlMinSecurityVersion tag (n 6)
    else .setCtrl tag (n 0) (n 1) (bits e.toNat 447 192) (a 6))
  | 3 => some (.setTable tag (n 0) (n 1) (e.extractLsb' 192 128))
  | 4 => some (.inval tag (if n 0 < 2 ^ 16 then some (n 0) else none) (n 1) (n 2))
  | 5 => some (.hostAssist tag (n 0) (n 1) (n 2))
  | 6 => some (.fwStage tag (n 0) (n 1))
  | 7 => some (.readDebug tag (n 0) (n 1) ((a 2).getLsbD 0))
  | _ => none
/-- Write the response to the command being served (R529): code, tag, status; the manual gives bytes 6 and 7 no contents,
and the results only where a command has some. -/
def State.respond (s : State) (code tag status : Nat) (result : Option Nat) : State :=
  let r := s.openEntry
  let v := r.1.toNat
  let v := match result with
    | some x => x * 2 ^ 64 + v % 2 ^ 64
    | none => v
  let e := BitVec.ofNat 512 (v / 2 ^ 48 * 2 ^ 48 + status % 2 ^ 16 * 2 ^ 32 + tag % 2 ^ 16 * 2 ^ 16 + code % 2 ^ 16)
  let t := r.2.mapMgmt fun m => { m with busy := false }
  match t.ringPut e with
  | some u => u.post (.commandRingTailWrite (u.rdN cmdRing 8))
  | none => t.mapMgmt fun m => { m with waiting := some e }
/-- Take up the next command, if there is one and none is being served (R529). -/
def State.serveCommand (s : State) : State :=
  let h := s.ringHead cmdRing
  if s.mgmt.busy || s.mgmt.waiting.isSome || h = s.ringTail cmdRing then s
  else
    let e := BitVec.ofNat 512 (s.rdN (ringEntry cmdRing h) 64)
    let t := (s.store (cmdRing + 8) 8 ((h + 1) % ringLen) false).mapMgmt fun m => { m with busy := true }
    match commandOf e with
    | some i => t.post i
    | none => t.respond (bits e.toNat 15 0) (bits e.toNat 31 16) 1 none
/-- COMMAND_RING_TAIL_WRITE (R529): the host has advanced the tail. -/
def execCommandRingTailWrite (tail : Nat) (s : State) : Out := .next ((s.store cmdRing 8 tail false).serveCommand)
/-- Write the entries that are held, in order, while there is room. -/
def State.flushHeld (s : State) : List (BitVec 512) → State
  | [] => s.mapMgmt fun m => { m with held := [] }
  | e :: l =>
    match s.ringPut e with
    | some t => t.flushHeld l
    | none => s.mapMgmt fun m => { m with held := e :: l }
/-- The modes that a SET_CTRL has given come into force (R530). -/
def State.settleModes (s : State) : State := s.mapMgmt fun m => { m with modes := m.newModes.getD m.modes, newModes := none }
/-- RESPONSE_RING_HEAD_WRITE (R529): the response that waits goes first, with the modes that wait for it (R530), then what is
held; then commands go on. -/
def execResponseRingHeadWrite (head : Nat) (s : State) : Out :=
  let s := s.store (respRing + 8) 8 head false
  let s :=
    match s.mgmt.waiting with
    | some e => ((s.ringPut e).map fun (t : State) => (t.mapMgmt fun m => { m with waiting := none }).settleModes).getD s
    | none => s
  .next ((s.flushHeld s.mgmt.held).serveCommand)
/-- A command other than SPDM and FW_STAGE runs only outside recovery (R533): in recovery its status is a free value, not
OK. -/
def inService (s : State) (code tag : Nat) (k : Out) : Out :=
  if s.fwRuns then k
  else
    let r := s.freeNat 4
    .next (r.2.respond code tag (1 + r.1) none)
/-- SPDM (R530, R534): attestation is answered; whether a session of the expert role is open after it is not the
module's to say. A longer message is chained in a way that the manual does not state: OK or BADARG (log entry 42). -/
def execSpdm (tag len : Nat) (_msg : BitVec 384) (s : State) : Out :=
  let r := s.freeNat 2
  let q := r.2.freeNat 2
  .next ((q.2.mapMgmt fun m => { m with unlocked := r.1 == 1 }).respond 1 tag (if 48 < len then 4 * q.1 else 0) none)

/-! ## Controls (R530, R526) -/

/-- A live launch includes a core of a cluster (R526). -/
def State.cluLive (s : State) (cl : Nat) : Bool :=
  s.launches.any fun p => p.2.live && p.2.cores.any fun n => clusterOf n == cl
/-- Clear the bit of a cluster, apply a change, and set the bit again (R67, R526). -/
def State.withBitClear (s : State) (cl : Nat) (f : State → State) : State :=
  if s.clusterUp cl then
    let s := (s.setReady (omuBit cl).1 (omuBit cl).2 false).setReady (clusterBit cl).1 (clusterBit cl).2 false
    ((f s).setReady (clusterBit cl).1 (clusterBit cl).2 true).omuSetReady cl
  else f s
/-- Write back every dirty line of a slice (R267). -/
def State.flushSlice (s : State) (cl : Nat) : State :=
  let ls := (s.clu cl).lines.filter fun x => x.dirty && !x.home
  let s := s.mapClu cl fun c => { c with lines := c.lines.map fun x => { x with dirty := false } }
  ls.foldl (fun (s : State) (x : SLine) => s.homeDirty x.pa) s
/-- Set the carve-out of a slice: its bytes are free values afterwards (R267). -/
def State.setCarve (s : State) (cl k : Nat) : State :=
  let s := (s.flushSlice cl).mapClu cl fun c => { c with carve := k, lines := c.lines.filter fun x => decide (x.slot % 393216 < bankSlots k) }
  (List.range (8 * 131072 * k)).foldl (fun (s : State) i =>
    ({ s.store (carveBase + 2 ^ 27 * cl + 8 * i) 8 (Config.freeWord s.free).toNat false with free := s.free + 1 } : State)) s
/-- The controls of a function (R530): whether one needs the expert unlock, none for a control the manual does not have.
Control 0 is the mode; the others count from 1 in the order of R530. -/
def ctrlExpert (fn ctrl : Nat) : Option Bool :=
  match fn, ctrl with
  | 0, 0 | 1, 0 | 2, 0 | 4, 0 | 5, 0 | 6, 1 | 7, 1 => some false
  | 1, 1 | 2, 1 | 3, 0 | 4, 1 | 4, 2 | 5, 1 | 5, 2 | 8, 1 | 8, 2 => some true
  | _, _ => none
/-- The rotor group of n packages, with this package's number (R457). -/
def State.setRotor (s : State) (n p : Nat) : State :=
  let s := { s with groupN := n, pkg := if n = 1 then 0 else p }
  if n = 1 then (List.range 4).foldl (fun (s : State) k => (s.mapPort k fun _ => Port.reset).setPort k false) s else s
/-- The units that a mask names (R529). -/
def unitsOf (mask : Nat) : List Nat := (List.range (Nat.log2 mask + 1)).filter fun u => mask.testBit u
/-- Scrubbers (R472): of the scratchpads, the L1 data caches and the L1 instruction caches by core, of the store slices, and
of the HBM4 stacks, numbered in this order. -/
def nScrubbers : Nat := 3 * Config.nCores + Config.nClusters + 48
/-- Apply a control that is allowed to the units of a mask: the status, and the state after it (R529, R530). -/
def State.applyCtrl (s : State) (fn ctrl units : Nat) (v : Nat) : Nat × State :=
  let ok (c : Bool) (t : State) : Nat × State := if c then (0, t) else (4, s)
  let us := unitsOf units
  let among (n : Nat) : Bool := us.all fun u => decide (u < n)
  match fn, ctrl with
  | _, 0 => ok (v < 2) (s.mapMgmt fun m =>
      { m with newModes := some (if v = 1 then m.modes ||| BitVec.ofNat 8 (2 ^ fn) else m.modes &&& ~~~(BitVec.ofNat 8 (2 ^ fn))) })
  | 1, 1 =>
    let t := s.mapMgmt fun m => { m with calInterval := v }
    (0, if v = 0 then t else
      (List.range Config.nClusters).foldl (fun (t : State) cl => if (t.omu cl).gov = 0 then t else t.post (.recalibrationStart cl)) t)
  | 2, 1 => ok (1 ≤ v && v ≤ 512) (((s.mapMgmt fun m => { m with priCap := v }).post (.pageRequestSend 0)).post (.pageRequestSend 1))
  | 4, 1 => ok (1 ≤ v && v ≤ 64 && (v == 1 || s.pkg < v)) (s.setRotor v s.pkg)
  | 4, 2 => ok (v < s.groupN) (s.setRotor s.groupN v)
  | 5, 1 => ok (v ≤ 8) (s.mapMgmt fun m => { m with reserve := v })
  | 5, 2 => ok ((setBits v).length ≤ 8 && among Config.nClusters)
      (s.mapMgmt fun m => { m with named := us.foldl (fun l u => tset l u (setBits v)) m.named })
  | 6, _ => ok (v < 16 && among nScrubbers) (s.mapMgmt fun m => { m with scrub := us.foldl (fun l u => tset l u v) m.scrub })
  | 7, _ =>
    if 11 < v || !among Config.nClusters then (4, s)
    else if us.any s.cluLive then (3, s)
    else (0, us.foldl (fun (t : State) u => t.withBitClear u fun t => t.setCarve u v) s)
  | 8, 1 =>
    let put (u : Nat) (t : Vector (Bool × Ring) 4) : Vector (Bool × Ring) 4 :=
      Vector.ofFn fun i => if i.val = u % 4 then (v == 1, t[i].2) else t[i]
    ok (v < 2 && among (4 * Config.nClusters))
      (us.foldl (fun (t : State) u => t.mapClu (u / 4) fun c => { c with trace := put u c.trace }) s)
  | _, _ => ok (v < 2) (s.mapMgmt fun m => { m with injection := v == 1 })
/-- SET_CTRL (R526, R530): a mode is in force for the requests that arrive after the response is written. -/
def execSetCtrl (tag fn ctrl units : Nat) (value : Word) (s : State) : Out :=
  inService s 2 tag
    (match ctrlExpert fn ctrl with
     | none => .next (s.respond 2 tag 4 none)
     | some e =>
       if e && !s.mgmt.unlocked then .next (s.respond 2 tag 2 none)
       else
         let r := s.applyCtrl fn ctrl units value.toNat
         let t := r.2.inventory.respond 2 tag r.1 none
         .next (if (r.2.ringPut 0).isSome then t.settleModes else t))
/-- SET_CTRL of function 8, control 15 (R533): the fused minimum is only raised. -/
def execSetCtrlMinSecurityVersion (tag version : Nat) (s : State) : Out :=
  inService s 2 tag
    (if !s.mgmt.unlocked then .next (s.respond 2 tag 2 none)
     else if s.mgmt.runVersion < version then .next (s.respond 2 tag 4 none)
     else .next ((s.mapMgmt fun m => { m with fuseMin := Nat.max m.fuseMin version }).respond 2 tag 0 none))

/-! ## Tables (R407, R408, R418, R451, R463) -/

/-- Fields of a partition record that exist, as a mask over its 256 bits (R407). -/
def partBits : BitVec 256 :=
  BitVec.ofNat 256 ((2 ^ 40 - 1) * 2 ^ 192 + (2 ^ 40 - 1) * 2 ^ 128 + (2 ^ 33 - 1))
/-- Bytes of a table that the management controller writes in memory. -/
def State.tableWrite (s : State) (a n v : Nat) : State := s.outsideWrite none a ((byteList a v n).map (·.2))
/-- Write one half of a partition record (R407): BUSY while a live launch uses a cluster of a field of the old or the new
record. -/
def State.setPart (s : State) (i h : Nat) (v : BitVec 128) : Nat × State :=
  let old := s.parts.toList.getD i 0
  let new : BitVec 256 := (if h = 0 then old.extractLsb' 128 128 ++ v else v ++ old.extractLsb' 0 128) &&& partBits
  let fs := (List.range 32).filter fun f => old.getLsbD f || new.getLsbD f
  let cls := fs.flatMap fun f => (List.range 16).map (16 * f + ·)
  let clash := (List.range 32).any fun j =>
    let r := s.parts.toList.getD j 0
    j != i && partValid r && partValid new && (List.range 32).any fun f => r.getLsbD f && new.getLsbD f
  if clash then (4, s)
  else if cls.any s.cluLive then (3, s)
  else
    let put (t : State) : State := { t with parts := Vector.ofFn fun k => if k.val = i then new else t.parts[k] }
    (0, cls.foldl (fun (f : State → State) cl t => t.withBitClear cl f) put s)
/-- A dispatcher entry names a context that its function may message (R451). -/
def State.dispOk (s : State) (f v : Nat) : Bool :=
  let fld := bits v 18 14
  !v.testBit 25 || (bits v 24 19 == s.pkg && (if f = 0 then (s.partOf fld).isSome else s.partOf fld == some (f - 1)))
/-- SET_TABLE (R529): tables 0 partition, 1 home descriptor, 2 ENL permission, 3 dispatcher, 4 address space. -/
def execSetTable (tag table index : Nat) (value : BitVec 128) (s : State) : Out :=
  let v := value.toNat
  let ok (c : Bool) (t : State) : Nat × State := if c then (0, t) else (4, s)
  let has (p : Nat) : Bool := p < 32 && partValid (s.parts.toList.getD p 0)
  let r : Nat × State :=
    match table with
    | 0 => if 64 ≤ index then (4, s) else s.setPart (index / 2) (index % 2) value
    | 1 =>
      let d := bits v 127 64 * 2 ^ 64 + bits v 15 14 * 2 ^ 14 + bits v 12 4 * 2 ^ 4
      ok (has (index / 256)) (s.tableWrite (s.hdtOf (index / 256) + 16 * (index % 256)) 16 d)
    | 2 =>
      let e := bits v 9 5 * 32 + bits v 2 0
      ok (has (index / 64))
        (s.tableWrite (bits (s.parts.toList.getD (index / 64) 0).toNat 231 192 * 4096 + 8 * (index % 64)) 8 e)
    | 3 =>
      let f := index / 16
      let put (k : Func) : Func :=
        { k with disp := Vector.ofFn fun i => if i.val = index % 16 then BitVec.ofNat 64 (bits v 25 0) else k.disp[i] }
      ok (f < 33 && s.dispOk f v) { s with funcs := tset s.funcs f (put (s.func f)) }
    | 4 => ok (index < 2 ^ 16) (s.tableWrite (asidTable + 16 * index) 16 (bits v 115 80 * 2 ^ 80 + bits v 27 0))
    | _ => (4, s)
  inService s 3 tag (.next (r.2.inventory.respond 3 tag r.1 none))
/-- INVAL (R424, R425): the response follows the completion. -/
def execInval (tag : Nat) (asid : Option Nat) (va len : Nat) (s : State) : Out :=
  inService s 4 tag
    (let who (a : Nat) : Bool := (asid.map (· == a)).getD true
     .next (((s.invalidate who va len).mapMgmt fun m => { m with invals := m.invals ++ [(some tag, asid, va, len)] }).post
       (.invalidationComplete asid va len)))
/-- INVALIDATION_COMPLETE (R425): once every access that used an old translation has been performed. -/
def execInvalidationComplete (asid : Option Nat) (va len : Nat) (s : State) : Out :=
  match s.mgmt.invals.find? fun e => e.2 == (asid, va, len) with
  | none => .next s
  | some e =>
    if s.oldAccess asid va len then .next (s.post (.invalidationComplete asid va len))
    else
      let t := s.mapMgmt fun m => { m with invals := m.invals.erase e }
      match e.1 with
      | some tag => .next (t.respond 4 tag 0 none)
      | none => .next t

/-! ## Host-assisted modes (R482, R530) -/

/-- The host has decomposed a block: its image and report word stand at the result PA, and the image is checked by R197
(R201, R229, R530); its words are then written as the millwright's own are. -/
def State.hostImage (s : State) (cl : Nat) (good : Bool) (pa : Nat) : State :=
  match (s.clu cl).mill with
  | [] => s
  | x :: _ =>
    let v := s.rdN pa (imageLen + 8)
    if good && imageValid v then s.millOut cl (runWords x.image v)
    else ((s.millFail cl x 7).raiseAsync x.who x.asid 0x3A (tokenOf 2 x.seq)).millNext cl
/-- The unit that waits gets the host's answer (R530). A status other than 0 is no answer to a calibration or a
readmission, which ask again. -/
def State.assisted (s : State) (a : Assist) (status pa : Nat) : State :=
  let good := status == 0
  match a with
  | .decompose cl => s.hostImage cl good pa
  | .calibrate cl =>
    if good then (s.mapOmu cl fun o => { o with calData := true }).post (.calibrationComplete cl) else s.assist a
  | .page f asid g => s.pageAnswer f asid g good
  | .readmit col => if (s.col col).state ≠ 3 then s else if good then s.readmit col else s.assist a
  | .relock k r => if good then s.circuitReady k r else s
  | .migrate n => if good then s.request ⟨n, s.cycle, true, false, none, some (pa % 64)⟩ else s.setTherm (s.colOf n)
/-- HOST_ASSIST (R530). -/
def execHostAssist (tag req status pa : Nat) (s : State) : Out :=
  inService s 5 tag
    (match s.mgmt.assists.find? (·.1 == req) with
     | none => .next (s.respond 5 tag 4 none)
     | some a =>
       let t := s.mapMgmt fun m => { m with assists := m.assists.filter (·.1 != req) }
       .next ((t.assisted a.2 status pa).respond 5 tag 0 none))
/-- FW_STAGE (R533): whether the image verifies, and its version, lie with the image; one that does not verify writes
nothing. -/
def execFwStage (tag _pa _len : Nat) (s : State) : Out :=
  let v := Config.freeWord s.free
  let s := { s with free := s.free + 1 }
  let img := v.toNat / 2
  if !v.getLsbD 0 || img < s.mgmt.fuseMin then .next (s.respond 6 tag 4 none)
  else
    let toA := match s.mgmt.running with
      | some a => !a
      | none => !s.mgmt.accepts s.mgmt.slotA
    .next ((s.mapMgmt fun m => if toA then { m with slotA := some img } else { m with slotB := some img }).respond 6 tag 0 none)
/-- READ_DEBUG (R278, R294, R529): 0 a core's SADV, 1 a race trace ring, whose 64 records are longer than a response. -/
def execReadDebug (tag which unit : Nat) (clear : Bool) (s : State) : Out :=
  let put (t : Vector (Bool × Ring) 4) : Vector (Bool × Ring) 4 :=
    Vector.ofFn fun i => if i.val = unit % 4 then (t[i].1, Ring.empty) else t[i]
  inService s 7 tag
    (if !s.mgmt.unlocked then .next (s.respond 7 tag 2 none)
     else if which = 0 ∧ unit < Config.nCores then
       let t := if clear then s.mapCore unit fun k => { k with sadv := 0 } else s
       .next (t.respond 7 tag 0 (some (s.core unit).sadv.toNat))
     else if which = 1 ∧ unit < 4 * Config.nClusters then
       let t := if clear then s.mapClu (unit / 4) fun c => { c with trace := put c.trace } else s
       .next (t.respond 7 tag 0 none)
     else .next (s.respond 7 tag 4 none))

/-! ## The module inventory (R531) -/

/-- VOTESTAT of a column (R483). -/
def State.votestat (s : State) (col : Nat) : Nat :=
  let x := s.col col
  let left := if x.state = 2 then x.fencedAt + 1000000 - s.cycle else 0
  let miss := (List.range 4).foldl (fun v d => v + Nat.min 3 (x.miss.toList.getD d 0) * 2 ^ (2 * d)) 0
  left % 2 ^ 20 * 2 ^ 44 + x.fails % 4 * 2 ^ 42 + x.nbr.toNat * 2 ^ 28 + x.susp.toNat * 2 ^ 24 + x.told.toNat * 2 ^ 20
    + miss * 2 ^ 12 + x.state % 8
/-- THERMSTAT of a column (R486). -/
def State.thermstat (s : State) (col : Nat) : Nat :=
  let x := s.col col
  x.peak.toNat * 2 ^ 40 + x.therm % 8 * 2 ^ 33 + (if x.nospare then 2 ^ 32 else 0) + x.moves % 2 ^ 16 * 2 ^ 16 + x.temp.toNat
/-- MIGCNT (R490). -/
def MigCount.word (m : MigCount) : Nat :=
  m.moves % 2 ^ 16 * 2 ^ 48 + m.held % 2 ^ 16 * 2 ^ 32 + m.redir % 2 ^ 16 * 2 ^ 16 + m.cycles % 2 ^ 16
/-- Status record of a port site (R462). -/
def Port.word (p : Port) : Nat :=
  p.refused % 2 ^ 32 * 2 ^ 96 + p.skipped % 2 ^ 32 * 2 ^ 64 + p.relockf % 2 ^ 16 * 2 ^ 48 + p.offset.toNat * 2 ^ 32
    + p.run % 8 * 2 ^ 3 + (if p.skew then 4 else 0) + p.state % 4
/-- A ring of 1,040 bytes (R531). -/
def Ring.image (r : Ring) : Nat :=
  (List.range 64).foldl (fun v i => v + (r.recs.getD i 0).toNat * 2 ^ (128 * i)) (r.lost * 2 ^ 8192)
/-- All error log rings, in the order of R473. -/
def State.rings (s : State) : List Ring :=
  (List.range Config.nClusters).flatMap (fun cl =>
    let c := s.clu cl
    [c.regRing, c.spadRing, c.l1Ring, c.sliceRing, c.faultRing]) ++
  (List.range 48).map (fun h => tget s.stackRings h .empty) ++ (List.range 32).map (fun f => tget s.meshRings f .empty) ++
  (List.range 4).map fun k => tget s.siteRings k .empty
/-- Where the inventory lies (R528). -/
def inventoryAt : Nat := 0x400000
/-- The records of the inventory: offset, length in bytes, value (R531). -/
def State.inventoryRecords (s : State) : List (Nat × Nat × Nat) :=
  let cols := List.range 32768
  let rings := s.rings
  (List.range 7).map (fun i => (8 + 8 * i, 8, (Config.identity (i + 1)).toNat)) ++ [(0x80, 4, s.mgmt.dropped)] ++
  (List.range 32).map (fun w => (0x100 + 8 * w, 8, (s.rdy.toList.getD w 0).toNat)) ++
  (List.range Config.nCores).map (fun n => (0x10000 + 2 * n, 2, (s.remapOf n).toNat)) ++
  (List.range 32).map (fun i => (0x30000 + 32 * i, 32, (s.parts.toList.getD i 0).toNat)) ++
  cols.map (fun k => (0x40000 + 8 * k, 8, s.votestat k)) ++ cols.map (fun k => (0x80000 + 8 * k, 8, s.thermstat k)) ++
  (List.range Config.nClusters).map (fun cl => (0xC0000 + 8 * cl, 8, (s.clu cl).migCount.word)) ++
  (List.range 4).map (fun k => (0xC1000 + 16 * k, 16, (s.port k).word)) ++
  (List.range rings.length).map fun i => (0x100000 + 1040 * i, 1040, (rings.getD i .empty).image)
/-- Every error log ring has been read (R473). -/
def State.ringsSeen (s : State) : State :=
  { s with
    clus := s.clus.map fun (p : Nat × Cluster) =>
      (p.1, { p.2 with regRing := p.2.regRing.seen, spadRing := p.2.spadRing.seen, l1Ring := p.2.l1Ring.seen,
                       sliceRing := p.2.sliceRing.seen, faultRing := p.2.faultRing.seen })
    stackRings := s.stackRings.map fun p => (p.1, p.2.seen)
    meshRings := s.meshRings.map fun p => (p.1, p.2.seen)
    siteRings := s.siteRings.map fun p => (p.1, p.2.seen) }
/-- A range that may be an aperture of VF f: 64 KiB-aligned, wholly in HBM, or in the carve-out of a cluster of a field of the function's
partition (R450), with nothing of the lowest 8 GiB, which the controller keeps (R528). -/
def State.apertureOk (s : State) (f base len : Nat) : Bool :=
  base % 65536 == 0 && len % 65536 == 0 && 0 < len &&
    ((0x200000000 ≤ base && base + len ≤ hbmTop) ||
      (isCarve base && isCarve (base + len - 1) && carveCluster base == carveCluster (base + len - 1) && s.localNamed (base + len - 1)
        && s.inPart (f - 1) (carveCluster base / 16)))
/-- The management controller gives a VF one more aperture, up to 16, or takes its apertures away: which, and when, is not stated, so it
is free (R450; log entry 50). -/
def State.setAperture (s : State) : State :=
  let v := (Config.freeWord s.free).toNat
  let w := (Config.freeWord (s.free + 1)).toNat
  let f := v % 32 + 1
  let base := v / 64 % 2 ^ 28 * 65536
  let len := (w % 2 ^ 28 + 1) * 65536
  let s := { s with free := s.free + 2 }
  if v.testBit 5 then s.mapFunc f fun x => { x with apertures := [] }
  else if s.apertureOk f base len && (s.func f).apertures.length < 16 then
    s.mapFunc f fun x => { x with apertures := x.apertures ++ [(base, len)] }
  else s
/-- The management controller has published the status records of the port sites and the error log rings, which are read then (R473). It
then may write a 1 to a skew bit, which clears it (R7, R462), clear the rings (R473), and set an aperture (R450): when it does is not
stated, so it is free (log entries 50 and 71). -/
def State.readAndClear (s : State) : State :=
  let r := s.ringsSeen.freeNat (2 ^ 6)
  let s := (List.range 4).foldl (fun (s : State) k =>
    if r.1.testBit k && (s.port k).skew then (s.mapPort k fun p => { p with skew := false }).inventory else s) r.2
  let s := if r.1.testBit 5 then s.setAperture else s
  if !r.1.testBit 4 || (s.rings.all fun x => x.recs.isEmpty) then s
  else
    { s with
      clus := s.clus.map fun (p : Nat × Cluster) =>
        (p.1, { p.2 with regRing := .empty, spadRing := .empty, l1Ring := .empty, sliceRing := .empty, faultRing := .empty })
      stackRings := [], meshRings := [], siteRings := [] }.inventory
/-- INVENTORY_UPDATE (R531): the controller makes the generation word odd, changes the records, and makes it even. Events
that cores have reported are written as reports (R429). -/
def execInventoryUpdate (s : State) : Out :=
  if !s.fwRuns then (if s.mgmt.stale || 0 < s.mgmt.alarms then .next (s.post .inventoryUpdate) else .next s)
  else if 0 < s.mgmt.alarms then
    let s := (s.mapMgmt fun m => { m with alarms := m.alarms - 1 }).report
    .next (if s.mgmt.stale || 0 < s.mgmt.alarms then s.post .inventoryUpdate else s)
  else if !s.mgmt.stale then .next s
  else
    let g := s.rdN inventoryAt 8
    if g % 2 = 0 then .next ((s.store inventoryAt 8 (g + 1) false).post .inventoryUpdate)
    else
      let s := s.inventoryRecords.foldl (fun (s : State) r => s.store (inventoryAt + r.1) r.2.1 r.2.2 false) s
      .next (((s.store inventoryAt 8 (g + 1) false).mapMgmt fun m => { m with stale := false }).readAndClear)

/-! ## Illegal instructions (R78, R80, R81, R93, R103) -/

/-- ILLEGAL_INSTRUCTION: a head that is no instruction traps with ILLEGAL_INSTR, one with reserved bits set with
RESERVED_FIELD. -/
def execIllegalInstruction (reserved : Bool) (s : State) : Out := .next (s.trapHead (if reserved then 0x03 else 0x01))

end Sys2Proof.Machine
end

