-- ==== Sys2Proof/Machine/ScalarFp.lean ====
section
/-! DEFINITION. The scalar floating-point forms (R139, R144, R145, R159, R160). -/
namespace Sys2Proof.Machine

/-- The state with a floating result in an x register, zero above the format (R39, R159), and its flags merged. -/
def State.putFp (s : State) (d : XR) (r : Fp) : State :=
  s.mapMe fun c => (c.setX d (BitVec.ofNat 64 r.1)).flag r.2
/-- The value of an operand in format f: the low bits of its register (R159). -/
def State.fpS (s : State) (f : Fmt) (b : XS) : Nat := (s.me.getS b).toNat % 2 ^ (f.sgn + 1)
/-- A rounding form: rmode 6 and 7 trap (R144). -/
def fpOut (s : State) (d : XR) (r : Fp) : Out := s.needRmode (retire s (s.putFp d r))
/-- A rounding form that is a long op of l cycles (R139). -/
def fpLong (s : State) (d : XR) (r : Fp) (l : Nat) : Out := s.needRmode (retireAfter s (s.putFp d r) l)
/-- A form that does not round (R145). -/
def fpPlain (s : State) (d : XR) (r : Fp) : Out := retire s (s.putFp d r)
/-- A comparison: the integer 1 or 0 (R159). -/
def fpBool (s : State) (d : XR) (r : Bool × Word) : Out :=
  retire s (s.mapMe fun c => (c.setX d (if r.1 then 1 else 0)).flag r.2)
/-- Cycles of scalar division and square root (R139). -/
def fpCycles (f : Fmt) : Nat := if f = fmtF32 then 20 else 36

/-- FADD.F32 (R160, R144). -/
def execFaddF32 (d : XR) (b c : XS) (s : State) : Out := fpOut s d (fmtF32.add s.env 0 (s.fpS fmtF32 b) (s.fpS fmtF32 c))
/-- FSUB.F32 (R160, R144). -/
def execFsubF32 (d : XR) (b c : XS) (s : State) : Out := fpOut s d (fmtF32.sub s.env 0 (s.fpS fmtF32 b) (s.fpS fmtF32 c))
/-- FMUL.F32 (R160, R144). -/
def execFmulF32 (d : XR) (b c : XS) (s : State) : Out := fpOut s d (fmtF32.mul s.env 0 (s.fpS fmtF32 b) (s.fpS fmtF32 c))
/-- FDIV.F32 (R160, R144). -/
def execFdivF32 (d : XR) (b c : XS) (s : State) : Out := 
  fpLong s d (fmtF32.div s.env 0 (s.fpS fmtF32 b) (s.fpS fmtF32 c)) (fpCycles fmtF32)
/-- FSQRT.F32 (R160, R144). -/
def execFsqrtF32 (d : XR) (b : XS) (s : State) : Out := 
  fpLong s d (fmtF32.sqrt s.env 0 (s.fpS fmtF32 b)) (fpCycles fmtF32)
/-- FMIN.F32 (R160, R145). -/
def execFminF32 (d : XR) (b c : XS) (s : State) : Out := 
  fpPlain s d (fmtF32.minMax s.env false (s.fpS fmtF32 b) (s.fpS fmtF32 c))
/-- FMAX.F32 (R160, R145). -/
def execFmaxF32 (d : XR) (b c : XS) (s : State) : Out := 
  fpPlain s d (fmtF32.minMax s.env true (s.fpS fmtF32 b) (s.fpS fmtF32 c))
/-- FFMA.F32 (R160, R144). -/
def execFfmaF32 (d : XR) (b c : XS) (s : State) : Out := 
  fpOut s d (fmtF32.fma s.env 0 false false (s.fpS fmtF32 (.x d)) (s.fpS fmtF32 b) (s.fpS fmtF32 c))
/-- FEQ.F32 (R160, R145). -/
def execFeqF32 (d : XR) (b c : XS) (s : State) : Out := fpBool s d (fmtF32.eq s.env (s.fpS fmtF32 b) (s.fpS fmtF32 c))
/-- FLT.F32 (R160, R145). -/
def execFltF32 (d : XR) (b c : XS) (s : State) : Out := 
  fpBool s d (fmtF32.less s.env false (s.fpS fmtF32 b) (s.fpS fmtF32 c))
/-- FLE.F32 (R160, R145). -/
def execFleF32 (d : XR) (b c : XS) (s : State) : Out := 
  fpBool s d (fmtF32.less s.env true (s.fpS fmtF32 b) (s.fpS fmtF32 c))
/-- FADD.F64 (R160, R144). -/
def execFaddF64 (d : XR) (b c : XS) (s : State) : Out := fpOut s d (fmtF64.add s.env 0 (s.fpS fmtF64 b) (s.fpS fmtF64 c))
/-- FSUB.F64 (R160, R144). -/
def execFsubF64 (d : XR) (b c : XS) (s : State) : Out := fpOut s d (fmtF64.sub s.env 0 (s.fpS fmtF64 b) (s.fpS fmtF64 c))
/-- FMUL.F64 (R160, R144). -/
def execFmulF64 (d : XR) (b c : XS) (s : State) : Out := fpOut s d (fmtF64.mul s.env 0 (s.fpS fmtF64 b) (s.fpS fmtF64 c))
/-- FDIV.F64 (R160, R144). -/
def execFdivF64 (d : XR) (b c : XS) (s : State) : Out := 
  fpLong s d (fmtF64.div s.env 0 (s.fpS fmtF64 b) (s.fpS fmtF64 c)) (fpCycles fmtF64)
/-- FSQRT.F64 (R160, R144). -/
def execFsqrtF64 (d : XR) (b : XS) (s : State) : Out := 
  fpLong s d (fmtF64.sqrt s.env 0 (s.fpS fmtF64 b)) (fpCycles fmtF64)
/-- FMIN.F64 (R160, R145). -/
def execFminF64 (d : XR) (b c : XS) (s : State) : Out := 
  fpPlain s d (fmtF64.minMax s.env false (s.fpS fmtF64 b) (s.fpS fmtF64 c))
/-- FMAX.F64 (R160, R145). -/
def execFmaxF64 (d : XR) (b c : XS) (s : State) : Out := 
  fpPlain s d (fmtF64.minMax s.env true (s.fpS fmtF64 b) (s.fpS fmtF64 c))
/-- FFMA.F64 (R160, R144). -/
def execFfmaF64 (d : XR) (b c : XS) (s : State) : Out := 
  fpOut s d (fmtF64.fma s.env 0 false false (s.fpS fmtF64 (.x d)) (s.fpS fmtF64 b) (s.fpS fmtF64 c))
/-- FEQ.F64 (R160, R145). -/
def execFeqF64 (d : XR) (b c : XS) (s : State) : Out := fpBool s d (fmtF64.eq s.env (s.fpS fmtF64 b) (s.fpS fmtF64 c))
/-- FLT.F64 (R160, R145). -/
def execFltF64 (d : XR) (b c : XS) (s : State) : Out := 
  fpBool s d (fmtF64.less s.env false (s.fpS fmtF64 b) (s.fpS fmtF64 c))
/-- FLE.F64 (R160, R145). -/
def execFleF64 (d : XR) (b c : XS) (s : State) : Out := 
  fpBool s d (fmtF64.less s.env true (s.fpS fmtF64 b) (s.fpS fmtF64 c))

end Sys2Proof.Machine
end

