-- ==== Sys2Proof/Machine/Dispatch.lean ====
section
/-! DEFINITION. The meaning of every instruction: one arm per constructor, one call per arm. -/
namespace Sys2Proof.Machine

/-- The meaning of every instruction. -/
def exec (i : Instr) (s : State) : Host.Outcome State Fault Refusal :=
  match i with
  | .millerTakeTrap core => Sys2Proof.Machine.execMillerTakeTrap core s
  | .asyncTrapTake ctx => Sys2Proof.Machine.execAsyncTrapTake ctx s
  | .longOpReply ctx => Sys2Proof.Machine.execLongOpReply ctx s
  | .yieldRejoin ctx => Sys2Proof.Machine.execYieldRejoin ctx s
  | .ifetchLineArrival ctx => Sys2Proof.Machine.execIfetchLineArrival ctx s
  | .corePlacement launch core => Sys2Proof.Machine.execCorePlacement launch core s
  | .launchEnd launch => Sys2Proof.Machine.execLaunchEnd launch s
  | .storeBufferDrain ctx => Sys2Proof.Machine.execStoreBufferDrain ctx s
  | .fullEmptyAtPort ctx op loc d data => Sys2Proof.Machine.execFullEmptyAtPort ctx op loc d data s
  | .peerAccessAtPort core off n sg wr data ctx d => Sys2Proof.Machine.execPeerAccessAtPort core off n sg wr data ctx d s
  | .proxyAccess ctx va pa wr => Sys2Proof.Machine.execProxyAccess ctx va pa wr s
  | .atomicAtPlace op w o sc loc c e ctx d => Sys2Proof.Machine.execAtomicAtPlace op w o sc loc c e ctx d s
  | .cellOperationAtHome op pa who => Sys2Proof.Machine.execCellOperationAtHome op pa who s
  | .waitvAtHome ctx loc wide ne c e => Sys2Proof.Machine.execWaitvAtHome ctx loc wide ne c e s
  | .notifyAtHome ctx loc all d => Sys2Proof.Machine.execNotifyAtHome ctx loc all d s
  | .waitTableEntryGrant home => Sys2Proof.Machine.execWaitTableEntryGrant home s
  | .syncAtHome ctx loc => Sys2Proof.Machine.execSyncAtHome ctx loc s
  | .joinUpdateAtHome loc addend ctx d new => Sys2Proof.Machine.execJoinUpdateAtHome loc addend ctx d new s
  | .sluiceArrivalCount who ch phase after => Sys2Proof.Machine.execSluiceArrivalCount who ch phase after s
  | .sluiceRelay launch ch field => Sys2Proof.Machine.execSluiceRelay launch ch field s
  | .sluiceCompletionSeen launch ch field => Sys2Proof.Machine.execSluiceCompletionSeen launch ch field s
  | .messageArrival m ctx d => Sys2Proof.Machine.execMessageArrival m ctx d s
  | .sendStatusReturn ctx status d => Sys2Proof.Machine.execSendStatusReturn ctx status d s
  | .spilledMessageMove core => Sys2Proof.Machine.execSpilledMessageMove core s
  | .engineAcceptance ctx r => Sys2Proof.Machine.execEngineAcceptance ctx r s
  | .engineWordWrite cluster kind seq => Sys2Proof.Machine.execEngineWordWrite cluster kind seq s
  | .engineCommandComplete cluster kind seq => Sys2Proof.Machine.execEngineCommandComplete cluster kind seq s
  | .cpytFramePush cluster seq => Sys2Proof.Machine.execCpytFramePush cluster seq s
  | .rdctNodeCombine cluster seq => Sys2Proof.Machine.execRdctNodeCombine cluster seq s
  | .headraceTileFill cluster seq => Sys2Proof.Machine.execHeadraceTileFill cluster seq s
  | .tailraceWriteback cluster seq => Sys2Proof.Machine.execTailraceWriteback cluster seq s
  | .opticalAcceptance ctx r => Sys2Proof.Machine.execOpticalAcceptance ctx r s
  | .passRowWrite cluster => Sys2Proof.Machine.execPassRowWrite cluster s
  | .probeSymbol cluster => Sys2Proof.Machine.execProbeSymbol cluster s
  | .passComplete cluster => Sys2Proof.Machine.execPassComplete cluster s
  | .phaseLoadEnd cluster => Sys2Proof.Machine.execPhaseLoadEnd cluster s
  | .phaseSwap cluster => Sys2Proof.Machine.execPhaseSwap cluster s
  | .decompositionComplete cluster => Sys2Proof.Machine.execDecompositionComplete cluster s
  | .calibrationStart cluster => Sys2Proof.Machine.execCalibrationStart cluster s
  | .calibrationComplete cluster => Sys2Proof.Machine.execCalibrationComplete cluster s
  | .governorLock cluster => Sys2Proof.Machine.execGovernorLock cluster s
  | .governorEnterDrift cluster => Sys2Proof.Machine.execGovernorEnterDrift cluster s
  | .governorLeaveDrift cluster => Sys2Proof.Machine.execGovernorLeaveDrift cluster s
  | .recalibrationStart cluster => Sys2Proof.Machine.execRecalibrationStart cluster s
  | .temperatureLoop cluster => Sys2Proof.Machine.execTemperatureLoop cluster s
  | .dequeRefill core => Sys2Proof.Machine.execDequeRefill core s
  | .stealProbeRead ctx victims d => Sys2Proof.Machine.execStealProbeRead ctx victims d s
  | .stealCas ctx victims t d => Sys2Proof.Machine.execStealCas ctx victims t d s
  | .loadTask ctx frame d => Sys2Proof.Machine.execLoadTask ctx frame d s
  | .translationRequest ctx va acc => Sys2Proof.Machine.execTranslationRequest ctx va acc s
  | .walkComplete field asid granule => Sys2Proof.Machine.execWalkComplete field asid granule s
  | .sliceEntryPinExpiry cluster asid va => Sys2Proof.Machine.execSliceEntryPinExpiry cluster asid va s
  | .atsTranslationCompletion field asid granule pa contiguous r w x => Sys2Proof.Machine.execAtsTranslationCompletion field asid granule pa contiguous r w x s
  | .pageRequestSend link => Sys2Proof.Machine.execPageRequestSend link s
  | .pageRequestResponse link field asid granule code => Sys2Proof.Machine.execPageRequestResponse link field asid granule code s
  | .priEnable link alloc => Sys2Proof.Machine.execPriEnable link alloc s
  | .priStop link => Sys2Proof.Machine.execPriStop link s
  | .atsInvalidationRequest link pasid va len => Sys2Proof.Machine.execAtsInvalidationRequest link pasid va len s
  | .invalidationComplete asid va len => Sys2Proof.Machine.execInvalidationComplete asid va len s
  | .hostMessage link fn whole record => Sys2Proof.Machine.execHostMessage link fn whole record s
  | .bar2Access link fn addr wr len => Sys2Proof.Machine.execBar2Access link fn addr wr len s
  | .bar2AtomicOp link fn op w addr c e => Sys2Proof.Machine.execBar2AtomicOp link fn op w addr c e s
  | .bar0RegisterWrite fn off data => Sys2Proof.Machine.execBar0RegisterWrite fn off data s
  | .rotorSlotStart port offset relockOk => Sys2Proof.Machine.execRotorSlotStart port offset relockOk s
  | .flitReceive port src srcPart tgtPart seq ctx crcOk pa data => Sys2Proof.Machine.execFlitReceive port src srcPart tgtPart seq ctx crcOk pa data s
  | .flitAck port seq ok => Sys2Proof.Machine.execFlitAck port seq ok s
  | .completionMarkerReceive port src srcPart tgtPart ctx seqs pa data => Sys2Proof.Machine.execCompletionMarkerReceive port src srcPart tgtPart ctx seqs pa data s
  | .circuitBringUpComplete port peer => Sys2Proof.Machine.execCircuitBringUpComplete port peer s
  | .portResyncComplete port => Sys2Proof.Machine.execPortResyncComplete port s
  | .scrubVisit struct unit addr => Sys2Proof.Machine.execScrubVisit struct unit addr s
  | .verticalBusTest col fails => Sys2Proof.Machine.execVerticalBusTest col fails s
  | .heartbeatSend col => Sys2Proof.Machine.execHeartbeatSend col s
  | .heartbeatReceive col dir window coordsOk windowOk crcOk => Sys2Proof.Machine.execHeartbeatReceive col dir window coordsOk windowOk crcOk s
  | .heartbeatDeadline col => Sys2Proof.Machine.execHeartbeatDeadline col s
  | .suspectNotice col voter => Sys2Proof.Machine.execSuspectNotice col voter s
  | .fenceNotice col => Sys2Proof.Machine.execFenceNotice col s
  | .quarantineEnd col testPass => Sys2Proof.Machine.execQuarantineEnd col testPass s
  | .appeal col dir => Sys2Proof.Machine.execAppeal col dir s
  | .temperatureSample kind unit temp => Sys2Proof.Machine.execTemperatureSample kind unit temp s
  | .migrationStart cluster => Sys2Proof.Machine.execMigrationStart cluster s
  | .migrationRetry cluster => Sys2Proof.Machine.execMigrationRetry cluster s
  | .migrationStateCopy cluster => Sys2Proof.Machine.execMigrationStateCopy cluster s
  | .migrationCommit cluster => Sys2Proof.Machine.execMigrationCommit cluster s
  | .sliceFrameWriteback cluster => Sys2Proof.Machine.execSliceFrameWriteback cluster s
  | .slicePowerOff cluster => Sys2Proof.Machine.execSlicePowerOff cluster s
  | .sliceRecovery cluster => Sys2Proof.Machine.execSliceRecovery cluster s
  | .powerSample watts => Sys2Proof.Machine.execPowerSample watts s
  | .moduleReset => Sys2Proof.Machine.execModuleReset s
  | .vmainLoss => Sys2Proof.Machine.execVmainLoss s
  | .vmainPowerOn => Sys2Proof.Machine.execVmainPowerOn s
  | .hostLinkTrained link atomics => Sys2Proof.Machine.execHostLinkTrained link atomics s
  | .hbmStackReady h pass => Sys2Proof.Machine.execHbmStackReady h pass s
  | .fieldReady f => Sys2Proof.Machine.execFieldReady f s
  | .clusterReady cluster => Sys2Proof.Machine.execClusterReady cluster s
  | .combLightLoss site => Sys2Proof.Machine.execCombLightLoss site s
  | .combLightReturn site => Sys2Proof.Machine.execCombLightReturn site s
  | .commandRingTailWrite tail => Sys2Proof.Machine.execCommandRingTailWrite tail s
  | .responseRingHeadWrite head => Sys2Proof.Machine.execResponseRingHeadWrite head s
  | .spdm tag len msg => Sys2Proof.Machine.execSpdm tag len msg s
  | .setCtrl tag fn ctrl units value => Sys2Proof.Machine.execSetCtrl tag fn ctrl units value s
  | .setCtrlMinSecurityVersion tag version => Sys2Proof.Machine.execSetCtrlMinSecurityVersion tag version s
  | .setTable tag table index value => Sys2Proof.Machine.execSetTable tag table index value s
  | .inval tag asid va len => Sys2Proof.Machine.execInval tag asid va len s
  | .hostAssist tag req status pa => Sys2Proof.Machine.execHostAssist tag req status pa s
  | .fwStage tag pa len => Sys2Proof.Machine.execFwStage tag pa len s
  | .readDebug tag which unit clear => Sys2Proof.Machine.execReadDebug tag which unit clear s
  | .illegalInstruction reserved => Sys2Proof.Machine.execIllegalInstruction reserved s
  | .softError struct unit addr bit unc => Sys2Proof.Machine.execSoftError struct unit addr bit unc s
  | .inventoryUpdate => Sys2Proof.Machine.execInventoryUpdate s
  | .nop => Sys2Proof.Machine.execNop s
  | .halt => Sys2Proof.Machine.execHalt s
  | .yield => Sys2Proof.Machine.execYield s
  | .brk => Sys2Proof.Machine.execBrk s
  | .j off => Sys2Proof.Machine.execJ off s
  | .jal d off => Sys2Proof.Machine.execJal d off s
  | .jalr d b => Sys2Proof.Machine.execJalr d b s
  | .beq a b off => Sys2Proof.Machine.execBeq a b off s
  | .bne a b off => Sys2Proof.Machine.execBne a b off s
  | .blt a b off => Sys2Proof.Machine.execBlt a b off s
  | .bge a b off => Sys2Proof.Machine.execBge a b off s
  | .bltn a b off => Sys2Proof.Machine.execBltn a b off s
  | .bgen a b off => Sys2Proof.Machine.execBgen a b off s
  | .bkany a b off => Sys2Proof.Machine.execBkany a b off s
  | .bkall a b off => Sys2Proof.Machine.execBkall a b off s
  | .bknone a b off => Sys2Proof.Machine.execBknone a b off s
  | .dbnz a off => Sys2Proof.Machine.execDbnz a off s
  | .add d b c => Sys2Proof.Machine.execAdd d b c s
  | .sub d b c => Sys2Proof.Machine.execSub d b c s
  | .and d b c => Sys2Proof.Machine.execAnd d b c s
  | .or d b c => Sys2Proof.Machine.execOr d b c s
  | .xor d b c => Sys2Proof.Machine.execXor d b c s
  | .andn d b c => Sys2Proof.Machine.execAndn d b c s
  | .sll d b c => Sys2Proof.Machine.execSll d b c s
  | .srl d b c => Sys2Proof.Machine.execSrl d b c s
  | .sra d b c => Sys2Proof.Machine.execSra d b c s
  | .ror d b c => Sys2Proof.Machine.execRor d b c s
  | .slt d b c => Sys2Proof.Machine.execSlt d b c s
  | .sltn d b c => Sys2Proof.Machine.execSltn d b c s
  | .min d b c => Sys2Proof.Machine.execMin d b c s
  | .max d b c => Sys2Proof.Machine.execMax d b c s
  | .minn d b c => Sys2Proof.Machine.execMinn d b c s
  | .maxn d b c => Sys2Proof.Machine.execMaxn d b c s
  | .addi d b imm => Sys2Proof.Machine.execAddi d b imm s
  | .andi d b imm => Sys2Proof.Machine.execAndi d b imm s
  | .ori d b imm => Sys2Proof.Machine.execOri d b imm s
  | .xori d b imm => Sys2Proof.Machine.execXori d b imm s
  | .slli d b sh => Sys2Proof.Machine.execSlli d b sh s
  | .srli d b sh => Sys2Proof.Machine.execSrli d b sh s
  | .srai d b sh => Sys2Proof.Machine.execSrai d b sh s
  | .slti d b imm => Sys2Proof.Machine.execSlti d b imm s
  | .sltni d b imm => Sys2Proof.Machine.execSltni d b imm s
  | .li d imm => Sys2Proof.Machine.execLi d imm s
  | .lih d imm => Sys2Proof.Machine.execLih d imm s
  | .mul d b c => Sys2Proof.Machine.execMul d b c s
  | .mulh d b c => Sys2Proof.Machine.execMulh d b c s
  | .mulhn d b c => Sys2Proof.Machine.execMulhn d b c s
  | .div d b c => Sys2Proof.Machine.execDiv d b c s
  | .divn d b c => Sys2Proof.Machine.execDivn d b c s
  | .rem d b c => Sys2Proof.Machine.execRem d b c s
  | .remn d b c => Sys2Proof.Machine.execRemn d b c s
  | .clz d b => Sys2Proof.Machine.execClz d b s
  | .ctz d b => Sys2Proof.Machine.execCtz d b s
  | .popc d b => Sys2Proof.Machine.execPopc d b s
  | .brev d b => Sys2Proof.Machine.execBrev d b s
  | .addpc d off => Sys2Proof.Machine.execAddpc d off s
  | .faddF32 d b c => Sys2Proof.Machine.execFaddF32 d b c s
  | .fsubF32 d b c => Sys2Proof.Machine.execFsubF32 d b c s
  | .fmulF32 d b c => Sys2Proof.Machine.execFmulF32 d b c s
  | .fdivF32 d b c => Sys2Proof.Machine.execFdivF32 d b c s
  | .fsqrtF32 d b => Sys2Proof.Machine.execFsqrtF32 d b s
  | .fminF32 d b c => Sys2Proof.Machine.execFminF32 d b c s
  | .fmaxF32 d b c => Sys2Proof.Machine.execFmaxF32 d b c s
  | .ffmaF32 d b c => Sys2Proof.Machine.execFfmaF32 d b c s
  | .feqF32 d b c => Sys2Proof.Machine.execFeqF32 d b c s
  | .fltF32 d b c => Sys2Proof.Machine.execFltF32 d b c s
  | .fleF32 d b c => Sys2Proof.Machine.execFleF32 d b c s
  | .faddF64 d b c => Sys2Proof.Machine.execFaddF64 d b c s
  | .fsubF64 d b c => Sys2Proof.Machine.execFsubF64 d b c s
  | .fmulF64 d b c => Sys2Proof.Machine.execFmulF64 d b c s
  | .fdivF64 d b c => Sys2Proof.Machine.execFdivF64 d b c s
  | .fsqrtF64 d b => Sys2Proof.Machine.execFsqrtF64 d b s
  | .fminF64 d b c => Sys2Proof.Machine.execFminF64 d b c s
  | .fmaxF64 d b c => Sys2Proof.Machine.execFmaxF64 d b c s
  | .ffmaF64 d b c => Sys2Proof.Machine.execFfmaF64 d b c s
  | .feqF64 d b c => Sys2Proof.Machine.execFeqF64 d b c s
  | .fltF64 d b c => Sys2Proof.Machine.execFltF64 d b c s
  | .fleF64 d b c => Sys2Proof.Machine.execFleF64 d b c s
  | .vadd t d b c m => Sys2Proof.Machine.execVadd t d b c m s
  | .vsub t d b c m => Sys2Proof.Machine.execVsub t d b c m s
  | .vmul t d b c m => Sys2Proof.Machine.execVmul t d b c m s
  | .vmulh t d b c m => Sys2Proof.Machine.execVmulh t d b c m s
  | .vand t d b c m => Sys2Proof.Machine.execVand t d b c m s
  | .vor t d b c m => Sys2Proof.Machine.execVor t d b c m s
  | .vxor t d b c m => Sys2Proof.Machine.execVxor t d b c m s
  | .vandn t d b c m => Sys2Proof.Machine.execVandn t d b c m s
  | .vsll t d b c m => Sys2Proof.Machine.execVsll t d b c m s
  | .vsrl t d b c m => Sys2Proof.Machine.execVsrl t d b c m s
  | .vsra t d b c m => Sys2Proof.Machine.execVsra t d b c m s
  | .vmin t d b c m => Sys2Proof.Machine.execVmin t d b c m s
  | .vmax t d b c m => Sys2Proof.Machine.execVmax t d b c m s
  | .vadds t d b c m => Sys2Proof.Machine.execVadds t d b c m s
  | .vsubs t d b c m => Sys2Proof.Machine.execVsubs t d b c m s
  | .vabs t d b m => Sys2Proof.Machine.execVabs t d b m s
  | .vcmpeq t d b c m => Sys2Proof.Machine.execVcmpeq t d b c m s
  | .vcmplt t d b c m => Sys2Proof.Machine.execVcmplt t d b c m s
  | .vcmple t d b c m => Sys2Proof.Machine.execVcmple t d b c m s
  | .vsel t d b c m => Sys2Proof.Machine.execVsel t d b c m s
  | .vsplat t d b m => Sys2Proof.Machine.execVsplat t d b m s
  | .vneg t d b m => Sys2Proof.Machine.execVneg t d b m s
  | .vfadd t d b c m => Sys2Proof.Machine.execVfadd t d b c m s
  | .vfsub t d b c m => Sys2Proof.Machine.execVfsub t d b c m s
  | .vfmul t d b c m => Sys2Proof.Machine.execVfmul t d b c m s
  | .vfma t d b c m => Sys2Proof.Machine.execVfma t d b c m s
  | .vfms t d b c m => Sys2Proof.Machine.execVfms t d b c m s
  | .vfnma t d b c m => Sys2Proof.Machine.execVfnma t d b c m s
  | .vfmin t d b c m => Sys2Proof.Machine.execVfmin t d b c m s
  | .vfmax t d b c m => Sys2Proof.Machine.execVfmax t d b c m s
  | .vfdiv t d b c m => Sys2Proof.Machine.execVfdiv t d b c m s
  | .vfsqrt t d b m => Sys2Proof.Machine.execVfsqrt t d b m s
  | .vfabs t d b m => Sys2Proof.Machine.execVfabs t d b m s
  | .vfneg t d b m => Sys2Proof.Machine.execVfneg t d b m s
  | .vfcmpeq t d b c m => Sys2Proof.Machine.execVfcmpeq t d b c m s
  | .vfcmplt t d b c m => Sys2Proof.Machine.execVfcmplt t d b c m s
  | .vfcmple t d b c m => Sys2Proof.Machine.execVfcmple t d b c m s
  | .kand d b c => Sys2Proof.Machine.execKand d b c s
  | .kor d b c => Sys2Proof.Machine.execKor d b c s
  | .kxor d b c => Sys2Proof.Machine.execKxor d b c s
  | .kandn d b c => Sys2Proof.Machine.execKandn d b c s
  | .knot d b => Sys2Proof.Machine.execKnot d b s
  | .kmovx d b => Sys2Proof.Machine.execKmovx d b s
  | .ktox d b => Sys2Proof.Machine.execKtox d b s
  | .kpopc d b => Sys2Proof.Machine.execKpopc d b s
  | .kfirst d b => Sys2Proof.Machine.execKfirst d b s
  | .vaddi t d b imm m => Sys2Proof.Machine.execVaddi t d b imm m s
  | .vandi t d b imm m => Sys2Proof.Machine.execVandi t d b imm m s
  | .vori t d b imm m => Sys2Proof.Machine.execVori t d b imm m s
  | .vslli t d b sh m => Sys2Proof.Machine.execVslli t d b sh m s
  | .vsrli t d b sh m => Sys2Proof.Machine.execVsrli t d b sh m s
  | .vsrai t d b sh m => Sys2Proof.Machine.execVsrai t d b sh m s
  | .vsplati t d imm m => Sys2Proof.Machine.execVsplati t d imm m s
  | .vli16 d imm => Sys2Proof.Machine.execVli16 d imm s
  | .vli32 d imm => Sys2Proof.Machine.execVli32 d imm s
  | .vli64 d imm => Sys2Proof.Machine.execVli64 d imm s
  | .vxlr t d b c m => Sys2Proof.Machine.execVxlr t d b c m s
  | .vperm t d b c e m => Sys2Proof.Machine.execVperm t d b c e m s
  | .vcompr t d b m => Sys2Proof.Machine.execVcompr t d b m s
  | .vexpnd t d b m => Sys2Proof.Machine.execVexpnd t d b m s
  | .vslup t d b c m => Sys2Proof.Machine.execVslup t d b c m s
  | .vsldn t d b c m => Sys2Proof.Machine.execVsldn t d b c m s
  | .vzip t d b c m => Sys2Proof.Machine.execVzip t d b c m s
  | .vunzip t d b c m => Sys2Proof.Machine.execVunzip t d b c m s
  | .vextr t d b c => Sys2Proof.Machine.execVextr t d b c s
  | .vins t d b c => Sys2Proof.Machine.execVins t d b c s
  | .vredAdd t d b m => Sys2Proof.Machine.execVredAdd t d b m s
  | .vredMin t d b m => Sys2Proof.Machine.execVredMin t d b m s
  | .vredMax t d b m => Sys2Proof.Machine.execVredMax t d b m s
  | .vredAnd t d b m => Sys2Proof.Machine.execVredAnd t d b m s
  | .vredOr t d b m => Sys2Proof.Machine.execVredOr t d b m s
  | .vscanAdd t d b m => Sys2Proof.Machine.execVscanAdd t d b m s
  | .vscanMin t d b m => Sys2Proof.Machine.execVscanMin t d b m s
  | .vscanMax t d b m => Sys2Proof.Machine.execVscanMax t d b m s
  | .vcvt td ts d b p m => Sys2Proof.Machine.execVcvt td ts d b p m s
  | .fcvt td ts d b => Sys2Proof.Machine.execFcvt td ts d b s
  | .vqnt bf t d b c m => Sys2Proof.Machine.execVqnt bf t d b c m s
  | .vdqnt bf t d b c m => Sys2Proof.Machine.execVdqnt bf t d b c m s
  | .vrsc bf d b c e m => Sys2Proof.Machine.execVrsc bf d b c e m s
  | .vemax bf t d b m => Sys2Proof.Machine.execVemax bf t d b m s
  | .vpack td ts d b c m => Sys2Proof.Machine.execVpack td ts d b c m s
  | .vunpk td ts d b p m => Sys2Proof.Machine.execVunpk td ts d b p m s
  | .vphcv t d b c m => Sys2Proof.Machine.execVphcv t d b c m s
  | .frsqa t d b m => Sys2Proof.Machine.execFrsqa t d b m s
  | .frcpa t d b m => Sys2Proof.Machine.execFrcpa t d b m s
  | .ldS8 d b off => Sys2Proof.Machine.execLdS8 d b off s
  | .ldN8 d b off => Sys2Proof.Machine.execLdN8 d b off s
  | .ldS16 d b off => Sys2Proof.Machine.execLdS16 d b off s
  | .ldN16 d b off => Sys2Proof.Machine.execLdN16 d b off s
  | .ldS32 d b off => Sys2Proof.Machine.execLdS32 d b off s
  | .ldN32 d b off => Sys2Proof.Machine.execLdN32 d b off s
  | .ld64 d b off => Sys2Proof.Machine.execLd64 d b off s
  | .ldFe d b off => Sys2Proof.Machine.execLdFe d b off s
  | .ldFc d b off => Sys2Proof.Machine.execLdFc d b off s
  | .st8 a b off => Sys2Proof.Machine.execSt8 a b off s
  | .st16 a b off => Sys2Proof.Machine.execSt16 a b off s
  | .st32 a b off => Sys2Proof.Machine.execSt32 a b off s
  | .st64 a b off => Sys2Proof.Machine.execSt64 a b off s
  | .stEf a b off => Sys2Proof.Machine.execStEf a b off s
  | .stF a b off => Sys2Proof.Machine.execStF a b off s
  | .ldp d w off => Sys2Proof.Machine.execLdp d w off s
  | .vld t d b off m => Sys2Proof.Machine.execVld t d b off m s
  | .vst t a b off m => Sys2Proof.Machine.execVst t a b off m s
  | .vlds t d b c off m => Sys2Proof.Machine.execVlds t d b c off m s
  | .vsts t a b c off m => Sys2Proof.Machine.execVsts t a b c off m s
  | .vldg t d b c off m => Sys2Proof.Machine.execVldg t d b c off m s
  | .vstg t a b c off m => Sys2Proof.Machine.execVstg t a b c off m s
  | .prefL1 b off => Sys2Proof.Machine.execPrefL1 b off s
  | .prefSl b off => Sys2Proof.Machine.execPrefSl b off s
  | .cclean b off => Sys2Proof.Machine.execCclean b off s
  | .cflush b off => Sys2Proof.Machine.execCflush b off s
  | .iflush b off => Sys2Proof.Machine.execIflush b off s
  | .ldxS8 d b c => Sys2Proof.Machine.execLdxS8 d b c s
  | .ldxN8 d b c => Sys2Proof.Machine.execLdxN8 d b c s
  | .ldxS16 d b c => Sys2Proof.Machine.execLdxS16 d b c s
  | .ldxN16 d b c => Sys2Proof.Machine.execLdxN16 d b c s
  | .ldxS32 d b c => Sys2Proof.Machine.execLdxS32 d b c s
  | .ldxN32 d b c => Sys2Proof.Machine.execLdxN32 d b c s
  | .ldx64 d b c => Sys2Proof.Machine.execLdx64 d b c s
  | .stx8 a b c => Sys2Proof.Machine.execStx8 a b c s
  | .stx16 a b c => Sys2Proof.Machine.execStx16 a b c s
  | .stx32 a b c => Sys2Proof.Machine.execStx32 a b c s
  | .stx64 a b c => Sys2Proof.Machine.execStx64 a b c s
  | .amoAdd o sc w d b c => Sys2Proof.Machine.execAmoAdd o sc w d b c s
  | .amoAnd o sc w d b c => Sys2Proof.Machine.execAmoAnd o sc w d b c s
  | .amoOr o sc w d b c => Sys2Proof.Machine.execAmoOr o sc w d b c s
  | .amoXor o sc w d b c => Sys2Proof.Machine.execAmoXor o sc w d b c s
  | .amoMin o sc w d b c => Sys2Proof.Machine.execAmoMin o sc w d b c s
  | .amoMax o sc w d b c => Sys2Proof.Machine.execAmoMax o sc w d b c s
  | .amoMinn o sc w d b c => Sys2Proof.Machine.execAmoMinn o sc w d b c s
  | .amoMaxn o sc w d b c => Sys2Proof.Machine.execAmoMaxn o sc w d b c s
  | .amoSwap o sc w d b c => Sys2Proof.Machine.execAmoSwap o sc w d b c s
  | .amoCas o sc w d b c e => Sys2Proof.Machine.execAmoCas o sc w d b c e s
  | .redAdd o sc w a b => Sys2Proof.Machine.execRedAdd o sc w a b s
  | .redAnd o sc w a b => Sys2Proof.Machine.execRedAnd o sc w a b s
  | .redOr o sc w a b => Sys2Proof.Machine.execRedOr o sc w a b s
  | .redXor o sc w a b => Sys2Proof.Machine.execRedXor o sc w a b s
  | .redMin o sc w a b => Sys2Proof.Machine.execRedMin o sc w a b s
  | .redMax o sc w a b => Sys2Proof.Machine.execRedMax o sc w a b s
  | .redMinn o sc w a b => Sys2Proof.Machine.execRedMinn o sc w a b s
  | .redMaxn o sc w a b => Sys2Proof.Machine.execRedMaxn o sc w a b s
  | .cadd t a b => Sys2Proof.Machine.execCadd t a b s
  | .caddv t a b c m => Sys2Proof.Machine.execCaddv t a b c m s
  | .cld t d b => Sys2Proof.Machine.execCld t d b s
  | .cclr b => Sys2Proof.Machine.execCclr b s
  | .cstat d b => Sys2Proof.Machine.execCstat d b s
  | .cldx d b => Sys2Proof.Machine.execCldx d b s
  | .fenceAcq sc => Sys2Proof.Machine.execFenceAcq sc s
  | .fenceRel sc => Sys2Proof.Machine.execFenceRel sc s
  | .fenceAr sc => Sys2Proof.Machine.execFenceAr sc s
  | .fenceSc sc => Sys2Proof.Machine.execFenceSc sc s
  | .fflag sc a b => Sys2Proof.Machine.execFflag sc a b s
  | .arv ch d => Sys2Proof.Machine.execArv ch d s
  | .arvRlx ch d => Sys2Proof.Machine.execArvRlx ch d s
  | .arvd ch d => Sys2Proof.Machine.execArvd ch d s
  | .bwt ch a => Sys2Proof.Machine.execBwt ch a s
  | .btest ch d => Sys2Proof.Machine.execBtest ch d s
  | .waitv ne sc w d b c e => Sys2Proof.Machine.execWaitv ne sc w d b c e s
  | .ntf1 sc d b => Sys2Proof.Machine.execNtf1 sc d b s
  | .ntfa sc d b => Sys2Proof.Machine.execNtfa sc d b s
  | .send sc q d b c => Sys2Proof.Machine.execSend sc q d b c s
  | .recv sc q d xm => Sys2Proof.Machine.execRecv sc q d xm s
  | .recvt sc q d xm => Sys2Proof.Machine.execRecvt sc q d xm s
  | .spawn d b c => Sys2Proof.Machine.execSpawn d b c s
  | .sync d b => Sys2Proof.Machine.execSync d b s
  | .take d => Sys2Proof.Machine.execTake d s
  | .steal d b => Sys2Proof.Machine.execSteal d b s
  | .tdone d => Sys2Proof.Machine.execTdone d s
  | .slice d b c => Sys2Proof.Machine.execSlice d b c s
  | .joina d b c => Sys2Proof.Machine.execJoina d b c s
  | .dqlen d => Sys2Proof.Machine.execDqlen d s
  | .cpy sc d b c e => Sys2Proof.Machine.execCpy sc d b c e s
  | .cpyt sc d b c e => Sys2Proof.Machine.execCpyt sc d b c e s
  | .gath sc d b c e => Sys2Proof.Machine.execGath sc d b c e s
  | .scat sc d b c e => Sys2Proof.Machine.execScat sc d b c e s
  | .mcst list sc d b c e => Sys2Proof.Machine.execMcst list sc d b c e s
  | .rdct op sc d b c e => Sys2Proof.Machine.execRdct op sc d b c e s
  | .hdsub sc d b c e => Sys2Proof.Machine.execHdsub sc d b c e s
  | .hdend d b => Sys2Proof.Machine.execHdend d b s
  | .tlret sc d b c => Sys2Proof.Machine.execTlret sc d b c s
  | .await d b => Sys2Proof.Machine.execAwait d b s
  | .phld d b => Sys2Proof.Machine.execPhld d b s
  | .phsw d => Sys2Proof.Machine.execPhsw d s
  | .phwr bf d b c => Sys2Proof.Machine.execPhwr bf d b c s
  | .omx pol ofm d b c e => Sys2Proof.Machine.execOmx pol ofm d b c e s
  | .omxa pol ofm d b c e => Sys2Proof.Machine.execOmxa pol ofm d b c e s
  | .omxw pol ofm d b c e => Sys2Proof.Machine.execOmxw pol ofm d b c e s
  | .prbe d => Sys2Proof.Machine.execPrbe d s
  | .phcrc shadow d => Sys2Proof.Machine.execPhcrc shadow d s
  | .launch d b => Sys2Proof.Machine.execLaunch d b s
  | .start n d b => Sys2Proof.Machine.execStart n d b s
  | .reap n d => Sys2Proof.Machine.execReap n d s
  | .migr d b => Sys2Proof.Machine.execMigr d b s
  | .trap n => Sys2Proof.Machine.execTrap n s
  | .eret => Sys2Proof.Machine.execEret s
  | .ctxsv n d b => Sys2Proof.Machine.execCtxsv n d b s
  | .ctxld n d b => Sys2Proof.Machine.execCtxld n d b s
  | .prmt d b => Sys2Proof.Machine.execPrmt d b s
  | .rsme d b => Sys2Proof.Machine.execRsme d b s
  | .errinj d b => Sys2Proof.Machine.execErrinj d b s
  | .mfs d num => Sys2Proof.Machine.execMfs d num s
  | .mts a num => Sys2Proof.Machine.execMts a num s
  | .mtsFctx a => Sys2Proof.Machine.execMtsFctx a s
  | .mtsEbcmin a => Sys2Proof.Machine.execMtsEbcmin a s
  | .mtsScptr a => Sys2Proof.Machine.execMtsScptr a s
  | .mtsFstat a => Sys2Proof.Machine.execMtsFstat a s
  | .mtsPriv a => Sys2Proof.Machine.execMtsPriv a s
  | .mtsEpc a => Sys2Proof.Machine.execMtsEpc a s
  | .mtsTvec a => Sys2Proof.Machine.execMtsTvec a s
  | .mtsAsid a => Sys2Proof.Machine.execMtsAsid a s
  | .mtsDqbase a => Sys2Proof.Machine.execMtsDqbase a s
  | .mtsDqtop a => Sys2Proof.Machine.execMtsDqtop a s
  | .mtsDqbot a => Sys2Proof.Machine.execMtsDqbot a s
  | .mtsDqspill a => Sys2Proof.Machine.execMtsDqspill a s
  | .mtsSgmask n a => Sys2Proof.Machine.execMtsSgmask n a s

end Sys2Proof.Machine
end

