-- ==== Sys2Proof/Machine/Issue.lean ====
section
/-! DEFINITION. What a step runs: a head with the errors of its operands, a pair, the slot of the next issuer, the end of a cycle, and
which of the pending events may come next. -/
namespace Sys2Proof.Machine
noncomputable section

/-- Execute a head alone, with the errors of its operands (R93, R469, R471): a corrected one makes it issue again, an uncorrectable
one poisons its register first. -/
def runHead (s : State) (i : Instr) : Out :=
  let rs := regsRead s.me i
  match s.badTarget i with
  | some t => .next t
  | none =>
    let go (s : State) : Out :=
      match exec i s with
      | .next s1 => .next (s.settle rs (sysReads s.me i) s1)
      | .fault r => .fault r
      | .refused r => .refused r
    match armedReg s.me rs (sysReads s.me i) with
    | some a => if a.unc then go (s.meetArmed a) else .next (s.meetArmed a)
    | none => go s

/-- Execute a pair: both take effect or neither does (R88, R89). A first head that waits at a port has an effect there later, so
what makes the second one trap comes before. -/
def runPair (s : State) (i j : Instr) : Out :=
  let rs := regsRead s.me i ++ regsRead s.second.me j
  let ys := sysReads s.me i ++ sysReads s.me j
  match s.badTarget i with
  | some t => .next t
  | none =>
    let go (s : State) : Out :=
      match exec i s with
      | .fault r => .fault r
      | .refused r => .refused r
      | .next s1 =>
        if s1.mark = Mark.trapped then .next (s.settle rs ys s1)
        else
          match exec j s.second with
          | .fault r => .fault r
          | .refused r => .refused r
          | .next s2 =>
            if s1.mark = Mark.done then .next (s.settle rs ys (if s2.mark = Mark.trapped then s2 else mergePair s s1 s2))
            else .next (s.settle rs ys (if s2.mark = Mark.trapped && inWait s1.me.why then s2 else s1))
    match armedReg s.me rs ys with
    | some a => if a.unc then go (s.meetArmed a) else .next (s.meetArmed a)
    | none => go s

/-- The cycle ends: stores whose last cycle it is are performed (R283), the health units do what is due in it (R476 to R479), and the
cores of the next one issue in an order that is free (R382). -/
def State.endCycle (s : State) : State :=
  let r := s.performDue.vote.freeNat Config.nCores
  { r.2 with cycle := s.cycle + 1, turn := 0, first := r.1, rdySeen := s.rdy, rdyNew := Vector.replicate 32 0 }

/-- What comes next in this cycle: a context leaves the rotation; or the slot of the next issuer; with none left the cycle
ends. -/
def issue (s : State) : Out :=
  match s.leaver with
  | some c => .next (s.leave c)
  | none =>
    match s.nextIssuer with
    | none => .next s.endCycle
    | some c =>
      match s.prepare c with
      | .stop s => .next s
      | .go s i => runHead s i
      | .pair s i j => runPair s i j

/-! ## Pending events -/

/-- An event that the ingress of a core held while the core moved waits for those that arrived there before it (R488). -/
def State.heldBack (s : State) (e : Instr) : Bool :=
  s.cores.any fun p =>
    let l := p.2.ingress.filter s.agenda.contains
    l.contains e && l.head? != some e
/-- The column of the context whose form an event carries is fenced already: its flits are dropped (R479). -/
def State.dropped (s : State) (e : Instr) : Bool := ((actorOf e).map fun c => s.cutOff (coreOf c)).getD false
/-- The positions of the pending events that may come next. -/
def State.readyNow (s : State) : List Nat :=
  (readyEvents s.agenda).filter fun i => (s.agenda[i]?.map fun e => !s.heldBack e && !s.dropped e).getD false
/-- The state in which the pending event at a position happens. -/
def State.takeEvent (s : State) (i : Nat) : State :=
  let out (k : Core) : Core := { k with ingress := match s.agenda[i]? with | some e => k.ingress.erase e | none => k.ingress }
  { s with agenda := s.agenda.eraseIdx i, cores := s.cores.map fun p => (p.1, out p.2) }

end
end Sys2Proof.Machine
end

