-- ==== Sys2Proof/Machine/Step.lean ====
section
/-! DEFINITION. One step of the module: the next head, or pair, of the barrel rule, or one event of the agenda; and the
state in which a given instruction is the next to issue. -/
namespace Sys2Proof.Machine
noncomputable section

/-- One step. While no event is pending, a head issues. Otherwise a free choice takes one of the events that may come next, or
the issue (log entry 10). -/
def step (s : State) : Host.Outcome State Fault Refusal :=
  match s.agenda with
  | [] => issue s
  | e :: l =>
    let ks := s.readyNow
    let k := Config.choice s.free % (ks.length + 1)
    let t := { s with free := s.free + 1 }
    if k = 0 then issue t
    else
      let j := ks.getD (k - 1) 0
      exec ((e :: l).getD j e) (t.takeEvent j)

/-! ## Placing one instruction -/

/-- The code line whose head 1 has these parcels (R73). -/
def lineFor (ps : List Parcel) : Line :=
  let at_ (k : Nat) (p : Parcel) : Nat := p.toNat * 2 ^ (16 * k)
  BitVec.ofNat 512 (1 + at_ 1 (ps.getD 0 0) + at_ 31 (ps.getD 1 0) + at_ 30 (ps.getD 2 0) + at_ 29 (ps.getD 3 0))
/-- The VA of the line that withFetchWord places. -/
def placeVa : Nat := 0x1000
/-- The address space that a fetch of context 0 of core 0 needs (R409): where its ASID has none that the field may use, an entry for
partition 0, which then holds field 0. -/
def State.withSpace (s : State) : State :=
  let asid := (s.ctx 0).asid.toNat
  if s.asidOk asid 0 then s
  else
    { s.putByte (asidTable + 16 * asid) 1 with parts := s.parts.set 0 (s.parts[0] ||| BitVec.ofNat 256 (2 ^ 32 + 1)) }
/-- s with one instruction standing where the next step fetches: context 0 of core 0 runs at head 1 of a line that its
core's L1 instruction cache holds, in a cycle that is its home slot, with an address space to fetch in, and nothing is pending. -/
def State.withFetchWord (s : State) (nbits w : Nat) : State :=
  let s := s.withSpace
  let ps := tableParcels nbits w
  let ps := ps.take ((headT (ps.getD 0 0)).toNat + 1)
  let x := s.ctx 0
  let x := { x with pc := BitVec.ofNat 64 (placeVa + 2), run := .running, why := none, lastIssue := none, eligFrom := 0,
                    line := none, intv := true, entry := none, asyncs := [], armed := none, latent := [], reaping := false,
                    taken := false, held := false, sent := false, late := none, undo := none, got := none, bad := 0, badSys := [] }
  let k := s.core 0
  let k := { k with l1i := [⟨x.asid.toNat, placeVa, lineFor ps, true, true, true, true, false⟩], stalled := false, stop := 0, pending := [], badSys := [] }
  { (s.setCtx 0 x).setCore 0 k with
    agenda := [], turn := 0, first := 0, cycle := s.cycle + (16 - s.cycle % 16) % 16 }

end
end Sys2Proof.Machine
end

