-- ==== Sys2Proof/Safety.lean ====
section
/-! DEFINITION. What claims about the machine are stated in: the states that completing heads leave, what is left alone,
the canonical form of the state's sorted lists, and what a sound run is. -/
namespace Sys2Proof.Machine
noncomputable section

/-! ## The states that heads leave -/

/-- The address at which control continues in sequence is well formed, or the head is the second of a pair, after which control
passes as the first one says: the executing head can step on (R83, R84, R88). -/
abbrev State.flows (s : State) : Prop := s.stepsOn = true
/-- The executing head is done and control has stepped on in sequence; t is the state that holds the head's effect (R83). -/
def State.stepped (s t : State) : State := { t.mapMe (·.stepTo s.nextPc) with mark := .done }
/-- The executing head is done and control has passed to a code address (R84, R86). -/
def State.jumped (t : State) (a : Nat) : State := { t.mapMe (·.goto a) with mark := .done }
/-- Stepped on, with one x register written. -/
def State.wroteX (s : State) (d : XR) (v : Word) : State := s.stepped (s.putX d v)
/-- Stepped on, with one v register written. -/
def State.wroteV (s : State) (d : VR) (v : VWord) : State := s.stepped (s.putV d v)
/-- Stepped on, with one k register written. -/
def State.wroteK (s : State) (d : KR) (v : KWord) : State := s.stepped (s.putK d v)
/-- Stepped on, with the executing context out of the rotation until a cycle (R139). -/
def State.steppedFor (s t : State) (l : Nat) : State := s.stepped (t.mapMe fun c => { c with eligFrom := s.cycle + l })
/-- Stepped on as a long op: out of the rotation until its reply, which is pending (R91). -/
def State.steppedLong (s t : State) : State :=
  s.stepped ((t.mapMe fun c => { c with why := some .longOp }).post (.longOpReply s.cur))

/-! ## What is left alone -/

/-- Memory byte a, with the full bit and the poison of its word, is the same in both states. -/
def sameByte (s t : State) (a : Nat) : Prop :=
  t.byte a = s.byte a ∧ t.isFull (wordOf a) = s.isFull (wordOf a) ∧ t.isBad a = s.isBad a
/-- Every byte of memory, every full bit and all poison are left alone. -/
def KeepsMemory (s t : State) : Prop := ∀ a, sameByte s t a
/-- Every byte of memory outside the n bytes at a, and every word's full bit, is left alone. -/
def KeepsMemoryBut (s t : State) (a n : Nat) : Prop :=
  (∀ b, b < a ∨ a + n ≤ b → t.byte b = s.byte b) ∧ ∀ w, t.isFull w = s.isFull w
/-- Every context but the executing one is left alone. -/
def KeepsOthers (s t : State) : Prop := ∀ c, c ≠ s.cur → t.ctx c = s.ctx c
/-- Nothing of the module but contexts, the outcome of the head and the pending events is changed: neither memory nor a
core, a cluster, a unit or a table. -/
def KeepsModule (s t : State) : Prop := t = { s with ctxs := t.ctxs, mark := t.mark, agenda := t.agenda }
/-- Of context a, the system registers and everything that no register operand names are as before in b; x, v and k registers
with their poison, the flags, the pc with its code line, and the place in the rotation, with what the model keeps of a head that
waits or is read late, may differ. -/
def KeepsSystem (a b : Ctx) : Prop :=
  b = { a with x := b.x, v := b.v, k := b.k, bad := b.bad, fstat := b.fstat, pc := b.pc, line := b.line,
               eligFrom := b.eligFrom, why := b.why, held := b.held, sent := b.sent, recBad := b.recBad, late := b.late,
               fill := b.fill }
/-- x registers outside a list read as before. -/
def KeepsX (a b : Ctx) (ds : List XR) : Prop := ∀ n, n ∉ ds → b.getX n = a.getX n
/-- v registers outside a list read as before. -/
def KeepsV (a b : Ctx) (ds : List VR) : Prop := ∀ n, n ∉ ds → b.getV n = a.getV n
/-- k registers outside a list read as before. -/
def KeepsK (a b : Ctx) (ds : List KR) : Prop := ∀ n, n ∉ ds → b.getK n = a.getK n
/-- The registers of a group of g that starts at a register (R172); vz holds none. -/
def groupRegs (d : VR) (g : Nat) : List VR :=
  match d with
  | .vz => []
  | .v n => (List.range g).filterMap fun i => if h : n.val + i < 16 then some (.v ⟨n.val + i, h⟩) else none

/-! ## The response ring -/

/-- The response ring has room for an entry (R529). -/
def State.hasRoom (s : State) : Prop := s.rdN 0x100008 8 % 16383 ≠ (s.rdN 0x100000 8 % 16383 + 1) % 16383
/-- The next entry of s's response ring is, in t, the response to a command with a code, tag and status, the tail has stepped
over it, and no command is being served (R529). -/
def Responded (s t : State) (code tag status : Nat) : Prop :=
  let p := s.rdN 0x100000 8 % 16383
  t.rdN (0x100040 + 64 * p) 6 = code + tag * 2 ^ 16 + status * 2 ^ 32 ∧ t.rdN 0x100000 8 = (p + 1) % 16383 ∧ t.mgmt.busy = false

/-! ## The form of the state -/

/-- Every number lies at or above n, and they rise strictly. -/
def risingFrom (n : Nat) : List Nat → Bool
  | [] => true
  | a :: l => n ≤ a && risingFrom (a + 1) l
/-- The canonical form: memory lists strictly rising addresses and no unlisted value; the lists of empty and of poisoned
words, and of the cells that have been written, rise strictly. Two states of this form with the same bytes, full bits, poison and
written cells have equal lists. -/
abbrev State.form (s : State) : Prop :=
  Memory.wf s.mem = true ∧ risingFrom 0 s.empties = true ∧ risingFrom 0 s.poison = true ∧ risingFrom 0 s.cells = true

/-- A run is sound when no step ends in a fault or a refusal. -/
def State.sound : Nat → State → Prop
  | 0, _ => True
  | n + 1, s => ∃ t, step s = .next t ∧ t.sound n

end
end Sys2Proof.Machine
end

