-- ==== Sys2Proof/Certificates/Slice0/Obligations.lean ====
section
/-! DEFINITION. The obligations: what the numbered rules of the manual say of the model, each a proposition that is to be
proved. Where one has several parts, its docstring numbers them and each part stands under its name. -/
open Sys2Proof Sys2Proof.Machine
noncomputable section

/-! ## The encoding (R72 to R104) -/

/-- R73, R96, R97, R99, R100, R104 and the encodings worked out in the manual's chapters 04, 06, 07 and 14: these parcels decode
to these instructions. -/
def Obligations.WordsDecode : Prop :=
  decode [0x0000] = .ok .nop ∧ decode [0x4040, 0x0000] = .ok .halt ∧
  decode [0x9205, 0x1806, 0x0010] = .ok (.ld64 5 (.x 6) 16) ∧
  decode [0x8AA3, 0x8623, 0x008A] = .ok (.vfma .f32 (.v 3) (.v 1) (.v 2) 1) ∧
  decode [0x8446, 0x1800, 0x0020] = .ok (.addi 6 (.x 6) 32) ∧ decode [0x81C7, 0x0000, 0x0001] = .ok (.dbnz 7 1) ∧
  decode [0x8A25, 0x926D, 0x0001] = .ok (.vadds .s16 (.v 5) (.v 4) (.v 6) 0) ∧
  decode [0xCE24, 0x8052, 0x000A, 0x0000] = .ok (.vqnt .b8i .f32 (.v 4) (.v 0) (.x 5) 0)

/-- R73, R96, R97: nothing of an instruction is lost on the way through its parcels: for every instruction that has an encoding
and whose codes its form accepts, with every operand at every value, decoding its parcels gives the instruction. -/
def Obligations.DecodeEncode : Prop :=
  ∀ i : Instr, (encodeFields i).isSome = true → i.wf = true → decode (encode i) = .ok i

/-- R78, R80, R81: what the opcode map does not assign is refused. A head of an unassigned major, with a T that its major does
not allow, or with an unassigned minor is no instruction; whatever decodes is well formed, and its parcels are, but for the
pair bit, the ones its own encoding gives: every reserved bit is zero. -/
def Obligations.UnassignedIsRefused : Prop :=
  ∀ (ps : List Parcel) (i : Instr),
    (forms (headMajor (ps.getD 0 0)).toNat = none → decode ps = .illegal) ∧
    (∀ t l, forms (headMajor (ps.getD 0 0)).toNat = some (t, l) → (headT (ps.getD 0 0)).toNat ≠ t → decode ps = .illegal) ∧
    (∀ t l, forms (headMajor (ps.getD 0 0)).toNat = some (t, l) → (headT (ps.getD 0 0)).toNat = t → t ≠ 0 →
      l.length ≤ (tailMinor (ps.getD 1 0)).toNat → decode ps = .illegal) ∧
    (decode ps = .ok i → (encode i).length ≤ ps.length → i.wf = true ∧ (encodeFields i).isSome = true ∧ (encode i).tail = (ps.take (encode i).length).tail ∧
      (encode i).getD 0 0 = ps.getD 0 0 &&& 0xDFFF)

/-! ## The state and the step (R9, R39, R84 to R93, R375 to R379) -/

/-- R9, R66, R69, R70, R259, R407: what module reset leaves. No context is placed, every flag and trap register is zero, every
scratchpad word zero and full, no line is cached, no unit is ready, no partition exists, every governor is UNLOCKED, no image
is present. -/
def Obligations.ResetState : Prop :=
  ∀ (c n cl a w : Nat) (i : Fin 32),
    (State.reset.ctx c).run = .halted ∧ (State.reset.ctx c).fstat = 0 ∧ (State.reset.ctx c).epc = 0 ∧
    (State.reset.ctx c).ecause = 0 ∧ (State.reset.ctx c).eval = 0 ∧ (State.reset.ctx c).taskf = 0 ∧
    (State.reset.ctx c).priv.getLsbD 1 = false ∧ (State.reset.ctx c).buf = [] ∧
    (State.reset.core n).dqtop = 0 ∧ (State.reset.core n).dqbot = 0 ∧ (State.reset.core n).dqspill = 0 ∧
    (State.reset.core n).l1d = [] ∧ (State.reset.core n).l1i = [] ∧ (State.reset.core n).rq = [] ∧
    (State.reset.core n).launch = none ∧ (State.reset.omu cl).gov = 0 ∧ (State.reset.omu cl).live = none ∧
    (State.reset.omu cl).shadow = none ∧ State.reset.clusterUp cl = false ∧ State.reset.remapState n = 0 ∧
    State.reset.rdy[i] = 0 ∧ State.reset.parts[i] = 0 ∧ State.reset.byte (spadKey n a) = 0 ∧ State.reset.isFull w = true ∧
    State.reset.isBad a = false

/-- The canonical form of memory holds after reset. -/
def Obligations.ResetForm : Prop := State.reset.form

/-- The machine invariant: whatever a step does, an instruction of any family or an event of any unit, from any state of the
canonical form: memory still lists strictly rising addresses and no byte that an unlisted one reads as, and the sets of empty
and of poisoned words still rise strictly. -/
def Obligations.StepKeepsForm : Prop := ∀ s t : State, s.form → step s = .next t → t.form

/-- R41, R73, R84 to R86, R93: a step runs the decoded instruction. While no event is pending and no context is to leave the
rotation, the step is the next issuer's, unless a stop, an asynchronous trap or a trap for the miller comes before its head:
it executes the head at which its pc stands, in the line it has entered or that its L1 instruction cache holds, as exec does
in the state in which it has entered that line; then the errors of its operands are settled, of which there are none where no
register it reads is poisoned: then only the model's own note of what the head has replaced is new. A head whose target is
not well formed traps before anything else, and one that decodes to no instruction is the illegal-instruction event. -/
def Obligations.StepRunsTheHead : Prop :=
  ∀ (s t : State) (c : Nat) (d : Line) (i : Instr),
    let x := s.ctx c
    let va := lineAddr x.pc
    let k := s.core (coreOf c)
    let p := headParcels d (headIndex x.pc)
    let u : State := ({ s with cur := c, pairing := .single, mark := .done, turn := s.rank (coreOf c) + 1 } : State).mapMe fun x =>
      { x with why := none, line := some ⟨va, d⟩, entry := none, lastIssue := some s.cycle }
    let rs := regsRead u.me i
    let ys := sysReads u.me i
    s.agenda = [] → s.leaver = none → s.nextIssuer = some c → x.asyncs = [] → x.late = none → s.stops c = false →
    (ctxNo c ≠ 0 ∨ k.pending = [] ∨ x.intv = true) →
    (x.line = some ⟨va, d⟩ ∨
      x.line = none ∧ inWindow va = false ∧ (s.l1iAnswer (s.asker c) va).map (·.data) = some d) →
    lineLegal d = true → headIndex x.pc ≤ lineHeads d → headP (lineParcel d (headIndex x.pc)) = false →
    (decode p = .ok i ∨ decode p = .illegal ∧ i = .illegalInstruction false ∨ decode p = .reserved ∧ i = .illegalInstruction true) →
    (∀ v, u.badTarget i = some v → step s = .next v) ∧
    (u.badTarget i = none → armedReg u.me rs ys = none →
      (exec i u = .next t → step s = .next (u.settle rs ys t)) ∧
      (∀ r, exec i u = .fault r → step s = .fault r) ∧ (∀ r, exec i u = .refused r → step s = .refused r) ∧
      (firstBad u.me rs = none → u.sysBad ys = false → (ctxNo c ≠ 0 ∨ (t.core (coreOf c)).pending = []) → (t.ctx c).walkFail = none →
        (u.settle rs ys t).ctx c = { t.ctx c with undo := u.undoOf (t.ctx c) } ∧ KeepsMemory t (u.settle rs ys t) ∧ (u.settle rs ys t).agenda = t.agenda))

/-- (1) R375, R376, R377: the barrel. The home owner of a cycle issues in it if it is eligible; a slot it leaves is lent, unless
lending is suspended, to the context that has waited longest, ties to the smaller number, and only where its own home slot is
at least 8 cycles away; a context issues at least 8 cycles after its previous issue.
(2) R87, R88, R89, R377: the other steps. A pair executes both heads on what stood before the pair, and both take effect or,
where either traps, only the trap; a first head that waits has had no effect, and one that is on its way to a port gives way
to a trap of the second. With nobody left to issue the cycle ends, and with it the slots, and no store that is not due and no
context changes while no column is suspected and no window is judged; a context that leaves the rotation leaves it first.
While events are pending a choice that nothing constrains takes one of those that the manual lets come next, or the issue,
which is the model's own (log entry 10); the oldest event may come next but where its context has been fenced off or a moved
core's ingress holds an older one. -/
def Obligations.BarrelAndOtherSteps : Prop :=
  -- (1) Barrel
  (
  ∀ (s : State) (n t c : Nat),
    let home := 16 * n + t % 16
    ((s.core n).stalled = true → s.issuer n t = none) ∧
    ((s.core n).stalled = false → (s.ctx home).eligible t = true → s.issuer n t = some home) ∧
    (s.issuer n t = some c → coreOf c = n ∧ (s.ctx c).run = .running ∧ ((s.ctx c).why = none ∨ (s.ctx c).why = some .yield) ∧
      (s.ctx c).eligFrom ≤ t ∧
      (∀ l, (s.ctx c).lastIssue = some l → l + 8 ≤ t) ∧
      (c ≠ home → (s.ctx home).eligible t = false ∧ s.lends (clusterOf n) = true ∧ t + 8 ≤ nextHome (c % 16) t ∧
        ∀ j, coreOf j = n → j ≠ home → (s.ctx j).eligible t = true → t + 8 ≤ nextHome (j % 16) t →
          (s.ctx c).since < (s.ctx j).since ∨ (s.ctx c).since = (s.ctx j).since ∧ c ≤ j)) ∧
    t < nextHome (c % 16) t ∧ nextHome (c % 16) t % 16 = c % 16 ∧ nextHome (c % 16) t ≤ t + 16)
  -- (2) OtherSteps
  ∧ (
  ∀ (s s1 s2 : State) (c : Nat) (d : Line) (i j e : Instr) (l : List Instr),
    (s.agenda = [] → s.leaver = none → s.nextIssuer = none →
      ∃ t, step s = .next t ∧ t.cycle = s.cycle + 1 ∧ t.turn = 0 ∧ t.rdySeen = s.rdy ∧
        ((∀ p, p ∈ s.ctxs → p.2.due = none) → (∀ p, p ∈ s.cols → p.2.state ≠ 1) → s.cycle % 2000 ≠ 1000 → KeepsMemory s t ∧ t.ctxs = s.ctxs ∧ t.cores = s.cores)) ∧
    (s.agenda = [] → s.leaver = some c → step s = .next (s.leave c)) ∧
    (s.agenda = e :: l →
      let ks := s.readyNow
      let k := Config.choice s.free % (ks.length + 1)
      (s.heldBack e = false → s.dropped e = false → 0 ∈ ks) ∧ (∀ j, j ∈ ks → j < l.length + 1) ∧
      (k = 0 → step s = issue { s with free := s.free + 1 }) ∧
      (k ≠ 0 → step s = exec ((e :: l).getD (ks.getD (k - 1) 0) e)
        (({ s with free := s.free + 1 } : State).takeEvent (ks.getD (k - 1) 0)))) ∧
    (let x := s.ctx c
     let va := lineAddr x.pc
     let h := headIndex x.pc
     let u : State := ({ s with cur := c, pairing := .first, mark := .done, turn := s.rank (coreOf c) + 1 } : State).mapMe fun x =>
       { x with why := none, line := some ⟨va, d⟩, entry := none, lastIssue := some s.cycle }
     let rs := regsRead u.me i ++ regsRead u.second.me j
     let ys := sysReads u.me i ++ sysReads u.me j
     s.agenda = [] → s.leaver = none → s.nextIssuer = some c → x.asyncs = [] → x.late = none → s.stops c = false →
     (ctxNo c ≠ 0 ∨ (s.core (coreOf c)).pending = [] ∨ x.intv = true) →
     x.line = some ⟨va, d⟩ → lineLegal d = true → h ≤ lineHeads d →
     headP (lineParcel d h) = true → decode (headParcels d h) = .ok i → decode (headParcels d (h + 1)) = .ok j →
     u.badTarget i = none → armedReg u.me rs ys = none → exec i u = .next s1 →
       (s1.mark = .trapped → step s = .next (u.settle rs ys s1)) ∧
       (s1.mark = .done → exec j u.second = .next s2 →
         (s2.mark = .trapped → step s = .next (u.settle rs ys s2)) ∧
         (s2.mark ≠ .trapped → step s = .next (u.settle rs ys (mergePair u s1 s2)))) ∧
       (s1.mark = .parked → exec j u.second = .next s2 →
         step s = .next (u.settle rs ys (if s2.mark = Mark.trapped && inWait s1.me.why then s2 else s1)))))

/-- No instruction and no event of the manual ends a run: in every state each of them answers a next state, be it its own effect,
a trap or a wait, and so does every step. -/
def Obligations.NothingStops : Prop :=
  (∀ (i : Instr) (s : State), ∃ t, exec i s = .next t) ∧ ∀ (n : Nat) (s : State), s.sound n

/-- R57: a level rises only by a trap. A head that issues at the app level, and does not trap, leaves every context of the module
at the app level that was there. -/
def Obligations.LevelRisesByTrapsOnly : Prop :=
  ∀ (s t : State) (i : Instr) (c : Nat), (encodeFields i).isSome = true → s.me.sys = false → exec i s = .next t →
    t.mark ≠ .trapped → (s.ctx c).sys = false → (t.ctx c).sys = false

/-! ## Integer forms (R146 to R158) -/

/-- (1) R153: the register forms of major 0x10, shifts apart, complete with one x register written, from two sources that may
each be the pc, and no flag set.
(2) R154, R155, R158: the immediate forms, with the immediates that R101 sign-extends or zero-extends; LI, LIH and ADDPC.
(3) R143: the scalar shifts, by a register and by an immediate. A count of 64 or more gives 0, or for SRA the sign in every
bit; ROR takes its count modulo 64.
(4) R157: CLZ and CTZ give 64 on zero and else name the highest and the lowest set bit; POPC counts set bits; BREV puts bit
63 - j at bit j.
(5) R139, R156: multiplication completes at once; a division keeps its context out of the rotation for 40 cycles. The corners
are those of R156: a divisor of 0 gives all ones and the dividend, and the quotient that does not fit wraps. -/
def Obligations.IntegerForms : Prop :=
  -- (1) IntegerRegisterForms
  (
  ∀ (s : State) (d : XR) (b c : XS), s.flows →
    let x := s.me.getS b
    let y := s.me.getS c
    exec (.add d b c) s = .next (s.wroteX d (x + y)) ∧
    exec (.sub d b c) s = .next (s.wroteX d (x - y)) ∧
    exec (.and d b c) s = .next (s.wroteX d (x &&& y)) ∧
    exec (.or d b c) s = .next (s.wroteX d (x ||| y)) ∧
    exec (.xor d b c) s = .next (s.wroteX d (x ^^^ y)) ∧
    exec (.andn d b c) s = .next (s.wroteX d (x &&& ~~~y)) ∧
    exec (.slt d b c) s = .next (s.wroteX d (if x.toInt < y.toInt then 1 else 0)) ∧
    exec (.sltn d b c) s = .next (s.wroteX d (if x.toNat < y.toNat then 1 else 0)) ∧
    exec (.min d b c) s = .next (s.wroteX d (if x.toInt ≤ y.toInt then x else y)) ∧
    exec (.max d b c) s = .next (s.wroteX d (if x.toInt ≤ y.toInt then y else x)) ∧
    exec (.minn d b c) s = .next (s.wroteX d (if x.toNat ≤ y.toNat then x else y)) ∧
    exec (.maxn d b c) s = .next (s.wroteX d (if x.toNat ≤ y.toNat then y else x)))
  -- (2) IntegerImmediateForms
  ∧ (
  ∀ (s : State) (d : XR) (b : XS) (i : BitVec 16) (w : BitVec 32), s.flows →
    let x := s.me.getS b
    exec (.addi d b i) s = .next (s.wroteX d (x + i.signExtend 64)) ∧
    exec (.andi d b i) s = .next (s.wroteX d (x &&& i.setWidth 64)) ∧
    exec (.ori d b i) s = .next (s.wroteX d (x ||| i.setWidth 64)) ∧
    exec (.xori d b i) s = .next (s.wroteX d (x ^^^ i.setWidth 64)) ∧
    exec (.slti d b i) s = .next (s.wroteX d (if x.toInt < i.toInt then 1 else 0)) ∧
    exec (.sltni d b i) s = .next (s.wroteX d (if x.toNat < i.toNat then 1 else 0)) ∧
    exec (.li d w) s = .next (s.wroteX d (w.signExtend 64)) ∧
    exec (.lih d w) s = .next (s.wroteX d ((w.setWidth 64 <<< 32) ||| (s.me.getX d &&& 0xFFFFFFFF))) ∧
    exec (.addpc d w) s = .next (s.wroteX d ((s.me.pc &&& ~~~63) + w.signExtend 64 * 2)))
  -- (3) IntegerShifts
  ∧ (
  ∀ (s : State) (d : XR) (b c : XS) (k : BitVec 6), s.flows →
    let x := s.me.getS b
    let n := (s.me.getS c).toNat
    exec (.sll d b c) s = .next (s.wroteX d (x <<< n)) ∧
    exec (.srl d b c) s = .next (s.wroteX d (x >>> n)) ∧
    exec (.sra d b c) s = .next (s.wroteX d (x.sshiftRight n)) ∧
    exec (.ror d b c) s = .next (s.wroteX d (x >>> (n % 64) ||| x <<< (64 - n % 64))) ∧
    exec (.slli d b k) s = .next (s.wroteX d (x <<< k.toNat)) ∧
    exec (.srli d b k) s = .next (s.wroteX d (x >>> k.toNat)) ∧
    exec (.srai d b k) s = .next (s.wroteX d (x.sshiftRight k.toNat)))
  -- (4) BitCountForms
  ∧ (
  ∀ (s : State) (d : XR) (b : XS), s.flows →
    let x := s.me.getS b
    (∃ n : Nat, exec (.clz d b) s = .next (s.wroteX d (BitVec.ofNat 64 n)) ∧ n ≤ 64 ∧
      (∀ i, i < n → x.getLsbD (63 - i) = false) ∧ (n < 64 → x.getLsbD (63 - n) = true)) ∧
    (∃ n : Nat, exec (.ctz d b) s = .next (s.wroteX d (BitVec.ofNat 64 n)) ∧ n ≤ 64 ∧
      (∀ i, i < n → x.getLsbD i = false) ∧ (n < 64 → x.getLsbD n = true)) ∧
    exec (.popc d b) s = .next (s.wroteX d (BitVec.ofNat 64 ((List.range 64).filter x.getLsbD).length)) ∧
    (∃ r : Word, exec (.brev d b) s = .next (s.wroteX d r) ∧ ∀ j, j < 64 → r.getLsbD j = x.getLsbD (63 - j)))
  -- (5) MultiplyAndDivide
  ∧ (
  ∀ (s : State) (d : XR) (b c : XS), s.flows →
    let x := s.me.getS b
    let y := s.me.getS c
    exec (.mul d b c) s = .next (s.wroteX d (x * y)) ∧
    exec (.mulh d b c) s = .next (s.wroteX d ((x.signExtend 128 * y.signExtend 128).extractLsb' 64 64)) ∧
    exec (.mulhn d b c) s = .next (s.wroteX d ((x.setWidth 128 * y.setWidth 128).extractLsb' 64 64)) ∧
    exec (.div d b c) s = .next (s.steppedFor (s.putX d (if y = 0 then BitVec.allOnes 64 else x.sdiv y)) 40) ∧
    exec (.rem d b c) s = .next (s.steppedFor (s.putX d (if y = 0 then x else x.srem y)) 40) ∧
    exec (.divn d b c) s = .next (s.steppedFor (s.putX d (if y = 0 then BitVec.allOnes 64 else x.udiv y)) 40) ∧
    exec (.remn d b c) s = .next (s.steppedFor (s.putX d (if y = 0 then x else x.umod y)) 40))

/-- R146: NOP has no effect other than advancing the pc, and encodes as the parcel 0x0000. -/
def Obligations.NopOnlyAdvances : Prop :=
  (∀ s : State, s.flows → exec .nop s = .next (s.stepped s)) ∧
  (∀ s : State, s.flows → (s.stepped s).me.pc = BitVec.ofNat 64 s.nextPc ∧ (s.stepped s).me.x = s.me.x ∧
    (s.stepped s).me.v = s.me.v ∧ (s.stepped s).me.k = s.me.k ∧ (s.stepped s).me.fstat = s.me.fstat ∧
    (s.stepped s).mem = s.mem) ∧
  decode [0x0000#16] = .ok .nop

/-- (1) R84, R148, R149: J, JAL and JALR pass control to their target and leave the line; the link is next_pc; JALR reads its
target before the link is written. A target that is not well formed makes the head trap with no effect.
(2) R84, R150 to R152: a conditional branch passes control to its target where its condition holds and steps on where it does
not; DBNZ writes its register either way, and on x0 it is always taken. A taken branch whose target is not well formed traps
with no effect.
(3) R147, R283: HALT with a task in hand traps; else, once the store buffer is empty, the context is halted, its registers
keep their values and its pc is next_pc. YIELD keeps the context out of the rotation until its first home slot after cycle c
+ 16; the event that ends the yield leaves only that slot to wait for. BRK traps with EPC at next_pc and its own address in
EVAL. -/
def Obligations.JumpsAndBranches : Prop :=
  -- (1) Jumps
  (
  ∀ (s : State) (d : XR) (b : XS) (off : BitVec 32),
    let link : Word := BitVec.ofNat 64 s.nextPc
    let near : Nat := ((s.me.pc &&& ~~~63) + off.signExtend 64 * 2).toNat
    let far : Nat := (s.me.getS b).toNat
    (goodPc near = true →
      exec (.j off) s = .next (s.jumped near) ∧ exec (.jal d off) s = .next ((s.putX d link).jumped near)) ∧
    (goodPc near = false →
      exec (.j off) s = .next (s.trap 0x02 (BitVec.ofNat 64 near)) ∧
      exec (.jal d off) s = .next (s.trap 0x02 (BitVec.ofNat 64 near))) ∧
    (goodPc far = true → exec (.jalr d b) s = .next ((s.putX d link).jumped far)) ∧
    (goodPc far = false → exec (.jalr d b) s = .next (s.trap 0x02 (s.me.getS b))))
  -- (2) Branches
  ∧ (
  ∀ (s : State) (a b : XS) (n : XR) (ka kb : KR) (off : BitVec 16) (i : Instr) (taken : Bool) (t : State),
    let x := s.me.getS a
    let y := s.me.getS b
    let p := s.me.getK ka
    let q := s.me.getK kb
    let target : Nat := ((s.me.pc &&& ~~~63) + off.signExtend 64 * 2).toNat
    (i, taken, t) ∈ [(.beq a b off, x == y, s), (.bne a b off, x != y, s),
      (.blt a b off, decide (x.toInt < y.toInt), s), (.bge a b off, decide (y.toInt ≤ x.toInt), s),
      (.bltn a b off, decide (x.toNat < y.toNat), s), (.bgen a b off, decide (y.toNat ≤ x.toNat), s),
      (.bkany ka kb off, p &&& q != 0, s), (.bkall ka kb off, p &&& q == q, s),
      (.bknone ka kb off, p &&& q == 0, s),
      (.dbnz n off, s.me.getX n != 1, s.putX n (s.me.getX n - 1))] →
    (taken = true → goodPc target = true → exec i s = .next (t.jumped target)) ∧
    (taken = true → goodPc target = false → exec i s = .next (s.trap 0x02 (BitVec.ofNat 64 target))) ∧
    (taken = false → s.flows → exec i s = .next (s.stepped t)))
  -- (3) HaltYieldBreak
  ∧ (
  ∀ s : State,
    (s.me.taskf ≠ 0 → exec .halt s = .next (s.trap 0x08 s.me.taskf)) ∧
    (s.me.taskf = 0 → s.me.buf = [] → s.flows → ∃ t, exec .halt s = .next t ∧ t.me.run = .halted ∧
      t.me.pc = BitVec.ofNat 64 s.nextPc ∧ t.me.x = s.me.x ∧ t.me.v = s.me.v ∧ t.me.k = s.me.k ∧ t.mem = s.mem) ∧
    (s.flows → ∃ t, exec .yield s = .next t ∧ t.me.pc = BitVec.ofNat 64 s.nextPc ∧ t.me.why = some .yield ∧
      t.me.eligFrom % 16 = ctxNo s.cur ∧ s.cycle + 16 < t.me.eligFrom ∧ t.me.eligFrom ≤ s.cycle + 32 ∧
      Instr.yieldRejoin s.cur ∈ t.agenda ∧ t.me.x = s.me.x ∧ t.mem = s.mem) ∧
    (∀ c, (s.ctx c).why = some .yield →
      exec (.yieldRejoin c) s = .next (s.setCtx c { s.ctx c with why := none })) ∧
    exec .brk s = .next (s.trapTo 0x06 s.headPc (BitVec.ofNat 64 (s.nextPc % 2 ^ 56))))

/-- (1) R39, R83, R141, R153 to R158: what an integer form that completes leaves alone. Only the destination among the x
registers changes, and x0 not even then; no flag, no v or k register, no system register, no other context, nothing of the
module and no byte of memory changes; the pc steps on.
(2) R83, R150 to R152: what a jump or branch that completes leaves alone: every x register but the link or the counter, every
other register and flag, the system registers, the other contexts, the module and memory.
(3) R142, R145, R176: what the vector, mask and conversion forms leave alone: every register but the destination, x0, vz and
k0 as ever, the system registers, the other contexts, the module and every byte of memory. -/
def Obligations.RegisterFormsFrame : Prop :=
  -- (1) IntegerFrame
  (
  ∀ (s t : State) (d : XR) (b c : XS) (k : BitVec 6) (i : BitVec 16) (w : BitVec 32) (h : Instr), s.flows →
    h ∈ [.add d b c, .sub d b c, .and d b c, .or d b c, .xor d b c, .andn d b c, .sll d b c, .srl d b c, .sra d b c,
      .ror d b c, .slt d b c, .sltn d b c, .min d b c, .max d b c, .minn d b c, .maxn d b c, .addi d b i, .andi d b i,
      .ori d b i, .xori d b i, .slli d b k, .srli d b k, .srai d b k, .slti d b i, .sltni d b i, .li d w, .lih d w,
      .mul d b c, .mulh d b c, .mulhn d b c, .div d b c, .divn d b c, .rem d b c, .remn d b c, .clz d b, .ctz d b,
      .popc d b, .brev d b, .addpc d w] →
    exec h s = .next t →
    KeepsMemory s t ∧ KeepsModule s t ∧ t.agenda = s.agenda ∧ KeepsOthers s t ∧ KeepsSystem s.me t.me ∧
    KeepsX s.me t.me [d] ∧ t.me.getX 0 = 0 ∧ KeepsV s.me t.me [] ∧ KeepsK s.me t.me [] ∧ t.me.fstat = s.me.fstat ∧
    t.me.pc = BitVec.ofNat 64 s.nextPc)
  -- (2) ControlFrame
  ∧ (
  ∀ (s t : State) (d : XR) (a b : XS) (ka kb : KR) (off : BitVec 16) (far : BitVec 32) (i : Instr) (ds : List XR),
    (i, ds) ∈ [(.nop, []), (.j far, []), (.jal d far, [d]), (.jalr d b, [d]), (.beq a b off, []), (.bne a b off, []), (.blt a b off, []),
      (.bge a b off, []), (.bltn a b off, []), (.bgen a b off, []), (.bkany ka kb off, []), (.bkall ka kb off, []),
      (.bknone ka kb off, []), (.dbnz d off, [d])] →
    exec i s = .next t → t.mark = .done →
    KeepsMemory s t ∧ KeepsModule s t ∧ t.agenda = s.agenda ∧ KeepsOthers s t ∧ KeepsSystem s.me t.me ∧
    KeepsX s.me t.me ds ∧ KeepsV s.me t.me [] ∧ KeepsK s.me t.me [] ∧ t.me.fstat = s.me.fstat)
  -- (3) VectorFrame
  ∧ (
  ∀ (s u : State) (t ts : ElemT) (x : XR) (y z : XS) (d b c j : VR) (kd kb kc m : KR) (k p : BitVec 6) (n : BitVec 16)
      (l : BitVec 32) (h : Bool) (bf : BlkF) (i : Instr) (xs : List XR) (vs : List VR) (ks : List KR),
    (i, xs, vs, ks) ∈ [((.vadd t d b c m : Instr), ([] : List XR), ([d] : List VR), ([] : List KR)), (.vsub t d b c m, [], [d], []), (.vmul t d b c m, [], [d], []),
      (.vmulh t d b c m, [], [d], []), (.vand t d b c m, [], [d], []), (.vor t d b c m, [], [d], []),
      (.vxor t d b c m, [], [d], []), (.vandn t d b c m, [], [d], []), (.vsll t d b c m, [], [d], []),
      (.vsrl t d b c m, [], [d], []), (.vsra t d b c m, [], [d], []), (.vmin t d b c m, [], [d], []),
      (.vmax t d b c m, [], [d], []), (.vadds t d b c m, [], [d], []), (.vsubs t d b c m, [], [d], []),
      (.vabs t d b m, [], [d], []), (.vneg t d b m, [], [d], []), (.vsel t d b c m, [], [d], []),
      (.vsplat t d y m, [], [d], []), (.vsplati t d n m, [], [d], []), (.vaddi t d b n m, [], [d], []),
      (.vandi t d b n m, [], [d], []), (.vori t d b n m, [], [d], []), (.vslli t d b k m, [], [d], []),
      (.vsrli t d b k m, [], [d], []), (.vsrai t d b k m, [], [d], []), (.vli16 d n, [], [d], []),
      (.vli32 d l, [], [d], []), (.vli64 d l, [], [d], []), (.vcmpeq t kd b c m, [], [], [kd]),
      (.vcmplt t kd b c m, [], [], [kd]), (.vcmple t kd b c m, [], [], [kd]), (.vfcmpeq t kd b c m, [], [], [kd]),
      (.vfcmplt t kd b c m, [], [], [kd]), (.vfcmple t kd b c m, [], [], [kd]), (.kand kd kb kc, [], [], [kd]),
      (.kor kd kb kc, [], [], [kd]), (.kxor kd kb kc, [], [], [kd]), (.kandn kd kb kc, [], [], [kd]),
      (.knot kd kb, [], [], [kd]), (.kmovx kd y, [], [], [kd]), (.ktox x kb, [x], [], []), (.kpopc x kb, [x], [], []),
      (.kfirst x kb, [x], [], []), (.vfadd t d b c m, [], [d], []), (.vfsub t d b c m, [], [d], []),
      (.vfmul t d b c m, [], [d], []), (.vfma t d b c m, [], [d], []), (.vfms t d b c m, [], [d], []),
      (.vfnma t d b c m, [], [d], []), (.vfdiv t d b c m, [], [d], []), (.vfsqrt t d b m, [], [d], []),
      (.vfmin t d b c m, [], [d], []), (.vfmax t d b c m, [], [d], []), (.vfabs t d b m, [], [d], []),
      (.vfneg t d b m, [], [d], []), (.frsqa t d b m, [], [d], []), (.frcpa t d b m, [], [d], []),
      (.vxlr t d b c m, [], [d], []), (.vperm t d b c j m, [], [d], []), (.vcompr t d b m, [], [d], []),
      (.vexpnd t d b m, [], [d], []), (.vslup t d b z m, [], [d], []), (.vsldn t d b z m, [], [d], []),
      (.vzip t d b c m, [], [d], []), (.vunzip t d b c m, [], [d], []), (.vextr t x b z, [x], [], []),
      (.vins t d y z, [], [d], []), (.vredAdd t x b m, [x], [], []), (.vredMin t x b m, [x], [], []),
      (.vredMax t x b m, [x], [], []), (.vredAnd t x b m, [x], [], []), (.vredOr t x b m, [x], [], []),
      (.vscanAdd t d b m, [], [d], []), (.vscanMin t d b m, [], [d], []), (.vscanMax t d b m, [], [d], []),
      (.vcvt t ts d b p m, [], [d], []), (.fcvt t ts x y, [x], [], []), (.vqnt bf t d b z m, [], [d], []),
      (.vrsc bf d b y z m, [], [d], []), (.vdqnt bf t d b z m, [], groupRegs d (t.width / 8), []),
      (.vphcv t d b z m, [], groupRegs d (t.width / 16), []), (.vemax bf t x b m, [x], [], []), (.vpack t ts d b c m, [], [d], []),
      (.vunpk t ts d b h m, [], [d], []), (.faddF32 x y z, [x], [], []), (.fsubF32 x y z, [x], [], []), (.fmulF32 x y z, [x], [], []),
      (.fdivF32 x y z, [x], [], []), (.fsqrtF32 x y, [x], [], []), (.ffmaF32 x y z, [x], [], []), (.fminF32 x y z, [x], [], []),
      (.fmaxF32 x y z, [x], [], []), (.feqF32 x y z, [x], [], []), (.fltF32 x y z, [x], [], []), (.fleF32 x y z, [x], [], []),
      (.faddF64 x y z, [x], [], []), (.fsubF64 x y z, [x], [], []), (.fmulF64 x y z, [x], [], []),
      (.fdivF64 x y z, [x], [], []), (.fsqrtF64 x y, [x], [], []), (.ffmaF64 x y z, [x], [], []), (.fminF64 x y z, [x], [], []),
      (.fmaxF64 x y z, [x], [], []), (.feqF64 x y z, [x], [], []), (.fltF64 x y z, [x], [], []), (.fleF64 x y z, [x], [], [])] →
    exec i s = .next u → u.mark = .done →
    KeepsMemory s u ∧ KeepsModule s u ∧ u.agenda = s.agenda ∧ KeepsOthers s u ∧ KeepsSystem s.me u.me ∧
    KeepsX s.me u.me xs ∧ KeepsV s.me u.me vs ∧ KeepsK s.me u.me ks ∧ u.me.pc = BitVec.ofNat 64 s.nextPc ∧
    (u.me.fstat &&& s.me.fstat = s.me.fstat))

/-! ## Traps (R58, R84, R427 to R430, R434) -/

/-- (1) R428, R58: a trap that is not delegated, taken at a handler address that is well formed, writes EPC, EVAL and ECAUSE of
its context, saves the level in PRIV.plvl and raises it, passes control to TVEC.addr, and changes nothing else but that
ECAUSE, EVAL and the pc are no longer poisoned, nor EPC where the pc was not, and that a context out of the rotation is back
in it: no x, v or k register, no FCTX or SCPTR copy, no flag, no TASKF, no other context, no memory.
(2) R430, R58: a context other than the miller with TVEC.dlg set does not enter a handler: it becomes held with EPC, EVAL and
ECAUSE written and ECAUSE.deleg set, its PRIV and pc unchanged, and the trap joins the end of its miller's list.
(3) R429: a handler address that is not well formed is a trap during trap entry. EVAL holds the pair of causes and
ECAUSE.cause 0x09; EPC stands as the first trap gave it. A miller is halted; any other context is held and its DOUBLE_TRAP
delegated, whatever its TVEC.dlg. -/
def Obligations.TrapEntryAndDelegation : Prop :=
  -- (1) TrapEntry
  (
  ∀ (s : State) (i cause : Nat) (val epc : Word) (async : Bool),
    (ctxNo i = 0 ∨ (s.ctx i).tvec.getLsbD 0 = false) → goodPc (bits (s.ctx i).tvec.toNat 55 1 * 2) = true →
    let c := s.ctx i
    let t := takeTrap s i cause val epc async
    t = { s with ctxs := t.ctxs } ∧ (∀ j, j ≠ i → t.ctx j = s.ctx j) ∧ KeepsMemory s t ∧
    t.ctx i = { c with epc := epc, eval := val, ecause := (t.ctx i).ecause, priv := (if c.sys then 3 else 1),
                       pc := BitVec.ofNat 64 (bits c.tvec.toNat 55 1 * 2), line := none, intv := true,
                       entry := some cause, why := none, held := false, sent := false, recBad := false,
                       eligFrom := (t.ctx i).eligFrom, badSys := trapBad true c.badSys } ∧
    (c.why = none → (t.ctx i).eligFrom = c.eligFrom) ∧ (c.why ≠ none → s.cycle < (t.ctx i).eligFrom) ∧
    bits (t.ctx i).ecause.toNat 15 12 = ctxNo i ∧ (t.ctx i).ecause.getLsbD 11 = false ∧
    (t.ctx i).ecause.getLsbD 10 = async ∧ bits (t.ctx i).ecause.toNat 9 8 = 0 ∧
    bits (t.ctx i).ecause.toNat 7 0 = cause % 256 ∧ bits (t.ctx i).ecause.toNat 63 16 = 0)
  -- (2) TrapDelegation
  ∧ (
  ∀ (s : State) (i cause : Nat) (val epc : Word) (async : Bool),
    ctxNo i ≠ 0 → (s.ctx i).tvec.getLsbD 0 = true →
    let c := s.ctx i
    let t := takeTrap s i cause val epc async
    t.ctx i = { c with run := .held, why := none, epc := epc, eval := val, ecause := (t.ctx i).ecause, taken := false, held := false,
                       sent := false, eligFrom := (t.ctx i).eligFrom, badSys := trapBad false c.badSys } ∧
    bits (t.ctx i).ecause.toNat 15 12 = ctxNo i ∧ (t.ctx i).ecause.getLsbD 11 = true ∧
    (t.ctx i).ecause.getLsbD 10 = async ∧ bits (t.ctx i).ecause.toNat 7 0 = cause % 256 ∧
    (t.core (coreOf i)).pending = (s.core (coreOf i)).pending ++ [⟨ctxNo i, cause, val, async, false⟩] ∧
    (∀ j, j ≠ i → t.ctx j = s.ctx j) ∧ KeepsMemory s t)
  -- (3) DoubleTrap
  ∧ (
  ∀ (s : State) (i cause : Nat) (val epc : Word) (async : Bool),
    goodPc (bits (s.ctx i).tvec.toNat 55 1 * 2) = false → (ctxNo i = 0 ∨ (s.ctx i).tvec.getLsbD 0 = false) →
    let t := takeTrap s i cause val epc async
    (t.ctx i).eval = BitVec.ofNat 64 (cause % 256 + 0x02 * 256) ∧ bits (t.ctx i).ecause.toNat 7 0 = 0x09 ∧
    (t.ctx i).epc = epc ∧ (t.ctx i).priv = (s.ctx i).priv ∧ (t.ctx i).x = (s.ctx i).x ∧ KeepsMemory s t ∧
    (ctxNo i = 0 → (t.ctx i).run = .halted) ∧
    (ctxNo i ≠ 0 → (t.ctx i).run = .held ∧ (t.core (coreOf i)).pending.getLast? =
      some ⟨ctxNo i, 0x09, BitVec.ofNat 64 (cause % 256 + 0x02 * 256), async, false⟩))

/-- R434: TRAP raises SOFT with EVAL := N and epc := next_pc. ERET at the sys level sets pc := EPC.addr and PRIV.lvl := PRIV.plvl
and ends the handler interval, inside one or not; as a transfer of control it leaves the line, and an EPC that is not well
formed makes it trap. By the miller of a restoring core it also makes the core RUNNING (R445). -/
def Obligations.TrapAndReturn : Prop :=
  ∀ (s : State) (n : BitVec 6),
    let back := bits s.me.epc.toNat 55 1 * 2
    exec (.trap n) s = .next (s.trapTo 0x07 (n.setWidth 64) (BitVec.ofNat 64 (s.nextPc % 2 ^ 56))) ∧
    (s.me.sys = true → goodPc back = true → (s.core s.myCore).mode ≠ .restoring →
      ∃ t, exec .eret s = .next t ∧ t = { s with ctxs := t.ctxs, mark := .done } ∧
        t.me = { s.me with priv := t.me.priv, intv := false, pc := BitVec.ofNat 64 back, line := none, held := false,
                           sent := false, recBad := false } ∧
        t.me.priv.getLsbD 0 = s.me.priv.getLsbD 1 ∧ t.me.priv.getLsbD 1 = s.me.priv.getLsbD 1) ∧
    (s.me.sys = true → goodPc back = true → ctxNo s.cur = 0 → (s.core s.myCore).mode = .restoring →
      (s.core s.myCore).saved.isSome → ∃ t, exec .eret s = .next t ∧ (t.core s.myCore).mode = .running) ∧
    (s.me.sys = true → goodPc back = false → exec .eret s = .next (s.trap 0x02 (BitVec.ofNat 64 back)))

/-- (1) R106, R427: the forms of the sys level raise PRIVILEGE at the app level, and START and REAP outside the miller, whatever
their operands.
(2) R78, R81, R427: a head that decodes to no instruction raises ILLEGAL_INSTR, or RESERVED_FIELD where only its reserved
bits are wrong; EVAL shows its first parcels.
(3) R84: a head that would step past the well-formed code addresses raises ILLEGAL_LINE with the address in EVAL and has no
effect: no register is written, whatever the form. -/
def Obligations.HeadTraps : Prop :=
  -- (1) PrivilegeTraps
  (
  ∀ (s : State) (d : XR) (b : XS) (v : VR) (n : Fin 16),
    (s.me.sys = false → ∀ i, i ∈ [.eret, .migr d b, .ctxsv n d b, .ctxld n d b, .prmt d b, .rsme d b, .errinj d b, .cldx v b] →
      exec i s = .next (s.trap 0x04 s.headEval)) ∧
    (ctxNo s.cur ≠ 0 → ∀ i, i ∈ [.start n d b, .reap n d] → exec i s = .next (s.trap 0x04 s.headEval)))
  -- (2) IllegalHeads
  ∧ (
  ∀ s : State,
    exec (.illegalInstruction false) s = .next (s.trap 0x01 s.headEval) ∧
    exec (.illegalInstruction true) s = .next (s.trap 0x03 s.headEval))
  -- (3) StepPastTheTop
  ∧ (
  ∀ (s : State) (d : XR) (b c : XS) (i : BitVec 16) (w : BitVec 32) (p q r : KR) (t : ElemT) (v y z : VR) (h : Instr),
    s.stepsOn = false →
    h ∈ [.nop, .add d b c, .sub d b c, .addi d b i, .li d w, .mul d b c, .div d b c, .clz d b, .addpc d w, .kand p q r,
      .ktox d q, .vadd t v y z p, .vcmpeq t q y z p, .vli32 v w, .vextr t d y c, .feqF32 d b c, .feqF64 d b c] →
    exec h s = .next (s.trap 0x02 (BitVec.ofNat 64 s.nextPc)))

/-! ## Floating point and vectors (R118 to R188) -/

/-- (1) R139, R144, R159, R160: the rounding forms of F32 and F64 complete with the rounded result, zero above the format, and
its flags merged into FSTAT; division and square root keep the context out of the rotation for 20 cycles in F32 and 36 in
F64.
(2) R145, R159, R160: minimum, maximum and the comparisons complete in every rounding mode; a comparison writes the integer 1
or 0.
(3) R45, R144, R170, R427: every form that rounds raises the illegal-rounding-mode trap while rmode holds 6 or 7, with the
FCTX in force in EVAL and no other effect.
(4) R131, R134, R179, R180, R181: the element conversions complete. VCVT takes to each lane the source lane its part names,
and leaves a lane that none reaches; a conversion between integer types saturates and does not look at rmode; VPACK narrows
vb below vc, VUNPK widens one half of vb.
(5) R122 to R124, R182 to R186: the block conversions complete: an active element is quantised at the scale of its E8 code or
dequantised from its block value, with its own element number as element index; an inactive one writes code 0 in a block and
keeps its value in a register group; VEMAX gives a scale code. -/
def Obligations.ScalarFloatsAndConversions : Prop :=
  -- (1) ScalarFloatForms
  (
  ∀ (s : State) (d : XR) (b c : XS), s.flows → rmodeOf s.me.fctx < 6 →
    let x := (s.me.getS b).toNat
    let y := (s.me.getS c).toNat
    let z := (s.me.getX d).toNat
    let e := envOf s.me.fctx
    let w (r : Fp) : State := s.mapMe fun k => (k.setX d (BitVec.ofNat 64 r.1)).flag r.2
    let m := 2 ^ 32
    exec (.faddF32 d b c) s = .next (s.stepped (w (fmtF32.add e 0 (x % m) (y % m)))) ∧
    exec (.fsubF32 d b c) s = .next (s.stepped (w (fmtF32.sub e 0 (x % m) (y % m)))) ∧
    exec (.fmulF32 d b c) s = .next (s.stepped (w (fmtF32.mul e 0 (x % m) (y % m)))) ∧
    exec (.ffmaF32 d b c) s = .next (s.stepped (w (fmtF32.fma e 0 false false (z % m) (x % m) (y % m)))) ∧
    exec (.fdivF32 d b c) s = .next (s.steppedFor (w (fmtF32.div e 0 (x % m) (y % m))) 20) ∧
    exec (.fsqrtF32 d b) s = .next (s.steppedFor (w (fmtF32.sqrt e 0 (x % m))) 20) ∧
    exec (.faddF64 d b c) s = .next (s.stepped (w (fmtF64.add e 0 x y))) ∧
    exec (.fsubF64 d b c) s = .next (s.stepped (w (fmtF64.sub e 0 x y))) ∧
    exec (.fmulF64 d b c) s = .next (s.stepped (w (fmtF64.mul e 0 x y))) ∧
    exec (.ffmaF64 d b c) s = .next (s.stepped (w (fmtF64.fma e 0 false false z x y))) ∧
    exec (.fdivF64 d b c) s = .next (s.steppedFor (w (fmtF64.div e 0 x y)) 36) ∧
    exec (.fsqrtF64 d b) s = .next (s.steppedFor (w (fmtF64.sqrt e 0 x)) 36))
  -- (2) ScalarFloatCompares
  ∧ (
  ∀ (s : State) (d : XR) (b c : XS), s.flows →
    let x := (s.me.getS b).toNat
    let y := (s.me.getS c).toNat
    let e := envOf s.me.fctx
    let w (r : Fp) : State := s.mapMe fun k => (k.setX d (BitVec.ofNat 64 r.1)).flag r.2
    let q (r : Bool × Word) : State := s.mapMe fun k => (k.setX d (if r.1 then 1 else 0)).flag r.2
    let m := 2 ^ 32
    exec (.fminF32 d b c) s = .next (s.stepped (w (fmtF32.minMax e false (x % m) (y % m)))) ∧
    exec (.fmaxF32 d b c) s = .next (s.stepped (w (fmtF32.minMax e true (x % m) (y % m)))) ∧
    exec (.feqF32 d b c) s = .next (s.stepped (q (fmtF32.eq e (x % m) (y % m)))) ∧
    exec (.fltF32 d b c) s = .next (s.stepped (q (fmtF32.less e false (x % m) (y % m)))) ∧
    exec (.fleF32 d b c) s = .next (s.stepped (q (fmtF32.less e true (x % m) (y % m)))) ∧
    exec (.fminF64 d b c) s = .next (s.stepped (w (fmtF64.minMax e false x y))) ∧
    exec (.fmaxF64 d b c) s = .next (s.stepped (w (fmtF64.minMax e true x y))) ∧
    exec (.feqF64 d b c) s = .next (s.stepped (q (fmtF64.eq e x y))) ∧
    exec (.fltF64 d b c) s = .next (s.stepped (q (fmtF64.less e false x y))) ∧
    exec (.fleF64 d b c) s = .next (s.stepped (q (fmtF64.less e true x y))))
  -- (3) RoundingModeTraps
  ∧ (
  ∀ (s : State) (d : XR) (b c e : XS) (t u : ElemT) (bf : BlkF) (f : Bool) (v y z : VR) (m : KR) (p : BitVec 6)
      (pol : Pol) (i : Instr),
    rmodeOf s.me.fctx = 6 ∨ rmodeOf s.me.fctx = 7 → t.isInt = false →
    i ∈ [.faddF32 d b c, .fsubF32 d b c, .fmulF32 d b c, .fdivF32 d b c, .fsqrtF32 d b, .ffmaF32 d b c,
      .faddF64 d b c, .fsubF64 d b c, .fmulF64 d b c, .fdivF64 d b c, .fsqrtF64 d b, .ffmaF64 d b c,
      .vfadd t v y z m, .vfsub t v y z m, .vfmul t v y z m, .vfma t v y z m, .vfms t v y z m, .vfnma t v y z m,
      .vfdiv t v y z m, .vfsqrt t v y m, .vredAdd t d y m, .vscanAdd t v y m, .vcvt t u v y p m, .vcvt u t v y p m,
      .fcvt t u d b, .fcvt u t d b, .vqnt bf t v y c m, .vdqnt bf t v y c m, .vrsc bf v y c e m, .vphcv t v y c m,
      .cld t d b, .phwr f d b c, .omx pol .f32 d b c e, .omx pol .bf16 d b c e, .omxa pol .f32 d b c e,
      .omxa pol .bf16 d b c e, .omxw pol .f32 d b c e, .omxw pol .bf16 d b c e] →
    exec i s = .next (s.trap 0x05 s.me.fctx))
  -- (4) ElementConversions
  ∧ (
  ∀ (s : State) (td ts : ElemT) (x : XR) (y : XS) (d b c : VR) (p : BitVec 6) (h : Bool) (m : KR), s.flows →
    let e := envOf s.me.fctx
    let wd := td.width
    let ws := ts.width
    let lb (w i : Nat) : Nat := lane (s.me.getV b) w i
    let lc (w i : Nat) : Nat := lane (s.me.getV c) w i
    let ld (i : Nat) : Nat := lane (s.me.getV d) wd i
    let n := 256 / max wd ws
    let part := p.toNat
    let r := cvt td ts e 0 ((s.me.getS y).toNat % 2 ^ ws)
    let nib (v : Nat) : Fp := if td = .s8 then satS (sext v 8) 4 else (v % 16, 0)
    (rmodeOf s.me.fctx < 6 ∨ (td.isInt = true ∧ ts.isInt = true) →
      exec (.vcvt td ts d b p m) s = .next (s.stepped (s.putLanes wd d m fun j =>
        if wd < ws then (if part * n ≤ j ∧ j < part * n + n then cvt td ts e j (lb ws (j - part * n)) else (ld j, 0))
        else if ws < wd then cvt td ts e j (lb ws (part * n + j))
        else cvt td ts e j (lb ws j))) ∧
      exec (.fcvt td ts x y) s = .next (s.stepped (s.mapMe fun k => (k.setX x (xOfLane td r.1)).flag r.2))) ∧
    (td ≠ ts → exec (.vpack td ts d b c m) s = .next (s.stepped (s.putLanes wd d m fun i =>
      satT td (readInt ts (if i < 256 / ws then lb ws i else lc ws (i - 256 / ws)))))) ∧
    (td = ts → exec (.vpack td ts d b c m) s = .next (s.stepped (s.putLanes wd d m fun i =>
      let v (q : Nat) : Nat := if q < 32 then lb 8 q else lc 8 (q - 32)
      ((nib (v (2 * i))).1 + 16 * (nib (v (2 * i + 1))).1, (nib (v (2 * i))).2 ||| (nib (v (2 * i + 1))).2)))) ∧
    (td ≠ ts → exec (.vunpk td ts d b h m) s = .next (s.stepped (s.putLanes wd d m fun i =>
      (((readInt ts (lb ws ((if h then 128 / ws else 0) + i))) % ((2 ^ wd : Nat) : Int)).toNat, 0)))) ∧
    (td = ts → exec (.vunpk td ts d b h m) s = .next (s.stepped (s.putLanes wd d m fun i =>
      let q := lb 4 ((if h then 32 else 0) + i)
      (if td = .s8 then (sext q 4 % 256).toNat else q, 0)))))
  -- (5) BlockConversions
  ∧ (
  ∀ (s : State) (bf : BlkF) (t : ElemT) (x : XR) (d b : VR) (c q : XS) (m : KR), s.flows → t ∈ [.f16, .bf16, .f32] →
    let f : Fmt := if t = .f16 then fmtF16 else if t = .bf16 then fmtBF16 else fmtF32
    let e := envOf s.me.fctx
    let wb : Nat := if bf = .b4i ∨ bf = .b4f then 4 else 8
    let a := s.me.getK m
    let src (j : Nat) : Machine.Num := f.read e (elem (s.me.getGroup b (t.width / 8)) t.width j)
    let blk (j : Nat) : Nat := lane (s.me.getV b) wb j
    let sc := (s.me.getS c).toNat % 256
    let sq := (s.me.getS q).toNat % 256
    let toBlock (g : Nat → Fp) : State := s.mapMe fun k => (k.setV d (BitVec.ofNat 256 (ofElems wb
      ((List.range 32).map fun j => if a.getLsbD j then (g j).1 else 0)))).flag (laneFlags 32 a fun j => (g j).2)
    let toGroup (n : Nat) (g : Nat → Fp) : State := s.mapMe fun k =>
      (k.setGroup d (n * t.width / 256) (ofElems t.width ((List.range n).map fun j =>
        if a.getLsbD j then (g j).1 else elem (s.me.getGroup d (n * t.width / 256)) t.width j))).flag
        (laneFlags n a fun j => (g j).2)
    (rmodeOf s.me.fctx < 6 →
      exec (.vqnt bf t d b c m) s = .next (s.stepped (toBlock fun j => quantise bf e j sc (src j))) ∧
      exec (.vdqnt bf t d b c m) s = .next (s.stepped (toGroup 32 fun j => f.deliver e j (blockValue bf (blk j) sc))) ∧
      exec (.vrsc bf d b c q m) s = .next (s.stepped (toBlock fun j => quantise bf e j sq (blockValue bf (blk j) sc))) ∧
      exec (.vphcv t d b c m) s = .next (s.stepped (toGroup 16 fun j =>
        let v := sext (lane (s.me.getV b) 16 j) 16
        f.deliver e j (.fin (decide (v < 0)) v.natAbs (sext sc 8))))) ∧
    (∃ (code : Nat) (fl : Word), exec (.vemax bf t x b m) s =
        .next (s.stepped (s.mapMe fun k => (k.setX x (BitVec.ofNat 64 code)).flag fl)) ∧ code ≤ 255 ∧ (fl = 0 ∨ fl = fNv) ∧
      (code = 255 ↔ ∃ j, j < 32 ∧ a.getLsbD j = true ∧ ∀ g n k, src j ≠ .fin g n k) ∧
      ((∀ j, j < 32 → a.getLsbD j = true → ∃ g k, src j = .fin g 0 k) → code = 127)))

/-- (1) R144: rows 1 to 4 for the formats of scalar and vector arithmetic: a signaling NaN operand gives the canonical NaN with
nv; a quiet one the canonical NaN with no flag; an invalid operation the canonical NaN with nv; a finite non-zero value over
zero an infinity of the XOR of the signs with dz.
(2) R118, R128, R131: rounding keeps what needs no rounding. A finite code of a format, taken as the exact value it decodes
to, rounds into the same code in each of the six modes, with no flag; under FTZ where it is not subnormal.
(3) R39, R40, R142: a lane form writes the lanes whose mask bit is set and keeps the others; vz takes no value; the flags are
those of the active lanes, merged into FSTAT; a form that writes a mask gives 0 in every inactive lane and above the lane
count, and k0 keeps reading all ones. Nothing else of the context, no other context and no memory changes. -/
def Obligations.FloatAndLaneRules : Prop :=
  -- (1) FloatSpecialResults
  (
  ∀ (f : Fmt) (v : FEnv) (idx b c d : Nat),
    f ∈ [fmtF64, fmtF32, fmtF16, fmtBF16] →
    let x := f.read v b
    let y := f.read v c
    (x = .nan true ∨ y = .nan true →
      f.add v idx b c = (f.nan, fNv) ∧ f.sub v idx b c = (f.nan, fNv) ∧ f.mul v idx b c = (f.nan, fNv) ∧
      f.div v idx b c = (f.nan, fNv) ∧ f.fma v idx false false d b c = (f.nan, fNv)) ∧
    (x = .nan false → y ≠ .nan true →
      f.add v idx b c = (f.nan, 0) ∧ f.sub v idx b c = (f.nan, 0) ∧ f.mul v idx b c = (f.nan, 0) ∧
      f.div v idx b c = (f.nan, 0) ∧ f.sqrt v idx b = (f.nan, 0)) ∧
    (∀ g, x = .inf g → y = .inf (!g) → f.add v idx b c = (f.nan, fNv)) ∧
    (∀ g, x = .inf g → y = .inf g → f.sub v idx b c = (f.nan, fNv) ∧ f.div v idx b c = (f.nan, fNv)) ∧
    (∀ g h e, x = .inf g → y = .fin h 0 e → f.mul v idx b c = (f.nan, fNv)) ∧
    (∀ g h e k, x = .fin g 0 e → y = .fin h 0 k → f.div v idx b c = (f.nan, fNv)) ∧
    (∀ m e, x = .fin true m e → m ≠ 0 → f.sqrt v idx b = (f.nan, fNv)) ∧
    (∀ g h m e k, x = .fin g m e → m ≠ 0 → y = .fin h 0 k →
      f.div v idx b c = (f.sign (g ^^ h) + f.infCode, fDz)) ∧
    (∀ e, x = .fin true 0 e → f.sqrt v idx b = (f.sign true, 0)))
  -- (2) RoundingKeepsExactValues
  ∧ (
  ∀ (f : Fmt) (v : FEnv) (idx code : Nat) (g : Bool) (m : Nat) (e : Int),
    f ∈ [fmtF64, fmtF32, fmtF16, fmtBF16, fmtF8E4, fmtF8E5, fmtF6E3, fmtF4E2] → code ≤ f.maxCode → v.rm < 6 →
    (v.ftz = false ∨ f.ftz = false ∨ 2 ^ f.mb ≤ code) →
    f.decode (f.sign g + code) = .fin g m e →
    f.round v idx g ⟨m, e, false⟩ = (f.sign g + code, 0))
  -- (3) LaneWrites
  ∧ (
  ∀ (s : State) (d : VR) (kd m : KR) (w : Nat) (f : Nat → Fp) (g : Nat → Bool × Word), w ∈ [8, 16, 32, 64] →
    let a (i : Nat) : Bool := (s.me.getK m).getLsbD i
    let t := s.putLanes w d m f
    let u := s.putMask w kd m g
    (∀ i, i < 256 / w → lane (t.me.getV d) w i =
      if d = .vz then 0 else if a i then (f i).1 % 2 ^ w else lane (s.me.getV d) w i) ∧
    (∀ b, t.me.fstat.getLsbD b = (s.me.fstat.getLsbD b ||
      (List.range (256 / w)).any fun i => a i && (f i).2.getLsbD b)) ∧
    KeepsV s.me t.me [d] ∧ KeepsX s.me t.me [] ∧ KeepsK s.me t.me [] ∧ KeepsSystem s.me t.me ∧ t.me.pc = s.me.pc ∧
    KeepsOthers s t ∧ t = { s with ctxs := t.ctxs } ∧ KeepsMemory s t ∧
    (∀ i, (u.me.getK kd).getLsbD i =
      if kd = 0 then decide (i < 32) else decide (i < 256 / w) && a i && (g i).1) ∧
    (∀ b, u.me.fstat.getLsbD b = (s.me.fstat.getLsbD b ||
      (List.range (256 / w)).any fun i => a i && (g i).2.getLsbD b)) ∧
    KeepsK s.me u.me [kd] ∧ KeepsX s.me u.me [] ∧ KeepsV s.me u.me [] ∧ KeepsSystem s.me u.me ∧ KeepsOthers s u ∧
    u = { s with ctxs := u.ctxs } ∧ KeepsMemory s u)

/-- (1) R117, R143, R162, R163: the integer lane forms complete; each active lane holds the result of its lanes, wrapped or, for
VADDS, VSUBS and VABS, saturated with the sat flag.
(2) R162 to R165: the integer lane forms of one source, the immediate forms, the splats and the vector constants. VSPLATI,
VADDI and VLI.64 sign-extend their immediates, VANDI, VORI, VLI.16 and VLI.32 do not.
(3) R163, R167: the integer comparisons write a mask; VSEL writes every lane, from vb where the mask bit is set and from vc
elsewhere; the mask forms act on all 32 bits, whatever the lane count.
(4) R133, R139, R144, R145, R166: the floating lane forms complete, each active lane with the result of its own lanes and its
lane number as element index; VFMS is d - b * c and VFNMA -(d + b * c), each rounded once; VFDIV and VFSQRT take 28 cycles in
F32 and 20 in the 16-bit formats. -/
def Obligations.VectorForms : Prop :=
  -- (1) VectorIntegerForms
  (
  ∀ (s : State) (t : ElemT) (d b c : VR) (m : KR) (i : Instr) (f : Nat → Nat → Fp), s.flows →
    let w := t.width
    let n : Nat := 2 ^ w
    let v (x : Nat) : Int := if t.isSigned then sext x w else (x : Int)
    let lo : Int := if t.isSigned then -(2 ^ (w - 1)) else 0
    let hi : Int := if t.isSigned then 2 ^ (w - 1) - 1 else 2 ^ w - 1
    let clamp (x : Int) : Fp := ((max lo (min hi x) % (n : Int)).toNat, if x < lo ∨ hi < x then 256 else 0)
    (i, f) ∈ [((.vadd t d b c m : Instr), fun x y => ((x + y) % n, 0)), (.vsub t d b c m, fun x y => ((n + x - y) % n, 0)),
      (.vmul t d b c m, fun x y => (x * y % n, 0)),
      (.vmulh t d b c m, fun x y => ((v x * v y / (n : Int) % (n : Int)).toNat, 0)),
      (.vand t d b c m, fun x y => (x &&& y, 0)), (.vor t d b c m, fun x y => (x ||| y, 0)),
      (.vxor t d b c m, fun x y => (x ^^^ y, 0)), (.vandn t d b c m, fun x y => (x &&& (n - 1 - y), 0)),
      (.vsll t d b c m, fun x y => (if w ≤ y then 0 else x * 2 ^ y % n, 0)),
      (.vsrl t d b c m, fun x y => (if w ≤ y then 0 else x / 2 ^ y, 0)),
      (.vsra t d b c m, fun x y => ((sext x w / 2 ^ (min y (w - 1)) % (n : Int)).toNat, 0)),
      (.vmin t d b c m, fun x y => (if v x ≤ v y then x else y, 0)), (.vmax t d b c m, fun x y => (if v x ≤ v y then y else x, 0)),
      (.vadds t d b c m, fun x y => clamp (v x + v y)), (.vsubs t d b c m, fun x y => clamp (v x - v y))] →
    exec i s = .next (s.stepped (s.putLanes w d m fun j => f (lane (s.me.getV b) w j) (lane (s.me.getV c) w j))))
  -- (2) VectorUnaryAndImmediateForms
  ∧ (
  ∀ (s : State) (t : ElemT) (d b : VR) (x : XS) (m : KR) (k : BitVec 6) (n : BitVec 16) (l : BitVec 32), s.flows →
    let w := t.width
    let q : Nat := 2 ^ w
    let act (f : Nat → Fp) : Host.Outcome State Fault Refusal :=
      .next (s.stepped (s.putLanes w d m fun i => f (lane (s.me.getV b) w i)))
    exec (.vabs t d b m) s = act (fun y =>
      let a := (sext y w).natAbs
      if a = 2 ^ (w - 1) then (a - 1, 256) else (a, 0)) ∧
    exec (.vneg t d b m) s = act (fun y => ((q - y) % q, 0)) ∧
    exec (.vaddi t d b n m) s = act (fun y => (((y + n.toInt) % (q : Int)).toNat, 0)) ∧
    exec (.vandi t d b n m) s = act (fun y => (y &&& n.toNat % q, 0)) ∧
    exec (.vori t d b n m) s = act (fun y => (y ||| n.toNat % q, 0)) ∧
    exec (.vslli t d b k m) s = act (fun y => (if w ≤ k.toNat then 0 else y * 2 ^ k.toNat % q, 0)) ∧
    exec (.vsrli t d b k m) s = act (fun y => (if w ≤ k.toNat then 0 else y / 2 ^ k.toNat, 0)) ∧
    exec (.vsrai t d b k m) s = act (fun y => ((sext y w / 2 ^ (min k.toNat (w - 1)) % (q : Int)).toNat, 0)) ∧
    exec (.vsplat t d x m) s = .next (s.stepped (s.putLanes w d m fun _ => ((s.me.getS x).toNat % q, 0))) ∧
    exec (.vsplati t d n m) s = .next (s.stepped (s.putLanes w d m fun _ => ((n.toInt % (q : Int)).toNat, 0))) ∧
    exec (.vli16 d n) s = .next (s.wroteV d (n ++ n ++ n ++ n ++ n ++ n ++ n ++ n ++ n ++ n ++ n ++ n ++ n ++ n ++ n ++ n)) ∧
    exec (.vli32 d l) s = .next (s.wroteV d (l ++ l ++ l ++ l ++ l ++ l ++ l ++ l)) ∧
    exec (.vli64 d l) s = .next (s.wroteV d (let h := l.signExtend 64; h ++ h ++ h ++ h)))
  -- (3) CompareSelectAndMaskForms
  ∧ (
  ∀ (s : State) (t : ElemT) (d b c : VR) (x : XR) (y : XS) (kd kb kc m : KR), s.flows →
    let w := t.width
    let v (r : VR) (i : Nat) : Int := if t.isSigned then sext (lane (s.me.getV r) w i) w else lane (s.me.getV r) w i
    let p := s.me.getK kb
    let q := s.me.getK kc
    exec (.vcmpeq t kd b c m) s = .next (s.stepped (s.putMask w kd m fun i => (v b i == v c i, 0))) ∧
    exec (.vcmplt t kd b c m) s = .next (s.stepped (s.putMask w kd m fun i => (decide (v b i < v c i), 0))) ∧
    exec (.vcmple t kd b c m) s = .next (s.stepped (s.putMask w kd m fun i => (decide (v b i ≤ v c i), 0))) ∧
    (∃ r, exec (.vsel t d b c m) s = .next (s.wroteV d r) ∧ ∀ i, i < 256 / w → lane r w i =
      if (s.me.getK m).getLsbD i then lane (s.me.getV b) w i else lane (s.me.getV c) w i) ∧
    exec (.kand kd kb kc) s = .next (s.wroteK kd (p &&& q)) ∧ exec (.kor kd kb kc) s = .next (s.wroteK kd (p ||| q)) ∧
    exec (.kxor kd kb kc) s = .next (s.wroteK kd (p ^^^ q)) ∧ exec (.kandn kd kb kc) s = .next (s.wroteK kd (p &&& ~~~q)) ∧
    exec (.knot kd kb) s = .next (s.wroteK kd (~~~p)) ∧
    exec (.kmovx kd y) s = .next (s.wroteK kd ((s.me.getS y).extractLsb' 0 32)) ∧
    exec (.ktox x kb) s = .next (s.wroteX x (p.setWidth 64)) ∧
    exec (.kpopc x kb) s = .next (s.wroteX x (BitVec.ofNat 64 ((List.range 32).filter p.getLsbD).length)) ∧
    (∃ n : Nat, exec (.kfirst x kb) s = .next (s.wroteX x (BitVec.ofNat 64 n)) ∧ n ≤ 32 ∧
      (∀ i, i < n → p.getLsbD i = false) ∧ (n < 32 → p.getLsbD n = true)))
  -- (4) VectorFloatForms
  ∧ (
  ∀ (s : State) (t : ElemT) (d b c : VR) (kd m : KR), s.flows → t ∈ [.f16, .bf16, .f32] →
    let f : Fmt := if t = .f16 then fmtF16 else if t = .bf16 then fmtBF16 else fmtF32
    let e := envOf s.me.fctx
    let x (i : Nat) : Nat := lane (s.me.getV b) t.width i
    let y (i : Nat) : Nat := lane (s.me.getV c) t.width i
    let z (i : Nat) : Nat := lane (s.me.getV d) t.width i
    let put (g : Nat → Fp) : State := s.putLanes t.width d m g
    let mask (g : Nat → Bool × Word) : State := s.putMask t.width kd m g
    (rmodeOf s.me.fctx < 6 →
      exec (.vfadd t d b c m) s = .next (s.stepped (put fun i => f.add e i (x i) (y i))) ∧
      exec (.vfsub t d b c m) s = .next (s.stepped (put fun i => f.sub e i (x i) (y i))) ∧
      exec (.vfmul t d b c m) s = .next (s.stepped (put fun i => f.mul e i (x i) (y i))) ∧
      exec (.vfma t d b c m) s = .next (s.stepped (put fun i => f.fma e i false false (z i) (x i) (y i))) ∧
      exec (.vfms t d b c m) s = .next (s.stepped (put fun i => f.fma e i false true (z i) (x i) (y i))) ∧
      exec (.vfnma t d b c m) s = .next (s.stepped (put fun i => f.fma e i true true (z i) (x i) (y i))) ∧
      exec (.vfdiv t d b c m) s =
        .next (s.steppedFor (put fun i => f.div e i (x i) (y i)) (if t = .f32 then 28 else 20)) ∧
      exec (.vfsqrt t d b m) s = .next (s.steppedFor (put fun i => f.sqrt e i (x i)) (if t = .f32 then 28 else 20))) ∧
    exec (.vfmin t d b c m) s = .next (s.stepped (put fun i => f.minMax e false (x i) (y i))) ∧
    exec (.vfmax t d b c m) s = .next (s.stepped (put fun i => f.minMax e true (x i) (y i))) ∧
    exec (.vfabs t d b m) s = .next (s.stepped (put fun i => f.absNeg e false (x i))) ∧
    exec (.vfneg t d b m) s = .next (s.stepped (put fun i => f.absNeg e true (x i))) ∧
    exec (.vfcmpeq t kd b c m) s = .next (s.stepped (mask fun i => f.eq e (x i) (y i))) ∧
    exec (.vfcmplt t kd b c m) s = .next (s.stepped (mask fun i => f.less e false (x i) (y i))) ∧
    exec (.vfcmple t kd b c m) s = .next (s.stepped (mask fun i => f.less e true (x i) (y i))) ∧
    exec (.frsqa t d b m) s = .next (s.stepped (put fun i => frsqa f e i (x i))) ∧
    exec (.frcpa t d b m) s = .next (s.stepped (put fun i => frcpa f e i (x i))))

/-- (1) R174: the lane forms complete. VXLR, VCOMPR and VEXPND write every lane, with 0 where no source lane stands; a source
lane outside the vector gives 0; the rest write active lanes. VEXTR gives a lane as an x register holds it, VINS replaces one
lane and a lane number out of range replaces none.
(2) R139, R169, R176, R177: an integer reduction gives the wrapped sum, the least, the greatest, or the AND or OR of the
active lanes, the identity where none is active, sign-extended for the signed types, and takes 2a + 6 cycles for a active
lanes; a scan writes each active lane with the reduction of the active lanes up to it, and sets no flag.
(3) R144, R176, R177: a floating reduction runs over the active lanes from the lowest, each step rounded with element index 0
and its flags merged; the first lane alone is delivered as read, a NaN as the canonical one. With no lane active it gives +0,
and the infinities, with no flag. A scan writes each active lane with the run up to it. -/
def Obligations.LanesAndReductions : Prop :=
  -- (1) LaneForms
  (
  ∀ (s : State) (t : ElemT) (d b c i : VR) (x : XR) (y z : XS) (m : KR), s.flows →
    let w := t.width
    let n := 256 / w
    let k := s.me.getK m
    let lb (j : Nat) : Nat := lane (s.me.getV b) w j
    let lc (j : Nat) : Nat := lane (s.me.getV c) w j
    let u := (s.me.getS z).toNat
    let on (f : Nat → Nat) : State := s.stepped (s.putLanes w d m fun j => (f j, 0))
    (∃ r, exec (.vxlr t d b c m) s = .next (s.wroteV d r) ∧
      ∀ j, j < n → lane r w j = if lc j < n ∧ k.getLsbD (lc j) = true then lb (lc j) else 0) ∧
    exec (.vperm t d b c i m) s = .next (on fun j =>
      let q := lane (s.me.getV i) w j % (2 * n)
      if q < n then lb q else lc (q - n)) ∧
    (∃ r, exec (.vcompr t d b m) s = .next (s.wroteV d r) ∧
      ∀ j, j < n → lane r w j = (((List.range n).filter k.getLsbD).map lb).getD j 0) ∧
    (∃ r, exec (.vexpnd t d b m) s = .next (s.wroteV d r) ∧
      ∀ j, j < n → lane r w j = if k.getLsbD j then lb ((List.range j).filter k.getLsbD).length else 0) ∧
    exec (.vslup t d b z m) s = .next (on fun j => if u ≤ j then lb (j - u) else 0) ∧
    exec (.vsldn t d b z m) s = .next (on fun j => if j + u < n then lb (j + u) else 0) ∧
    exec (.vzip t d b c m) s = .next (on fun j => if j % 2 = 0 then lb (j / 2) else lc (j / 2)) ∧
    exec (.vunzip t d b c m) s = .next (on fun j => if j < n / 2 then lb (2 * j) else lc (2 * j - n)) ∧
    exec (.vextr t x b z) s = .next (s.wroteX x (xOfLane t (if u < n then lb u else 0))) ∧
    (∃ r, exec (.vins t d y z) s = .next (s.wroteV d r) ∧
      ∀ j, j < n → lane r w j = if j = u then (s.me.getS y).toNat % 2 ^ w else lane (s.me.getV d) w j))
  -- (2) IntegerReductions
  ∧ (
  ∀ (s : State) (t : ElemT) (x : XR) (d b : VR) (m : KR), s.flows → t.isInt = true →
    let w := t.width
    let n := 256 / w
    let k := s.me.getK m
    let v (a : Nat) : Int := if t.isSigned then sext a w else (a : Int)
    let ls : List Nat := ((List.range n).filter k.getLsbD).map (lane (s.me.getV b) w)
    let upto (j : Nat) : List Nat := ((List.range (j + 1)).filter k.getLsbD).map (lane (s.me.getV b) w)
    let sum (l : List Nat) : Nat := l.foldl (fun a c => (a + c) % 2 ^ w) 0
    let least (l : List Nat) : Nat := l.foldl (fun a c => if v c < v a then c else a) (if t.isSigned then 2 ^ (w - 1) - 1 else 2 ^ w - 1)
    let most (l : List Nat) : Nat := l.foldl (fun a c => if v a < v c then c else a) (if t.isSigned then 2 ^ (w - 1) else 0)
    let all (l : List Nat) : Nat := l.foldl (fun a c => a &&& c) (2 ^ w - 1)
    let any (l : List Nat) : Nat := l.foldl (fun a c => a ||| c) 0
    let out (f : List Nat → Nat) : Host.Outcome State Fault Refusal :=
      .next (s.steppedFor (s.putX x (xOfLane t (f ls))) (2 * ls.length + 6))
    let scan (f : List Nat → Nat) : Host.Outcome State Fault Refusal :=
      .next (s.steppedFor (s.putLanes w d m fun j => (f (upto j), 0)) (2 * ls.length + 6))
    exec (.vredAdd t x b m) s = out sum ∧ exec (.vredMin t x b m) s = out least ∧ exec (.vredMax t x b m) s = out most ∧
    exec (.vredAnd t x b m) s = out all ∧ exec (.vredOr t x b m) s = out any ∧
    exec (.vscanAdd t d b m) s = scan sum ∧ exec (.vscanMin t d b m) s = scan least ∧ exec (.vscanMax t d b m) s = scan most)
  -- (3) FloatReductions
  ∧ (
  ∀ (s : State) (t : ElemT) (x : XR) (d b : VR) (m : KR), s.flows → t ∈ [.f16, .bf16, .f32] → rmodeOf s.me.fctx < 6 →
    let f : Fmt := if t = .f16 then fmtF16 else if t = .bf16 then fmtBF16 else fmtF32
    let e := envOf s.me.fctx
    let w := t.width
    let k := s.me.getK m
    let upto (j : Nat) : List Nat := ((List.range j).filter k.getLsbD).map (lane (s.me.getV b) w)
    let ls : List Nat := upto (256 / w)
    let run (g : Nat → Nat → Fp) (none : Nat) (l : List Nat) : Fp :=
      match l with
      | [] => (none, 0)
      | a :: l => l.foldl (fun r c => ((g r.1 c).1, r.2 ||| (g r.1 c).2))
          (if f.read e a = .nan true then (f.nan, fNv) else if f.read e a = .nan false then (f.nan, 0) else (f.pat e a, 0))
    let out (r : Fp) : Host.Outcome State Fault Refusal :=
      .next (s.steppedFor (s.mapMe fun c => (c.setX x (BitVec.ofNat 64 r.1)).flag r.2) (2 * ls.length + 6))
    let scan (g : Nat → Nat → Fp) : Host.Outcome State Fault Refusal :=
      .next (s.steppedFor (s.mapMe fun c => (c.setV d (mergeLanes (c.getV d) w k fun j => (run g 0 (upto (j + 1))).1)).flag
        (run g 0 ls).2) (2 * ls.length + 6))
    exec (.vredAdd t x b m) s = out (run (f.add e 0) 0 ls) ∧
    exec (.vredMin t x b m) s = out (run (f.minMax e false) f.infCode ls) ∧
    exec (.vredMax t x b m) s = out (run (f.minMax e true) (f.sign true + f.infCode) ls) ∧
    exec (.vscanAdd t d b m) s = scan (f.add e 0) ∧ exec (.vscanMin t d b m) s = scan (f.minMax e false) ∧
    exec (.vscanMax t d b m) s = scan (f.minMax e true))

/-! ## Memory (R253 to R317) -/

/-- (1) R39, R40, R79: the register file. x0 and vz read as zero and k0 as all ones, whatever their storage holds; writes to them
are discarded; any other register reads as it was last written, and a write changes no other register.
(2) R5, R259, R470: what was written last is read back, little-endian; other bytes, full bits and the poison of other words
stay. A store that covers a word whole clears its poison; data from a poisoned source poisons every word it touches.
(3) R253, R254, R298: a window address of the own scratchpad (bit 25 set, core bits zero) names the byte at its offset of the
executing context's own core, for any kind of access and without translation; bits [24:19] set beside bit 25, an access past
the scratchpad's end, and one that crosses into or out of the window raise WINDOW_FAULT; any other address of 2^56 or more
raises MEM_RANGE. -/
def Obligations.RegistersAndMemoryRead : Prop :=
  -- (1) RegisterFile
  (
  ∀ (c : Ctx) (a b : XR) (p q : VR) (m n : KR) (x : Word) (y : VWord) (z : KWord),
    c.getX 0 = 0 ∧ c.getV .vz = 0 ∧ c.getK 0 = BitVec.allOnes 32 ∧
    (c.setX 0 x).x = c.x ∧ (c.setV .vz y).v = c.v ∧ (c.setK 0 z).k = c.k ∧
    (a ≠ 0 → (c.setX a x).getX a = x) ∧ (a ≠ b → (c.setX a x).getX b = c.getX b) ∧
    (p ≠ .vz → (c.setV p y).getV p = y) ∧ (p ≠ q → (c.setV p y).getV q = c.getV q) ∧
    (m ≠ 0 → (c.setK m z).getK m = z) ∧ (m ≠ n → (c.setK m z).getK n = c.getK n))
  -- (2) MemoryReadsWhatWasWritten
  ∧ (
  ∀ (s : State) (a n v : Nat) (bad : Bool), s.form →
    let t := s.store a n v bad
    t.rdN a n = v % 256 ^ n ∧ (∀ i, i < n → t.byte (a + i) = BitVec.ofNat 8 (v / 256 ^ i)) ∧
    (∀ b, b < a ∨ a + n ≤ b → t.byte b = s.byte b) ∧ (∀ w, t.isFull w = s.isFull w) ∧
    (∀ b, b / 8 < a / 8 ∨ (a + n - 1) / 8 < b / 8 → t.isBad b = s.isBad b) ∧
    (∀ b, 0 < n → a ≤ b → b < a + n → bad = true → t.isBad b = true) ∧
    (∀ w, w % 8 = 0 → a ≤ w → w + 8 ≤ a + n → bad = false → t.isBad w = false) ∧ t.form)
  -- (3) WindowAddresses
  ∧ (
  ∀ (s : State) (acc : Acc) (o n : Nat) (va : Nat), 0 < n → n ≤ 64 →
    (o + n ≤ 2 ^ 19 → s.resolveMe acc (0x00F0000002000000 + o) n =
      .ok [⟨0x00F0000002000000 + o, 2 ^ 52 + 2 ^ 19 * (s.cur / 16) + o, n, false, none⟩]) ∧
    (o < 2 ^ 19 → 2 ^ 19 < o + n → s.resolveMe acc (0x00F0000002000000 + o) n = .trap 1 0x11 (0x00F0000002000000 + o)) ∧
    (2 ^ 19 ≤ o → o + n ≤ 2 ^ 25 → s.resolveMe acc (0x00F0000002000000 + o) n = .trap 1 0x11 (0x00F0000002000000 + o)) ∧
    (0x00F0000000000000 - n < va → va < 0x00F0000000000000 → s.resolveMe acc va n = .trap 1 0x11 va) ∧
    (2 ^ 56 ≤ va → va + n ≤ 2 ^ 64 → s.resolveMe acc va n = .trap 4 0x14 va))

/-- (1) R255, R283, R299, R300: every scalar load of checked, unpoisoned bytes that no buffered store touches completes: the
register takes the bytes, little-endian, sign-extended or zero-extended by the form (x0 takes nothing), the pc steps on, and
no other register and no byte of memory changes. A peer's scratchpad answers later: the context waits for the reply of the
access that is then performed at the peer's port.
(2) R283, R470, R471: a load whose bytes all lie in the youngest buffered store that touches them takes them from that store,
not from memory; if the store carries poison, it traps.
(3) R307: a parameter load inside the bound reads 8 bytes at the window's base plus its offset; beyond the bound it gives
zero and sets FSTAT.pwoob; an unbound window raises PW_UNBOUND with the window's number, and an offset that is no multiple of
8 MISALIGNED. -/
def Obligations.Loads : Prop :=
  -- (1) ScalarLoads
  (
  ∀ (s : State) (d : XR) (b c : XS) (off : BitVec 16) (i : Instr) (sg : Bool) (n : Nat) (ea : Word) (ps : List Piece), s.flows →
    (i, sg, n, ea) ∈ [((.ldS8 d b off : Instr), true, 1, s.me.getS b + off.signExtend 64),
      (.ldN8 d b off, false, 1, s.me.getS b + off.signExtend 64), (.ldS16 d b off, true, 2, s.me.getS b + off.signExtend 64),
      (.ldN16 d b off, false, 2, s.me.getS b + off.signExtend 64), (.ldS32 d b off, true, 4, s.me.getS b + off.signExtend 64),
      (.ldN32 d b off, false, 4, s.me.getS b + off.signExtend 64), (.ld64 d b off, false, 8, s.me.getS b + off.signExtend 64),
      (.ldxS8 d b c, true, 1, s.me.getS b + s.me.getS c), (.ldxN8 d b c, false, 1, s.me.getS b + s.me.getS c),
      (.ldxS16 d b c, true, 2, s.me.getS b + s.me.getS c), (.ldxN16 d b c, false, 2, s.me.getS b + s.me.getS c),
      (.ldxS32 d b c, true, 4, s.me.getS b + s.me.getS c), (.ldxN32 d b c, false, 4, s.me.getS b + s.me.getS c),
      (.ldx64 d b c, false, 8, s.me.getS b + s.me.getS c)] →
    s.resolveMe .load ea.toNat n = .ok ps → s.me.armed = none → s.me.recBad = false → s.badPiece ps = none →
    bufHits s.me.buf (pieceKeys ps) = [] →
    let v := s.readKeys (pieceKeys ps)
    ∃ t, exec i s = .next t ∧ t.me.pc = BitVec.ofNat 64 s.nextPc ∧ KeepsMemory s t ∧ KeepsOthers s t ∧ KeepsV s.me t.me [] ∧
      KeepsK s.me t.me [] ∧ t.me.fstat = s.me.fstat ∧ KeepsX s.me t.me [d] ∧
      (s.atPeer ps = none → t.me.getX d =
        if d = 0 then 0 else if sg then BitVec.ofInt 64 (sext v (8 * n)) else BitVec.ofNat 64 v) ∧
      (∀ p, s.atPeer ps = some p → t.me.getX d = s.me.getX d ∧ t.me.why = some .longOp ∧
        Instr.peerAccessAtPort (spadCore p.key) (spadOff p.key) n sg false 0 s.cur d ∈ t.agenda))
  -- (2) StoreToLoadForwarding
  ∧ (
  ∀ (s : State) (d : XR) (b : XS) (off : BitVec 16) (ps qs : List Piece) (l : List BufEntry) (bs : List (Nat × Byte)) (asid : Nat)
      (left : List Nat) (rel : Option Scope) (bad : Bool), s.flows → d ≠ 0 →
    s.resolveMe .load (s.me.getS b + off.signExtend 64).toNat 8 = .ok ps →
    s.me.buf = l ++ [.store qs bs asid left rel bad] → pieceKeys ps ≠ [] → (∀ a, a ∈ pieceKeys ps → a ∈ bs.map (·.1)) →
    (bad = false → ∃ t, exec (.ld64 d b off) s = .next t ∧ t.me.getX d = BitVec.ofNat 64 (entryVal bs (pieceKeys ps)) ∧ KeepsMemory s t) ∧
    (bad = true → ∃ v, exec (.ld64 d b off) s = .next (s.trap 0x1A v)))
  -- (3) ParameterLoads
  ∧ (
  ∀ (s : State) (d : XR) (w : Fin 4) (off : BitVec 16) (ps : List Piece),
    let win := (s.core s.myCore).windows[w]
    let ea : Word := win.1 + BitVec.ofNat 64 off.toNat
    (win.2 = 0 → exec (.ldp d w off) s = .next (s.trap 0x19 (BitVec.ofNat 64 w.val))) ∧
    (win.2 ≠ 0 → off.toNat % 8 ≠ 0 → exec (.ldp d w off) s = .next (s.trap 0x10 ea)) ∧
    (s.flows → win.2 ≠ 0 → off.toNat % 8 = 0 → win.2 < off.toNat + 8 →
      exec (.ldp d w off) s = .next (s.steppedLong (s.mapMe fun c => (c.setX d 0).flag 64))) ∧
    (s.flows → off.toNat % 8 = 0 → off.toNat + 8 ≤ win.2 → s.resolveMe .load ea.toNat 8 = .ok ps → s.me.armed = none → s.me.recBad = false →
      s.badPiece ps = none → bufHits s.me.buf (pieceKeys ps) = [] →
      ∃ t, exec (.ldp d w off) s = .next t ∧ t.me.getX d = (if d = 0 then 0 else BitVec.ofNat 64 (s.readKeys (pieceKeys ps))) ∧
        KeepsMemory s t ∧ KeepsX s.me t.me [d] ∧ t.me.fstat = s.me.fstat ∧ t.me.pc = BitVec.ofNat 64 s.nextPc))

/-- (1) R283, R300: every scalar store of checked bytes into a buffer with room completes: the entry that joins the end of the
buffer names the bytes of the address that the checks gave, low byte first, the ASID it was issued under and the words it has
yet to write, and no register and no byte of memory changes until the entry is performed.
(2) R258, R280, R283, R316: STORE_BUFFER_DRAIN performs the oldest entry of a store buffer at its place, its words all at
once or one by one: each byte that it names in a word performed takes the entry's value, and every other byte, every full bit
and every register keeps its own; the entry leaves the buffer with its last word, the others stay in order. A release marker
leaves when every earlier access has been performed, and waits while one has not. -/
def Obligations.Stores : Prop :=
  -- (1) ScalarStores
  (
  ∀ (s : State) (a b c : XS) (off : BitVec 16) (i : Instr) (n : Nat) (ea : Word) (ps : List Piece), s.flows →
    (i, n, ea) ∈ [((.st8 a b off : Instr), 1, s.me.getS b + off.signExtend 64), (.st16 a b off, 2, s.me.getS b + off.signExtend 64),
      (.st32 a b off, 4, s.me.getS b + off.signExtend 64), (.st64 a b off, 8, s.me.getS b + off.signExtend 64),
      (.stx8 a b c, 1, s.me.getS b + s.me.getS c), (.stx16 a b c, 2, s.me.getS b + s.me.getS c),
      (.stx32 a b c, 4, s.me.getS b + s.me.getS c), (.stx64 a b c, 8, s.me.getS b + s.me.getS c)] →
    s.resolveMe .store ea.toNat n = .ok ps → s.badMerge ps = none → s.me.buf.length < 8 →
    ∃ t, exec i s = .next t ∧ t.me.pc = BitVec.ofNat 64 s.nextPc ∧
      t.me.buf = s.me.buf ++ [.store ps (storeBytes (pieceKeys ps) (s.me.getS a).toNat) s.me.asid.toNat
        (keyWords ((storeBytes (pieceKeys ps) (s.me.getS a).toNat).map (·.1))) s.me.rel s.me.recBad] ∧
      Instr.storeBufferDrain s.cur ∈ t.agenda ∧ KeepsMemory s t ∧ KeepsOthers s t ∧ KeepsX s.me t.me [] ∧ KeepsV s.me t.me [] ∧
      KeepsK s.me t.me [] ∧ t.me.fstat = s.me.fstat)
  -- (2) StoreBufferDrains
  ∧ (
  ∀ (s : State) (c asid : Nat) (ps : List Piece) (bs : List (Nat × Byte)) (left : List Nat) (rel : Option Scope) (bad : Bool)
      (rest : List BufEntry) (sc : Scope), s.form →
    ((s.ctx c).buf = .store ps bs asid left rel bad :: rest → left ≠ [] → (∀ w, w ∈ left → s.canPerform c asid w = true) →
      ∃ t ws, exec (.storeBufferDrain c) s = .next t ∧ ws ≠ [] ∧ (∀ w, w ∈ ws → w ∈ left) ∧
        (t.ctx c).buf = (if left.all ws.contains then rest else .store ps bs asid (left.filter (!ws.contains ·)) rel bad :: rest) ∧
        (∀ a, t.byte a = if a ∈ bs.map (·.1) ∧ wordOf a ∈ ws then entryByte bs a else s.byte a) ∧ (∀ w, t.isFull w = s.isFull w) ∧
        (t.ctx c).x = (s.ctx c).x ∧ (t.ctx c).v = (s.ctx c).v ∧ (t.ctx c).pc = (s.ctx c).pc) ∧
    ((s.ctx c).buf = .marker sc :: rest → s.quiet c sc none = true →
      ∃ t, exec (.storeBufferDrain c) s = .next t ∧ (t.ctx c).buf = rest ∧ KeepsMemory s t) ∧
    ((s.ctx c).buf = .marker sc :: rest → s.quiet c sc none = false →
      exec (.storeBufferDrain c) s = .next (s.again (.storeBufferDrain c))))

/-- (1) R91, R255, R258, R272, R300: PEER_ACCESS_AT_PORT performs an access at the peer's port: a load gives its register the
bytes at the offset, extended by the form, a store writes them. PROXY_ACCESS brings the line that its field proxy serves into
the caches. Either way, as with LONG_OP_REPLY, the reply reaches the context and it rejoins the rotation. A load of several
words may read each of them anew until its reply, which then may come later: each word has a value that it has had meanwhile.
(2) R299, R380, R471: what the checks of a scalar access refuse, each head meets without effect: a refusal traps with its
cause and the refused address, a missing translation parks the context with its pc at the head, a moving core or a saved one
holds it there, and a poisoned word read, which no buffered store touches, raises DATA_POISON. -/
def Obligations.AccessesElsewhere : Prop :=
  -- (1) AccessesAwayFromTheCore
  (
  ∀ (s : State) (k off n c va pa : Nat) (sg : Bool) (data : Word) (d : XR) (ks vas : List Nat)
      (ws : List (Nat × Nat)),
    let a := 2 ^ 52 + 2 ^ 19 * k + off
    (s.heldKey c (s.ctx c).asid.toNat .load a = false → s.badIn a n = none →
      ∃ t, exec (.peerAccessAtPort k off n sg false data c d) s = .next t ∧ KeepsMemory s t ∧
        (t.ctx c).getX d = if d = 0 then 0 else if sg then BitVec.ofInt 64 (sext (s.rdN a n) (8 * n)) else BitVec.ofNat 64 (s.rdN a n)) ∧
    (s.form → s.heldKey c (s.ctx c).asid.toNat .load a = false →
      ∃ t, exec (.peerAccessAtPort k off n sg true data c d) s = .next t ∧ t.rdN a n = data.toNat % 256 ^ n ∧
        KeepsMemoryBut s t a n) ∧
    (∀ wr, (s.ctx c).why = some .longOp → (s.ctx c).late = none →
      ∃ t, exec (.proxyAccess c va pa wr) s = .next t ∧ (t.ctx c).why = none ∧ KeepsMemory s t ∧ (t.ctx c).x = (s.ctx c).x) ∧
    ((s.ctx c).why = some .longOp → (s.ctx c).late = none →
      ∃ t, exec (.longOpReply c) s = .next t ∧ (t.ctx c).why = none ∧ s.cycle < (t.ctx c).eligFrom ∧ KeepsMemory s t ∧
        t = { s with ctxs := t.ctxs } ∧ (t.ctx c).x = (s.ctx c).x) ∧
    ((s.ctx c).why = some .longOp → (s.ctx c).late = some ⟨ks, vas, ws, .inl (d, sg)⟩ → (∀ w, w ∈ ws → s.isBad w.1 = false) →
      ∃ t, exec (.longOpReply c) s = .next t ∧ KeepsMemory s t ∧
        (((t.ctx c).why = none ∧ ∃ anew : Nat → Bool, (t.ctx c).getX d = if d = 0 then 0 else
            loadVal sg ks.length (wordsVal (ws.map fun w => (w.1, if anew w.1 then s.rdN w.1 8 else w.2)) ks)) ∨
          ((t.ctx c).why = some .longOp ∧ (t.ctx c).x = (s.ctx c).x ∧ Instr.longOpReply c ∈ t.agenda))))
  -- (2) AccessRefusals
  ∧ (
  ∀ (s : State) (d : XR) (a b c : XS) (off : BitVec 16) (i : Instr) (acc : Acc) (n : Nat) (ea : Word),
    (i, acc, n, ea) ∈ [((.ldS8 d b off : Instr), (.load : Acc), 1, s.eaOff b off), (.ldN16 d b off, .load, 2, s.eaOff b off),
      (.ldS32 d b off, .load, 4, s.eaOff b off), (.ld64 d b off, .load, 8, s.eaOff b off), (.ldx64 d b c, .load, 8, s.eaIdx b c),
      (.ldxN8 d b c, .load, 1, s.eaIdx b c), (.st8 a b off, .store, 1, s.eaOff b off), (.st16 a b off, .store, 2, s.eaOff b off),
      (.st32 a b off, .store, 4, s.eaOff b off), (.st64 a b off, .store, 8, s.eaOff b off), (.stx64 a b c, .store, 8, s.eaIdx b c)] →
    (∀ o cause va, s.resolveMe acc ea.toNat n = .trap o cause va → exec i s = .next (s.trap cause (BitVec.ofNat 64 va))) ∧
    (∀ va, s.resolveMe acc ea.toNat n = .miss va →
      ∃ t, exec i s = .next t ∧ t.me.why = some .parked ∧ t.me.pc = s.me.pc ∧ t.me.x = s.me.x ∧ t.me.epc = s.me.epc ∧ KeepsMemory s t) ∧
    (s.resolveMe acc ea.toNat n = .held →
      ∃ t, exec i s = .next t ∧ t.me.why = some .moving ∧ t.me.pc = s.me.pc ∧ t.me.x = s.me.x ∧ KeepsMemory s t) ∧
    (s.resolveMe acc ea.toNat n = .saved →
      ∃ t, exec i s = .next t ∧ t.me.why = some .saved ∧ t.me.pc = s.me.pc ∧ t.me.x = s.me.x ∧ KeepsMemory s t) ∧
    (∀ ps p, acc = .load → s.resolveMe acc ea.toNat n = .ok ps → s.me.armed = none → s.me.recBad = false →
      bufHits s.me.buf (pieceKeys ps) = [] → s.badPiece ps = some p →
      exec i s = .next (s.trap 0x1A (BitVec.ofNat 64 p))))

/-- (1) R305, R306: a vector load of checked bytes writes its active lanes from their own addresses (contiguous, base plus a byte
stride for each lane, or base plus a signed index times the lane size) and keeps the others; a vector store puts its active
lanes in ascending order into one buffer entry. No byte of memory changes yet.
(2) R308, R309: prefetches and cache maintenance complete as long ops without a register effect and change no byte of memory.
At a window address they do nothing but that; a prefetch whose translation fails is dropped. CCLEAN and CFLUSH wait while a
slice of the line, its home's or its field's proxy's, is shut down (R491). IFLUSH drops the named line from the core's
instruction cache, CFLUSH the named line from its data cache. -/
def Obligations.VectorMemoryAndCache : Prop :=
  -- (1) VectorMemory
  (
  ∀ (s : State) (t : ElemT) (d : VR) (b c : XS) (x : VR) (off : BitVec 16) (m : KR) (ld st : Instr) (step : Nat → Int) (ps qs : List Piece),
    s.flows → t.isLane = true →
    let n := t.width / 8
    let base : Word := s.me.getS b + off.signExtend 64
    let on : List Nat := (List.range (32 / n)).filter (s.me.getK m).getLsbD
    let at_ (i : Nat) : Nat := (((base.toNat : Int) + step i) % ((2 ^ 64 : Nat) : Int)).toNat
    (ld, st, step) ∈ [((.vld t d b off m : Instr), (.vst t d b off m : Instr), (fun i => ((i * n : Nat) : Int))),
      (.vlds t d b c off m, .vsts t d b c off m, (fun i => (i : Int) * (s.me.getS c).toInt)),
      (.vldg t d b x off m, .vstg t d b x off m, (fun i => sext (lane (s.me.getV x) t.width i) t.width * (n : Int)))] →
    (on.foldl (fun r i => joinLanes r (s.laneBad .load (s.resolveMe .load (at_ i) n))) (.ok []) = .ok ps → s.me.armed = none → s.me.recBad = false → s.badPiece ps = none →
      bufHits s.me.buf (pieceKeys ps) = [] →
      ∃ u, exec ld s = .next u ∧ KeepsMemory s u ∧ KeepsV s.me u.me [d] ∧ KeepsX s.me u.me [] ∧ KeepsK s.me u.me [] ∧
        u.me.fstat = s.me.fstat ∧ u.me.pc = BitVec.ofNat 64 s.nextPc ∧ KeepsOthers s u ∧
        ∀ i, i < 32 / n → lane (u.me.getV d) t.width i = if d = .vz then 0 else
          if (s.me.getK m).getLsbD i then elem (s.readKeys (pieceKeys ps)) t.width (on.filter (· < i)).length
          else lane (s.me.getV d) t.width i) ∧
    (on.foldl (fun r i => joinLanes r (s.laneBad .store (s.resolveMe .store (at_ i) n))) (.ok []) = .ok qs → s.badMerge qs = none → s.me.buf.length < 8 →
      let bs := storeBytes (pieceKeys qs) (ofElems t.width (on.map fun i => lane (s.me.getV d) t.width i))
      ∃ u, exec st s = .next u ∧ KeepsMemory s u ∧ KeepsV s.me u.me [] ∧ KeepsX s.me u.me [] ∧ u.me.pc = BitVec.ofNat 64 s.nextPc ∧
        u.me.buf = s.me.buf ++ [.store qs bs s.me.asid.toNat (keyWords (bs.map (·.1))) s.me.rel s.me.recBad]))
  -- (2) CacheForms
  ∧ (
  ∀ (s : State) (b : XS) (off : BitVec 16) (i : Instr), s.flows →
    let ea : Word := s.me.getS b + off.signExtend 64
    i ∈ [.prefL1 b off, .prefSl b off, .cclean b off, .cflush b off, .iflush b off] →
    (inWindow ea.toNat = true → exec i s = .next (s.steppedLong s)) ∧
    (∀ va, inWindow ea.toNat = false → s.resolveMe .load ea.toNat 1 = .miss va → i ∈ [.prefL1 b off, .prefSl b off] →
      exec i s = .next (s.steppedLong s)) ∧
    (∀ p, inWindow ea.toNat = false → s.resolveMe .load ea.toNat 1 = .ok [p] → s.me.buf = [] →
      (∀ h, s.homeKey p.key = some h → s.sliceShut (bankCluster h) = false ∧ s.sliceShut (bankCluster (proxyBank (fieldOf s.myCore) h)) = false) →
      ∃ t, exec i s = .next t ∧ KeepsMemory s t ∧ KeepsOthers s t ∧ t.me.x = s.me.x ∧ t.me.v = s.me.v ∧ t.me.k = s.me.k ∧
        t.me.fstat = s.me.fstat ∧ t.me.pc = BitVec.ofNat 64 s.nextPc ∧ t.me.why = some .longOp ∧
        (i = .iflush b off → ∀ l, l ∈ (t.core s.myCore).l1i → ¬ (l.asid = s.me.asid.toNat ∧ l.va = ea.toNat / 64 * 64)) ∧
        (i = .cflush b off → isCarve p.key = false → ∀ l, l ∈ (t.core s.myCore).l1d → l.pa ≠ p.key / 64 * 64)))

/-- (1) R301 to R304: a full/empty form on its own scratchpad whose condition holds, with nobody waiting for the word, completes
at once: LD.FE and LD.FC need a full word and return it, LD.FC leaves it empty; ST.EF needs an empty word, ST.F none; both
store and leave it full. Else the form waits at the port with its pc at the head, and a form that has been answered there, on
whatever scratchpad, ends with the value it was given.
(2) R303: FULL_EMPTY_AT_PORT. A form that arrives at the port of a word whose condition does not hold joins the end of the
wait list and changes nothing else; one whose condition holds, with nobody waiting for the word, is performed and its context
given the word's value. -/
def Obligations.FullEmpty : Prop :=
  -- (1) FullEmptyForms
  (
  ∀ (s : State) (d : XR) (a b : XS) (off : BitVec 16) (o : Nat) (v : Word), s.form → s.flows →
    (s.me.got = some v →
      (∀ i, i ∈ [.ldFe d b off, .ldFc d b off] → ∃ t, exec i s = .next t ∧ t.me.getX d = (if d = 0 then 0 else v) ∧ t.me.got = none ∧
        KeepsMemory s t ∧ t.me.pc = BitVec.ofNat 64 s.nextPc) ∧
      (∀ i, i ∈ [.stEf a b off, .stF a b off] → ∃ t, exec i s = .next t ∧ t.me.x = s.me.x ∧ t.me.got = none ∧ t.me.rel = some .cluster ∧
        KeepsMemory s t ∧ t.me.pc = BitVec.ofNat 64 s.nextPc)) ∧
    (s.me.got = none → s.me.buf = [] → s.cellsOut s.cur = false → s.me.armed = none → s.me.recBad = false →
    s.me.getS b + off.signExtend 64 = BitVec.ofNat 64 (0x00F0000002000000 + o) → o % 8 = 0 → o < 2 ^ 19 →
    let w := 2 ^ 52 + 2 ^ 19 * (s.cur / 16) + o
    s.isBad w = false → s.inRange w = false → (∀ q, q ∈ (s.core s.myCore).feq → q.loc ≠ w) →
    (s.isFull w = true →
      (∃ t, exec (.ldFe d b off) s = .next t ∧ t.me.getX d = (if d = 0 then 0 else s.rd64 w) ∧ KeepsMemory s t ∧
        t.me.pc = BitVec.ofNat 64 s.nextPc) ∧
      (∃ t, exec (.ldFc d b off) s = .next t ∧ t.me.getX d = (if d = 0 then 0 else s.rd64 w) ∧ t.isFull w = false ∧
        (∀ q, q ≠ w → t.isFull q = s.isFull q) ∧ (∀ q, t.byte q = s.byte q) ∧ t.me.pc = BitVec.ofNat 64 s.nextPc) ∧
      (∃ t, exec (.stEf a b off) s = .next t ∧ t.me.pc = s.me.pc ∧ t.me.why = some (.fullEmpty s.myCore) ∧ KeepsMemory s t)) ∧
    (s.isFull w = false →
      (∃ t, exec (.stEf a b off) s = .next t ∧ t.rd64 w = s.me.getS a ∧ t.isFull w = true ∧ (∀ q, q ≠ w → t.isFull q = s.isFull q) ∧
        (∀ q, q < w ∨ w + 8 ≤ q → t.byte q = s.byte q) ∧ t.me.pc = BitVec.ofNat 64 s.nextPc) ∧
      (∀ i, i ∈ [.ldFe d b off, .ldFc d b off] →
        ∃ t, exec i s = .next t ∧ t.me.pc = s.me.pc ∧ t.me.why = some (.fullEmpty s.myCore) ∧ KeepsMemory s t)) ∧
    (∃ t, exec (.stF a b off) s = .next t ∧ t.rd64 w = s.me.getS a ∧ t.isFull w = true ∧ (∀ q, q ≠ w → t.isFull q = s.isFull q) ∧
      (∀ q, q < w ∨ w + 8 ≤ q → t.byte q = s.byte q) ∧ t.me.pc = BitVec.ofNat 64 s.nextPc)))
  -- (2) FullEmptyAtThePort
  ∧ (
  ∀ (s : State) (c w : Nat) (op : FeOp) (d : XR) (data : Word), s.form → (s.ctx c).why = some (.fullEmpty (spadCore w)) → (s.ctx c).taken = false →
    s.heldKey c (s.ctx c).asid.toNat .load w = false → s.inRange w = false → s.isBad w = false → w % 8 = 0 →
    (∀ q, q ∈ (s.core (spadCore w)).feq → q.loc ≠ w ∧ q.ctx ≠ c) →
    let l := (s.core (spadCore w)).feq
    (s.feReady op w = false → ∃ t, exec (.fullEmptyAtPort c op w d data) s = .next t ∧
      (t.core (spadCore w)).feq = l ++ [⟨c, op, w, d, data⟩] ∧ t.ctx c = { s.ctx c with held := false } ∧ KeepsMemory s t) ∧
    (s.feReady op w = true → ∃ t, exec (.fullEmptyAtPort c op w d data) s = .next t ∧ (t.core (spadCore w)).feq = l ∧
      (t.ctx c).why = none ∧ (t.ctx c).x = (s.ctx c).x ∧
      (op = .fe → (t.ctx c).got = some (s.rd64 w) ∧ KeepsMemory s t) ∧
      (op = .fc → (t.ctx c).got = some (s.rd64 w) ∧ t.isFull w = false ∧ (∀ q, t.byte q = s.byte q)) ∧
      (op = .ef ∨ op = .f → t.rd64 w = data ∧ t.isFull w = true ∧ (∀ q, q < w ∨ w + 8 ≤ q → t.byte q = s.byte q))))

/-- (1) R310 to R313: every atomic whose checks pass and whose stores have drained, and behind whose release every earlier access
has been performed, is sent with its operands, and its context waits for the reply; a misaligned one raises MISALIGNED.
(2) R311, R312, R470: an atomic is one step at its place, ATOMIC_AT_PLACE: the 4 or 8 bytes there become what its operation
makes of the old value and its operands, CAS only where the old value equals its comparand, and no other byte and no full bit
changes; its register takes the old value, sign-extended, and its context rejoins. Poisoned data is not changed: the head
that sent the atomic traps. -/
def Obligations.Atomics : Prop :=
  -- (1) AtomicsAreSent
  (
  ∀ (s : State) (d : XR) (a b c e : XS) (o : Ord) (sc : Scope) (w : Bool) (i : Instr) (op : AmoOp) (x y : Word) (r : Option XR)
      (p : Piece),
    let ea := s.me.getS b
    let n := if w then 8 else 4
    (i, op, x, y, r) ∈ [((.amoAdd o sc w d b c : Instr), (.add : AmoOp), s.me.getS c, (0 : Word), some d),
      (.amoAnd o sc w d b c, .and, s.me.getS c, 0, some d), (.amoOr o sc w d b c, .or, s.me.getS c, 0, some d),
      (.amoXor o sc w d b c, .xor, s.me.getS c, 0, some d), (.amoMin o sc w d b c, .min, s.me.getS c, 0, some d),
      (.amoMax o sc w d b c, .max, s.me.getS c, 0, some d), (.amoMinn o sc w d b c, .minn, s.me.getS c, 0, some d),
      (.amoMaxn o sc w d b c, .maxn, s.me.getS c, 0, some d), (.amoSwap o sc w d b c, .swap, s.me.getS c, 0, some d),
      (.amoCas o sc w d b c e, .cas, s.me.getS c, s.me.getS e, some d), (.redAdd o sc w a b, .add, s.me.getS a, 0, none),
      (.redAnd o sc w a b, .and, s.me.getS a, 0, none), (.redOr o sc w a b, .or, s.me.getS a, 0, none),
      (.redXor o sc w a b, .xor, s.me.getS a, 0, none), (.redMin o sc w a b, .min, s.me.getS a, 0, none),
      (.redMax o sc w a b, .max, s.me.getS a, 0, none), (.redMinn o sc w a b, .minn, s.me.getS a, 0, none),
      (.redMaxn o sc w a b, .maxn, s.me.getS a, 0, none)] →
    (ea.toNat % n ≠ 0 → exec i s = .next (s.trap 0x10 ea)) ∧
    (s.flows → ea.toNat % n = 0 → s.resolveMe .atomic ea.toNat n = .ok [p] → 0 < p.len →
      (isHost p.key = true → s.amoHost op p.key = true) →
      s.me.buf = [] → (o = .rel ∨ o = .ar → s.quiet s.cur sc none = true) → s.me.armed = none → s.me.recBad = false →
      s.badPiece [p] = none →
      ∃ t, exec i s = .next t ∧ Instr.atomicAtPlace op w o sc p.key x y s.cur r ∈ t.agenda ∧ t.me.why = some .longOp ∧
        t.me.pc = BitVec.ofNat 64 s.nextPc ∧ KeepsMemory s t ∧ KeepsX s.me t.me [] ∧ KeepsV s.me t.me [] ∧ t.me.fstat = s.me.fstat))
  -- (2) AtomicsAtTheirPlace
  ∧ (
  ∀ (s : State) (op : AmoOp) (w : Bool) (o : Ord) (sc : Scope) (loc x : Nat) (c e : Word) (d : XR), s.form →
    s.heldKey x (s.ctx x).asid.toNat .atomic loc = false → s.inRange loc = false →
    let n := if w then 8 else 4
    let q : Nat := 256 ^ n
    let old := s.rdN loc n
    let u := c.toNat % q
    let sg (v : Nat) : Int := if 2 * v < q then (v : Int) else (v : Int) - (q : Int)
    let new : Nat :=
      match op with
      | .add => (old + u) % q
      | .and => old &&& u
      | .or => old ||| u
      | .xor => old ^^^ u
      | .min => if sg u < sg old then u else old
      | .max => if sg old < sg u then u else old
      | .minn => min old u
      | .maxn => max old u
      | .swap => u
      | .cas => if old = u then e.toNat % q else old
    (∀ r, s.isBad loc = true → exec (.atomicAtPlace op w o sc loc c e x r) s =
      .next (s.lateTrap x 0x1A (BitVec.ofNat 64 (((s.ctx x).fill.map fun f => f.va + loc - f.key).getD 0)))) ∧
    (s.isBad loc = false → ∃ t, exec (.atomicAtPlace op w o sc loc c e x (some d)) s = .next t ∧ t.rdN loc n = new ∧ KeepsMemoryBut s t loc n ∧
      (t.ctx x).getX d = (if d = 0 then 0 else BitVec.ofInt 64 (sg old)) ∧ (∀ y, y ≠ d → (t.ctx x).getX y = (s.ctx x).getX y)) ∧
    (s.isBad loc = false → ∃ t, exec (.atomicAtPlace op w o sc loc c e x none) s = .next t ∧ t.rdN loc n = new ∧ KeepsMemoryBut s t loc n ∧
      (t.ctx x).x = (s.ctx x).x))

/-- (1) R288, R289, R315, R316: the fences complete: a release puts its marker behind the buffered stores and marks the stores
after it, FENCE.ACQ and FENCE.SC are long ops, and FENCE.SC goes on only over an empty buffer and when every earlier access
of its context has been performed, engine commands included, and else waits. A fence writes no register, no flag and no byte
of memory.
(2) R292, R317: the flagged fence writes its flag, 8 bytes at its address, after every earlier access of its context, and
carries a release; towards another package it sends a marker with the flag, the number of its context's sequence and the
flits of it that are under way, and begins a new sequence; it carries the partitions of both ends. A misaligned flag raises
MISALIGNED, one in host memory MEM_RANGE. -/
def Obligations.FencesComplete : Prop :=
  -- (1) Fences
  (
  ∀ (s : State) (sc : Scope), s.flows → s.me.buf = [] →
    (∃ t, exec (.fenceAcq sc) s = .next t ∧ t.me.why = some .longOp ∧ t.me.buf = [] ∧ t.me.reads = [] ∧ t.me.x = s.me.x ∧
      t.me.fstat = s.me.fstat ∧ KeepsMemory s t ∧ t.me.pc = BitVec.ofNat 64 s.nextPc) ∧
    (∃ t, exec (.fenceRel sc) s = .next t ∧ t.me.why = s.me.why ∧ t.me.buf = [.marker sc] ∧ t.me.rel = some sc ∧ t.me.x = s.me.x ∧
      t.me.fstat = s.me.fstat ∧ KeepsMemory s t ∧ t.me.pc = BitVec.ofNat 64 s.nextPc) ∧
    (∃ t, exec (.fenceAr sc) s = .next t ∧ t.me.why = some .longOp ∧ t.me.buf = [.marker sc] ∧ t.me.rel = some sc ∧
      t.me.reads = [] ∧ t.me.x = s.me.x ∧ KeepsMemory s t ∧ t.me.pc = BitVec.ofNat 64 s.nextPc) ∧
    (s.quiet s.cur sc none = false → ∃ t, exec (.fenceSc sc) s = .next t ∧ t.me.why = some (.order sc none) ∧ t.me.pc = s.me.pc ∧ t.me.x = s.me.x ∧
      KeepsMemory s t) ∧
    (s.quiet s.cur sc none = true → ∃ t, exec (.fenceSc sc) s = .next t ∧ t.me.why = some .longOp ∧ t.me.buf = [] ∧ t.me.rel = some sc ∧ t.me.reads = [] ∧
      t.me.x = s.me.x ∧ KeepsMemory s t ∧ t.me.pc = BitVec.ofNat 64 s.nextPc))
  -- (2) FlaggedFence
  ∧ (
  ∀ (s : State) (sc : Scope) (a b : XS) (p : Piece), s.form →
    let ea := s.me.getS b
    let q := paPkg p.key
    (ea.toNat % 8 ≠ 0 → exec (.fflag sc a b) s = .next (s.trap 0x10 ea)) ∧
    (ea.toNat % 8 = 0 → s.resolveMe .store ea.toNat 8 = .ok [p] → 0 < p.len →
      (isHost p.key = true → exec (.fflag sc a b) s = .next (s.trap 0x14 ea)) ∧
      (s.flows → isHost p.key = false → isRemote p.key = false → s.me.buf = [] → s.quiet s.cur sc none = true →
        s.heldKey s.cur s.me.asid.toNat .atomic p.key = false → s.inRange p.key = false →
        ∃ t, exec (.fflag sc a b) s = .next t ∧ t.rd64 p.key = s.me.getS a ∧ KeepsMemoryBut s t p.key 8 ∧ t.me.why = some .longOp ∧
          t.me.x = s.me.x ∧ t.me.rel = some sc ∧ t.me.pc = BitVec.ofNat 64 s.nextPc) ∧
      (s.flows → isHost p.key = false → isRemote p.key = true → s.me.buf = [] → s.quiet s.cur sc (some q) = true →
        ∃ t, exec (.fflag sc a b) s = .next t ∧ KeepsMemory s t ∧ t.me.why = some .longOp ∧ t.me.x = s.me.x ∧ t.me.rel = some sc ∧
          t.outFlits = s.outFlits ++ [⟨s.flitSeq, q, s.cur, .marker p.key (s.me.getS a) (s.me.seqOf q) (s.seqFlits s.cur q) (s.flitParts s.cur q), none, false⟩] ∧
          t.me.seqOf q = s.me.seqOf q + 1 ∧ t.me.pc = BitVec.ofNat 64 s.nextPc)))

/-! ## Cells, sluices, waits and messages (R236 to R252, R318 to R343) -/

/-- (1) R242 to R248: a cell form on an aligned CELL page whose checks pass is sent to the cell's home with its operands, and
with the ASID and the release that it issued under, and its context waits; the element of CADD and CADDV is the source's low
bits, one operation for each active lane of the low 8, in lane order; CADDV with no active lane only leaves the rotation for
8 cycles. An address that is not 64-byte aligned on a CELL page raises CELL_ACCESS, and a poisoned cell DATA_POISON with its
address.
(2) R236 to R239, R242, R243, R245 to R249: CELL_OPERATION_AT_HOME. The home accepts an addition or a clear, which ends its
form, and performs it in one step then or later, once it has accepted the whole form; a read it performs at once. An addition
changes value, state, count and overflow as cell_add does; CLD delivers the value rounded once with the FCTX it captured,
CSTAT the count, the state and the overflow, and both leave every byte alone; other bytes and the full bits stay under each.
A line that is poisoned when the operation comes to it makes the form trap, with none of its operations. -/
def Obligations.CellForms : Prop :=
  -- (1) CellFormsAreSent
  (
  ∀ (s : State) (t : ElemT) (d : XR) (a b c : XS) (v : VR) (m : KR) (pa : Nat) (ps : List Piece), s.flows →
    let va := (s.me.getS b).toNat
    let who (va : Nat) : CellSend := ⟨s.cur, false, s.me.asid.toNat, va, s.me.rel, s.cycle⟩
    let acc (i : Instr) : Acc := if i = .cld t d b ∨ i = .cstat d b ∨ i = .cldx v b then .load else .store
    let on : List Nat := (List.range 8).filter (s.me.getK m).getLsbD
    (∀ i op, (i, op) ∈ [((.cadd t a b : Instr), CellOp.add t (BitVec.ofNat 64 ((s.me.getS a).toNat % 2 ^ t.width))), (.cclr b, .clear),
        (.cld t d b, .ld t d s.me.fctx), (.cstat d b, .stat d), (.cldx v b, .ldx v)] →
      (i = .cld t d b → rmodeOf s.me.fctx < 6) → (i = .cldx v b → s.me.sys = true) →
      s.resolveCell (acc i) va = .ok [⟨va, pa, 64, true, none⟩] → s.me.armed = none → s.me.recBad = false →
      (s.badIn pa 64 = none → s.me.buf = [] →
        ∃ u, exec i s = .next u ∧ u.agenda = s.agenda ++ [.cellOperationAtHome op pa (who va)] ∧ u.me.why = some .longOp ∧
          u.me.x = s.me.x ∧ u.me.pc = BitVec.ofNat 64 s.nextPc ∧ KeepsMemory s u) ∧
      (∀ p, s.badIn pa 64 = some p → exec i s = .next (s.trap 0x1A (s.me.getS b)))) ∧
    (on = [] → exec (.caddv t v b c m) s = .next (s.steppedFor s 8)) ∧
    (on ≠ [] →
      on.foldl (fun r i => joinLanes r (s.checkCell .store (s.me.getS b + BitVec.ofNat 64 i * s.me.getS c).toNat)) (.ok []) = .ok ps →
      s.me.armed = none → s.me.recBad = false → s.badPiece ps = none → s.me.buf = [] →
      ∃ u, exec (.caddv t v b c m) s = .next u ∧
        u.agenda = s.agenda ++ (ps.zip on).map (fun x =>
          .cellOperationAtHome (.add t (BitVec.ofNat 64 (lane (s.me.getV v) t.width x.2))) x.1.key (who x.1.va)) ∧
        u.me.why = some .longOp ∧ u.me.x = s.me.x ∧ u.me.pc = BitVec.ofNat 64 s.nextPc ∧ KeepsMemory s u) ∧
    (inWindow va = true → exec (.cadd t a b) s = .next (s.trap 0x17 (s.me.getS b)) ∧ exec (.cclr b) s = .next (s.trap 0x17 (s.me.getS b)) ∧
      exec (.cstat d b) s = .next (s.trap 0x17 (s.me.getS b))))
  -- (2) CellOperations
  ∧ (
  ∀ (s : State) (pa : Nat) (who : CellSend) (t : ElemT) (b f : Word) (d : XR), s.form →
    let c := who.ctx
    let sent : CellSend := { who with accepted := false }
    let taken : CellSend := { who with accepted := true }
    s.heldKey c who.asid .cell pa = false →
    let old := cellOf (s.cellNow pa)
    (∀ op, op ∈ [.add t b, .clear] → s.badIn pa 64 = none → ∃ u, exec (.cellOperationAtHome op pa sent) s = .next u ∧
      Instr.cellOperationAtHome op pa taken ∈ u.agenda ∧ KeepsMemory s u ∧ (u.ctx c).x = (s.ctx c).x ∧
      (s.agenda.any (isCellOp c false) = false → (s.ctx c).why = some .longOp → (u.ctx c).why = none)) ∧
    (∀ op a, s.badIn pa 64 = some a → exec (.cellOperationAtHome op pa sent) s =
      .next (({ s with agenda := s.agenda.filter fun e => !ofForm who e } : State).lateTrap c 0x1A (BitVec.ofNat 64 who.va))) ∧
    (s.agenda.any (isCellOp c false) = false →
      ∃ u, exec (.cellOperationAtHome (.add t b) pa taken) s = .next u ∧ u.rdN pa 64 = cellBytes (cellAdd old t b.toNat) % 256 ^ 64 ∧
      KeepsMemoryBut s u pa 64 ∧ (u.ctx c).x = (s.ctx c).x) ∧
    (s.badIn pa 64 = none → ∃ u, exec (.cellOperationAtHome (.ld t d f) pa sent) s = .next u ∧ KeepsMemory s u ∧
      (u.ctx c).getX d = (if d = 0 then 0 else BitVec.ofNat 64 (cellRead old t (envOf f)).1) ∧
      (u.ctx c).fstat = (s.ctx c).fstat ||| (cellRead old t (envOf f)).2) ∧
    (s.badIn pa 64 = none → ∃ u, exec (.cellOperationAtHome (.stat d) pa sent) s = .next u ∧ KeepsMemory s u ∧ (u.ctx c).fstat = (s.ctx c).fstat ∧
      (u.ctx c).getX d = if d = 0 then 0 else BitVec.ofNat 64 (old.count + old.state * 2 ^ 32 + if old.ovf then 2 ^ 40 else 0)))

/-- R246: CCLR sets all 64 bytes of the cell to zero in one step at the home, once the home has accepted it, and writes no
register, neither then nor when it is accepted. -/
def Obligations.CellClear : Prop :=
  ∀ (s : State) (pa : Nat) (who : CellSend), s.form → s.heldKey who.ctx who.asid .cell pa = false → s.badIn pa 64 = none →
    (s.agenda.any (isCellOp who.ctx false) = false →
      ∃ t, exec (.cellOperationAtHome .clear pa { who with accepted := true }) s = .next t ∧ (∀ i, i < 64 → t.byte (pa + i) = 0) ∧
        (∀ a, a < pa ∨ pa + 64 ≤ a → t.byte a = s.byte a)) ∧
    ∃ t, exec (.cellOperationAtHome .clear pa who) s = .next t ∧
      ∀ j, (t.ctx j).x = (s.ctx j).x ∧ (t.ctx j).v = (s.ctx j).v ∧ (t.ctx j).k = (s.ctx j).k ∧ (t.ctx j).fstat = (s.ctx j).fstat

/-- R248: CLDX writes bytes 0 to 31 of the cell into vd and bytes 32 to 63 into the next register of the group, byte k in bits
[8k + 7:8k]; it sets no flag, and reads the cell in one step at the home. vz takes neither half. The cell's bytes are those
of memory once it has been written, and zeros before that (the model's reading, log entry 66). -/
def Obligations.CellReadWhole : Prop :=
  ∀ (s : State) (pa : Nat) (who : CellSend) (n : Fin 8), s.badIn pa 64 = none → s.heldKey who.ctx who.asid .cell pa = false →
    let c := who.ctx
    let sent : CellSend := { who with accepted := false }
    let lo : Fin 16 := ⟨2 * n.val, by omega⟩
    let hi : Fin 16 := ⟨2 * n.val + 1, by omega⟩
    let cell (k : Nat) : Byte := BitVec.ofNat 8 (s.cellNow pa / 256 ^ k)
    (s.cells.contains pa = false → ∀ k, cell k = 0) ∧
    (s.cells.contains pa = true → cellBytes (cellOf (s.rdN pa 64)) = s.rdN pa 64 → ∀ k, k < 64 → cell k = s.byte (pa + k)) ∧
    (∃ t, exec (.cellOperationAtHome (.ldx (.v lo)) pa sent) s = .next t ∧ KeepsMemory s t ∧ (t.ctx c).fstat = (s.ctx c).fstat ∧
      (∀ k, k < 32 → ((t.ctx c).getV (.v lo)).extractLsb' (8 * k) 8 = cell k) ∧
      (∀ k, k < 32 → ((t.ctx c).getV (.v hi)).extractLsb' (8 * k) 8 = cell (32 + k)) ∧
      (∀ r, r ≠ .v lo → r ≠ .v hi → (t.ctx c).getV r = (s.ctx c).getV r) ∧ (t.ctx c).x = (s.ctx c).x) ∧
    ∃ u, exec (.cellOperationAtHome (.ldx .vz) pa sent) s = .next u ∧ KeepsMemory s u ∧ (u.ctx c).v = (s.ctx c).v ∧ (u.ctx c).x = (s.ctx c).x

/-- (1) R323, R326, R327: the sluice forms of a channel that the core's live launch owns. A member that has not arrived in the
open phase arrives in it and gets the phase number; one that has, and stays in its core's mask, waits for the next, and any
other raises SLUICE_ACCESS; BTEST tells the phase, membership, arrival and the lost bit without waiting; BWT goes on when the
phase it names is complete and else waits. An unowned channel raises SLUICE_ACCESS with its number.
(2) R321, R322, R324, R326: how a phase completes. SLUICE_ARRIVAL_COUNT counts an arrival once the accesses before it are
performed, and waits while they are not. SLUICE_RELAY takes the report of a field whose members have all been counted to the
root, which completes the phase with the last of them. SLUICE_COMPLETION_SEEN opens the next phase at the cores of a field,
with nobody of the old one arrived.
(3) R330 to R332: WAITV and the notifies are checked as loads, raise MISALIGNED and, for a word of another package or of the
host, WAIT_REMOTE, and go to the home of their word; a WAITV that has been answered there ends with its word, an acquire and
a long op.
(4) R331 to R333, R395: WAITV_AT_HOME, SYNC_AT_HOME, NOTIFY_AT_HOME and WAIT_TABLE_ENTRY_GRANT. At the home of a word with a
free entry that nobody waits for, WAITV sleeps behind every earlier sleeper while its masked bits match (.eq) or do not match
(.ne), and else returns the word; SYNC returns on zero and else sleeps. A notify wakes the oldest sleeper on the 8 bytes, or
all of them, and answers how many. A form that waits for an entry makes its test when one is free. -/
def Obligations.SluicesAndWaits : Prop :=
  -- (1) SluiceForms
  (
  ∀ (s : State) (ch : Fin 16) (d : XR) (a : XS) (l : Nat), (s.core s.myCore).launch = some l →
    let g := s.group l ch.val
    let p := g.view s.myCore
    let q := (s.me.getS a).toNat % 2 ^ 16
    let after := (p + 2 ^ 16 - q) % 2 ^ 16
    ((s.launch l).live = true → (s.launch l).owns ch.val = true → s.flows →
      (g.member s.cur = true → g.hasArrived s.cur p = false → ∀ i, i ∈ [.arv ch d, .arvRlx ch d, .arvd ch d] →
        ∃ t, exec i s = .next t ∧ t.me.getX d = (if d = 0 then 0 else BitVec.ofNat 64 p) ∧ t.me.pc = BitVec.ofNat 64 s.nextPc ∧
          (t.group l ch.val).arrived = g.arrived ++ [(s.cur, p)] ∧
          (t.group l ch.val).drops = (if i = .arvd ch d then g.drops ++ [s.cur] else g.drops) ∧ KeepsMemory s t) ∧
      (g.member s.cur = false ∨ g.hasArrived s.cur p = true → ∀ i, i ∈ [.arv ch d, .arvRlx ch d, .arvd ch d] →
        exec i s = if (sgMask (s.core s.myCore).sgmask ch.val).testBit (ctxNo s.cur) ∧ s.cur ∉ g.drops then .next (s.park .arrive)
          else .next (s.trap 0x20 (BitVec.ofNat 64 (0x100 + ch.val)))) ∧
      (1 ≤ after → after ≤ 32768 → ∃ t, exec (.bwt ch a) s = .next t ∧ t.me.pc = BitVec.ofNat 64 s.nextPc ∧ t.me.x = s.me.x ∧ KeepsMemory s t) ∧
      (after = 0 ∨ 32768 < after → exec (.bwt ch a) s = .next (s.park .sluice)) ∧
      exec (.btest ch d) s = .next (s.wroteX d (BitVec.ofNat 64 (p + (if g.member s.cur then 2 ^ 16 else 0) +
        (if g.counted s.cur p then 2 ^ 17 else 0) + (if g.lost then 2 ^ 18 else 0))))) ∧
    ((s.launch l).live = false ∨ (s.launch l).owns ch.val = false → ∀ i, i ∈ [.arv ch d, .arvRlx ch d, .arvd ch d, .bwt ch a, .btest ch d] →
      exec i s = .next (s.trap 0x20 (BitVec.ofNat 64 ch.val))))
  -- (2) SluicePhases
  ∧ (
  ∀ (s : State) (c l ch p upto f : Nat) (cmds : List (Nat × Nat)),
    let g := s.group l ch
    let last : Bool := (setFields (s.launch l).cores).all fun n => n == f || g.reported.contains n
    (g.uncounted.contains c = true → g.hasArrived c p = true →
      ((s.ctx c).drains + 1 < upto ∨ (0 < upto ∧ s.cellsOut c = true) ∨ (∃ k, k ∈ cmds ∧ k ∈ s.cmdIds c) →
        exec (.sluiceArrivalCount (l, c) ch p (upto, cmds)) s = .next (s.again (.sluiceArrivalCount (l, c) ch p (upto, cmds)))) ∧
      (upto ≤ (s.ctx c).drains + 1 → (upto = 0 ∨ s.cellsOut c = false) → (∀ k, k ∈ cmds → k ∉ s.cmdIds c) →
        ∃ t, exec (.sluiceArrivalCount (l, c) ch p (upto, cmds)) s = .next t ∧ (t.group l ch).uncounted.contains c = false ∧ KeepsMemory s t)) ∧
    ((s.launch l).live = true → tget g.views f 0 = g.tree → g.reported.contains f = false → g.fieldDone (s.launch l).cores f = true →
      (∀ n, n ∈ (s.launch l).cores → fieldOf n = f → tget g.openedAt n (s.cycle + 1) ≠ s.cycle) →
      (last = false → ∃ t, exec (.sluiceRelay l ch f) s = .next t ∧ (t.group l ch).reported = g.reported ++ [f] ∧ KeepsMemory s t) ∧
      (last = true → (∃ n, n ∈ (s.launch l).cores ∧ tget g.parts n 0 ≠ 0) → ∃ t, exec (.sluiceRelay l ch f) s = .next t ∧
        (t.group l ch).reported = [] ∧ (t.group l ch).tree = (g.tree + 1) % 2 ^ 16 ∧ KeepsMemory s t)) ∧
    ((s.launch l).live = true → tget g.views f 0 ≠ g.tree →
      ∃ t, exec (.sluiceCompletionSeen l ch f) s = .next t ∧ tget (t.group l ch).views f 0 = g.tree ∧
        (∀ j, fieldOf (coreOf j) = f → (t.group l ch).hasArrived j (tget g.views f 0) = false) ∧ KeepsMemory s t))
  -- (3) WaitAndNotifyAreSent
  ∧ (
  ∀ (s : State) (ne w all : Bool) (sc : Scope) (d : XR) (b c e : XS) (p : Piece) (v : Word), s.flows →
    let ea := s.me.getS b
    let n := if w then 8 else 4
    let ntf : Instr := if all then .ntfa sc d b else .ntf1 sc d b
    (s.me.got = none →
      (ea.toNat % n ≠ 0 → exec (.waitv ne sc w d b c e) s = .next (s.trap 0x10 ea)) ∧
      (ea.toNat % n = 0 → s.resolveMe .load ea.toNat n = .ok [p] → 0 < p.len → s.me.buf = [] → s.me.armed = none → s.me.recBad = false →
        s.badPiece [p] = none →
        (isRemote p.key = true ∨ isHost p.key = true → exec (.waitv ne sc w d b c e) s = .next (s.trap 0x21 ea)) ∧
        (isRemote p.key = false → isHost p.key = false → ∃ t, exec (.waitv ne sc w d b c e) s = .next t ∧ t.me.why = some .sleep ∧
          t.me.pc = s.me.pc ∧ Instr.waitvAtHome s.cur p.key w ne (s.me.getS c) (s.me.getS e) ∈ t.agenda ∧ KeepsMemory s t))) ∧
    (s.me.got = some v → ∃ t, exec (.waitv ne sc w d b c e) s = .next t ∧ t.me.getX d = (if d = 0 then 0 else v) ∧ t.me.got = none ∧
      t.me.why = some .longOp ∧ t.me.pc = BitVec.ofNat 64 s.nextPc ∧ KeepsMemory s t) ∧
    (ea.toNat % 4 = 0 → s.resolveMe .load ea.toNat 4 = .ok [p] → 0 < p.len → s.me.buf = [] → s.me.armed = none → s.me.recBad = false →
      s.badPiece [p] = none → isRemote p.key = false → isHost p.key = false → s.quiet s.cur sc none = true →
      ∃ t, exec ntf s = .next t ∧ Instr.notifyAtHome s.cur p.key all d ∈ t.agenda ∧ t.me.why = some .longOp ∧ t.me.rel = some sc ∧
        t.me.pc = BitVec.ofNat 64 s.nextPc ∧ t.me.x = s.me.x ∧ KeepsMemory s t))
  -- (4) HomesOfWaitedWords
  ∧ (
  ∀ (s : State) (c loc h : Nat) (wide ne all : Bool) (x m : Word) (d : XR),
    let n := if wide then 8 else 4
    let q : Nat := 256 ^ n
    let v := s.rdN loc n
    let sleep : Bool := decide (v &&& (m.toNat % q) = (x.toNat % q) &&& (m.toNat % q)) != ne
    let here := s.sleepers.filter fun r => !r.sync && wordOf r.loc == wordOf loc && r.woken.isNone
    ((s.ctx c).why = some .sleep → s.heldKey c (s.ctx c).asid.toNat .atomic loc = false →
      (s.hasEntry loc = true ∨ s.entryFree loc = true ∧ ∀ e, e ∈ s.entryWait → e.1 ≠ s.waitHome loc) → s.isBad loc = false →
      (sleep = false → ∃ t, exec (.waitvAtHome c loc wide ne x m) s = .next t ∧ (t.ctx c).got = some (BitVec.ofNat 64 v) ∧
        (t.ctx c).why = none ∧ t.sleepers = s.sleepers ∧ KeepsMemory s t) ∧
      (sleep = true → ∃ t, exec (.waitvAtHome c loc wide ne x m) s = .next t ∧ t.ctx c = { s.ctx c with held := false } ∧
        t.sleepers = s.sleepers ++ [⟨c, false, false, loc, wide, none⟩] ∧ KeepsMemory s t) ∧
      (s.rdN loc 8 = 0 → ∃ t, exec (.syncAtHome c loc) s = .next t ∧ (t.ctx c).got = some 0 ∧ (t.ctx c).why = none ∧ KeepsMemory s t) ∧
      (s.rdN loc 8 ≠ 0 → ∃ t, exec (.syncAtHome c loc) s = .next t ∧ t.ctx c = { s.ctx c with held := false } ∧
        t.sleepers = s.sleepers ++ [⟨c, false, true, loc, true, none⟩] ∧ KeepsMemory s t)) ∧
    ((s.ctx c).why = some .sleep → s.heldKey c (s.ctx c).asid.toNat .atomic loc = false → s.entryFree loc = false →
      (s.ctx c).taken = false → exec (.waitvAtHome c loc wide ne x m) s =
        .next { s.mapCtx c fun x => { x with held := false } with entryWait := s.entryWait ++ [(s.waitHome loc, c, .waitvAtHome c loc wide ne x m)] }) ∧
    (s.heldKey c (s.ctx c).asid.toNat .atomic loc = false → (∀ r, r ∈ here → (s.ctx r.who).recBad = false) → ∃ t, exec (.notifyAtHome c loc all d) s = .next t ∧ KeepsMemory s t ∧
      (t.ctx c).getX d = (if d = 0 then 0 else BitVec.ofNat 64 (if all then here.length else min 1 here.length)) ∧
      (all = true → ∀ r, r ∈ here → r.saved = false → r ∉ t.sleepers)) ∧
    (s.entryWait = [(h, c, .syncAtHome c loc)] → s.entryFree loc = true → s.isBad loc = false → s.rdN loc 8 = 0 →
      ∃ t, exec (.waitTableEntryGrant h) s = .next t ∧ t.entryWait = [] ∧ (t.ctx c).got = some 0 ∧ (t.ctx c).why = none ∧ KeepsMemory s t))

/-- (1) R338, R410, R457: SEND leaves once every earlier access of its context has been performed, as a release and a long op: to
a context of its own partition the message carries the payload, the channel and the sender's address; to a context outside
the partition the status is 3; to another package that the ENL permissions reach it goes out as a flit, with the partitions
it passes between and its number among those of its source, destination and channel (R465).
(2) R30, R33, R335, R336, R338, R341, R446: at a core that is mapped and not being saved, a message that may reach its
context (MESSAGE_ARRIVAL) joins the receive queue when its context may take it and no older one of its triple is spilled, and
else the spill queue; the sender's status is 0. An ABSENT core gives 1, a FENCED one 2, a moving one holds the message, one
that the permissions of its destination do not let in gives 3; a status (SEND_STATUS_RETURN) brings the sender's register and
reply. A spilled message stands in an entry of the core's spill ring; SPILLED_MESSAGE_MOVE moves it into the queue, poisoned
if its entry is. A message from another package is judged when its turn has come.
(3) R339, R340: RECV and RECVT take the oldest matching entry of the core's receive queue: vd the payload, xm the metadata
word, as an acquire; with none RECVT writes 0 and RECV waits with its pc at the head.
(4) R450 to R454: a host message whose record is whole and whose dispatcher entry names a mapped context in the function's
reach joins its queue with the host bit and is counted as accepted; one that is not whole, or whose entry is not valid, or
outside the reach, is dropped with its code. -/
def Obligations.Messages : Prop :=
  -- (1) SendIsSent
  (
  ∀ (s : State) (sc : Scope) (q : Fin 4) (d : XR) (b : XS) (c : VR) (p : Nat), s.flows → s.me.buf = [] → s.quiet s.cur sc none = true →
    s.partOf (fieldOf s.myCore) = some p → s.cur < 2 ^ 19 →
    let dst := (s.me.getS b).toNat % 2 ^ 25
    let j := dst % 2 ^ 19
    let m (via : Option Via) : Msg :=
      { dst := j, ch := q.val, payload := s.me.getV c, addr := s.pkg * 2 ^ 19 + s.cur, status := 0, host := false,
        asid := s.me.asid.toNat, scope := sc, poisoned := false, via := via }
    (dst / 2 ^ 19 = s.pkg → s.partOf (fieldOf (j / 16)) = some p →
      ∃ t, exec (.send sc q d b c) s = .next t ∧ t.me.why = some .longOp ∧ t.me.rel = some sc ∧ t.me.x = s.me.x ∧
        t.me.pc = BitVec.ofNat 64 s.nextPc ∧ KeepsMemory s t ∧ Instr.messageArrival (m none) s.cur d ∈ t.agenda) ∧
    (dst / 2 ^ 19 = s.pkg → s.partOf (fieldOf (j / 16)) ≠ some p →
      ∃ t, exec (.send sc q d b c) s = .next t ∧ Instr.sendStatusReturn s.cur 3 d ∈ t.agenda ∧ KeepsMemory s t) ∧
    (dst / 2 ^ 19 ≠ s.pkg → s.reaches p (dst / 2 ^ 19) 0 = true →
      ∃ t, exec (.send sc q d b c) s = .next t ∧ t.me.why = some .longOp ∧ KeepsMemory s t ∧ t.outFlits = s.outFlits ++
        [⟨s.flitSeq, dst / 2 ^ 19, s.cur, .message (m (some ⟨p, bits (s.enlEntry p (dst / 2 ^ 19)) 9 5,
          tget s.msgOut (tripleKey (s.pkg * 2 ^ 19 + s.cur) (dst / 2 ^ 19 * 2 ^ 19 + j) q.val) 0, 0⟩)) d, none, false⟩]))
  -- (2) MessageDelivery
  ∧ (
  ∀ (s : State) (m : Msg) (c : Nat) (d : XR) (st : BitVec 2), s.form → m.status = 0 → bits m.addr 24 19 = s.pkg → c ≠ noCtx →
    (s.turnOf m).1 = (s.turnOf m).2 →
    let n := m.dst / 16
    let k := s.core n
    (s.portLets m = false → exec (.messageArrival m c d) s = .next (((s.countRefused m).turnTaken m).post (.sendStatusReturn c 3 d))) ∧
    (s.portLets m = true → s.remapState n = 1 → s.savedFor n m.asid = false →
      (k.takes m.dst = true → k.spill.any (sameTriple m) = false →
        ∃ t, exec (.messageArrival m c d) s = .next t ∧ (t.core n).rq = k.rq ++ [m] ∧ (t.core n).spill = k.spill ∧
          Instr.sendStatusReturn c 0 d ∈ t.agenda ∧ KeepsMemory s t) ∧
      ((k.takes m.dst = false ∨ k.spill.any (sameTriple m) = true) → k.spill.length < 2048 →
        ∃ t, exec (.messageArrival m c d) s = .next t ∧ (t.core n).rq = k.rq ∧ (t.core n).spill = k.spill ++ [m] ∧
          Instr.sendStatusReturn c 0 d ∈ t.agenda ∧ ∃ i, (t.core n).spillSlots = k.spillSlots ++ [i] ∧
            t.rdN (spillRing n i) 64 = areaEntry m % 256 ^ 64 ∧ KeepsMemoryBut s t (spillRing n i) 64)) ∧
    (s.portLets m = true → s.remapState n = 0 → exec (.messageArrival m c d) s = .next ((s.turnTaken m).post (.sendStatusReturn c 1 d))) ∧
    (s.portLets m = true → s.remapState n = 3 → exec (.messageArrival m c d) s = .next ((s.turnTaken m).post (.sendStatusReturn c 2 d))) ∧
    (s.portLets m = true → s.remapState n = 2 → ∃ t, exec (.messageArrival m c d) s = .next t ∧ (t.core n).rq = k.rq ∧
      Instr.messageArrival m c d ∈ t.agenda ∧ KeepsMemory s t) ∧
    ((s.ctx c).why = some .longOp → ∃ t, exec (.sendStatusReturn c st d) s = .next t ∧
      (t.ctx c).getX d = (if d = 0 then 0 else st.setWidth 64) ∧ (t.ctx c).why = none ∧ KeepsMemory s t) ∧
    (∀ r, (s.core n).spill = [r] → r.dst / 16 = n → (s.core n).takes r.dst = true → ∃ t, exec (.spilledMessageMove n) s = .next t ∧
      (t.core n).rq = (s.core n).rq ++
        [{ r with poisoned := r.poisoned || (s.badIn (spillRing n ((s.core n).spillSlots.getD 0 0)) 64).isSome }] ∧ (t.core n).spill = [] ∧ KeepsMemory s t))
  -- (3) Receive
  ∧ (
  ∀ (s : State) (sc : Scope) (q : Option (Fin 4)) (d : VR) (xm : XR) (i : Nat) (m : Msg), s.flows → s.me.armed = none →
    let l := (s.core s.myCore).rq
    let word : Nat := m.status % 4 * 2 ^ 32 + 2 ^ 31 + (if m.host then 2 ^ 30 else 0) + m.ch % 4 * 2 ^ 25 + m.addr % 2 ^ 25
    (l[i]? = some m → m.poisoned = false → m.dst = s.cur → (q = none ∨ q.map (·.val) = some m.ch) →
      (∀ j r, j < i → l[j]? = some r → ¬ (r.dst = s.cur ∧ (q = none ∨ q.map (·.val) = some r.ch))) →
      ∀ h, h ∈ [.recv sc q d xm, .recvt sc q d xm] →
        ∃ t, exec h s = .next t ∧ t.me.getV d = (if d = .vz then 0 else m.payload) ∧
          t.me.getX xm = (if xm = 0 then 0 else BitVec.ofNat 64 word) ∧ (t.core s.myCore).rq = l.eraseIdx i ∧
          KeepsX s.me t.me [xm] ∧ KeepsV s.me t.me [d] ∧ t.me.pc = BitVec.ofNat 64 s.nextPc ∧ KeepsMemory s t) ∧
    ((∀ r, r ∈ l → ¬ (r.dst = s.cur ∧ (q = none ∨ q.map (·.val) = some r.ch))) →
      exec (.recv sc q d xm) s = .next (s.park .recv) ∧ exec (.recvt sc q d xm) s = .next (s.wroteX xm 0)))
  -- (4) HostMessages
  ∧ (
  ∀ (s : State) (link f : Nat) (whole : Bool) (r : BitVec 512), (f = 0 ∨ partValid (s.parts.toList.getD (f - 1) 0) = true) →
    let x := s.func f
    let e := (x.disp.toList.getD (bits r.toNat 259 256) 0).toNat
    let a := e % 2 ^ 25
    let c := a % 2 ^ 19
    let n := c / 16
    let drop (code : Nat) : State := s.mapFunc f fun y => { y with lastdrop := code, dropped := Nat.min (y.dropped + 1) 0xFFFF }
    let clean : Bool := whole && bits r.toNat 511 262 == 0
    (clean = false → exec (.hostMessage link f whole r) s = .next (drop 1)) ∧
    (clean = true → e.testBit 25 = false → exec (.hostMessage link f whole r) s = .next (drop 2)) ∧
    (clean = true → e.testBit 25 = true → a / 2 ^ 19 ≠ s.pkg ∨ s.fnReach f (fieldOf n) = false →
      exec (.hostMessage link f whole r) s = .next (drop 5)) ∧
    (clean = true → e.testBit 25 = true → a / 2 ^ 19 = s.pkg → s.fnReach f (fieldOf n) = true →
      (s.remapState n = 0 → exec (.hostMessage link f whole r) s = .next (drop 3)) ∧
      (s.remapState n = 3 → exec (.hostMessage link f whole r) s = .next (drop 4)) ∧
      (s.remapState n = 1 → (s.core n).mode = .running → (s.core n).rq = [] → (s.core n).spill = [] →
        ∃ t m, exec (.hostMessage link f whole r) s = .next t ∧ (t.core n).rq = [m] ∧ m.dst = c ∧ m.host = true ∧
          m.payload = r.setWidth 256 ∧ m.ch = bits r.toNat 261 260 ∧ (t.func f).accepted = (x.accepted + 1) % 2 ^ 16 ∧ KeepsMemory s t)))

/-! ## Tasks and engines (R344 to R404) -/

/-- R402: DQLEN writes (DQBOT - DQTOP) mod 2^32 in bits [31:0] and the port's copy of nblk in bits [34:32], the rest zero; it
reads both registers and the copy in one step, and orders nothing: the buffer, the release scope and the tags of earlier
reads stay. -/
def Obligations.DequeLength : Prop :=
  ∀ (s : State) (d : XR), s.flows →
    let k := s.core s.myCore
    let v : Word := BitVec.ofNat 32 (k.nblk % 8) ++ (k.dqbot - k.dqtop).setWidth 32
    exec (.dqlen d) s = .next (s.wroteX d v) ∧ (s.wroteX d v).me.buf = s.me.buf ∧ (s.wroteX d v).me.rel = s.me.rel ∧
    (s.wroteX d v).me.reads = s.me.reads ∧ KeepsMemory s (s.wroteX d v)

/-- (1) R62, R385, R391, R396: TAKE with a task in hand raises TASK_STATE. Else it removes the newest entry of its core's deque
in one update, writes it to its register, and the frame's load is under way; an empty deque with nothing spilled gives 0
after 8 cycles, and a deque with spilled blocks makes it wait.
(2) R397 to R399: a STEAL counts in its core's rotation and sends its probes, STEAL_PROBE_READ, to the other cores of its
launch; a probe of a deque with an entry is followed by the exchange of its top, STEAL_CAS, which takes the oldest entry of
that deque when its top has not moved; where nothing is left to probe the STEAL ends with 0.
(3) R44, R47, R48, R400: LOAD_TASK. When the frame of a taken task has been read, TASKF holds its address, the shadow copies
are in force with the frame's FCTX and SCPTR (or, where its inh bit is set, the base copies), and the register of the TAKE
holds the frame's address again.
(4) R386, R388: DEQUE_REFILL. A refill under way, of a deque that has room for it and from a region that can be read, lowers
DQTOP by the 64 entries of the block and counts one block less, DQBOT as it was; with no refill under way the event changes
nothing. -/
def Obligations.Deques : Prop :=
  -- (1) TakeATask
  (
  ∀ (s : State) (d : XR),
    let n := s.myCore
    let k := s.core n
    let j := (k.dqbot.toNat + 2 ^ 32 - 1) % 2 ^ 32
    let slot := s.dqSlot n j
    (s.me.taskf ≠ 0 → exec (.take d) s = .next (s.trap 0x08 s.me.taskf)) ∧
    (s.me.taskf = 0 → s.flows → 1 ≤ k.dqLen → s.isBad slot = false →
      ∃ t, exec (.take d) s = .next t ∧ t.me.getX d = (if d = 0 then 0 else s.rd64 slot) ∧ t.me.pendf = some (s.rd64 slot) ∧
        (t.core n).dqbot = BitVec.ofNat 64 j ∧ (t.core n).dqtop = k.dqtop ∧ t.me.pc = BitVec.ofNat 64 s.nextPc ∧
        Instr.loadTask s.cur (s.rd64 slot).toNat d ∈ t.agenda ∧ KeepsMemory s t) ∧
    (s.me.taskf = 0 → s.flows → k.dqLen = 0 → k.refill = none → k.nblk = 0 →
      exec (.take d) s = .next (s.steppedFor (s.putX d 0) 8)) ∧
    (s.me.taskf = 0 → k.dqLen = 0 → 0 < k.nblk →
      ∃ t, exec (.take d) s = .next t ∧ t.me.why = some .deque ∧ t.me.pc = s.me.pc ∧ t.me.x = s.me.x ∧ KeepsMemory s t))
  -- (2) StealATask
  ∧ (
  ∀ (s : State) (d : XR) (b : XS) (c v t : Nat) (vs : List Nat),
    let k := s.core v
    let slot := s.dqSlot v t
    (s.me.taskf ≠ 0 → exec (.steal d b) s = .next (s.trap 0x08 s.me.taskf)) ∧
    (s.me.taskf = 0 → s.flows → ∃ u ws, exec (.steal d b) s = .next u ∧ u.me.why = some .deque ∧ u.me.pc = s.me.pc ∧
      (u.core s.myCore).rho = (s.core s.myCore).rho + 1 ∧ Instr.stealProbeRead s.cur ws d ∈ u.agenda ∧ s.myCore ∉ ws ∧ KeepsMemory s u) ∧
    ((s.ctx c).why = some .deque → s.remapState v = 1 → s.portFrozen v (s.ctx c).asid.toNat = false → 1 ≤ k.dqLen →
      exec (.stealProbeRead c (v :: vs) d) s = .next (s.post (.stealCas c (v :: vs) k.dqtop.toNat d))) ∧
    ((s.ctx c).why = some .deque → ∃ u, exec (.stealProbeRead c [] d) s = .next u ∧ (u.ctx c).getX d = 0 ∧ (u.ctx c).why = none ∧
      (u.ctx c).pc = BitVec.ofNat 64 (s.ctx c).nextPc ∧ KeepsMemory s u) ∧
    ((s.ctx c).why = some .deque → s.remapState v = 1 → s.portFrozen v (s.ctx c).asid.toNat = false → 1 ≤ k.dqLen →
      k.dqtop.toNat = t → s.isBad slot = false →
      ∃ u, exec (.stealCas c (v :: vs) t d) s = .next u ∧ (u.ctx c).getX d = (if d = 0 then 0 else s.rd64 slot) ∧
        (u.ctx c).pendf = some (s.rd64 slot) ∧ (u.core v).dqtop = BitVec.ofNat 64 ((t + 1) % 2 ^ 32) ∧ (u.core v).dqbot = k.dqbot ∧
        (u.ctx c).pc = BitVec.ofNat 64 (s.ctx c).nextPc ∧ KeepsMemory s u))
  -- (3) TaskIsLoaded
  ∧ (
  ∀ (s : State) (c f : Nat) (d : XR) (p : Piece), (s.ctx c).pendf = some (BitVec.ofNat 64 f) → (s.ctx c).why = some .longOp →
    (s.ctx c).resume = none → s.frameAt (s.asker c) (s.ctx c).walkFail .load f 0 40 = .ok [p] → s.badIn p.key 8 = none → s.badIn (p.key + 24) 16 = none →
    ∃ t, exec (.loadTask c f d) s = .next t ∧ (t.ctx c).taskf = (BitVec.ofNat 64 f) &&& 0x00FFFFFFFFFFFFC0 ∧ (t.ctx c).shadow = true ∧ (t.ctx c).pendf = none ∧
      (t.ctx c).why = none ∧ (t.ctx c).getX d = (if d = 0 then 0 else BitVec.ofNat 64 f) ∧
      ((s.rd64 p.key).getLsbD 0 = true → (t.ctx c).fctxS = (s.ctx c).fctxB ∧ (t.ctx c).scptrS = (s.ctx c).scptrB) ∧
      ((s.rd64 p.key).getLsbD 0 = false → (t.ctx c).fctxS = (s.rd64 (p.key + 24)) &&& ~~~0xFFF00000 ∧
        (t.ctx c).scptrS = (s.rd64 (p.key + 32)) &&& 0x00FFFFFFFFFFFFC0) ∧
      (t.ctx c).fctxB = (s.ctx c).fctxB ∧ (t.ctx c).scptrB = (s.ctx c).scptrB ∧ KeepsMemory s t)
  -- (4) DequeRefills
  ∧ (
  ∀ (s : State) (n b r : Nat),
    let k := s.core n
    (k.refill = none → exec (.dequeRefill n) s = .next s) ∧
    (k.refill = some b → s.portRuns n = true → k.dqLen ≤ 192 → s.spillAt n .load = .at r → s.badIn (r + 512 + 512 * b) 512 = none →
      (∀ i, i < 64 → s.inRange (s.dqSlot n (k.dqtop.toNat + 2 ^ 32 - 64 + i)) = false) → k.dqtop.toNat < 2 ^ 32 → 64 ≤ k.dqtop.toNat →
      ∃ t, exec (.dequeRefill n) s = .next t ∧ (t.core n).dqtop = k.dqtop - 64 ∧ (t.core n).nblk = b ∧ (t.core n).dqbot = k.dqbot))

/-- (1) R383, R384, R392 to R395, R400: the frame forms on frames that pass their checks. SPAWN writes the parent's address into
the child, adds one to the parent's join word and puts the child on the deque, giving its length; JOINA and TDONE send their
update of the join word home, where JOIN_UPDATE_AT_HOME adds to it and answers the old or the new value; TDONE of a task with
no parent gives 0 and ends the task; SYNC waits at the home of its join word, and ends with the answer it gets.
(2) R403, R404: SLICE of a shape record in the own scratchpad that is well formed writes the part of its rank, the address of
its first element or its extent, after 24 cycles; a record outside the own scratchpad, misaligned or malformed raises
SHAPE_BAD. -/
def Obligations.FramesAndShapes : Prop :=
  -- (1) FramesAndJoins
  (
  ∀ (s : State) (d : XR) (b c : XS) (p q : Piece) (loc j : Nat) (v w : Word) (new : Bool), s.form → s.flows → s.me.buf = [] →
    s.quiet s.cur .device none = true → s.me.armed = none → s.me.recBad = false →
    let child := s.me.getS b
    (s.frameMe .store child.toNat 8 8 = .ok [p] → p.key + 8 ≤ 2 ^ 52 → (s.core s.myCore).dqLen < 255 →
      s.inRange (s.dqSlot s.myCore (s.core s.myCore).dqbot.toNat) = false →
      (s.me.getS c = 0 ∨ (s.frameMe .atomic (s.me.getS c).toNat 16 8 = .ok [q] ∧ s.badPiece [q] = none ∧ q.key + 8 ≤ 2 ^ 52 ∧
        (p.key + 8 ≤ q.key ∨ q.key + 8 ≤ p.key))) →
      ∃ t, exec (.spawn d b c) s = .next t ∧ t.me.getX d = (if d = 0 then 0 else BitVec.ofNat 64 ((s.core s.myCore).dqLen + 1)) ∧
        t.rd64 p.key = s.me.getS c ∧ t.rd64 (s.dqSlot s.myCore (s.core s.myCore).dqbot.toNat) = child ∧
        (s.me.getS c ≠ 0 → t.rd64 q.key = s.rd64 q.key + 1) ∧ t.me.why = some .longOp ∧ t.me.pc = BitVec.ofNat 64 s.nextPc) ∧
    (s.frameMe .atomic child.toNat 16 8 = .ok [q] → s.badPiece [q] = none →
      ∃ t, exec (.joina d b c) s = .next t ∧ Instr.joinUpdateAtHome q.key (s.me.getS c) s.cur d false ∈ t.agenda ∧
        t.me.why = some .longOp ∧ t.me.rel = some .device ∧ t.me.pc = BitVec.ofNat 64 s.nextPc ∧ KeepsMemory s t) ∧
    (s.me.taskf = 0 → exec (.tdone d) s = .next (s.trap 0x08 0)) ∧
    (s.me.taskf ≠ 0 → s.frameMe .load s.me.taskf.toNat 8 8 = .ok [q] → s.badPiece [q] = none → s.rd64 q.key = 0 →
      ∃ t, exec (.tdone d) s = .next t ∧ t.me.getX d = 0 ∧ t.me.taskf = 0 ∧ t.me.shadow = false ∧ t.me.why = some .longOp ∧
        t.me.pc = BitVec.ofNat 64 s.nextPc ∧ KeepsMemory s t) ∧
    (s.me.taskf ≠ 0 → s.frameMe .load s.me.taskf.toNat 8 8 = .ok [q] → s.badPiece [q] = none → s.rd64 q.key ≠ 0 →
      s.frameMe .atomic (s.rd64 q.key).toNat 16 8 = .ok [p] → s.badPiece [p] = none →
      ∃ t, exec (.tdone d) s = .next t ∧ Instr.joinUpdateAtHome p.key (-1) s.cur d true ∈ t.agenda ∧ t.me.taskf = 0 ∧
        t.me.shadow = false ∧ t.me.why = some .longOp ∧ KeepsMemory s t) ∧
    (s.me.got = none → s.frameMe .load child.toNat 16 8 = .ok [q] → s.badPiece [q] = none →
      ∃ t, exec (.sync d b) s = .next t ∧ t.me.why = some .sleep ∧ t.me.pc = s.me.pc ∧ Instr.syncAtHome s.cur q.key ∈ t.agenda ∧
        KeepsMemory s t) ∧
    (s.me.got = some v → ∃ t, exec (.sync d b) s = .next t ∧ t.me.getX d = (if d = 0 then 0 else v) ∧ t.me.got = none ∧
      t.me.pc = BitVec.ofNat 64 s.nextPc ∧ KeepsMemory s t) ∧
    (s.heldKey j (s.ctx j).asid.toNat .atomic loc = false → s.isBad loc = false → ∃ t, exec (.joinUpdateAtHome loc w j d new) s = .next t ∧
      t.rd64 loc = s.rd64 loc + w ∧ KeepsMemoryBut s t loc 8 ∧
      (t.ctx j).getX d = if d = 0 then 0 else if new then s.rd64 loc + w else s.rd64 loc))
  -- (2) SliceOfAShape
  ∧ (
  ∀ (s : State) (d : XR) (b c : XS) (o : Nat), s.flows →
    let w := (s.me.getS c).toNat
    let h := shapeOf (s.rdN (2 ^ 52 + 2 ^ 19 * (s.cur / 16) + o) 128)
    let p := h.part (if h.parts = 0 then bits s.me.lcore.toNat 47 32 else h.parts) (w % 2 ^ 16)
    (s.me.getS b = BitVec.ofNat 64 (0x00F0000002000000 + o) → o % 64 = 0 → o + 128 ≤ 2 ^ 19 → s.me.armed = none → s.me.recBad = false →
      s.badIn (2 ^ 52 + 2 ^ 19 * (s.cur / 16) + o) 128 = none → s.me.buf = [] →
      (h.reserved = 0 → h.gran ≠ 0 → h.pdim ≤ h.ndm1 →
        ∃ t, exec (.slice d b c) s = .next t ∧ t.me.eligFrom = s.cycle + 24 ∧ t.me.pc = BitVec.ofNat 64 s.nextPc ∧ KeepsMemory s t ∧
          t.me.getX d = if d = 0 then 0 else if w.testBit 16 then BitVec.ofNat 64 p.2 else h.base + BitVec.ofNat 64 p.1 * h.pstride) ∧
      (h.reserved ≠ 0 ∨ h.gran = 0 ∨ h.ndm1 < h.pdim → exec (.slice d b c) s = .next (s.trap 0x32 (s.me.getS b)))) ∧
    ((s.me.getS b).toNat % 64 ≠ 0 → exec (.slice d b c) s = .next (s.trap 0x32 (s.me.getS b))))

/-- (1) R347: an engine head reads its registers, and, with its context's buffer empty and its operations on cells and at the
SYSTEM scope its writes to other packages performed, is sent to its engine; its context stays out of the rotation until
acceptance. A form of 7 and 8 operands reads 0 for the one it lacks; a rounding RDCT needs a rounding mode, and its core
notes in which order its RDCTs have issued (R356).
(2) ENGINE_ACCEPTANCE (R219, R345 to R349, R351 to R354): a copy whose shape, list, pages and places pass their checks is
accepted: its token goes to xd and its context goes on, with its release; the words to move are those of the rows that the
form names, and no byte has moved; its list or block is read at its place. With 32 commands it waits; a shape that breaks its
rule raises ENGINE_ARG.
(3) ENGINE_WORD_WRITE and ENGINE_COMMAND_COMPLETE (R350, R351): each step of a copy takes one of its words, in no fixed
order, from its source to its destination, whole, and leaves every other byte; a word from a poisoned source is not written,
and the command ends with status 3, but where a dirty L1 line holds it: then it is written poisoned (log entry 89). With its
words written, and its writes to other packages acknowledged, it completes.
(4) CPYT_FRAME_PUSH (R62, R354, R355): once a CPYT's copy is performed its frame joins the bottom of the target's deque; a
target that is ABSENT or FENCED gets none, and the command's status is 1 or 2.
(5) R232, R349, R364: AWAIT of a token that was never handed out traps with ENGINE_ARG; of a command under way it waits for
its end; of a finished one it writes the status, as an acquire; the end of a command gives its status to each AWAIT on it. -/
def Obligations.Copies : Prop :=
  -- (1) EngineHeadsAreSent
  (
  ∀ (s : State) (l : Bool) (op : RedOp) (sc : Scope) (d : XR) (b c e : XS) (i : Instr) (f : EngForm), s.flows → s.me.buf = [] → s.calm s.cur sc none = true →
    (i, f) ∈ [((.cpy sc d b c e : Instr), EngForm.cpy), (.cpyt sc d b c e, .cpyt), (.gath sc d b c e, .gath), (.scat sc d b c e, .scat),
      (.mcst l sc d b c e, .mcst l), (.rdct op sc d b c e, .rdct op), (.hdsub sc d b c e, .hdsub), (.tlret sc d b c, .tlret)] →
    (f = .rdct .add → bits (s.me.getS e).toNat 19 16 = 10 → rmodeOf s.me.fctx < 6) →
    let r : EngReq := { form := f, sc := sc, d := d, b := s.me.getS b, c := s.me.getS c, e := if f = .tlret then 0 else s.me.getS e,
                        fctx := s.me.fctx }
    ∃ t, exec i s = .next t ∧ Instr.engineAcceptance s.cur r ∈ t.agenda ∧ t.me = { s.me with why := some .accept, held := false, sent := true } ∧
      KeepsOthers s t ∧ t = { s with ctxs := t.ctxs, mark := t.mark, agenda := t.agenda, cores := t.cores } ∧
      ((∀ o, f ≠ .rdct o) → t.cores = s.cores))
  -- (2) CopiesAreAccepted
  ∧ (
  ∀ (s : State) (c : Nat) (r : EngReq) (ws : List Nat) (ps qs : List Piece) (ms : List Move), (s.ctx c).why = some .accept →
    (r.form = .cpy ∨ r.form = .cpyt ∨ r.form = .gath ∨ r.form = .scat ∨ ∃ l, r.form = .mcst l) →
    let cl := c / 1024
    let q := s.asker c
    let fail := (s.ctx c).walkFail
    let rows := copyRows r ws
    let seq := s.seqNext cl 3
    (32 ≤ (s.clu cl).cmds.length → exec (.engineAcceptance c r) s = .next (s.again (.engineAcceptance c r))) ∧
    ((s.clu cl).cmds.length < 32 →
      (∀ v, copyList r = .error v → exec (.engineAcceptance c r) s = answered c (.next (takeTrap s c 0x28 (BitVec.ofNat 64 v) (s.ctx c).pc false))) ∧
      (∀ list ls, copyList r = .ok list → (list.map fun l => s.engRange q fail .load l.1 l.2).getD (.ok []) = .ok ls →
        (∀ a, a ∈ keyWords (pieceKeys ls) → s.engReach c q.asid a ≠ .held) → s.badPiece ls = none → ws = s.pieceWords ls →
        s.knownClash (c / 16) r = .ok [] → (∀ k, k ∈ knownRanges r → argOnly (s.engRange q fail k.1 k.2.1 k.2.2) = .ok []) →
        let u := (keyWords (pieceKeys ls)).foldl (fun (s : State) a => s.engRead a) s
        u.probeCopy q fail rows = (.ok ps, .ok qs, ms) → u.overlapping (c / 16) rows (if r.form = .cpyt then none else list) = none →
        (r.form = .cpyt → cpytWords ws = .ok [] ∧ (u.cpytBlock q ws).1 = .ok []) →
        ∃ t, exec (.engineAcceptance c r) s = .next t ∧ (t.ctx c).why = none ∧ (t.ctx c).pc = BitVec.ofNat 64 (s.ctx c).nextPc ∧
          (t.ctx c).getX r.d = (if r.d = 0 then 0 else BitVec.ofNat 64 (3 * 2 ^ 32 + seq)) ∧ (t.ctx c).rel = some r.sc ∧ KeepsMemory s t ∧
          (t.clu cl).cmds = (s.clu cl).cmds ++ [⟨seq, c, q.asid, r.sc, ms, 0,
            (if r.form = .cpyt then some (u.cpytBlock q ws).2 else none), [], (s.core (c / 16)).mode == .restoring⟩] ∧
          Instr.engineWordWrite cl 3 seq ∈ t.agenda)))
  -- (3) CopiesMoveWords
  ∧ (
  ∀ (s : State) (cl seq : Nat) (x : EngCmd), s.form → (s.clu cl).cmds.find? (·.seq == seq) = some x →
    (x.moves ≠ [] → (∀ m, m ∈ x.moves → m.lo < m.hi ∧ ∀ k, m.lo ≤ k → k < m.hi →
        s.copyReach x (m.src + 8 * k) = .ok ∧ s.copyReach x (m.dst + 8 * k) = .ok ∧ s.inRange (m.dst + 8 * k) = false ∧
        ∀ q, q ∈ (s.core (spadCore (m.dst + 8 * k))).feq → q.loc ≠ m.dst + 8 * k) →
      ∃ t m k, exec (.engineWordWrite cl 3 seq) s = .next t ∧ m ∈ x.moves ∧ m.lo ≤ k ∧ k < m.hi ∧
        (s.isBad (m.src + 8 * k) = true → s.dirtyCopy (m.src + 8 * k) = false → KeepsMemory s t) ∧
        (s.isBad (m.src + 8 * k) = true → s.dirtyCopy (m.src + 8 * k) = true → t.isBad (m.dst + 8 * k) = true) ∧
        (s.isBad (m.src + 8 * k) = false → t.rdN (m.dst + 8 * k) 8 = s.rdN (m.src + 8 * k) 8 ∧
          (∀ a, a < m.dst + 8 * k ∨ m.dst + 8 * k + 8 ≤ a → t.byte a = s.byte a) ∧
          (isSpad (m.dst + 8 * k) = true → t.isFull (m.dst + 8 * k) = true))) ∧
    (s.copyFlying x = false → ∃ t, exec (.engineCommandComplete cl 3 seq) s = .next t ∧ KeepsMemory s t ∧
      (t.clu cl).cmds = (s.clu cl).cmds.filter (·.seq != seq) ∧ ⟨3, seq, x.status, x.sc⟩ ∈ (t.clu cl).done ∧
      ∀ a, a ∈ (t.clu cl).awaits → ¬ (a.kind = 3 ∧ a.seq = seq)))
  -- (4) CopyThenPush
  ∧ (
  ∀ (s : State) (cl seq n : Nat) (f : Word) (x : EngCmd), s.form → (s.clu cl).cmds.find? (·.seq == seq) = some x → x.push = some (n, f) → s.copyFlying x = false →
    let slot := s.dqSlot n (s.core n).dqbot.toNat
    (s.remapState n = 1 → s.portFrozen n x.asid = false → (s.core n).mode = .running → (s.core n).dqLen < 256 → s.inRange slot = false →
      ∃ t, exec (.cpytFramePush cl seq) s = .next t ∧ t.rd64 slot = f ∧ KeepsMemoryBut s t slot 8 ∧
        (t.core n).dqbot = BitVec.ofNat 64 (((s.core n).dqbot.toNat + 1) % 2 ^ 32) ∧ (t.core n).dqtop = (s.core n).dqtop ∧
        Instr.engineCommandComplete cl 3 seq ∈ t.agenda) ∧
    (∀ e, (s.remapState n = 0 ∧ e = 1) ∨ (s.remapState n = 3 ∧ e = 2) →
      ∃ t, exec (.cpytFramePush cl seq) s = .next t ∧ KeepsMemory s t ∧ t.cores = s.cores ∧
        (t.clu cl).cmds = (s.clu cl).cmds.map (fun y => if y.seq = seq then { y with status := e, push := none } else y) ∧
        Instr.engineCommandComplete cl 3 seq ∈ t.agenda))
  -- (5) Tokens
  ∧ (
  ∀ (s : State) (d : XR) (b : XS) (kind seq : Nat), kind < 7 → seq < 2 ^ 32 → s.me.buf = [] →
    let cl := s.cur / 1024
    let c := s.clu cl
    let ahead := (s.seqNext cl kind + 2 ^ 32 - seq) % 2 ^ 32
    ((36 ≤ (s.me.getS b).toNat.log2 ∨ bits (s.me.getS b).toNat 35 32 = 7) → exec (.await d b) s = .next (s.trap 0x28 (s.me.getS b))) ∧
    (s.me.getS b = BitVec.ofNat 64 (kind * 2 ^ 32 + seq) →
      (ahead = 0 ∨ 2 ^ 31 < ahead → exec (.await d b) s = .next (s.trap 0x28 (s.me.getS b))) ∧
      (s.flows → ahead ≠ 0 → ahead ≤ 2 ^ 31 → c.otherKind kind seq = false →
        (c.busy kind seq = true → ∃ t, exec (.await d b) s = .next t ∧ t.me.why = some .longOp ∧ t.me.x = s.me.x ∧
          t.me.pc = BitVec.ofNat 64 s.nextPc ∧ (t.clu cl).awaits = c.awaits ++ [⟨s.cur, kind, seq, d⟩] ∧ KeepsMemory s t) ∧
        (∀ r, c.busy kind seq = false → c.done.find? (fun x => x.kind == kind && x.seq == seq) = some r →
          ∃ t, exec (.await d b) s = .next t ∧ t.me.getX d = (if d = 0 then 0 else BitVec.ofNat 64 r.status) ∧
            t.me.why = some .longOp ∧ t.me.pc = BitVec.ofNat 64 s.nextPc ∧ KeepsMemory s t))))

/-- (1) ENGINE_ACCEPTANCE (R349, R356): an RDCT on its core's own scratchpad that passes its checks, issued before its core's
others on the channel, in a round that nothing has broken and no contribution contradicts, is accepted: its token goes to xd
and it is its core's contribution to the channel's next round.
(2) RDCT_NODE_COMBINE (R357, R358): a node waits for its children's results. Once all are in, it combines its source with
them in rising rank, under its own FCTX: any rank but 0 holds the result for its parent and is complete; rank 0 then writes
the destination, a word in each step, and is complete once its writes to other packages are acknowledged, merging its flags;
the round is kept no longer.
(3) ENGINE_ACCEPTANCE (R349, R359, R360): an HDSUB that passes its checks is accepted: its token goes to xd, and every word
of the ring and every marker becomes empty, with its bytes as they were.
(4) HEADRACE_TILE_FILL (R360, R361): the headrace starts on the next tile of a subscription when its slot is empty and its
rows can be read. Each step then writes one word of the tile, which becomes full: a header word, or bytes of a row, byte k of
each 64-byte unit to byte k XOR swz; the last step writes the marker with the tile's number.
(5) ENGINE_ACCEPTANCE (R349, R362): a TLRET of a filled slot of a live subscription, not yet under return, is accepted as a
return of the tile that the slot holds; a token of no live subscription, and a slot without a tile, raise ENGINE_ARG.
(6) TAILRACE_WRITEBACK (R360, R362, R363): a return whose rows may be written puts them back, a word in each step, where the
stream's write-back base says, with the swizzle undone; a stream without one writes nothing back. Then the slot's words
become empty, one in each step, then, with every write to another package acknowledged, its marker, and the return ends with
status 0.
(7) R363: HDEND of a live subscription stops it and waits, as a long op, for its end; a token that names none raises
ENGINE_ARG. -/
def Obligations.ReductionsAndStreams : Prop :=
  -- (1) ReductionsAreAccepted
  (
  ∀ (s : State) (c : Nat) (op : RedOp) (r : EngReq) (n t ch l rank size a : Nat) (ps qs : List Piece), (s.ctx c).why = some .accept →
    r.form = .rdct op → 1 ≤ n → n ≤ 2048 → t ∈ [2, 3, 6, 7, 10] → ch < 4 → r.e.toNat = n + t * 2 ^ 16 + ch * 2 ^ 20 →
    let cl := c / 1024
    let k := ((s.core (c / 16)).redCount.toList.getD ch 0)
    let len := (n * redBytes t + 7) / 8 * 8
    (∀ x, x ∈ (s.clu cl).reds → ¬ (x.who / 16 = c / 16 ∧ x.ch = ch ∧ x.pending = true)) →
    s.redFirst c ch = true → s.spadPlace (c / 16) r.b.toNat = some a → spadCore a = c / 16 →
    s.engRange (s.asker c) (s.ctx c).walkFail .load r.b.toNat len = .ok ps → s.rankOf (c / 16) = (l, rank, size) →
    (rank = 0 → s.engRange (s.asker c) (s.ctx c).walkFail .store r.c.toNat len = .ok qs ∧
      overlaps (s.engPlace (c / 16) r.c.toNat) len (s.engPlace (c / 16) r.b.toNat) len = false) →
    (s.launch l).broken ch k = none →
    (∀ y, y ∈ s.allReds → y.2.launch = l → y.2.ch = ch → y.2.round = k → y.2.n = n ∧ y.2.t = t ∧ y.2.op = op) →
    ∃ u x, exec (.engineAcceptance c r) s = .next u ∧ (u.ctx c).why = none ∧ (u.ctx c).pc = BitVec.ofNat 64 (s.ctx c).nextPc ∧
      (u.ctx c).getX r.d = (if r.d = 0 then 0 else BitVec.ofNat 64 (4 * 2 ^ 32 + s.seqNext cl 4)) ∧ KeepsMemory s u ∧
      (u.clu cl).reds = (s.clu cl).reds ++ [x] ∧ x.seq = s.seqNext cl 4 ∧ x.who = c ∧ x.launch = l ∧ x.rank = rank ∧ x.ch = ch ∧
      x.round = k ∧ x.n = n ∧ x.t = t ∧ x.op = op ∧ x.fctx = r.fctx ∧ x.result = none ∧ x.out = [] ∧
      (u.core (c / 16)).redCount.toList.getD ch 0 = k + 1 ∧ Instr.rdctNodeCombine cl x.seq ∈ u.agenda)
  -- (2) ReductionsCombine
  ∧ (
  ∀ (s : State) (cl seq : Nat) (x : Red) (t : ElemT) (ks : Nat → List Nat), s.form →
    (s.clu cl).reds.find? (·.seq == seq) = some x → redT x.t = some t →
    let size := Nat.max 1 (s.launch x.launch).cores.length
    let qs := ((List.range 4).map fun i => 4 * x.rank + 1 + i).filter (· < size)
    let len := x.n * redBytes x.t
    let own := (List.range x.n).map fun j => s.rdN (x.src + j * redBytes x.t) (redBytes x.t)
    let node := redNode t x.op (envOf x.fctx) own (qs.map ks)
    let vals := node.map (·.1)
    let fl := node.foldl (fun f r => f ||| r.2) 0
    (x.out = [] → x.result = none →
      ((∃ r, r ∈ qs ∧ (s.redOf x.launch x.ch x.round r).bind (·.2.result) = none) → exec (.rdctNodeCombine cl seq) s = .next s) ∧
      ((∀ r, r ∈ qs → (s.redOf x.launch x.ch x.round r).bind (·.2.result) = some (ks r)) → s.engReach x.who x.asid x.src ≠ .held →
        s.badIn x.src len = none → ∃ u, exec (.rdctNodeCombine cl seq) s = .next u ∧ KeepsMemory s u ∧
          (x.rank ≠ 0 → { x with result := some vals, out := [], flags := 0 } ∈ (u.clu cl).reds ∧ ⟨4, seq, 0, x.sc⟩ ∈ (u.clu cl).done) ∧
          (x.rank = 0 →
            { x with result := some vals, out := redWrites (elemBytes t.width vals) len x.dst 0, flags := fl } ∈ (u.clu cl).reds ∧
            Instr.rdctNodeCombine cl seq ∈ u.agenda))) ∧
    (x.rank = 0 → x.result.isSome = true → (∀ w, w ∈ x.out → s.engReach x.who x.asid w.1 = .ok ∧ s.inRange w.1 = false ∧ w.1 % 8 = 0 ∧
        w.2.2 ≤ 8 ∧ ∀ n q, q ∈ (s.core n).feq → q.loc ≠ w.1) →
      x.out ≠ [] → ∃ u w, exec (.rdctNodeCombine cl seq) s = .next u ∧ w ∈ x.out ∧ u.rdN w.1 w.2.2 = w.2.1 % 256 ^ w.2.2 ∧
        (∀ b, b < w.1 ∨ w.1 + w.2.2 ≤ b → u.byte b = s.byte b) ∧
        Instr.rdctNodeCombine cl seq ∈ u.agenda ∧ ∃ y, y ∈ (u.clu cl).reds ∧ y.seq = seq ∧ y.out.length + 1 = x.out.length) ∧
    (x.rank = 0 → x.result.isSome = true → x.out = [] → s.flying x.flits = false →
      ∃ u, exec (.rdctNodeCombine cl seq) s = .next u ∧ KeepsMemory s u ∧ ⟨4, seq, 0, x.sc⟩ ∈ (u.clu cl).done ∧
        ∀ y, y ∈ u.allReds → ¬ (y.2.launch = x.launch ∧ y.2.ch = x.ch ∧ y.2.round = x.round)))
  -- (3) Subscriptions
  ∧ (
  ∀ (s : State) (c : Nat) (r : EngReq) (su ns : Nat) (p : Piece) (qs : List Piece), (s.ctx c).why = some .accept → r.form = .hdsub →
    let cl := c / 1024
    let seq := s.seqNext cl 5
    let n := 64 * su * ns + 8 * ns
    let ring := windowKey (c / 16) r.b.toNat
    (s.clu cl).subs.length < 16 → 1 ≤ su → su ≤ 1024 → 2 ≤ ns → ns ≤ 64 → r.e.toNat = su + ns * 2 ^ 16 →
    r.b.toNat % 64 = 0 → inWindow r.b.toNat = true → r.c.toNat % 64 = 0 →
    s.engRange (s.asker c) (s.ctx c).walkFail .load r.c.toNat 64 = .ok [p] → p.len = 64 →
    s.engRange (s.asker c) (s.ctx c).walkFail .store r.b.toNat n = .ok qs → s.badPiece [p] = none →
    (∀ a, a ∈ keyWords (pieceKeys [p]) → s.engReach c (s.ctx c).asid.toNat a ≠ .held) → streamOk (s.rdN p.key 64) (64 * su) = true → s.engReach c (s.ctx c).asid.toNat ring = .ok →
    (∀ k q, q ∈ (s.core k).feq → q.loc < ring ∨ ring + n ≤ q.loc) →
    ∃ u, exec (.engineAcceptance c r) s = .next u ∧ (u.ctx c).why = none ∧ (u.ctx c).pc = BitVec.ofNat 64 (s.ctx c).nextPc ∧
      (u.ctx c).getX r.d = (if r.d = 0 then 0 else BitVec.ofNat 64 (5 * 2 ^ 32 + seq)) ∧ (∀ a, u.byte a = s.byte a) ∧
      (∀ i, i < n / 8 → u.isFull (ring + 8 * i) = false) ∧ (∀ w, w < ring ∨ ring + n ≤ w → u.isFull w = s.isFull w) ∧
      (u.clu cl).subs = (s.clu cl).subs ++ [⟨seq, c, (s.ctx c).asid.toNat, (s.ctx c).sys, r.sc, ring, su, ns,
        BitVec.ofNat 512 (s.rdN p.key 64), 0, 0, [], .none⟩] ∧ Instr.headraceTileFill cl seq ∈ u.agenda)
  -- (4) TilesAreFilled
  ∧ (
  ∀ (s : State) (cl seq : Nat) (u : Sub), s.form → (s.clu cl).subs.find? (·.seq == seq) = some u →
    let d := streamOf u.desc.toNat
    let slot := u.slot (u.tile % u.ns)
    let mark := u.marker (u.tile % u.ns)
    let q : Asker := ⟨u.asid, u.who / 16, u.sys⟩
    let key (o : Nat) : Nat → Nat := runByte (u.work.rows.getD (d.at o).1 [])
    s.engReach u.who u.asid u.ring = .ok → 1 ≤ u.ns →
    (∀ n q, q ∈ (s.core n).feq → q.loc < u.ring ∨ u.ring + 64 * u.su * u.ns + 8 * u.ns ≤ q.loc) →
    (u.work.step = 0 → u.stop = [] → u.tile < d.tiles → (∀ i, i < 8 * u.su → s.isFull (slot + 8 * i) = false) → s.isFull mark = false →
      ∀ k : Nat → List Piece, (∀ j, j < d.rows → s.rowRange q (fillUnit cl seq) .load (d.row d.base u.tile j) d.rowlen = .ok (k j)) →
      ∃ t, exec (.headraceTileFill cl seq) s = .next t ∧ KeepsMemory s t ∧ Instr.headraceTileFill cl seq ∈ t.agenda ∧
        { u with work := ⟨1, wordOffs 0 d.size, (List.range d.rows).map fun j => runsOf (k j)⟩ } ∈ (t.clu cl).subs) ∧
    (u.work.step = 1 → u.work.left ≠ [] → 2 ^ 52 ≤ u.ring → (∀ o, o ∈ u.work.left → o < 64 * u.su ∧ s.inRange (slot + o) = false ∧
        s.heldKey u.who u.asid .atomic (swizzledFrom (key o) (d.at o).2 d.swz) = false ∧ s.isBad (swizzledFrom (key o) (d.at o).2 d.swz) = false) →
      ∃ t o, exec (.headraceTileFill cl seq) s = .next t ∧ o ∈ u.work.left ∧ t.isFull (slot + o) = true ∧
        (o < d.off → t.rdN (slot + o) 8 = if o < 16 then d.header / 2 ^ (8 * o) % 2 ^ 64 else 0) ∧
        (d.off ≤ o → ∀ i, i < 8 → t.byte (slot + o + i) =
          s.byte (key o (((d.at o).2 + i) / 64 * 64 + (((d.at o).2 + i) % 64 ^^^ d.swz)))) ∧
        (∀ a, a < slot + o ∨ slot + o + 8 ≤ a → t.byte a = s.byte a) ∧
        (u.work.left.length = 1 → { u with work := ⟨3, [], u.work.rows⟩ } ∈ (t.clu cl).subs)) ∧
    (u.work.step = 3 → 2 ^ 52 ≤ u.ring → s.inRange mark = false → u.tile < 2 ^ 64 →
      ∃ t, exec (.headraceTileFill cl seq) s = .next t ∧ t.rdN mark 8 = u.tile ∧ t.isFull mark = true ∧
        (∀ a, a < mark ∨ mark + 8 ≤ a → t.byte a = s.byte a) ∧ { u with tile := u.tile + 1, work := .none } ∈ (t.clu cl).subs))
  -- (5) ReturnsAreAccepted
  ∧ (
  ∀ (s : State) (c : Nat) (r : EngReq), (s.ctx c).why = some .accept → r.form = .tlret →
    let cl := c / 1024
    let seq := s.seqNext cl 6
    (s.subOf cl r.b = none →
      exec (.engineAcceptance c r) s = answered c (.next (takeTrap s c 0x28 r.b (s.ctx c).pc false))) ∧
    (∀ u, s.subOf cl r.b = some u → s.engReach c (s.ctx c).asid.toNat u.ring ≠ .held → u.ns ≤ r.c.toNat ∨ s.isFull (u.marker r.c.toNat) = false →
      exec (.engineAcceptance c r) s = answered c (.next (takeTrap s c 0x28 r.c (s.ctx c).pc false))) ∧
    (∀ u tile, s.subOf cl r.b = some u → s.engReach c (s.ctx c).asid.toNat u.ring ≠ .held → r.c.toNat < u.ns → s.isFull (u.marker r.c.toNat) = true → u.tileIn r.c.toNat = some tile →
      (∀ x, x ∈ (s.clu cl).rets → ¬ (x.sub.seq = u.seq ∧ x.slot = r.c.toNat)) →
      ∃ t, exec (.engineAcceptance c r) s = .next t ∧ (t.ctx c).why = none ∧ (t.ctx c).pc = BitVec.ofNat 64 (s.ctx c).nextPc ∧
        (t.ctx c).getX r.d = (if r.d = 0 then 0 else BitVec.ofNat 64 (6 * 2 ^ 32 + seq)) ∧ KeepsMemory s t ∧
        (t.clu cl).rets = (s.clu cl).rets ++ [⟨seq, c, (s.ctx c).asid.toNat, u, r.c.toNat, tile, r.sc, .none, []⟩] ∧
        Instr.tailraceWriteback cl seq ∈ t.agenda))
  -- (6) TilesAreReturned
  ∧ (
  ∀ (s : State) (cl seq : Nat) (x : Ret), s.form → (s.clu cl).rets.find? (·.seq == seq) = some x →
    let u := x.sub
    let d := streamOf u.desc.toNat
    let slot := u.slot x.slot
    let mark := u.marker x.slot
    let q : Asker := ⟨u.asid, u.who / 16, u.sys⟩
    s.engReach u.who u.asid u.ring = .ok → x.slot < u.ns →
    (∀ n q, q ∈ (s.core n).feq → q.loc < u.ring ∨ u.ring + 64 * u.su * u.ns + 8 * u.ns ≤ q.loc) →
    (x.work.step = 0 →
      (d.wbbase = 0 → ∃ t, exec (.tailraceWriteback cl seq) s = .next t ∧ KeepsMemory s t ∧
        { x with work := ⟨2, wordOffs 0 (64 * u.su), []⟩ } ∈ (t.clu cl).rets ∧ Instr.tailraceWriteback cl seq ∈ t.agenda) ∧
      (∀ k : Nat → List Piece, d.wbbase ≠ 0 →
        (∀ j, j < d.rows → s.rowRange q (returnUnit cl seq) .store (d.row d.wbbase x.tile j) d.rowlen = .ok (k j)) →
        ∃ t, exec (.tailraceWriteback cl seq) s = .next t ∧ KeepsMemory s t ∧ Instr.tailraceWriteback cl seq ∈ t.agenda ∧
          { x with work := ⟨1, wordOffs d.off d.size, (List.range d.rows).map fun j => runsOf (k j)⟩ } ∈ (t.clu cl).rets)) ∧
    (x.work.step = 1 → x.work.left ≠ [] →
      let dst (o : Nat) : Nat := runByte (x.work.rows.getD (d.at o).1 []) (d.at o).2
      (∀ o, o ∈ x.work.left → isSpad (dst o) = false ∧ isRemote (dst o) = false ∧ s.heldKey u.who u.asid .atomic (dst o) = false ∧
        s.isBad (swizzledFrom (fun k => slot + d.off + (d.at o).1 * d.rowlen + k) (d.at o).2 d.swz) = false) →
      ∃ t o, exec (.tailraceWriteback cl seq) s = .next t ∧ o ∈ x.work.left ∧
        (∀ i, i < 8 → t.byte (dst o + i) =
          s.byte (slot + d.off + (d.at o).1 * d.rowlen + (((d.at o).2 + i) / 64 * 64 + (((d.at o).2 + i) % 64 ^^^ d.swz)))) ∧
        (∀ a, a < dst o ∨ dst o + 8 ≤ a → t.byte a = s.byte a) ∧
        (x.work.left.length = 1 → { x with work := ⟨2, wordOffs 0 (64 * u.su), []⟩ } ∈ (t.clu cl).rets)) ∧
    (x.work.step = 2 → x.work.left ≠ [] → (∀ o, o ∈ x.work.left → o < 64 * u.su) →
      ∃ t o, exec (.tailraceWriteback cl seq) s = .next t ∧ o ∈ x.work.left ∧ (∀ a, t.byte a = s.byte a) ∧
        t.isFull (slot + o) = false ∧ (∀ w, w ≠ slot + o → t.isFull w = s.isFull w) ∧
        (x.work.left.length = 1 → { x with work := ⟨3, [], []⟩ } ∈ (t.clu cl).rets)) ∧
    (x.work.step = 3 → s.flying x.flits = false → ∃ t, exec (.tailraceWriteback cl seq) s = .next t ∧ (∀ a, t.byte a = s.byte a) ∧ t.isFull mark = false ∧
      ⟨6, seq, 0, x.sc⟩ ∈ (t.clu cl).done ∧ ∀ y, y ∈ (t.clu cl).rets → y.seq ≠ seq))
  -- (7) SubscriptionsEnd
  ∧ (
  ∀ (s : State) (d : XR) (b : XS), s.me.buf = [] →
    let cl := s.cur / 1024
    (s.subOf cl (s.me.getS b) = none → exec (.hdend d b) s = .next (s.trap 0x28 (s.me.getS b))) ∧
    (∀ u, s.flows → s.subOf cl (s.me.getS b) = some u →
      ∃ t, exec (.hdend d b) s = .next t ∧ t.me.why = some .longOp ∧ t.me.x = s.me.x ∧ t.me.pc = BitVec.ofNat 64 s.nextPc ∧ KeepsMemory s t ∧
        (t.clu cl).subs = (s.clu cl).subs.map (fun x => if x.seq = u.seq then { x with stop := x.stop ++ [(s.cur, d)] } else x) ∧
        Instr.headraceTileFill cl u.seq ∈ t.agenda))

/-! ## The optical matrix unit (R189 to R235, R545, R546) -/

/-- (1) R45, R48, R217, R218: an optical head reads its registers and FCTX, and, with its context's buffer empty, reaches its
cluster's queue (a PHWR its millwright); its context stays out of the rotation. A pass form's .dfmt is the format FCTX.fmto
names.
(2) OPTICAL_ACCEPTANCE (R218, R219, R221, R227 to R231): a head that has reached its queue, waits for no earlier one and has
its checks passed is accepted. A load, a decomposition and a pass of OMX or OMXA write their token and let their context go
on, the words of a pass becoming empty, and the bytes of an image to be undefined until the decomposition has written them;
the other forms hold their context until they complete.
(3) OPTICAL_ACCEPTANCE (R225): an optical head accepted from an OMU that is absent, not ready or UNLOCKED raises OMU_UNAVAIL
with GOVSTAT; a pass in DRIFT raises GOV_DRIFT; an image address that is not 64-byte aligned raises PHASE_IMAGE with it. Each
is precise, at the head. -/
def Obligations.OpticalHeads : Prop :=
  -- (1) OpticalHeadsAreSent
  (
  ∀ (s : State) (bf sh : Bool) (pol : Pol) (ofm o : Ofm) (d : XR) (b c e : XS) (i : Instr) (r : OptReq), s.flows → s.me.buf = [] →
    let req (f : OptForm) (p : Pol) (m : Ofm) (x y z : Word) : OptReq := ⟨f, p, m, d, x, y, z, s.me.fctx⟩
    (i, r) ∈ [((.phld d b : Instr), req .phld .mark .ph16 (s.me.getS b) 0 0), (.phsw d, req .phsw .mark .ph16 0 0 0),
        (.phwr bf d b c, req (.phwr bf) .mark .ph16 (s.me.getS b) (s.me.getS c) 0),
        (.omx pol ofm d b c e, req .omx pol o (s.me.getS b) (s.me.getS c) (s.me.getS e)),
        (.omxa pol ofm d b c e, req .omxa pol o (s.me.getS b) (s.me.getS c) (s.me.getS e)),
        (.omxw pol ofm d b c e, req .omxw pol o (s.me.getS b) (s.me.getS c) (s.me.getS e)),
        (.prbe d, req .prbe .mark .ph16 0 0 0), (.phcrc sh d, req (.phcrc sh) .mark .ph16 0 0 0)] →
    (r.form ∈ [.omx, .omxa, .omxw] → passOfm r.form ofm s.me.fctx = some o) →
    ((∃ x, r.form = .phwr x) ∨ (r.form ∈ [.omx, .omxa, .omxw] ∧ o ≠ .ph16) → rmodeOf s.me.fctx < 6) →
    ∃ t, exec i s = .next t ∧ Instr.opticalAcceptance s.cur r ∈ t.agenda ∧ t.me = { s.me with why := some .accept, held := false, sent := true } ∧
      KeepsOthers s t ∧ KeepsMemory s t ∧ t.cores = s.cores)
  -- (2) OpticalHeadsAreAccepted
  ∧ (
  ∀ (s : State) (c : Nat) (r : OptReq), s.form → (s.ctx c).why = some .accept →
    let cl := c / 1024
    let o := s.omu cl
    let go (t : State) (kind : Nat) : Prop := (t.ctx c).why = none ∧ (t.ctx c).pc = BitVec.ofNat 64 (s.ctx c).nextPc ∧
      (t.ctx c).getX r.d = if r.d = 0 then 0 else BitVec.ofNat 64 (kind * 2 ^ 32 + s.seqNext cl kind)
    (∀ bf ps qs, r.form = .phwr bf → (s.clu cl).mill.length < 17 → r.b.toNat % 64 = 0 → r.c.toNat % 64 = 0 →
      s.vaRange (s.asker c) (s.ctx c).walkFail .load r.b.toNat (if bf then 8192 else 16384) = .ok ps →
      s.vaRange (s.asker c) (s.ctx c).walkFail .store r.c.toNat 16456 = .ok qs →
      ∃ t old, exec (.opticalAcceptance c r) s = .next t ∧ go t 2 ∧
        (s.hostMode 0 = false → ∀ a, (∀ p, p ∈ qs → a < p.key ∨ p.key + p.len ≤ a) → t.byte a = s.byte a) ∧ (t.clu cl).mill = (s.clu cl).mill ++
        [⟨s.seqNext cl 2, c, (s.ctx c).asid.toNat, bf, r.fctx, ps.map (fun p => (p.key, p.len)), qs.map (fun p => (p.key, p.len)), [], old⟩]) ∧
    (o.reached c s.cycle = true → behind o.waiting c r.form = false → o.swapping = false → Config.omuPresent cl = true → s.omuUp cl = true → o.gov ≠ 0 →
      (∀ ps, r.form = .phld → r.b.toNat % 64 = 0 → s.vaRange (s.asker c) (s.ctx c).walkFail .load r.b.toNat 16448 = .ok ps →
        ∃ t, exec (.opticalAcceptance c r) s = .next t ∧ go t 1 ∧ KeepsMemory s t ∧ (t.omu cl).loading = true ∧
          OptCmd.load (s.seqNext cl 1) c (s.ctx c).asid.toNat (ps.map fun p => (p.key, p.len)) ∈ (t.omu cl).queue) ∧
      (∀ x, r.form = .phsw ∧ x = OptCmd.swap c r.d ∨ r.form = .prbe ∧ x = OptCmd.prbe c r.d →
        ∃ t, exec (.opticalAcceptance c r) s = .next t ∧ (t.ctx c).why = some .await ∧ (t.ctx c).pc = (s.ctx c).pc ∧ KeepsMemory s t ∧
          x ∈ (t.omu cl).queue) ∧
      (∀ sh, r.form = .phcrc sh → o.queue = [] →
        ∃ t, exec (.opticalAcceptance c r) s = .next t ∧ (t.ctx c).why = none ∧ (t.ctx c).getX r.d = (if r.d = 0 then 0 else o.crcWord sh) ∧
          (t.ctx c).pc = BitVec.ofNat 64 (s.ctx c).nextPc ∧ KeepsMemory s t) ∧
      (∀ p, r.form = .omx ∨ r.form = .omxa ∨ r.form = .omxw → o.gov ≠ 3 → s.checkPass c r = .ok p → (s.clu cl).ranges.length < 8 →
        (∀ n q, q ∈ (s.core n).feq → q.loc ∉ p.dataWords ++ p.tagWords) →
        ∃ t, exec (.opticalAcceptance c r) s = .next t ∧ (∀ a, t.byte a = s.byte a) ∧
          (∀ w, w ∈ p.dataWords ++ p.tagWords → t.isFull w = false) ∧ OptCmd.pass p ∈ (t.omu cl).queue ∧
          (r.form ≠ .omxw → go t 0) ∧ (r.form = .omxw → (t.ctx c).why = some .longOp ∧ (t.ctx c).x = (s.ctx c).x))))
  -- (3) OpticalRefusals
  ∧ (
  ∀ (s : State) (c : Nat) (r : OptReq), (s.ctx c).why = some .accept →
    let cl := c / 1024
    let o := s.omu cl
    let t := s.leaveQueue c
    let away : Bool := !Config.omuPresent cl || !s.omuUp cl || o.gov == 0
    o.reached c s.cycle = true → behind o.waiting c r.form = false → o.swapping = false →
    (away = true → r.form ∈ [.phld, .phsw, .omx, .omxa, .omxw, .prbe] →
      exec (.opticalAcceptance c r) s = answered c (.next (takeTrap t c 0x38 (s.govstat cl) (s.ctx c).pc false))) ∧
    (away = false → o.gov = 3 → r.form ∈ [.omx, .omxa, .omxw] →
      exec (.opticalAcceptance c r) s = answered c (.next (takeTrap t c 0x39 (s.govstat cl) (s.ctx c).pc false))) ∧
    (Config.omuPresent cl = false → ∀ sh, r.form = .phcrc sh →
      exec (.opticalAcceptance c r) s = answered c (.next (takeTrap t c 0x38 (s.govstat cl) (s.ctx c).pc false))) ∧
    (away = false → r.form = .phld → r.b.toNat % 64 ≠ 0 →
      exec (.opticalAcceptance c r) s = answered c (.next (takeTrap t c 0x3A r.b (s.ctx c).pc false))))

/-- (1) R125, R205, R210: the code of an element whose exact value has the floor lo and the ceiling hi lies within the bound of
its ebc, whatever the free value, and every code within the bound comes of some free value; one of a switch image is the
nearest integer; a saturated code stays within 32,767 and keeps what lies there.
(2) PASS_ROW_WRITE (R191 to R193, R203, R221, R222): one step of a pass writes one row of a PH16 destination: 64 codes at the
row's place, whole and full, and no other byte; the next row follows, or a probe where one is due. A row of the high vectors
of a split pass writes nothing.
(3) PROBE_SYMBOL (R204, R206, R230, R546): a probe's count, at most 15, lowers ebcmax to itself and never raises it. PRBE
writes the count, ebcmax after it and whether it was lowered; on an empty live bank it raises PHASE_IMAGE. The opening probe
of a pass starts from ebcmax; each later one lowers what the pass has by its own count.
(4) PASS_COMPLETE (R203, R206, R207, R222 to R224): at its closing probe a pass below its ebcmin that may run again does so
whole, in split mode, its data words empty; the low vectors follow the high ones. Any other pass ends: each row's tag word
becomes full with the final ebc, its flags are merged, and its token is complete with its status, or its OMXW has its result.
A pass that UNLOCKED has ended gets ebc 0 and lowered in every tag, and OMU_UNAVAIL. -/
def Obligations.Passes : Prop :=
  -- (1) CodesStayWithinTheirBound
  (
  ∀ (e pick : Nat) (lo hi n c : Int), e ≤ 15 → lo ≤ hi → hi ≤ lo + 1 →
    let w : Int := 2 ^ (15 - e)
    (hi - w ≤ boundCode e lo hi pick ∧ boundCode e lo hi pick ≤ lo + w) ∧
    (hi - w ≤ c → c ≤ lo + w → ∃ k, boundCode e lo hi k = c) ∧
    2 * (roundEven n * (2 ^ 1000 : Nat) - n).natAbs ≤ 2 ^ 1000 ∧
    (2 * (roundEven n * (2 ^ 1000 : Nat) - n).natAbs = 2 ^ 1000 → roundEven n % 2 = 0) ∧
    (satCode c).natAbs ≤ 32767 ∧ (c.natAbs ≤ 32767 → satCode c = c))
  -- (2) PassRows
  ∧ (
  ∀ (s : State) (cl : Nat) (p : Pass), s.form → s.streaming cl = some p → p.probe = false → p.row < p.rows → (∀ n, (s.core n).feq = []) →
    let a := p.rowKey p.row
    let r := s.rowCodes p p.row (p.ebc p.eFin)
    (p.run = 1 → ∃ t q, exec (.passRowWrite cl) s = .next t ∧ KeepsMemory s t ∧ .pass q ∈ (t.omu cl).queue ∧ q.row = p.row + 1) ∧
    (p.run ≠ 1 → p.ofm = .ph16 → p.form ≠ .omxa → s.engReach p.who p.asid p.dst = .ok → s.blocked p.id a 128 = false →
      2 ^ 52 ≤ a →
      ∃ t q, exec (.passRowWrite cl) s = .next t ∧ .pass q ∈ (t.omu cl).queue ∧ q.row = p.row + 1 ∧ q.probe = (!p.aborted && ((p.row + 1) % 1023 == 0 || p.row + 1 == p.rows)) ∧
        (p.aborted = true → ∀ j, j < 64 → t.rdN (a + 2 * j) 2 = 0) ∧
        (∀ j, j < 64 → t.rdN (a + 2 * j) 2 = wrap (r.2.1.getD j 0) 16) ∧ (∀ k, k < 16 → t.isFull (a + 8 * k) = true) ∧
        (∀ b, b < a ∨ a + 128 ≤ b → t.byte b = s.byte b)))
  -- (3) Probes
  ∧ (
  ∀ (s : State) (cl : Nat),
    let o := s.omu cl
    (∀ c d, o.queue = [.prbe c d] →
      (o.live ≠ none → ∃ t p, exec (.probeSymbol cl) s = .next t ∧ p < 16 ∧ (t.omu cl).ebcmax = Nat.min o.ebcmax p ∧
        (t.ctx c).getX d = (if d = 0 then 0 else
          BitVec.ofNat 64 (p + Nat.min o.ebcmax p * 16 + if p < o.ebcmax then 256 else 0)) ∧ (t.ctx c).why = none ∧
        (t.ctx c).pc = BitVec.ofNat 64 (s.ctx c).nextPc ∧ KeepsMemory s t) ∧
      (o.live = none → ∃ t, exec (.probeSymbol cl) s = .next t ∧ (t.omu cl).ebcmax = o.ebcmax ∧ (t.omu cl).queue = [] ∧ KeepsMemory s t)) ∧
    (∀ p, s.streaming cl = some p → p.probe = true →
      (p.row = 0 → ∃ t q, exec (.probeSymbol cl) s = .next t ∧ .pass q ∈ (t.omu cl).queue ∧ q.probe = false ∧ q.row = 0 ∧
        q.eFin ≤ q.eNow ∧ q.eNow ≤ o.ebcmax ∧ (t.omu cl).ebcmax ≤ o.ebcmax ∧ KeepsMemory s t) ∧
      (p.row ≠ 0 → ∃ t q, exec (.probeSymbol cl) s = .next t ∧ .pass q ∈ (t.omu cl).queue ∧ q.probe = false ∧ q.row = p.row ∧
        q.eNow = Nat.min p.eNow (p.probes.headD 15) ∧ (t.omu cl).ebcmax = Nat.min o.ebcmax (p.probes.headD 15) ∧ KeepsMemory s t)))
  -- (4) PassesEnd
  ∧ (
  ∀ (s : State) (cl : Nat) (p : Pass), s.form → s.streaming cl = some p → p.probe = false → p.row = p.rows → s.tagsWait p = false →
    s.parkedPasses cl = [] → p.late = [] →
    let e := p.ebc p.eNow
    (p.aborted = true → s.savedFor (p.who / 16) p.asid = false → ∀ n, p.seq = some n → s.engReach p.who p.asid p.tag = .ok →
      (p.exps.map (·.1)).Nodup → 2 ^ 52 ≤ p.tag → (∀ n, (s.core n).feq = []) →
      ∃ t, exec (.passComplete cl) s = .next t ∧ ⟨0, n, 7, .cluster⟩ ∈ (t.clu cl).done ∧
        ⟨0x38, tokenOf 0 n⟩ ∈ (t.ctx p.who).asyncs ∧
        (p.toff ≠ 0 → ∀ i x, (i, x) ∈ p.exps → t.rdN (p.tagKey i) 8 = tagWord 0 p.mark p.split true x ∧ t.isFull (p.tagKey i) = true)) ∧
    (p.aborted = false → p.run = 1 → ∃ t q, exec (.passComplete cl) s = .next t ∧ .pass q ∈ (t.omu cl).queue ∧ q.run = 2 ∧ q.row = 0 ∧ q.eHigh = p.eNow ∧
      KeepsMemory s t) ∧
    (p.aborted = false → p.run = 0 → p.pol = .split → p.form ≠ .omxa → e < p.ebcmin → (∀ n, (s.core n).feq = []) → ∃ t q, exec (.passComplete cl) s = .next t ∧
      .pass q ∈ (t.omu cl).queue ∧ q.run = 1 ∧ q.split = true ∧ q.row = 0 ∧ (∀ w, w ∈ p.dataWords → t.isFull w = false) ∧
      (∀ a, t.byte a = s.byte a)) ∧
    (p.aborted = false → p.run ≠ 1 → p.ebcmin ≤ e → p.mark = false → s.savedFor (p.who / 16) p.asid = false →
      s.engReach p.who p.asid p.tag = .ok → (p.exps.map (·.1)).Nodup → 2 ^ 52 ≤ p.tag → (∀ n, (s.core n).feq = []) →
      ∃ t, exec (.passComplete cl) s = .next t ∧
        (p.toff ≠ 0 → ∀ i x, (i, x) ∈ p.exps → t.rdN (p.tagKey i) 8 = tagWord e false p.split (i < p.lowered) x ∧
          t.isFull (p.tagKey i) = true) ∧
        (p.toff = 0 → KeepsMemory s t) ∧ (t.ctx p.who).fstat = (s.ctx p.who).fstat ||| p.flags ∧
        (∀ n, p.seq = some n → ⟨0, n, p.status, .cluster⟩ ∈ (t.clu cl).done) ∧
        (p.seq = none → p.d ≠ 0 → (s.omu cl).queue = [.pass p] → (t.ctx p.who).getX p.d =
          BitVec.ofNat 64 (e + (if p.split then 32 else 0) + if 0 < p.lowered then 64 else 0))))

/-- (1) PHASE_LOAD_END and PHASE_SWAP (R197, R199, R227, R228): a load that ends puts its image, if valid, into the shadow bank,
and leaves the live bank; an invalid one leaves the shadow bank empty and raises PHASE_IMAGE. A swap whose shadow bank is
valid exchanges the banks and writes the CRC of the new live image; with an empty one it traps and changes neither.
(2) R194, R197, R201: whatever phases the millwright's algorithm gives, the image it builds around them is valid, with an
smax that is normal and positive.
(3) DECOMPOSITION_COMPLETE (R201, R229): a block is read and its image and residual are formed, the bytes of the image
undefined until they are written; each step then writes one of their words, the last of which ends the command; a block with
a NaN or an infinity writes nothing: what acceptance had made undefined is what it was, and the command ends with
PHASE_IMAGE.
(4) CALIBRATION_START, CALIBRATION_COMPLETE, GOVERNOR_LOCK, GOVERNOR_ENTER_DRIFT, GOVERNOR_LEAVE_DRIFT, RECALIBRATION_START
and TEMPERATURE_LOOP (R67, R202, R203, R545, R546): the governor goes from UNLOCKED to TRACKING when calibration completes
under comb light, with an ebcmax of 15 or less; to LOCKED when ebcmax has stood for 2^20 cycles, which makes its unit ready
with its cluster; to DRIFT and back by its trims; a recalibration takes it to UNLOCKED with its banks empty and its unit not
ready. -/
def Obligations.PhasesAndGovernor : Prop :=
  -- (1) PhaseBanks
  (
  ∀ (s : State) (cl : Nat),
    let o := s.omu cl
    (∀ n w a rs, o.queue = [.load n w a rs] → (∀ r, r ∈ rs → s.engReach w a r.1 ≠ .held) →
      let img := s.readRuns rs
      let ok := imageValid img = true ∧ ∀ r, r ∈ rs → s.badIn r.1 r.2 = none
      ∃ t, exec (.phaseLoadEnd cl) s = .next t ∧ (t.omu cl).live = o.live ∧ (t.omu cl).queue = [] ∧ (t.omu cl).loading = false ∧
        KeepsMemory s t ∧ (ok → (t.omu cl).shadow = some img ∧ ⟨1, n, 0, .cluster⟩ ∈ (t.clu cl).done) ∧
        (¬ ok → (t.omu cl).shadow = none ∧ ⟨1, n, 7, .cluster⟩ ∈ (t.clu cl).done)) ∧
    (∀ c d, o.queue = [.swap c d] →
      (∀ img, o.shadow = some img → ∃ t, exec (.phaseSwap cl) s = .next t ∧ (t.omu cl).live = some img ∧ (t.omu cl).shadow = o.live ∧
        (t.ctx c).getX d = (if d = 0 then 0 else BitVec.ofNat 64 (imageCrc img)) ∧ (t.ctx c).why = none ∧
        (t.ctx c).pc = BitVec.ofNat 64 (s.ctx c).nextPc ∧ KeepsMemory s t) ∧
      (o.shadow = none → ∃ t, exec (.phaseSwap cl) s = .next t ∧ (t.omu cl).live = o.live ∧ (t.omu cl).shadow = none ∧
        KeepsMemory s t)))
  -- (2) BuiltImagesAreValid
  ∧ (
  ∀ (smax phases : Nat), normalPos smax = true → imageValid (buildImage smax phases) = true)
  -- (3) Decompositions
  ∧ (
  ∀ (s : State) (cl a : Nat) (x : Decomp), s.form → (s.clu cl).mill = [x] →
    let bs := blockElems x.bf (s.readRuns x.block)
    let f := if x.bf then fmtBF16 else fmtF32
    (x.out = [] → x.image = [(a, 16456)] → a + 16456 ≤ 2 ^ 52 →
      (∀ r, r ∈ x.block ++ x.image → s.engReach x.who x.asid r.1 = .ok) → (∀ r, r ∈ x.block → s.badIn r.1 r.2 = none) →
      (∀ ints e, blockInts f (envOf x.fctx) bs = some (ints, e) →
        let b := rowsOf64 64 ints
        let img := buildImage (blockSmax b e) (Config.decompose bs x.fctx)
        ∃ t, exec (.decompositionComplete cl) s = .next t ∧ (∀ b, b < a ∨ a + 16456 ≤ b → t.byte b = s.byte b) ∧
          (t.clu cl).mill = [{ x with out := runWords x.image (img + residual img b e * 2 ^ (8 * 16448)) }] ∧
          Instr.decompositionComplete cl ∈ t.agenda) ∧
      (blockInts f (envOf x.fctx) bs = none → (x.old.map (·.1)).Nodup → (∀ o, o ∈ x.old → o.1 % 8 = 0) →
        ∃ t, exec (.decompositionComplete cl) s = .next t ∧
          (∀ b, (∀ o, o ∈ x.old → b < o.1 ∨ o.1 + 8 ≤ b) → t.byte b = s.byte b) ∧
          (∀ o, o ∈ x.old → s.rdN o.1 8 = o.2.1 → t.rdN o.1 8 = o.2.2 % 2 ^ 64) ∧ ⟨2, x.seq, 7, .cluster⟩ ∈ (t.clu cl).done ∧ (t.clu cl).mill = [])) ∧
    (x.out ≠ [] → (∀ w, w ∈ x.out → w.1 < 2 ^ 52 ∧ s.engReach x.who x.asid w.1 = .ok) →
      ∃ t w, exec (.decompositionComplete cl) s = .next t ∧ w ∈ x.out ∧ t.rdN w.1 8 = w.2 % 2 ^ 64 ∧
        (∀ b, b < w.1 ∨ w.1 + 8 ≤ b → t.byte b = s.byte b) ∧
        (x.out.length = 1 → ⟨2, x.seq, 0, .cluster⟩ ∈ (t.clu cl).done ∧ (t.clu cl).mill = []) ∧
        (1 < x.out.length → ∃ l, (t.clu cl).mill = [{ x with out := l }] ∧ l.length + 1 = x.out.length ∧
          Instr.decompositionComplete cl ∈ t.agenda)))
  -- (4) Governor
  ∧ (
  ∀ (s : State) (cl : Nat),
    let o := s.omu cl
    (o.gov = 0 → o.calibrating = false → s.fwRuns = true → s.light.getLsbD (lightSite (cl / 16)) = true → Config.omuPresent cl = true →
      s.hostMode 1 = false → ∃ t, exec (.calibrationStart cl) s = .next t ∧ (t.omu cl).calibrating = true ∧ (t.omu cl).gov = 0 ∧
        Instr.calibrationComplete cl ∈ t.agenda ∧ KeepsMemory s t) ∧
    (o.calibrating = true → s.light.getLsbD (lightSite (cl / 16)) = true → s.mgmt.assists = [] →
      ∃ t, exec (.calibrationComplete cl) s = .next t ∧ (t.omu cl).gov = 1 ∧ (t.omu cl).ebcmax < 16 ∧ (t.omu cl).calibrating = false ∧
        Instr.governorLock cl ∈ t.agenda ∧ KeepsMemory s t) ∧
    (o.gov = 1 → (s.cycle < o.changed + 2 ^ 20 → exec (.governorLock cl) s = .next (s.post (.governorLock cl))) ∧
      (o.changed + 2 ^ 20 ≤ s.cycle → ∃ t, exec (.governorLock cl) s = .next t ∧ (t.omu cl).gov = 2 ∧ (t.omu cl).ebcmax = o.ebcmax ∧
        (cl < 512 → s.clusterUp cl = true → Config.omuPresent cl = true → t.omuUp cl = true) ∧ KeepsMemory s t)) ∧
    (o.gov = 1 ∨ o.gov = 2 → ∃ t, exec (.governorEnterDrift cl) s = .next t ∧ (t.omu cl).gov = 3 ∧ (t.omu cl).trim = 0 ∧
      (t.omu cl).live = o.live) ∧
    (o.gov = 3 → ∃ t, exec (.governorLeaveDrift cl) s = .next t ∧ (t.omu cl).gov = 1 ∧ 16 < (t.omu cl).trim ∧ KeepsMemory s t) ∧
    (o.gov = 3 → o.drifting + 2 ^ 26 ≤ s.cycle → o.queue = [] → cl < 512 → ∃ t, exec (.recalibrationStart cl) s = .next t ∧
      (t.omu cl).gov = 0 ∧ (t.omu cl).ebcmax = 0 ∧ (t.omu cl).live = none ∧ (t.omu cl).shadow = none ∧ t.omuUp cl = false ∧
      Instr.calibrationStart cl ∈ t.agenda ∧ KeepsMemory s t) ∧
    (o.gov ≠ 0 → o.loopAt + 2 ^ 16 ≤ s.cycle → ∃ t, exec (.temperatureLoop cl) s = .next t ∧ (t.omu cl).ebcmax ≤ o.pmin ∧
      (t.omu cl).ebcmax < 16 ∧ (t.omu cl).pmin = 15 ∧ (t.omu cl).loopAt = s.cycle ∧ KeepsMemory s t ∧
      (t.omu cl).gov = (if o.gov = 2 ∧ (t.omu cl).ebcmax ≠ o.ebcmax then 1 else o.gov)))

/-! ## System registers, launches and pre-emption (R42 to R70, R368 to R373, R433 to R445) -/

/-- (1) R42 to R66, R433: MFS reads each assigned register that the context may read into its destination; one that only sys may
read raises PRIVILEGE with its number in an app context, and a number that names none is illegal.
(2) R7, R8, R43, R44, R46 to R50, R56 to R58, R60, R433: an MTS with the right to write stores its operand: FCTX, EBCMIN and
SCPTR in the copy in force, FSTAT by clearing the bits that are 0 but those merged in the same cycle, TVEC in context 0 with
dlg 0. A set reserved bit raises RESERVED_FIELD, and an app context's write of a sys register PRIVILEGE; a read-only
register's write is discarded.
(3) R61 to R64, R389: the miller's writes of the deque registers and of the sluice masks. DQBASE is written with the deque
empty, DQSPILL with nothing spilled, DQTOP and DQBOT so that at most 256 entries stand between them; else TASK_STATE. Any
other context's write raises PRIVILEGE. -/
def Obligations.SystemRegisters : Prop :=
  -- (1) SystemRegisterReads
  (
  ∀ (s : State) (d : XR) (num : BitVec 12) (v : Word), s.flows →
    let c := s.me
    let k := s.core s.myCore
    ((num, v) ∈ [(0x001#12, c.fctx), (0x002#12, c.scptr), (0x003#12, c.fstat), (0x004#12, BitVec.ofNat 64 (ebcminOf c.fctx)),
        (0x010#12, c.ctxid), (0x011#12, c.lcore), (0x012#12, c.stage), (0x013#12, c.taskf), (0x100#12, c.priv), (0x200#12, k.dqbase),
        (0x201#12, k.dqtop), (0x202#12, k.dqbot), (0x203#12, k.dqspill), (0x210#12, k.sgmask[0]), (0x211#12, k.sgmask[1]),
        (0x212#12, k.sgmask[2]), (0x213#12, k.sgmask[3]), (0x300#12, s.govstat (s.cur / 1024))] →
      exec (.mfs d num) s = .next (s.wroteX d v)) ∧
    ((num, v) ∈ [(0x101#12, c.epc), (0x102#12, c.ecause), (0x103#12, c.eval), (0x104#12, c.tvec), (0x105#12, c.asid)] →
      (c.sys = true → exec (.mfs d num) s = .next (s.wroteX d v)) ∧
      (c.sys = false → exec (.mfs d num) s = .next (s.trap 0x04 (num.setWidth 64)))) ∧
    (∀ i : Fin 32, num = BitVec.ofNat 12 (0x400 + i.val) → exec (.mfs d num) s = .next (s.wroteX d s.rdySeen[i])) ∧
    (num ∉ [0x001#12, 0x002#12, 0x003#12, 0x004#12, 0x010#12, 0x011#12, 0x012#12, 0x013#12, 0x100#12, 0x101#12, 0x102#12, 0x103#12,
        0x104#12, 0x105#12, 0x200#12, 0x201#12, 0x202#12, 0x203#12, 0x210#12, 0x211#12, 0x212#12, 0x213#12, 0x300#12] →
      num < 0x400#12 ∨ 0x41F#12 < num → exec (.mfs d num) s = .next (s.trapHead 0x01)))
  -- (2) SystemRegisterWrites
  ∧ (
  ∀ (s : State) (a : XS) (i : Instr) (sys : Bool) (num rsv : Word) (w : Ctx), s.flows →
    let v := s.me.getS a
    let c := s.me
    let e := (c.fctx &&& ~~~0x78#64) ||| (v <<< 3)
    ((i, sys, num, rsv, w) ∈ [
        ((.mtsFctx a : Instr), false, 0x001, 0xFFF00000#64, if c.shadow then { c with fctxS := v } else { c with fctxB := v }),
        (.mtsEbcmin a, false, 0x004, 0xFFFFFFFFFFFFFFF0#64, if c.shadow then { c with fctxS := e } else { c with fctxB := e }),
        (.mtsScptr a, false, 0x002, 0xFF0000000000003F#64, if c.shadow then { c with scptrS := v } else { c with scptrB := v }),
        (.mtsFstat a, false, 0x003, 0xFFFFFFFFFFFFFE00#64, { c with fstat := (c.fstat &&& v) ||| (if c.merged.1 = s.cycle then c.fstat &&& c.merged.2 else 0) }),
        (.mtsPriv a, true, 0x100, 0xFFFFFFFFFFFFFFFC#64, { c with priv := v }),
        (.mtsEpc a, true, 0x101, 0xFF00000000000001#64, { c with epc := v }),
        (.mts a 0x102, true, 0x102, 0xFFFFFFFFFFFF0300#64, { c with ecause := v }),
        (.mts a 0x103, true, 0x103, 0#64, { c with eval := v }),
        (.mtsTvec a, true, 0x104, 0xFF00000000000000#64, { c with tvec := if s.cur % 16 = 0 then v &&& ~~~1#64 else v }),
        (.mtsAsid a, true, 0x105, 0xFFFFFFFFFFFF0000#64, { c with asid := v })] →
      ((sys = true → s.me.sys = true) → v &&& rsv = 0 → (i = .mtsEpc a ∨ i = .mtsTvec a → v.toNat / 2 % 32 ≠ 0) →
        exec i s = .next (s.stepped (s.setMe { w with badSys := kdel c.badSys (c.badNo num.toNat) }))) ∧
      ((sys = true → s.me.sys = true) → v &&& rsv ≠ 0 → exec i s = .next (s.trap 0x03 v)) ∧
      (sys = true → s.me.sys = false → exec i s = .next (s.trap 0x04 num))) ∧
    (∀ n, n ∈ [0x010#12, 0x011#12, 0x012#12, 0x013#12, 0x300#12, 0x400#12, 0x41F#12] → exec (.mts a n) s = .next (s.stepped s)))
  -- (3) CoreRegisterWrites
  ∧ (
  ∀ (s : State) (a : XS) (m : Fin 4), s.flows →
    let n := s.myCore
    let k := s.core n
    let v := s.me.getS a
    let ok (i : Instr) (now : Core → Word) (same : Core → Core → Prop) : Prop := ∃ t, exec i s = .next t ∧ now (t.core n) = v ∧
      same (t.core n) k ∧ t.me.pc = BitVec.ofNat 64 s.nextPc ∧ t.me.x = s.me.x ∧ KeepsMemory s t
    (s.cur % 16 = 0 →
      (v &&& ~~~0x7F800#64 = 0 → k.dqLen = 0 → ok (.mtsDqbase a) (·.dqbase) fun x y => x.dqtop = y.dqtop ∧ x.dqbot = y.dqbot ∧ x.dqspill = y.dqspill) ∧
      (v &&& ~~~0x7F800#64 = 0 → k.dqLen ≠ 0 → exec (.mtsDqbase a) s = .next (s.trap 0x08 v)) ∧
      (v.toNat < 2 ^ 32 → (k.dqbot.toNat + 2 ^ 32 - v.toNat) % 2 ^ 32 ≤ 256 → k.dqbot.toNat < 2 ^ 32 →
        ok (.mtsDqtop a) (·.dqtop) fun x y => x.dqbase = y.dqbase ∧ x.dqbot = y.dqbot ∧ x.dqspill = y.dqspill) ∧
      (v.toNat < 2 ^ 32 → (v.toNat + 2 ^ 32 - k.dqtop.toNat) % 2 ^ 32 ≤ 256 → k.dqtop.toNat < 2 ^ 32 →
        ok (.mtsDqbot a) (·.dqbot) fun x y => x.dqbase = y.dqbase ∧ x.dqtop = y.dqtop ∧ x.dqspill = y.dqspill) ∧
      (v &&& 0xFF00000000000FFF#64 = 0 → k.nblk = 0 →
        ok (.mtsDqspill a) (·.dqspill) fun x y => x.dqbase = y.dqbase ∧ x.dqtop = y.dqtop ∧ x.dqbot = y.dqbot) ∧
      (v &&& 0xFF00000000000FFF#64 = 0 → k.nblk ≠ 0 → exec (.mtsDqspill a) s = .next (s.trap 0x08 v)) ∧
      ok (.mtsSgmask m a) (·.sgmask[m]) fun x y => ∀ i, i ≠ m → x.sgmask[i] = y.sgmask[i]) ∧
    (s.cur % 16 ≠ 0 → ∀ i num, (i, num) ∈ [((.mtsDqbase a : Instr), (0x200 : Word)), (.mtsDqtop a, 0x201), (.mtsDqbot a, 0x202), (.mtsDqspill a, 0x203),
        (.mtsSgmask 0 a, 0x210), (.mtsSgmask 1 a, 0x211), (.mtsSgmask 2 a, 0x212), (.mtsSgmask 3 a, 0x213)] →
      exec i s = .next (s.trap 0x04 num)))

/-- R59: an MTS to EPC or TVEC, by a context that may write it, whose address has a head index of 0 raises the reserved-field
trap: the state is that of the trap entry alone, the register unwritten. -/
def Obligations.HeadIndexZeroIsReserved : Prop :=
  ∀ (s : State) (a : XS), s.me.sys = true → (s.me.getS a).toNat / 2 % 32 = 0 →
    exec (.mtsEpc a) s = .next (s.trap 0x03 (s.me.getS a)) ∧ exec (.mtsTvec a) s = .next (s.trap 0x03 (s.me.getS a))

/-- (1) R368 to R371, R435: a LAUNCH whose record is refused gets its status and changes no core; 6 for a record that breaks its
table, 7 for one that asks at app for sys or for another ASID. One that is accepted makes every core of its set a core of the
new launch, with a placement to come, and waits until they are placed; each is a release at DEVICE scope.
(2) CORE_PLACEMENT (R57, R70, R370 to R372): a core is placed in one step. Its first contexts run at the record's entry,
their x registers 0, FCTX and SCPTR as the record gives them, the ASID the launch's, and at sys only if the record asks for
it; its deque registers are 0. The last core placed ends the LAUNCH with status 0.
(3) LAUNCH_END (R373): when every context of a launch has halted and all that it asked for is done, its cores belong to no
launch and its completion action follows: none, or the record's value written at the record's address.
(4) R57, R106, R436, R437: START by the miller places a halted context of its core at the record's entry with its argument in
x1; 3 for a context that is not halted, 6 for an entry that is no code address. REAP gives 0 for a halted context, and halts
one that is held, with its TASKF as the result; a running one is asked to stop, and REAP waits. Any other context's START or
REAP raises PRIVILEGE. -/
def Obligations.LaunchLife : Prop :=
  -- (1) Launches
  (
  ∀ (s : State) (d : XR) (b : XS) (ps : List Piece), s.flows → s.me.buf = [] → s.me.armed = none → s.me.recBad = false →
    (s.me.getS b).toNat % 64 = 0 → s.blockMe .load (s.me.getS b).toNat 256 = .ok ps → s.badPiece ps = none →
    s.quiet s.cur .device none = true →
    let r : BitVec 2048 := BitVec.ofNat 2048 (s.readKeys (pieceKeys ps))
    (∀ st, s.launchRefused r = some st → ∃ t, exec (.launch d b) s = .next t ∧
      t.me.getX d = (if d = 0 then 0 else BitVec.ofNat 64 st) ∧ t.me.rel = some .device ∧ t.cores = s.cores ∧ t.launches = s.launches ∧
      t.me.pc = BitVec.ofNat 64 s.nextPc ∧ KeepsMemory s t) ∧
    (recBad r = true → s.launchRefused r = some 6) ∧
    (recBad r = false → s.me.sys = false → r.getLsbD 147 = true ∨ bits r.toNat 175 160 ≠ s.me.asid.toNat → s.launchRefused r = some 7) ∧
    (s.launchRefused r = none → bits r.toNat 447 384 = 0 → ∃ t, exec (.launch d b) s = .next t ∧ t.nLaunch = s.nLaunch + 1 ∧
      (t.launch s.nLaunch).cores = recCores r ∧ (t.launch s.nLaunch).record = r ∧ (t.launch s.nLaunch).live = true ∧
      (t.launch s.nLaunch).waiter = some (s.cur, d) ∧ (∀ n, n ∈ recCores r → (t.core n).launch = some s.nLaunch ∧
        (t.core n).rq = [] ∧ (t.core n).spill = [] ∧ Instr.corePlacement s.nLaunch n ∈ t.agenda) ∧
      t.me.why = some .longOp ∧ t.me.rel = some .device ∧ t.me.x = s.me.x ∧ t.me.pc = BitVec.ofNat 64 s.nextPc ∧ KeepsMemory s t))
  -- (2) Placement
  ∧ (
  ∀ (s : State) (l n : Nat),
    let x := s.launch l
    let r := x.record
    x.live = true → n ∉ x.placed → s.remapState n = 1 → (∀ w, x.waiter = some w → w.1 / 16 ≠ n ∧ (s.ctx w.1).why = some .longOp) →
    ∃ t, exec (.corePlacement l n) s = .next t ∧ (t.launch l).placed = x.placed ++ [n] ∧
      (∀ j, j ≤ bits r.toNat 151 148 →
        let c := t.ctx (16 * n + j)
        c.run = .running ∧ c.why = none ∧ c.pc = BitVec.ofNat 64 (bits r.toNat 119 65 * 2) ∧ c.x = Vector.replicate 32 0 ∧
        c.v = Vector.replicate 16 0 ∧ c.fctxB = BitVec.ofNat 64 (bits r.toNat 255 192) &&& ~~~0xFFF00000 ∧
        c.scptrB = BitVec.ofNat 64 (bits r.toNat 319 256) &&& 0x00FFFFFFFFFFFFC0 ∧ c.shadow = false ∧ c.fstat = 0 ∧ c.taskf = 0 ∧
        c.asid = BitVec.ofNat 64 x.asid ∧ c.priv = (if r.getLsbD 147 then 1 else 0) ∧ c.buf = []) ∧
      (t.core n).dqbase = 0 ∧ (t.core n).dqtop = 0 ∧ (t.core n).dqbot = 0 ∧ (t.core n).dqspill = 0 ∧ (t.core n).nblk = 0 ∧
      (t.core n).rho = 0 ∧
      (∀ w, x.waiter = some w → x.placed.length + 1 = x.cores.length → (t.ctx w.1).getX w.2 = 0 ∧ (t.ctx w.1).why = none))
  -- (3) LaunchesEnd
  ∧ (
  ∀ (s : State) (l : Nat) (p : Piece),
    let x := s.launch l
    let va := bits x.record.toNat 1471 1408
    (x.live = true → x.acting = false → s.launchHalted l = true → s.launchQuiet l = true → bits x.record.toNat 1345 1344 = 0 →
      ∃ t, exec (.launchEnd l) s = .next t ∧ (t.launch l).live = false ∧ (t.launch l).acting = false ∧ KeepsMemory s t ∧
        ∀ n, n ∈ x.cores → (s.core n).launch = some l → (t.core n).launch = none) ∧
    (x.live = true → x.acting = false → s.launchHalted l = false → exec (.launchEnd l) s = .next s) ∧
    (s.form → x.acting = true → bits x.record.toNat 1345 1344 = 1 → inWindow va = false →
      va < 2 ^ 56 → s.devRange x.asker (launchUnit l) .store va 8 = .ok [p] → s.badPiece [p] = none →
      s.heldKey x.issuer x.asid .atomic p.key = false →
      ∃ t, exec (.launchEnd l) s = .next t ∧ (t.launch l).acting = false ∧ t.rdN p.key 8 = bits x.record.toNat 1535 1472 ∧
        KeepsMemoryBut s t p.key 8))
  -- (4) StartAndReap
  ∧ (
  ∀ (s : State) (n : Fin 16) (d : XR) (b : XS) (p : Piece), s.flows →
    let c := 16 * (s.cur / 16) + n.val
    let w := s.rdN p.key 16
    (s.cur % 16 ≠ 0 → exec (.start n d b) s = .next (s.trapHead 0x04) ∧ exec (.reap n d) s = .next (s.trapHead 0x04)) ∧
    (s.cur % 16 = 0 → n ≠ 0 →
      ((s.me.getS b).toNat % 16 = 0 → s.resolveMe .load (s.me.getS b).toNat 16 = .ok [p] → p.len = 16 → s.badPiece [p] = none →
        s.me.buf = [] → s.me.armed = none → s.me.recBad = false → s.quiet s.cur .core none = true → s.remapState (s.cur / 16) = 1 →
        ((s.ctx c).run ≠ .halted → ∃ t, exec (.start n d b) s = .next t ∧ t.me.getX d = (if d = 0 then 0 else 3) ∧ t.ctx c = s.ctx c ∧
          KeepsMemory s t) ∧
        ((s.ctx c).run = .halted → (s.ctx c).asyncs = [] → goodPc (w % 2 ^ 64) = false → ∃ t, exec (.start n d b) s = .next t ∧
          t.me.getX d = (if d = 0 then 0 else 6) ∧ t.ctx c = s.ctx c ∧ KeepsMemory s t) ∧
        ((s.ctx c).run = .halted → (s.ctx c).asyncs = [] → goodPc (w % 2 ^ 64) = true → ∃ t, exec (.start n d b) s = .next t ∧ t.me.getX d = 0 ∧
          (t.ctx c).run = .running ∧ (t.ctx c).pc = BitVec.ofNat 64 w ∧ (t.ctx c).getX 1 = BitVec.ofNat 64 (w / 2 ^ 64) ∧
          (∀ i, i ≠ 1 → (t.ctx c).getX i = 0) ∧ t.me.rel = some .core ∧ t.me.pc = BitVec.ofNat 64 s.nextPc ∧ KeepsMemory s t)) ∧
      ((s.ctx c).run = .halted → exec (.reap n d) s = .next (s.steppedLong (s.putX d 0))) ∧
      ((s.ctx c).run = .held → (s.ctx c).buf = [] → ∃ t, exec (.reap n d) s = .next t ∧
        t.me.getX d = (if d = 0 then 0 else (s.ctx c).taskf) ∧ (t.ctx c).run = .halted ∧ (t.ctx c).taskf = 0 ∧ (t.ctx c).shadow = false ∧
        t.me.pc = BitVec.ofNat 64 s.nextPc ∧ KeepsMemory s t) ∧
      ((s.ctx c).run = .running → (s.ctx c).why = none → ∃ t, exec (.reap n d) s = .next t ∧ (t.ctx c).reaping = true ∧
        (t.ctx c).run = .running ∧ t.me.why = some (.buffer 0) ∧ t.me.pc = s.me.pc ∧ KeepsMemory s t)))

/-- (1) R438, R439: CTXSV of a halted context writes its image, 1,024 bytes, at the block; CTXLD loads an image into a halted
context, all but STAGE, LCORE and CTXID; one whose reserved fields are not zero gives 6, and a context that runs gives 3; a
halted image with a half-taken task first goes on with it. Both need sys and a 64-byte-aligned block.
(2) R438, R439: a context whose hard-wired registers read as they must comes back from its image as it was: every register
and field of the image, whatever the context it is loaded into held.
(3) R440 to R445, R487: the sys forms MIGR, PRMT, RSME and ERRINJ raise PRIVILEGE in an app context. MIGR of a mapped core of
the issuer's partition joins the sequencer's requests and ends with 0, and 1, 2, 7 and 8 stand for a core that is absent,
fenced, of another partition or without a spare. PRMT of a core of a live launch whose miller runs, with a block it may
write, begins to freeze it; RSME of a core that is not saved gives 10; ERRINJ gives 0 where injection is off, and else arms
its error.
(4) MILLER_TAKE_TRAP, ASYNC_TRAP_TAKE and IFETCH_LINE_ARRIVAL (R84, R85, R92, R232, R376, R430): the events of issue and
traps. A miller in a wait takes its oldest delegated trap where it stands; an asynchronous trap of a halted context is
delegated to its miller, and a halted miller holds its own; a fetched code line joins the L1 instruction cache, and its
context is back in the rotation. -/
def Obligations.ContextImages : Prop :=
  -- (1) ContextImages
  (
  ∀ (s : State) (n : Fin 16) (d : XR) (b : XS) (ps : List Piece) (key : Nat), s.flows →
    let c := 16 * (s.cur / 16) + n.val
    let va := (s.me.getS b).toNat
    let v := s.rdN key 1024
    let x := s.ctx c
    (s.me.sys = false → exec (.ctxsv n d b) s = .next (s.trapHead 0x04) ∧ exec (.ctxld n d b) s = .next (s.trapHead 0x04)) ∧
    (s.me.sys = true → va % 64 ≠ 0 → exec (.ctxsv n d b) s = .next (s.trap 0x10 (s.me.getS b)) ∧
      exec (.ctxld n d b) s = .next (s.trap 0x10 (s.me.getS b))) ∧
    (s.me.sys = true → va % 64 = 0 → s.me.buf = [] → s.me.armed = none → s.me.recBad = false → pieceKeys ps = (List.range 1024).map (key + ·) → c ≠ s.cur →
      (s.form → s.blockMe .store va 1024 = .ok ps → x.run = .halted → x.buf = [] → key % 8 = 0 →
        (∀ i, i < 128 → s.canPerform s.cur s.me.asid.toNat (key + 8 * i) = true) → ∃ t, exec (.ctxsv n d b) s = .next t ∧ t.rdN key 1024 = s.image c x.pc.toNat 0 x % 256 ^ 1024 ∧ t.me.getX d = 0 ∧
          (∀ a, a < key ∨ key + 1024 ≤ a → t.byte a = s.byte a) ∧ t.me.pc = BitVec.ofNat 64 s.nextPc) ∧
      (s.blockMe .store va 1024 = .ok ps → x.run = .running → x.why = none → ∃ t, exec (.ctxsv n d b) s = .next t ∧
        t.me.getX d = (if d = 0 then 0 else 3) ∧ KeepsMemory s t) ∧
      (s.blockMe .load va 1024 = .ok ps → s.badPiece ps = none → x.run = .running → ∃ t, exec (.ctxld n d b) s = .next t ∧
        t.me.getX d = (if d = 0 then 0 else 3) ∧ t.ctx c = x ∧ KeepsMemory s t) ∧
      (s.blockMe .load va 1024 = .ok ps → s.badPiece ps = none → x.run = .halted → imageOk v = false → ∃ t, exec (.ctxld n d b) s = .next t ∧
        t.me.getX d = (if d = 0 then 0 else 6) ∧ t.ctx c = x ∧ KeepsMemory s t) ∧
      (s.blockMe .load va 1024 = .ok ps → s.badPiece ps = none → x.run = .halted → imageOk v = true → bits v 6722 6720 = 0 →
        (s.core (s.cur / 16)).saved = none → ∃ t, exec (.ctxld n d b) s = .next t ∧ t.me.getX d = 0 ∧
          let y := t.ctx c
          let z := x.load c v
          (if v.testBit 6724 then y.run = .running ∧ y.why = some .longOp ∧ y.resume = some 0 else y.run = .halted) ∧ y.x = z.x ∧ y.v = z.v ∧ y.k = z.k ∧ y.pc = z.pc ∧ y.fctxB = z.fctxB ∧ y.fctxS = z.fctxS ∧ y.scptrB = z.scptrB ∧
          y.scptrS = z.scptrS ∧ y.shadow = z.shadow ∧ y.fstat = z.fstat ∧ y.taskf = z.taskf ∧ y.priv = z.priv ∧ y.epc = z.epc ∧
          y.ecause = z.ecause ∧ y.eval = z.eval ∧ y.tvec = z.tvec ∧ y.asid = z.asid ∧ y.intv = z.intv ∧ y.pendf = z.pendf ∧
          y.ctxid = x.ctxid ∧ y.lcore = x.lcore ∧ y.stage = x.stage ∧ KeepsMemory s t)))
  -- (2) ImagesComeBack
  ∧ (
  ∀ (s : State) (c pc run : Nat) (x y : Ctx), x.x[0] = 0 → x.k[0] = 0 → (c % 16 = 0 → x.tvec.getLsbD 0 = false) → pc < 2 ^ 64 → run < 4 →
    let z := y.load c (s.image c pc run x)
    z.x = x.x ∧ z.v = x.v ∧ z.k = x.k ∧ z.pc = BitVec.ofNat 64 pc ∧ z.fctxB = x.fctxB ∧ z.fctxS = x.fctxS ∧ z.scptrB = x.scptrB ∧
    z.scptrS = x.scptrS ∧ z.shadow = x.shadow ∧ z.fstat = x.fstat ∧ z.taskf = x.taskf ∧ z.priv = x.priv ∧ z.epc = x.epc ∧
    z.ecause = x.ecause ∧ z.eval = x.eval ∧ z.tvec = x.tvec ∧ z.asid = x.asid ∧ z.intv = x.intv ∧ z.pendf = x.pendf ∧
    z.ctxid = y.ctxid ∧ z.lcore = y.lcore ∧ z.stage = y.stage ∧ bits (s.image c pc run x) 6721 6720 = run)
  -- (3) SaversAndMovers
  ∧ (
  ∀ (s : State) (d : XR) (b : XS) (p : Piece) (qs : List Piece) (n pt : Nat), s.flows →
    let cl := n / 64
    let blk := s.rdN p.key 16 / 2 ^ 64
    let mine : Prop := s.partOf (s.cur / 16 / 1024) = some pt ∧ s.partOf (n / 1024) = some pt
    (s.me.sys = false → ∀ i, i ∈ [.migr d b, .prmt d b, .rsme d b, .errinj d b] → exec i s = .next (s.trapHead 0x04)) ∧
    (s.me.sys = true → n < 2 ^ 15 → s.pkg < 64 → (s.me.getS b).toNat % 2 ^ 21 = s.pkg * 2 ^ 15 + n →
      (s.remapState n = 0 → exec (.migr d b) s = .next (s.steppedLong (s.putX d 1))) ∧
      (s.remapState n = 3 → mine → exec (.migr d b) s = .next (s.steppedLong (s.putX d 2))) ∧
      (s.remapState n ≠ 0 → ¬ (∃ q, s.partOf (s.cur / 16 / 1024) = some q ∧ s.partOf (n / 1024) = some q) →
        exec (.migr d b) s = .next (s.steppedLong (s.putX d 7))) ∧
      (s.remapState n = 1 → mine → (s.core n).mode ≠ .saved → s.pickSpare cl none = none → ∃ t, exec (.migr d b) s = .next t ∧
        t.me.getX d = (if d = 0 then 0 else 8) ∧ (t.col (s.colOf n)).nospare = true ∧ (t.clu cl).migReqs = (s.clu cl).migReqs ∧
        t.me.pc = BitVec.ofNat 64 s.nextPc ∧ KeepsMemory s t) ∧
      (s.remapState n = 1 → mine → (s.core n).mode ≠ .saved → s.pickSpare cl none ≠ none → (s.clu cl).migReqs = [] →
        ∃ t, exec (.migr d b) s = .next t ∧ (t.clu cl).migReqs = [⟨n, s.cycle, false, true, none, none⟩] ∧
          t.me.getX d = 0 ∧ t.me.why = s.me.why ∧ Instr.migrationStart cl ∈ t.agenda ∧ t.me.pc = BitVec.ofNat 64 s.nextPc ∧ KeepsMemory s t)) ∧
    (s.me.sys = true → (s.me.getS b).toNat % 16 = 0 → s.resolveMe .load (s.me.getS b).toNat 16 = .ok [p] → p.len = 16 →
      s.badPiece [p] = none → s.me.buf = [] → s.me.armed = none → s.me.recBad = false → s.migrStarts n = false → blk % 65536 = 0 → n < 2 ^ 15 → s.rdN p.key 16 % 2 ^ 21 = s.pkg * 2 ^ 15 + n →
      s.remapState n = 1 → mine → (s.core n).mode = .running →
      ((s.core n).saved = none → exec (.rsme d b) s = .next (s.steppedLong (s.putX d 10))) ∧
      (s.inLaunch n = false → exec (.prmt d b) s = .next (s.steppedLong (s.putX d 9))) ∧
      (s.inLaunch n = true → (s.ctx (16 * n)).run = .running → s.saveBlockMe .store blk = .ok qs → s.cur / 16 ≠ n →
        ∃ t, exec (.prmt d b) s = .next t ∧ (t.core n).mode = .freezing ∧ (t.core n).stop = 1 ∧
          (t.core n).saved.map (fun k => (k.block, k.issuer, k.waiter)) = some (blk, s.cur, some (s.cur, d)) ∧
          t.me.why = some .longOp ∧ t.me.x = s.me.x ∧ t.me.pc = BitVec.ofNat 64 s.nextPc ∧ Instr.millerTakeTrap n ∈ t.agenda ∧
          KeepsMemory s t)) ∧
    (s.me.sys = true →
      let w := (s.me.getS b).toNat
      (7 < w % 16 → exec (.errinj d b) s = .next (s.trapHead 0x01)) ∧
      (3 ≤ w % 16 → w % 16 < 8 → s.mgmt.injection = false → exec (.errinj d b) s = .next (s.steppedLong (s.putX d 0))) ∧
      (3 ≤ w % 16 → w % 16 < 8 → s.mgmt.injection = true → ∃ t, exec (.errinj d b) s = .next t ∧ t.me.getX d = (if d = 0 then 0 else 1) ∧
        t.me.armed = some ⟨w % 16, w / 2 ^ 15 % 64, w / 2 ^ 5 % 1024, w.testBit 4⟩ ∧ t.me.pc = BitVec.ofNat 64 s.nextPc ∧ KeepsMemory s t)))
  -- (4) IssueEvents
  ∧ (
  ∀ (s : State) (n c : Nat) (a : AsyncTrap) (l : List AsyncTrap) (p : PendTrap) (ps : List PendTrap) (pa : Nat) (e : TEntry),
    let m := s.ctx (16 * n)
    ((s.core n).mode = .running → (s.core n).pending = p :: ps → (∀ q, q ∈ p :: ps → q.preempt = false) → m.run = .running →
      m.intv = false → m.got = none → m.held = false → m.why = some .recv → goodPc (tvecAddr m.tvec) = true →
      ∃ t, exec (.millerTakeTrap n) s = .next t ∧ (t.core n).pending = ps ∧
        let y := t.ctx (16 * n)
        y.pc = BitVec.ofNat 64 (tvecAddr m.tvec) ∧ y.epc = m.pc ∧ y.eval = p.val ∧ y.ecause = ecauseOf p.src true p.async p.cause ∧
        y.intv = true ∧ y.sys = true ∧ y.why = none ∧ y.x = m.x) ∧
    ((s.ctx c).run = .halted → (s.ctx c).asyncs = a :: l → c % 16 ≠ 0 →
      ∃ t, exec (.asyncTrapTake c) s = .next t ∧ (t.ctx c).asyncs = l ∧ (t.ctx c).run = .held ∧ (t.ctx c).epc = (s.ctx c).pc ∧
        (t.ctx c).eval = a.val ∧ (t.ctx c).ecause = ecauseOf (c % 16) true true a.cause ∧
        (t.core (c / 16)).pending = (s.core (c / 16)).pending ++ [⟨c % 16, a.cause, a.val, true, false⟩] ∧ KeepsMemory s t) ∧
    (c % 16 = 0 → exec (.asyncTrapTake c) s = .next s) ∧
    ((s.ctx c).why = some .line → s.askSlice (s.asker c) none (lineAddr (s.ctx c).pc) .fetch = .ok pa →
      s.pageOf (s.asker c) (lineAddr (s.ctx c).pc) = some e → e.cell = false → s.badIn pa 64 = none →
      (∀ bank, s.bankFor (s.asker c) (lineAddr (s.ctx c).pc) pa = some bank → s.shutFor .fetch (fieldOf (coreOf c)) bank pa = false) →
      ∃ t, exec (.ifetchLineArrival c) s = .next t ∧ (t.ctx c).why = none ∧ (t.ctx c).pc = (s.ctx c).pc ∧ KeepsMemory s t ∧
        (t.core (c / 16)).l1i.getLast? = some ⟨(s.ctx c).asid.toNat, lineAddr (s.ctx c).pc, BitVec.ofNat 512 (s.rdN pa 64), e.r, e.w, e.x, e.app, e.cell⟩))

/-! ## Translation, the host and the package (R408 to R425, R448 to R465) -/

/-- (1) TRANSLATION_REQUEST (R408 to R420): the checks of a translation slice in their order, and the walk behind a miss: an
address of 2^56 or more is out of range; an ASID that does not exist for the field, or a page without the right or the level,
is a permission fault; a page that is not held misses, which opens a walk.
(2) WALK_COMPLETE (R412, R414 to R420): a device walk that finds a device-managed leaf which its requests may use installs
the page, with the leaf's address and rights, and wakes the contexts that wait for it; one that finds no valid entry wakes
them to meet PAGE_FAULT; in both the walk is over. A leaf that the host manages sends a Translation Request instead.
(3) SLICE_ENTRY_PIN_EXPIRY (R412): the pins of a slice entry end once each context that its walk woke has issued, or 4,096
cycles after; until then the event stays pending.
(4) ATS_TRANSLATION_COMPLETION, PAGE_REQUEST_SEND, PAGE_REQUEST_RESPONSE, PRI_ENABLE and PRI_STOP (R421 to R423): pages that
the host manages. A completion with a right that the walk needs and an aligned address installs the page as host memory of
the link, with the rights of both sides; one with none asks for the page. A request group takes a credit and is sent, or
waits; Success sends the Translation Request again, Invalid Request closes the walk with PAGE_FAULT; a Response Failure, or
the host's stop, closes every group's walk, until the host enables the interface.
(5) ATS_INVALIDATION_REQUEST, INVAL and INVALIDATION_COMPLETE (R424, R425): an invalidation removes, in every slice and L1
cache, the pages and lines of its address spaces and range, and overtakes the walks under way there; others stay. It
completes once no buffered store or accepted command may still use an old translation. -/
def Obligations.Translation : Prop :=
  -- (1) TranslationChecks
  (
  ∀ (s : State) (q : Asker) (va : Nat) (acc : Acc) (e : TEntry) (c : Nat),
    let cl := sliceOf (q.core / 1024) va
    let part := s.asidPart q.asid
    let pa := s.normPa (e.pa + (va - e.va))
    (2 ^ 56 ≤ va → s.askSlice q none va acc = .trap 0x14) ∧
    (va < 2 ^ 56 → s.asidOk q.asid (q.core / 1024) = false → s.askSlice q none va acc = .trap 0x16) ∧
    (va < 2 ^ 56 → s.asidOk q.asid (q.core / 1024) = true → tlbFind (s.clu cl).tlb q.asid va = some e →
      (s.paReach part pa acc = false → s.askSlice q none va acc = .trap 0x14) ∧
      (s.paReach part pa acc = true → s.homeIn part e.hdi pa = true →
        (hasRight acc e.r e.w e.x = false ∨ (e.app = false ∧ q.sys = false) → s.askSlice q none va acc = .trap 0x16) ∧
        (hasRight acc e.r e.w e.x = true → e.app = true ∨ q.sys = true → s.askSlice q none va acc = .ok pa))) ∧
    (va < 2 ^ 56 → s.asidOk q.asid (q.core / 1024) = true → tlbFind (s.clu cl).tlb q.asid va = none → s.askSlice q none va acc = .miss) ∧
    (q = s.asker c → (s.ctx c).walkFail = none → s.askSlice q none va acc = .miss →
      walkFind (s.clu cl).walks q.asid (va / 2 ^ 16) = none → (s.clu cl).walks.length < 256 →
      ∃ t w, exec (.translationRequest c va acc) s = .next t ∧ (t.clu cl).walks = (s.clu cl).walks ++ [w] ∧ w.asid = q.asid ∧
        w.granule = va / 2 ^ 16 ∧ w.phase = .device ∧ Instr.walkComplete (q.core / 1024) q.asid (va / 2 ^ 16) ∈ t.agenda ∧
        t.ctxs = s.ctxs ∧ KeepsMemory s t))
  -- (2) Walks
  ∧ (
  ∀ (s : State) (f asid g size l c : Nat) (w : Walk),
    let cl := sliceOf f (g * 2 ^ 16)
    s.walkOf f asid g = some w → w.phase = .device → w.asid = asid → w.granule = g → w.field = f → s.asidOk asid f = true →
    s.walkShut asid (g * 2 ^ 16) = false → c < 2 ^ 19 → (s.ctx c).why = some .parked → w.waiters = [c] →
    (s.walk asid (g * 2 ^ 16) = .fault none →
      ∃ t, exec (.walkComplete f asid g) s = .next t ∧ (t.ctx c).walkFail = some ⟨g, 0x15, false⟩ ∧ (t.ctx c).why = none ∧
        t.walkOf f asid g = none ∧ (t.clu cl).tlb = (s.clu cl).tlb ∧ KeepsMemory s t) ∧
    (s.walk asid (g * 2 ^ 16) = .leaf size l → l.testBit 6 = false → w.stale = false → w.r = true → w.w = false → w.x = false → w.rw = false →
      (∃ pa, s.checkEntry ⟨asid, 1024 * f, w.priv⟩ (leafEntry asid (g * 2 ^ 16) size l) (g * 2 ^ 16) .load = .ok pa) →
      (s.clu cl).tlb.length < 4096 →
      ∃ t e, exec (.walkComplete f asid g) s = .next t ∧ (t.clu cl).tlb = (s.clu cl).tlb ++ [e] ∧ e.asid = asid ∧
        e.va = g * 2 ^ 16 / 2 ^ size * 2 ^ size ∧ e.size = size ∧ e.pa = bits l 51 16 * 2 ^ 16 ∧ e.r = l.testBit 2 ∧ e.w = l.testBit 3 ∧
        e.x = l.testBit 4 ∧ e.app = l.testBit 5 ∧ e.pin = [c] ∧ (t.ctx c).why = none ∧ (t.ctx c).walkFail = none ∧
        t.walkOf f asid g = none ∧ KeepsMemory s t) ∧
    (s.walk asid (g * 2 ^ 16) = .leaf size l → l.testBit 6 = true → (s.asidEntry asid).testBit 2 = true →
      ∃ t v, exec (.walkComplete f asid g) s = .next t ∧ t.walkOf f asid g = some v ∧ v.phase = .ats ∧ v.waiters = [c] ∧
        t.ctxs = s.ctxs ∧ KeepsMemory s t))
  -- (3) PinsEnd
  ∧ (
  ∀ (s : State) (cl asid va : Nat) (e : TEntry), (s.clu cl).tlb = [e] → e.asid = asid → e.va = va → e.pin ≠ [] →
    (s.pinned e = true → exec (.sliceEntryPinExpiry cl asid va) s = .next (s.post (.sliceEntryPinExpiry cl asid va))) ∧
    (e.pinnedAt + 4096 ≤ s.cycle → ∃ t, exec (.sliceEntryPinExpiry cl asid va) s = .next t ∧ (t.clu cl).tlb = [{ e with pin := [] }] ∧
      KeepsMemory s t))
  -- (4) HostManagedPages
  ∧ (
  ∀ (s : State) (f asid g pa size l alloc c : Nat) (k : Walk), s.walkOf f asid g = some k → k.asid = asid → k.granule = g → k.field = f →
    k.r = true → k.w = false → k.x = false → k.rw = false → c < 2 ^ 19 → k.asked = 0 → k.stale = false → k.waiters = [c] → (s.ctx c).why = some .parked →
    let cl := sliceOf f (g * 2 ^ 16)
    let lk := s.link k.link
    (k.phase = .ats →
      (pa % 65536 = 0 → s.walk asid (g * 2 ^ 16) = .leaf size l → 16 ≤ size → l.testBit 6 = true → l.testBit 2 = true →
        (∃ p, s.checkEntry ⟨asid, 1024 * f, k.priv⟩ { leafEntry asid (g * 2 ^ 16) 16 l with
          pa := 2 ^ 51 + k.link % 2 * 2 ^ 49 + pa % 2 ^ 49, w := false, x := false } (g * 2 ^ 16) .load = .ok p) →
        (s.clu cl).tlb.length < 4096 →
        ∃ t e, exec (.atsTranslationCompletion f asid g pa true true false false) s = .next t ∧ (t.clu cl).tlb = (s.clu cl).tlb ++ [e] ∧
          e.pa = 2 ^ 51 + k.link % 2 * 2 ^ 49 + pa % 2 ^ 49 ∧ e.r = true ∧ e.w = false ∧ e.x = false ∧ (t.ctx c).why = none ∧ KeepsMemory s t) ∧
      (s.walk asid (g * 2 ^ 16) = .leaf size l → l.testBit 6 = true → s.hostMode 2 = false → lk.stopped = false →
        ∃ t v, exec (.atsTranslationCompletion f asid g pa true false false false) s = .next t ∧ t.walkOf f asid g = some v ∧
          v.phase = .pageWait ∧ (t.link k.link).groups = lk.groups ++ [(f, asid, g)] ∧ Instr.pageRequestSend k.link ∈ t.agenda ∧
          t.ctxs = s.ctxs ∧ KeepsMemory s t)) ∧
    (∀ rest, lk.groups = (f, asid, g) :: rest →
      (lk.priOn = true → (s.pagesOut k.link).length < lk.alloc → (s.pagesOut k.link).length < 512 →
        (s.pagesOut k.link).length < s.mgmt.priCap → ∃ t v, exec (.pageRequestSend k.link) s = .next t ∧ t.walkOf f asid g = some v ∧
          v.phase = .pageSent ∧ v.asked = 1 ∧ (t.link k.link).groups = rest ∧ t.ctxs = s.ctxs ∧ KeepsMemory s t) ∧
      (lk.priOn = false → exec (.pageRequestSend k.link) s = .next s)) ∧
    (k.phase = .pageSent →
      (∃ t v, exec (.pageRequestResponse k.link f asid g 0) s = .next t ∧ t.walkOf f asid g = some v ∧ v.phase = .ats ∧ KeepsMemory s t) ∧
      (∃ t, exec (.pageRequestResponse k.link f asid g 1) s = .next t ∧ t.walkOf f asid g = none ∧ (∃ away, (t.ctx c).walkFail = some ⟨g, 0x15, away⟩) ∧
        (t.ctx c).why = none ∧ KeepsMemory s t)) ∧
    (∃ t, exec (.priEnable k.link alloc) s = .next t ∧ (t.link k.link).priOn = true ∧ (t.link k.link).alloc = alloc ∧
      (t.link k.link).stopped = false ∧ KeepsMemory s t) ∧
    (∃ t, exec (.priStop k.link) s = .next t ∧ (t.link k.link).priOn = false ∧ (t.link k.link).groups = [] ∧ KeepsMemory s t))
  -- (5) Invalidations
  ∧ (
  ∀ (s : State) (l pasid va len tag asid : Nat), (∀ p, p ∈ s.cores → ∀ d, d ∈ p.2.l1d → d.dirty = false) →
    let who (a : Nat) : Bool := (s.asidEntry a).testBit 0 && (s.asidEntry a).testBit 2 && bits (s.asidEntry a) 1 1 == l &&
      bits (s.asidEntry a) 27 8 == pasid
    let gone (w : Nat → Bool) (t : State) : Prop :=
      (∀ p, p ∈ t.clus → (∀ e, e ∈ p.2.tlb → ¬ (w e.asid = true ∧ e.va < va + len ∧ va < e.va + 2 ^ e.size)) ∧
        ∀ k, k ∈ p.2.walks → w k.asid = true → k.granule * 65536 < va + len → va < k.granule * 65536 + 65536 → k.stale = true) ∧
      (∀ p, p ∈ t.cores → ∀ d, d ∈ p.2.l1d → ¬ (w d.asid = true ∧ d.va < va + len ∧ va < d.va + 64)) ∧
      (∀ p, p ∈ t.cores → ∀ d, d ∈ p.2.l1i → ¬ (w d.asid = true ∧ d.va < va + len ∧ va < d.va + 64)) ∧
      (∀ cl e, e ∈ (s.clu cl).tlb → ¬ (w e.asid = true ∧ e.va < va + len ∧ va < e.va + 2 ^ e.size) → e ∈ (t.clu cl).tlb)
    (∃ t, exec (.atsInvalidationRequest l pasid va len) s = .next t ∧ gone who t ∧ Instr.invalidationComplete none va len ∈ t.agenda ∧
      (∀ c, (t.ctx c).x = (s.ctx c).x ∧ (t.ctx c).pc = (s.ctx c).pc) ∧ KeepsMemory s t) ∧
    (s.fwRuns = true → ∃ t, exec (.inval tag (some asid) va len) s = .next t ∧ gone (fun a => a == asid) t ∧
      Instr.invalidationComplete (some asid) va len ∈ t.agenda ∧
      (∀ c, (t.ctx c).x = (s.ctx c).x ∧ (t.ctx c).pc = (s.ctx c).pc) ∧ KeepsMemory s t) ∧
    (s.mgmt.invals = [(none, some asid, va, len)] →
      (s.oldAccess (some asid) va len = true →
        exec (.invalidationComplete (some asid) va len) s = .next (s.post (.invalidationComplete (some asid) va len))) ∧
      (s.oldAccess (some asid) va len = false → ∃ t, exec (.invalidationComplete (some asid) va len) s = .next t ∧ t.mgmt.invals = [] ∧
        KeepsMemory s t)))

/-- (1) BAR2_ACCESS, BAR2_ATOMIC_OP and BAR0_REGISTER_WRITE (R273, R448 to R451, R453): a host write that its function may make
is performed byte for byte at its home; one that it may not is dropped and counted by its link. A FetchAdd, Swap or CAS is
one step at the home. A write to BAR0's dispatcher doorbell that is no whole message is counted with drop code 1; a read
changes no byte and completes with the bytes at the homes, or as an Unsupported Request where the function may not make it,
as does a CAS of 128 bits.
(2) ROTOR_SLOT_START, CIRCUIT_BRING_UP_COMPLETE and PORT_RESYNC_COMPLETE (R456 to R462): a slot of a port site that is in the
rotor, with its clocks within 40 ns and its circuit to the slot's peer in the cache, sends the flits for that peer, those
that its last slot left without an acknowledgement among them; one out of time is skipped and counted, and the fourth in a
row takes the port out of the rotor until it has resynchronised to within 10 ns; a circuit brought up joins the cache, and
the first one makes the port ready.
(3) FLIT_RECEIVE, FLIT_ACK and COMPLETION_MARKER_RECEIVE (R292, R456, R458, R459, R464, R465): a flit with a bad CRC, or one
already committed, commits nothing, and an acknowledgement says which; one that the receiving port lets through is committed
at its home, once; one that it refuses is counted and writes nothing. A marker waits for every flit of its sequence and then
writes its word. An acknowledged flit of this package is kept no longer; one acknowledged negatively is sent again. -/
def Obligations.OutsideTraffic : Prop :=
  -- (1) HostAccesses
  (
  ∀ (s : State) (l f a n off : Nat) (bs : List Byte) (w ro : Bool) (c e data : Word), s.form → s.homeShut a = false →
    let sz := if w then 8 else 4
    let plain (k : Nat) : Prop := ∀ v, v ∈ wordsOf a k → s.onCellPage v = false
    (s.bar2Ok f a n = false → ∃ t, exec (.bar2Access l f a none n) s = .next t ∧ (t.link l).completion = some none ∧ KeepsMemory s t) ∧
    (s.bar2Ok f a n = true → plain n → s.badIn a n = none → ∃ t, exec (.bar2Access l f a none n) s = .next t ∧
      (t.link l).completion = some (some (s.rdN a n)) ∧ KeepsMemory s t) ∧
    (∃ t, exec (.bar2AtomicOp l f .cas none a c e) s = .next t ∧ (t.link l).completion = some none ∧ KeepsMemory s t) ∧
    (s.bar2Ok f a bs.length = true → bs.length ≤ n → a + bs.length ≤ 2 ^ 52 →
      ∃ t, exec (.bar2Access l f a (some (bs, ro)) n) s = .next t ∧ (∀ i, i < bs.length → t.byte (a + i) = bs.getD i 0) ∧
        (plain bs.length → ∀ b, b < a ∨ a + bs.length ≤ b → t.byte b = s.byte b) ∧ ∀ v, t.isFull v = s.isFull v) ∧
    (s.bar2Ok f a bs.length = false → ∃ t, exec (.bar2Access l f a (some (bs, ro)) n) s = .next t ∧
      (t.link l).dropped = (s.link l).dropped + 1 ∧ KeepsMemory s t) ∧
    (s.bar2Ok f a sz = true → a % sz = 0 → s.isBad a = false → a + sz ≤ 2 ^ 52 → plain sz →
      (∃ t, exec (.bar2AtomicOp l f .add (some w) a c e) s = .next t ∧ t.rdN a sz = (s.rdN a sz + c.toNat) % 256 ^ sz ∧ KeepsMemoryBut s t a sz) ∧
      (∃ t, exec (.bar2AtomicOp l f .swap (some w) a c e) s = .next t ∧ t.rdN a sz = c.toNat % 256 ^ sz ∧ KeepsMemoryBut s t a sz) ∧
      (s.rdN a sz = c.toNat % 256 ^ sz → ∃ t, exec (.bar2AtomicOp l f .cas (some w) a c e) s = .next t ∧ t.rdN a sz = e.toNat % 256 ^ sz ∧
        KeepsMemoryBut s t a sz) ∧
      (s.rdN a sz ≠ c.toNat % 256 ^ sz → ∃ t, exec (.bar2AtomicOp l f .cas (some w) a c e) s = .next t ∧ KeepsMemory s t)) ∧
    (s.fnServes f = true → 0x1000 ≤ off → off < 0x1040 → ∃ t, exec (.bar0RegisterWrite (l, f) off data) s = .next t ∧
      (t.func f).lastdrop = 1 ∧ (t.func f).dropped = Nat.min ((s.func f).dropped + 1) 0xFFFF ∧ KeepsMemory s t) ∧
    (off < 0x1000 ∨ 0x1040 ≤ off → exec (.bar0RegisterWrite (l, f) off data) s = .next s))
  -- (2) Rotor
  ∧ (
  ∀ (s : State) (k : Nat) (o : BitVec 16) (ok : Bool), 2 ≤ s.groupN → k < 4 → s.light.getLsbD k = true →
    let p := s.port k
    let σ := s.slotAt k
    let r := rotorPeer s.groupN s.pkg σ k
    (p.state = 2 → -40 ≤ o.toInt → o.toInt ≤ 40 → p.valid.contains r = true → ok = true →
      ∃ t, exec (.rotorSlotStart k o ok) s = .next t ∧ (∀ f, f ∈ s.outFlits → f.pkg = r → f.sent = none ∨ f.sent = some k →
        { f with sent := some k, blocked := false } ∈ t.outFlits) ∧ (t.port k).slot = σ + 1 ∧ t.slots = σ + 1 ∧ (t.port k).run = 0 ∧ (t.port k).offset = o ∧ (t.port k).state = 2 ∧ KeepsMemory s t) ∧
    (p.state = 2 → 40 < o.toInt →
      (p.run < 3 → ∃ t, exec (.rotorSlotStart k o ok) s = .next t ∧ (t.port k).state = 2 ∧ (t.port k).run = p.run + 1 ∧
        (t.port k).skew = true ∧ (t.port k).skipped = Nat.min (p.skipped + 1) (2 ^ 32 - 1) ∧ KeepsMemory s t ∧
        ∀ f, f ∈ s.outFlits → f.pkg = r → { f with sent := if f.sent = some k then none else f.sent, blocked := true } ∈ t.outFlits) ∧
      (p.run = 3 → ∃ t, exec (.rotorSlotStart k o ok) s = .next t ∧ (t.port k).state = 3 ∧ t.ready 1 (48 + k) = false ∧
        Instr.portResyncComplete k ∈ t.agenda ∧ KeepsMemory s t)) ∧
    (∃ t, exec (.circuitBringUpComplete k r) s = .next t ∧ (t.port k).valid.contains r = true ∧ KeepsMemory s t ∧
      (p.state = 1 → (t.port k).state = 2 ∧ t.ready 1 (48 + k) = true)) ∧
    (p.state = 3 → p.offset.toInt < -10 ∨ 10 < p.offset.toInt → exec (.portResyncComplete k) s = .next (s.again (.portResyncComplete k))) ∧
    (p.state = 3 → -10 ≤ p.offset.toInt → p.offset.toInt ≤ 10 → ∃ t, exec (.portResyncComplete k) s = .next t ∧ (t.port k).state = 2 ∧ (t.port k).run = 0 ∧ t.ready 1 (48 + k) = true ∧
      KeepsMemory s t))
  -- (3) FlitsAndMarkers
  ∧ (
  ∀ (s : State) (k src sp tp seq a : Nat) (c : Nat × Nat) (bs : List Byte) (data : Word), s.form → a < 2 ^ 49 → s.normPa a = a →
    a + bs.length ≤ 2 ^ 52 → k < 4 → isRemote a = false → s.hears k src = true → 0 < bs.length → bs.length ≤ 240 →
    s.placeHeld tp a bs.length true = false → s.placeHeld tp a 8 true = false → (∀ v, v ∈ wordsOf a bs.length → s.onCellPage v = false) →
    (∀ v, v ∈ wordsOf a 8 → s.onCellPage v = false) →
    let flit (crc : Bool) : Instr := .flitReceive k src sp tp seq c crc a (.store bs)
    (∃ t, exec (flit false) s = .next t ∧ KeepsMemory s t ∧ t.enlSeen = s.enlSeen ∧ (src, seq, false) ∈ (t.port k).acks) ∧
    ((src, seq) ∈ s.enlSeen → ∃ t, exec (flit true) s = .next t ∧ KeepsMemory s t ∧ t.enlSeen = s.enlSeen ∧ (src, seq, true) ∈ (t.port k).acks) ∧
    ((src, seq) ∉ s.enlSeen → s.flitOk src sp tp a 1 = true → ∃ t, exec (flit true) s = .next t ∧
      (∀ i, i < bs.length → t.byte (a + i) = bs.getD i 0) ∧ (∀ b, b < a ∨ a + bs.length ≤ b → t.byte b = s.byte b) ∧ (src, seq) ∈ t.enlSeen) ∧
    ((src, seq) ∉ s.enlSeen → s.flitOk src sp tp a 1 = false → ∃ t, exec (flit true) s = .next t ∧
      (t.port k).refused = Nat.min ((s.port k).refused + 1) (2 ^ 32 - 1) ∧ (src, c.1, c.2) ∈ t.enlRefused ∧ KeepsMemory s t) ∧
    ((src, seq) ∉ s.enlSeen → exec (.completionMarkerReceive k src sp tp c [seq] a data) s =
      .next (s.again (.completionMarkerReceive (k + 4) src sp tp c [seq] a data))) ∧
    ((src, seq) ∈ s.enlSeen → (src, c.1, c.2) ∉ s.enlRefused → s.flitOk src sp tp a 1 = true →
      ∃ t, exec (.completionMarkerReceive k src sp tp c [seq] a data) s = .next t ∧ t.rdN a 8 = data.toNat ∧ KeepsMemoryBut s t a 8) ∧
    (∃ t, exec (.flitAck k (s.pkg, seq) true) s = .next t ∧ t.outFlits = s.outFlits.filter (·.seq != seq) ∧
      ((∀ f, f ∈ s.outFlits → f.seq = seq → ∃ b l q x, f.body = .data b l q x) → KeepsMemory s t)) ∧
    (∃ t, exec (.flitAck k (s.pkg, seq) false) s = .next t ∧ KeepsMemory s t ∧
      t.outFlits = s.outFlits.map fun f => if f.seq = seq then { f with sent := none } else f) ∧
    (src ≠ s.pkg → ∀ ok, ∃ t, exec (.flitAck k (src, seq) ok) s = .next t ∧ t.outFlits = s.outFlits ∧ KeepsMemory s t))

/-! ## Errors, the vote, heat and management (R466 to R493, R525 to R541) -/

/-- (1) SOFT_ERROR, SCRUB_VISIT and VERTICAL_BUS_TEST (R467, R470, R472 to R475): an uncorrectable error poisons its unit, a
scratchpad word or a register, and changes no byte; a corrected one of a scratchpad only leaves its record in the ring of its
cluster, and one of a register stands there until a head replays; a scrubber that is not idle visits its units in ascending
order, one at each interval of its rate, and changes no byte, no full bit and no word that is poisoned; a vertical-bus signal
that fails its test is recorded.
(2) HEARTBEAT_SEND, HEARTBEAT_RECEIVE and HEARTBEAT_DEADLINE (R476 to R478, R480): a column that is not in quarantine sends a
heartbeat to every existing neighbour, once, in its cycle of each window. A whole one in its window clears the misses counted
against its sender; a second one in a window, or a third window missed, raises a suspicion, of which the other neighbours are
told. What a column that moves sends counts as whole.
(3) SUSPECT_NOTICE, FENCE_NOTICE, QUARANTINE_END and APPEAL (R478, R479, R481): a suspicion's notice is counted at the
column; the fence of a column that its neighbours have condemned cuts its core off: the remap entry is FENCED and every
context of the core has halted. At the end of its quarantine a column that passes its self-test appeals to its neighbours,
and one that fails it stays, for another quarantine. -/
def Obligations.ErrorsAndVote : Prop :=
  -- (1) Errors
  (
  ∀ (s : State) (st u a bit n : Nat) (col : Nat),
    (scrubber st u = none → exec (.scrubVisit st u a) s = .next s) ∧
    (∀ k m, scrubber st u = some (k, m) →
      let r := tget s.mgmt.scrub k 8
      let p := tget s.scrubAt k (0, 0)
      (r = 0 ∨ a ≠ 64 * p.1 → exec (.scrubVisit st u a) s = .next s) ∧
      (r ≠ 0 → a = 64 * p.1 → s.cycle < p.2 → exec (.scrubVisit st u a) s = .next (s.again (.scrubVisit st u a))) ∧
      (r ≠ 0 → a = 64 * p.1 → p.2 ≤ s.cycle → ∃ t, exec (.scrubVisit st u a) s = .next t ∧ (∀ b, t.byte b = s.byte b) ∧ (∀ w, t.isFull w = s.isFull w) ∧ t.ctxs = s.ctxs ∧
        tget t.scrubAt k (0, 0) = ((p.1 + 1) % m, s.cycle + 64 * 2 ^ (15 - r)) ∧ ∀ w, s.isBad w = true → t.isBad w = true)) ∧
    exec (.verticalBusTest col false) s = .next s ∧
    (∃ t, exec (.verticalBusTest col true) s = .next t ∧ KeepsMemory s t ∧ (t.clu (col / 64)).faultRing =
      (s.clu (col / 64)).faultRing.push (errRec 8 10 (s.unitCode (col / 64) (col % 64)) 0 0 0 s.cycle)) ∧
    (∃ t, exec (.softError 3 n a bit false) s = .next t ∧ KeepsMemory s t ∧ (t.clu (n / 64)).spadRing =
      (s.clu (n / 64)).spadRing.push (errRec 0 3 (s.colUnit n) 0 (a % 2 ^ 19 / 8 * 8) (bit % 256) s.cycle)) ∧
    (∃ t, exec (.softError 3 n a bit true) s = .next t ∧ t.isBad (spadKey n (a % 2 ^ 19)) = true ∧ (∀ b, t.byte b = s.byte b) ∧
      (∀ w, w / 8 ≠ spadKey n (a % 2 ^ 19) / 8 → t.isBad w = s.isBad w) ∧ t.ctxs = s.ctxs) ∧
    (1 ≤ a → a < 32 → ∃ t, exec (.softError 0 u a bit true) s = .next t ∧ (t.ctx u).bad = (s.ctx u).bad ||| 1#64 <<< a ∧
      (t.ctx u).x = (s.ctx u).x ∧ KeepsMemory s t) ∧
    (1 ≤ a → a < 32 → bit < 64 → (s.ctx u).armed = none → (s.ctx u).latent = [] → ∃ t, exec (.softError 0 u a bit false) s = .next t ∧
      (t.ctx u).latent = [⟨0, a, bit, false⟩] ∧ (t.ctx u).bad = (s.ctx u).bad ∧ (t.ctx u).x = (s.ctx u).x ∧ KeepsMemory s t))
  -- (2) Heartbeats
  ∧ (
  ∀ (s : State) (y z w : Nat) (d : Fin 4),
    let q := s.seenBy y d
    let opp := (d.val + 2) % 4
    let m := (s.col y).miss[d]
    ((s.col y).state = 2 → exec (.heartbeatSend y) s = .next s) ∧
    ((s.col y).state ≠ 2 → s.cycle % 2000 ≠ beatCycle y → exec (.heartbeatSend y) s = .next (s.again (.heartbeatSend y))) ∧
    ((s.col y).state ≠ 2 → s.cycle % 2000 = beatCycle y → s.cycle / 2000 < (s.col y).beatFrom → exec (.heartbeatSend y) s = .next s) ∧
    ((s.col y).state ≠ 2 → s.cycle % 2000 = beatCycle y → (s.col y).beatFrom ≤ s.cycle / 2000 → ∃ t, exec (.heartbeatSend y) s = .next t ∧
      KeepsMemory s t ∧ (t.col y).beatFrom = s.cycle / 2000 + 1 ∧
      ((s.col y).nbr.getLsbD d = true → nbrOf y d = some z →
        Instr.heartbeatReceive z opp (s.cycle / 2000 % 256) true ⟨true, s.isMoving y, false⟩ true ∈ t.agenda)) ∧
    (nbrOf y d = some z → s.isMoving z = true → ∀ ok f crc, ∃ t, exec (.heartbeatReceive y d w ok f crc) s = .next t ∧
      (t.col y).miss[d] = 0 ∧ (t.col y).susp = (s.col y).susp ∧ (t.seenBy y d).ok = true ∧ KeepsMemory s t) ∧
    (s.cycle % 2000 ≤ 1000 → exec (.heartbeatDeadline y) s = .next (s.again (.heartbeatDeadline y))) ∧
    (nbrOf y d = some z → nbrOf z opp = some y → z ≠ y → s.isMoving z = false → (s.col y).nbr.getLsbD d = true → q.appeal = none →
      (s.col y).susp.getLsbD d = false →
      (q.beats = 0 → q.crcs = 0 → q.rsv = 0 → q.flits ≤ 3 → w % 256 = s.cycle / 2000 % 256 → s.cycle % 2000 ≤ 1000 →
        ∃ t, exec (.heartbeatReceive y d w true ⟨true, false, false⟩ true) s = .next t ∧ (t.col y).miss[d] = 0 ∧ (t.col y).susp = (s.col y).susp ∧
          (t.seenBy y d).ok = true ∧ t.col z = s.col z ∧ KeepsMemory s t) ∧
      (1 ≤ q.beats → ∃ t, exec (.heartbeatReceive y d w true ⟨true, false, false⟩ true) s = .next t ∧ (t.col y).susp.getLsbD d = true ∧
        Instr.suspectNotice z opp ∈ t.agenda ∧ KeepsMemory s t) ∧
      (1000 < s.cycle % 2000 → q.judged = false → q.ok = false → (∀ e, e < 4 → e ≠ d.val → nbrOf y e = none) →
        (m < 2 → ∃ t, exec (.heartbeatDeadline y) s = .next t ∧ (t.col y).miss[d] = m + 1 ∧ (t.col y).susp = (s.col y).susp ∧ KeepsMemory s t) ∧
        (2 ≤ m → ∃ t, exec (.heartbeatDeadline y) s = .next t ∧ (t.col y).susp.getLsbD d = true ∧ Instr.suspectNotice z opp ∈ t.agenda ∧
          KeepsMemory s t))))
  -- (3) FenceAndAppeal
  ∧ (
  ∀ (s : State) (col n y : Nat) (d : Fin 4),
    (s.isMoving col = false → (s.suspects col).contains d.val = true → ∃ t, exec (.suspectNotice col d) s = .next t ∧
      (t.col col).told.getLsbD d = true ∧ KeepsMemory s t) ∧
    ((s.col col).state = 2 → s.isMoving col = false → s.coreAt col = some n → ∃ t, exec (.fenceNotice col) s = .next t ∧
      t.remapState n = 3 ∧ (∀ j, j < 16 → (t.ctx (16 * n + j)).run = .halted ∧ (t.ctx (16 * n + j)).buf = []) ∧
      (t.core n).mode = .running ∧ (t.core n).saved = none) ∧
    ((s.col col).state ≠ 2 → exec (.fenceNotice col) s = .next s) ∧
    ((s.col col).state = 2 → (s.col col).fails + (s.col col).tests < 3 → s.cycle < (s.col col).fencedAt + 1000000 →
      ∀ ok, exec (.quarantineEnd col ok) s = .next (s.again (.quarantineEnd col ok))) ∧
    ((s.col col).state = 2 → (s.col col).fails + (s.col col).tests < 3 → (s.col col).fencedAt + 1000000 ≤ s.cycle →
      (∃ t, exec (.quarantineEnd col true) s = .next t ∧ (t.col col).state = 3 ∧ (t.col col).votes = 0 ∧ KeepsMemory s t ∧
        ((s.col col).nbr.getLsbD d = true → Instr.appeal col d ∈ t.agenda)) ∧
      (∃ t, exec (.quarantineEnd col false) s = .next t ∧ (t.col col).state = 2 ∧ (t.col col).fails = (s.col col).fails ∧
        (t.col col).tests = (s.col col).tests + 1 ∧
        (t.col col).fencedAt = s.cycle ∧ KeepsMemory s t)) ∧
    (nbrOf col d = some y → (s.col col).state = 3 → ∃ t, exec (.appeal col d) s = .next t ∧
      (t.seenBy y ((d.val + 2) % 4)).appeal = some 3 ∧ KeepsMemory s t))

/-- (1) TEMPERATURE_SAMPLE (R485 to R487): a unit is sampled every 1,024 cycles. A column's sample is its temperature and its
peak. At 95 degrees and more a mapped core asks its sequencer for a migration; at 105 the core issues no more, until a sample
below 100; a slice as hot lends no slots, and at 115 it is shut down, its dirty frames to be sent.
(2) MIGRATION_START, MIGRATION_RETRY, MIGRATION_STATE_COPY and MIGRATION_COMMIT (R440, R487 to R490): the sequencer gives a
request of a running core the eligible spare it picks: the entry is MOVING, and every context is to stop. Once all have
stopped with nothing buffered the state is copied; then the entry is MAPPED to the new column, LCORE names it, and the old
column is a spare that cools. With no eligible spare the request of a MIGR alone ends, and a sensor's is tried again 2^20
cycles later.
(3) SLICE_FRAME_WRITEBACK, SLICE_POWER_OFF and SLICE_RECOVERY (R491, R492): a slice that is shut down sends a dirty frame a
cycle from cycle t + 769 on, which makes its lines clean; its data arrays power off in cycle t + 8,192, once all that was due
has gone; and after 2^20 cool cycles it is in service again, empty, the lines it could not send poisoned.
(4) POWER_SAMPLE, COMB_LIGHT_LOSS and COMB_LIGHT_RETURN (R538, R541): the average of ten samples of VMAIN power above 23,500
W takes slot lending from one cluster more, and one below 22,500 W gives it back to one. Light that is lost takes a site's
ports out; light that returns lets the quadrant's governors calibrate. -/
def Obligations.HeatAndPower : Prop :=
  -- (1) Samples
  (
  ∀ (s : State) (col n cl : Nat) (x : BitVec 12), s.hostMode 5 = false →
    (s.cycle < (s.col col).sampleAt → exec (.temperatureSample 0 col x) s = .next (s.again (.temperatureSample 0 col x))) ∧
    (s.cycle < (s.clu cl).sampleAt → exec (.temperatureSample 1 cl x) s = .next (s.again (.temperatureSample 1 cl x))) ∧
    ((s.col col).sampleAt ≤ s.cycle → s.coreAt col = none → ∃ t, exec (.temperatureSample 0 col x) s = .next t ∧ (t.col col).temp = x ∧
      (t.col col).sampleAt = s.cycle + 1024 ∧ KeepsMemory s t ∧ (t.col col).therm = (if x.toInt < 1360 then 0 else 4) ∧
      ((s.col col).sampled = true → (s.col col).peak.toInt < x.toInt → (t.col col).peak = x)) ∧
    ((s.col col).sampleAt ≤ s.cycle → s.coreAt col = some n → s.remapState n = 1 → (s.core n).stalled = false → s.requested n = false → n / 64 = col / 64 →
      (x.toInt < 1520 → ∃ t, exec (.temperatureSample 0 col x) s = .next t ∧ (t.core n).stalled = false ∧
        (t.clu (n / 64)).migReqs = (s.clu (n / 64)).migReqs ∧ (t.col col).temp = x ∧ KeepsMemory s t) ∧
      (1520 ≤ x.toInt → ∃ t, exec (.temperatureSample 0 col x) s = .next t ∧ t.requested n = true ∧
        Instr.migrationStart (n / 64) ∈ t.agenda ∧ ((t.core n).stalled = true ↔ 1680 ≤ x.toInt) ∧ (t.col col).temp = x ∧ KeepsMemory s t)) ∧
    ((s.clu cl).sampleAt ≤ s.cycle → (s.clu cl).shut = none →
      (1680 ≤ x.toInt → x.toInt < 1840 → ∃ t, exec (.temperatureSample 1 cl x) s = .next t ∧ (t.clu cl).noLend = true ∧
        (t.clu cl).shut = none ∧ KeepsMemory s t) ∧
      (1840 ≤ x.toInt → ∃ t, exec (.temperatureSample 1 cl x) s = .next t ∧ (t.clu cl).noLend = true ∧
        (t.clu cl).shut = some ⟨s.cycle, dirtyFrames (s.clu cl).lines, 0, false⟩ ∧ Instr.sliceFrameWriteback cl ∈ t.agenda ∧
        Instr.slicePowerOff cl ∈ t.agenda) ∧
      (x.toInt < 1600 → ∃ t, exec (.temperatureSample 1 cl x) s = .next t ∧ (t.clu cl).noLend = false ∧ KeepsMemory s t)) ∧
    (∃ t, exec (.temperatureSample 2 cl x) s = .next t ∧ (t.omu cl).temp = x ∧ KeepsMemory s t))
  -- (2) Migrations
  ∧ (
  ∀ (s : State) (cl n b k : Nat) (r : MigReq) (g : Mig), n / 64 = cl →
    ((s.clu cl).mig = none → (s.clu cl).migReqs = [r] → r.core = n → r.arrived < s.cycle → r.nospare = none →
      s.remapState n = 1 → (s.core n).mode = .running →
      (s.pickSpare cl r.named = some b → ∃ t, exec (.migrationStart cl) s = .next t ∧ t.remapState n = 2 ∧
        (t.clu cl).mig = some ⟨n, s.colOf n % 64, b, s.cycle, false, [], []⟩ ∧ (t.clu cl).migReqs = [] ∧
        (t.core n).stop = 2 ∧ Instr.migrationStateCopy cl ∈ t.agenda ∧ KeepsMemory s t) ∧
      (s.pickSpare cl r.named = none → r.sensor = false → ∃ t, exec (.migrationStart cl) s = .next t ∧ (t.clu cl).mig = none ∧
        (t.clu cl).migReqs = [] ∧ (t.col (s.colOf n)).nospare = true ∧ t.ctxs = s.ctxs ∧ t.remapState n = 1 ∧ KeepsMemory s t)) ∧
    ((s.clu cl).migReqs = [r] → r.nospare = some k →
      (k + 2 ^ 20 ≤ s.cycle → exec (.migrationRetry cl) s = .next (s.post (.migrationStart cl))) ∧
      (s.cycle < k + 2 ^ 20 → exec (.migrationRetry cl) s = .next (s.post (.migrationRetry cl)))) ∧
    ((s.clu cl).mig = some g → g.core = n → g.copied = false → s.spadRanged n = false →
      (s.stopped n 2 = none → exec (.migrationStateCopy cl) s = .next (s.post (.migrationStateCopy cl))) ∧
      ((∀ j, j < 16 → s.isStopped (16 * n + j) = true ∧ (s.ctx (16 * n + j)).buf = []) → s.optBusy n = false →
        ∃ t, exec (.migrationStateCopy cl) s = .next t ∧ (t.clu cl).mig = some { g with copied := true } ∧
          Instr.migrationCommit cl ∈ t.agenda ∧ t.ctxs = s.ctxs ∧ KeepsMemory s t)) ∧
    ((s.clu cl).mig = some g → g.core = n → g.copied = true → g.dst < 64 → g.src ≠ g.dst →
      ∃ t, exec (.migrationCommit cl) s = .next t ∧ t.remapState n = 1 ∧ t.colOf n = 64 * cl + g.dst ∧ (t.core n).pcol = g.dst ∧
        (t.core n).stop = 0 ∧ (t.clu cl).mig = none ∧ (t.clu cl).spares = (s.clu cl).spares.filter (· != g.dst) ++ [g.src] ∧
        (t.col (64 * cl + g.src)).therm = 4 ∧ (∀ j, j < 16 → (t.ctx (16 * n + j)).x = (s.ctx (16 * n + j)).x ∧
          (t.ctx (16 * n + j)).pc = (s.ctx (16 * n + j)).pc ∧ bits (t.ctx (16 * n + j)).lcore.toNat 15 8 = g.dst) ∧ KeepsMemory s t))
  -- (3) SliceShutdown
  ∧ (
  ∀ (s : State) (cl f w : Nat) (fs : List Nat) (h : Shut), (s.clu cl).shut = some h →
    (h.off = false → h.frames = f :: fs →
      (h.sent < Nat.min (s.cycle - (h.since + 768)) 7423 → (∀ x, x ∈ (s.clu cl).lines → x.dirty = true → x.frame = f →
        x.home = true ∨ s.homeShut x.pa = false) → ∃ t, exec (.sliceFrameWriteback cl) s = .next t ∧
        (t.clu cl).shut = some { h with frames := fs, sent := h.sent + 1 } ∧ KeepsMemory s t ∧
        Instr.sliceFrameWriteback cl ∈ t.agenda) ∧
      (Nat.min (s.cycle - (h.since + 768)) 7423 ≤ h.sent →
        exec (.sliceFrameWriteback cl) s = .next (s.post (.sliceFrameWriteback cl)))) ∧
    (h.off = false → s.cycle < h.since + 8192 → exec (.slicePowerOff cl) s = .next (s.post (.slicePowerOff cl))) ∧
    (h.off = false → h.frames = [] → h.since + 8192 ≤ s.cycle → ∃ t, exec (.slicePowerOff cl) s = .next t ∧
      (t.clu cl).shut = some { h with off := true } ∧ KeepsMemory s t) ∧
    (∀ k, (s.clu cl).coolFrom = some k →
      (s.cycle < k + 2 ^ 20 → exec (.sliceRecovery cl) s = .next (s.post (.sliceRecovery cl))) ∧
      (k + 2 ^ 20 ≤ s.cycle → h.off = true → (∃ l, l ∈ (s.clu cl).lines ∧ l.dirty = true ∧ l.frame ∈ h.frames ∧ l.pa = 64 * w) →
        ∃ t, exec (.sliceRecovery cl) s = .next t ∧ (t.clu cl).shut = none ∧ (t.clu cl).lines = [] ∧
          ((64 * w + 64 ≤ 0x40000000 ∨ 0x40000000 + 98304 * 512 ≤ 64 * w) → cl < 512 → t.isBad (64 * w) = true))))
  -- (4) PowerAndLight
  ∧ (
  ∀ (s : State) (w k cl : Nat), k < 4 →
    (s.power = List.replicate 10 w →
      (23500 < w → s.powerCap < 512 → ∃ t, exec (.powerSample w) s = .next t ∧ t.powerCap = s.powerCap + 1 ∧ t.power = s.power ∧
        KeepsMemory s t) ∧
      (w < 22500 → ∃ t, exec (.powerSample w) s = .next t ∧ t.powerCap = s.powerCap - 1 ∧ KeepsMemory s t) ∧
      (22500 ≤ w → w ≤ 23500 → exec (.powerSample w) s = .next { s with power := List.replicate 10 w })) ∧
    (∃ t, exec (.combLightLoss k) s = .next t ∧ t.light.getLsbD k = false ∧ (t.port k).state = 0 ∧ t.ready 1 (48 + k) = false) ∧
    (∃ t, exec (.combLightReturn k) s = .next t ∧ t.light.getLsbD k = true ∧ KeepsMemory s t ∧
      (cl < 512 → lightSite (cl / 16) = k → Config.omuPresent cl = true → Instr.calibrationStart cl ∈ t.agenda)))

/-- (1) MODULE_RESET, VMAIN_LOSS and VMAIN_POWER_ON (R9, R525, R533, R537): a module reset gives every unit its reset values and
starts the firmware of slot A, else of slot B, that the fused minimum lets run, or stays in recovery; the loss of VMAIN
resets every unit but the management controller and the links.
(2) HOST_LINK_TRAINED, HBM_STACK_READY, FIELD_READY and CLUSTER_READY (R31, R66, R67, R525): bring-up beyond the first stage.
A link trains once the firmware has verified; a stack that passes its test is ready, and one that fails is only reported;
with all stacks up a field becomes ready, and then each of its clusters, whose remap table names its good columns in rising
order but for the spares.
(3) COMMAND_RING_TAIL_WRITE and RESPONSE_RING_HEAD_WRITE (R528, R529): the host's advance of the command ring's tail takes up
the next command: the head steps on, and the command that the entry holds is to be served. A command that is served gets its
response at the response ring's tail: its code, tag and status, and the tail steps on. A full ring lets the response wait for
the host's write of the head.
(4) SPDM, SET_CTRL, SET_TABLE, HOST_ASSIST, FW_STAGE and READ_DEBUG (R407, R408, R526, R529, R530, R533, R534): the commands.
In recovery one that needs the firmware is refused with a status that is not 0; a control that the manual does not have gives
4, an expert one without the unlock 2; a control, a table entry and the fused minimum take the values they are given;
FW_STAGE never writes the slot that runs; READ_DEBUG may clear what it reads.
(5) INVENTORY_UPDATE (R429, R531): the controller changes the inventory between an odd and an even generation number; the
readiness map stands in it as RDYMAP reads. With no skew bit and no error record to clear, nothing is left to be written. -/
def Obligations.Management : Prop :=
  -- (1) Resets
  (
  ∀ (s : State) (c n cl : Nat),
    (∃ t, exec .moduleReset s = .next t ∧ t.ctx c = Ctx.reset ∧ t.core n = Core.reset ∧ t.clu cl = Cluster.reset ∧ t.rdy = Vector.replicate 32 0 ∧
      t.parts = Vector.replicate 32 0 ∧ t.launches = [] ∧ t.sleepers = [] ∧ t.empties = [] ∧ t.cycle = 0 ∧ t.mgmt.modes = 0 ∧
      t.mgmt.fuseMin = s.mgmt.fuseMin ∧ t.mgmt.slotA = s.mgmt.slotA ∧ t.mgmt.slotB = s.mgmt.slotB ∧
      (∀ v, s.mgmt.slotA = some v → s.mgmt.fuseMin ≤ v → t.mgmt.running = some true ∧ t.mgmt.runVersion = v) ∧
      (∀ v, s.mgmt.slotA = none → s.mgmt.slotB = some v → s.mgmt.fuseMin ≤ v → t.mgmt.running = some false ∧ t.mgmt.runVersion = v) ∧
      (s.mgmt.slotA = none → s.mgmt.slotB = none → t.mgmt.running = none) ∧ ∀ a, a < 2 ^ 50 → t.byte a = State.reset.byte a) ∧
    (∃ t, exec .vmainLoss s = .next t ∧ t.ctx c = Ctx.reset ∧ t.core n = Core.reset ∧ t.clu cl = Cluster.reset ∧ t.rdy = Vector.replicate 32 0 ∧
      t.links = s.links ∧ t.parts = s.parts ∧ t.mgmt.vmain = false ∧ t.mgmt.running = s.mgmt.running) ∧
    (∃ t, exec .vmainPowerOn s = .next t ∧ t.mgmt.vmain = true ∧ KeepsMemory s t))
  -- (2) BringUp
  ∧ (
  ∀ (s : State) (l h f cl : Nat) (at' : Bool), s.mgmt.running.isSome = true →
    (l < 2 → ∃ t, exec (.hostLinkTrained l at') s = .next t ∧ (t.link l).up = true ∧ (t.link l).atomics = at' ∧ KeepsMemory s t) ∧
    (s.mgmt.vmain = true →
      (h < 48 → s.ready 1 h = false →
        (∃ t, exec (.hbmStackReady h true) s = .next t ∧ t.ready 1 h = true ∧ KeepsMemory s t) ∧
        (∃ t, exec (.hbmStackReady h false) s = .next t ∧ t.ready 1 h = false)) ∧
      ((∀ i, i < 48 → s.ready 1 i = true) → f < 32 → ∃ t, exec (.fieldReady f) s = .next t ∧ t.ready 0 f = true ∧
        (∀ i, i < 16 → Instr.clusterReady (16 * f + i) ∈ t.agenda) ∧ KeepsMemory s t) ∧
      (cl < 512 → s.ready 0 (cl / 16) = true → s.clusterUp cl = false → ∃ t, exec (.clusterReady cl) s = .next t ∧ t.clusterUp cl = true ∧
        (t.clu cl).spares = s.spareCols cl ∧ KeepsMemory s t ∧ ∀ i : Fin 64,
          let used := (goodCols cl).filter fun p => !(s.spareCols cl).contains p
          (∀ p, used[i.val]? = some p → t.remapState (64 * cl + i) = 1 ∧ t.colOf (64 * cl + i) = 64 * cl + p) ∧
          (used[i.val]? = none → t.remapState (64 * cl + i) = 0))))
  -- (3) Rings
  ∧ (
  ∀ (s : State) (tag tail : Nat) (i : Instr), s.form →
    let h := s.rdN 8 8 % 16383
    let e := BitVec.ofNat 512 (s.rdN (64 + 64 * h) 64)
    let p := s.rdN 0x100000 8 % 16383
    (s.mgmt.busy = false → s.mgmt.waiting = none → tail < 16383 → tail ≠ h → commandOf e = some i →
      ∃ t, exec (.commandRingTailWrite tail) s = .next t ∧ t.rdN 0 8 = tail ∧ t.rdN 8 8 = (h + 1) % 16383 ∧ t.mgmt.busy = true ∧ i ∈ t.agenda) ∧
    (tag < 2 ^ 16 →
      (s.hasRoom → ∃ t k, exec (.spdm tag 49 0) s = .next t ∧ (k = 0 ∨ k = 4) ∧ Responded s t 1 tag k) ∧
      (¬s.hasRoom → ∃ t, exec (.spdm tag 49 0) s = .next t ∧ t.mgmt.waiting.isSome = true ∧
        t.mgmt.busy = false ∧ KeepsMemory s t)) ∧
    (∀ r, s.mgmt.waiting = some r → s.mgmt.held = [] → s.mgmt.busy = false → s.rdN 0 8 % 16383 = h → tail < 16383 → tail ≠ (p + 1) % 16383 →
      ∃ t, exec (.responseRingHeadWrite tail) s = .next t ∧ t.rdN 0x100008 8 = tail ∧ t.rdN (0x100040 + 64 * p) 64 = r.toNat ∧
        t.rdN 0x100000 8 = (p + 1) % 16383 ∧ t.mgmt.waiting = none))
  -- (4) Commands
  ∧ (
  ∀ (s : State) (tag fn ctrl unit v : Nat) (x : Word) (val : BitVec 128) (m : BitVec 384), s.form → tag < 2 ^ 16 → s.hasRoom →
    (∃ t, exec (.spdm tag 48 m) s = .next t ∧ Responded s t 1 tag 0) ∧
    (s.mgmt.running = none → ∃ t k, exec (.setCtrl tag fn ctrl unit x) s = .next t ∧ 0 < k ∧ k < 5 ∧ Responded s t 2 tag k ∧
      t.mgmt.modes = s.mgmt.modes) ∧
    (s.mgmt.running.isSome = true →
      (ctrlExpert fn ctrl = none → ∃ t, exec (.setCtrl tag fn ctrl unit x) s = .next t ∧ Responded s t 2 tag 4) ∧
      (ctrlExpert fn ctrl = some true → s.mgmt.unlocked = false → ∃ t, exec (.setCtrl tag fn ctrl unit x) s = .next t ∧ Responded s t 2 tag 2) ∧
      (∃ t, exec (.setCtrl tag 0 0 unit 1) s = .next t ∧ t.mgmt.modes.getLsbD 0 = true ∧ Responded s t 2 tag 0) ∧
      (s.mgmt.unlocked = true → x.toNat ≤ 8 → ∃ t, exec (.setCtrl tag 5 1 unit x) s = .next t ∧ t.mgmt.reserve = x.toNat ∧ Responded s t 2 tag 0) ∧
      (s.mgmt.unlocked = true → v ≤ s.mgmt.runVersion → ∃ t, exec (.setCtrlMinSecurityVersion tag v) s = .next t ∧
        t.mgmt.fuseMin = Nat.max s.mgmt.fuseMin v ∧ Responded s t 2 tag 0) ∧
      (s.mgmt.unlocked = false → ∃ t, exec (.setCtrlMinSecurityVersion tag v) s = .next t ∧ t.mgmt.fuseMin = s.mgmt.fuseMin ∧
        Responded s t 2 tag 2) ∧
      (unit < 2 ^ 16 → ∃ t, exec (.setTable tag 4 unit val) s = .next t ∧ Responded s t 3 tag 0 ∧
        t.asidEntry unit = bits val.toNat 115 80 * 2 ^ 80 + bits val.toNat 27 0) ∧
      (s.mgmt.unlocked = true → unit < 32768 → ∃ t, exec (.readDebug tag 0 unit true) s = .next t ∧ (t.core unit).sadv = 0 ∧
        Responded s t 7 tag 0 ∧ t.rdN (0x100040 + 64 * (s.rdN 0x100000 8 % 16383) + 8) 8 = (s.core unit).sadv.toNat) ∧
      (s.mgmt.assists = [(fn, .calibrate unit)] → ∃ t, exec (.hostAssist tag fn 0 0) s = .next t ∧ t.mgmt.assists = [] ∧
        (t.omu unit).calData = true ∧ Instr.calibrationComplete unit ∈ t.agenda ∧ Responded s t 5 tag 0) ∧
      (s.mgmt.assists = [] → ∃ t, exec (.hostAssist tag fn 0 0) s = .next t ∧ Responded s t 5 tag 4)) ∧
    (s.mgmt.running = some true → ∃ t k, exec (.fwStage tag 0 0) s = .next t ∧ t.mgmt.slotA = s.mgmt.slotA ∧ Responded s t 6 tag k))
  -- (5) Inventory
  ∧ (
  ∀ (s : State) (w : Fin 32), s.form → s.mgmt.running.isSome = true → s.mgmt.alarms = 0 →
    (s.mgmt.stale = false → exec .inventoryUpdate s = .next s) ∧
    (s.mgmt.stale = true → s.rdN 0x400000 8 % 2 = 0 → ∃ t, exec .inventoryUpdate s = .next t ∧
      t.rdN 0x400000 8 = s.rdN 0x400000 8 + 1 ∧ KeepsMemoryBut s t 0x400000 8 ∧ Instr.inventoryUpdate ∈ t.agenda) ∧
    (s.mgmt.stale = true → s.rdN 0x400000 8 % 2 = 1 → ∃ t, exec .inventoryUpdate s = .next t ∧
      t.rdN 0x400000 8 = (s.rdN 0x400000 8 + 1) % 2 ^ 64 ∧ t.rdN (0x400100 + 8 * w.val) 8 = s.rdy[w].toNat ∧
      ((∀ k, k < 4 → (s.port k).skew = false) → (∀ x, x ∈ s.rings → x.recs = []) → t.mgmt.stale = false)))

/-! ## Completion, form by form -/

/-- LONG_OP_REPLY (R91), STORE_BUFFER_DRAIN (R283), PEER_ACCESS_AT_PORT (R255), PROXY_ACCESS (R272), FULL_EMPTY_AT_PORT (R303),
ATOMIC_AT_PLACE (R312), CELL_OPERATION_AT_HOME (R242), LD.FE, LD.FC, ST.EF and ST.F (R302): each completes, with a next state
that holds its effect, in every state that meets the conditions on the left. The conditions: the context waits for its reply,
the place is open, in range and unpoisoned, and, for a full/empty form, the word is aligned, no older request waits for it
and its full bit is as the form needs. -/
def Obligations.AccessesComplete : Prop :=
  ∀ (s : State), s.form →
    -- LONG_OP_REPLY: the reply reaches the context, which is back in the rotation from a later cycle on
    (∀ c, (s.ctx c).why = some .longOp → (s.ctx c).late = none →
      ∃ t, exec (.longOpReply c) s = .next t ∧ (t.ctx c).why = none ∧ s.cycle < (t.ctx c).eligFrom ∧ (t.ctx c).x = (s.ctx c).x ∧
        (t.ctx c).pc = (s.ctx c).pc ∧ KeepsMemory s t) ∧
    -- STORE_BUFFER_DRAIN: a buffered 8-byte store is performed and leaves the buffer
    (∀ c va key asid v rest, key % 8 = 0 → (s.ctx c).buf = .store [⟨va, key, 8, false, none⟩] (storeBytes [key, key + 1, key + 2, key + 3, key + 4, key + 5, key + 6, key + 7] v) asid [key] none false :: rest →
      s.canPerform c asid key = true →
      ∃ t, exec (.storeBufferDrain c) s = .next t ∧ (t.ctx c).buf = rest ∧ t.rdN key 8 = v % 2 ^ 64 ∧ (∀ a, a < key ∨ key + 8 ≤ a → t.byte a = s.byte a) ∧
        (t.ctx c).x = (s.ctx c).x ∧ (t.ctx c).pc = (s.ctx c).pc) ∧
    -- PEER_ACCESS_AT_PORT: a load of n bytes of core k's scratchpad reaches its register, a store its bytes
    (∀ k off n sg data c d, s.heldKey c (s.ctx c).asid.toNat .load (2 ^ 52 + 2 ^ 19 * k + off) = false →
      (s.badIn (2 ^ 52 + 2 ^ 19 * k + off) n = none → ∃ t, exec (.peerAccessAtPort k off n sg false data c d) s = .next t ∧ KeepsMemory s t ∧
        (t.ctx c).getX d = if d = 0 then 0 else if sg then BitVec.ofInt 64 (sext (s.rdN (2 ^ 52 + 2 ^ 19 * k + off) n) (8 * n))
          else BitVec.ofNat 64 (s.rdN (2 ^ 52 + 2 ^ 19 * k + off) n)) ∧
      ∃ t, exec (.peerAccessAtPort k off n sg true data c d) s = .next t ∧ t.rdN (2 ^ 52 + 2 ^ 19 * k + off) n = data.toNat % 256 ^ n ∧
        KeepsMemoryBut s t (2 ^ 52 + 2 ^ 19 * k + off) n) ∧
    -- PROXY_ACCESS: the line is served and the reply reaches the context
    (∀ c va pa wr, (s.ctx c).why = some .longOp → (s.ctx c).late = none →
      ∃ t, exec (.proxyAccess c va pa wr) s = .next t ∧ (t.ctx c).why = none ∧ (t.ctx c).x = (s.ctx c).x ∧ KeepsMemory s t) ∧
    -- FULL_EMPTY_AT_PORT: a form whose condition holds is performed, and its context goes on
    (∀ c w op d data, (s.ctx c).why = some (.fullEmpty (spadCore w)) → (s.ctx c).taken = false → s.heldKey c (s.ctx c).asid.toNat .load w = false → s.inRange w = false →
      s.isBad w = false → w % 8 = 0 → (s.core (spadCore w)).feq = [] → s.feReady op w = true →
      ∃ t, exec (.fullEmptyAtPort c op w d data) s = .next t ∧ (t.ctx c).why = none ∧ (t.ctx c).x = (s.ctx c).x ∧
        (op = .fe → (t.ctx c).got = some (s.rd64 w) ∧ KeepsMemory s t) ∧ (op = .fc → (t.ctx c).got = some (s.rd64 w) ∧ t.isFull w = false) ∧
        (op = .ef ∨ op = .f → t.rd64 w = data ∧ t.isFull w = true)) ∧
    -- ATOMIC_AT_PLACE: the old value reaches the register, the new one is in memory, and the context goes on
    (∀ o sc loc v e c d, s.heldKey c (s.ctx c).asid.toNat .atomic loc = false → s.inRange loc = false → s.isBad loc = false →
      ∃ t, exec (.atomicAtPlace .add true o sc loc v e c (some d)) s = .next t ∧ t.rdN loc 8 = (s.rdN loc 8 + v.toNat) % 2 ^ 64 ∧
        (t.ctx c).getX d = (if d = 0 then 0 else BitVec.ofNat 64 (s.rdN loc 8)) ∧ KeepsMemoryBut s t loc 8) ∧
    -- CELL_OPERATION_AT_HOME: an accepted addition is performed; a count and state reach their register
    (∀ pa c t b d (who : CellSend), who.ctx = c → s.heldKey c who.asid .cell pa = false →
      ((∀ e, e ∈ s.agenda → isCellOp c false e = false) → ∃ u, exec (.cellOperationAtHome (.add t b) pa { who with accepted := true }) s = .next u ∧
        u.rdN pa 64 = cellBytes (cellAdd (cellOf (s.cellNow pa)) t b.toNat) % 256 ^ 64 ∧ KeepsMemoryBut s u pa 64) ∧
      (s.badIn pa 64 = none → ∃ u, exec (.cellOperationAtHome (.stat d) pa { who with accepted := false }) s = .next u ∧ KeepsMemory s u ∧
        (u.ctx c).getX d = if d = 0 then 0 else BitVec.ofNat 64 ((cellOf (s.cellNow pa)).count + (cellOf (s.cellNow pa)).state * 2 ^ 32 +
          if (cellOf (s.cellNow pa)).ovf then 2 ^ 40 else 0))) ∧
    -- LD.FE, LD.FC, ST.EF and ST.F on the own scratchpad, over an empty buffer
    (∀ (d : XR) (a b : XS) (off : BitVec 16) (o : Nat), s.flows → s.me.got = none → s.me.buf = [] → s.cellsOut s.cur = false → s.me.armed = none → s.me.recBad = false →
      s.me.getS b + off.signExtend 64 = BitVec.ofNat 64 (0x00F0000002000000 + o) → o % 8 = 0 → o < 2 ^ 19 →
      s.isBad (2 ^ 52 + 2 ^ 19 * (s.cur / 16) + o) = false → s.inRange (2 ^ 52 + 2 ^ 19 * (s.cur / 16) + o) = false → (s.core s.myCore).feq = [] →
      (s.isFull (2 ^ 52 + 2 ^ 19 * (s.cur / 16) + o) = true →
        (∃ t, exec (.ldFe d b off) s = .next t ∧ t.me.getX d = (if d = 0 then 0 else s.rd64 (2 ^ 52 + 2 ^ 19 * (s.cur / 16) + o)) ∧
          t.me.pc = BitVec.ofNat 64 s.nextPc ∧ KeepsMemory s t) ∧
        (∃ t, exec (.ldFc d b off) s = .next t ∧ t.me.getX d = (if d = 0 then 0 else s.rd64 (2 ^ 52 + 2 ^ 19 * (s.cur / 16) + o)) ∧
          t.isFull (2 ^ 52 + 2 ^ 19 * (s.cur / 16) + o) = false ∧ t.me.pc = BitVec.ofNat 64 s.nextPc)) ∧
      (s.isFull (2 ^ 52 + 2 ^ 19 * (s.cur / 16) + o) = false →
        ∃ t, exec (.stEf a b off) s = .next t ∧ t.rd64 (2 ^ 52 + 2 ^ 19 * (s.cur / 16) + o) = s.me.getS a ∧
          t.isFull (2 ^ 52 + 2 ^ 19 * (s.cur / 16) + o) = true ∧ t.me.pc = BitVec.ofNat 64 s.nextPc) ∧
      ∃ t, exec (.stF a b off) s = .next t ∧ t.rd64 (2 ^ 52 + 2 ^ 19 * (s.cur / 16) + o) = s.me.getS a ∧
        t.isFull (2 ^ 52 + 2 ^ 19 * (s.cur / 16) + o) = true ∧ t.me.pc = BitVec.ofNat 64 s.nextPc)

/-- WAITV_AT_HOME, NOTIFY_AT_HOME, WAIT_TABLE_ENTRY_GRANT, SYNC_AT_HOME, JOIN_UPDATE_AT_HOME, SLUICE_ARRIVAL_COUNT, SLUICE_RELAY,
SLUICE_COMPLETION_SEEN, MESSAGE_ARRIVAL, SEND_STATUS_RETURN, SPILLED_MESSAGE_MOVE, HOST_MESSAGE, ARV, ARV.RLX, ARVD, BWT,
BTEST, WAITV, NTF1, NTFA, SEND, RECV and RECVT (R321, R322, R326, R327, R330 to R332, R335 to R340, R395): each completes,
with a next state that holds its effect, in every state that meets the conditions on the left: the context waits for it, its
word's home is open and has an entry free, its channel is owned and it has yet to arrive, its queue has an entry for it. -/
def Obligations.WaitsAndMessagesComplete : Prop :=
  ∀ (s : State),
    -- WAITV_AT_HOME: the word no longer matches (.eq with mask all ones): the waiter gets it and goes on
    (∀ c loc x, (s.ctx c).why = some .sleep → s.heldKey c (s.ctx c).asid.toNat .atomic loc = false → s.entryFree loc = true → s.entryWait = [] →
      s.isBad loc = false → BitVec.ofNat 64 (s.rdN loc 8) ≠ x →
      ∃ t, exec (.waitvAtHome c loc true false x (-1)) s = .next t ∧ (t.ctx c).got = some (BitVec.ofNat 64 (s.rdN loc 8)) ∧
        (t.ctx c).why = none ∧ t.sleepers = s.sleepers ∧ KeepsMemory s t) ∧
    -- NOTIFY_AT_HOME: how many it woke reaches the register
    (∀ c loc all d, s.heldKey c (s.ctx c).asid.toNat .atomic loc = false → (∀ r, r ∈ s.sleepers → (s.ctx r.who).recBad = false) → ∃ t, exec (.notifyAtHome c loc all d) s = .next t ∧ KeepsMemory s t ∧
      (t.ctx c).getX d = if d = 0 then 0 else BitVec.ofNat 64 (if all then (s.sleepers.filter fun r => !r.sync && wordOf r.loc == wordOf loc && r.woken.isNone).length
        else min 1 (s.sleepers.filter fun r => !r.sync && wordOf r.loc == wordOf loc && r.woken.isNone).length)) ∧
    -- WAIT_TABLE_ENTRY_GRANT: the form that waited for an entry makes its test
    (∀ h c loc, s.entryWait = [(h, c, .syncAtHome c loc)] → s.entryFree loc = true → s.isBad loc = false → s.rdN loc 8 = 0 → (s.ctx c).why = some .sleep →
      s.heldKey c (s.ctx c).asid.toNat .atomic loc = false →
      ∃ t, exec (.waitTableEntryGrant h) s = .next t ∧ t.entryWait = [] ∧ (t.ctx c).got = some 0 ∧ (t.ctx c).why = none ∧ KeepsMemory s t) ∧
    -- SYNC_AT_HOME: a join word of 0 ends the SYNC, any other one makes it sleep
    (∀ c loc, (s.ctx c).why = some .sleep → s.heldKey c (s.ctx c).asid.toNat .atomic loc = false → s.entryFree loc = true → s.entryWait = [] →
      s.isBad loc = false →
      (s.rdN loc 8 = 0 → ∃ t, exec (.syncAtHome c loc) s = .next t ∧ (t.ctx c).got = some 0 ∧ (t.ctx c).why = none ∧ KeepsMemory s t) ∧
      (s.rdN loc 8 ≠ 0 → ∃ t, exec (.syncAtHome c loc) s = .next t ∧ t.ctx c = { s.ctx c with held := false } ∧
        t.sleepers = s.sleepers ++ [⟨c, false, true, loc, true, none⟩] ∧ KeepsMemory s t)) ∧
    -- JOIN_UPDATE_AT_HOME: the join word takes the sum, the register the old or the new value
    (∀ loc w j d new, s.form → s.heldKey j (s.ctx j).asid.toNat .atomic loc = false → s.isBad loc = false →
      ∃ t, exec (.joinUpdateAtHome loc w j d new) s = .next t ∧ t.rd64 loc = s.rd64 loc + w ∧ KeepsMemoryBut s t loc 8 ∧
        (t.ctx j).getX d = if d = 0 then 0 else if new then s.rd64 loc + w else s.rd64 loc) ∧
    -- SLUICE_ARRIVAL_COUNT: an arrival whose earlier accesses are performed is counted
    (∀ l c ch p upto, (s.group l ch).uncounted.contains c = true → (s.group l ch).hasArrived c p = true → upto ≤ (s.ctx c).drains + 1 →
      s.cellsOut c = false →
      ∃ t, exec (.sluiceArrivalCount (l, c) ch p (upto, [])) s = .next t ∧ (t.group l ch).uncounted.contains c = false ∧ KeepsMemory s t) ∧
    -- SLUICE_RELAY: a field's report reaches the root
    (∀ l ch f, (s.launch l).live = true → tget (s.group l ch).views f 0 = (s.group l ch).tree → (s.group l ch).reported.contains f = false →
      (s.group l ch).fieldDone (s.launch l).cores f = true →
      (∀ n, n ∈ (s.launch l).cores → fieldOf n = f → tget (s.group l ch).openedAt n (s.cycle + 1) ≠ s.cycle) →
      (setFields (s.launch l).cores).all (fun n => n == f || (s.group l ch).reported.contains n) = false →
      ∃ t, exec (.sluiceRelay l ch f) s = .next t ∧ (t.group l ch).reported = (s.group l ch).reported ++ [f] ∧ KeepsMemory s t) ∧
    -- SLUICE_COMPLETION_SEEN: the field's cores open the next phase
    (∀ l ch f, (s.launch l).live = true → tget (s.group l ch).views f 0 ≠ (s.group l ch).tree →
      ∃ t, exec (.sluiceCompletionSeen l ch f) s = .next t ∧ tget (t.group l ch).views f 0 = (s.group l ch).tree ∧ KeepsMemory s t) ∧
    -- MESSAGE_ARRIVAL: the message joins the receive queue, and the sender's status is 0
    (∀ m c d, m.status = 0 → c ≠ noCtx → (s.turnOf m).1 = (s.turnOf m).2 → bits m.addr 24 19 = s.pkg → s.portLets m = true → s.remapState (m.dst / 16) = 1 → s.savedFor (m.dst / 16) m.asid = false →
      (s.core (m.dst / 16)).takes m.dst = true → (s.core (m.dst / 16)).spill = [] →
      ∃ t, exec (.messageArrival m c d) s = .next t ∧ (t.core (m.dst / 16)).rq = (s.core (m.dst / 16)).rq ++ [m] ∧
        Instr.sendStatusReturn c 0 d ∈ t.agenda ∧ KeepsMemory s t) ∧
    -- SEND_STATUS_RETURN: the status reaches the sender, whose SEND ends
    (∀ c st d, (s.ctx c).why = some .longOp → ∃ t, exec (.sendStatusReturn c st d) s = .next t ∧
      (t.ctx c).getX d = (if d = 0 then 0 else st.setWidth 64) ∧ (t.ctx c).why = none ∧ KeepsMemory s t) ∧
    -- SPILLED_MESSAGE_MOVE: a spilled message moves to the receive queue
    (∀ n r, (s.core n).spill = [r] → r.dst / 16 = n → (s.core n).takes r.dst = true → ∃ t, exec (.spilledMessageMove n) s = .next t ∧
      (t.core n).rq = (s.core n).rq ++ [{ r with poisoned := r.poisoned || (s.badIn (spillRing n ((s.core n).spillSlots.getD 0 0)) 64).isSome }] ∧
      (t.core n).spill = [] ∧ KeepsMemory s t) ∧
    -- HOST_MESSAGE: a record that is not whole is dropped with code 1
    (∀ link f r, (f = 0 ∨ partValid (s.parts.toList.getD (f - 1) 0) = true) → ∃ t, exec (.hostMessage link f false r) s = .next t ∧
      (t.func f).lastdrop = 1 ∧ (t.func f).dropped = Nat.min ((s.func f).dropped + 1) 0xFFFF ∧ KeepsMemory s t) ∧
    -- HOST_MESSAGE: a whole one that its dispatcher entry sends to a mapped context in reach joins its queue
    (∀ link f (r : BitVec 512) e n, (f = 0 ∨ partValid (s.parts.toList.getD (f - 1) 0) = true) → bits r.toNat 511 262 = 0 →
      ((s.func f).disp.toList.getD (bits r.toNat 259 256) 0).toNat = e → e.testBit 25 = true → e % 2 ^ 25 / 2 ^ 19 = s.pkg → n = e % 2 ^ 19 / 16 →
      s.fnReach f (fieldOf n) = true → s.remapState n = 1 → (s.core n).mode = .running → (s.core n).rq = [] → (s.core n).spill = [] →
      ∃ t m, exec (.hostMessage link f true r) s = .next t ∧ (t.core n).rq = [m] ∧ m.dst = e % 2 ^ 19 ∧ m.host = true ∧ m.payload = r.setWidth 256 ∧
        KeepsMemory s t) ∧
    -- ARV, ARV.RLX, ARVD, BWT and BTEST on a channel that the core's live launch owns
    (∀ (ch : Fin 16) (d : XR) (a : XS) (l p : Nat), s.flows → (s.core s.myCore).launch = some l → (s.launch l).live = true → (s.launch l).owns ch.val = true →
      (s.group l ch.val).view s.myCore = p →
      ((s.group l ch.val).member s.cur = true → (s.group l ch.val).hasArrived s.cur p = false → ∀ i, i ∈ [.arv ch d, .arvRlx ch d, .arvd ch d] →
        ∃ t, exec i s = .next t ∧ t.me.getX d = (if d = 0 then 0 else BitVec.ofNat 64 p) ∧ t.me.pc = BitVec.ofNat 64 s.nextPc ∧
          (t.group l ch.val).arrived = (s.group l ch.val).arrived ++ [(s.cur, p)] ∧ KeepsMemory s t) ∧
      (p < 2 ^ 16 → ((s.me.getS a).toNat + 1) % 2 ^ 16 = p → ∃ t, exec (.bwt ch a) s = .next t ∧ t.me.pc = BitVec.ofNat 64 s.nextPc ∧ t.me.x = s.me.x ∧ KeepsMemory s t) ∧
      ∃ t, exec (.btest ch d) s = .next t ∧ t.me.pc = BitVec.ofNat 64 s.nextPc ∧ KeepsMemory s t ∧
        t.me.getX d = if d = 0 then 0 else BitVec.ofNat 64 (p + (if (s.group l ch.val).member s.cur then 2 ^ 16 else 0) +
          (if (s.group l ch.val).counted s.cur p then 2 ^ 17 else 0) + (if (s.group l ch.val).lost then 2 ^ 18 else 0))) ∧
    -- WAITV: it goes to the home of its word, and ends with the answer it got there
    (∀ (ne w : Bool) (sc : Scope) (d : XR) (b c e : XS) (p : Piece) (v : Word), s.flows →
      (s.me.got = none → (s.me.getS b).toNat % (if w then 8 else 4) = 0 → s.resolveMe .load (s.me.getS b).toNat (if w then 8 else 4) = .ok [p] → 0 < p.len →
        s.me.buf = [] → s.me.armed = none → s.me.recBad = false → s.badPiece [p] = none → isRemote p.key = false → isHost p.key = false →
        ∃ t, exec (.waitv ne sc w d b c e) s = .next t ∧ t.me.why = some .sleep ∧ t.me.pc = s.me.pc ∧
          Instr.waitvAtHome s.cur p.key w ne (s.me.getS c) (s.me.getS e) ∈ t.agenda ∧ KeepsMemory s t) ∧
      (s.me.got = some v → ∃ t, exec (.waitv ne sc w d b c e) s = .next t ∧ t.me.getX d = (if d = 0 then 0 else v) ∧ t.me.got = none ∧
        t.me.pc = BitVec.ofNat 64 s.nextPc ∧ KeepsMemory s t)) ∧
    -- NTF1 and NTFA: a notify of a local word is sent to its home
    (∀ (all : Bool) (sc : Scope) (d : XR) (b : XS) (p : Piece), s.flows → (s.me.getS b).toNat % 4 = 0 →
      s.resolveMe .load (s.me.getS b).toNat 4 = .ok [p] → 0 < p.len → s.me.buf = [] → s.me.armed = none → s.me.recBad = false → s.badPiece [p] = none →
      isRemote p.key = false → isHost p.key = false → s.quiet s.cur sc none = true →
      ∃ t, exec (if all then .ntfa sc d b else .ntf1 sc d b) s = .next t ∧ Instr.notifyAtHome s.cur p.key all d ∈ t.agenda ∧
        t.me.why = some .longOp ∧ t.me.pc = BitVec.ofNat 64 s.nextPc ∧ t.me.x = s.me.x ∧ KeepsMemory s t) ∧
    -- SEND: a message to a context of the same partition leaves
    (∀ (sc : Scope) (q : Fin 4) (d : XR) (b : XS) (c : VR) (p : Nat), s.flows → s.me.buf = [] → s.quiet s.cur sc none = true →
      s.partOf (fieldOf s.myCore) = some p → (s.me.getS b).toNat % 2 ^ 25 / 2 ^ 19 = s.pkg →
      s.partOf (fieldOf ((s.me.getS b).toNat % 2 ^ 25 % 2 ^ 19 / 16)) = some p →
      ∃ t m, exec (.send sc q d b c) s = .next t ∧ t.me.why = some .longOp ∧ t.me.pc = BitVec.ofNat 64 s.nextPc ∧ KeepsMemory s t ∧
        Instr.messageArrival m s.cur d ∈ t.agenda ∧ m.dst = (s.me.getS b).toNat % 2 ^ 25 % 2 ^ 19 ∧ m.ch = q.val ∧ m.payload = s.me.getV c) ∧
    -- RECV and RECVT: the first entry of the receive queue, if it is the context's own
    (∀ (sc : Scope) (d : VR) (xm : XR) (m : Msg) (rest : List Msg), s.flows → s.me.armed = none → (s.core s.myCore).rq = m :: rest → m.dst = s.cur →
      m.poisoned = false → ∀ i, i ∈ [.recv sc none d xm, .recvt sc none d xm] →
      ∃ t, exec i s = .next t ∧ t.me.getV d = (if d = .vz then 0 else m.payload) ∧ (t.core s.myCore).rq = rest ∧
        t.me.pc = BitVec.ofNat 64 s.nextPc ∧ KeepsMemory s t)

/-- TAKE, STEAL, SPAWN, JOINA, TDONE, SYNC, SLICE, DEQUE_REFILL, STEAL_PROBE_READ, STEAL_CAS and LOAD_TASK (R385 to R404): each
completes, with a next state that holds its effect, in every state that meets the conditions on the left: no task in hand
(for TDONE one), a deque with an entry or with room, frames that pass their checks, a mapped and unfrozen victim, words that
are not poisoned. -/
def Obligations.TasksComplete : Prop :=
  ∀ (s : State), s.form →
    -- TAKE: the newest entry of the core's deque
    (∀ d, s.me.taskf = 0 → s.flows → 1 ≤ (s.core s.myCore).dqLen → s.isBad (s.dqSlot s.myCore (((s.core s.myCore).dqbot.toNat + 2 ^ 32 - 1) % 2 ^ 32)) = false →
      ∃ t, exec (.take d) s = .next t ∧
        t.me.pendf = some (s.rd64 (s.dqSlot s.myCore (((s.core s.myCore).dqbot.toNat + 2 ^ 32 - 1) % 2 ^ 32))) ∧
        (t.core s.myCore).dqbot = BitVec.ofNat 64 (((s.core s.myCore).dqbot.toNat + 2 ^ 32 - 1) % 2 ^ 32) ∧ t.me.pc = BitVec.ofNat 64 s.nextPc ∧
        KeepsMemory s t) ∧
    -- STEAL: its probes leave, and the rotation of its core steps on
    (∀ d b, s.me.taskf = 0 → s.flows → ∃ t ws, exec (.steal d b) s = .next t ∧ t.me.why = some .deque ∧ t.me.pc = s.me.pc ∧
      (t.core s.myCore).rho = (s.core s.myCore).rho + 1 ∧ Instr.stealProbeRead s.cur ws d ∈ t.agenda ∧ KeepsMemory s t) ∧
    -- STEAL_PROBE_READ: with nothing left to probe the STEAL ends with 0; at a deque with an entry it goes on to the exchange
    (∀ c d, (s.ctx c).why = some .deque →
      (∃ t, exec (.stealProbeRead c [] d) s = .next t ∧ (t.ctx c).getX d = 0 ∧ (t.ctx c).why = none ∧
        (t.ctx c).pc = BitVec.ofNat 64 (s.ctx c).nextPc ∧ KeepsMemory s t) ∧
      ∀ v vs, s.remapState v = 1 → s.portFrozen v (s.ctx c).asid.toNat = false → 1 ≤ (s.core v).dqLen →
        exec (.stealProbeRead c (v :: vs) d) s = .next (s.post (.stealCas c (v :: vs) (s.core v).dqtop.toNat d))) ∧
    -- STEAL_CAS: the oldest entry of the victim's deque
    (∀ c v vs d, (s.ctx c).why = some .deque → s.remapState v = 1 → s.portFrozen v (s.ctx c).asid.toNat = false → 1 ≤ (s.core v).dqLen →
      s.isBad (s.dqSlot v (s.core v).dqtop.toNat) = false →
      ∃ t, exec (.stealCas c (v :: vs) (s.core v).dqtop.toNat d) s = .next t ∧ (t.ctx c).pendf = some (s.rd64 (s.dqSlot v (s.core v).dqtop.toNat)) ∧
        (t.core v).dqtop = BitVec.ofNat 64 (((s.core v).dqtop.toNat + 1) % 2 ^ 32) ∧ (t.ctx c).pc = BitVec.ofNat 64 (s.ctx c).nextPc ∧
        KeepsMemory s t) ∧
    -- LOAD_TASK: the task of a frame that can be read is in force
    (∀ c f d p, (s.ctx c).pendf = some (BitVec.ofNat 64 f) → (s.ctx c).why = some .longOp → (s.ctx c).resume = none →
      s.frameAt (s.asker c) (s.ctx c).walkFail .load f 0 40 = .ok [p] → s.badIn p.key 8 = none → s.badIn (p.key + 24) 16 = none →
      ∃ t, exec (.loadTask c f d) s = .next t ∧ (t.ctx c).taskf = (BitVec.ofNat 64 f) &&& 0x00FFFFFFFFFFFFC0 ∧ (t.ctx c).shadow = true ∧ (t.ctx c).why = none ∧ KeepsMemory s t) ∧
    -- DEQUE_REFILL: a block of 64 entries comes back from the spill region
    (∀ n b r, (s.core n).refill = some b → s.portRuns n = true → (s.core n).dqLen ≤ 192 → s.spillAt n .load = .at r →
      s.badIn (r + 512 + 512 * b) 512 = none →
      (∀ i, i < 64 → s.inRange (s.dqSlot n ((s.core n).dqtop.toNat + 2 ^ 32 - 64 + i)) = false) → 64 ≤ (s.core n).dqtop.toNat → (s.core n).dqtop.toNat < 2 ^ 32 →
      ∃ t, exec (.dequeRefill n) s = .next t ∧ (t.core n).dqtop = (s.core n).dqtop - 64 ∧ (t.core n).nblk = b ∧ (t.core n).dqbot = (s.core n).dqbot) ∧
    -- SPAWN of a child without a parent, JOINA, TDONE of a task without a parent, and SYNC
    (∀ (d : XR) (b c : XS) (p q : Piece) (v : Word), s.flows → s.me.buf = [] → s.quiet s.cur .device none = true → s.me.armed = none → s.me.recBad = false →
      (s.frameMe .store (s.me.getS b).toNat 8 8 = .ok [p] → p.key + 8 ≤ 2 ^ 52 → (s.core s.myCore).dqLen < 255 → s.inRange (s.dqSlot s.myCore (s.core s.myCore).dqbot.toNat) = false →
        s.me.getS c = 0 →
        ∃ t, exec (.spawn d b c) s = .next t ∧ t.me.getX d = (if d = 0 then 0 else BitVec.ofNat 64 ((s.core s.myCore).dqLen + 1)) ∧
          t.rd64 p.key = 0 ∧ t.rd64 (s.dqSlot s.myCore (s.core s.myCore).dqbot.toNat) = s.me.getS b ∧ t.me.pc = BitVec.ofNat 64 s.nextPc) ∧
      (s.frameMe .atomic (s.me.getS b).toNat 16 8 = .ok [q] → s.badPiece [q] = none →
        ∃ t, exec (.joina d b c) s = .next t ∧ Instr.joinUpdateAtHome q.key (s.me.getS c) s.cur d false ∈ t.agenda ∧ t.me.why = some .longOp ∧
          t.me.pc = BitVec.ofNat 64 s.nextPc ∧ KeepsMemory s t) ∧
      (s.me.taskf ≠ 0 → s.frameMe .load s.me.taskf.toNat 8 8 = .ok [q] → s.badPiece [q] = none → s.rd64 q.key = 0 →
        ∃ t, exec (.tdone d) s = .next t ∧ t.me.getX d = 0 ∧ t.me.taskf = 0 ∧ t.me.shadow = false ∧ t.me.pc = BitVec.ofNat 64 s.nextPc ∧ KeepsMemory s t) ∧
      (s.me.got = none → s.frameMe .load (s.me.getS b).toNat 16 8 = .ok [q] → s.badPiece [q] = none →
        ∃ t, exec (.sync d b) s = .next t ∧ t.me.why = some .sleep ∧ t.me.pc = s.me.pc ∧ Instr.syncAtHome s.cur q.key ∈ t.agenda ∧ KeepsMemory s t) ∧
      (s.me.got = some v → ∃ t, exec (.sync d b) s = .next t ∧ t.me.getX d = (if d = 0 then 0 else v) ∧ t.me.pc = BitVec.ofNat 64 s.nextPc ∧
        KeepsMemory s t)) ∧
    -- SLICE of a well-formed shape record in the own scratchpad
    (∀ (d : XR) (b c : XS) (o : Nat) (h : Shape), s.flows → s.me.getS b = BitVec.ofNat 64 (0x00F0000002000000 + o) → o % 64 = 0 → o + 128 ≤ 2 ^ 19 →
      s.me.armed = none → s.me.recBad = false → s.badIn (2 ^ 52 + 2 ^ 19 * (s.cur / 16) + o) 128 = none → s.me.buf = [] →
      shapeOf (s.rdN (2 ^ 52 + 2 ^ 19 * (s.cur / 16) + o) 128) = h → h.reserved = 0 → h.gran ≠ 0 → h.pdim ≤ h.ndm1 → 0 < h.parts →
      ∃ t, exec (.slice d b c) s = .next t ∧ t.me.eligFrom = s.cycle + 24 ∧ t.me.pc = BitVec.ofNat 64 s.nextPc ∧ KeepsMemory s t ∧
        t.me.getX d = if d = 0 then 0 else if (s.me.getS c).toNat.testBit 16 then BitVec.ofNat 64 (h.part h.parts ((s.me.getS c).toNat % 2 ^ 16)).2
          else h.base + BitVec.ofNat 64 (h.part h.parts ((s.me.getS c).toNat % 2 ^ 16)).1 * h.pstride)

/-- CPY, CPYT, GATH, SCAT, MCST, RDCT, HDSUB, TLRET, HDEND, AWAIT, ENGINE_ACCEPTANCE, ENGINE_WORD_WRITE, ENGINE_COMMAND_COMPLETE,
CPYT_FRAME_PUSH, RDCT_NODE_COMBINE, HEADRACE_TILE_FILL and TAILRACE_WRITEBACK (R347, R350, R354 to R364): each completes,
with a next state that holds its effect, in every state that meets the conditions on the left: the buffer is empty and
earlier accesses are done, the command named is under way, its places are open, in range and unpoisoned, and nobody waits for
the words it writes. -/
def Obligations.EnginesComplete : Prop :=
  ∀ (s : State), s.form → (∀ n, (s.core n).feq = []) →
    -- CPY, CPYT, GATH, SCAT, MCST, RDCT, HDSUB, TLRET: sent to their engine
    (∀ (l : Bool) (sc : Scope) (d : XR) (b c e : XS) (i : Instr) (f : EngForm), s.flows → s.me.buf = [] → s.calm s.cur sc none = true →
      (i, f) ∈ [((.cpy sc d b c e : Instr), EngForm.cpy), (.cpyt sc d b c e, .cpyt), (.gath sc d b c e, .gath), (.scat sc d b c e, .scat),
        (.mcst l sc d b c e, .mcst l), (.rdct .max sc d b c e, .rdct .max), (.hdsub sc d b c e, .hdsub)] →
      ∃ t, exec i s = .next t ∧ Instr.engineAcceptance s.cur ⟨f, sc, d, s.me.getS b, s.me.getS c, s.me.getS e, s.me.fctx⟩ ∈ t.agenda ∧
        t.me = { s.me with why := some .accept, held := false, sent := true }) ∧
    (∀ (sc : Scope) (d : XR) (b c : XS), s.flows → s.me.buf = [] → s.calm s.cur sc none = true →
      ∃ t, exec (.tlret sc d b c) s = .next t ∧ Instr.engineAcceptance s.cur ⟨.tlret, sc, d, s.me.getS b, s.me.getS c, 0, s.me.fctx⟩ ∈ t.agenda ∧
        t.me = { s.me with why := some .accept, held := false, sent := true }) ∧
    -- HDEND of a live subscription; AWAIT of a finished command, and of one under way
    (∀ (d : XR) (b : XS) (u : Sub), s.flows → s.me.buf = [] → s.subOf (s.cur / 1024) (s.me.getS b) = some u →
      ∃ t, exec (.hdend d b) s = .next t ∧ t.me.why = some .longOp ∧ t.me.x = s.me.x ∧ t.me.pc = BitVec.ofNat 64 s.nextPc ∧ KeepsMemory s t) ∧
    (∀ (d : XR) (b : XS) (kind seq : Nat), s.flows → s.me.buf = [] → kind < 7 → seq < 2 ^ 32 → s.me.getS b = BitVec.ofNat 64 (kind * 2 ^ 32 + seq) →
      (s.seqNext (s.cur / 1024) kind + 2 ^ 32 - seq) % 2 ^ 32 ≠ 0 → (s.seqNext (s.cur / 1024) kind + 2 ^ 32 - seq) % 2 ^ 32 ≤ 2 ^ 31 →
      (s.clu (s.cur / 1024)).otherKind kind seq = false →
      ((s.clu (s.cur / 1024)).busy kind seq = true → ∃ t, exec (.await d b) s = .next t ∧ t.me.why = some .longOp ∧ t.me.x = s.me.x ∧
        t.me.pc = BitVec.ofNat 64 s.nextPc ∧ KeepsMemory s t) ∧
      (∀ r, (s.clu (s.cur / 1024)).busy kind seq = false →
        (s.clu (s.cur / 1024)).done.find? (fun x => x.kind == kind && x.seq == seq) = some r →
        ∃ t, exec (.await d b) s = .next t ∧ t.me.getX d = (if d = 0 then 0 else BitVec.ofNat 64 r.status) ∧
          t.me.pc = BitVec.ofNat 64 s.nextPc ∧ KeepsMemory s t)) ∧
    -- ENGINE_ACCEPTANCE: a TLRET of a filled slot of a live subscription gets its token, and its context goes on
    (∀ c sc d b i f u tile, (s.ctx c).why = some .accept → s.subOf (c / 1024) b = some u → s.engReach c (s.ctx c).asid.toNat u.ring ≠ .held → i.toNat < u.ns → s.isFull (u.marker i.toNat) = true →
      u.tileIn i.toNat = some tile → (s.clu (c / 1024)).rets = [] →
      ∃ t, exec (.engineAcceptance c ⟨.tlret, sc, d, b, i, 0, f⟩) s = .next t ∧ (t.ctx c).why = none ∧
        (t.ctx c).pc = BitVec.ofNat 64 (s.ctx c).nextPc ∧
        (t.ctx c).getX d = (if d = 0 then 0 else BitVec.ofNat 64 (6 * 2 ^ 32 + s.seqNext (c / 1024) 6)) ∧ KeepsMemory s t) ∧
    -- ENGINE_WORD_WRITE: the one word left of a copy is moved
    (∀ cl seq x m, (s.clu cl).cmds.find? (·.seq == seq) = some x → x.moves = [m] → m.hi = m.lo + 1 → s.copyReach x (m.src + 8 * m.lo) = .ok →
      s.copyReach x (m.dst + 8 * m.lo) = .ok → s.inRange (m.dst + 8 * m.lo) = false → s.isBad (m.src + 8 * m.lo) = false →
      ∃ t, exec (.engineWordWrite cl 3 seq) s = .next t ∧ t.rdN (m.dst + 8 * m.lo) 8 = s.rdN (m.src + 8 * m.lo) 8) ∧
    -- ENGINE_COMMAND_COMPLETE: the command ends with its status
    (∀ cl seq x, (s.clu cl).cmds.find? (·.seq == seq) = some x → s.copyFlying x = false → ∃ t, exec (.engineCommandComplete cl 3 seq) s = .next t ∧
      ⟨3, seq, x.status, x.sc⟩ ∈ (t.clu cl).done ∧ (t.clu cl).cmds = (s.clu cl).cmds.filter (·.seq != seq) ∧ KeepsMemory s t) ∧
    -- CPYT_FRAME_PUSH: the frame joins the bottom of the target's deque
    (∀ cl seq n f x, (s.clu cl).cmds.find? (·.seq == seq) = some x → x.push = some (n, f) → s.copyFlying x = false → s.remapState n = 1 →
      s.portFrozen n x.asid = false → (s.core n).mode = .running → (s.core n).dqLen < 256 → s.inRange (s.dqSlot n (s.core n).dqbot.toNat) = false →
      ∃ t, exec (.cpytFramePush cl seq) s = .next t ∧ t.rd64 (s.dqSlot n (s.core n).dqbot.toNat) = f ∧
        (t.core n).dqbot = BitVec.ofNat 64 (((s.core n).dqbot.toNat + 1) % 2 ^ 32)) ∧
    -- RDCT_NODE_COMBINE: a leaf of the tree holds its own elements for its parent, and is complete
    (∀ cl seq x t, (s.clu cl).reds.find? (·.seq == seq) = some x → redT x.t = some t → x.rank ≠ 0 →
      Nat.max 1 (s.launch x.launch).cores.length ≤ 4 * x.rank + 1 → x.out = [] → x.result = none → s.engReach x.who x.asid x.src ≠ .held →
      s.badIn x.src (x.n * redBytes x.t) = none →
      ∃ u, exec (.rdctNodeCombine cl seq) s = .next u ∧ KeepsMemory s u ∧ ⟨4, seq, 0, x.sc⟩ ∈ (u.clu cl).done) ∧
    -- HEADRACE_TILE_FILL: the marker of a filled tile is written, and the next tile follows
    (∀ cl seq u, (s.clu cl).subs.find? (·.seq == seq) = some u → s.engReach u.who u.asid u.ring = .ok → 1 ≤ u.ns → u.work.step = 3 →
      2 ^ 52 ≤ u.ring → s.inRange (u.marker (u.tile % u.ns)) = false → u.tile < 2 ^ 64 →
      ∃ t, exec (.headraceTileFill cl seq) s = .next t ∧ t.rdN (u.marker (u.tile % u.ns)) 8 = u.tile ∧ t.isFull (u.marker (u.tile % u.ns)) = true ∧
        { u with tile := u.tile + 1, work := .none } ∈ (t.clu cl).subs) ∧
    -- TAILRACE_WRITEBACK: the slot's marker becomes empty, and the return ends
    (∀ cl seq x, (s.clu cl).rets.find? (·.seq == seq) = some x → s.engReach x.sub.who x.sub.asid x.sub.ring = .ok → x.slot < x.sub.ns → x.work.step = 3 → s.flying x.flits = false →
      ∃ t, exec (.tailraceWriteback cl seq) s = .next t ∧ t.isFull (x.sub.marker x.slot) = false ∧ ⟨6, seq, 0, x.sc⟩ ∈ (t.clu cl).done ∧
        ∀ a, t.byte a = s.byte a)

/-- PHLD, PHSW, PHWR, OMX, OMXA, OMXW, PRBE, PHCRC, OPTICAL_ACCEPTANCE, PASS_ROW_WRITE, PROBE_SYMBOL, PASS_COMPLETE,
PHASE_LOAD_END, PHASE_SWAP, DECOMPOSITION_COMPLETE, CALIBRATION_START, CALIBRATION_COMPLETE, GOVERNOR_LOCK,
GOVERNOR_ENTER_DRIFT, GOVERNOR_LEAVE_DRIFT, RECALIBRATION_START and TEMPERATURE_LOOP (R201 to R206, R217 to R231): each
completes, with a next state that holds its effect, in every state that meets the conditions on the left: the head has
reached its queue with no earlier one to wait for, the unit is ready, the command is the queue's oldest, its places are open,
the governor is in the state the event needs. -/
def Obligations.OpticsComplete : Prop :=
  ∀ (s : State), s.form → (∀ n, (s.core n).feq = []) →
    -- PHLD, PHSW, PHWR, OMX, OMXA, OMXW, PRBE, PHCRC: sent to their queue or their millwright
    (∀ (bf sh : Bool) (pol : Pol) (d : XR) (b c e : XS), s.flows → s.me.buf = [] → rmodeOf s.me.fctx < 6 →
      ∀ i r, (i, r) ∈ [((.phld d b : Instr), (⟨.phld, .mark, .ph16, d, s.me.getS b, 0, 0, s.me.fctx⟩ : OptReq)),
        (.phsw d, ⟨.phsw, .mark, .ph16, d, 0, 0, 0, s.me.fctx⟩), (.phwr bf d b c, ⟨.phwr bf, .mark, .ph16, d, s.me.getS b, s.me.getS c, 0, s.me.fctx⟩),
        (.omx pol .ph16 d b c e, ⟨.omx, pol, .ph16, d, s.me.getS b, s.me.getS c, s.me.getS e, s.me.fctx⟩),
        (.omxa pol .f32 d b c e, ⟨.omxa, pol, .f32, d, s.me.getS b, s.me.getS c, s.me.getS e, s.me.fctx⟩),
        (.omxw pol .ph16 d b c e, ⟨.omxw, pol, .ph16, d, s.me.getS b, s.me.getS c, s.me.getS e, s.me.fctx⟩),
        (.prbe d, ⟨.prbe, .mark, .ph16, d, 0, 0, 0, s.me.fctx⟩), (.phcrc sh d, ⟨.phcrc sh, .mark, .ph16, d, 0, 0, 0, s.me.fctx⟩)] →
      ∃ t, exec i s = .next t ∧ Instr.opticalAcceptance s.cur r ∈ t.agenda ∧ t.me = { s.me with why := some .accept, held := false, sent := true } ∧ KeepsMemory s t) ∧
    -- OPTICAL_ACCEPTANCE: PHCRC has its word; PHSW and PRBE join the queue and hold their context
    (∀ c r, (s.ctx c).why = some .accept → (s.omu (c / 1024)).reached c s.cycle = true → behind (s.omu (c / 1024)).waiting c r.form = false →
      (s.omu (c / 1024)).swapping = false → Config.omuPresent (c / 1024) = true → s.omuUp (c / 1024) = true → (s.omu (c / 1024)).gov ≠ 0 →
      (∀ sh, r.form = .phcrc sh → (s.omu (c / 1024)).queue = [] → ∃ t, exec (.opticalAcceptance c r) s = .next t ∧ (t.ctx c).why = none ∧
        (t.ctx c).getX r.d = (if r.d = 0 then 0 else (s.omu (c / 1024)).crcWord sh) ∧ (t.ctx c).pc = BitVec.ofNat 64 (s.ctx c).nextPc ∧ KeepsMemory s t) ∧
      (r.form = .phsw → ∃ t, exec (.opticalAcceptance c r) s = .next t ∧ (t.ctx c).why = some .await ∧
        OptCmd.swap c r.d ∈ (t.omu (c / 1024)).queue ∧ KeepsMemory s t)) ∧
    -- PASS_ROW_WRITE: a row of 64 codes
    (∀ cl p, s.streaming cl = some p → p.probe = false → p.row < p.rows → p.run = 0 → p.ofm = .ph16 → p.form = .omx →
      s.engReach p.who p.asid p.dst = .ok → s.blocked p.id (p.rowKey p.row) 128 = false → 2 ^ 52 ≤ p.rowKey p.row →
      ∃ t q, exec (.passRowWrite cl) s = .next t ∧ .pass q ∈ (t.omu cl).queue ∧ q.row = p.row + 1 ∧
        (∀ k, k < 16 → t.isFull (p.rowKey p.row + 8 * k) = true) ∧ ∀ b, b < p.rowKey p.row ∨ p.rowKey p.row + 128 ≤ b → t.byte b = s.byte b) ∧
    -- PROBE_SYMBOL: a PRBE gets its count, and ebcmax is lowered to it at most
    (∀ cl c d, (s.omu cl).queue = [.prbe c d] → (s.omu cl).live ≠ none → ∃ t p, exec (.probeSymbol cl) s = .next t ∧ p < 16 ∧
      (t.omu cl).ebcmax = Nat.min (s.omu cl).ebcmax p ∧ (t.ctx c).why = none ∧ (t.ctx c).pc = BitVec.ofNat 64 (s.ctx c).nextPc ∧ KeepsMemory s t) ∧
    -- PASS_COMPLETE: a pass without tags whose ebc is good enough ends with its status, its flags merged
    (∀ cl p n, s.streaming cl = some p → p.probe = false → p.row = p.rows → s.tagsWait p = false → s.parkedPasses cl = [] → p.late = [] → p.aborted = false → p.run = 0 →
      p.ebcmin ≤ p.ebc p.eNow → p.mark = false → p.toff = 0 → s.savedFor (p.who / 16) p.asid = false → p.exps = [] → 2 ^ 52 ≤ p.tag →
      s.engReach p.who p.asid p.tag = .ok → p.seq = some n →
      ∃ t, exec (.passComplete cl) s = .next t ∧ ⟨0, n, p.status, .cluster⟩ ∈ (t.clu cl).done ∧
        (t.ctx p.who).fstat = (s.ctx p.who).fstat ||| p.flags ∧ KeepsMemory s t) ∧
    -- PHASE_LOAD_END: the load's image is in the shadow bank, if it is valid
    (∀ cl n w a rs, (s.omu cl).queue = [.load n w a rs] → (∀ r, r ∈ rs → s.engReach w a r.1 ≠ .held) → (∀ r, r ∈ rs → s.badIn r.1 r.2 = none) →
      ∃ t, exec (.phaseLoadEnd cl) s = .next t ∧ (t.omu cl).live = (s.omu cl).live ∧ (t.omu cl).queue = [] ∧ (t.omu cl).loading = false ∧ KeepsMemory s t ∧
        (imageValid (s.readRuns rs) = true → (t.omu cl).shadow = some (s.readRuns rs) ∧ ⟨1, n, 0, .cluster⟩ ∈ (t.clu cl).done) ∧
        (imageValid (s.readRuns rs) = false → (t.omu cl).shadow = none ∧ ⟨1, n, 7, .cluster⟩ ∈ (t.clu cl).done)) ∧
    -- PHASE_SWAP: the banks change places
    (∀ cl c d img, (s.omu cl).queue = [.swap c d] → (s.omu cl).shadow = some img → ∃ t, exec (.phaseSwap cl) s = .next t ∧ (t.omu cl).live = some img ∧
      (t.omu cl).shadow = (s.omu cl).live ∧ (t.ctx c).why = none ∧ (t.ctx c).pc = BitVec.ofNat 64 (s.ctx c).nextPc ∧ KeepsMemory s t) ∧
    -- DECOMPOSITION_COMPLETE: the last word of an image is written, and the command ends
    (∀ cl x w v, (s.clu cl).mill = [x] → x.out = [(w, v)] → w < 2 ^ 52 → s.engReach x.who x.asid w = .ok →
      ∃ t, exec (.decompositionComplete cl) s = .next t ∧ t.rdN w 8 = v % 2 ^ 64 ∧ ⟨2, x.seq, 0, .cluster⟩ ∈ (t.clu cl).done ∧ (t.clu cl).mill = []) ∧
    -- CALIBRATION_START and CALIBRATION_COMPLETE: from UNLOCKED to TRACKING under comb light
    (∀ cl, (s.omu cl).gov = 0 → (s.omu cl).calibrating = false → s.fwRuns = true → s.light.getLsbD (lightSite (cl / 16)) = true →
      Config.omuPresent cl = true → s.hostMode 1 = false → ∃ t, exec (.calibrationStart cl) s = .next t ∧ (t.omu cl).calibrating = true ∧
        Instr.calibrationComplete cl ∈ t.agenda ∧ KeepsMemory s t) ∧
    (∀ cl, (s.omu cl).calibrating = true → s.light.getLsbD (lightSite (cl / 16)) = true → s.mgmt.assists = [] →
      ∃ t, exec (.calibrationComplete cl) s = .next t ∧ (t.omu cl).gov = 1 ∧ (t.omu cl).calibrating = false ∧ KeepsMemory s t) ∧
    -- GOVERNOR_LOCK, GOVERNOR_ENTER_DRIFT, GOVERNOR_LEAVE_DRIFT
    (∀ cl, (s.omu cl).gov = 1 → (s.omu cl).changed + 2 ^ 20 ≤ s.cycle → ∃ t, exec (.governorLock cl) s = .next t ∧ (t.omu cl).gov = 2 ∧
      (t.omu cl).ebcmax = (s.omu cl).ebcmax ∧ KeepsMemory s t) ∧
    (∀ cl, (s.omu cl).gov = 1 ∨ (s.omu cl).gov = 2 → ∃ t, exec (.governorEnterDrift cl) s = .next t ∧ (t.omu cl).gov = 3 ∧ (t.omu cl).trim = 0) ∧
    (∀ cl, (s.omu cl).gov = 3 → ∃ t, exec (.governorLeaveDrift cl) s = .next t ∧ (t.omu cl).gov = 1 ∧ 16 < (t.omu cl).trim ∧ KeepsMemory s t) ∧
    -- RECALIBRATION_START after 2^26 cycles of DRIFT; TEMPERATURE_LOOP after 2^16 cycles
    (∀ cl, (s.omu cl).gov = 3 → (s.omu cl).drifting + 2 ^ 26 ≤ s.cycle → (s.omu cl).queue = [] → cl < 512 →
      ∃ t, exec (.recalibrationStart cl) s = .next t ∧ (t.omu cl).gov = 0 ∧ (t.omu cl).live = none ∧ (t.omu cl).shadow = none ∧
        t.omuUp cl = false ∧ Instr.calibrationStart cl ∈ t.agenda ∧ KeepsMemory s t) ∧
    (∀ cl, (s.omu cl).gov ≠ 0 → (s.omu cl).loopAt + 2 ^ 16 ≤ s.cycle → ∃ t, exec (.temperatureLoop cl) s = .next t ∧ (t.omu cl).ebcmax ≤ (s.omu cl).pmin ∧
      (t.omu cl).pmin = 15 ∧ (t.omu cl).loopAt = s.cycle ∧ KeepsMemory s t)

/-- MILLER_TAKE_TRAP, ASYNC_TRAP_TAKE, IFETCH_LINE_ARRIVAL, CORE_PLACEMENT, LAUNCH_END, LAUNCH, START, REAP, MIGR, CTXSV, CTXLD,
PRMT, RSME, ERRINJ, TRANSLATION_REQUEST, WALK_COMPLETE, SLICE_ENTRY_PIN_EXPIRY, ATS_TRANSLATION_COMPLETION,
PAGE_REQUEST_SEND, PAGE_REQUEST_RESPONSE, PRI_ENABLE, PRI_STOP, ATS_INVALIDATION_REQUEST, INVAL and INVALIDATION_COMPLETE
(R84, R232, R368, R371, R373, R376, R412, R419, R423, R425, R430, R445): each completes, with a next state that holds its
effect, in every state that meets the conditions on the left. -/
def Obligations.SystemComplete : Prop :=
  ∀ (s : State), s.form →
    -- MILLER_TAKE_TRAP: a miller in RECV takes its oldest delegated trap
    (∀ n p ps, (s.core n).mode = .running → (s.core n).pending = p :: ps → (∀ q, q ∈ p :: ps → q.preempt = false) → (s.ctx (16 * n)).run = .running →
      (s.ctx (16 * n)).intv = false → (s.ctx (16 * n)).got = none → (s.ctx (16 * n)).held = false → (s.ctx (16 * n)).why = some .recv → goodPc (tvecAddr (s.ctx (16 * n)).tvec) = true →
      ∃ t, exec (.millerTakeTrap n) s = .next t ∧ (t.core n).pending = ps ∧ (t.ctx (16 * n)).pc = BitVec.ofNat 64 (tvecAddr (s.ctx (16 * n)).tvec) ∧
        (t.ctx (16 * n)).epc = (s.ctx (16 * n)).pc ∧ (t.ctx (16 * n)).eval = p.val ∧ (t.ctx (16 * n)).intv = true ∧ (t.ctx (16 * n)).sys = true) ∧
    -- ASYNC_TRAP_TAKE: the trap of a halted context is delegated to its miller
    (∀ c a l, (s.ctx c).run = .halted → (s.ctx c).asyncs = a :: l → c % 16 ≠ 0 → ∃ t, exec (.asyncTrapTake c) s = .next t ∧ (t.ctx c).asyncs = l ∧
      (t.ctx c).run = .held ∧ (t.ctx c).eval = a.val ∧ KeepsMemory s t) ∧
    -- IFETCH_LINE_ARRIVAL: the line joins the L1 instruction cache, and its context is back in the rotation
    (∀ c pa e, (s.ctx c).why = some .line → s.askSlice (s.asker c) none (lineAddr (s.ctx c).pc) .fetch = .ok pa →
      s.pageOf (s.asker c) (lineAddr (s.ctx c).pc) = some e → e.cell = false → s.badIn pa 64 = none →
      (∀ bank, s.bankFor (s.asker c) (lineAddr (s.ctx c).pc) pa = some bank → s.shutFor .fetch (fieldOf (coreOf c)) bank pa = false) → ∃ t, exec (.ifetchLineArrival c) s = .next t ∧
        (t.ctx c).why = none ∧ (t.ctx c).pc = (s.ctx c).pc ∧ KeepsMemory s t) ∧
    -- CORE_PLACEMENT: the core's first context stands at the record's entry; LAUNCH_END: the launch is over
    (∀ l n, (s.launch l).live = true → n ∉ (s.launch l).placed → s.remapState n = 1 → (s.launch l).waiter = none →
      ∃ t, exec (.corePlacement l n) s = .next t ∧ (t.launch l).placed = (s.launch l).placed ++ [n] ∧ (t.ctx (16 * n)).run = .running ∧
        (t.ctx (16 * n)).pc = BitVec.ofNat 64 (bits (s.launch l).record.toNat 119 65 * 2)) ∧
    (∀ l, (s.launch l).live = true → (s.launch l).acting = false → s.launchHalted l = true → s.launchQuiet l = true →
      bits (s.launch l).record.toNat 1345 1344 = 0 → ∃ t, exec (.launchEnd l) s = .next t ∧ (t.launch l).live = false ∧ KeepsMemory s t) ∧
    -- LAUNCH, accepted, without arguments to write
    (∀ (d : XR) (b : XS) (ps : List Piece) (r : BitVec 2048), s.flows → s.me.buf = [] → s.me.armed = none → s.me.recBad = false → (s.me.getS b).toNat % 64 = 0 →
      s.blockMe .load (s.me.getS b).toNat 256 = .ok ps → s.badPiece ps = none → s.quiet s.cur .device none = true →
      r = BitVec.ofNat 2048 (s.readKeys (pieceKeys ps)) → s.launchRefused r = none → bits r.toNat 447 384 = 0 →
      ∃ t, exec (.launch d b) s = .next t ∧ t.nLaunch = s.nLaunch + 1 ∧ (t.launch s.nLaunch).record = r ∧ (t.launch s.nLaunch).live = true ∧
        t.me.why = some .longOp ∧ t.me.pc = BitVec.ofNat 64 s.nextPc ∧ KeepsMemory s t) ∧
    -- START of a halted context, and REAP of a held one, by the miller
    (∀ (n : Fin 16) (d : XR) (b : XS) (p : Piece), s.flows → s.cur % 16 = 0 → n ≠ 0 →
      ((s.me.getS b).toNat % 16 = 0 → s.resolveMe .load (s.me.getS b).toNat 16 = .ok [p] → p.len = 16 → s.badPiece [p] = none → s.me.buf = [] →
        s.me.armed = none → s.me.recBad = false → s.quiet s.cur .core none = true → s.remapState (s.cur / 16) = 1 → (s.ctx (16 * (s.cur / 16) + n.val)).run = .halted →
        (s.ctx (16 * (s.cur / 16) + n.val)).asyncs = [] → goodPc (s.rdN p.key 16 % 2 ^ 64) = true → ∃ t, exec (.start n d b) s = .next t ∧ t.me.getX d = 0 ∧
          (t.ctx (16 * (s.cur / 16) + n.val)).run = .running ∧ (t.ctx (16 * (s.cur / 16) + n.val)).pc = BitVec.ofNat 64 (s.rdN p.key 16) ∧
          t.me.pc = BitVec.ofNat 64 s.nextPc ∧ KeepsMemory s t) ∧
      ((s.ctx (16 * (s.cur / 16) + n.val)).run = .held → (s.ctx (16 * (s.cur / 16) + n.val)).buf = [] → ∃ t, exec (.reap n d) s = .next t ∧
        t.me.getX d = (if d = 0 then 0 else (s.ctx (16 * (s.cur / 16) + n.val)).taskf) ∧ (t.ctx (16 * (s.cur / 16) + n.val)).run = .halted ∧
        t.me.pc = BitVec.ofNat 64 s.nextPc ∧ KeepsMemory s t)) ∧
    -- MIGR of a mapped core of the issuer's partition that has a spare
    (∀ (d : XR) (b : XS) (n pt : Nat), s.flows → s.me.sys = true → n < 2 ^ 15 → s.pkg < 64 → (s.me.getS b).toNat % 2 ^ 21 = s.pkg * 2 ^ 15 + n →
      s.partOf (s.cur / 16 / 1024) = some pt → s.partOf (n / 1024) = some pt → s.remapState n = 1 → (s.core n).mode ≠ .saved →
      s.pickSpare (n / 64) none ≠ none → (s.clu (n / 64)).migReqs = [] → ∃ t, exec (.migr d b) s = .next t ∧
        (t.clu (n / 64)).migReqs = [⟨n, s.cycle, false, true, none, none⟩] ∧ t.me.getX d = 0 ∧ t.me.pc = BitVec.ofNat 64 s.nextPc ∧
        KeepsMemory s t) ∧
    -- CTXSV and CTXLD of a halted context
    (∀ (n : Fin 16) (d : XR) (b : XS) (ps : List Piece) (key : Nat), s.flows → s.me.sys = true → (s.me.getS b).toNat % 64 = 0 → s.me.buf = [] →
      s.me.armed = none → s.me.recBad = false → pieceKeys ps = (List.range 1024).map (key + ·) → key % 8 = 0 → 16 * (s.cur / 16) + n.val ≠ s.cur →
      (s.ctx (16 * (s.cur / 16) + n.val)).run = .halted →
      (s.blockMe .store (s.me.getS b).toNat 1024 = .ok ps → (s.ctx (16 * (s.cur / 16) + n.val)).buf = [] →
        (∀ i, i < 128 → s.canPerform s.cur s.me.asid.toNat (key + 8 * i) = true) → ∃ t, exec (.ctxsv n d b) s = .next t ∧ t.me.getX d = 0 ∧
          (∀ a, a < key ∨ key + 1024 ≤ a → t.byte a = s.byte a) ∧ t.me.pc = BitVec.ofNat 64 s.nextPc) ∧
      (s.blockMe .load (s.me.getS b).toNat 1024 = .ok ps → s.badPiece ps = none → imageOk (s.rdN key 1024) = true →
        bits (s.rdN key 1024) 6722 6720 = 0 → (s.core (s.cur / 16)).saved = none → ∃ t, exec (.ctxld n d b) s = .next t ∧ t.me.getX d = 0 ∧
          (t.ctx (16 * (s.cur / 16) + n.val)).x = ((s.ctx (16 * (s.cur / 16) + n.val)).load (16 * (s.cur / 16) + n.val) (s.rdN key 1024)).x ∧
          KeepsMemory s t)) ∧
    -- PRMT of a core of a live launch; RSME of a saved core
    (∀ (d : XR) (b : XS) (p : Piece) (qs : List Piece) (n pt : Nat), s.flows → s.me.sys = true → (s.me.getS b).toNat % 16 = 0 →
      s.resolveMe .load (s.me.getS b).toNat 16 = .ok [p] → p.len = 16 → s.badPiece [p] = none → s.me.buf = [] → s.me.armed = none → s.me.recBad = false → s.migrStarts n = false →
      s.rdN p.key 16 / 2 ^ 64 % 65536 = 0 → n < 2 ^ 15 → s.rdN p.key 16 % 2 ^ 21 = s.pkg * 2 ^ 15 + n → s.remapState n = 1 →
      s.partOf (s.cur / 16 / 1024) = some pt → s.partOf (n / 1024) = some pt → s.cur / 16 ≠ n →
      ((s.core n).mode = .running → s.inLaunch n = true → (s.ctx (16 * n)).run = .running → s.saveBlockMe .store (s.rdN p.key 16 / 2 ^ 64) = .ok qs →
        ∃ t, exec (.prmt d b) s = .next t ∧ (t.core n).mode = .freezing ∧ t.me.why = some .longOp ∧ t.me.pc = BitVec.ofNat 64 s.nextPc ∧ KeepsMemory s t) ∧
      (∀ k is, (s.core n).saved = some k → k.block = s.rdN p.key 16 / 2 ^ 64 → (s.core n).mode = .saved → s.inLaunch n = false →
        (blockReads k.msgs.length).foldl (fun r p => joinRes r (s.blockMe .load (k.block + p.1) p.2)) (s.saveBlockMe .load k.block) = .ok qs →
        s.badPiece qs = none → s.blockMe .load k.block 1024 = .ok is → imageOk (s.readKeys (pieceKeys is)) = true →
        ∃ t, exec (.rsme d b) s = .next t ∧ (t.core n).mode = .restoring ∧ t.me.why = some .longOp ∧ t.me.pc = BitVec.ofNat 64 s.nextPc)) ∧
    -- ERRINJ where injection is on
    (∀ (d : XR) (b : XS) (w : Nat), s.flows → s.me.sys = true → s.mgmt.injection = true → (s.me.getS b).toNat = w → 3 ≤ w % 16 → w % 16 < 8 →
      ∃ t, exec (.errinj d b) s = .next t ∧ t.me.getX d = (if d = 0 then 0 else 1) ∧
        t.me.armed = some ⟨w % 16, w / 2 ^ 15 % 64, w / 2 ^ 5 % 1024, w.testBit 4⟩ ∧ t.me.pc = BitVec.ofNat 64 s.nextPc ∧ KeepsMemory s t) ∧
    -- TRANSLATION_REQUEST: a miss opens a walk
    (∀ c va acc, (s.ctx c).walkFail = none → s.askSlice (s.asker c) none va acc = .miss →
      walkFind (s.clu (sliceOf ((s.asker c).core / 1024) va)).walks (s.asker c).asid (va / 2 ^ 16) = none →
      (s.clu (sliceOf ((s.asker c).core / 1024) va)).walks.length < 256 →
      ∃ t w, exec (.translationRequest c va acc) s = .next t ∧ w.granule = va / 2 ^ 16 ∧
        (t.clu (sliceOf ((s.asker c).core / 1024) va)).walks = (s.clu (sliceOf ((s.asker c).core / 1024) va)).walks ++ [w] ∧ KeepsMemory s t) ∧
    -- WALK_COMPLETE: a walk that finds no valid entry is over, and its waiter will meet PAGE_FAULT
    (∀ f asid g c w, s.walkOf f asid g = some w → w.phase = .device → w.asid = asid → w.granule = g → w.field = f → s.asidOk asid f = true →
      s.walkShut asid (g * 2 ^ 16) = false → c < 2 ^ 19 → (s.ctx c).why = some .parked → w.waiters = [c] → s.walk asid (g * 2 ^ 16) = .fault none → ∃ t, exec (.walkComplete f asid g) s = .next t ∧
        (t.ctx c).walkFail = some ⟨g, 0x15, false⟩ ∧ (t.ctx c).why = none ∧ t.walkOf f asid g = none ∧ KeepsMemory s t) ∧
    -- SLICE_ENTRY_PIN_EXPIRY: after 4,096 cycles the pins end
    (∀ cl e, (s.clu cl).tlb = [e] → e.pin ≠ [] → e.pinnedAt + 4096 ≤ s.cycle → ∃ t, exec (.sliceEntryPinExpiry cl e.asid e.va) s = .next t ∧
      (t.clu cl).tlb = [{ e with pin := [] }] ∧ KeepsMemory s t) ∧
    -- ATS_TRANSLATION_COMPLETION, PAGE_REQUEST_SEND and PAGE_REQUEST_RESPONSE of a walk of a page that the host manages
    (∀ f asid g c size l (k : Walk), s.walkOf f asid g = some k → k.asid = asid → k.granule = g → k.field = f → k.r = true → k.w = false → k.x = false → k.rw = false → c < 2 ^ 19 →
      k.asked = 0 → k.stale = false → k.waiters = [c] → (s.ctx c).why = some .parked →
      (k.phase = .ats → s.walk asid (g * 2 ^ 16) = .leaf size l → l.testBit 6 = true → s.hostMode 2 = false → (s.link k.link).stopped = false → ∃ t v, exec (.atsTranslationCompletion f asid g 0 true false false false) s = .next t ∧
        t.walkOf f asid g = some v ∧ v.phase = .pageWait ∧ Instr.pageRequestSend k.link ∈ t.agenda ∧ KeepsMemory s t) ∧
      (∀ rest, (s.link k.link).groups = (f, asid, g) :: rest → (s.link k.link).priOn = true → (s.pagesOut k.link).length < (s.link k.link).alloc →
        (s.pagesOut k.link).length < 512 → (s.pagesOut k.link).length < s.mgmt.priCap → ∃ t v, exec (.pageRequestSend k.link) s = .next t ∧
          t.walkOf f asid g = some v ∧ v.phase = .pageSent ∧ KeepsMemory s t) ∧
      (k.phase = .pageSent → ∃ t v, exec (.pageRequestResponse k.link f asid g 0) s = .next t ∧ t.walkOf f asid g = some v ∧ v.phase = .ats ∧
        KeepsMemory s t)) ∧
    -- PRI_ENABLE and PRI_STOP
    (∀ l alloc, ∃ t, exec (.priEnable l alloc) s = .next t ∧ (t.link l).priOn = true ∧ (t.link l).alloc = alloc ∧ KeepsMemory s t) ∧
    (∀ l, ∃ t, exec (.priStop l) s = .next t ∧ (t.link l).priOn = false ∧ (t.link l).groups = [] ∧ KeepsMemory s t) ∧
    -- ATS_INVALIDATION_REQUEST, INVAL and INVALIDATION_COMPLETE, with no dirty line in an L1 cache
    ((∀ p, p ∈ s.cores → ∀ d, d ∈ p.2.l1d → d.dirty = false) →
      (∀ l pasid va len, ∃ t, exec (.atsInvalidationRequest l pasid va len) s = .next t ∧ Instr.invalidationComplete none va len ∈ t.agenda ∧
        KeepsMemory s t) ∧
      (∀ tag asid va len, s.fwRuns = true → ∃ t, exec (.inval tag (some asid) va len) s = .next t ∧
        Instr.invalidationComplete (some asid) va len ∈ t.agenda ∧ KeepsMemory s t ∧
        ∀ p, p ∈ t.clus → ∀ e, e ∈ p.2.tlb → ¬ (e.asid = asid ∧ e.va < va + len ∧ va < e.va + 2 ^ e.size)) ∧
      (∀ asid va len, s.mgmt.invals = [(none, some asid, va, len)] → s.oldAccess (some asid) va len = false →
        ∃ t, exec (.invalidationComplete (some asid) va len) s = .next t ∧ t.mgmt.invals = [] ∧ KeepsMemory s t))

/-- BAR2_ACCESS, BAR2_ATOMIC_OP, BAR0_REGISTER_WRITE, ROTOR_SLOT_START, CIRCUIT_BRING_UP_COMPLETE, PORT_RESYNC_COMPLETE,
FLIT_RECEIVE, FLIT_ACK and COMPLETION_MARKER_RECEIVE (R292, R448 to R451, R456 to R465): each completes, with a next state
that holds its effect, in every state that meets the conditions on the left. -/
def Obligations.OutsideComplete : Prop :=
  ∀ (s : State), s.form →
    -- BAR2_ACCESS and BAR2_ATOMIC_OP, with the rights of their function, at a home that is open, off CELL pages
    (∀ l f a (bs : List Byte) ro, s.homeShut a = false → s.bar2Ok f a bs.length = true → a + bs.length ≤ 2 ^ 52 →
      (∀ v, v ∈ wordsOf a bs.length → s.onCellPage v = false) → ∃ t, exec (.bar2Access l f a (some (bs, ro)) bs.length) s = .next t ∧
        (∀ i, i < bs.length → t.byte (a + i) = bs.getD i 0) ∧ ∀ b, b < a ∨ a + bs.length ≤ b → t.byte b = s.byte b) ∧
    (∀ l f a c e, s.homeShut a = false → s.bar2Ok f a 8 = true → a % 8 = 0 → s.isBad a = false → a + 8 ≤ 2 ^ 52 →
      (∀ v, v ∈ wordsOf a 8 → s.onCellPage v = false) → ∃ t, exec (.bar2AtomicOp l f .add (some true) a c e) s = .next t ∧ t.rdN a 8 = (s.rdN a 8 + c.toNat) % 256 ^ 8 ∧
        KeepsMemoryBut s t a 8) ∧
    -- BAR0_REGISTER_WRITE to the doorbell that is no whole message: dropped with code 1
    (∀ l f off data, s.fnServes f = true → 0x1000 ≤ off → off < 0x1040 → ∃ t, exec (.bar0RegisterWrite (l, f) off data) s = .next t ∧
      (t.func f).lastdrop = 1 ∧ (t.func f).dropped = Nat.min ((s.func f).dropped + 1) 0xFFFF ∧ KeepsMemory s t) ∧
    -- ROTOR_SLOT_START of a port in the rotor, in time and with its circuit: the flits for the peer are sent
    (∀ k (o : BitVec 16), 2 ≤ s.groupN → k < 4 → s.light.getLsbD k = true → (s.port k).state = 2 → -40 ≤ o.toInt → o.toInt ≤ 40 →
      (s.port k).valid.contains (rotorPeer s.groupN s.pkg (s.slotAt k) k) = true → ∃ t, exec (.rotorSlotStart k o true) s = .next t ∧
        (∀ f, f ∈ s.outFlits → f.pkg = rotorPeer s.groupN s.pkg (s.slotAt k) k → f.sent = none → { f with sent := some k, blocked := false } ∈ t.outFlits) ∧
        (t.port k).slot = s.slotAt k + 1 ∧ KeepsMemory s t) ∧
    -- CIRCUIT_BRING_UP_COMPLETE and PORT_RESYNC_COMPLETE
    (∀ k, 2 ≤ s.groupN → k < 4 → s.light.getLsbD k = true →
      (∃ t, exec (.circuitBringUpComplete k (rotorPeer s.groupN s.pkg (s.slotAt k) k)) s = .next t ∧
        (t.port k).valid.contains (rotorPeer s.groupN s.pkg (s.slotAt k) k) = true ∧ KeepsMemory s t) ∧
      ((s.port k).state = 3 → -10 ≤ (s.port k).offset.toInt → (s.port k).offset.toInt ≤ 10 → ∃ t, exec (.portResyncComplete k) s = .next t ∧ (t.port k).state = 2 ∧ t.ready 1 (48 + k) = true ∧ KeepsMemory s t)) ∧
    -- FLIT_RECEIVE of a whole flit that the port lets through; COMPLETION_MARKER_RECEIVE once its flits are in; FLIT_ACK
    (∀ k src sp tp seq a (c : Nat × Nat) (bs : List Byte) (data : Word), a < 2 ^ 49 → s.normPa a = a → a + bs.length ≤ 2 ^ 52 → k < 4 → isRemote a = false →
      s.hears k src = true → 0 < bs.length → bs.length ≤ 240 → s.placeHeld tp a bs.length true = false → s.placeHeld tp a 8 true = false →
      (∀ v, v ∈ wordsOf a bs.length → s.onCellPage v = false) → (∀ v, v ∈ wordsOf a 8 → s.onCellPage v = false) → s.flitOk src sp tp a 1 = true →
      ((src, seq) ∉ s.enlSeen → ∃ t, exec (.flitReceive k src sp tp seq c true a (.store bs)) s = .next t ∧ (src, seq) ∈ t.enlSeen ∧
        (∀ i, i < bs.length → t.byte (a + i) = bs.getD i 0) ∧ ∀ b, b < a ∨ a + bs.length ≤ b → t.byte b = s.byte b) ∧
      ((src, seq) ∈ s.enlSeen → (src, c.1, c.2) ∉ s.enlRefused → ∃ t, exec (.completionMarkerReceive k src sp tp c [seq] a data) s = .next t ∧
        t.rdN a 8 = data.toNat ∧ KeepsMemoryBut s t a 8)) ∧
    (∀ k seq, ∃ t, exec (.flitAck k (s.pkg, seq) true) s = .next t ∧ t.outFlits = s.outFlits.filter (·.seq != seq))

/-- SOFT_ERROR, SCRUB_VISIT, VERTICAL_BUS_TEST, HEARTBEAT_SEND, HEARTBEAT_RECEIVE, HEARTBEAT_DEADLINE, SUSPECT_NOTICE,
FENCE_NOTICE, QUARANTINE_END, APPEAL, TEMPERATURE_SAMPLE, MIGRATION_START, MIGRATION_RETRY, MIGRATION_STATE_COPY,
MIGRATION_COMMIT, SLICE_FRAME_WRITEBACK, SLICE_POWER_OFF, SLICE_RECOVERY, POWER_SAMPLE, COMB_LIGHT_LOSS and COMB_LIGHT_RETURN
(R467, R470, R474, R476, R478, R479, R485, R488, R490, R491, R538, R541): each completes, with a next state that holds its
effect, in every state that meets the conditions on the left. -/
def Obligations.VoteAndHeatComplete : Prop :=
  ∀ (s : State),
    -- SOFT_ERROR in a scratchpad word, uncorrectable: the word is poisoned; corrected: recorded only
    (∀ n a bit, ∃ t, exec (.softError 3 n a bit true) s = .next t ∧ t.isBad (spadKey n (a % 2 ^ 19)) = true ∧ ∀ b, t.byte b = s.byte b) ∧
    (∀ n a bit, ∃ t, exec (.softError 3 n a bit false) s = .next t ∧ KeepsMemory s t ∧ (t.clu (n / 64)).spadRing =
      (s.clu (n / 64)).spadRing.push (errRec 0 3 (s.colUnit n) 0 (a % 2 ^ 19 / 8 * 8) (bit % 256) s.cycle)) ∧
    -- SCRUB_VISIT and VERTICAL_BUS_TEST
    (∀ st u k m, scrubber st u = some (k, m) → tget s.mgmt.scrub k 8 ≠ 0 → (tget s.scrubAt k (0, 0)).2 ≤ s.cycle →
      ∃ t, exec (.scrubVisit st u (64 * (tget s.scrubAt k (0, 0)).1)) s = .next t ∧ (∀ b, t.byte b = s.byte b) ∧
        (tget t.scrubAt k (0, 0)).1 = ((tget s.scrubAt k (0, 0)).1 + 1) % m) ∧
    (∀ col, ∃ t, exec (.verticalBusTest col true) s = .next t ∧ KeepsMemory s t ∧ (t.clu (col / 64)).faultRing =
      (s.clu (col / 64)).faultRing.push (errRec 8 10 (s.unitCode (col / 64) (col % 64)) 0 0 0 s.cycle)) ∧
    -- HEARTBEAT_SEND in the column's cycle of a window: a heartbeat to each neighbour
    (∀ y z (d : Fin 4), (s.col y).state ≠ 2 → s.cycle % 2000 = beatCycle y → (s.col y).beatFrom ≤ s.cycle / 2000 → (s.col y).nbr.getLsbD d = true → nbrOf y d = some z →
      ∃ t, exec (.heartbeatSend y) s = .next t ∧ KeepsMemory s t ∧
        Instr.heartbeatReceive z ((d.val + 2) % 4) (s.cycle / 2000 % 256) true ⟨true, s.isMoving y, false⟩ true ∈ t.agenda) ∧
    -- HEARTBEAT_RECEIVE of a whole heartbeat in its window: the misses are cleared; HEARTBEAT_DEADLINE without one: one more miss
    (∀ y z w (d : Fin 4), nbrOf y d = some z → nbrOf z ((d.val + 2) % 4) = some y → z ≠ y → s.isMoving z = false → (s.col y).nbr.getLsbD d = true →
      (s.seenBy y d).appeal = none → (s.col y).susp.getLsbD d = false →
      ((s.seenBy y d).beats = 0 → (s.seenBy y d).crcs = 0 → (s.seenBy y d).rsv = 0 → (s.seenBy y d).flits ≤ 3 → w % 256 = s.cycle / 2000 % 256 → s.cycle % 2000 ≤ 1000 →
        ∃ t, exec (.heartbeatReceive y d w true ⟨true, false, false⟩ true) s = .next t ∧ (t.col y).miss[d] = 0 ∧ (t.seenBy y d).ok = true ∧ KeepsMemory s t) ∧
      (1000 < s.cycle % 2000 → (s.seenBy y d).judged = false → (s.seenBy y d).ok = false → (∀ e, e < 4 → e ≠ d.val → nbrOf y e = none) →
        (s.col y).miss[d] < 2 → ∃ t, exec (.heartbeatDeadline y) s = .next t ∧ (t.col y).miss[d] = (s.col y).miss[d] + 1 ∧ KeepsMemory s t)) ∧
    -- SUSPECT_NOTICE, FENCE_NOTICE, QUARANTINE_END and APPEAL
    (∀ col (d : Fin 4), s.isMoving col = false → (s.suspects col).contains d.val = true → ∃ t, exec (.suspectNotice col d) s = .next t ∧
      (t.col col).told.getLsbD d = true ∧ KeepsMemory s t) ∧
    (∀ col n, (s.col col).state = 2 → s.isMoving col = false → s.coreAt col = some n → ∃ t, exec (.fenceNotice col) s = .next t ∧ t.remapState n = 3 ∧
      ∀ j, j < 16 → (t.ctx (16 * n + j)).run = .halted) ∧
    (∀ col, (s.col col).state = 2 → (s.col col).fails + (s.col col).tests < 3 → (s.col col).fencedAt + 1000000 ≤ s.cycle → ∃ t, exec (.quarantineEnd col true) s = .next t ∧
      (t.col col).state = 3 ∧ KeepsMemory s t) ∧
    (∀ col y (d : Fin 4), nbrOf col d = some y → (s.col col).state = 3 → ∃ t, exec (.appeal col d) s = .next t ∧
      (t.seenBy y ((d.val + 2) % 4)).appeal = some 3 ∧ KeepsMemory s t) ∧
    -- TEMPERATURE_SAMPLE of a column that serves no core, and of an OMU
    (∀ col (x : BitVec 12), s.hostMode 5 = false → s.coreAt col = none → (s.col col).sampleAt ≤ s.cycle → ∃ t, exec (.temperatureSample 0 col x) s = .next t ∧ (t.col col).temp = x ∧
      KeepsMemory s t) ∧
    (∀ cl (x : BitVec 12), s.hostMode 5 = false → ∃ t, exec (.temperatureSample 2 cl x) s = .next t ∧ (t.omu cl).temp = x ∧ KeepsMemory s t) ∧
    -- MIGRATION_START of a request of a running core that has a spare
    (∀ cl n b (r : MigReq), n / 64 = cl → (s.clu cl).mig = none → (s.clu cl).migReqs = [r] → r.core = n → r.arrived < s.cycle →
      r.nospare = none → s.remapState n = 1 → (s.core n).mode = .running → s.pickSpare cl r.named = some b →
      ∃ t, exec (.migrationStart cl) s = .next t ∧ t.remapState n = 2 ∧ (t.clu cl).mig = some ⟨n, s.colOf n % 64, b, s.cycle, false, [], []⟩ ∧
        KeepsMemory s t) ∧
    -- MIGRATION_RETRY after 2^20 cycles
    (∀ cl k (r : MigReq), (s.clu cl).migReqs = [r] → r.nospare = some k → k + 2 ^ 20 ≤ s.cycle →
      ∃ t, exec (.migrationRetry cl) s = .next t ∧ Instr.migrationStart cl ∈ t.agenda ∧ KeepsMemory s t) ∧
    -- MIGRATION_STATE_COPY of a stopped core, MIGRATION_COMMIT of a copied one
    (∀ cl n (g : Mig), n / 64 = cl → (s.clu cl).mig = some g → g.core = n →
      (g.copied = false → s.spadRanged n = false → (∀ j, j < 16 → s.isStopped (16 * n + j) = true ∧ (s.ctx (16 * n + j)).buf = []) → s.optBusy n = false →
        ∃ t, exec (.migrationStateCopy cl) s = .next t ∧ (t.clu cl).mig = some { g with copied := true } ∧ KeepsMemory s t) ∧
      (g.copied = true → g.dst < 64 → g.src ≠ g.dst → ∃ t, exec (.migrationCommit cl) s = .next t ∧ t.remapState n = 1 ∧ t.colOf n = 64 * cl + g.dst ∧
        (t.clu cl).mig = none ∧ KeepsMemory s t)) ∧
    -- SLICE_FRAME_WRITEBACK, SLICE_POWER_OFF and SLICE_RECOVERY of a slice that is shut down
    (∀ cl (h : Shut), (s.clu cl).shut = some h →
      (∀ f fs, h.off = false → h.frames = f :: fs → h.sent < Nat.min (s.cycle - (h.since + 768)) 7423 →
        (∀ x, x ∈ (s.clu cl).lines → x.dirty = true → x.frame = f → x.home = true ∨ s.homeShut x.pa = false) → ∃ t, exec (.sliceFrameWriteback cl) s = .next t ∧
        (t.clu cl).shut = some { h with frames := fs, sent := h.sent + 1 } ∧ KeepsMemory s t) ∧
      (h.off = false → h.frames = [] → h.since + 8192 ≤ s.cycle → ∃ t, exec (.slicePowerOff cl) s = .next t ∧
        (t.clu cl).shut = some { h with off := true } ∧ KeepsMemory s t) ∧
      (∀ k, (s.clu cl).coolFrom = some k → k + 2 ^ 20 ≤ s.cycle → h.off = true → ∃ t, exec (.sliceRecovery cl) s = .next t ∧ (t.clu cl).shut = none ∧
        (t.clu cl).lines = [])) ∧
    -- POWER_SAMPLE, COMB_LIGHT_LOSS and COMB_LIGHT_RETURN
    (∀ w, s.power = List.replicate 10 w → 22500 ≤ w → w ≤ 23500 → exec (.powerSample w) s = .next { s with power := List.replicate 10 w }) ∧
    (∀ w, s.power = List.replicate 10 w → 23500 < w → s.powerCap < 512 → ∃ t, exec (.powerSample w) s = .next t ∧ t.powerCap = s.powerCap + 1) ∧
    (∀ k, k < 4 → ∃ t, exec (.combLightLoss k) s = .next t ∧ t.light.getLsbD k = false ∧ (t.port k).state = 0 ∧ t.ready 1 (48 + k) = false) ∧
    (∀ k, k < 4 → ∃ t, exec (.combLightReturn k) s = .next t ∧ t.light.getLsbD k = true ∧ KeepsMemory s t)

/-- MODULE_RESET, VMAIN_LOSS, VMAIN_POWER_ON, HOST_LINK_TRAINED, HBM_STACK_READY, FIELD_READY, CLUSTER_READY,
COMMAND_RING_TAIL_WRITE, RESPONSE_RING_HEAD_WRITE, SPDM, SET_CTRL, SET_CTRL of the minimum security version, SET_TABLE,
HOST_ASSIST, FW_STAGE, READ_DEBUG, INVENTORY_UPDATE and an illegal head (R9, R66, R407, R408, R429, R525, R528 to R531,
R533): each completes, with a next state that holds its effect, in every state that meets the conditions on the left: for a
command, the firmware runs and the response ring has room. Whether an image that FW_STAGE gets verifies is a free value. -/
def Obligations.ManagementComplete : Prop :=
  ∀ (s : State), s.form →
    -- MODULE_RESET, VMAIN_LOSS and VMAIN_POWER_ON
    (∀ c n, ∃ t, exec .moduleReset s = .next t ∧ t.ctx c = Ctx.reset ∧ t.core n = Core.reset ∧ t.rdy = Vector.replicate 32 0 ∧ t.launches = [] ∧ t.cycle = 0) ∧
    (∀ c n, ∃ t, exec .vmainLoss s = .next t ∧ t.ctx c = Ctx.reset ∧ t.core n = Core.reset ∧ t.rdy = Vector.replicate 32 0 ∧ t.mgmt.vmain = false) ∧
    (∃ t, exec .vmainPowerOn s = .next t ∧ t.mgmt.vmain = true ∧ KeepsMemory s t) ∧
    -- HOST_LINK_TRAINED, HBM_STACK_READY, FIELD_READY and CLUSTER_READY, with firmware that runs
    (s.mgmt.running.isSome = true →
      (∀ l, l < 2 → ∃ t, exec (.hostLinkTrained l true) s = .next t ∧ (t.link l).up = true ∧ (t.link l).atomics = true ∧ KeepsMemory s t) ∧
      (s.mgmt.vmain = true →
        (∀ h, h < 48 → s.ready 1 h = false → ∃ t, exec (.hbmStackReady h true) s = .next t ∧ t.ready 1 h = true ∧ KeepsMemory s t) ∧
        (∀ f, (∀ i, i < 48 → s.ready 1 i = true) → f < 32 → ∃ t, exec (.fieldReady f) s = .next t ∧ t.ready 0 f = true ∧ KeepsMemory s t) ∧
        (∀ cl, cl < 512 → s.ready 0 (cl / 16) = true → s.clusterUp cl = false → ∃ t, exec (.clusterReady cl) s = .next t ∧ t.clusterUp cl = true ∧
          KeepsMemory s t))) ∧
    -- COMMAND_RING_TAIL_WRITE takes up the next command; RESPONSE_RING_HEAD_WRITE lets a response that waited be written
    (∀ tail i, s.mgmt.busy = false → s.mgmt.waiting = none → tail < 16383 → tail ≠ s.rdN 8 8 % 16383 →
      commandOf (BitVec.ofNat 512 (s.rdN (64 + 64 * (s.rdN 8 8 % 16383)) 64)) = some i → ∃ t, exec (.commandRingTailWrite tail) s = .next t ∧
        t.rdN 0 8 = tail ∧ t.rdN 8 8 = (s.rdN 8 8 % 16383 + 1) % 16383 ∧ t.mgmt.busy = true ∧ i ∈ t.agenda) ∧
    (∀ tail r, s.mgmt.waiting = some r → s.mgmt.held = [] → s.mgmt.busy = false → s.rdN 0 8 % 16383 = s.rdN 8 8 % 16383 → tail < 16383 →
      tail ≠ (s.rdN 0x100000 8 % 16383 + 1) % 16383 → ∃ t, exec (.responseRingHeadWrite tail) s = .next t ∧ t.rdN 0x100008 8 = tail ∧
        t.rdN (0x100040 + 64 * (s.rdN 0x100000 8 % 16383)) 64 = r.toNat ∧ t.mgmt.waiting = none) ∧
    -- SPDM, SET_CTRL, SET_TABLE, HOST_ASSIST, FW_STAGE and READ_DEBUG, with firmware that runs and room for the response
    (∀ tag, tag < 2 ^ 16 → s.hasRoom → s.mgmt.running = some true →
      (∀ m, ∃ t, exec (.spdm tag 48 m) s = .next t ∧ Responded s t 1 tag 0) ∧
      (∀ unit, ∃ t, exec (.setCtrl tag 0 0 unit 1) s = .next t ∧ t.mgmt.modes.getLsbD 0 = true ∧ Responded s t 2 tag 0) ∧
      (∀ v, s.mgmt.unlocked = true → v ≤ s.mgmt.runVersion → ∃ t, exec (.setCtrlMinSecurityVersion tag v) s = .next t ∧
        t.mgmt.fuseMin = Nat.max s.mgmt.fuseMin v ∧ Responded s t 2 tag 0) ∧
      (∀ i (val : BitVec 128), i < 2 ^ 16 → ∃ t, exec (.setTable tag 4 i val) s = .next t ∧ Responded s t 3 tag 0 ∧
        t.asidEntry i = bits val.toNat 115 80 * 2 ^ 80 + bits val.toNat 27 0) ∧
      (∀ q cl, s.mgmt.assists = [(q, .calibrate cl)] → ∃ t, exec (.hostAssist tag q 0 0) s = .next t ∧ t.mgmt.assists = [] ∧
        Instr.calibrationComplete cl ∈ t.agenda ∧ Responded s t 5 tag 0) ∧
      (∀ pa len, (Config.freeWord s.free).getLsbD 0 = true → s.mgmt.fuseMin ≤ (Config.freeWord s.free).toNat / 2 →
        ∃ t, exec (.fwStage tag pa len) s = .next t ∧ t.mgmt.slotB = some ((Config.freeWord s.free).toNat / 2) ∧ t.mgmt.slotA = s.mgmt.slotA ∧
          Responded s t 6 tag 0) ∧
      (∀ n, s.mgmt.unlocked = true → n < 32768 → ∃ t, exec (.readDebug tag 0 n true) s = .next t ∧ (t.core n).sadv = 0 ∧ Responded s t 7 tag 0)) ∧
    -- INVENTORY_UPDATE: it begins by making the generation number odd
    (s.mgmt.running.isSome = true → s.mgmt.alarms = 0 → s.mgmt.stale = true → s.rdN 0x400000 8 % 2 = 0 → ∃ t, exec .inventoryUpdate s = .next t ∧
      t.rdN 0x400000 8 = s.rdN 0x400000 8 + 1 ∧ KeepsMemoryBut s t 0x400000 8) ∧
    -- an illegal head takes its trap
    (∀ r, exec (.illegalInstruction r) s = .next (s.trapHead (if r then 0x03 else 0x01)))

end
end

