-- ==== Sys2Proof/Laws/Decode.lean ====
section
/-! SUPPORT. Laws of the encoding: each operand code is read back, each packed parcel gives its parts, and the one
lemma that turns a form's reading into a decoding. -/
namespace Sys2Proof

/-- What decodes: a form of the map that gives the instruction, with its codes accepted and its encoding unchanged. -/
theorem decodeFields_ok {f : Fields} {t : Nat} {l : List (Fields → Option Instr)} {form : Fields → Option Instr} {i : Instr}
    (h1 : forms f.major.toNat = some (t, l)) (h2 : f.t.toNat = t) (h3 : l[f.minor.toNat]? = some form)
    (h4 : form f = some i) (h5 : i.legal = true) (h6 : encodeFields i = some f) (h7 : i.partOk = true) :
    decodeFields f = .ok i := by
  simp [decodeFields, h1, h2, h3, h4, h5, h6, h7]

@[simp] theorem xr?_code (d : XR) : xr? d.code = some d := by revert d; decide
@[simp] theorem xs?_code (d : XS) : xs? d.code = some d := by cases d with
  | x d => revert d; decide
  | pc => rfl
@[simp] theorem vr?_code (d : VR) : vr? d.code = some d := by cases d with
  | v d => revert d; decide
  | vz => rfl
@[simp] theorem kr?_kcode (d : KR) : kr? d.kcode = some d := by revert d; decide
@[simp] theorem xs?_xr_code (d : XR) : xs? d.code = some (.x d) := by revert d; decide
@[simp] theorem kr_m_toFin (m : KR) : (KR.m m).toFin = m := by revert m; decide
@[simp] theorem elemT_ofCode (t : ElemT) : ElemT.ofCode (t.mod.extractLsb' 0 4) = t := by cases t <;> rfl
@[simp] theorem elemT_ofImm (t : ElemT) : ElemT.ofCode (t.imm.extractLsb' 0 4) = t := by cases t <;> rfl
@[simp] theorem blkOf_imm (t : BlkF) : blkOf (t.imm.extractLsb' 0 2) = t := by cases t <;> rfl
@[simp] theorem scope?_code (t : Scope) : scope? t.code = some t := by cases t <;> rfl
@[simp] theorem ordOf_code (t : Ord) : ordOf t.code = t := by cases t <;> rfl
@[simp] theorem size?_bit2 (b : Bool) : size? (bit2 b) = some b := by cases b <;> rfl
@[simp] theorem redOp?_code (t : RedOp) : redOp? t.code = some t := by cases t <;> rfl
@[simp] theorem pol?_code (t : Pol) : pol? t.code = some t := by cases t <;> rfl
@[simp] theorem ofmOf_code (t : Ofm) : ofmOf t.code = t := by cases t <;> rfl
@[simp] theorem fin6_low (n : Fin 16) : ((fin6 n).extractLsb' 0 4).toFin = n := by revert n; decide

/-- The three parts of an operand parcel, by their bits. -/
theorem mkOp_bit (d : BitVec 6) (m : BitVec 3) (k : BitVec 7) (i : Nat) :
    (mkOp d m k).getLsbD i = if i < 7 then k.getLsbD i else if i < 10 then m.getLsbD (i - 7) else d.getLsbD (i - 10) := by
  have h1 : (mkOp d m k).getLsbD i = if i < 7 then k.getLsbD i else (d ++ m).getLsbD (i - 7) :=
    BitVec.getLsbD_append
  have h2 : (d ++ m).getLsbD (i - 7) = if i - 7 < 3 then m.getLsbD (i - 7) else d.getLsbD (i - 7 - 3) :=
    BitVec.getLsbD_append
  rw [h1, h2]
  by_cases a : i < 7
  · simp [a]
  · by_cases b : i < 10
    · have : i - 7 < 3 := by omega
      simp [a, b, this]
    · have : ¬ i - 7 < 3 := by omega
      have e : i - 7 - 3 = i - 10 := by omega
      simp [a, b, this, e]
@[simp] theorem opD_mkOp (d : BitVec 6) (m : BitVec 3) (k : BitVec 7) : opD (mkOp d m k) = d := by
  apply BitVec.eq_of_getLsbD_eq
  intro i hi
  have a : ¬ 10 + i < 7 := by omega
  simp [opD, mkOp_bit, hi, a]
@[simp] theorem opM_mkOp (d : BitVec 6) (m : BitVec 3) (k : BitVec 7) : opM (mkOp d m k) = m := by
  apply BitVec.eq_of_getLsbD_eq
  intro i hi
  have b : 7 + i < 10 := by omega
  simp [opM, mkOp_bit, hi, b]
@[simp] theorem opMod_mkOp (d : BitVec 6) (m : BitVec 3) (k : BitVec 7) : opMod (mkOp d m k) = k := by
  apply BitVec.eq_of_getLsbD_eq
  intro i hi
  simp [opMod, mkOp_bit, hi]
/-- The 32-bit immediate of the 3w layout is read back. -/
@[simp] theorem imm32_parts (v : BitVec 32) : v.extractLsb' 16 16 ++ v.extractLsb' 0 16 = v := by
  apply BitVec.eq_of_getLsbD_eq
  intro i hi
  have h : (v.extractLsb' 16 16 ++ v.extractLsb' 0 16).getLsbD i =
      if i < 16 then (v.extractLsb' 0 16).getLsbD i else (v.extractLsb' 16 16).getLsbD (i - 16) := BitVec.getLsbD_append
  rw [h]
  by_cases a : i < 16
  · simp [a]
  · have b : i - 16 < 16 := by omega
    have e : 16 + (i - 16) = i := by omega
    simp [a, b, e]

/-! ## The fields of each layout -/

@[simp] theorem fld_a {major : BitVec 7} {minor : BitVec 4} {a : BitVec 6} {b : BitVec 6} {c : BitVec 6} : (fld major minor a b c).a = a := rfl
@[simp] theorem fld_b {major : BitVec 7} {minor : BitVec 4} {a : BitVec 6} {b : BitVec 6} {c : BitVec 6} : (fld major minor a b c).b = b := rfl
@[simp] theorem fld_c {major : BitVec 7} {minor : BitVec 4} {a : BitVec 6} {b : BitVec 6} {c : BitVec 6} : (fld major minor a b c).c = c := rfl
@[simp] theorem fldI_a {major : BitVec 7} {minor : BitVec 4} {a : BitVec 6} {b : BitVec 6} {c : BitVec 6} {imm : BitVec 16} : (fldI major minor a b c imm).a = a := rfl
@[simp] theorem fldI_b {major : BitVec 7} {minor : BitVec 4} {a : BitVec 6} {b : BitVec 6} {c : BitVec 6} {imm : BitVec 16} : (fldI major minor a b c imm).b = b := rfl
@[simp] theorem fldI_c {major : BitVec 7} {minor : BitVec 4} {a : BitVec 6} {b : BitVec 6} {c : BitVec 6} {imm : BitVec 16} : (fldI major minor a b c imm).c = c := rfl
@[simp] theorem fldI_p2 {major : BitVec 7} {minor : BitVec 4} {a : BitVec 6} {b : BitVec 6} {c : BitVec 6} {imm : BitVec 16} : (fldI major minor a b c imm).p2 = imm := rfl
@[simp] theorem fldO_a {major : BitVec 7} {minor : BitVec 4} {a : BitVec 6} {b : BitVec 6} {c : BitVec 6} {d : BitVec 6} {m : KR} {k : BitVec 7} : (fldO major minor a b c d m k).a = a := rfl
@[simp] theorem fldO_b {major : BitVec 7} {minor : BitVec 4} {a : BitVec 6} {b : BitVec 6} {c : BitVec 6} {d : BitVec 6} {m : KR} {k : BitVec 7} : (fldO major minor a b c d m k).b = b := rfl
@[simp] theorem fldO_c {major : BitVec 7} {minor : BitVec 4} {a : BitVec 6} {b : BitVec 6} {c : BitVec 6} {d : BitVec 6} {m : KR} {k : BitVec 7} : (fldO major minor a b c d m k).c = c := rfl
@[simp] theorem fldO_d {major : BitVec 7} {minor : BitVec 4} {a : BitVec 6} {b : BitVec 6} {c : BitVec 6} {d : BitVec 6} {m : KR} {k : BitVec 7} : (fldO major minor a b c d m k).d = d := by simp [fldO, Fields.d]
@[simp] theorem fldO_m {major : BitVec 7} {minor : BitVec 4} {a : BitVec 6} {b : BitVec 6} {c : BitVec 6} {d : BitVec 6} {m : KR} {k : BitVec 7} : (fldO major minor a b c d m k).m = m := by simp [fldO, Fields.m]
@[simp] theorem fldO_mod {major : BitVec 7} {minor : BitVec 4} {a : BitVec 6} {b : BitVec 6} {c : BitVec 6} {d : BitVec 6} {m : KR} {k : BitVec 7} : (fldO major minor a b c d m k).mod = k := by simp [fldO, Fields.mod]
@[simp] theorem fldW_a {major : BitVec 7} {minor : BitVec 4} {a : BitVec 6} {v : BitVec 32} : (fldW major minor a v).a = a := rfl
@[simp] theorem fldW_imm32 {major : BitVec 7} {minor : BitVec 4} {a : BitVec 6} {v : BitVec 32} : (fldW major minor a v).imm32 = v := by simp [fldW, Fields.imm32]
@[simp] theorem fldOI_a {major : BitVec 7} {minor : BitVec 4} {a : BitVec 6} {b : BitVec 6} {c : BitVec 6} {d : BitVec 6} {m : KR} {k : BitVec 7} {v : BitVec 16} : (fldOI major minor a b c d m k v).a = a := rfl
@[simp] theorem fldOI_b {major : BitVec 7} {minor : BitVec 4} {a : BitVec 6} {b : BitVec 6} {c : BitVec 6} {d : BitVec 6} {m : KR} {k : BitVec 7} {v : BitVec 16} : (fldOI major minor a b c d m k v).b = b := rfl
@[simp] theorem fldOI_c {major : BitVec 7} {minor : BitVec 4} {a : BitVec 6} {b : BitVec 6} {c : BitVec 6} {d : BitVec 6} {m : KR} {k : BitVec 7} {v : BitVec 16} : (fldOI major minor a b c d m k v).c = c := rfl
@[simp] theorem fldOI_d {major : BitVec 7} {minor : BitVec 4} {a : BitVec 6} {b : BitVec 6} {c : BitVec 6} {d : BitVec 6} {m : KR} {k : BitVec 7} {v : BitVec 16} : (fldOI major minor a b c d m k v).d = d := by simp [fldOI, Fields.d]
@[simp] theorem fldOI_m {major : BitVec 7} {minor : BitVec 4} {a : BitVec 6} {b : BitVec 6} {c : BitVec 6} {d : BitVec 6} {m : KR} {k : BitVec 7} {v : BitVec 16} : (fldOI major minor a b c d m k v).m = m := by simp [fldOI, Fields.m]
@[simp] theorem fldOI_mod {major : BitVec 7} {minor : BitVec 4} {a : BitVec 6} {b : BitVec 6} {c : BitVec 6} {d : BitVec 6} {m : KR} {k : BitVec 7} {v : BitVec 16} : (fldOI major minor a b c d m k v).mod = k := by simp [fldOI, Fields.mod]
@[simp] theorem fldOI_p3 {major : BitVec 7} {minor : BitVec 4} {a : BitVec 6} {b : BitVec 6} {c : BitVec 6} {d : BitVec 6} {m : KR} {k : BitVec 7} {v : BitVec 16} : (fldOI major minor a b c d m k v).p3 = v := rfl

@[simp] theorem fldO_et {major : BitVec 7} {minor : BitVec 4} {a b c d : BitVec 6} {m : KR} {k : BitVec 7} :
    (fldO major minor a b c d m k).et = ElemT.ofCode (k.extractLsb' 0 4) := by simp [Fields.et]
@[simp] theorem fldO_sc {major : BitVec 7} {minor : BitVec 4} {a b c d : BitVec 6} {m : KR} {k : BitVec 7} :
    (fldO major minor a b c d m k).sc = scope? (k.extractLsb' 4 3) := by simp [Fields.sc]
@[simp] theorem fldO_hi {major : BitVec 7} {minor : BitVec 4} {a b c d : BitVec 6} {m : KR} {k : BitVec 7} :
    (fldO major minor a b c d m k).hi = k.extractLsb' 2 2 := by simp [Fields.hi]
@[simp] theorem fldO_lo {major : BitVec 7} {minor : BitVec 4} {a b c d : BitVec 6} {m : KR} {k : BitVec 7} :
    (fldO major minor a b c d m k).lo = k.extractLsb' 0 2 := by simp [Fields.lo]
@[simp] theorem fldOI_et {major : BitVec 7} {minor : BitVec 4} {a b c d : BitVec 6} {m : KR} {k : BitVec 7} {v : BitVec 16} :
    (fldOI major minor a b c d m k v).et = ElemT.ofCode (k.extractLsb' 0 4) := by simp [Fields.et]
@[simp] theorem fldOI_sc {major : BitVec 7} {minor : BitVec 4} {a b c d : BitVec 6} {m : KR} {k : BitVec 7} {v : BitVec 16} :
    (fldOI major minor a b c d m k v).sc = scope? (k.extractLsb' 4 3) := by simp [Fields.sc]
@[simp] theorem fldOI_hi {major : BitVec 7} {minor : BitVec 4} {a b c d : BitVec 6} {m : KR} {k : BitVec 7} {v : BitVec 16} :
    (fldOI major minor a b c d m k v).hi = k.extractLsb' 2 2 := by simp [Fields.hi]
@[simp] theorem fldOI_lo {major : BitVec 7} {minor : BitVec 4} {a b c d : BitVec 6} {m : KR} {k : BitVec 7} {v : BitVec 16} :
    (fldOI major minor a b c d m k v).lo = k.extractLsb' 0 2 := by simp [Fields.lo]
@[simp] theorem fldOI_et2 {major : BitVec 7} {minor : BitVec 4} {a b c d : BitVec 6} {m : KR} {k : BitVec 7} {v : BitVec 16} :
    (fldOI major minor a b c d m k v).et2 = ElemT.ofCode (v.extractLsb' 0 4) := by simp [Fields.et2]
@[simp] theorem fldOI_bf {major : BitVec 7} {minor : BitVec 4} {a b c d : BitVec 6} {m : KR} {k : BitVec 7} {v : BitVec 16} :
    (fldOI major minor a b c d m k v).bf = blkOf (v.extractLsb' 0 2) := by simp [Fields.bf]
@[simp] theorem shift_low (sh : BitVec 6) : (0#10 ++ sh).extractLsb' 0 6 = sh := by revert sh; decide

/-! ## Codes packed in a mod field -/

@[simp] theorem atomMod_sc (s : Scope) (o : Ord) (w : Bool) : scope? ((atomMod s o w).extractLsb' 4 3) = some s := by
  cases s <;> cases o <;> cases w <;> rfl
@[simp] theorem atomMod_hi (s : Scope) (o : Ord) (w : Bool) : ordOf ((atomMod s o w).extractLsb' 2 2) = o := by
  cases s <;> cases o <;> cases w <;> rfl
@[simp] theorem atomMod_lo (s : Scope) (o : Ord) (w : Bool) : size? ((atomMod s o w).extractLsb' 0 2) = some w := by
  cases s <;> cases o <;> cases w <;> rfl
@[simp] theorem codeMod_sc (s : Scope) (x : BitVec 4) : scope? ((s.code ++ x).extractLsb' 4 3) = some s := by
  cases s <;> revert x <;> decide
@[simp] theorem scope?_code6 (s : Scope) : scope? (s.code6.extractLsb' 0 3) = some s := by cases s <;> rfl
@[simp] theorem waitMod_sc (s : Scope) (a b : Bool) : scope? ((s.code ++ bit2 a ++ bit2 b).extractLsb' 4 3) = some s := by
  cases s <;> cases a <;> cases b <;> rfl
@[simp] theorem waitMod_hi (s : Scope) (a b : Bool) : size? ((s.code ++ bit2 a ++ bit2 b).extractLsb' 2 2) = some a := by
  cases s <;> cases a <;> cases b <;> rfl
@[simp] theorem waitMod_lo (s : Scope) (a b : Bool) : size? ((s.code ++ bit2 a ++ bit2 b).extractLsb' 0 2) = some b := by
  cases s <;> cases a <;> cases b <;> rfl
@[simp] theorem fin6_window (w : Fin 4) : ((fin6 w).extractLsb' 0 2).toFin = w := by revert w; decide
@[simp] theorem bit7_low (b : Bool) : (bit7 b)[0] = b := by cases b <;> rfl
@[simp] theorem bit6_low (b : Bool) : (bit6 b)[0] = b := by cases b <;> rfl
/-- The low part of a field that zeros extend. -/
theorem zero_append_low {n m : Nat} (v : BitVec m) : (0#n ++ v).extractLsb' 0 m = v := by
  apply BitVec.eq_of_toNat_eq; simp
@[simp] theorem num_low (num : BitVec 12) : (0#4 ++ num).extractLsb' 0 12 = num := zero_append_low num
@[simp] theorem fldW_p2 {major : BitVec 7} {minor : BitVec 4} {a : BitVec 6} {v : BitVec 16} :
    (fldW major minor a (0#16 ++ v)).p2 = v := zero_append_low v
@[simp] theorem fld_c4 {major : BitVec 7} {minor : BitVec 4} {a b c : BitVec 6} :
    (fld major minor a b c).c4 = (c.extractLsb' 0 4).toFin := rfl
@[simp] theorem passMod_pol (p : Pol) (o : Ofm) : pol? ((p.code ++ o.code ++ 0#3).extractLsb' 5 2) = some p := by
  cases p <;> cases o <;> rfl
@[simp] theorem passMod_ofm (p : Pol) (o : Ofm) : ofmOf ((p.code ++ o.code ++ 0#3).extractLsb' 3 2) = o := by
  cases p <;> cases o <;> rfl
@[simp] theorem sendMod_sc (s : Scope) (q : Fin 4) : scope? ((s.code ++ fin2 q ++ 0#2).extractLsb' 4 3) = some s := by
  cases s <;> revert q <;> decide
@[simp] theorem sendMod_ch (s : Scope) (q : Fin 4) : ((s.code ++ fin2 q ++ 0#2).extractLsb' 2 2).toFin = q := by
  cases s <;> revert q <;> decide
@[simp] theorem recvMod_any (s : Scope) (q : Option (Fin 4)) :
    size? ((s.code ++ chanMod q).extractLsb' 0 2) = some q.isNone := by
  cases s <;> revert q <;> decide
@[simp] theorem recvMod_ch (s : Scope) (q : Fin 4) : ((s.code ++ chanMod (some q)).extractLsb' 2 2).toFin = q := by
  cases s <;> revert q <;> decide
@[simp] theorem listMod_sc (s : Scope) (b : Bool) : scope? ((s.code ++ 0#2 ++ bit2 b).extractLsb' 4 3) = some s := by
  cases s <;> cases b <;> rfl
@[simp] theorem listMod_lo (s : Scope) (b : Bool) : size? ((s.code ++ 0#2 ++ bit2 b).extractLsb' 0 2) = some b := by
  cases s <;> cases b <;> rfl
@[simp] theorem redMod_sc (s : Scope) (o : RedOp) : scope? ((s.code ++ o.code ++ 0#2).extractLsb' 4 3) = some s := by
  cases s <;> cases o <;> rfl
@[simp] theorem redMod_op (s : Scope) (o : RedOp) : redOp? ((s.code ++ o.code ++ 0#2).extractLsb' 2 2) = some o := by
  cases s <;> cases o <;> rfl
/-- A legal instruction is one whose codes its form accepts. -/
theorem legal_of_wf {i : Instr} (h : i.wf = true) : i.legal = true := by
  simp only [Instr.wf, Bool.and_eq_true] at h; exact h.1
/-- The part of a well-formed VCVT is one of its parts. -/
theorem part_of_wf {i : Instr} (h : i.wf = true) : i.partOk = true := by
  simp only [Instr.wf, Bool.and_eq_true] at h; exact h.2

/-! ## Parcels -/

/-- Fields whose parcels beyond the tails that T names are zero. -/
def Fields.Tight (f : Fields) : Prop :=
  (f.t = 0 → f.b = 0 ∧ f.c = 0 ∧ f.minor = 0) ∧ (f.t.toNat < 2 → f.p2 = 0) ∧ (f.t.toNat < 3 → f.p3 = 0)
/-- The parts of a head parcel are read back. -/
theorem mkHead_bit (t : BitVec 2) (m : BitVec 7) (a : BitVec 6) (i : Nat) :
    (mkHead t m a).getLsbD i =
      if i < 6 then a.getLsbD i else if i < 13 then m.getLsbD (i - 6) else if i < 14 then false else t.getLsbD (i - 14) := by
  have h1 : (mkHead t m a).getLsbD i = if i < 6 then a.getLsbD i else (t ++ 0#1 ++ m).getLsbD (i - 6) :=
    BitVec.getLsbD_append
  have h2 : (t ++ 0#1 ++ m).getLsbD (i - 6) = if i - 6 < 7 then m.getLsbD (i - 6) else (t ++ 0#1).getLsbD (i - 6 - 7) :=
    BitVec.getLsbD_append
  have h3 : (t ++ 0#1).getLsbD (i - 6 - 7) =
      if i - 6 - 7 < 1 then (0#1).getLsbD (i - 6 - 7) else t.getLsbD (i - 6 - 7 - 1) := BitVec.getLsbD_append
  rw [h1, h2, h3]
  have e : i - 6 - 7 - 1 = i - 14 := by omega
  by_cases a1 : i < 6
  · rw [if_pos a1, if_pos a1]
  by_cases a2 : i < 13
  · rw [if_neg a1, if_neg a1, if_pos (show i - 6 < 7 by omega), if_pos a2]
  by_cases a3 : i < 14
  · have z : i - 6 - 7 = 0 := by omega
    rw [if_neg a1, if_neg a1, if_neg (show ¬ i - 6 < 7 by omega), if_neg a2, if_pos a3, z]; rfl
  · rw [if_neg a1, if_neg a1, if_neg (show ¬ i - 6 < 7 by omega), if_neg a2, if_neg a3,
      if_neg (show ¬ i - 6 - 7 < 1 by omega), e]
@[simp] theorem headT_mkHead (t : BitVec 2) (m : BitVec 7) (a : BitVec 6) : headT (mkHead t m a) = t := by
  apply BitVec.eq_of_getLsbD_eq
  intro i hi
  have h1 : ¬ 14 + i < 6 := by omega
  have h2 : ¬ 14 + i < 13 := by omega
  simp [headT, mkHead_bit, hi, h1, h2]
@[simp] theorem headMajor_mkHead (t : BitVec 2) (m : BitVec 7) (a : BitVec 6) : headMajor (mkHead t m a) = m := by
  apply BitVec.eq_of_getLsbD_eq
  intro i hi
  have h1 : 6 + i < 13 := by omega
  simp [headMajor, mkHead_bit, hi, h1]
@[simp] theorem headA_mkHead (t : BitVec 2) (m : BitVec 7) (a : BitVec 6) : headA (mkHead t m a) = a := by
  apply BitVec.eq_of_getLsbD_eq
  intro i hi
  simp [headA, mkHead_bit, hi]
/-- The parts of a tail parcel are read back. -/
theorem mkTail_bit (b c : BitVec 6) (m : BitVec 4) (i : Nat) :
    (mkTail b c m).getLsbD i = if i < 4 then m.getLsbD i else if i < 10 then c.getLsbD (i - 4) else b.getLsbD (i - 10) := by
  have h1 : (mkTail b c m).getLsbD i = if i < 4 then m.getLsbD i else (b ++ c).getLsbD (i - 4) := BitVec.getLsbD_append
  have h2 : (b ++ c).getLsbD (i - 4) = if i - 4 < 6 then c.getLsbD (i - 4) else b.getLsbD (i - 4 - 6) :=
    BitVec.getLsbD_append
  rw [h1, h2]
  have e : i - 4 - 6 = i - 10 := by omega
  by_cases a1 : i < 4
  · rw [if_pos a1, if_pos a1]
  by_cases a2 : i < 10
  · rw [if_neg a1, if_neg a1, if_pos (show i - 4 < 6 by omega), if_pos a2]
  · rw [if_neg a1, if_neg a1, if_neg (show ¬ i - 4 < 6 by omega), if_neg a2, e]
@[simp] theorem tailB_mkTail (b c : BitVec 6) (m : BitVec 4) : tailB (mkTail b c m) = b := by
  apply BitVec.eq_of_getLsbD_eq
  intro i hi
  have h1 : ¬ 10 + i < 4 := by omega
  simp [tailB, mkTail_bit, hi, h1]
@[simp] theorem tailC_mkTail (b c : BitVec 6) (m : BitVec 4) : tailC (mkTail b c m) = c := by
  apply BitVec.eq_of_getLsbD_eq
  intro i hi
  have h1 : 4 + i < 10 := by omega
  simp [tailC, mkTail_bit, hi, h1]
@[simp] theorem tailMinor_mkTail (b c : BitVec 6) (m : BitVec 4) : tailMinor (mkTail b c m) = m := by
  apply BitVec.eq_of_getLsbD_eq
  intro i hi
  simp [tailMinor, mkTail_bit, hi]
/-- A head's parcels decode as its fields do. -/
theorem decode_parcels {f : Fields} (h : f.Tight) : decode f.parcels = decodeFields f := by
  obtain ⟨t, major, a, b, c, minor, p2, p3⟩ := f
  have ht : ∀ t : BitVec 2, t = 0 ∨ t = 1 ∨ t = 2 ∨ t = 3 := by decide
  obtain ⟨h0, h2, h3⟩ := h
  rcases ht t with rfl | rfl | rfl | rfl
  · obtain ⟨rfl, rfl, rfl⟩ := h0 rfl
    obtain rfl := h2 (by simp)
    obtain rfl := h3 (by simp)
    simp [decode, Fields.parcels, fieldsOf, tailB, tailC, tailMinor]
  · obtain rfl := h2 (by simp)
    obtain rfl := h3 (by simp)
    simp [decode, Fields.parcels, fieldsOf]
  · obtain rfl := h3 (by simp)
    simp [decode, Fields.parcels, fieldsOf]
  · simp [decode, Fields.parcels, fieldsOf]
/-- The encoder leaves no parcel beyond the tails that T names. -/
theorem encodeFields_tight {i : Instr} {f : Fields} (h : encodeFields i = some f) : f.Tight := by
  cases i <;> cases h <;> refine ⟨fun e => ?_, fun e => ?_, fun e => ?_⟩ <;>
    first | rfl | exact ⟨rfl, rfl, rfl⟩ | (exfalso; revert e; simp [fld, fldI, fldO, fldW, fldOI])

end Sys2Proof
end

