-- ==== Sys2Proof/Laws/State.lean ====
section
/-! SUPPORT. What each update of the state leaves alone, field by field; the laws of the sparse tables; what a register
reads after a write. -/
namespace Sys2Proof.Machine

/-! ## Sparse tables -/

/-- A table reads what was set last at the key. -/
@[simp] theorem tget_tset_same {α : Type} (t : Tab α) (k : Nat) (a d : α) : tget (tset t k a) k d = a := by
  induction t with
  | nil => simp [tset, tget]
  | cons p t ih =>
    obtain ⟨j, b⟩ := p
    simp only [tset]
    split
    · simp [tget]
    · split
      · simp [tget]
      · simp [tget, *]
/-- Setting one key of a table leaves every other alone. -/
theorem tget_tset_ne {α : Type} (t : Tab α) (k j : Nat) (a d : α) (h : j ≠ k) : tget (tset t k a) j d = tget t j d := by
  induction t with
  | nil => simp [tset, tget, Ne.symm h]
  | cons p t ih =>
    obtain ⟨i, b⟩ := p
    simp only [tset]
    split
    · simp [tget, Ne.symm h]
    · split
      · subst i; simp [tget, Ne.symm h]
      · simp [tget, ih]
/-- What a table reads after one key is set. -/
theorem tget_tset {α : Type} (t : Tab α) (k j : Nat) (a d : α) :
    tget (tset t k a) j d = if j = k then a else tget t j d := by
  split
  · subst j; simp
  · exact tget_tset_ne t k j a d ‹_›

/-! ## Units -/

/-- A context after one context is replaced. -/
theorem ctx_setCtx (s : State) (c d : Nat) (x : Ctx) : (s.setCtx c x).ctx d = if d = c then x else s.ctx d :=
  tget_tset s.ctxs c d x Ctx.reset
@[simp] theorem ctx_setCtx_same (s : State) (c : Nat) (x : Ctx) : (s.setCtx c x).ctx c = x := by simp [ctx_setCtx]
theorem ctx_setCtx_ne (s : State) (c d : Nat) (x : Ctx) (h : d ≠ c) : (s.setCtx c x).ctx d = s.ctx d := by
  simp [ctx_setCtx, h]
/-- A context after one context is changed. -/
theorem ctx_mapCtx (s : State) (c d : Nat) (f : Ctx → Ctx) :
    (s.mapCtx c f).ctx d = if d = c then f (s.ctx c) else s.ctx d := ctx_setCtx s c d _
@[simp] theorem ctx_mapCtx_same (s : State) (c : Nat) (f : Ctx → Ctx) : (s.mapCtx c f).ctx c = f (s.ctx c) := by
  simp [ctx_mapCtx]
@[simp] theorem me_setMe (s : State) (x : Ctx) : (s.setMe x).me = x := ctx_setCtx_same s s.cur x
@[simp] theorem me_mapMe (s : State) (f : Ctx → Ctx) : (s.mapMe f).me = f s.me := me_setMe s _
/-- A context that does not execute is not changed by a change of the one that does. -/
theorem ctx_mapMe_ne (s : State) (c : Nat) (f : Ctx → Ctx) (h : c ≠ s.cur) : (s.mapMe f).ctx c = s.ctx c :=
  ctx_setCtx_ne s s.cur c _ h
/-- A core after one core is replaced. -/
theorem core_setCore (s : State) (n m : Nat) (x : Core) : (s.setCore n x).core m = if m = n then x else s.core m :=
  tget_tset s.cores n m x Core.reset
@[simp] theorem core_setCore_same (s : State) (n : Nat) (x : Core) : (s.setCore n x).core n = x := by
  simp [core_setCore]
/-- A core after one core is changed. -/
theorem core_mapCore (s : State) (n m : Nat) (f : Core → Core) :
    (s.mapCore n f).core m = if m = n then f (s.core n) else s.core m := core_setCore s n m _
/-- A cluster after one cluster is replaced. -/
theorem clu_setClu (s : State) (n m : Nat) (x : Cluster) : (s.setClu n x).clu m = if m = n then x else s.clu m :=
  tget_tset s.clus n m x Cluster.reset
@[simp] theorem clu_setClu_same (s : State) (n : Nat) (x : Cluster) : (s.setClu n x).clu n = x := by simp [clu_setClu]
/-- A cluster after one cluster is changed. -/
theorem clu_mapClu (s : State) (n m : Nat) (f : Cluster → Cluster) :
    (s.mapClu n f).clu m = if m = n then f (s.clu n) else s.clu m := clu_setClu s n m _

/-! ## Registers (R39, R40, R141) -/

@[simp] theorem getX_zero (c : Ctx) : c.getX 0 = 0 := by simp [Ctx.getX]
@[simp] theorem getK_zero (c : Ctx) : c.getK 0 = BitVec.allOnes 32 := by simp [Ctx.getK]
@[simp] theorem getV_vz (c : Ctx) : c.getV .vz = 0 := rfl
@[simp] theorem setX_zero (c : Ctx) (v : Word) : c.setX 0 v = c := by simp [Ctx.setX]
@[simp] theorem setK_zero (c : Ctx) (v : KWord) : c.setK 0 v = c := by simp [Ctx.setK]
@[simp] theorem setV_vz (c : Ctx) (v : VWord) : c.setV .vz v = c := rfl
/-- What an x register reads after a write. -/
theorem getX_setX (c : Ctx) (n m : XR) (v : Word) :
    (c.setX n v).getX m = if m = n ∧ n ≠ 0 then v else c.getX m := by
  unfold Ctx.setX Ctx.getX
  by_cases hn : n = 0 <;> by_cases hm : m = 0 <;> by_cases h : m = n <;> simp_all
  rw [Vector.getElem_set_ne]; intro e; exact h (Fin.ext e.symm)
/-- What a v register reads after a write. -/
theorem getV_setV (c : Ctx) (r q : VR) (v : VWord) :
    (c.setV r v).getV q = if q = r ∧ r ≠ .vz then v else c.getV q := by
  cases r with
  | vz => simp
  | v n =>
    cases q with
    | vz => simp [Ctx.getV]
    | v m =>
      by_cases h : m = n
      · subst h; simp [Ctx.setV, Ctx.getV]
      · simp only [Ctx.setV, Ctx.getV, VR.v.injEq, h, false_and, if_false]
        exact Vector.getElem_set_ne _ _ (fun e => h (Fin.ext e.symm))
/-- What a k register reads after a write. -/
theorem getK_setK (c : Ctx) (n m : KR) (v : KWord) :
    (c.setK n v).getK m = if m = n ∧ n ≠ 0 then v else c.getK m := by
  unfold Ctx.setK Ctx.getK
  by_cases hn : n = 0 <;> by_cases hm : m = 0 <;> by_cases h : m = n <;> simp_all
  rw [Vector.getElem_set_ne]; intro e; exact h (Fin.ext e.symm)

/-! ## A register write leaves every other field of its context -/

@[simp] theorem setX_v (c : Ctx) (n : XR) (v : Word) : (c.setX n v).v = c.v := by unfold Ctx.setX; split <;> rfl
@[simp] theorem setX_k (c : Ctx) (n : XR) (v : Word) : (c.setX n v).k = c.k := by unfold Ctx.setX; split <;> rfl
@[simp] theorem setX_pc (c : Ctx) (n : XR) (v : Word) : (c.setX n v).pc = c.pc := by unfold Ctx.setX; split <;> rfl
@[simp] theorem setX_fctxB (c : Ctx) (n : XR) (v : Word) : (c.setX n v).fctxB = c.fctxB := by unfold Ctx.setX; split <;> rfl
@[simp] theorem setX_fctxS (c : Ctx) (n : XR) (v : Word) : (c.setX n v).fctxS = c.fctxS := by unfold Ctx.setX; split <;> rfl
@[simp] theorem setX_scptrB (c : Ctx) (n : XR) (v : Word) : (c.setX n v).scptrB = c.scptrB := by unfold Ctx.setX; split <;> rfl
@[simp] theorem setX_scptrS (c : Ctx) (n : XR) (v : Word) : (c.setX n v).scptrS = c.scptrS := by unfold Ctx.setX; split <;> rfl
@[simp] theorem setX_shadow (c : Ctx) (n : XR) (v : Word) : (c.setX n v).shadow = c.shadow := by unfold Ctx.setX; split <;> rfl
@[simp] theorem setX_fstat (c : Ctx) (n : XR) (v : Word) : (c.setX n v).fstat = c.fstat := by unfold Ctx.setX; split <;> rfl
@[simp] theorem setX_ctxid (c : Ctx) (n : XR) (v : Word) : (c.setX n v).ctxid = c.ctxid := by unfold Ctx.setX; split <;> rfl
@[simp] theorem setX_lcore (c : Ctx) (n : XR) (v : Word) : (c.setX n v).lcore = c.lcore := by unfold Ctx.setX; split <;> rfl
@[simp] theorem setX_stage (c : Ctx) (n : XR) (v : Word) : (c.setX n v).stage = c.stage := by unfold Ctx.setX; split <;> rfl
@[simp] theorem setX_taskf (c : Ctx) (n : XR) (v : Word) : (c.setX n v).taskf = c.taskf := by unfold Ctx.setX; split <;> rfl
@[simp] theorem setX_priv (c : Ctx) (n : XR) (v : Word) : (c.setX n v).priv = c.priv := by unfold Ctx.setX; split <;> rfl
@[simp] theorem setX_epc (c : Ctx) (n : XR) (v : Word) : (c.setX n v).epc = c.epc := by unfold Ctx.setX; split <;> rfl
@[simp] theorem setX_ecause (c : Ctx) (n : XR) (v : Word) : (c.setX n v).ecause = c.ecause := by unfold Ctx.setX; split <;> rfl
@[simp] theorem setX_eval (c : Ctx) (n : XR) (v : Word) : (c.setX n v).eval = c.eval := by unfold Ctx.setX; split <;> rfl
@[simp] theorem setX_tvec (c : Ctx) (n : XR) (v : Word) : (c.setX n v).tvec = c.tvec := by unfold Ctx.setX; split <;> rfl
@[simp] theorem setX_asid (c : Ctx) (n : XR) (v : Word) : (c.setX n v).asid = c.asid := by unfold Ctx.setX; split <;> rfl
@[simp] theorem setX_buf (c : Ctx) (n : XR) (v : Word) : (c.setX n v).buf = c.buf := by unfold Ctx.setX; split <;> rfl
@[simp] theorem setX_run (c : Ctx) (n : XR) (v : Word) : (c.setX n v).run = c.run := by unfold Ctx.setX; split <;> rfl
@[simp] theorem setX_why (c : Ctx) (n : XR) (v : Word) : (c.setX n v).why = c.why := by unfold Ctx.setX; split <;> rfl
@[simp] theorem setX_lastIssue (c : Ctx) (n : XR) (v : Word) : (c.setX n v).lastIssue = c.lastIssue := by unfold Ctx.setX; split <;> rfl
@[simp] theorem setX_eligFrom (c : Ctx) (n : XR) (v : Word) : (c.setX n v).eligFrom = c.eligFrom := by unfold Ctx.setX; split <;> rfl
@[simp] theorem setX_line (c : Ctx) (n : XR) (v : Word) : (c.setX n v).line = c.line := by unfold Ctx.setX; split <;> rfl
@[simp] theorem setX_intv (c : Ctx) (n : XR) (v : Word) : (c.setX n v).intv = c.intv := by unfold Ctx.setX; split <;> rfl
@[simp] theorem setX_entry (c : Ctx) (n : XR) (v : Word) : (c.setX n v).entry = c.entry := by unfold Ctx.setX; split <;> rfl
@[simp] theorem setX_pendf (c : Ctx) (n : XR) (v : Word) : (c.setX n v).pendf = c.pendf := by unfold Ctx.setX; split <;> rfl
@[simp] theorem setX_resume (c : Ctx) (n : XR) (v : Word) : (c.setX n v).resume = c.resume := by unfold Ctx.setX; split <;> rfl
@[simp] theorem setX_armed (c : Ctx) (n : XR) (v : Word) : (c.setX n v).armed = c.armed := by unfold Ctx.setX; split <;> rfl
@[simp] theorem setX_latent (c : Ctx) (n : XR) (v : Word) : (c.setX n v).latent = c.latent := by unfold Ctx.setX; split <;> rfl
@[simp] theorem setX_recBad (c : Ctx) (n : XR) (v : Word) : (c.setX n v).recBad = c.recBad := by unfold Ctx.setX; split <;> rfl
@[simp] theorem setX_reaping (c : Ctx) (n : XR) (v : Word) : (c.setX n v).reaping = c.reaping := by unfold Ctx.setX; split <;> rfl
@[simp] theorem setX_taken (c : Ctx) (n : XR) (v : Word) : (c.setX n v).taken = c.taken := by unfold Ctx.setX; split <;> rfl
@[simp] theorem setX_held (c : Ctx) (n : XR) (v : Word) : (c.setX n v).held = c.held := by unfold Ctx.setX; split <;> rfl
@[simp] theorem setX_sent (c : Ctx) (n : XR) (v : Word) : (c.setX n v).sent = c.sent := by unfold Ctx.setX; split <;> rfl
@[simp] theorem setX_undo (c : Ctx) (n : XR) (v : Word) : (c.setX n v).undo = c.undo := by unfold Ctx.setX; split <;> rfl
@[simp] theorem setX_asyncs (c : Ctx) (n : XR) (v : Word) : (c.setX n v).asyncs = c.asyncs := by unfold Ctx.setX; split <;> rfl
@[simp] theorem setX_walkFail (c : Ctx) (n : XR) (v : Word) : (c.setX n v).walkFail = c.walkFail := by unfold Ctx.setX; split <;> rfl
@[simp] theorem setX_got (c : Ctx) (n : XR) (v : Word) : (c.setX n v).got = c.got := by unfold Ctx.setX; split <;> rfl
@[simp] theorem setX_gotTags (c : Ctx) (n : XR) (v : Word) : (c.setX n v).gotTags = c.gotTags := by unfold Ctx.setX; split <;> rfl
@[simp] theorem setX_badSys (c : Ctx) (n : XR) (v : Word) : (c.setX n v).badSys = c.badSys := by unfold Ctx.setX; split <;> rfl
@[simp] theorem setX_merged (c : Ctx) (n : XR) (v : Word) : (c.setX n v).merged = c.merged := by unfold Ctx.setX; split <;> rfl
@[simp] theorem setX_late (c : Ctx) (n : XR) (v : Word) : (c.setX n v).late = c.late := by unfold Ctx.setX; split <;> rfl
@[simp] theorem setX_fill (c : Ctx) (n : XR) (v : Word) : (c.setX n v).fill = c.fill := by unfold Ctx.setX; split <;> rfl
@[simp] theorem setX_rel (c : Ctx) (n : XR) (v : Word) : (c.setX n v).rel = c.rel := by unfold Ctx.setX; split <;> rfl
@[simp] theorem setX_reads (c : Ctx) (n : XR) (v : Word) : (c.setX n v).reads = c.reads := by unfold Ctx.setX; split <;> rfl
@[simp] theorem setX_due (c : Ctx) (n : XR) (v : Word) : (c.setX n v).due = c.due := by unfold Ctx.setX; split <;> rfl
@[simp] theorem setX_seqs (c : Ctx) (n : XR) (v : Word) : (c.setX n v).seqs = c.seqs := by unfold Ctx.setX; split <;> rfl
@[simp] theorem setX_drains (c : Ctx) (n : XR) (v : Word) : (c.setX n v).drains = c.drains := by unfold Ctx.setX; split <;> rfl
@[simp] theorem setX_step (c : Ctx) (n : XR) (v : Word) : (c.setX n v).step = c.step := by unfold Ctx.setX; split <;> rfl
@[simp] theorem setV_x (c : Ctx) (r : VR) (v : VWord) : (c.setV r v).x = c.x := by cases r <;> rfl
@[simp] theorem setV_k (c : Ctx) (r : VR) (v : VWord) : (c.setV r v).k = c.k := by cases r <;> rfl
@[simp] theorem setV_pc (c : Ctx) (r : VR) (v : VWord) : (c.setV r v).pc = c.pc := by cases r <;> rfl
@[simp] theorem setV_fctxB (c : Ctx) (r : VR) (v : VWord) : (c.setV r v).fctxB = c.fctxB := by cases r <;> rfl
@[simp] theorem setV_fctxS (c : Ctx) (r : VR) (v : VWord) : (c.setV r v).fctxS = c.fctxS := by cases r <;> rfl
@[simp] theorem setV_scptrB (c : Ctx) (r : VR) (v : VWord) : (c.setV r v).scptrB = c.scptrB := by cases r <;> rfl
@[simp] theorem setV_scptrS (c : Ctx) (r : VR) (v : VWord) : (c.setV r v).scptrS = c.scptrS := by cases r <;> rfl
@[simp] theorem setV_shadow (c : Ctx) (r : VR) (v : VWord) : (c.setV r v).shadow = c.shadow := by cases r <;> rfl
@[simp] theorem setV_fstat (c : Ctx) (r : VR) (v : VWord) : (c.setV r v).fstat = c.fstat := by cases r <;> rfl
@[simp] theorem setV_ctxid (c : Ctx) (r : VR) (v : VWord) : (c.setV r v).ctxid = c.ctxid := by cases r <;> rfl
@[simp] theorem setV_lcore (c : Ctx) (r : VR) (v : VWord) : (c.setV r v).lcore = c.lcore := by cases r <;> rfl
@[simp] theorem setV_stage (c : Ctx) (r : VR) (v : VWord) : (c.setV r v).stage = c.stage := by cases r <;> rfl
@[simp] theorem setV_taskf (c : Ctx) (r : VR) (v : VWord) : (c.setV r v).taskf = c.taskf := by cases r <;> rfl
@[simp] theorem setV_priv (c : Ctx) (r : VR) (v : VWord) : (c.setV r v).priv = c.priv := by cases r <;> rfl
@[simp] theorem setV_epc (c : Ctx) (r : VR) (v : VWord) : (c.setV r v).epc = c.epc := by cases r <;> rfl
@[simp] theorem setV_ecause (c : Ctx) (r : VR) (v : VWord) : (c.setV r v).ecause = c.ecause := by cases r <;> rfl
@[simp] theorem setV_eval (c : Ctx) (r : VR) (v : VWord) : (c.setV r v).eval = c.eval := by cases r <;> rfl
@[simp] theorem setV_tvec (c : Ctx) (r : VR) (v : VWord) : (c.setV r v).tvec = c.tvec := by cases r <;> rfl
@[simp] theorem setV_asid (c : Ctx) (r : VR) (v : VWord) : (c.setV r v).asid = c.asid := by cases r <;> rfl
@[simp] theorem setV_buf (c : Ctx) (r : VR) (v : VWord) : (c.setV r v).buf = c.buf := by cases r <;> rfl
@[simp] theorem setV_run (c : Ctx) (r : VR) (v : VWord) : (c.setV r v).run = c.run := by cases r <;> rfl
@[simp] theorem setV_why (c : Ctx) (r : VR) (v : VWord) : (c.setV r v).why = c.why := by cases r <;> rfl
@[simp] theorem setV_lastIssue (c : Ctx) (r : VR) (v : VWord) : (c.setV r v).lastIssue = c.lastIssue := by cases r <;> rfl
@[simp] theorem setV_eligFrom (c : Ctx) (r : VR) (v : VWord) : (c.setV r v).eligFrom = c.eligFrom := by cases r <;> rfl
@[simp] theorem setV_line (c : Ctx) (r : VR) (v : VWord) : (c.setV r v).line = c.line := by cases r <;> rfl
@[simp] theorem setV_intv (c : Ctx) (r : VR) (v : VWord) : (c.setV r v).intv = c.intv := by cases r <;> rfl
@[simp] theorem setV_entry (c : Ctx) (r : VR) (v : VWord) : (c.setV r v).entry = c.entry := by cases r <;> rfl
@[simp] theorem setV_pendf (c : Ctx) (r : VR) (v : VWord) : (c.setV r v).pendf = c.pendf := by cases r <;> rfl
@[simp] theorem setV_resume (c : Ctx) (r : VR) (v : VWord) : (c.setV r v).resume = c.resume := by cases r <;> rfl
@[simp] theorem setV_armed (c : Ctx) (r : VR) (v : VWord) : (c.setV r v).armed = c.armed := by cases r <;> rfl
@[simp] theorem setV_latent (c : Ctx) (r : VR) (v : VWord) : (c.setV r v).latent = c.latent := by cases r <;> rfl
@[simp] theorem setV_recBad (c : Ctx) (r : VR) (v : VWord) : (c.setV r v).recBad = c.recBad := by cases r <;> rfl
@[simp] theorem setV_reaping (c : Ctx) (r : VR) (v : VWord) : (c.setV r v).reaping = c.reaping := by cases r <;> rfl
@[simp] theorem setV_taken (c : Ctx) (r : VR) (v : VWord) : (c.setV r v).taken = c.taken := by cases r <;> rfl
@[simp] theorem setV_held (c : Ctx) (r : VR) (v : VWord) : (c.setV r v).held = c.held := by cases r <;> rfl
@[simp] theorem setV_sent (c : Ctx) (r : VR) (v : VWord) : (c.setV r v).sent = c.sent := by cases r <;> rfl
@[simp] theorem setV_undo (c : Ctx) (r : VR) (v : VWord) : (c.setV r v).undo = c.undo := by cases r <;> rfl
@[simp] theorem setV_asyncs (c : Ctx) (r : VR) (v : VWord) : (c.setV r v).asyncs = c.asyncs := by cases r <;> rfl
@[simp] theorem setV_walkFail (c : Ctx) (r : VR) (v : VWord) : (c.setV r v).walkFail = c.walkFail := by cases r <;> rfl
@[simp] theorem setV_got (c : Ctx) (r : VR) (v : VWord) : (c.setV r v).got = c.got := by cases r <;> rfl
@[simp] theorem setV_gotTags (c : Ctx) (r : VR) (v : VWord) : (c.setV r v).gotTags = c.gotTags := by cases r <;> rfl
@[simp] theorem setV_badSys (c : Ctx) (r : VR) (v : VWord) : (c.setV r v).badSys = c.badSys := by cases r <;> rfl
@[simp] theorem setV_merged (c : Ctx) (r : VR) (v : VWord) : (c.setV r v).merged = c.merged := by cases r <;> rfl
@[simp] theorem setV_late (c : Ctx) (r : VR) (v : VWord) : (c.setV r v).late = c.late := by cases r <;> rfl
@[simp] theorem setV_fill (c : Ctx) (r : VR) (v : VWord) : (c.setV r v).fill = c.fill := by cases r <;> rfl
@[simp] theorem setV_rel (c : Ctx) (r : VR) (v : VWord) : (c.setV r v).rel = c.rel := by cases r <;> rfl
@[simp] theorem setV_reads (c : Ctx) (r : VR) (v : VWord) : (c.setV r v).reads = c.reads := by cases r <;> rfl
@[simp] theorem setV_due (c : Ctx) (r : VR) (v : VWord) : (c.setV r v).due = c.due := by cases r <;> rfl
@[simp] theorem setV_seqs (c : Ctx) (r : VR) (v : VWord) : (c.setV r v).seqs = c.seqs := by cases r <;> rfl
@[simp] theorem setV_drains (c : Ctx) (r : VR) (v : VWord) : (c.setV r v).drains = c.drains := by cases r <;> rfl
@[simp] theorem setV_step (c : Ctx) (r : VR) (v : VWord) : (c.setV r v).step = c.step := by cases r <;> rfl
@[simp] theorem setK_x (c : Ctx) (n : KR) (v : KWord) : (c.setK n v).x = c.x := by unfold Ctx.setK; split <;> rfl
@[simp] theorem setK_v (c : Ctx) (n : KR) (v : KWord) : (c.setK n v).v = c.v := by unfold Ctx.setK; split <;> rfl
@[simp] theorem setK_pc (c : Ctx) (n : KR) (v : KWord) : (c.setK n v).pc = c.pc := by unfold Ctx.setK; split <;> rfl
@[simp] theorem setK_fctxB (c : Ctx) (n : KR) (v : KWord) : (c.setK n v).fctxB = c.fctxB := by unfold Ctx.setK; split <;> rfl
@[simp] theorem setK_fctxS (c : Ctx) (n : KR) (v : KWord) : (c.setK n v).fctxS = c.fctxS := by unfold Ctx.setK; split <;> rfl
@[simp] theorem setK_scptrB (c : Ctx) (n : KR) (v : KWord) : (c.setK n v).scptrB = c.scptrB := by unfold Ctx.setK; split <;> rfl
@[simp] theorem setK_scptrS (c : Ctx) (n : KR) (v : KWord) : (c.setK n v).scptrS = c.scptrS := by unfold Ctx.setK; split <;> rfl
@[simp] theorem setK_shadow (c : Ctx) (n : KR) (v : KWord) : (c.setK n v).shadow = c.shadow := by unfold Ctx.setK; split <;> rfl
@[simp] theorem setK_fstat (c : Ctx) (n : KR) (v : KWord) : (c.setK n v).fstat = c.fstat := by unfold Ctx.setK; split <;> rfl
@[simp] theorem setK_ctxid (c : Ctx) (n : KR) (v : KWord) : (c.setK n v).ctxid = c.ctxid := by unfold Ctx.setK; split <;> rfl
@[simp] theorem setK_lcore (c : Ctx) (n : KR) (v : KWord) : (c.setK n v).lcore = c.lcore := by unfold Ctx.setK; split <;> rfl
@[simp] theorem setK_stage (c : Ctx) (n : KR) (v : KWord) : (c.setK n v).stage = c.stage := by unfold Ctx.setK; split <;> rfl
@[simp] theorem setK_taskf (c : Ctx) (n : KR) (v : KWord) : (c.setK n v).taskf = c.taskf := by unfold Ctx.setK; split <;> rfl
@[simp] theorem setK_priv (c : Ctx) (n : KR) (v : KWord) : (c.setK n v).priv = c.priv := by unfold Ctx.setK; split <;> rfl
@[simp] theorem setK_epc (c : Ctx) (n : KR) (v : KWord) : (c.setK n v).epc = c.epc := by unfold Ctx.setK; split <;> rfl
@[simp] theorem setK_ecause (c : Ctx) (n : KR) (v : KWord) : (c.setK n v).ecause = c.ecause := by unfold Ctx.setK; split <;> rfl
@[simp] theorem setK_eval (c : Ctx) (n : KR) (v : KWord) : (c.setK n v).eval = c.eval := by unfold Ctx.setK; split <;> rfl
@[simp] theorem setK_tvec (c : Ctx) (n : KR) (v : KWord) : (c.setK n v).tvec = c.tvec := by unfold Ctx.setK; split <;> rfl
@[simp] theorem setK_asid (c : Ctx) (n : KR) (v : KWord) : (c.setK n v).asid = c.asid := by unfold Ctx.setK; split <;> rfl
@[simp] theorem setK_buf (c : Ctx) (n : KR) (v : KWord) : (c.setK n v).buf = c.buf := by unfold Ctx.setK; split <;> rfl
@[simp] theorem setK_run (c : Ctx) (n : KR) (v : KWord) : (c.setK n v).run = c.run := by unfold Ctx.setK; split <;> rfl
@[simp] theorem setK_why (c : Ctx) (n : KR) (v : KWord) : (c.setK n v).why = c.why := by unfold Ctx.setK; split <;> rfl
@[simp] theorem setK_lastIssue (c : Ctx) (n : KR) (v : KWord) : (c.setK n v).lastIssue = c.lastIssue := by unfold Ctx.setK; split <;> rfl
@[simp] theorem setK_eligFrom (c : Ctx) (n : KR) (v : KWord) : (c.setK n v).eligFrom = c.eligFrom := by unfold Ctx.setK; split <;> rfl
@[simp] theorem setK_line (c : Ctx) (n : KR) (v : KWord) : (c.setK n v).line = c.line := by unfold Ctx.setK; split <;> rfl
@[simp] theorem setK_intv (c : Ctx) (n : KR) (v : KWord) : (c.setK n v).intv = c.intv := by unfold Ctx.setK; split <;> rfl
@[simp] theorem setK_entry (c : Ctx) (n : KR) (v : KWord) : (c.setK n v).entry = c.entry := by unfold Ctx.setK; split <;> rfl
@[simp] theorem setK_pendf (c : Ctx) (n : KR) (v : KWord) : (c.setK n v).pendf = c.pendf := by unfold Ctx.setK; split <;> rfl
@[simp] theorem setK_resume (c : Ctx) (n : KR) (v : KWord) : (c.setK n v).resume = c.resume := by unfold Ctx.setK; split <;> rfl
@[simp] theorem setK_armed (c : Ctx) (n : KR) (v : KWord) : (c.setK n v).armed = c.armed := by unfold Ctx.setK; split <;> rfl
@[simp] theorem setK_latent (c : Ctx) (n : KR) (v : KWord) : (c.setK n v).latent = c.latent := by unfold Ctx.setK; split <;> rfl
@[simp] theorem setK_recBad (c : Ctx) (n : KR) (v : KWord) : (c.setK n v).recBad = c.recBad := by unfold Ctx.setK; split <;> rfl
@[simp] theorem setK_reaping (c : Ctx) (n : KR) (v : KWord) : (c.setK n v).reaping = c.reaping := by unfold Ctx.setK; split <;> rfl
@[simp] theorem setK_taken (c : Ctx) (n : KR) (v : KWord) : (c.setK n v).taken = c.taken := by unfold Ctx.setK; split <;> rfl
@[simp] theorem setK_held (c : Ctx) (n : KR) (v : KWord) : (c.setK n v).held = c.held := by unfold Ctx.setK; split <;> rfl
@[simp] theorem setK_sent (c : Ctx) (n : KR) (v : KWord) : (c.setK n v).sent = c.sent := by unfold Ctx.setK; split <;> rfl
@[simp] theorem setK_undo (c : Ctx) (n : KR) (v : KWord) : (c.setK n v).undo = c.undo := by unfold Ctx.setK; split <;> rfl
@[simp] theorem setK_asyncs (c : Ctx) (n : KR) (v : KWord) : (c.setK n v).asyncs = c.asyncs := by unfold Ctx.setK; split <;> rfl
@[simp] theorem setK_walkFail (c : Ctx) (n : KR) (v : KWord) : (c.setK n v).walkFail = c.walkFail := by unfold Ctx.setK; split <;> rfl
@[simp] theorem setK_got (c : Ctx) (n : KR) (v : KWord) : (c.setK n v).got = c.got := by unfold Ctx.setK; split <;> rfl
@[simp] theorem setK_gotTags (c : Ctx) (n : KR) (v : KWord) : (c.setK n v).gotTags = c.gotTags := by unfold Ctx.setK; split <;> rfl
@[simp] theorem setK_badSys (c : Ctx) (n : KR) (v : KWord) : (c.setK n v).badSys = c.badSys := by unfold Ctx.setK; split <;> rfl
@[simp] theorem setK_merged (c : Ctx) (n : KR) (v : KWord) : (c.setK n v).merged = c.merged := by unfold Ctx.setK; split <;> rfl
@[simp] theorem setK_late (c : Ctx) (n : KR) (v : KWord) : (c.setK n v).late = c.late := by unfold Ctx.setK; split <;> rfl
@[simp] theorem setK_fill (c : Ctx) (n : KR) (v : KWord) : (c.setK n v).fill = c.fill := by unfold Ctx.setK; split <;> rfl
@[simp] theorem setK_rel (c : Ctx) (n : KR) (v : KWord) : (c.setK n v).rel = c.rel := by unfold Ctx.setK; split <;> rfl
@[simp] theorem setK_reads (c : Ctx) (n : KR) (v : KWord) : (c.setK n v).reads = c.reads := by unfold Ctx.setK; split <;> rfl
@[simp] theorem setK_due (c : Ctx) (n : KR) (v : KWord) : (c.setK n v).due = c.due := by unfold Ctx.setK; split <;> rfl
@[simp] theorem setK_seqs (c : Ctx) (n : KR) (v : KWord) : (c.setK n v).seqs = c.seqs := by unfold Ctx.setK; split <;> rfl
@[simp] theorem setK_drains (c : Ctx) (n : KR) (v : KWord) : (c.setK n v).drains = c.drains := by unfold Ctx.setK; split <;> rfl
@[simp] theorem setK_step (c : Ctx) (n : KR) (v : KWord) : (c.setK n v).step = c.step := by unfold Ctx.setK; split <;> rfl
@[simp] theorem flag_x (c : Ctx) (w : Word) : (c.flag w).x = c.x := rfl
@[simp] theorem flag_v (c : Ctx) (w : Word) : (c.flag w).v = c.v := rfl
@[simp] theorem flag_k (c : Ctx) (w : Word) : (c.flag w).k = c.k := rfl
@[simp] theorem flag_pc (c : Ctx) (w : Word) : (c.flag w).pc = c.pc := rfl
@[simp] theorem flag_fctxB (c : Ctx) (w : Word) : (c.flag w).fctxB = c.fctxB := rfl
@[simp] theorem flag_fctxS (c : Ctx) (w : Word) : (c.flag w).fctxS = c.fctxS := rfl
@[simp] theorem flag_scptrB (c : Ctx) (w : Word) : (c.flag w).scptrB = c.scptrB := rfl
@[simp] theorem flag_scptrS (c : Ctx) (w : Word) : (c.flag w).scptrS = c.scptrS := rfl
@[simp] theorem flag_shadow (c : Ctx) (w : Word) : (c.flag w).shadow = c.shadow := rfl
@[simp] theorem flag_ctxid (c : Ctx) (w : Word) : (c.flag w).ctxid = c.ctxid := rfl
@[simp] theorem flag_lcore (c : Ctx) (w : Word) : (c.flag w).lcore = c.lcore := rfl
@[simp] theorem flag_stage (c : Ctx) (w : Word) : (c.flag w).stage = c.stage := rfl
@[simp] theorem flag_taskf (c : Ctx) (w : Word) : (c.flag w).taskf = c.taskf := rfl
@[simp] theorem flag_priv (c : Ctx) (w : Word) : (c.flag w).priv = c.priv := rfl
@[simp] theorem flag_epc (c : Ctx) (w : Word) : (c.flag w).epc = c.epc := rfl
@[simp] theorem flag_ecause (c : Ctx) (w : Word) : (c.flag w).ecause = c.ecause := rfl
@[simp] theorem flag_eval (c : Ctx) (w : Word) : (c.flag w).eval = c.eval := rfl
@[simp] theorem flag_tvec (c : Ctx) (w : Word) : (c.flag w).tvec = c.tvec := rfl
@[simp] theorem flag_asid (c : Ctx) (w : Word) : (c.flag w).asid = c.asid := rfl
@[simp] theorem flag_buf (c : Ctx) (w : Word) : (c.flag w).buf = c.buf := rfl
@[simp] theorem flag_run (c : Ctx) (w : Word) : (c.flag w).run = c.run := rfl
@[simp] theorem flag_why (c : Ctx) (w : Word) : (c.flag w).why = c.why := rfl
@[simp] theorem flag_lastIssue (c : Ctx) (w : Word) : (c.flag w).lastIssue = c.lastIssue := rfl
@[simp] theorem flag_eligFrom (c : Ctx) (w : Word) : (c.flag w).eligFrom = c.eligFrom := rfl
@[simp] theorem flag_line (c : Ctx) (w : Word) : (c.flag w).line = c.line := rfl
@[simp] theorem flag_intv (c : Ctx) (w : Word) : (c.flag w).intv = c.intv := rfl
@[simp] theorem flag_entry (c : Ctx) (w : Word) : (c.flag w).entry = c.entry := rfl
@[simp] theorem flag_pendf (c : Ctx) (w : Word) : (c.flag w).pendf = c.pendf := rfl
@[simp] theorem flag_resume (c : Ctx) (w : Word) : (c.flag w).resume = c.resume := rfl
@[simp] theorem flag_armed (c : Ctx) (w : Word) : (c.flag w).armed = c.armed := rfl
@[simp] theorem flag_latent (c : Ctx) (w : Word) : (c.flag w).latent = c.latent := rfl
@[simp] theorem flag_recBad (c : Ctx) (w : Word) : (c.flag w).recBad = c.recBad := rfl
@[simp] theorem flag_reaping (c : Ctx) (w : Word) : (c.flag w).reaping = c.reaping := rfl
@[simp] theorem flag_taken (c : Ctx) (w : Word) : (c.flag w).taken = c.taken := rfl
@[simp] theorem flag_held (c : Ctx) (w : Word) : (c.flag w).held = c.held := rfl
@[simp] theorem flag_sent (c : Ctx) (w : Word) : (c.flag w).sent = c.sent := rfl
@[simp] theorem flag_undo (c : Ctx) (w : Word) : (c.flag w).undo = c.undo := rfl
@[simp] theorem flag_asyncs (c : Ctx) (w : Word) : (c.flag w).asyncs = c.asyncs := rfl
@[simp] theorem flag_walkFail (c : Ctx) (w : Word) : (c.flag w).walkFail = c.walkFail := rfl
@[simp] theorem flag_got (c : Ctx) (w : Word) : (c.flag w).got = c.got := rfl
@[simp] theorem flag_gotTags (c : Ctx) (w : Word) : (c.flag w).gotTags = c.gotTags := rfl
@[simp] theorem flag_bad (c : Ctx) (w : Word) : (c.flag w).bad = c.bad := rfl
@[simp] theorem flag_badSys (c : Ctx) (w : Word) : (c.flag w).badSys = c.badSys := rfl
@[simp] theorem flag_merged (c : Ctx) (w : Word) : (c.flag w).merged = c.merged := rfl
@[simp] theorem flag_late (c : Ctx) (w : Word) : (c.flag w).late = c.late := rfl
@[simp] theorem flag_fill (c : Ctx) (w : Word) : (c.flag w).fill = c.fill := rfl
@[simp] theorem flag_rel (c : Ctx) (w : Word) : (c.flag w).rel = c.rel := rfl
@[simp] theorem flag_reads (c : Ctx) (w : Word) : (c.flag w).reads = c.reads := rfl
@[simp] theorem flag_due (c : Ctx) (w : Word) : (c.flag w).due = c.due := rfl
@[simp] theorem flag_seqs (c : Ctx) (w : Word) : (c.flag w).seqs = c.seqs := rfl
@[simp] theorem flag_drains (c : Ctx) (w : Word) : (c.flag w).drains = c.drains := rfl
@[simp] theorem flag_step (c : Ctx) (w : Word) : (c.flag w).step = c.step := rfl
@[simp] theorem goto_x (c : Ctx) (a : Nat) : (c.goto a).x = c.x := rfl
@[simp] theorem stepTo_x (c : Ctx) (a : Nat) : (c.stepTo a).x = c.x := rfl
@[simp] theorem goto_v (c : Ctx) (a : Nat) : (c.goto a).v = c.v := rfl
@[simp] theorem stepTo_v (c : Ctx) (a : Nat) : (c.stepTo a).v = c.v := rfl
@[simp] theorem goto_k (c : Ctx) (a : Nat) : (c.goto a).k = c.k := rfl
@[simp] theorem stepTo_k (c : Ctx) (a : Nat) : (c.stepTo a).k = c.k := rfl
@[simp] theorem goto_fctxB (c : Ctx) (a : Nat) : (c.goto a).fctxB = c.fctxB := rfl
@[simp] theorem stepTo_fctxB (c : Ctx) (a : Nat) : (c.stepTo a).fctxB = c.fctxB := rfl
@[simp] theorem goto_fctxS (c : Ctx) (a : Nat) : (c.goto a).fctxS = c.fctxS := rfl
@[simp] theorem stepTo_fctxS (c : Ctx) (a : Nat) : (c.stepTo a).fctxS = c.fctxS := rfl
@[simp] theorem goto_scptrB (c : Ctx) (a : Nat) : (c.goto a).scptrB = c.scptrB := rfl
@[simp] theorem stepTo_scptrB (c : Ctx) (a : Nat) : (c.stepTo a).scptrB = c.scptrB := rfl
@[simp] theorem goto_scptrS (c : Ctx) (a : Nat) : (c.goto a).scptrS = c.scptrS := rfl
@[simp] theorem stepTo_scptrS (c : Ctx) (a : Nat) : (c.stepTo a).scptrS = c.scptrS := rfl
@[simp] theorem goto_shadow (c : Ctx) (a : Nat) : (c.goto a).shadow = c.shadow := rfl
@[simp] theorem stepTo_shadow (c : Ctx) (a : Nat) : (c.stepTo a).shadow = c.shadow := rfl
@[simp] theorem goto_fstat (c : Ctx) (a : Nat) : (c.goto a).fstat = c.fstat := rfl
@[simp] theorem stepTo_fstat (c : Ctx) (a : Nat) : (c.stepTo a).fstat = c.fstat := rfl
@[simp] theorem goto_ctxid (c : Ctx) (a : Nat) : (c.goto a).ctxid = c.ctxid := rfl
@[simp] theorem stepTo_ctxid (c : Ctx) (a : Nat) : (c.stepTo a).ctxid = c.ctxid := rfl
@[simp] theorem goto_lcore (c : Ctx) (a : Nat) : (c.goto a).lcore = c.lcore := rfl
@[simp] theorem stepTo_lcore (c : Ctx) (a : Nat) : (c.stepTo a).lcore = c.lcore := rfl
@[simp] theorem goto_stage (c : Ctx) (a : Nat) : (c.goto a).stage = c.stage := rfl
@[simp] theorem stepTo_stage (c : Ctx) (a : Nat) : (c.stepTo a).stage = c.stage := rfl
@[simp] theorem goto_taskf (c : Ctx) (a : Nat) : (c.goto a).taskf = c.taskf := rfl
@[simp] theorem stepTo_taskf (c : Ctx) (a : Nat) : (c.stepTo a).taskf = c.taskf := rfl
@[simp] theorem goto_priv (c : Ctx) (a : Nat) : (c.goto a).priv = c.priv := rfl
@[simp] theorem stepTo_priv (c : Ctx) (a : Nat) : (c.stepTo a).priv = c.priv := rfl
@[simp] theorem goto_epc (c : Ctx) (a : Nat) : (c.goto a).epc = c.epc := rfl
@[simp] theorem stepTo_epc (c : Ctx) (a : Nat) : (c.stepTo a).epc = c.epc := rfl
@[simp] theorem goto_ecause (c : Ctx) (a : Nat) : (c.goto a).ecause = c.ecause := rfl
@[simp] theorem stepTo_ecause (c : Ctx) (a : Nat) : (c.stepTo a).ecause = c.ecause := rfl
@[simp] theorem goto_eval (c : Ctx) (a : Nat) : (c.goto a).eval = c.eval := rfl
@[simp] theorem stepTo_eval (c : Ctx) (a : Nat) : (c.stepTo a).eval = c.eval := rfl
@[simp] theorem goto_tvec (c : Ctx) (a : Nat) : (c.goto a).tvec = c.tvec := rfl
@[simp] theorem stepTo_tvec (c : Ctx) (a : Nat) : (c.stepTo a).tvec = c.tvec := rfl
@[simp] theorem goto_asid (c : Ctx) (a : Nat) : (c.goto a).asid = c.asid := rfl
@[simp] theorem stepTo_asid (c : Ctx) (a : Nat) : (c.stepTo a).asid = c.asid := rfl
@[simp] theorem goto_buf (c : Ctx) (a : Nat) : (c.goto a).buf = c.buf := rfl
@[simp] theorem stepTo_buf (c : Ctx) (a : Nat) : (c.stepTo a).buf = c.buf := rfl
@[simp] theorem goto_run (c : Ctx) (a : Nat) : (c.goto a).run = c.run := rfl
@[simp] theorem stepTo_run (c : Ctx) (a : Nat) : (c.stepTo a).run = c.run := rfl
@[simp] theorem goto_why (c : Ctx) (a : Nat) : (c.goto a).why = c.why := rfl
@[simp] theorem stepTo_why (c : Ctx) (a : Nat) : (c.stepTo a).why = c.why := rfl
@[simp] theorem goto_lastIssue (c : Ctx) (a : Nat) : (c.goto a).lastIssue = c.lastIssue := rfl
@[simp] theorem stepTo_lastIssue (c : Ctx) (a : Nat) : (c.stepTo a).lastIssue = c.lastIssue := rfl
@[simp] theorem goto_eligFrom (c : Ctx) (a : Nat) : (c.goto a).eligFrom = c.eligFrom := rfl
@[simp] theorem stepTo_eligFrom (c : Ctx) (a : Nat) : (c.stepTo a).eligFrom = c.eligFrom := rfl
@[simp] theorem goto_intv (c : Ctx) (a : Nat) : (c.goto a).intv = c.intv := rfl
@[simp] theorem stepTo_intv (c : Ctx) (a : Nat) : (c.stepTo a).intv = c.intv := rfl
@[simp] theorem goto_entry (c : Ctx) (a : Nat) : (c.goto a).entry = c.entry := rfl
@[simp] theorem stepTo_entry (c : Ctx) (a : Nat) : (c.stepTo a).entry = c.entry := rfl
@[simp] theorem goto_pendf (c : Ctx) (a : Nat) : (c.goto a).pendf = c.pendf := rfl
@[simp] theorem stepTo_pendf (c : Ctx) (a : Nat) : (c.stepTo a).pendf = c.pendf := rfl
@[simp] theorem goto_resume (c : Ctx) (a : Nat) : (c.goto a).resume = c.resume := rfl
@[simp] theorem stepTo_resume (c : Ctx) (a : Nat) : (c.stepTo a).resume = c.resume := rfl
@[simp] theorem goto_armed (c : Ctx) (a : Nat) : (c.goto a).armed = c.armed := rfl
@[simp] theorem stepTo_armed (c : Ctx) (a : Nat) : (c.stepTo a).armed = c.armed := rfl
@[simp] theorem goto_latent (c : Ctx) (a : Nat) : (c.goto a).latent = c.latent := rfl
@[simp] theorem stepTo_latent (c : Ctx) (a : Nat) : (c.stepTo a).latent = c.latent := rfl
@[simp] theorem goto_reaping (c : Ctx) (a : Nat) : (c.goto a).reaping = c.reaping := rfl
@[simp] theorem stepTo_reaping (c : Ctx) (a : Nat) : (c.stepTo a).reaping = c.reaping := rfl
@[simp] theorem goto_taken (c : Ctx) (a : Nat) : (c.goto a).taken = c.taken := rfl
@[simp] theorem stepTo_taken (c : Ctx) (a : Nat) : (c.stepTo a).taken = c.taken := rfl
@[simp] theorem goto_undo (c : Ctx) (a : Nat) : (c.goto a).undo = c.undo := rfl
@[simp] theorem stepTo_undo (c : Ctx) (a : Nat) : (c.stepTo a).undo = c.undo := rfl
@[simp] theorem goto_asyncs (c : Ctx) (a : Nat) : (c.goto a).asyncs = c.asyncs := rfl
@[simp] theorem stepTo_asyncs (c : Ctx) (a : Nat) : (c.stepTo a).asyncs = c.asyncs := rfl
@[simp] theorem goto_walkFail (c : Ctx) (a : Nat) : (c.goto a).walkFail = c.walkFail := rfl
@[simp] theorem stepTo_walkFail (c : Ctx) (a : Nat) : (c.stepTo a).walkFail = c.walkFail := rfl
@[simp] theorem goto_got (c : Ctx) (a : Nat) : (c.goto a).got = c.got := rfl
@[simp] theorem stepTo_got (c : Ctx) (a : Nat) : (c.stepTo a).got = c.got := rfl
@[simp] theorem goto_gotTags (c : Ctx) (a : Nat) : (c.goto a).gotTags = c.gotTags := rfl
@[simp] theorem stepTo_gotTags (c : Ctx) (a : Nat) : (c.stepTo a).gotTags = c.gotTags := rfl
@[simp] theorem goto_bad (c : Ctx) (a : Nat) : (c.goto a).bad = c.bad := rfl
@[simp] theorem stepTo_bad (c : Ctx) (a : Nat) : (c.stepTo a).bad = c.bad := rfl
@[simp] theorem goto_badSys (c : Ctx) (a : Nat) : (c.goto a).badSys = c.badSys := rfl
@[simp] theorem stepTo_badSys (c : Ctx) (a : Nat) : (c.stepTo a).badSys = c.badSys := rfl
@[simp] theorem goto_merged (c : Ctx) (a : Nat) : (c.goto a).merged = c.merged := rfl
@[simp] theorem stepTo_merged (c : Ctx) (a : Nat) : (c.stepTo a).merged = c.merged := rfl
@[simp] theorem goto_late (c : Ctx) (a : Nat) : (c.goto a).late = c.late := rfl
@[simp] theorem stepTo_late (c : Ctx) (a : Nat) : (c.stepTo a).late = c.late := rfl
@[simp] theorem goto_fill (c : Ctx) (a : Nat) : (c.goto a).fill = c.fill := rfl
@[simp] theorem stepTo_fill (c : Ctx) (a : Nat) : (c.stepTo a).fill = c.fill := rfl
@[simp] theorem goto_rel (c : Ctx) (a : Nat) : (c.goto a).rel = c.rel := rfl
@[simp] theorem stepTo_rel (c : Ctx) (a : Nat) : (c.stepTo a).rel = c.rel := rfl
@[simp] theorem goto_reads (c : Ctx) (a : Nat) : (c.goto a).reads = c.reads := rfl
@[simp] theorem stepTo_reads (c : Ctx) (a : Nat) : (c.stepTo a).reads = c.reads := rfl
@[simp] theorem goto_due (c : Ctx) (a : Nat) : (c.goto a).due = c.due := rfl
@[simp] theorem stepTo_due (c : Ctx) (a : Nat) : (c.stepTo a).due = c.due := rfl
@[simp] theorem goto_seqs (c : Ctx) (a : Nat) : (c.goto a).seqs = c.seqs := rfl
@[simp] theorem stepTo_seqs (c : Ctx) (a : Nat) : (c.stepTo a).seqs = c.seqs := rfl
@[simp] theorem goto_drains (c : Ctx) (a : Nat) : (c.goto a).drains = c.drains := rfl
@[simp] theorem stepTo_drains (c : Ctx) (a : Nat) : (c.stepTo a).drains = c.drains := rfl
@[simp] theorem goto_step (c : Ctx) (a : Nat) : (c.goto a).step = c.step := rfl
@[simp] theorem stepTo_step (c : Ctx) (a : Nat) : (c.stepTo a).step = c.step := rfl

/-! ## Updates of the state, field by field -/

@[simp] theorem setCtx_mem (s : State) (c : Nat) (x : Ctx) : (s.setCtx c x).mem = s.mem := rfl
@[simp] theorem setCtx_empties (s : State) (c : Nat) (x : Ctx) : (s.setCtx c x).empties = s.empties := rfl
@[simp] theorem setCtx_poison (s : State) (c : Nat) (x : Ctx) : (s.setCtx c x).poison = s.poison := rfl
@[simp] theorem setCtx_cells (s : State) (c : Nat) (x : Ctx) : (s.setCtx c x).cells = s.cells := rfl
@[simp] theorem setCtx_pages (s : State) (c : Nat) (x : Ctx) : (s.setCtx c x).pages = s.pages := rfl
@[simp] theorem setCtx_cores (s : State) (c : Nat) (x : Ctx) : (s.setCtx c x).cores = s.cores := rfl
@[simp] theorem setCtx_clus (s : State) (c : Nat) (x : Ctx) : (s.setCtx c x).clus = s.clus := rfl
@[simp] theorem setCtx_rdy (s : State) (c : Nat) (x : Ctx) : (s.setCtx c x).rdy = s.rdy := rfl
@[simp] theorem setCtx_rdySeen (s : State) (c : Nat) (x : Ctx) : (s.setCtx c x).rdySeen = s.rdySeen := rfl
@[simp] theorem setCtx_rdyNew (s : State) (c : Nat) (x : Ctx) : (s.setCtx c x).rdyNew = s.rdyNew := rfl
@[simp] theorem setCtx_parts (s : State) (c : Nat) (x : Ctx) : (s.setCtx c x).parts = s.parts := rfl
@[simp] theorem setCtx_pkg (s : State) (c : Nat) (x : Ctx) : (s.setCtx c x).pkg = s.pkg := rfl
@[simp] theorem setCtx_groupN (s : State) (c : Nat) (x : Ctx) : (s.setCtx c x).groupN = s.groupN := rfl
@[simp] theorem setCtx_sleepers (s : State) (c : Nat) (x : Ctx) : (s.setCtx c x).sleepers = s.sleepers := rfl
@[simp] theorem setCtx_entryWait (s : State) (c : Nat) (x : Ctx) : (s.setCtx c x).entryWait = s.entryWait := rfl
@[simp] theorem setCtx_launches (s : State) (c : Nat) (x : Ctx) : (s.setCtx c x).launches = s.launches := rfl
@[simp] theorem setCtx_nLaunch (s : State) (c : Nat) (x : Ctx) : (s.setCtx c x).nLaunch = s.nLaunch := rfl
@[simp] theorem setCtx_stackRings (s : State) (c : Nat) (x : Ctx) : (s.setCtx c x).stackRings = s.stackRings := rfl
@[simp] theorem setCtx_meshRings (s : State) (c : Nat) (x : Ctx) : (s.setCtx c x).meshRings = s.meshRings := rfl
@[simp] theorem setCtx_siteRings (s : State) (c : Nat) (x : Ctx) : (s.setCtx c x).siteRings = s.siteRings := rfl
@[simp] theorem setCtx_links (s : State) (c : Nat) (x : Ctx) : (s.setCtx c x).links = s.links := rfl
@[simp] theorem setCtx_powerCap (s : State) (c : Nat) (x : Ctx) : (s.setCtx c x).powerCap = s.powerCap := rfl
@[simp] theorem setCtx_power (s : State) (c : Nat) (x : Ctx) : (s.setCtx c x).power = s.power := rfl
@[simp] theorem setCtx_funcs (s : State) (c : Nat) (x : Ctx) : (s.setCtx c x).funcs = s.funcs := rfl
@[simp] theorem setCtx_cols (s : State) (c : Nat) (x : Ctx) : (s.setCtx c x).cols = s.cols := rfl
@[simp] theorem setCtx_ports (s : State) (c : Nat) (x : Ctx) : (s.setCtx c x).ports = s.ports := rfl
@[simp] theorem setCtx_outFlits (s : State) (c : Nat) (x : Ctx) : (s.setCtx c x).outFlits = s.outFlits := rfl
@[simp] theorem setCtx_flitSeq (s : State) (c : Nat) (x : Ctx) : (s.setCtx c x).flitSeq = s.flitSeq := rfl
@[simp] theorem setCtx_enlSeen (s : State) (c : Nat) (x : Ctx) : (s.setCtx c x).enlSeen = s.enlSeen := rfl
@[simp] theorem setCtx_enlRefused (s : State) (c : Nat) (x : Ctx) : (s.setCtx c x).enlRefused = s.enlRefused := rfl
@[simp] theorem setCtx_msgOut (s : State) (c : Nat) (x : Ctx) : (s.setCtx c x).msgOut = s.msgOut := rfl
@[simp] theorem setCtx_msgIn (s : State) (c : Nat) (x : Ctx) : (s.setCtx c x).msgIn = s.msgIn := rfl
@[simp] theorem setCtx_slots (s : State) (c : Nat) (x : Ctx) : (s.setCtx c x).slots = s.slots := rfl
@[simp] theorem setCtx_scrubAt (s : State) (c : Nat) (x : Ctx) : (s.setCtx c x).scrubAt = s.scrubAt := rfl
@[simp] theorem setCtx_light (s : State) (c : Nat) (x : Ctx) : (s.setCtx c x).light = s.light := rfl
@[simp] theorem setCtx_mgmt (s : State) (c : Nat) (x : Ctx) : (s.setCtx c x).mgmt = s.mgmt := rfl
@[simp] theorem setCtx_wtags (s : State) (c : Nat) (x : Ctx) : (s.setCtx c x).wtags = s.wtags := rfl
@[simp] theorem setCtx_stamp (s : State) (c : Nat) (x : Ctx) : (s.setCtx c x).stamp = s.stamp := rfl
@[simp] theorem setCtx_cycle (s : State) (c : Nat) (x : Ctx) : (s.setCtx c x).cycle = s.cycle := rfl
@[simp] theorem setCtx_agenda (s : State) (c : Nat) (x : Ctx) : (s.setCtx c x).agenda = s.agenda := rfl
@[simp] theorem setCtx_turn (s : State) (c : Nat) (x : Ctx) : (s.setCtx c x).turn = s.turn := rfl
@[simp] theorem setCtx_first (s : State) (c : Nat) (x : Ctx) : (s.setCtx c x).first = s.first := rfl
@[simp] theorem setCtx_cur (s : State) (c : Nat) (x : Ctx) : (s.setCtx c x).cur = s.cur := rfl
@[simp] theorem setCtx_pairing (s : State) (c : Nat) (x : Ctx) : (s.setCtx c x).pairing = s.pairing := rfl
@[simp] theorem setCtx_mark (s : State) (c : Nat) (x : Ctx) : (s.setCtx c x).mark = s.mark := rfl
@[simp] theorem setCtx_free (s : State) (c : Nat) (x : Ctx) : (s.setCtx c x).free = s.free := rfl
@[simp] theorem setMe_mem (s : State) (x : Ctx) : (s.setMe x).mem = s.mem := rfl
@[simp] theorem setMe_empties (s : State) (x : Ctx) : (s.setMe x).empties = s.empties := rfl
@[simp] theorem setMe_poison (s : State) (x : Ctx) : (s.setMe x).poison = s.poison := rfl
@[simp] theorem setMe_cells (s : State) (x : Ctx) : (s.setMe x).cells = s.cells := rfl
@[simp] theorem setMe_pages (s : State) (x : Ctx) : (s.setMe x).pages = s.pages := rfl
@[simp] theorem setMe_cores (s : State) (x : Ctx) : (s.setMe x).cores = s.cores := rfl
@[simp] theorem setMe_clus (s : State) (x : Ctx) : (s.setMe x).clus = s.clus := rfl
@[simp] theorem setMe_rdy (s : State) (x : Ctx) : (s.setMe x).rdy = s.rdy := rfl
@[simp] theorem setMe_rdySeen (s : State) (x : Ctx) : (s.setMe x).rdySeen = s.rdySeen := rfl
@[simp] theorem setMe_rdyNew (s : State) (x : Ctx) : (s.setMe x).rdyNew = s.rdyNew := rfl
@[simp] theorem setMe_parts (s : State) (x : Ctx) : (s.setMe x).parts = s.parts := rfl
@[simp] theorem setMe_pkg (s : State) (x : Ctx) : (s.setMe x).pkg = s.pkg := rfl
@[simp] theorem setMe_groupN (s : State) (x : Ctx) : (s.setMe x).groupN = s.groupN := rfl
@[simp] theorem setMe_sleepers (s : State) (x : Ctx) : (s.setMe x).sleepers = s.sleepers := rfl
@[simp] theorem setMe_entryWait (s : State) (x : Ctx) : (s.setMe x).entryWait = s.entryWait := rfl
@[simp] theorem setMe_launches (s : State) (x : Ctx) : (s.setMe x).launches = s.launches := rfl
@[simp] theorem setMe_nLaunch (s : State) (x : Ctx) : (s.setMe x).nLaunch = s.nLaunch := rfl
@[simp] theorem setMe_stackRings (s : State) (x : Ctx) : (s.setMe x).stackRings = s.stackRings := rfl
@[simp] theorem setMe_meshRings (s : State) (x : Ctx) : (s.setMe x).meshRings = s.meshRings := rfl
@[simp] theorem setMe_siteRings (s : State) (x : Ctx) : (s.setMe x).siteRings = s.siteRings := rfl
@[simp] theorem setMe_links (s : State) (x : Ctx) : (s.setMe x).links = s.links := rfl
@[simp] theorem setMe_powerCap (s : State) (x : Ctx) : (s.setMe x).powerCap = s.powerCap := rfl
@[simp] theorem setMe_power (s : State) (x : Ctx) : (s.setMe x).power = s.power := rfl
@[simp] theorem setMe_funcs (s : State) (x : Ctx) : (s.setMe x).funcs = s.funcs := rfl
@[simp] theorem setMe_cols (s : State) (x : Ctx) : (s.setMe x).cols = s.cols := rfl
@[simp] theorem setMe_ports (s : State) (x : Ctx) : (s.setMe x).ports = s.ports := rfl
@[simp] theorem setMe_outFlits (s : State) (x : Ctx) : (s.setMe x).outFlits = s.outFlits := rfl
@[simp] theorem setMe_flitSeq (s : State) (x : Ctx) : (s.setMe x).flitSeq = s.flitSeq := rfl
@[simp] theorem setMe_enlSeen (s : State) (x : Ctx) : (s.setMe x).enlSeen = s.enlSeen := rfl
@[simp] theorem setMe_enlRefused (s : State) (x : Ctx) : (s.setMe x).enlRefused = s.enlRefused := rfl
@[simp] theorem setMe_msgOut (s : State) (x : Ctx) : (s.setMe x).msgOut = s.msgOut := rfl
@[simp] theorem setMe_msgIn (s : State) (x : Ctx) : (s.setMe x).msgIn = s.msgIn := rfl
@[simp] theorem setMe_slots (s : State) (x : Ctx) : (s.setMe x).slots = s.slots := rfl
@[simp] theorem setMe_scrubAt (s : State) (x : Ctx) : (s.setMe x).scrubAt = s.scrubAt := rfl
@[simp] theorem setMe_light (s : State) (x : Ctx) : (s.setMe x).light = s.light := rfl
@[simp] theorem setMe_mgmt (s : State) (x : Ctx) : (s.setMe x).mgmt = s.mgmt := rfl
@[simp] theorem setMe_wtags (s : State) (x : Ctx) : (s.setMe x).wtags = s.wtags := rfl
@[simp] theorem setMe_stamp (s : State) (x : Ctx) : (s.setMe x).stamp = s.stamp := rfl
@[simp] theorem setMe_cycle (s : State) (x : Ctx) : (s.setMe x).cycle = s.cycle := rfl
@[simp] theorem setMe_agenda (s : State) (x : Ctx) : (s.setMe x).agenda = s.agenda := rfl
@[simp] theorem setMe_turn (s : State) (x : Ctx) : (s.setMe x).turn = s.turn := rfl
@[simp] theorem setMe_first (s : State) (x : Ctx) : (s.setMe x).first = s.first := rfl
@[simp] theorem setMe_cur (s : State) (x : Ctx) : (s.setMe x).cur = s.cur := rfl
@[simp] theorem setMe_pairing (s : State) (x : Ctx) : (s.setMe x).pairing = s.pairing := rfl
@[simp] theorem setMe_mark (s : State) (x : Ctx) : (s.setMe x).mark = s.mark := rfl
@[simp] theorem setMe_free (s : State) (x : Ctx) : (s.setMe x).free = s.free := rfl
@[simp] theorem mapCtx_mem (s : State) (c : Nat) (f : Ctx → Ctx) : (s.mapCtx c f).mem = s.mem := rfl
@[simp] theorem mapCtx_empties (s : State) (c : Nat) (f : Ctx → Ctx) : (s.mapCtx c f).empties = s.empties := rfl
@[simp] theorem mapCtx_poison (s : State) (c : Nat) (f : Ctx → Ctx) : (s.mapCtx c f).poison = s.poison := rfl
@[simp] theorem mapCtx_cells (s : State) (c : Nat) (f : Ctx → Ctx) : (s.mapCtx c f).cells = s.cells := rfl
@[simp] theorem mapCtx_pages (s : State) (c : Nat) (f : Ctx → Ctx) : (s.mapCtx c f).pages = s.pages := rfl
@[simp] theorem mapCtx_cores (s : State) (c : Nat) (f : Ctx → Ctx) : (s.mapCtx c f).cores = s.cores := rfl
@[simp] theorem mapCtx_clus (s : State) (c : Nat) (f : Ctx → Ctx) : (s.mapCtx c f).clus = s.clus := rfl
@[simp] theorem mapCtx_rdy (s : State) (c : Nat) (f : Ctx → Ctx) : (s.mapCtx c f).rdy = s.rdy := rfl
@[simp] theorem mapCtx_rdySeen (s : State) (c : Nat) (f : Ctx → Ctx) : (s.mapCtx c f).rdySeen = s.rdySeen := rfl
@[simp] theorem mapCtx_rdyNew (s : State) (c : Nat) (f : Ctx → Ctx) : (s.mapCtx c f).rdyNew = s.rdyNew := rfl
@[simp] theorem mapCtx_parts (s : State) (c : Nat) (f : Ctx → Ctx) : (s.mapCtx c f).parts = s.parts := rfl
@[simp] theorem mapCtx_pkg (s : State) (c : Nat) (f : Ctx → Ctx) : (s.mapCtx c f).pkg = s.pkg := rfl
@[simp] theorem mapCtx_groupN (s : State) (c : Nat) (f : Ctx → Ctx) : (s.mapCtx c f).groupN = s.groupN := rfl
@[simp] theorem mapCtx_sleepers (s : State) (c : Nat) (f : Ctx → Ctx) : (s.mapCtx c f).sleepers = s.sleepers := rfl
@[simp] theorem mapCtx_entryWait (s : State) (c : Nat) (f : Ctx → Ctx) : (s.mapCtx c f).entryWait = s.entryWait := rfl
@[simp] theorem mapCtx_launches (s : State) (c : Nat) (f : Ctx → Ctx) : (s.mapCtx c f).launches = s.launches := rfl
@[simp] theorem mapCtx_nLaunch (s : State) (c : Nat) (f : Ctx → Ctx) : (s.mapCtx c f).nLaunch = s.nLaunch := rfl
@[simp] theorem mapCtx_stackRings (s : State) (c : Nat) (f : Ctx → Ctx) : (s.mapCtx c f).stackRings = s.stackRings := rfl
@[simp] theorem mapCtx_meshRings (s : State) (c : Nat) (f : Ctx → Ctx) : (s.mapCtx c f).meshRings = s.meshRings := rfl
@[simp] theorem mapCtx_siteRings (s : State) (c : Nat) (f : Ctx → Ctx) : (s.mapCtx c f).siteRings = s.siteRings := rfl
@[simp] theorem mapCtx_links (s : State) (c : Nat) (f : Ctx → Ctx) : (s.mapCtx c f).links = s.links := rfl
@[simp] theorem mapCtx_powerCap (s : State) (c : Nat) (f : Ctx → Ctx) : (s.mapCtx c f).powerCap = s.powerCap := rfl
@[simp] theorem mapCtx_power (s : State) (c : Nat) (f : Ctx → Ctx) : (s.mapCtx c f).power = s.power := rfl
@[simp] theorem mapCtx_funcs (s : State) (c : Nat) (f : Ctx → Ctx) : (s.mapCtx c f).funcs = s.funcs := rfl
@[simp] theorem mapCtx_cols (s : State) (c : Nat) (f : Ctx → Ctx) : (s.mapCtx c f).cols = s.cols := rfl
@[simp] theorem mapCtx_ports (s : State) (c : Nat) (f : Ctx → Ctx) : (s.mapCtx c f).ports = s.ports := rfl
@[simp] theorem mapCtx_outFlits (s : State) (c : Nat) (f : Ctx → Ctx) : (s.mapCtx c f).outFlits = s.outFlits := rfl
@[simp] theorem mapCtx_flitSeq (s : State) (c : Nat) (f : Ctx → Ctx) : (s.mapCtx c f).flitSeq = s.flitSeq := rfl
@[simp] theorem mapCtx_enlSeen (s : State) (c : Nat) (f : Ctx → Ctx) : (s.mapCtx c f).enlSeen = s.enlSeen := rfl
@[simp] theorem mapCtx_enlRefused (s : State) (c : Nat) (f : Ctx → Ctx) : (s.mapCtx c f).enlRefused = s.enlRefused := rfl
@[simp] theorem mapCtx_msgOut (s : State) (c : Nat) (f : Ctx → Ctx) : (s.mapCtx c f).msgOut = s.msgOut := rfl
@[simp] theorem mapCtx_msgIn (s : State) (c : Nat) (f : Ctx → Ctx) : (s.mapCtx c f).msgIn = s.msgIn := rfl
@[simp] theorem mapCtx_slots (s : State) (c : Nat) (f : Ctx → Ctx) : (s.mapCtx c f).slots = s.slots := rfl
@[simp] theorem mapCtx_scrubAt (s : State) (c : Nat) (f : Ctx → Ctx) : (s.mapCtx c f).scrubAt = s.scrubAt := rfl
@[simp] theorem mapCtx_light (s : State) (c : Nat) (f : Ctx → Ctx) : (s.mapCtx c f).light = s.light := rfl
@[simp] theorem mapCtx_mgmt (s : State) (c : Nat) (f : Ctx → Ctx) : (s.mapCtx c f).mgmt = s.mgmt := rfl
@[simp] theorem mapCtx_wtags (s : State) (c : Nat) (f : Ctx → Ctx) : (s.mapCtx c f).wtags = s.wtags := rfl
@[simp] theorem mapCtx_stamp (s : State) (c : Nat) (f : Ctx → Ctx) : (s.mapCtx c f).stamp = s.stamp := rfl
@[simp] theorem mapCtx_cycle (s : State) (c : Nat) (f : Ctx → Ctx) : (s.mapCtx c f).cycle = s.cycle := rfl
@[simp] theorem mapCtx_agenda (s : State) (c : Nat) (f : Ctx → Ctx) : (s.mapCtx c f).agenda = s.agenda := rfl
@[simp] theorem mapCtx_turn (s : State) (c : Nat) (f : Ctx → Ctx) : (s.mapCtx c f).turn = s.turn := rfl
@[simp] theorem mapCtx_first (s : State) (c : Nat) (f : Ctx → Ctx) : (s.mapCtx c f).first = s.first := rfl
@[simp] theorem mapCtx_cur (s : State) (c : Nat) (f : Ctx → Ctx) : (s.mapCtx c f).cur = s.cur := rfl
@[simp] theorem mapCtx_pairing (s : State) (c : Nat) (f : Ctx → Ctx) : (s.mapCtx c f).pairing = s.pairing := rfl
@[simp] theorem mapCtx_mark (s : State) (c : Nat) (f : Ctx → Ctx) : (s.mapCtx c f).mark = s.mark := rfl
@[simp] theorem mapCtx_free (s : State) (c : Nat) (f : Ctx → Ctx) : (s.mapCtx c f).free = s.free := rfl
@[simp] theorem mapMe_mem (s : State) (f : Ctx → Ctx) : (s.mapMe f).mem = s.mem := rfl
@[simp] theorem mapMe_empties (s : State) (f : Ctx → Ctx) : (s.mapMe f).empties = s.empties := rfl
@[simp] theorem mapMe_poison (s : State) (f : Ctx → Ctx) : (s.mapMe f).poison = s.poison := rfl
@[simp] theorem mapMe_cells (s : State) (f : Ctx → Ctx) : (s.mapMe f).cells = s.cells := rfl
@[simp] theorem mapMe_pages (s : State) (f : Ctx → Ctx) : (s.mapMe f).pages = s.pages := rfl
@[simp] theorem mapMe_cores (s : State) (f : Ctx → Ctx) : (s.mapMe f).cores = s.cores := rfl
@[simp] theorem mapMe_clus (s : State) (f : Ctx → Ctx) : (s.mapMe f).clus = s.clus := rfl
@[simp] theorem mapMe_rdy (s : State) (f : Ctx → Ctx) : (s.mapMe f).rdy = s.rdy := rfl
@[simp] theorem mapMe_rdySeen (s : State) (f : Ctx → Ctx) : (s.mapMe f).rdySeen = s.rdySeen := rfl
@[simp] theorem mapMe_rdyNew (s : State) (f : Ctx → Ctx) : (s.mapMe f).rdyNew = s.rdyNew := rfl
@[simp] theorem mapMe_parts (s : State) (f : Ctx → Ctx) : (s.mapMe f).parts = s.parts := rfl
@[simp] theorem mapMe_pkg (s : State) (f : Ctx → Ctx) : (s.mapMe f).pkg = s.pkg := rfl
@[simp] theorem mapMe_groupN (s : State) (f : Ctx → Ctx) : (s.mapMe f).groupN = s.groupN := rfl
@[simp] theorem mapMe_sleepers (s : State) (f : Ctx → Ctx) : (s.mapMe f).sleepers = s.sleepers := rfl
@[simp] theorem mapMe_entryWait (s : State) (f : Ctx → Ctx) : (s.mapMe f).entryWait = s.entryWait := rfl
@[simp] theorem mapMe_launches (s : State) (f : Ctx → Ctx) : (s.mapMe f).launches = s.launches := rfl
@[simp] theorem mapMe_nLaunch (s : State) (f : Ctx → Ctx) : (s.mapMe f).nLaunch = s.nLaunch := rfl
@[simp] theorem mapMe_stackRings (s : State) (f : Ctx → Ctx) : (s.mapMe f).stackRings = s.stackRings := rfl
@[simp] theorem mapMe_meshRings (s : State) (f : Ctx → Ctx) : (s.mapMe f).meshRings = s.meshRings := rfl
@[simp] theorem mapMe_siteRings (s : State) (f : Ctx → Ctx) : (s.mapMe f).siteRings = s.siteRings := rfl
@[simp] theorem mapMe_links (s : State) (f : Ctx → Ctx) : (s.mapMe f).links = s.links := rfl
@[simp] theorem mapMe_powerCap (s : State) (f : Ctx → Ctx) : (s.mapMe f).powerCap = s.powerCap := rfl
@[simp] theorem mapMe_power (s : State) (f : Ctx → Ctx) : (s.mapMe f).power = s.power := rfl
@[simp] theorem mapMe_funcs (s : State) (f : Ctx → Ctx) : (s.mapMe f).funcs = s.funcs := rfl
@[simp] theorem mapMe_cols (s : State) (f : Ctx → Ctx) : (s.mapMe f).cols = s.cols := rfl
@[simp] theorem mapMe_ports (s : State) (f : Ctx → Ctx) : (s.mapMe f).ports = s.ports := rfl
@[simp] theorem mapMe_outFlits (s : State) (f : Ctx → Ctx) : (s.mapMe f).outFlits = s.outFlits := rfl
@[simp] theorem mapMe_flitSeq (s : State) (f : Ctx → Ctx) : (s.mapMe f).flitSeq = s.flitSeq := rfl
@[simp] theorem mapMe_enlSeen (s : State) (f : Ctx → Ctx) : (s.mapMe f).enlSeen = s.enlSeen := rfl
@[simp] theorem mapMe_enlRefused (s : State) (f : Ctx → Ctx) : (s.mapMe f).enlRefused = s.enlRefused := rfl
@[simp] theorem mapMe_msgOut (s : State) (f : Ctx → Ctx) : (s.mapMe f).msgOut = s.msgOut := rfl
@[simp] theorem mapMe_msgIn (s : State) (f : Ctx → Ctx) : (s.mapMe f).msgIn = s.msgIn := rfl
@[simp] theorem mapMe_slots (s : State) (f : Ctx → Ctx) : (s.mapMe f).slots = s.slots := rfl
@[simp] theorem mapMe_scrubAt (s : State) (f : Ctx → Ctx) : (s.mapMe f).scrubAt = s.scrubAt := rfl
@[simp] theorem mapMe_light (s : State) (f : Ctx → Ctx) : (s.mapMe f).light = s.light := rfl
@[simp] theorem mapMe_mgmt (s : State) (f : Ctx → Ctx) : (s.mapMe f).mgmt = s.mgmt := rfl
@[simp] theorem mapMe_wtags (s : State) (f : Ctx → Ctx) : (s.mapMe f).wtags = s.wtags := rfl
@[simp] theorem mapMe_stamp (s : State) (f : Ctx → Ctx) : (s.mapMe f).stamp = s.stamp := rfl
@[simp] theorem mapMe_cycle (s : State) (f : Ctx → Ctx) : (s.mapMe f).cycle = s.cycle := rfl
@[simp] theorem mapMe_agenda (s : State) (f : Ctx → Ctx) : (s.mapMe f).agenda = s.agenda := rfl
@[simp] theorem mapMe_turn (s : State) (f : Ctx → Ctx) : (s.mapMe f).turn = s.turn := rfl
@[simp] theorem mapMe_first (s : State) (f : Ctx → Ctx) : (s.mapMe f).first = s.first := rfl
@[simp] theorem mapMe_cur (s : State) (f : Ctx → Ctx) : (s.mapMe f).cur = s.cur := rfl
@[simp] theorem mapMe_pairing (s : State) (f : Ctx → Ctx) : (s.mapMe f).pairing = s.pairing := rfl
@[simp] theorem mapMe_mark (s : State) (f : Ctx → Ctx) : (s.mapMe f).mark = s.mark := rfl
@[simp] theorem mapMe_free (s : State) (f : Ctx → Ctx) : (s.mapMe f).free = s.free := rfl
@[simp] theorem setCore_mem (s : State) (n : Nat) (x : Core) : (s.setCore n x).mem = s.mem := rfl
@[simp] theorem setCore_empties (s : State) (n : Nat) (x : Core) : (s.setCore n x).empties = s.empties := rfl
@[simp] theorem setCore_poison (s : State) (n : Nat) (x : Core) : (s.setCore n x).poison = s.poison := rfl
@[simp] theorem setCore_cells (s : State) (n : Nat) (x : Core) : (s.setCore n x).cells = s.cells := rfl
@[simp] theorem setCore_pages (s : State) (n : Nat) (x : Core) : (s.setCore n x).pages = s.pages := rfl
@[simp] theorem setCore_ctxs (s : State) (n : Nat) (x : Core) : (s.setCore n x).ctxs = s.ctxs := rfl
@[simp] theorem setCore_clus (s : State) (n : Nat) (x : Core) : (s.setCore n x).clus = s.clus := rfl
@[simp] theorem setCore_rdy (s : State) (n : Nat) (x : Core) : (s.setCore n x).rdy = s.rdy := rfl
@[simp] theorem setCore_rdySeen (s : State) (n : Nat) (x : Core) : (s.setCore n x).rdySeen = s.rdySeen := rfl
@[simp] theorem setCore_rdyNew (s : State) (n : Nat) (x : Core) : (s.setCore n x).rdyNew = s.rdyNew := rfl
@[simp] theorem setCore_parts (s : State) (n : Nat) (x : Core) : (s.setCore n x).parts = s.parts := rfl
@[simp] theorem setCore_pkg (s : State) (n : Nat) (x : Core) : (s.setCore n x).pkg = s.pkg := rfl
@[simp] theorem setCore_groupN (s : State) (n : Nat) (x : Core) : (s.setCore n x).groupN = s.groupN := rfl
@[simp] theorem setCore_sleepers (s : State) (n : Nat) (x : Core) : (s.setCore n x).sleepers = s.sleepers := rfl
@[simp] theorem setCore_entryWait (s : State) (n : Nat) (x : Core) : (s.setCore n x).entryWait = s.entryWait := rfl
@[simp] theorem setCore_launches (s : State) (n : Nat) (x : Core) : (s.setCore n x).launches = s.launches := rfl
@[simp] theorem setCore_nLaunch (s : State) (n : Nat) (x : Core) : (s.setCore n x).nLaunch = s.nLaunch := rfl
@[simp] theorem setCore_stackRings (s : State) (n : Nat) (x : Core) : (s.setCore n x).stackRings = s.stackRings := rfl
@[simp] theorem setCore_meshRings (s : State) (n : Nat) (x : Core) : (s.setCore n x).meshRings = s.meshRings := rfl
@[simp] theorem setCore_siteRings (s : State) (n : Nat) (x : Core) : (s.setCore n x).siteRings = s.siteRings := rfl
@[simp] theorem setCore_links (s : State) (n : Nat) (x : Core) : (s.setCore n x).links = s.links := rfl
@[simp] theorem setCore_powerCap (s : State) (n : Nat) (x : Core) : (s.setCore n x).powerCap = s.powerCap := rfl
@[simp] theorem setCore_power (s : State) (n : Nat) (x : Core) : (s.setCore n x).power = s.power := rfl
@[simp] theorem setCore_funcs (s : State) (n : Nat) (x : Core) : (s.setCore n x).funcs = s.funcs := rfl
@[simp] theorem setCore_cols (s : State) (n : Nat) (x : Core) : (s.setCore n x).cols = s.cols := rfl
@[simp] theorem setCore_ports (s : State) (n : Nat) (x : Core) : (s.setCore n x).ports = s.ports := rfl
@[simp] theorem setCore_outFlits (s : State) (n : Nat) (x : Core) : (s.setCore n x).outFlits = s.outFlits := rfl
@[simp] theorem setCore_flitSeq (s : State) (n : Nat) (x : Core) : (s.setCore n x).flitSeq = s.flitSeq := rfl
@[simp] theorem setCore_enlSeen (s : State) (n : Nat) (x : Core) : (s.setCore n x).enlSeen = s.enlSeen := rfl
@[simp] theorem setCore_enlRefused (s : State) (n : Nat) (x : Core) : (s.setCore n x).enlRefused = s.enlRefused := rfl
@[simp] theorem setCore_msgOut (s : State) (n : Nat) (x : Core) : (s.setCore n x).msgOut = s.msgOut := rfl
@[simp] theorem setCore_msgIn (s : State) (n : Nat) (x : Core) : (s.setCore n x).msgIn = s.msgIn := rfl
@[simp] theorem setCore_slots (s : State) (n : Nat) (x : Core) : (s.setCore n x).slots = s.slots := rfl
@[simp] theorem setCore_scrubAt (s : State) (n : Nat) (x : Core) : (s.setCore n x).scrubAt = s.scrubAt := rfl
@[simp] theorem setCore_light (s : State) (n : Nat) (x : Core) : (s.setCore n x).light = s.light := rfl
@[simp] theorem setCore_mgmt (s : State) (n : Nat) (x : Core) : (s.setCore n x).mgmt = s.mgmt := rfl
@[simp] theorem setCore_wtags (s : State) (n : Nat) (x : Core) : (s.setCore n x).wtags = s.wtags := rfl
@[simp] theorem setCore_stamp (s : State) (n : Nat) (x : Core) : (s.setCore n x).stamp = s.stamp := rfl
@[simp] theorem setCore_cycle (s : State) (n : Nat) (x : Core) : (s.setCore n x).cycle = s.cycle := rfl
@[simp] theorem setCore_agenda (s : State) (n : Nat) (x : Core) : (s.setCore n x).agenda = s.agenda := rfl
@[simp] theorem setCore_turn (s : State) (n : Nat) (x : Core) : (s.setCore n x).turn = s.turn := rfl
@[simp] theorem setCore_first (s : State) (n : Nat) (x : Core) : (s.setCore n x).first = s.first := rfl
@[simp] theorem setCore_cur (s : State) (n : Nat) (x : Core) : (s.setCore n x).cur = s.cur := rfl
@[simp] theorem setCore_pairing (s : State) (n : Nat) (x : Core) : (s.setCore n x).pairing = s.pairing := rfl
@[simp] theorem setCore_mark (s : State) (n : Nat) (x : Core) : (s.setCore n x).mark = s.mark := rfl
@[simp] theorem setCore_free (s : State) (n : Nat) (x : Core) : (s.setCore n x).free = s.free := rfl
@[simp] theorem mapCore_mem (s : State) (n : Nat) (f : Core → Core) : (s.mapCore n f).mem = s.mem := rfl
@[simp] theorem mapCore_empties (s : State) (n : Nat) (f : Core → Core) : (s.mapCore n f).empties = s.empties := rfl
@[simp] theorem mapCore_poison (s : State) (n : Nat) (f : Core → Core) : (s.mapCore n f).poison = s.poison := rfl
@[simp] theorem mapCore_cells (s : State) (n : Nat) (f : Core → Core) : (s.mapCore n f).cells = s.cells := rfl
@[simp] theorem mapCore_pages (s : State) (n : Nat) (f : Core → Core) : (s.mapCore n f).pages = s.pages := rfl
@[simp] theorem mapCore_ctxs (s : State) (n : Nat) (f : Core → Core) : (s.mapCore n f).ctxs = s.ctxs := rfl
@[simp] theorem mapCore_clus (s : State) (n : Nat) (f : Core → Core) : (s.mapCore n f).clus = s.clus := rfl
@[simp] theorem mapCore_rdy (s : State) (n : Nat) (f : Core → Core) : (s.mapCore n f).rdy = s.rdy := rfl
@[simp] theorem mapCore_rdySeen (s : State) (n : Nat) (f : Core → Core) : (s.mapCore n f).rdySeen = s.rdySeen := rfl
@[simp] theorem mapCore_rdyNew (s : State) (n : Nat) (f : Core → Core) : (s.mapCore n f).rdyNew = s.rdyNew := rfl
@[simp] theorem mapCore_parts (s : State) (n : Nat) (f : Core → Core) : (s.mapCore n f).parts = s.parts := rfl
@[simp] theorem mapCore_pkg (s : State) (n : Nat) (f : Core → Core) : (s.mapCore n f).pkg = s.pkg := rfl
@[simp] theorem mapCore_groupN (s : State) (n : Nat) (f : Core → Core) : (s.mapCore n f).groupN = s.groupN := rfl
@[simp] theorem mapCore_sleepers (s : State) (n : Nat) (f : Core → Core) : (s.mapCore n f).sleepers = s.sleepers := rfl
@[simp] theorem mapCore_entryWait (s : State) (n : Nat) (f : Core → Core) : (s.mapCore n f).entryWait = s.entryWait := rfl
@[simp] theorem mapCore_launches (s : State) (n : Nat) (f : Core → Core) : (s.mapCore n f).launches = s.launches := rfl
@[simp] theorem mapCore_nLaunch (s : State) (n : Nat) (f : Core → Core) : (s.mapCore n f).nLaunch = s.nLaunch := rfl
@[simp] theorem mapCore_stackRings (s : State) (n : Nat) (f : Core → Core) : (s.mapCore n f).stackRings = s.stackRings := rfl
@[simp] theorem mapCore_meshRings (s : State) (n : Nat) (f : Core → Core) : (s.mapCore n f).meshRings = s.meshRings := rfl
@[simp] theorem mapCore_siteRings (s : State) (n : Nat) (f : Core → Core) : (s.mapCore n f).siteRings = s.siteRings := rfl
@[simp] theorem mapCore_links (s : State) (n : Nat) (f : Core → Core) : (s.mapCore n f).links = s.links := rfl
@[simp] theorem mapCore_powerCap (s : State) (n : Nat) (f : Core → Core) : (s.mapCore n f).powerCap = s.powerCap := rfl
@[simp] theorem mapCore_power (s : State) (n : Nat) (f : Core → Core) : (s.mapCore n f).power = s.power := rfl
@[simp] theorem mapCore_funcs (s : State) (n : Nat) (f : Core → Core) : (s.mapCore n f).funcs = s.funcs := rfl
@[simp] theorem mapCore_cols (s : State) (n : Nat) (f : Core → Core) : (s.mapCore n f).cols = s.cols := rfl
@[simp] theorem mapCore_ports (s : State) (n : Nat) (f : Core → Core) : (s.mapCore n f).ports = s.ports := rfl
@[simp] theorem mapCore_outFlits (s : State) (n : Nat) (f : Core → Core) : (s.mapCore n f).outFlits = s.outFlits := rfl
@[simp] theorem mapCore_flitSeq (s : State) (n : Nat) (f : Core → Core) : (s.mapCore n f).flitSeq = s.flitSeq := rfl
@[simp] theorem mapCore_enlSeen (s : State) (n : Nat) (f : Core → Core) : (s.mapCore n f).enlSeen = s.enlSeen := rfl
@[simp] theorem mapCore_enlRefused (s : State) (n : Nat) (f : Core → Core) : (s.mapCore n f).enlRefused = s.enlRefused := rfl
@[simp] theorem mapCore_msgOut (s : State) (n : Nat) (f : Core → Core) : (s.mapCore n f).msgOut = s.msgOut := rfl
@[simp] theorem mapCore_msgIn (s : State) (n : Nat) (f : Core → Core) : (s.mapCore n f).msgIn = s.msgIn := rfl
@[simp] theorem mapCore_slots (s : State) (n : Nat) (f : Core → Core) : (s.mapCore n f).slots = s.slots := rfl
@[simp] theorem mapCore_scrubAt (s : State) (n : Nat) (f : Core → Core) : (s.mapCore n f).scrubAt = s.scrubAt := rfl
@[simp] theorem mapCore_light (s : State) (n : Nat) (f : Core → Core) : (s.mapCore n f).light = s.light := rfl
@[simp] theorem mapCore_mgmt (s : State) (n : Nat) (f : Core → Core) : (s.mapCore n f).mgmt = s.mgmt := rfl
@[simp] theorem mapCore_wtags (s : State) (n : Nat) (f : Core → Core) : (s.mapCore n f).wtags = s.wtags := rfl
@[simp] theorem mapCore_stamp (s : State) (n : Nat) (f : Core → Core) : (s.mapCore n f).stamp = s.stamp := rfl
@[simp] theorem mapCore_cycle (s : State) (n : Nat) (f : Core → Core) : (s.mapCore n f).cycle = s.cycle := rfl
@[simp] theorem mapCore_agenda (s : State) (n : Nat) (f : Core → Core) : (s.mapCore n f).agenda = s.agenda := rfl
@[simp] theorem mapCore_turn (s : State) (n : Nat) (f : Core → Core) : (s.mapCore n f).turn = s.turn := rfl
@[simp] theorem mapCore_first (s : State) (n : Nat) (f : Core → Core) : (s.mapCore n f).first = s.first := rfl
@[simp] theorem mapCore_cur (s : State) (n : Nat) (f : Core → Core) : (s.mapCore n f).cur = s.cur := rfl
@[simp] theorem mapCore_pairing (s : State) (n : Nat) (f : Core → Core) : (s.mapCore n f).pairing = s.pairing := rfl
@[simp] theorem mapCore_mark (s : State) (n : Nat) (f : Core → Core) : (s.mapCore n f).mark = s.mark := rfl
@[simp] theorem mapCore_free (s : State) (n : Nat) (f : Core → Core) : (s.mapCore n f).free = s.free := rfl
@[simp] theorem setClu_mem (s : State) (n : Nat) (x : Cluster) : (s.setClu n x).mem = s.mem := rfl
@[simp] theorem setClu_empties (s : State) (n : Nat) (x : Cluster) : (s.setClu n x).empties = s.empties := rfl
@[simp] theorem setClu_poison (s : State) (n : Nat) (x : Cluster) : (s.setClu n x).poison = s.poison := rfl
@[simp] theorem setClu_cells (s : State) (n : Nat) (x : Cluster) : (s.setClu n x).cells = s.cells := rfl
@[simp] theorem setClu_pages (s : State) (n : Nat) (x : Cluster) : (s.setClu n x).pages = s.pages := rfl
@[simp] theorem setClu_ctxs (s : State) (n : Nat) (x : Cluster) : (s.setClu n x).ctxs = s.ctxs := rfl
@[simp] theorem setClu_cores (s : State) (n : Nat) (x : Cluster) : (s.setClu n x).cores = s.cores := rfl
@[simp] theorem setClu_rdy (s : State) (n : Nat) (x : Cluster) : (s.setClu n x).rdy = s.rdy := rfl
@[simp] theorem setClu_rdySeen (s : State) (n : Nat) (x : Cluster) : (s.setClu n x).rdySeen = s.rdySeen := rfl
@[simp] theorem setClu_rdyNew (s : State) (n : Nat) (x : Cluster) : (s.setClu n x).rdyNew = s.rdyNew := rfl
@[simp] theorem setClu_parts (s : State) (n : Nat) (x : Cluster) : (s.setClu n x).parts = s.parts := rfl
@[simp] theorem setClu_pkg (s : State) (n : Nat) (x : Cluster) : (s.setClu n x).pkg = s.pkg := rfl
@[simp] theorem setClu_groupN (s : State) (n : Nat) (x : Cluster) : (s.setClu n x).groupN = s.groupN := rfl
@[simp] theorem setClu_sleepers (s : State) (n : Nat) (x : Cluster) : (s.setClu n x).sleepers = s.sleepers := rfl
@[simp] theorem setClu_entryWait (s : State) (n : Nat) (x : Cluster) : (s.setClu n x).entryWait = s.entryWait := rfl
@[simp] theorem setClu_launches (s : State) (n : Nat) (x : Cluster) : (s.setClu n x).launches = s.launches := rfl
@[simp] theorem setClu_nLaunch (s : State) (n : Nat) (x : Cluster) : (s.setClu n x).nLaunch = s.nLaunch := rfl
@[simp] theorem setClu_stackRings (s : State) (n : Nat) (x : Cluster) : (s.setClu n x).stackRings = s.stackRings := rfl
@[simp] theorem setClu_meshRings (s : State) (n : Nat) (x : Cluster) : (s.setClu n x).meshRings = s.meshRings := rfl
@[simp] theorem setClu_siteRings (s : State) (n : Nat) (x : Cluster) : (s.setClu n x).siteRings = s.siteRings := rfl
@[simp] theorem setClu_links (s : State) (n : Nat) (x : Cluster) : (s.setClu n x).links = s.links := rfl
@[simp] theorem setClu_powerCap (s : State) (n : Nat) (x : Cluster) : (s.setClu n x).powerCap = s.powerCap := rfl
@[simp] theorem setClu_power (s : State) (n : Nat) (x : Cluster) : (s.setClu n x).power = s.power := rfl
@[simp] theorem setClu_funcs (s : State) (n : Nat) (x : Cluster) : (s.setClu n x).funcs = s.funcs := rfl
@[simp] theorem setClu_cols (s : State) (n : Nat) (x : Cluster) : (s.setClu n x).cols = s.cols := rfl
@[simp] theorem setClu_ports (s : State) (n : Nat) (x : Cluster) : (s.setClu n x).ports = s.ports := rfl
@[simp] theorem setClu_outFlits (s : State) (n : Nat) (x : Cluster) : (s.setClu n x).outFlits = s.outFlits := rfl
@[simp] theorem setClu_flitSeq (s : State) (n : Nat) (x : Cluster) : (s.setClu n x).flitSeq = s.flitSeq := rfl
@[simp] theorem setClu_enlSeen (s : State) (n : Nat) (x : Cluster) : (s.setClu n x).enlSeen = s.enlSeen := rfl
@[simp] theorem setClu_enlRefused (s : State) (n : Nat) (x : Cluster) : (s.setClu n x).enlRefused = s.enlRefused := rfl
@[simp] theorem setClu_msgOut (s : State) (n : Nat) (x : Cluster) : (s.setClu n x).msgOut = s.msgOut := rfl
@[simp] theorem setClu_msgIn (s : State) (n : Nat) (x : Cluster) : (s.setClu n x).msgIn = s.msgIn := rfl
@[simp] theorem setClu_slots (s : State) (n : Nat) (x : Cluster) : (s.setClu n x).slots = s.slots := rfl
@[simp] theorem setClu_scrubAt (s : State) (n : Nat) (x : Cluster) : (s.setClu n x).scrubAt = s.scrubAt := rfl
@[simp] theorem setClu_light (s : State) (n : Nat) (x : Cluster) : (s.setClu n x).light = s.light := rfl
@[simp] theorem setClu_mgmt (s : State) (n : Nat) (x : Cluster) : (s.setClu n x).mgmt = s.mgmt := rfl
@[simp] theorem setClu_wtags (s : State) (n : Nat) (x : Cluster) : (s.setClu n x).wtags = s.wtags := rfl
@[simp] theorem setClu_stamp (s : State) (n : Nat) (x : Cluster) : (s.setClu n x).stamp = s.stamp := rfl
@[simp] theorem setClu_cycle (s : State) (n : Nat) (x : Cluster) : (s.setClu n x).cycle = s.cycle := rfl
@[simp] theorem setClu_agenda (s : State) (n : Nat) (x : Cluster) : (s.setClu n x).agenda = s.agenda := rfl
@[simp] theorem setClu_turn (s : State) (n : Nat) (x : Cluster) : (s.setClu n x).turn = s.turn := rfl
@[simp] theorem setClu_first (s : State) (n : Nat) (x : Cluster) : (s.setClu n x).first = s.first := rfl
@[simp] theorem setClu_cur (s : State) (n : Nat) (x : Cluster) : (s.setClu n x).cur = s.cur := rfl
@[simp] theorem setClu_pairing (s : State) (n : Nat) (x : Cluster) : (s.setClu n x).pairing = s.pairing := rfl
@[simp] theorem setClu_mark (s : State) (n : Nat) (x : Cluster) : (s.setClu n x).mark = s.mark := rfl
@[simp] theorem setClu_free (s : State) (n : Nat) (x : Cluster) : (s.setClu n x).free = s.free := rfl
@[simp] theorem mapClu_mem (s : State) (n : Nat) (f : Cluster → Cluster) : (s.mapClu n f).mem = s.mem := rfl
@[simp] theorem mapClu_empties (s : State) (n : Nat) (f : Cluster → Cluster) : (s.mapClu n f).empties = s.empties := rfl
@[simp] theorem mapClu_poison (s : State) (n : Nat) (f : Cluster → Cluster) : (s.mapClu n f).poison = s.poison := rfl
@[simp] theorem mapClu_cells (s : State) (n : Nat) (f : Cluster → Cluster) : (s.mapClu n f).cells = s.cells := rfl
@[simp] theorem mapClu_pages (s : State) (n : Nat) (f : Cluster → Cluster) : (s.mapClu n f).pages = s.pages := rfl
@[simp] theorem mapClu_ctxs (s : State) (n : Nat) (f : Cluster → Cluster) : (s.mapClu n f).ctxs = s.ctxs := rfl
@[simp] theorem mapClu_cores (s : State) (n : Nat) (f : Cluster → Cluster) : (s.mapClu n f).cores = s.cores := rfl
@[simp] theorem mapClu_rdy (s : State) (n : Nat) (f : Cluster → Cluster) : (s.mapClu n f).rdy = s.rdy := rfl
@[simp] theorem mapClu_rdySeen (s : State) (n : Nat) (f : Cluster → Cluster) : (s.mapClu n f).rdySeen = s.rdySeen := rfl
@[simp] theorem mapClu_rdyNew (s : State) (n : Nat) (f : Cluster → Cluster) : (s.mapClu n f).rdyNew = s.rdyNew := rfl
@[simp] theorem mapClu_parts (s : State) (n : Nat) (f : Cluster → Cluster) : (s.mapClu n f).parts = s.parts := rfl
@[simp] theorem mapClu_pkg (s : State) (n : Nat) (f : Cluster → Cluster) : (s.mapClu n f).pkg = s.pkg := rfl
@[simp] theorem mapClu_groupN (s : State) (n : Nat) (f : Cluster → Cluster) : (s.mapClu n f).groupN = s.groupN := rfl
@[simp] theorem mapClu_sleepers (s : State) (n : Nat) (f : Cluster → Cluster) : (s.mapClu n f).sleepers = s.sleepers := rfl
@[simp] theorem mapClu_entryWait (s : State) (n : Nat) (f : Cluster → Cluster) : (s.mapClu n f).entryWait = s.entryWait := rfl
@[simp] theorem mapClu_launches (s : State) (n : Nat) (f : Cluster → Cluster) : (s.mapClu n f).launches = s.launches := rfl
@[simp] theorem mapClu_nLaunch (s : State) (n : Nat) (f : Cluster → Cluster) : (s.mapClu n f).nLaunch = s.nLaunch := rfl
@[simp] theorem mapClu_stackRings (s : State) (n : Nat) (f : Cluster → Cluster) : (s.mapClu n f).stackRings = s.stackRings := rfl
@[simp] theorem mapClu_meshRings (s : State) (n : Nat) (f : Cluster → Cluster) : (s.mapClu n f).meshRings = s.meshRings := rfl
@[simp] theorem mapClu_siteRings (s : State) (n : Nat) (f : Cluster → Cluster) : (s.mapClu n f).siteRings = s.siteRings := rfl
@[simp] theorem mapClu_links (s : State) (n : Nat) (f : Cluster → Cluster) : (s.mapClu n f).links = s.links := rfl
@[simp] theorem mapClu_powerCap (s : State) (n : Nat) (f : Cluster → Cluster) : (s.mapClu n f).powerCap = s.powerCap := rfl
@[simp] theorem mapClu_power (s : State) (n : Nat) (f : Cluster → Cluster) : (s.mapClu n f).power = s.power := rfl
@[simp] theorem mapClu_funcs (s : State) (n : Nat) (f : Cluster → Cluster) : (s.mapClu n f).funcs = s.funcs := rfl
@[simp] theorem mapClu_cols (s : State) (n : Nat) (f : Cluster → Cluster) : (s.mapClu n f).cols = s.cols := rfl
@[simp] theorem mapClu_ports (s : State) (n : Nat) (f : Cluster → Cluster) : (s.mapClu n f).ports = s.ports := rfl
@[simp] theorem mapClu_outFlits (s : State) (n : Nat) (f : Cluster → Cluster) : (s.mapClu n f).outFlits = s.outFlits := rfl
@[simp] theorem mapClu_flitSeq (s : State) (n : Nat) (f : Cluster → Cluster) : (s.mapClu n f).flitSeq = s.flitSeq := rfl
@[simp] theorem mapClu_enlSeen (s : State) (n : Nat) (f : Cluster → Cluster) : (s.mapClu n f).enlSeen = s.enlSeen := rfl
@[simp] theorem mapClu_enlRefused (s : State) (n : Nat) (f : Cluster → Cluster) : (s.mapClu n f).enlRefused = s.enlRefused := rfl
@[simp] theorem mapClu_msgOut (s : State) (n : Nat) (f : Cluster → Cluster) : (s.mapClu n f).msgOut = s.msgOut := rfl
@[simp] theorem mapClu_msgIn (s : State) (n : Nat) (f : Cluster → Cluster) : (s.mapClu n f).msgIn = s.msgIn := rfl
@[simp] theorem mapClu_slots (s : State) (n : Nat) (f : Cluster → Cluster) : (s.mapClu n f).slots = s.slots := rfl
@[simp] theorem mapClu_scrubAt (s : State) (n : Nat) (f : Cluster → Cluster) : (s.mapClu n f).scrubAt = s.scrubAt := rfl
@[simp] theorem mapClu_light (s : State) (n : Nat) (f : Cluster → Cluster) : (s.mapClu n f).light = s.light := rfl
@[simp] theorem mapClu_mgmt (s : State) (n : Nat) (f : Cluster → Cluster) : (s.mapClu n f).mgmt = s.mgmt := rfl
@[simp] theorem mapClu_wtags (s : State) (n : Nat) (f : Cluster → Cluster) : (s.mapClu n f).wtags = s.wtags := rfl
@[simp] theorem mapClu_stamp (s : State) (n : Nat) (f : Cluster → Cluster) : (s.mapClu n f).stamp = s.stamp := rfl
@[simp] theorem mapClu_cycle (s : State) (n : Nat) (f : Cluster → Cluster) : (s.mapClu n f).cycle = s.cycle := rfl
@[simp] theorem mapClu_agenda (s : State) (n : Nat) (f : Cluster → Cluster) : (s.mapClu n f).agenda = s.agenda := rfl
@[simp] theorem mapClu_turn (s : State) (n : Nat) (f : Cluster → Cluster) : (s.mapClu n f).turn = s.turn := rfl
@[simp] theorem mapClu_first (s : State) (n : Nat) (f : Cluster → Cluster) : (s.mapClu n f).first = s.first := rfl
@[simp] theorem mapClu_cur (s : State) (n : Nat) (f : Cluster → Cluster) : (s.mapClu n f).cur = s.cur := rfl
@[simp] theorem mapClu_pairing (s : State) (n : Nat) (f : Cluster → Cluster) : (s.mapClu n f).pairing = s.pairing := rfl
@[simp] theorem mapClu_mark (s : State) (n : Nat) (f : Cluster → Cluster) : (s.mapClu n f).mark = s.mark := rfl
@[simp] theorem mapClu_free (s : State) (n : Nat) (f : Cluster → Cluster) : (s.mapClu n f).free = s.free := rfl
@[simp] theorem post_mem (s : State) (e : Instr) : (s.post e).mem = s.mem := rfl
@[simp] theorem post_empties (s : State) (e : Instr) : (s.post e).empties = s.empties := rfl
@[simp] theorem post_poison (s : State) (e : Instr) : (s.post e).poison = s.poison := rfl
@[simp] theorem post_cells (s : State) (e : Instr) : (s.post e).cells = s.cells := rfl
@[simp] theorem post_pages (s : State) (e : Instr) : (s.post e).pages = s.pages := rfl
@[simp] theorem post_ctxs (s : State) (e : Instr) : (s.post e).ctxs = s.ctxs := rfl
@[simp] theorem post_cores (s : State) (e : Instr) : (s.post e).cores = s.cores := rfl
@[simp] theorem post_clus (s : State) (e : Instr) : (s.post e).clus = s.clus := rfl
@[simp] theorem post_rdy (s : State) (e : Instr) : (s.post e).rdy = s.rdy := rfl
@[simp] theorem post_rdySeen (s : State) (e : Instr) : (s.post e).rdySeen = s.rdySeen := rfl
@[simp] theorem post_rdyNew (s : State) (e : Instr) : (s.post e).rdyNew = s.rdyNew := rfl
@[simp] theorem post_parts (s : State) (e : Instr) : (s.post e).parts = s.parts := rfl
@[simp] theorem post_pkg (s : State) (e : Instr) : (s.post e).pkg = s.pkg := rfl
@[simp] theorem post_groupN (s : State) (e : Instr) : (s.post e).groupN = s.groupN := rfl
@[simp] theorem post_sleepers (s : State) (e : Instr) : (s.post e).sleepers = s.sleepers := rfl
@[simp] theorem post_entryWait (s : State) (e : Instr) : (s.post e).entryWait = s.entryWait := rfl
@[simp] theorem post_launches (s : State) (e : Instr) : (s.post e).launches = s.launches := rfl
@[simp] theorem post_nLaunch (s : State) (e : Instr) : (s.post e).nLaunch = s.nLaunch := rfl
@[simp] theorem post_stackRings (s : State) (e : Instr) : (s.post e).stackRings = s.stackRings := rfl
@[simp] theorem post_meshRings (s : State) (e : Instr) : (s.post e).meshRings = s.meshRings := rfl
@[simp] theorem post_siteRings (s : State) (e : Instr) : (s.post e).siteRings = s.siteRings := rfl
@[simp] theorem post_links (s : State) (e : Instr) : (s.post e).links = s.links := rfl
@[simp] theorem post_powerCap (s : State) (e : Instr) : (s.post e).powerCap = s.powerCap := rfl
@[simp] theorem post_power (s : State) (e : Instr) : (s.post e).power = s.power := rfl
@[simp] theorem post_funcs (s : State) (e : Instr) : (s.post e).funcs = s.funcs := rfl
@[simp] theorem post_cols (s : State) (e : Instr) : (s.post e).cols = s.cols := rfl
@[simp] theorem post_ports (s : State) (e : Instr) : (s.post e).ports = s.ports := rfl
@[simp] theorem post_outFlits (s : State) (e : Instr) : (s.post e).outFlits = s.outFlits := rfl
@[simp] theorem post_flitSeq (s : State) (e : Instr) : (s.post e).flitSeq = s.flitSeq := rfl
@[simp] theorem post_enlSeen (s : State) (e : Instr) : (s.post e).enlSeen = s.enlSeen := rfl
@[simp] theorem post_enlRefused (s : State) (e : Instr) : (s.post e).enlRefused = s.enlRefused := rfl
@[simp] theorem post_msgOut (s : State) (e : Instr) : (s.post e).msgOut = s.msgOut := rfl
@[simp] theorem post_msgIn (s : State) (e : Instr) : (s.post e).msgIn = s.msgIn := rfl
@[simp] theorem post_slots (s : State) (e : Instr) : (s.post e).slots = s.slots := rfl
@[simp] theorem post_scrubAt (s : State) (e : Instr) : (s.post e).scrubAt = s.scrubAt := rfl
@[simp] theorem post_light (s : State) (e : Instr) : (s.post e).light = s.light := rfl
@[simp] theorem post_mgmt (s : State) (e : Instr) : (s.post e).mgmt = s.mgmt := rfl
@[simp] theorem post_wtags (s : State) (e : Instr) : (s.post e).wtags = s.wtags := rfl
@[simp] theorem post_stamp (s : State) (e : Instr) : (s.post e).stamp = s.stamp := rfl
@[simp] theorem post_cycle (s : State) (e : Instr) : (s.post e).cycle = s.cycle := rfl
@[simp] theorem post_turn (s : State) (e : Instr) : (s.post e).turn = s.turn := rfl
@[simp] theorem post_first (s : State) (e : Instr) : (s.post e).first = s.first := rfl
@[simp] theorem post_cur (s : State) (e : Instr) : (s.post e).cur = s.cur := rfl
@[simp] theorem post_pairing (s : State) (e : Instr) : (s.post e).pairing = s.pairing := rfl
@[simp] theorem post_mark (s : State) (e : Instr) : (s.post e).mark = s.mark := rfl
@[simp] theorem post_free (s : State) (e : Instr) : (s.post e).free = s.free := rfl
@[simp] theorem park_mem (s : State) (w : Why) : (s.park w).mem = s.mem := rfl
@[simp] theorem park_empties (s : State) (w : Why) : (s.park w).empties = s.empties := rfl
@[simp] theorem park_poison (s : State) (w : Why) : (s.park w).poison = s.poison := rfl
@[simp] theorem park_cells (s : State) (w : Why) : (s.park w).cells = s.cells := rfl
@[simp] theorem park_pages (s : State) (w : Why) : (s.park w).pages = s.pages := rfl
@[simp] theorem park_cores (s : State) (w : Why) : (s.park w).cores = s.cores := rfl
@[simp] theorem park_clus (s : State) (w : Why) : (s.park w).clus = s.clus := rfl
@[simp] theorem park_rdy (s : State) (w : Why) : (s.park w).rdy = s.rdy := rfl
@[simp] theorem park_rdySeen (s : State) (w : Why) : (s.park w).rdySeen = s.rdySeen := rfl
@[simp] theorem park_rdyNew (s : State) (w : Why) : (s.park w).rdyNew = s.rdyNew := rfl
@[simp] theorem park_parts (s : State) (w : Why) : (s.park w).parts = s.parts := rfl
@[simp] theorem park_pkg (s : State) (w : Why) : (s.park w).pkg = s.pkg := rfl
@[simp] theorem park_groupN (s : State) (w : Why) : (s.park w).groupN = s.groupN := rfl
@[simp] theorem park_sleepers (s : State) (w : Why) : (s.park w).sleepers = s.sleepers := rfl
@[simp] theorem park_entryWait (s : State) (w : Why) : (s.park w).entryWait = s.entryWait := rfl
@[simp] theorem park_launches (s : State) (w : Why) : (s.park w).launches = s.launches := rfl
@[simp] theorem park_nLaunch (s : State) (w : Why) : (s.park w).nLaunch = s.nLaunch := rfl
@[simp] theorem park_stackRings (s : State) (w : Why) : (s.park w).stackRings = s.stackRings := rfl
@[simp] theorem park_meshRings (s : State) (w : Why) : (s.park w).meshRings = s.meshRings := rfl
@[simp] theorem park_siteRings (s : State) (w : Why) : (s.park w).siteRings = s.siteRings := rfl
@[simp] theorem park_links (s : State) (w : Why) : (s.park w).links = s.links := rfl
@[simp] theorem park_powerCap (s : State) (w : Why) : (s.park w).powerCap = s.powerCap := rfl
@[simp] theorem park_power (s : State) (w : Why) : (s.park w).power = s.power := rfl
@[simp] theorem park_funcs (s : State) (w : Why) : (s.park w).funcs = s.funcs := rfl
@[simp] theorem park_cols (s : State) (w : Why) : (s.park w).cols = s.cols := rfl
@[simp] theorem park_ports (s : State) (w : Why) : (s.park w).ports = s.ports := rfl
@[simp] theorem park_outFlits (s : State) (w : Why) : (s.park w).outFlits = s.outFlits := rfl
@[simp] theorem park_flitSeq (s : State) (w : Why) : (s.park w).flitSeq = s.flitSeq := rfl
@[simp] theorem park_enlSeen (s : State) (w : Why) : (s.park w).enlSeen = s.enlSeen := rfl
@[simp] theorem park_enlRefused (s : State) (w : Why) : (s.park w).enlRefused = s.enlRefused := rfl
@[simp] theorem park_msgOut (s : State) (w : Why) : (s.park w).msgOut = s.msgOut := rfl
@[simp] theorem park_msgIn (s : State) (w : Why) : (s.park w).msgIn = s.msgIn := rfl
@[simp] theorem park_slots (s : State) (w : Why) : (s.park w).slots = s.slots := rfl
@[simp] theorem park_scrubAt (s : State) (w : Why) : (s.park w).scrubAt = s.scrubAt := rfl
@[simp] theorem park_light (s : State) (w : Why) : (s.park w).light = s.light := rfl
@[simp] theorem park_mgmt (s : State) (w : Why) : (s.park w).mgmt = s.mgmt := rfl
@[simp] theorem park_wtags (s : State) (w : Why) : (s.park w).wtags = s.wtags := rfl
@[simp] theorem park_stamp (s : State) (w : Why) : (s.park w).stamp = s.stamp := rfl
@[simp] theorem park_cycle (s : State) (w : Why) : (s.park w).cycle = s.cycle := rfl
@[simp] theorem park_agenda (s : State) (w : Why) : (s.park w).agenda = s.agenda := rfl
@[simp] theorem park_turn (s : State) (w : Why) : (s.park w).turn = s.turn := rfl
@[simp] theorem park_first (s : State) (w : Why) : (s.park w).first = s.first := rfl
@[simp] theorem park_cur (s : State) (w : Why) : (s.park w).cur = s.cur := rfl
@[simp] theorem park_pairing (s : State) (w : Why) : (s.park w).pairing = s.pairing := rfl
@[simp] theorem park_free (s : State) (w : Why) : (s.park w).free = s.free := rfl
@[simp] theorem wake_mem (s : State) (c : Nat) : (s.wake c).mem = s.mem := rfl
@[simp] theorem wake_empties (s : State) (c : Nat) : (s.wake c).empties = s.empties := rfl
@[simp] theorem wake_poison (s : State) (c : Nat) : (s.wake c).poison = s.poison := rfl
@[simp] theorem wake_cells (s : State) (c : Nat) : (s.wake c).cells = s.cells := rfl
@[simp] theorem wake_pages (s : State) (c : Nat) : (s.wake c).pages = s.pages := rfl
@[simp] theorem wake_cores (s : State) (c : Nat) : (s.wake c).cores = s.cores := rfl
@[simp] theorem wake_clus (s : State) (c : Nat) : (s.wake c).clus = s.clus := rfl
@[simp] theorem wake_rdy (s : State) (c : Nat) : (s.wake c).rdy = s.rdy := rfl
@[simp] theorem wake_rdySeen (s : State) (c : Nat) : (s.wake c).rdySeen = s.rdySeen := rfl
@[simp] theorem wake_rdyNew (s : State) (c : Nat) : (s.wake c).rdyNew = s.rdyNew := rfl
@[simp] theorem wake_parts (s : State) (c : Nat) : (s.wake c).parts = s.parts := rfl
@[simp] theorem wake_pkg (s : State) (c : Nat) : (s.wake c).pkg = s.pkg := rfl
@[simp] theorem wake_groupN (s : State) (c : Nat) : (s.wake c).groupN = s.groupN := rfl
@[simp] theorem wake_sleepers (s : State) (c : Nat) : (s.wake c).sleepers = s.sleepers := rfl
@[simp] theorem wake_entryWait (s : State) (c : Nat) : (s.wake c).entryWait = s.entryWait := rfl
@[simp] theorem wake_launches (s : State) (c : Nat) : (s.wake c).launches = s.launches := rfl
@[simp] theorem wake_nLaunch (s : State) (c : Nat) : (s.wake c).nLaunch = s.nLaunch := rfl
@[simp] theorem wake_stackRings (s : State) (c : Nat) : (s.wake c).stackRings = s.stackRings := rfl
@[simp] theorem wake_meshRings (s : State) (c : Nat) : (s.wake c).meshRings = s.meshRings := rfl
@[simp] theorem wake_siteRings (s : State) (c : Nat) : (s.wake c).siteRings = s.siteRings := rfl
@[simp] theorem wake_links (s : State) (c : Nat) : (s.wake c).links = s.links := rfl
@[simp] theorem wake_powerCap (s : State) (c : Nat) : (s.wake c).powerCap = s.powerCap := rfl
@[simp] theorem wake_power (s : State) (c : Nat) : (s.wake c).power = s.power := rfl
@[simp] theorem wake_funcs (s : State) (c : Nat) : (s.wake c).funcs = s.funcs := rfl
@[simp] theorem wake_cols (s : State) (c : Nat) : (s.wake c).cols = s.cols := rfl
@[simp] theorem wake_ports (s : State) (c : Nat) : (s.wake c).ports = s.ports := rfl
@[simp] theorem wake_outFlits (s : State) (c : Nat) : (s.wake c).outFlits = s.outFlits := rfl
@[simp] theorem wake_flitSeq (s : State) (c : Nat) : (s.wake c).flitSeq = s.flitSeq := rfl
@[simp] theorem wake_enlSeen (s : State) (c : Nat) : (s.wake c).enlSeen = s.enlSeen := rfl
@[simp] theorem wake_enlRefused (s : State) (c : Nat) : (s.wake c).enlRefused = s.enlRefused := rfl
@[simp] theorem wake_msgOut (s : State) (c : Nat) : (s.wake c).msgOut = s.msgOut := rfl
@[simp] theorem wake_msgIn (s : State) (c : Nat) : (s.wake c).msgIn = s.msgIn := rfl
@[simp] theorem wake_slots (s : State) (c : Nat) : (s.wake c).slots = s.slots := rfl
@[simp] theorem wake_scrubAt (s : State) (c : Nat) : (s.wake c).scrubAt = s.scrubAt := rfl
@[simp] theorem wake_light (s : State) (c : Nat) : (s.wake c).light = s.light := rfl
@[simp] theorem wake_mgmt (s : State) (c : Nat) : (s.wake c).mgmt = s.mgmt := rfl
@[simp] theorem wake_wtags (s : State) (c : Nat) : (s.wake c).wtags = s.wtags := rfl
@[simp] theorem wake_stamp (s : State) (c : Nat) : (s.wake c).stamp = s.stamp := rfl
@[simp] theorem wake_cycle (s : State) (c : Nat) : (s.wake c).cycle = s.cycle := rfl
@[simp] theorem wake_agenda (s : State) (c : Nat) : (s.wake c).agenda = s.agenda := rfl
@[simp] theorem wake_turn (s : State) (c : Nat) : (s.wake c).turn = s.turn := rfl
@[simp] theorem wake_first (s : State) (c : Nat) : (s.wake c).first = s.first := rfl
@[simp] theorem wake_cur (s : State) (c : Nat) : (s.wake c).cur = s.cur := rfl
@[simp] theorem wake_pairing (s : State) (c : Nat) : (s.wake c).pairing = s.pairing := rfl
@[simp] theorem wake_mark (s : State) (c : Nat) : (s.wake c).mark = s.mark := rfl
@[simp] theorem wake_free (s : State) (c : Nat) : (s.wake c).free = s.free := rfl
@[simp] theorem putX_mem (s : State) (n : XR) (v : Word) : (s.putX n v).mem = s.mem := rfl
@[simp] theorem putX_empties (s : State) (n : XR) (v : Word) : (s.putX n v).empties = s.empties := rfl
@[simp] theorem putX_poison (s : State) (n : XR) (v : Word) : (s.putX n v).poison = s.poison := rfl
@[simp] theorem putX_cells (s : State) (n : XR) (v : Word) : (s.putX n v).cells = s.cells := rfl
@[simp] theorem putX_pages (s : State) (n : XR) (v : Word) : (s.putX n v).pages = s.pages := rfl
@[simp] theorem putX_cores (s : State) (n : XR) (v : Word) : (s.putX n v).cores = s.cores := rfl
@[simp] theorem putX_clus (s : State) (n : XR) (v : Word) : (s.putX n v).clus = s.clus := rfl
@[simp] theorem putX_rdy (s : State) (n : XR) (v : Word) : (s.putX n v).rdy = s.rdy := rfl
@[simp] theorem putX_rdySeen (s : State) (n : XR) (v : Word) : (s.putX n v).rdySeen = s.rdySeen := rfl
@[simp] theorem putX_rdyNew (s : State) (n : XR) (v : Word) : (s.putX n v).rdyNew = s.rdyNew := rfl
@[simp] theorem putX_parts (s : State) (n : XR) (v : Word) : (s.putX n v).parts = s.parts := rfl
@[simp] theorem putX_pkg (s : State) (n : XR) (v : Word) : (s.putX n v).pkg = s.pkg := rfl
@[simp] theorem putX_groupN (s : State) (n : XR) (v : Word) : (s.putX n v).groupN = s.groupN := rfl
@[simp] theorem putX_sleepers (s : State) (n : XR) (v : Word) : (s.putX n v).sleepers = s.sleepers := rfl
@[simp] theorem putX_entryWait (s : State) (n : XR) (v : Word) : (s.putX n v).entryWait = s.entryWait := rfl
@[simp] theorem putX_launches (s : State) (n : XR) (v : Word) : (s.putX n v).launches = s.launches := rfl
@[simp] theorem putX_nLaunch (s : State) (n : XR) (v : Word) : (s.putX n v).nLaunch = s.nLaunch := rfl
@[simp] theorem putX_stackRings (s : State) (n : XR) (v : Word) : (s.putX n v).stackRings = s.stackRings := rfl
@[simp] theorem putX_meshRings (s : State) (n : XR) (v : Word) : (s.putX n v).meshRings = s.meshRings := rfl
@[simp] theorem putX_siteRings (s : State) (n : XR) (v : Word) : (s.putX n v).siteRings = s.siteRings := rfl
@[simp] theorem putX_links (s : State) (n : XR) (v : Word) : (s.putX n v).links = s.links := rfl
@[simp] theorem putX_powerCap (s : State) (n : XR) (v : Word) : (s.putX n v).powerCap = s.powerCap := rfl
@[simp] theorem putX_power (s : State) (n : XR) (v : Word) : (s.putX n v).power = s.power := rfl
@[simp] theorem putX_funcs (s : State) (n : XR) (v : Word) : (s.putX n v).funcs = s.funcs := rfl
@[simp] theorem putX_cols (s : State) (n : XR) (v : Word) : (s.putX n v).cols = s.cols := rfl
@[simp] theorem putX_ports (s : State) (n : XR) (v : Word) : (s.putX n v).ports = s.ports := rfl
@[simp] theorem putX_outFlits (s : State) (n : XR) (v : Word) : (s.putX n v).outFlits = s.outFlits := rfl
@[simp] theorem putX_flitSeq (s : State) (n : XR) (v : Word) : (s.putX n v).flitSeq = s.flitSeq := rfl
@[simp] theorem putX_enlSeen (s : State) (n : XR) (v : Word) : (s.putX n v).enlSeen = s.enlSeen := rfl
@[simp] theorem putX_enlRefused (s : State) (n : XR) (v : Word) : (s.putX n v).enlRefused = s.enlRefused := rfl
@[simp] theorem putX_msgOut (s : State) (n : XR) (v : Word) : (s.putX n v).msgOut = s.msgOut := rfl
@[simp] theorem putX_msgIn (s : State) (n : XR) (v : Word) : (s.putX n v).msgIn = s.msgIn := rfl
@[simp] theorem putX_slots (s : State) (n : XR) (v : Word) : (s.putX n v).slots = s.slots := rfl
@[simp] theorem putX_scrubAt (s : State) (n : XR) (v : Word) : (s.putX n v).scrubAt = s.scrubAt := rfl
@[simp] theorem putX_light (s : State) (n : XR) (v : Word) : (s.putX n v).light = s.light := rfl
@[simp] theorem putX_mgmt (s : State) (n : XR) (v : Word) : (s.putX n v).mgmt = s.mgmt := rfl
@[simp] theorem putX_wtags (s : State) (n : XR) (v : Word) : (s.putX n v).wtags = s.wtags := rfl
@[simp] theorem putX_stamp (s : State) (n : XR) (v : Word) : (s.putX n v).stamp = s.stamp := rfl
@[simp] theorem putX_cycle (s : State) (n : XR) (v : Word) : (s.putX n v).cycle = s.cycle := rfl
@[simp] theorem putX_agenda (s : State) (n : XR) (v : Word) : (s.putX n v).agenda = s.agenda := rfl
@[simp] theorem putX_turn (s : State) (n : XR) (v : Word) : (s.putX n v).turn = s.turn := rfl
@[simp] theorem putX_first (s : State) (n : XR) (v : Word) : (s.putX n v).first = s.first := rfl
@[simp] theorem putX_cur (s : State) (n : XR) (v : Word) : (s.putX n v).cur = s.cur := rfl
@[simp] theorem putX_pairing (s : State) (n : XR) (v : Word) : (s.putX n v).pairing = s.pairing := rfl
@[simp] theorem putX_mark (s : State) (n : XR) (v : Word) : (s.putX n v).mark = s.mark := rfl
@[simp] theorem putX_free (s : State) (n : XR) (v : Word) : (s.putX n v).free = s.free := rfl
@[simp] theorem putV_mem (s : State) (r : VR) (v : VWord) : (s.putV r v).mem = s.mem := rfl
@[simp] theorem putV_empties (s : State) (r : VR) (v : VWord) : (s.putV r v).empties = s.empties := rfl
@[simp] theorem putV_poison (s : State) (r : VR) (v : VWord) : (s.putV r v).poison = s.poison := rfl
@[simp] theorem putV_cells (s : State) (r : VR) (v : VWord) : (s.putV r v).cells = s.cells := rfl
@[simp] theorem putV_pages (s : State) (r : VR) (v : VWord) : (s.putV r v).pages = s.pages := rfl
@[simp] theorem putV_cores (s : State) (r : VR) (v : VWord) : (s.putV r v).cores = s.cores := rfl
@[simp] theorem putV_clus (s : State) (r : VR) (v : VWord) : (s.putV r v).clus = s.clus := rfl
@[simp] theorem putV_rdy (s : State) (r : VR) (v : VWord) : (s.putV r v).rdy = s.rdy := rfl
@[simp] theorem putV_rdySeen (s : State) (r : VR) (v : VWord) : (s.putV r v).rdySeen = s.rdySeen := rfl
@[simp] theorem putV_rdyNew (s : State) (r : VR) (v : VWord) : (s.putV r v).rdyNew = s.rdyNew := rfl
@[simp] theorem putV_parts (s : State) (r : VR) (v : VWord) : (s.putV r v).parts = s.parts := rfl
@[simp] theorem putV_pkg (s : State) (r : VR) (v : VWord) : (s.putV r v).pkg = s.pkg := rfl
@[simp] theorem putV_groupN (s : State) (r : VR) (v : VWord) : (s.putV r v).groupN = s.groupN := rfl
@[simp] theorem putV_sleepers (s : State) (r : VR) (v : VWord) : (s.putV r v).sleepers = s.sleepers := rfl
@[simp] theorem putV_entryWait (s : State) (r : VR) (v : VWord) : (s.putV r v).entryWait = s.entryWait := rfl
@[simp] theorem putV_launches (s : State) (r : VR) (v : VWord) : (s.putV r v).launches = s.launches := rfl
@[simp] theorem putV_nLaunch (s : State) (r : VR) (v : VWord) : (s.putV r v).nLaunch = s.nLaunch := rfl
@[simp] theorem putV_stackRings (s : State) (r : VR) (v : VWord) : (s.putV r v).stackRings = s.stackRings := rfl
@[simp] theorem putV_meshRings (s : State) (r : VR) (v : VWord) : (s.putV r v).meshRings = s.meshRings := rfl
@[simp] theorem putV_siteRings (s : State) (r : VR) (v : VWord) : (s.putV r v).siteRings = s.siteRings := rfl
@[simp] theorem putV_links (s : State) (r : VR) (v : VWord) : (s.putV r v).links = s.links := rfl
@[simp] theorem putV_powerCap (s : State) (r : VR) (v : VWord) : (s.putV r v).powerCap = s.powerCap := rfl
@[simp] theorem putV_power (s : State) (r : VR) (v : VWord) : (s.putV r v).power = s.power := rfl
@[simp] theorem putV_funcs (s : State) (r : VR) (v : VWord) : (s.putV r v).funcs = s.funcs := rfl
@[simp] theorem putV_cols (s : State) (r : VR) (v : VWord) : (s.putV r v).cols = s.cols := rfl
@[simp] theorem putV_ports (s : State) (r : VR) (v : VWord) : (s.putV r v).ports = s.ports := rfl
@[simp] theorem putV_outFlits (s : State) (r : VR) (v : VWord) : (s.putV r v).outFlits = s.outFlits := rfl
@[simp] theorem putV_flitSeq (s : State) (r : VR) (v : VWord) : (s.putV r v).flitSeq = s.flitSeq := rfl
@[simp] theorem putV_enlSeen (s : State) (r : VR) (v : VWord) : (s.putV r v).enlSeen = s.enlSeen := rfl
@[simp] theorem putV_enlRefused (s : State) (r : VR) (v : VWord) : (s.putV r v).enlRefused = s.enlRefused := rfl
@[simp] theorem putV_msgOut (s : State) (r : VR) (v : VWord) : (s.putV r v).msgOut = s.msgOut := rfl
@[simp] theorem putV_msgIn (s : State) (r : VR) (v : VWord) : (s.putV r v).msgIn = s.msgIn := rfl
@[simp] theorem putV_slots (s : State) (r : VR) (v : VWord) : (s.putV r v).slots = s.slots := rfl
@[simp] theorem putV_scrubAt (s : State) (r : VR) (v : VWord) : (s.putV r v).scrubAt = s.scrubAt := rfl
@[simp] theorem putV_light (s : State) (r : VR) (v : VWord) : (s.putV r v).light = s.light := rfl
@[simp] theorem putV_mgmt (s : State) (r : VR) (v : VWord) : (s.putV r v).mgmt = s.mgmt := rfl
@[simp] theorem putV_wtags (s : State) (r : VR) (v : VWord) : (s.putV r v).wtags = s.wtags := rfl
@[simp] theorem putV_stamp (s : State) (r : VR) (v : VWord) : (s.putV r v).stamp = s.stamp := rfl
@[simp] theorem putV_cycle (s : State) (r : VR) (v : VWord) : (s.putV r v).cycle = s.cycle := rfl
@[simp] theorem putV_agenda (s : State) (r : VR) (v : VWord) : (s.putV r v).agenda = s.agenda := rfl
@[simp] theorem putV_turn (s : State) (r : VR) (v : VWord) : (s.putV r v).turn = s.turn := rfl
@[simp] theorem putV_first (s : State) (r : VR) (v : VWord) : (s.putV r v).first = s.first := rfl
@[simp] theorem putV_cur (s : State) (r : VR) (v : VWord) : (s.putV r v).cur = s.cur := rfl
@[simp] theorem putV_pairing (s : State) (r : VR) (v : VWord) : (s.putV r v).pairing = s.pairing := rfl
@[simp] theorem putV_mark (s : State) (r : VR) (v : VWord) : (s.putV r v).mark = s.mark := rfl
@[simp] theorem putV_free (s : State) (r : VR) (v : VWord) : (s.putV r v).free = s.free := rfl
@[simp] theorem putK_mem (s : State) (n : KR) (v : KWord) : (s.putK n v).mem = s.mem := rfl
@[simp] theorem putK_empties (s : State) (n : KR) (v : KWord) : (s.putK n v).empties = s.empties := rfl
@[simp] theorem putK_poison (s : State) (n : KR) (v : KWord) : (s.putK n v).poison = s.poison := rfl
@[simp] theorem putK_cells (s : State) (n : KR) (v : KWord) : (s.putK n v).cells = s.cells := rfl
@[simp] theorem putK_pages (s : State) (n : KR) (v : KWord) : (s.putK n v).pages = s.pages := rfl
@[simp] theorem putK_cores (s : State) (n : KR) (v : KWord) : (s.putK n v).cores = s.cores := rfl
@[simp] theorem putK_clus (s : State) (n : KR) (v : KWord) : (s.putK n v).clus = s.clus := rfl
@[simp] theorem putK_rdy (s : State) (n : KR) (v : KWord) : (s.putK n v).rdy = s.rdy := rfl
@[simp] theorem putK_rdySeen (s : State) (n : KR) (v : KWord) : (s.putK n v).rdySeen = s.rdySeen := rfl
@[simp] theorem putK_rdyNew (s : State) (n : KR) (v : KWord) : (s.putK n v).rdyNew = s.rdyNew := rfl
@[simp] theorem putK_parts (s : State) (n : KR) (v : KWord) : (s.putK n v).parts = s.parts := rfl
@[simp] theorem putK_pkg (s : State) (n : KR) (v : KWord) : (s.putK n v).pkg = s.pkg := rfl
@[simp] theorem putK_groupN (s : State) (n : KR) (v : KWord) : (s.putK n v).groupN = s.groupN := rfl
@[simp] theorem putK_sleepers (s : State) (n : KR) (v : KWord) : (s.putK n v).sleepers = s.sleepers := rfl
@[simp] theorem putK_entryWait (s : State) (n : KR) (v : KWord) : (s.putK n v).entryWait = s.entryWait := rfl
@[simp] theorem putK_launches (s : State) (n : KR) (v : KWord) : (s.putK n v).launches = s.launches := rfl
@[simp] theorem putK_nLaunch (s : State) (n : KR) (v : KWord) : (s.putK n v).nLaunch = s.nLaunch := rfl
@[simp] theorem putK_stackRings (s : State) (n : KR) (v : KWord) : (s.putK n v).stackRings = s.stackRings := rfl
@[simp] theorem putK_meshRings (s : State) (n : KR) (v : KWord) : (s.putK n v).meshRings = s.meshRings := rfl
@[simp] theorem putK_siteRings (s : State) (n : KR) (v : KWord) : (s.putK n v).siteRings = s.siteRings := rfl
@[simp] theorem putK_links (s : State) (n : KR) (v : KWord) : (s.putK n v).links = s.links := rfl
@[simp] theorem putK_powerCap (s : State) (n : KR) (v : KWord) : (s.putK n v).powerCap = s.powerCap := rfl
@[simp] theorem putK_power (s : State) (n : KR) (v : KWord) : (s.putK n v).power = s.power := rfl
@[simp] theorem putK_funcs (s : State) (n : KR) (v : KWord) : (s.putK n v).funcs = s.funcs := rfl
@[simp] theorem putK_cols (s : State) (n : KR) (v : KWord) : (s.putK n v).cols = s.cols := rfl
@[simp] theorem putK_ports (s : State) (n : KR) (v : KWord) : (s.putK n v).ports = s.ports := rfl
@[simp] theorem putK_outFlits (s : State) (n : KR) (v : KWord) : (s.putK n v).outFlits = s.outFlits := rfl
@[simp] theorem putK_flitSeq (s : State) (n : KR) (v : KWord) : (s.putK n v).flitSeq = s.flitSeq := rfl
@[simp] theorem putK_enlSeen (s : State) (n : KR) (v : KWord) : (s.putK n v).enlSeen = s.enlSeen := rfl
@[simp] theorem putK_enlRefused (s : State) (n : KR) (v : KWord) : (s.putK n v).enlRefused = s.enlRefused := rfl
@[simp] theorem putK_msgOut (s : State) (n : KR) (v : KWord) : (s.putK n v).msgOut = s.msgOut := rfl
@[simp] theorem putK_msgIn (s : State) (n : KR) (v : KWord) : (s.putK n v).msgIn = s.msgIn := rfl
@[simp] theorem putK_slots (s : State) (n : KR) (v : KWord) : (s.putK n v).slots = s.slots := rfl
@[simp] theorem putK_scrubAt (s : State) (n : KR) (v : KWord) : (s.putK n v).scrubAt = s.scrubAt := rfl
@[simp] theorem putK_light (s : State) (n : KR) (v : KWord) : (s.putK n v).light = s.light := rfl
@[simp] theorem putK_mgmt (s : State) (n : KR) (v : KWord) : (s.putK n v).mgmt = s.mgmt := rfl
@[simp] theorem putK_wtags (s : State) (n : KR) (v : KWord) : (s.putK n v).wtags = s.wtags := rfl
@[simp] theorem putK_stamp (s : State) (n : KR) (v : KWord) : (s.putK n v).stamp = s.stamp := rfl
@[simp] theorem putK_cycle (s : State) (n : KR) (v : KWord) : (s.putK n v).cycle = s.cycle := rfl
@[simp] theorem putK_agenda (s : State) (n : KR) (v : KWord) : (s.putK n v).agenda = s.agenda := rfl
@[simp] theorem putK_turn (s : State) (n : KR) (v : KWord) : (s.putK n v).turn = s.turn := rfl
@[simp] theorem putK_first (s : State) (n : KR) (v : KWord) : (s.putK n v).first = s.first := rfl
@[simp] theorem putK_cur (s : State) (n : KR) (v : KWord) : (s.putK n v).cur = s.cur := rfl
@[simp] theorem putK_pairing (s : State) (n : KR) (v : KWord) : (s.putK n v).pairing = s.pairing := rfl
@[simp] theorem putK_mark (s : State) (n : KR) (v : KWord) : (s.putK n v).mark = s.mark := rfl
@[simp] theorem putK_free (s : State) (n : KR) (v : KWord) : (s.putK n v).free = s.free := rfl
@[simp] theorem putByte_empties (s : State) (a : Nat) (b : Byte) : (s.putByte a b).empties = s.empties := rfl
@[simp] theorem putByte_poison (s : State) (a : Nat) (b : Byte) : (s.putByte a b).poison = s.poison := rfl
@[simp] theorem putByte_cells (s : State) (a : Nat) (b : Byte) : (s.putByte a b).cells = s.cells := rfl
@[simp] theorem putByte_pages (s : State) (a : Nat) (b : Byte) : (s.putByte a b).pages = s.pages := rfl
@[simp] theorem putByte_ctxs (s : State) (a : Nat) (b : Byte) : (s.putByte a b).ctxs = s.ctxs := rfl
@[simp] theorem putByte_cores (s : State) (a : Nat) (b : Byte) : (s.putByte a b).cores = s.cores := rfl
@[simp] theorem putByte_clus (s : State) (a : Nat) (b : Byte) : (s.putByte a b).clus = s.clus := rfl
@[simp] theorem putByte_rdy (s : State) (a : Nat) (b : Byte) : (s.putByte a b).rdy = s.rdy := rfl
@[simp] theorem putByte_rdySeen (s : State) (a : Nat) (b : Byte) : (s.putByte a b).rdySeen = s.rdySeen := rfl
@[simp] theorem putByte_rdyNew (s : State) (a : Nat) (b : Byte) : (s.putByte a b).rdyNew = s.rdyNew := rfl
@[simp] theorem putByte_parts (s : State) (a : Nat) (b : Byte) : (s.putByte a b).parts = s.parts := rfl
@[simp] theorem putByte_pkg (s : State) (a : Nat) (b : Byte) : (s.putByte a b).pkg = s.pkg := rfl
@[simp] theorem putByte_groupN (s : State) (a : Nat) (b : Byte) : (s.putByte a b).groupN = s.groupN := rfl
@[simp] theorem putByte_sleepers (s : State) (a : Nat) (b : Byte) : (s.putByte a b).sleepers = s.sleepers := rfl
@[simp] theorem putByte_entryWait (s : State) (a : Nat) (b : Byte) : (s.putByte a b).entryWait = s.entryWait := rfl
@[simp] theorem putByte_launches (s : State) (a : Nat) (b : Byte) : (s.putByte a b).launches = s.launches := rfl
@[simp] theorem putByte_nLaunch (s : State) (a : Nat) (b : Byte) : (s.putByte a b).nLaunch = s.nLaunch := rfl
@[simp] theorem putByte_stackRings (s : State) (a : Nat) (b : Byte) : (s.putByte a b).stackRings = s.stackRings := rfl
@[simp] theorem putByte_meshRings (s : State) (a : Nat) (b : Byte) : (s.putByte a b).meshRings = s.meshRings := rfl
@[simp] theorem putByte_siteRings (s : State) (a : Nat) (b : Byte) : (s.putByte a b).siteRings = s.siteRings := rfl
@[simp] theorem putByte_links (s : State) (a : Nat) (b : Byte) : (s.putByte a b).links = s.links := rfl
@[simp] theorem putByte_powerCap (s : State) (a : Nat) (b : Byte) : (s.putByte a b).powerCap = s.powerCap := rfl
@[simp] theorem putByte_power (s : State) (a : Nat) (b : Byte) : (s.putByte a b).power = s.power := rfl
@[simp] theorem putByte_funcs (s : State) (a : Nat) (b : Byte) : (s.putByte a b).funcs = s.funcs := rfl
@[simp] theorem putByte_cols (s : State) (a : Nat) (b : Byte) : (s.putByte a b).cols = s.cols := rfl
@[simp] theorem putByte_ports (s : State) (a : Nat) (b : Byte) : (s.putByte a b).ports = s.ports := rfl
@[simp] theorem putByte_outFlits (s : State) (a : Nat) (b : Byte) : (s.putByte a b).outFlits = s.outFlits := rfl
@[simp] theorem putByte_flitSeq (s : State) (a : Nat) (b : Byte) : (s.putByte a b).flitSeq = s.flitSeq := rfl
@[simp] theorem putByte_enlSeen (s : State) (a : Nat) (b : Byte) : (s.putByte a b).enlSeen = s.enlSeen := rfl
@[simp] theorem putByte_enlRefused (s : State) (a : Nat) (b : Byte) : (s.putByte a b).enlRefused = s.enlRefused := rfl
@[simp] theorem putByte_msgOut (s : State) (a : Nat) (b : Byte) : (s.putByte a b).msgOut = s.msgOut := rfl
@[simp] theorem putByte_msgIn (s : State) (a : Nat) (b : Byte) : (s.putByte a b).msgIn = s.msgIn := rfl
@[simp] theorem putByte_slots (s : State) (a : Nat) (b : Byte) : (s.putByte a b).slots = s.slots := rfl
@[simp] theorem putByte_scrubAt (s : State) (a : Nat) (b : Byte) : (s.putByte a b).scrubAt = s.scrubAt := rfl
@[simp] theorem putByte_light (s : State) (a : Nat) (b : Byte) : (s.putByte a b).light = s.light := rfl
@[simp] theorem putByte_mgmt (s : State) (a : Nat) (b : Byte) : (s.putByte a b).mgmt = s.mgmt := rfl
@[simp] theorem putByte_wtags (s : State) (a : Nat) (b : Byte) : (s.putByte a b).wtags = s.wtags := rfl
@[simp] theorem putByte_stamp (s : State) (a : Nat) (b : Byte) : (s.putByte a b).stamp = s.stamp := rfl
@[simp] theorem putByte_cycle (s : State) (a : Nat) (b : Byte) : (s.putByte a b).cycle = s.cycle := rfl
@[simp] theorem putByte_agenda (s : State) (a : Nat) (b : Byte) : (s.putByte a b).agenda = s.agenda := rfl
@[simp] theorem putByte_turn (s : State) (a : Nat) (b : Byte) : (s.putByte a b).turn = s.turn := rfl
@[simp] theorem putByte_first (s : State) (a : Nat) (b : Byte) : (s.putByte a b).first = s.first := rfl
@[simp] theorem putByte_cur (s : State) (a : Nat) (b : Byte) : (s.putByte a b).cur = s.cur := rfl
@[simp] theorem putByte_pairing (s : State) (a : Nat) (b : Byte) : (s.putByte a b).pairing = s.pairing := rfl
@[simp] theorem putByte_mark (s : State) (a : Nat) (b : Byte) : (s.putByte a b).mark = s.mark := rfl
@[simp] theorem putByte_free (s : State) (a : Nat) (b : Byte) : (s.putByte a b).free = s.free := rfl
@[simp] theorem wrBytes_empties (s : State) (l : List (Nat × Byte)) : (s.wrBytes l).empties = s.empties := rfl
@[simp] theorem wrBytes_poison (s : State) (l : List (Nat × Byte)) : (s.wrBytes l).poison = s.poison := rfl
@[simp] theorem wrBytes_cells (s : State) (l : List (Nat × Byte)) : (s.wrBytes l).cells = s.cells := rfl
@[simp] theorem wrBytes_pages (s : State) (l : List (Nat × Byte)) : (s.wrBytes l).pages = s.pages := rfl
@[simp] theorem wrBytes_ctxs (s : State) (l : List (Nat × Byte)) : (s.wrBytes l).ctxs = s.ctxs := rfl
@[simp] theorem wrBytes_cores (s : State) (l : List (Nat × Byte)) : (s.wrBytes l).cores = s.cores := rfl
@[simp] theorem wrBytes_clus (s : State) (l : List (Nat × Byte)) : (s.wrBytes l).clus = s.clus := rfl
@[simp] theorem wrBytes_rdy (s : State) (l : List (Nat × Byte)) : (s.wrBytes l).rdy = s.rdy := rfl
@[simp] theorem wrBytes_rdySeen (s : State) (l : List (Nat × Byte)) : (s.wrBytes l).rdySeen = s.rdySeen := rfl
@[simp] theorem wrBytes_rdyNew (s : State) (l : List (Nat × Byte)) : (s.wrBytes l).rdyNew = s.rdyNew := rfl
@[simp] theorem wrBytes_parts (s : State) (l : List (Nat × Byte)) : (s.wrBytes l).parts = s.parts := rfl
@[simp] theorem wrBytes_pkg (s : State) (l : List (Nat × Byte)) : (s.wrBytes l).pkg = s.pkg := rfl
@[simp] theorem wrBytes_groupN (s : State) (l : List (Nat × Byte)) : (s.wrBytes l).groupN = s.groupN := rfl
@[simp] theorem wrBytes_sleepers (s : State) (l : List (Nat × Byte)) : (s.wrBytes l).sleepers = s.sleepers := rfl
@[simp] theorem wrBytes_entryWait (s : State) (l : List (Nat × Byte)) : (s.wrBytes l).entryWait = s.entryWait := rfl
@[simp] theorem wrBytes_launches (s : State) (l : List (Nat × Byte)) : (s.wrBytes l).launches = s.launches := rfl
@[simp] theorem wrBytes_nLaunch (s : State) (l : List (Nat × Byte)) : (s.wrBytes l).nLaunch = s.nLaunch := rfl
@[simp] theorem wrBytes_stackRings (s : State) (l : List (Nat × Byte)) : (s.wrBytes l).stackRings = s.stackRings := rfl
@[simp] theorem wrBytes_meshRings (s : State) (l : List (Nat × Byte)) : (s.wrBytes l).meshRings = s.meshRings := rfl
@[simp] theorem wrBytes_siteRings (s : State) (l : List (Nat × Byte)) : (s.wrBytes l).siteRings = s.siteRings := rfl
@[simp] theorem wrBytes_links (s : State) (l : List (Nat × Byte)) : (s.wrBytes l).links = s.links := rfl
@[simp] theorem wrBytes_powerCap (s : State) (l : List (Nat × Byte)) : (s.wrBytes l).powerCap = s.powerCap := rfl
@[simp] theorem wrBytes_power (s : State) (l : List (Nat × Byte)) : (s.wrBytes l).power = s.power := rfl
@[simp] theorem wrBytes_funcs (s : State) (l : List (Nat × Byte)) : (s.wrBytes l).funcs = s.funcs := rfl
@[simp] theorem wrBytes_cols (s : State) (l : List (Nat × Byte)) : (s.wrBytes l).cols = s.cols := rfl
@[simp] theorem wrBytes_ports (s : State) (l : List (Nat × Byte)) : (s.wrBytes l).ports = s.ports := rfl
@[simp] theorem wrBytes_outFlits (s : State) (l : List (Nat × Byte)) : (s.wrBytes l).outFlits = s.outFlits := rfl
@[simp] theorem wrBytes_flitSeq (s : State) (l : List (Nat × Byte)) : (s.wrBytes l).flitSeq = s.flitSeq := rfl
@[simp] theorem wrBytes_enlSeen (s : State) (l : List (Nat × Byte)) : (s.wrBytes l).enlSeen = s.enlSeen := rfl
@[simp] theorem wrBytes_enlRefused (s : State) (l : List (Nat × Byte)) : (s.wrBytes l).enlRefused = s.enlRefused := rfl
@[simp] theorem wrBytes_msgOut (s : State) (l : List (Nat × Byte)) : (s.wrBytes l).msgOut = s.msgOut := rfl
@[simp] theorem wrBytes_msgIn (s : State) (l : List (Nat × Byte)) : (s.wrBytes l).msgIn = s.msgIn := rfl
@[simp] theorem wrBytes_slots (s : State) (l : List (Nat × Byte)) : (s.wrBytes l).slots = s.slots := rfl
@[simp] theorem wrBytes_scrubAt (s : State) (l : List (Nat × Byte)) : (s.wrBytes l).scrubAt = s.scrubAt := rfl
@[simp] theorem wrBytes_light (s : State) (l : List (Nat × Byte)) : (s.wrBytes l).light = s.light := rfl
@[simp] theorem wrBytes_mgmt (s : State) (l : List (Nat × Byte)) : (s.wrBytes l).mgmt = s.mgmt := rfl
@[simp] theorem wrBytes_wtags (s : State) (l : List (Nat × Byte)) : (s.wrBytes l).wtags = s.wtags := rfl
@[simp] theorem wrBytes_stamp (s : State) (l : List (Nat × Byte)) : (s.wrBytes l).stamp = s.stamp := rfl
@[simp] theorem wrBytes_cycle (s : State) (l : List (Nat × Byte)) : (s.wrBytes l).cycle = s.cycle := rfl
@[simp] theorem wrBytes_agenda (s : State) (l : List (Nat × Byte)) : (s.wrBytes l).agenda = s.agenda := rfl
@[simp] theorem wrBytes_turn (s : State) (l : List (Nat × Byte)) : (s.wrBytes l).turn = s.turn := rfl
@[simp] theorem wrBytes_first (s : State) (l : List (Nat × Byte)) : (s.wrBytes l).first = s.first := rfl
@[simp] theorem wrBytes_cur (s : State) (l : List (Nat × Byte)) : (s.wrBytes l).cur = s.cur := rfl
@[simp] theorem wrBytes_pairing (s : State) (l : List (Nat × Byte)) : (s.wrBytes l).pairing = s.pairing := rfl
@[simp] theorem wrBytes_mark (s : State) (l : List (Nat × Byte)) : (s.wrBytes l).mark = s.mark := rfl
@[simp] theorem wrBytes_free (s : State) (l : List (Nat × Byte)) : (s.wrBytes l).free = s.free := rfl
@[simp] theorem wrN_empties (s : State) (a n v : Nat) : (s.wrN a n v).empties = s.empties := rfl
@[simp] theorem wrN_poison (s : State) (a n v : Nat) : (s.wrN a n v).poison = s.poison := rfl
@[simp] theorem wrN_cells (s : State) (a n v : Nat) : (s.wrN a n v).cells = s.cells := rfl
@[simp] theorem wrN_pages (s : State) (a n v : Nat) : (s.wrN a n v).pages = s.pages := rfl
@[simp] theorem wrN_ctxs (s : State) (a n v : Nat) : (s.wrN a n v).ctxs = s.ctxs := rfl
@[simp] theorem wrN_cores (s : State) (a n v : Nat) : (s.wrN a n v).cores = s.cores := rfl
@[simp] theorem wrN_clus (s : State) (a n v : Nat) : (s.wrN a n v).clus = s.clus := rfl
@[simp] theorem wrN_rdy (s : State) (a n v : Nat) : (s.wrN a n v).rdy = s.rdy := rfl
@[simp] theorem wrN_rdySeen (s : State) (a n v : Nat) : (s.wrN a n v).rdySeen = s.rdySeen := rfl
@[simp] theorem wrN_rdyNew (s : State) (a n v : Nat) : (s.wrN a n v).rdyNew = s.rdyNew := rfl
@[simp] theorem wrN_parts (s : State) (a n v : Nat) : (s.wrN a n v).parts = s.parts := rfl
@[simp] theorem wrN_pkg (s : State) (a n v : Nat) : (s.wrN a n v).pkg = s.pkg := rfl
@[simp] theorem wrN_groupN (s : State) (a n v : Nat) : (s.wrN a n v).groupN = s.groupN := rfl
@[simp] theorem wrN_sleepers (s : State) (a n v : Nat) : (s.wrN a n v).sleepers = s.sleepers := rfl
@[simp] theorem wrN_entryWait (s : State) (a n v : Nat) : (s.wrN a n v).entryWait = s.entryWait := rfl
@[simp] theorem wrN_launches (s : State) (a n v : Nat) : (s.wrN a n v).launches = s.launches := rfl
@[simp] theorem wrN_nLaunch (s : State) (a n v : Nat) : (s.wrN a n v).nLaunch = s.nLaunch := rfl
@[simp] theorem wrN_stackRings (s : State) (a n v : Nat) : (s.wrN a n v).stackRings = s.stackRings := rfl
@[simp] theorem wrN_meshRings (s : State) (a n v : Nat) : (s.wrN a n v).meshRings = s.meshRings := rfl
@[simp] theorem wrN_siteRings (s : State) (a n v : Nat) : (s.wrN a n v).siteRings = s.siteRings := rfl
@[simp] theorem wrN_links (s : State) (a n v : Nat) : (s.wrN a n v).links = s.links := rfl
@[simp] theorem wrN_powerCap (s : State) (a n v : Nat) : (s.wrN a n v).powerCap = s.powerCap := rfl
@[simp] theorem wrN_power (s : State) (a n v : Nat) : (s.wrN a n v).power = s.power := rfl
@[simp] theorem wrN_funcs (s : State) (a n v : Nat) : (s.wrN a n v).funcs = s.funcs := rfl
@[simp] theorem wrN_cols (s : State) (a n v : Nat) : (s.wrN a n v).cols = s.cols := rfl
@[simp] theorem wrN_ports (s : State) (a n v : Nat) : (s.wrN a n v).ports = s.ports := rfl
@[simp] theorem wrN_outFlits (s : State) (a n v : Nat) : (s.wrN a n v).outFlits = s.outFlits := rfl
@[simp] theorem wrN_flitSeq (s : State) (a n v : Nat) : (s.wrN a n v).flitSeq = s.flitSeq := rfl
@[simp] theorem wrN_enlSeen (s : State) (a n v : Nat) : (s.wrN a n v).enlSeen = s.enlSeen := rfl
@[simp] theorem wrN_enlRefused (s : State) (a n v : Nat) : (s.wrN a n v).enlRefused = s.enlRefused := rfl
@[simp] theorem wrN_msgOut (s : State) (a n v : Nat) : (s.wrN a n v).msgOut = s.msgOut := rfl
@[simp] theorem wrN_msgIn (s : State) (a n v : Nat) : (s.wrN a n v).msgIn = s.msgIn := rfl
@[simp] theorem wrN_slots (s : State) (a n v : Nat) : (s.wrN a n v).slots = s.slots := rfl
@[simp] theorem wrN_scrubAt (s : State) (a n v : Nat) : (s.wrN a n v).scrubAt = s.scrubAt := rfl
@[simp] theorem wrN_light (s : State) (a n v : Nat) : (s.wrN a n v).light = s.light := rfl
@[simp] theorem wrN_mgmt (s : State) (a n v : Nat) : (s.wrN a n v).mgmt = s.mgmt := rfl
@[simp] theorem wrN_wtags (s : State) (a n v : Nat) : (s.wrN a n v).wtags = s.wtags := rfl
@[simp] theorem wrN_stamp (s : State) (a n v : Nat) : (s.wrN a n v).stamp = s.stamp := rfl
@[simp] theorem wrN_cycle (s : State) (a n v : Nat) : (s.wrN a n v).cycle = s.cycle := rfl
@[simp] theorem wrN_agenda (s : State) (a n v : Nat) : (s.wrN a n v).agenda = s.agenda := rfl
@[simp] theorem wrN_turn (s : State) (a n v : Nat) : (s.wrN a n v).turn = s.turn := rfl
@[simp] theorem wrN_first (s : State) (a n v : Nat) : (s.wrN a n v).first = s.first := rfl
@[simp] theorem wrN_cur (s : State) (a n v : Nat) : (s.wrN a n v).cur = s.cur := rfl
@[simp] theorem wrN_pairing (s : State) (a n v : Nat) : (s.wrN a n v).pairing = s.pairing := rfl
@[simp] theorem wrN_mark (s : State) (a n v : Nat) : (s.wrN a n v).mark = s.mark := rfl
@[simp] theorem wrN_free (s : State) (a n v : Nat) : (s.wrN a n v).free = s.free := rfl
@[simp] theorem setFull_mem (s : State) (w : Nat) : (s.setFull w).mem = s.mem := rfl
@[simp] theorem setFull_poison (s : State) (w : Nat) : (s.setFull w).poison = s.poison := rfl
@[simp] theorem setFull_cells (s : State) (w : Nat) : (s.setFull w).cells = s.cells := rfl
@[simp] theorem setFull_pages (s : State) (w : Nat) : (s.setFull w).pages = s.pages := rfl
@[simp] theorem setFull_ctxs (s : State) (w : Nat) : (s.setFull w).ctxs = s.ctxs := rfl
@[simp] theorem setFull_cores (s : State) (w : Nat) : (s.setFull w).cores = s.cores := rfl
@[simp] theorem setFull_clus (s : State) (w : Nat) : (s.setFull w).clus = s.clus := rfl
@[simp] theorem setFull_rdy (s : State) (w : Nat) : (s.setFull w).rdy = s.rdy := rfl
@[simp] theorem setFull_rdySeen (s : State) (w : Nat) : (s.setFull w).rdySeen = s.rdySeen := rfl
@[simp] theorem setFull_rdyNew (s : State) (w : Nat) : (s.setFull w).rdyNew = s.rdyNew := rfl
@[simp] theorem setFull_parts (s : State) (w : Nat) : (s.setFull w).parts = s.parts := rfl
@[simp] theorem setFull_pkg (s : State) (w : Nat) : (s.setFull w).pkg = s.pkg := rfl
@[simp] theorem setFull_groupN (s : State) (w : Nat) : (s.setFull w).groupN = s.groupN := rfl
@[simp] theorem setFull_sleepers (s : State) (w : Nat) : (s.setFull w).sleepers = s.sleepers := rfl
@[simp] theorem setFull_entryWait (s : State) (w : Nat) : (s.setFull w).entryWait = s.entryWait := rfl
@[simp] theorem setFull_launches (s : State) (w : Nat) : (s.setFull w).launches = s.launches := rfl
@[simp] theorem setFull_nLaunch (s : State) (w : Nat) : (s.setFull w).nLaunch = s.nLaunch := rfl
@[simp] theorem setFull_stackRings (s : State) (w : Nat) : (s.setFull w).stackRings = s.stackRings := rfl
@[simp] theorem setFull_meshRings (s : State) (w : Nat) : (s.setFull w).meshRings = s.meshRings := rfl
@[simp] theorem setFull_siteRings (s : State) (w : Nat) : (s.setFull w).siteRings = s.siteRings := rfl
@[simp] theorem setFull_links (s : State) (w : Nat) : (s.setFull w).links = s.links := rfl
@[simp] theorem setFull_powerCap (s : State) (w : Nat) : (s.setFull w).powerCap = s.powerCap := rfl
@[simp] theorem setFull_power (s : State) (w : Nat) : (s.setFull w).power = s.power := rfl
@[simp] theorem setFull_funcs (s : State) (w : Nat) : (s.setFull w).funcs = s.funcs := rfl
@[simp] theorem setFull_cols (s : State) (w : Nat) : (s.setFull w).cols = s.cols := rfl
@[simp] theorem setFull_ports (s : State) (w : Nat) : (s.setFull w).ports = s.ports := rfl
@[simp] theorem setFull_outFlits (s : State) (w : Nat) : (s.setFull w).outFlits = s.outFlits := rfl
@[simp] theorem setFull_flitSeq (s : State) (w : Nat) : (s.setFull w).flitSeq = s.flitSeq := rfl
@[simp] theorem setFull_enlSeen (s : State) (w : Nat) : (s.setFull w).enlSeen = s.enlSeen := rfl
@[simp] theorem setFull_enlRefused (s : State) (w : Nat) : (s.setFull w).enlRefused = s.enlRefused := rfl
@[simp] theorem setFull_msgOut (s : State) (w : Nat) : (s.setFull w).msgOut = s.msgOut := rfl
@[simp] theorem setFull_msgIn (s : State) (w : Nat) : (s.setFull w).msgIn = s.msgIn := rfl
@[simp] theorem setFull_slots (s : State) (w : Nat) : (s.setFull w).slots = s.slots := rfl
@[simp] theorem setFull_scrubAt (s : State) (w : Nat) : (s.setFull w).scrubAt = s.scrubAt := rfl
@[simp] theorem setFull_light (s : State) (w : Nat) : (s.setFull w).light = s.light := rfl
@[simp] theorem setFull_mgmt (s : State) (w : Nat) : (s.setFull w).mgmt = s.mgmt := rfl
@[simp] theorem setFull_wtags (s : State) (w : Nat) : (s.setFull w).wtags = s.wtags := rfl
@[simp] theorem setFull_stamp (s : State) (w : Nat) : (s.setFull w).stamp = s.stamp := rfl
@[simp] theorem setFull_cycle (s : State) (w : Nat) : (s.setFull w).cycle = s.cycle := rfl
@[simp] theorem setFull_agenda (s : State) (w : Nat) : (s.setFull w).agenda = s.agenda := rfl
@[simp] theorem setFull_turn (s : State) (w : Nat) : (s.setFull w).turn = s.turn := rfl
@[simp] theorem setFull_first (s : State) (w : Nat) : (s.setFull w).first = s.first := rfl
@[simp] theorem setFull_cur (s : State) (w : Nat) : (s.setFull w).cur = s.cur := rfl
@[simp] theorem setFull_pairing (s : State) (w : Nat) : (s.setFull w).pairing = s.pairing := rfl
@[simp] theorem setFull_mark (s : State) (w : Nat) : (s.setFull w).mark = s.mark := rfl
@[simp] theorem setFull_free (s : State) (w : Nat) : (s.setFull w).free = s.free := rfl
@[simp] theorem setEmpty_mem (s : State) (w : Nat) : (s.setEmpty w).mem = s.mem := rfl
@[simp] theorem setEmpty_poison (s : State) (w : Nat) : (s.setEmpty w).poison = s.poison := rfl
@[simp] theorem setEmpty_cells (s : State) (w : Nat) : (s.setEmpty w).cells = s.cells := rfl
@[simp] theorem setEmpty_pages (s : State) (w : Nat) : (s.setEmpty w).pages = s.pages := rfl
@[simp] theorem setEmpty_ctxs (s : State) (w : Nat) : (s.setEmpty w).ctxs = s.ctxs := rfl
@[simp] theorem setEmpty_cores (s : State) (w : Nat) : (s.setEmpty w).cores = s.cores := rfl
@[simp] theorem setEmpty_clus (s : State) (w : Nat) : (s.setEmpty w).clus = s.clus := rfl
@[simp] theorem setEmpty_rdy (s : State) (w : Nat) : (s.setEmpty w).rdy = s.rdy := rfl
@[simp] theorem setEmpty_rdySeen (s : State) (w : Nat) : (s.setEmpty w).rdySeen = s.rdySeen := rfl
@[simp] theorem setEmpty_rdyNew (s : State) (w : Nat) : (s.setEmpty w).rdyNew = s.rdyNew := rfl
@[simp] theorem setEmpty_parts (s : State) (w : Nat) : (s.setEmpty w).parts = s.parts := rfl
@[simp] theorem setEmpty_pkg (s : State) (w : Nat) : (s.setEmpty w).pkg = s.pkg := rfl
@[simp] theorem setEmpty_groupN (s : State) (w : Nat) : (s.setEmpty w).groupN = s.groupN := rfl
@[simp] theorem setEmpty_sleepers (s : State) (w : Nat) : (s.setEmpty w).sleepers = s.sleepers := rfl
@[simp] theorem setEmpty_entryWait (s : State) (w : Nat) : (s.setEmpty w).entryWait = s.entryWait := rfl
@[simp] theorem setEmpty_launches (s : State) (w : Nat) : (s.setEmpty w).launches = s.launches := rfl
@[simp] theorem setEmpty_nLaunch (s : State) (w : Nat) : (s.setEmpty w).nLaunch = s.nLaunch := rfl
@[simp] theorem setEmpty_stackRings (s : State) (w : Nat) : (s.setEmpty w).stackRings = s.stackRings := rfl
@[simp] theorem setEmpty_meshRings (s : State) (w : Nat) : (s.setEmpty w).meshRings = s.meshRings := rfl
@[simp] theorem setEmpty_siteRings (s : State) (w : Nat) : (s.setEmpty w).siteRings = s.siteRings := rfl
@[simp] theorem setEmpty_links (s : State) (w : Nat) : (s.setEmpty w).links = s.links := rfl
@[simp] theorem setEmpty_powerCap (s : State) (w : Nat) : (s.setEmpty w).powerCap = s.powerCap := rfl
@[simp] theorem setEmpty_power (s : State) (w : Nat) : (s.setEmpty w).power = s.power := rfl
@[simp] theorem setEmpty_funcs (s : State) (w : Nat) : (s.setEmpty w).funcs = s.funcs := rfl
@[simp] theorem setEmpty_cols (s : State) (w : Nat) : (s.setEmpty w).cols = s.cols := rfl
@[simp] theorem setEmpty_ports (s : State) (w : Nat) : (s.setEmpty w).ports = s.ports := rfl
@[simp] theorem setEmpty_outFlits (s : State) (w : Nat) : (s.setEmpty w).outFlits = s.outFlits := rfl
@[simp] theorem setEmpty_flitSeq (s : State) (w : Nat) : (s.setEmpty w).flitSeq = s.flitSeq := rfl
@[simp] theorem setEmpty_enlSeen (s : State) (w : Nat) : (s.setEmpty w).enlSeen = s.enlSeen := rfl
@[simp] theorem setEmpty_enlRefused (s : State) (w : Nat) : (s.setEmpty w).enlRefused = s.enlRefused := rfl
@[simp] theorem setEmpty_msgOut (s : State) (w : Nat) : (s.setEmpty w).msgOut = s.msgOut := rfl
@[simp] theorem setEmpty_msgIn (s : State) (w : Nat) : (s.setEmpty w).msgIn = s.msgIn := rfl
@[simp] theorem setEmpty_slots (s : State) (w : Nat) : (s.setEmpty w).slots = s.slots := rfl
@[simp] theorem setEmpty_scrubAt (s : State) (w : Nat) : (s.setEmpty w).scrubAt = s.scrubAt := rfl
@[simp] theorem setEmpty_light (s : State) (w : Nat) : (s.setEmpty w).light = s.light := rfl
@[simp] theorem setEmpty_mgmt (s : State) (w : Nat) : (s.setEmpty w).mgmt = s.mgmt := rfl
@[simp] theorem setEmpty_wtags (s : State) (w : Nat) : (s.setEmpty w).wtags = s.wtags := rfl
@[simp] theorem setEmpty_stamp (s : State) (w : Nat) : (s.setEmpty w).stamp = s.stamp := rfl
@[simp] theorem setEmpty_cycle (s : State) (w : Nat) : (s.setEmpty w).cycle = s.cycle := rfl
@[simp] theorem setEmpty_agenda (s : State) (w : Nat) : (s.setEmpty w).agenda = s.agenda := rfl
@[simp] theorem setEmpty_turn (s : State) (w : Nat) : (s.setEmpty w).turn = s.turn := rfl
@[simp] theorem setEmpty_first (s : State) (w : Nat) : (s.setEmpty w).first = s.first := rfl
@[simp] theorem setEmpty_cur (s : State) (w : Nat) : (s.setEmpty w).cur = s.cur := rfl
@[simp] theorem setEmpty_pairing (s : State) (w : Nat) : (s.setEmpty w).pairing = s.pairing := rfl
@[simp] theorem setEmpty_mark (s : State) (w : Nat) : (s.setEmpty w).mark = s.mark := rfl
@[simp] theorem setEmpty_free (s : State) (w : Nat) : (s.setEmpty w).free = s.free := rfl
@[simp] theorem setBad_mem (s : State) (a : Nat) : (s.setBad a).mem = s.mem := rfl
@[simp] theorem setBad_empties (s : State) (a : Nat) : (s.setBad a).empties = s.empties := rfl
@[simp] theorem setBad_cells (s : State) (a : Nat) : (s.setBad a).cells = s.cells := rfl
@[simp] theorem setBad_pages (s : State) (a : Nat) : (s.setBad a).pages = s.pages := rfl
@[simp] theorem setBad_ctxs (s : State) (a : Nat) : (s.setBad a).ctxs = s.ctxs := rfl
@[simp] theorem setBad_cores (s : State) (a : Nat) : (s.setBad a).cores = s.cores := rfl
@[simp] theorem setBad_clus (s : State) (a : Nat) : (s.setBad a).clus = s.clus := rfl
@[simp] theorem setBad_rdy (s : State) (a : Nat) : (s.setBad a).rdy = s.rdy := rfl
@[simp] theorem setBad_rdySeen (s : State) (a : Nat) : (s.setBad a).rdySeen = s.rdySeen := rfl
@[simp] theorem setBad_rdyNew (s : State) (a : Nat) : (s.setBad a).rdyNew = s.rdyNew := rfl
@[simp] theorem setBad_parts (s : State) (a : Nat) : (s.setBad a).parts = s.parts := rfl
@[simp] theorem setBad_pkg (s : State) (a : Nat) : (s.setBad a).pkg = s.pkg := rfl
@[simp] theorem setBad_groupN (s : State) (a : Nat) : (s.setBad a).groupN = s.groupN := rfl
@[simp] theorem setBad_sleepers (s : State) (a : Nat) : (s.setBad a).sleepers = s.sleepers := rfl
@[simp] theorem setBad_entryWait (s : State) (a : Nat) : (s.setBad a).entryWait = s.entryWait := rfl
@[simp] theorem setBad_launches (s : State) (a : Nat) : (s.setBad a).launches = s.launches := rfl
@[simp] theorem setBad_nLaunch (s : State) (a : Nat) : (s.setBad a).nLaunch = s.nLaunch := rfl
@[simp] theorem setBad_stackRings (s : State) (a : Nat) : (s.setBad a).stackRings = s.stackRings := rfl
@[simp] theorem setBad_meshRings (s : State) (a : Nat) : (s.setBad a).meshRings = s.meshRings := rfl
@[simp] theorem setBad_siteRings (s : State) (a : Nat) : (s.setBad a).siteRings = s.siteRings := rfl
@[simp] theorem setBad_links (s : State) (a : Nat) : (s.setBad a).links = s.links := rfl
@[simp] theorem setBad_powerCap (s : State) (a : Nat) : (s.setBad a).powerCap = s.powerCap := rfl
@[simp] theorem setBad_power (s : State) (a : Nat) : (s.setBad a).power = s.power := rfl
@[simp] theorem setBad_funcs (s : State) (a : Nat) : (s.setBad a).funcs = s.funcs := rfl
@[simp] theorem setBad_cols (s : State) (a : Nat) : (s.setBad a).cols = s.cols := rfl
@[simp] theorem setBad_ports (s : State) (a : Nat) : (s.setBad a).ports = s.ports := rfl
@[simp] theorem setBad_outFlits (s : State) (a : Nat) : (s.setBad a).outFlits = s.outFlits := rfl
@[simp] theorem setBad_flitSeq (s : State) (a : Nat) : (s.setBad a).flitSeq = s.flitSeq := rfl
@[simp] theorem setBad_enlSeen (s : State) (a : Nat) : (s.setBad a).enlSeen = s.enlSeen := rfl
@[simp] theorem setBad_enlRefused (s : State) (a : Nat) : (s.setBad a).enlRefused = s.enlRefused := rfl
@[simp] theorem setBad_msgOut (s : State) (a : Nat) : (s.setBad a).msgOut = s.msgOut := rfl
@[simp] theorem setBad_msgIn (s : State) (a : Nat) : (s.setBad a).msgIn = s.msgIn := rfl
@[simp] theorem setBad_slots (s : State) (a : Nat) : (s.setBad a).slots = s.slots := rfl
@[simp] theorem setBad_scrubAt (s : State) (a : Nat) : (s.setBad a).scrubAt = s.scrubAt := rfl
@[simp] theorem setBad_light (s : State) (a : Nat) : (s.setBad a).light = s.light := rfl
@[simp] theorem setBad_mgmt (s : State) (a : Nat) : (s.setBad a).mgmt = s.mgmt := rfl
@[simp] theorem setBad_wtags (s : State) (a : Nat) : (s.setBad a).wtags = s.wtags := rfl
@[simp] theorem setBad_stamp (s : State) (a : Nat) : (s.setBad a).stamp = s.stamp := rfl
@[simp] theorem setBad_cycle (s : State) (a : Nat) : (s.setBad a).cycle = s.cycle := rfl
@[simp] theorem setBad_agenda (s : State) (a : Nat) : (s.setBad a).agenda = s.agenda := rfl
@[simp] theorem setBad_turn (s : State) (a : Nat) : (s.setBad a).turn = s.turn := rfl
@[simp] theorem setBad_first (s : State) (a : Nat) : (s.setBad a).first = s.first := rfl
@[simp] theorem setBad_cur (s : State) (a : Nat) : (s.setBad a).cur = s.cur := rfl
@[simp] theorem setBad_pairing (s : State) (a : Nat) : (s.setBad a).pairing = s.pairing := rfl
@[simp] theorem setBad_mark (s : State) (a : Nat) : (s.setBad a).mark = s.mark := rfl
@[simp] theorem setBad_free (s : State) (a : Nat) : (s.setBad a).free = s.free := rfl

end Sys2Proof.Machine
end

