-- ==== Sys2Proof/Laws/Memory.lean ====
section
/-! SUPPORT. The laws of memory: what a byte reads after a write, and that every operation keeps the canonical form. -/
namespace Sys2Proof.Machine

/-! ## Bytes -/

/-- A byte reads what was written last at its address. -/
@[simp] theorem mget_mput_same (m : Memory) (a : Nat) (b : Byte) (h : m.wfAbove 0 = true) :
    mget (mput m a b) a = b := by
  suffices ∀ n, Memory.wfAbove n m = true → mget (mput m a b) a = b from this 0 h
  clear h
  induction m with
  | nil => intro n _; simp only [mput]; split <;> simp_all [mget]
  | cons p m ih =>
    obtain ⟨j, c⟩ := p
    intro n hw
    simp only [Memory.wfAbove, Bool.and_eq_true, decide_eq_true_eq, bne_iff_ne] at hw
    have hmiss : ∀ (m : Memory) (k : Nat), Memory.wfAbove k m = true → a < k → mget m a = unlisted := by
      intro m
      induction m with
      | nil => intros; rfl
      | cons q m ihm =>
        obtain ⟨i, d⟩ := q
        intro k hk hlt
        simp only [Memory.wfAbove, Bool.and_eq_true, decide_eq_true_eq, bne_iff_ne] at hk
        simp only [mget]
        rw [if_neg (by omega)]
        exact ihm (i + 1) hk.2 (by omega)
    simp only [mput]
    split
    · split
      · subst b
        simp only [mget]
        rw [if_neg (by omega)]
        exact hmiss m (j + 1) hw.2 (by omega)
      · simp [mget]
    · split
      · split
        · subst b
          exact hmiss m (j + 1) hw.2 (by omega)
        · simp [mget]
      · simp only [mget]
        rw [if_neg ‹_›]
        exact ih (j + 1) hw.2
/-- A write leaves every other byte alone. -/
theorem mget_mput_ne (m : Memory) (a x : Nat) (b : Byte) (h : x ≠ a) (hw : m.wfAbove 0 = true) :
    mget (mput m a b) x = mget m x := by
  clear hw
  induction m with
  | nil => simp only [mput]; split <;> simp [mget, Ne.symm h]
  | cons p m ih =>
    obtain ⟨j, c⟩ := p
    simp only [mput]
    split
    · split
      · rfl
      · simp [mget, Ne.symm h]
    · split
      · subst j
        split <;> simp [mget, Ne.symm h]
      · simp [mget, ih]
/-- Memory in canonical form stays so under the write of one byte, and keeps any bound below the address. -/
theorem wfAbove_mput (m : Memory) (n a : Nat) (b : Byte) (h : m.wfAbove n = true) (ha : n ≤ a) :
    (mput m a b : Memory).wfAbove n = true := by
  induction m generalizing n with
  | nil => simp only [mput]; split <;> simp_all [Memory.wfAbove]
  | cons p m ih =>
    obtain ⟨j, c⟩ := p
    have h0 := h
    simp only [Memory.wfAbove, Bool.and_eq_true, decide_eq_true_eq, bne_iff_ne] at h
    simp only [mput]
    split
    · split
      · exact h0
      · simp only [Memory.wfAbove, Bool.and_eq_true, decide_eq_true_eq, bne_iff_ne]
        exact ⟨⟨ha, ‹_›⟩, ⟨by omega, h.1.2⟩, h.2⟩
    · split
      · subst j
        split
        · have hup : ∀ (m : Memory) (k l : Nat), Memory.wfAbove k m = true → l ≤ k → Memory.wfAbove l m = true := by
            intro m k l hk hl
            cases m with
            | nil => rfl
            | cons q m =>
              simp only [Memory.wfAbove, Bool.and_eq_true, decide_eq_true_eq, bne_iff_ne] at hk ⊢
              exact ⟨⟨by omega, hk.1.2⟩, hk.2⟩
          exact hup m (a + 1) n h.2 (by omega)
        · simp only [Memory.wfAbove, Bool.and_eq_true, decide_eq_true_eq, bne_iff_ne]
          exact ⟨⟨ha, ‹_›⟩, h.2⟩
      · simp only [Memory.wfAbove, Bool.and_eq_true, decide_eq_true_eq, bne_iff_ne]
        exact ⟨h.1, ih (j + 1) h.2 (by omega)⟩
/-- The write of one byte keeps the canonical form. -/
theorem wf_mput (m : Memory) (a : Nat) (b : Byte) (h : m.wf = true) : (mput m a b : Memory).wf = true :=
  wfAbove_mput m 0 a b h (Nat.zero_le a)
/-- The write of bytes keeps the canonical form. -/
theorem wf_writes (l : List (Nat × Byte)) (m : Memory) (h : m.wf = true) :
    (l.foldl (fun m p => mput m p.1 p.2) m : Memory).wf = true := by
  induction l generalizing m with
  | nil => exact h
  | cons p l ih => exact ih _ (wf_mput m p.1 p.2 h)
/-- Bytes that no write names read as before. -/
theorem mget_writes_ne (l : List (Nat × Byte)) (m : Memory) (x : Nat) (h : m.wf = true) (hx : ∀ p ∈ l, p.1 ≠ x) :
    mget (l.foldl (fun m p => mput m p.1 p.2) m) x = mget m x := by
  induction l generalizing m with
  | nil => rfl
  | cons p l ih =>
    simp only [List.foldl_cons]
    rw [ih _ (wf_mput m p.1 p.2 h) (fun q hq => hx q (List.mem_cons_of_mem _ hq)),
      mget_mput_ne m p.1 x p.2 (Ne.symm (hx p List.mem_cons_self)) h]

/-! ## Sorted lists -/

/-- A bound below a rising list may be lowered. -/
theorem risingFrom_mono (l : List Nat) (k n : Nat) (h : risingFrom k l = true) (hn : n ≤ k) : risingFrom n l = true := by
  cases l with
  | nil => rfl
  | cons a l => simp only [risingFrom, Bool.and_eq_true, decide_eq_true_eq] at h ⊢; exact ⟨by omega, h.2⟩
/-- Putting a key in keeps a list rising. -/
theorem risingFrom_kput (l : List Nat) (n k : Nat) (h : risingFrom n l = true) (hk : n ≤ k) :
    risingFrom n (kput l k) = true := by
  induction l generalizing n with
  | nil => simp [kput, risingFrom, hk]
  | cons j l ih =>
    have h0 := h
    simp only [risingFrom, Bool.and_eq_true, decide_eq_true_eq] at h
    simp only [kput]
    split
    · simp only [risingFrom, Bool.and_eq_true, decide_eq_true_eq]; exact ⟨hk, by omega, h.2⟩
    · split
      · exact h0
      · simp only [risingFrom, Bool.and_eq_true, decide_eq_true_eq]
        exact ⟨h.1, ih (j + 1) h.2 (by omega)⟩
/-- Filtering keeps a list rising. -/
theorem risingFrom_filter (l : List Nat) (n : Nat) (p : Nat → Bool) (h : risingFrom n l = true) :
    risingFrom n (l.filter p) = true := by
  induction l generalizing n with
  | nil => rfl
  | cons j l ih =>
    simp only [risingFrom, Bool.and_eq_true, decide_eq_true_eq] at h
    simp only [List.filter_cons]
    split
    · simp only [risingFrom, Bool.and_eq_true, decide_eq_true_eq]; exact ⟨h.1, ih _ h.2⟩
    · exact risingFrom_mono _ (j + 1) n (ih _ h.2) (by omega)
/-- Taking a key out keeps a list rising. -/
theorem risingFrom_kdel (l : List Nat) (n k : Nat) (h : risingFrom n l = true) : risingFrom n (kdel l k) = true :=
  risingFrom_filter l n _ h
/-- What a list holds after a key is put in. -/
theorem mem_kput (l : List Nat) (k j : Nat) : j ∈ kput l k ↔ j = k ∨ j ∈ l := by
  induction l with
  | nil => simp [kput]
  | cons i l ih =>
    simp only [kput]
    split
    · simp
    · split
      · subst i; simp
      · simp [ih]; tauto
/-- What a list holds after a key is taken out. -/
theorem mem_kdel (l : List Nat) (k j : Nat) : j ∈ kdel l k ↔ j ∈ l ∧ j ≠ k := by simp [kdel]
/-- Any number of keys put in or taken out, the list still rises. -/
theorem risingFrom_foldl (ws l : List Nat) (f : List Nat → Nat → List Nat)
    (hf : ∀ l w, risingFrom 0 l = true → risingFrom 0 (f l w) = true) (h : risingFrom 0 l = true) :
    risingFrom 0 (ws.foldl f l) = true := by
  induction ws generalizing l with
  | nil => exact h
  | cons w ws ih => exact ih _ (hf l w h)

/-! ## The form of the state -/

/-- Memory, full bits, poison and the cells that have been written decide the form. -/
theorem State.form.congr {s t : State} (h : s.form) (hm : t.mem = s.mem) (he : t.empties = s.empties)
    (hp : t.poison = s.poison) (hc : t.cells = s.cells) : t.form := by unfold State.form at *; rw [hm, he, hp, hc]; exact h
theorem form_putByte (s : State) (a : Nat) (b : Byte) (h : s.form) : (s.putByte a b).form :=
  ⟨wf_mput s.mem a b h.1, h.2⟩
theorem form_wrBytes (s : State) (l : List (Nat × Byte)) (h : s.form) : (s.wrBytes l).form :=
  ⟨wf_writes l s.mem h.1, h.2⟩
theorem form_wrN (s : State) (a n v : Nat) (h : s.form) : (s.wrN a n v).form := form_wrBytes s _ h
theorem form_setFull (s : State) (w : Nat) (h : s.form) : (s.setFull w).form :=
  ⟨h.1, risingFrom_kdel _ _ _ h.2.1, h.2.2⟩
theorem form_setEmpty (s : State) (w : Nat) (h : s.form) : (s.setEmpty w).form :=
  ⟨h.1, risingFrom_kput _ _ _ h.2.1 (Nat.zero_le w), h.2.2⟩
theorem form_setBad (s : State) (a : Nat) (h : s.form) : (s.setBad a).form :=
  ⟨h.1, h.2.1, risingFrom_kput _ _ _ h.2.2.1 (Nat.zero_le _), h.2.2.2⟩
/-- A store keeps the form: the bytes, and the poison of the words it touches. -/
theorem form_store (s : State) (a n v : Nat) (bad : Bool) (h : s.form) : (s.store a n v bad).form := by
  have h1 : State.form { s with poison := (wordsOf a n).foldl (fun p w => if covers a n w then kdel p w else p) s.poison } := by
    refine ⟨h.1, h.2.1, risingFrom_foldl _ _ _ (fun l w hl => ?_) h.2.2.1, h.2.2.2⟩
    split
    · exact risingFrom_kdel _ _ _ hl
    · exact hl
  have h2 := form_wrN _ a n v h1
  unfold State.store
  cases bad with
  | false => exact h2
  | true => exact ⟨h2.1, h2.2.1, risingFrom_foldl _ _ _ (fun l w hl => risingFrom_kput _ _ _ hl (Nat.zero_le w)) h2.2.2.1, h2.2.2.2⟩

/-! ## Whole values (R5) -/

/-- The bytes of a value stand at consecutive addresses. -/
theorem byteList_addr (a v n : Nat) : ∀ p ∈ byteList a v n, a ≤ p.1 ∧ p.1 < a + n := by
  induction n generalizing a v with
  | zero => simp [byteList]
  | succ n ih =>
    intro p hp
    simp only [byteList, List.mem_cons] at hp
    rcases hp with rfl | hp
    · simp
    · have := ih (a + 1) (v / 256) p hp; omega
/-- A write of n bytes leaves the bytes outside them alone. -/
theorem byte_wrN_out (s : State) (a n v x : Nat) (h : s.form) (hx : x < a ∨ a + n ≤ x) :
    (s.wrN a n v).byte x = s.byte x :=
  mget_writes_ne _ _ _ h.1 fun p hp => by have := byteList_addr a v n p hp; omega
/-- Bytes from a on read alike where two states agree on them. -/
theorem rdN_congr (s t : State) (a n : Nat) (h : ∀ x, a ≤ x → x < a + n → t.byte x = s.byte x) :
    t.rdN a n = s.rdN a n := by
  induction n generalizing a with
  | zero => rfl
  | succ n ih =>
    simp only [State.rdN]
    rw [h a (Nat.le_refl a) (by omega), ih (a + 1) fun x h1 h2 => h x (by omega) (by omega)]
/-- A value written is read back, as far as its bytes hold it. -/
theorem rdN_wrN (s : State) (a n v : Nat) (h : s.form) : (s.wrN a n v).rdN a n = v % 256 ^ n := by
  induction n generalizing s a v with
  | zero => simp [State.rdN, Nat.mod_one]
  | succ n ih =>
    have e : s.wrN a (n + 1) v = (s.putByte a (BitVec.ofNat 8 v)).wrN (a + 1) n (v / 256) := rfl
    have hf := form_putByte s a (BitVec.ofNat 8 v) h
    simp only [State.rdN]
    rw [e, ih _ _ _ hf, byte_wrN_out _ _ _ _ _ hf (Or.inl (Nat.lt_succ_self a))]
    have hb : (s.putByte a (BitVec.ofNat 8 v)).byte a = BitVec.ofNat 8 v := mget_mput_same s.mem a _ h.1
    have hp : (256 : Nat) ^ (n + 1) = 256 * 256 ^ n := by rw [Nat.pow_succ, Nat.mul_comm]
    rw [hb, BitVec.toNat_ofNat, hp, Nat.mod_mul]

end Sys2Proof.Machine
end

