-- ==== Sys2Proof/Laws/Ops.lean ====
section
/-! SUPPORT. What each shared operation can do, said once: the ends of a head, the checks before it, traps, the register
writes, and the store buffer; and that each keeps the canonical form of memory. -/
namespace Sys2Proof.Machine

/-! ## The ends of a head -/

/-- A head that retires where control can step on answers the state that holds its effect, stepped on. -/
theorem retire_flows {s : State} (h : s.flows) (t : State) : retire s t = .next (s.stepped t) := if_pos h
/-- A head that cannot step on traps with no effect. -/
theorem retire_stuck {s : State} (h : s.stepsOn = false) (t : State) :
    retire s t = .next (s.trap 0x02 (BitVec.ofNat 64 s.nextPc)) := if_neg (by simp [h])
/-- A retirement answers one of two states. -/
theorem retire_cases {s t u : State} (h : retire s t = .next u) :
    (s.flows ∧ u = s.stepped t) ∨ (s.stepsOn = false ∧ u = s.trap 0x02 (BitVec.ofNat 64 s.nextPc)) := by
  by_cases g : s.flows
  · rw [retire_flows g] at h; exact .inl ⟨g, by cases h; rfl⟩
  · rw [retire_stuck (by simpa using g)] at h; exact .inr ⟨by simpa using g, by cases h; rfl⟩
/-- A transfer to a well-formed address answers the state that holds the head's effect, with control there. -/
theorem transfer_good {a : Nat} (h : goodPc a = true) (s t : State) : transfer s t a = .next (t.jumped a) := if_pos h
/-- A transfer to any other address traps with no effect. -/
theorem transfer_bad {a : Nat} (h : goodPc a = false) (s t : State) :
    transfer s t a = .next (s.trap 0x02 (BitVec.ofNat 64 a)) := if_neg (by simp [h])
/-- A head whose result is late steps on out of the rotation. -/
theorem retireAfter_flows {s : State} (h : s.flows) (t : State) (l : Nat) : retireAfter s t l = .next (s.steppedFor t l) :=
  retire_flows h _
/-- A long op steps on, with its reply to come. -/
theorem retireLong_flows {s : State} (h : s.flows) (t : State) : retireLong s t = .next (s.steppedLong t) := retire_flows h _

/-! ## The checks before a head's effect -/

theorem needNext_flows {s : State} (h : s.flows) (k : Out) : s.needNext k = k := if_pos h
theorem needNext_stuck {s : State} (h : s.stepsOn = false) (k : Out) :
    s.needNext k = .next (s.trap 0x02 (BitVec.ofNat 64 s.nextPc)) := if_neg (by simp [h])
theorem needSys_sys {s : State} (h : s.me.sys = true) (k : Out) : s.needSys k = k := if_pos h
theorem needSys_app {s : State} (h : s.me.sys = false) (k : Out) : s.needSys k = .next (s.trapHead 0x04) := if_neg (by simp [h])
theorem needMiller_miller {s : State} (h : ctxNo s.cur = 0) (k : Out) : s.needMiller k = k := if_pos h
theorem needMiller_other {s : State} (h : ctxNo s.cur ≠ 0) (k : Out) : s.needMiller k = .next (s.trapHead 0x04) := if_neg h
theorem needRmode_ok {s : State} (h : rmodeOf s.me.fctx < 6) (k : Out) : s.needRmode k = k := if_pos h
theorem needRmode_bad {s : State} (h : ¬ rmodeOf s.me.fctx < 6) (k : Out) : s.needRmode k = .next (s.trap 0x05 s.me.fctx) := if_neg h
/-- What a head does with the answer to its checks. -/
theorem onRes_ok (s : State) (acc : Acc) (ps : List Piece) (k : List Piece → Out) : s.onRes acc (.ok ps) k = k ps := rfl
theorem onRes_trap (s : State) (acc : Acc) (o c va : Nat) (k : List Piece → Out) :
    s.onRes acc (.trap o c va) k = .next (s.trap c (BitVec.ofNat 64 va)) := rfl
theorem onRes_held (s : State) (acc : Acc) (k : List Piece → Out) : s.onRes acc .held k = .next (s.park .moving) := rfl
theorem onRes_miss (s : State) (acc : Acc) (va : Nat) (k : List Piece → Out) :
    s.onRes acc (.miss va) k = .next (s.parkMiss va acc) := rfl

/-! ## Contexts and memory -/

@[simp] theorem byte_mapMe (s : State) (f : Ctx → Ctx) (a : Nat) : (s.mapMe f).byte a = s.byte a := rfl
@[simp] theorem byte_post (s : State) (e : Instr) (a : Nat) : (s.post e).byte a = s.byte a := rfl
/-- A state with the same bytes, full bits and poison keeps memory. -/
theorem KeepsMemory.of_eq {s t : State} (hm : t.mem = s.mem) (he : t.empties = s.empties) (hp : t.poison = s.poison) :
    KeepsMemory s t := fun a => by
  simp [sameByte, State.byte, State.isFull, State.isBad, hm, he, hp]
theorem KeepsMemory.refl (s : State) : KeepsMemory s s := .of_eq rfl rfl rfl
theorem KeepsMemory.trans {s t u : State} (h : KeepsMemory s t) (k : KeepsMemory t u) : KeepsMemory s u := fun a =>
  ⟨(k a).1.trans (h a).1, (k a).2.1.trans (h a).2.1, (k a).2.2.trans (h a).2.2⟩
theorem KeepsOthers.refl (s : State) : KeepsOthers s s := fun _ _ => rfl
theorem KeepsOthers.mapMe (s : State) (f : Ctx → Ctx) : KeepsOthers s (s.mapMe f) := fun c h => ctx_mapMe_ne s c f h
theorem KeepsX.refl (a : Ctx) (l : List XR) : KeepsX a a l := fun _ _ => rfl
theorem KeepsX.setX (a : Ctx) (d : XR) (v : Word) : KeepsX a (a.setX d v) [d] := fun n h => by
  rw [getX_setX]; simp_all
theorem KeepsV.setV (a : Ctx) (d : VR) (v : VWord) : KeepsV a (a.setV d v) [d] := fun n h => by
  rw [getV_setV]; simp_all
theorem KeepsK.setK (a : Ctx) (d : KR) (v : KWord) : KeepsK a (a.setK d v) [d] := fun n h => by
  rw [getK_setK]; simp_all

/-! ## Stepping on -/

theorem stepped_eq (s t : State) : s.stepped t = { t.mapMe (·.stepTo s.nextPc) with mark := .done } := rfl
/-- A step of a head changes of the state that holds its effect the executing context and the mark. -/
theorem stepped_module (s t : State) : s.stepped t = { t with ctxs := (s.stepped t).ctxs, mark := .done } := rfl
@[simp] theorem stepped_ctxs (s t : State) : (s.stepped t).ctxs = (t.mapMe (·.stepTo s.nextPc)).ctxs := rfl
@[simp] theorem stepped_mem (s t : State) : (s.stepped t).mem = t.mem := rfl
@[simp] theorem stepped_empties (s t : State) : (s.stepped t).empties = t.empties := rfl
@[simp] theorem stepped_poison (s t : State) : (s.stepped t).poison = t.poison := rfl
@[simp] theorem stepped_agenda (s t : State) : (s.stepped t).agenda = t.agenda := rfl
@[simp] theorem stepped_cores (s t : State) : (s.stepped t).cores = t.cores := rfl
@[simp] theorem stepped_clus (s t : State) : (s.stepped t).clus = t.clus := rfl
@[simp] theorem stepped_mark (s t : State) : (s.stepped t).mark = .done := rfl
@[simp] theorem stepped_cur (s t : State) : (s.stepped t).cur = t.cur := rfl
@[simp] theorem stepped_me (s t : State) : (s.stepped t).me = t.me.stepTo s.nextPc := me_mapMe t (·.stepTo s.nextPc)
theorem stepped_ctx_ne (s t : State) (c : Nat) (h : c ≠ t.cur) : (s.stepped t).ctx c = t.ctx c := ctx_mapMe_ne t c (·.stepTo s.nextPc) h
@[simp] theorem stepTo_pc (c : Ctx) (a : Nat) : (c.stepTo a).pc = BitVec.ofNat 64 a := rfl
@[simp] theorem goto_pc (c : Ctx) (a : Nat) : (c.goto a).pc = BitVec.ofNat 64 a := rfl
/-- A jump changes of the state that holds the head's effect the executing context and the mark. -/
@[simp] theorem jumped_me (t : State) (a : Nat) : (t.jumped a).me = t.me.goto a := me_mapMe t (·.goto a)
@[simp] theorem jumped_mem (t : State) (a : Nat) : (t.jumped a).mem = t.mem := rfl
@[simp] theorem jumped_mark (t : State) (a : Nat) : (t.jumped a).mark = .done := rfl
/-- What writing one x register and stepping on leaves alone. -/
theorem wroteX_frame (s : State) (d : XR) (v : Word) :
    KeepsMemory s (s.wroteX d v) ∧ KeepsModule s (s.wroteX d v) ∧ (s.wroteX d v).agenda = s.agenda ∧ KeepsOthers s (s.wroteX d v) ∧
    KeepsX s.me (s.wroteX d v).me [d] ∧ (s.wroteX d v).me.v = s.me.v ∧ (s.wroteX d v).me.k = s.me.k ∧
    (s.wroteX d v).me.fstat = s.me.fstat ∧ (s.wroteX d v).me.pc = BitVec.ofNat 64 s.nextPc ∧
    (s.wroteX d v).me.getX d = if d = 0 then 0 else v := by
  have e : (s.wroteX d v).me = (s.me.setX d v).stepTo s.nextPc := by
    show (s.stepped (s.putX d v)).me = _
    rw [stepped_me]; exact congrArg (·.stepTo s.nextPc) (me_mapMe s (·.setX d v))
  refine ⟨.of_eq rfl rfl rfl, rfl, rfl, fun c h => ?_, ?_, ?_, ?_, ?_, ?_, ?_⟩
  · exact (stepped_ctx_ne s (s.putX d v) c h).trans (ctx_mapMe_ne s c (·.setX d v) h)
  · rw [e]; intro n h; exact KeepsX.setX s.me d v n h
  · rw [e]; simp
  · rw [e]; simp
  · rw [e]; simp
  · rw [e]; rfl
  · rw [e]
    show (s.me.setX d v).getX d = _
    rw [getX_setX]
    by_cases h : d = 0 <;> simp [h]

/-! ## Lanes -/

/-- Writing lanes writes one v register and merges the flags of the active lanes (R142). -/
theorem me_putLanes (s : State) (w : Nat) (d : VR) (m : KR) (f : Nat → Fp) : (s.putLanes w d m f).me =
    (s.me.setV d (mergeLanes (s.me.getV d) w (s.me.getK m) fun i => (f i).1)).flag
      (laneFlags (lanesOf w) (s.me.getK m) fun i => (f i).2) := me_mapMe s _
/-- Writing a mask writes one k register and merges the flags of the active lanes (R142). -/
theorem me_putMask (s : State) (w : Nat) (d m : KR) (f : Nat → Bool × Word) : (s.putMask w d m f).me =
    (s.me.setK d (maskLanes (lanesOf w) (s.me.getK m) fun i => (f i).1)).flag
      (laneFlags (lanesOf w) (s.me.getK m) fun i => (f i).2) := me_mapMe s _
theorem putLanes_module (s : State) (w : Nat) (d : VR) (m : KR) (f : Nat → Fp) :
    s.putLanes w d m f = { s with ctxs := (s.putLanes w d m f).ctxs } := rfl
theorem putMask_module (s : State) (w : Nat) (d m : KR) (f : Nat → Bool × Word) :
    s.putMask w d m f = { s with ctxs := (s.putMask w d m f).ctxs } := rfl

/-! ## Traps (R428 to R430) -/

/-- Taking a trap touches contexts, cores, the agenda and the count of alarms; never memory, a cluster or a table. -/
theorem takeTrap_module (s : State) (i cause : Nat) (val epc : Word) (async : Bool) :
    ∃ cs ks l m, takeTrap s i cause val epc async = { s with ctxs := cs, cores := ks, agenda := l, mgmt := m } := by
  have hd : ∀ s i c v e a, ∃ cs ks l, delegate s i c v e a = { s with ctxs := cs, cores := ks, agenda := l } := fun s i c v e a =>
    ⟨(delegate s i c v e a).ctxs, (delegate s i c v e a).cores, (delegate s i c v e a).agenda, rfl⟩
  have hl : ∀ (s : State) n, ∃ l, s.seeLaunch n = { s with agenda := l } := fun s n => by
    unfold State.seeLaunch; split <;> exact ⟨_, rfl⟩
  have hh : ∀ (s : State) i, ∃ cs l, haltCtx s i = { s with ctxs := cs, agenda := l } := fun s i => by
    unfold haltCtx
    dsimp only
    split
    · obtain ⟨l, h⟩ := hl (s.mapCtx i fun c => { c with run := .halted, why := none, line := none, armed := none, reaping := false, taken := false, held := false, sent := false }) (coreOf i)
      exact ⟨_, l, h⟩
    · obtain ⟨l, h⟩ := hl ((s.post (.asyncTrapTake i)).mapCtx i fun c => { c with run := .halted, why := none, line := none, armed := none, reaping := false, taken := false, held := false, sent := false }) (coreOf i)
      exact ⟨_, l, h⟩
  have hb : ∀ (s : State) i a b, ∃ cs ks l m, doubleTrap s i a b = { s with ctxs := cs, cores := ks, agenda := l, mgmt := m } := by
    intro s i a b
    unfold doubleTrap
    dsimp only
    split
    · generalize hu : s.mapCtx i _ = u
      obtain ⟨cs, l, h⟩ := hh u i
      rw [h, ← hu]; exact ⟨_, _, _, _, rfl⟩
    · generalize hu : s.mapCtx i _ = u
      obtain ⟨cs, ks, l, h⟩ := hd u i 9 (BitVec.ofNat 64 (a % 256 + b % 256 * 256)) (s.ctx i).epc ((s.ctx i).ecause.getLsbD 10)
      rw [h, ← hu]; exact ⟨_, _, _, _, rfl⟩
  obtain ⟨cw, hw⟩ : ∃ cs, (if (s.ctx i).why.isSome then s.wake i else s) = { s with ctxs := cs } := by
    split <;> exact ⟨_, rfl⟩
  unfold takeTrap
  dsimp only
  rw [hw]
  split
  · obtain ⟨cs, ks, l, h⟩ := hd { s with ctxs := cw } i cause val epc async
    exact ⟨cs, ks, l, s.mgmt, h⟩
  · unfold enterTrap
    dsimp only
    split
    · exact ⟨_, s.cores, s.agenda, s.mgmt, rfl⟩
    · generalize hu : State.mapCtx _ i _ = u
      obtain ⟨cs, ks, l, m, h⟩ := hb u i cause 0x02
      rw [h, ← hu]; exact ⟨cs, ks, l, m, rfl⟩
theorem takeTrap_memory (s : State) (i cause : Nat) (val epc : Word) (async : Bool) :
    KeepsMemory s (takeTrap s i cause val epc async) := by
  obtain ⟨cs, ks, l, m, h⟩ := takeTrap_module s i cause val epc async
  rw [h]; exact .of_eq rfl rfl rfl
/-- Going back to the start of a pair touches the executing context alone. -/
theorem unpaired_ctxs (s : State) : ∃ cs, s.unpaired = { s with ctxs := cs } := by
  unfold State.unpaired; split <;> exact ⟨_, rfl⟩
/-- A head that traps keeps memory. -/
theorem trap_memory (s : State) (cause : Nat) (val : Word) : KeepsMemory s (s.trap cause val) := by
  obtain ⟨cs, h⟩ := unpaired_ctxs s
  refine KeepsMemory.trans (t := s.unpaired) (by rw [h]; exact .of_eq rfl rfl rfl) ?_
  exact (takeTrap_memory s.unpaired s.cur cause val s.headPc false).trans (.of_eq rfl rfl rfl)
@[simp] theorem trap_mark (s : State) (cause : Nat) (val : Word) : (s.trap cause val).mark = .trapped := rfl
@[simp] theorem trapTo_mark (s : State) (cause : Nat) (val epc : Word) : (s.trapTo cause val epc).mark = .trapped := rfl
/-- A context that is not delegated to its miller enters its handler, with the cause, the value and the code address saved (R428). -/
theorem takeTrap_enters (s : State) (i cause : Nat) (val epc : Word) (async : Bool)
    (h : ctxNo i = 0 ∨ (s.ctx i).tvec.getLsbD 0 = false) (g : goodPc (tvecAddr (s.ctx i).tvec) = true) :
    ∃ e, (takeTrap s i cause val epc async).ctx i =
      { ({ s.ctx i with epc := epc, eval := val, ecause := ecauseOf (ctxNo i) false async cause } : Ctx).goto (tvecAddr (s.ctx i).tvec) with
        priv := lvlBit (s.ctx i).sys <<< 1 ||| 1, intv := true, entry := some cause, why := none, eligFrom := e,
        badSys := trapBad true (s.ctx i).badSys } := by
  have n : ¬ (ctxNo i ≠ 0 ∧ (s.ctx i).tvec.getLsbD 0 = true) := by rintro ⟨a, b⟩; rcases h with h | h; exacts [a h, absurd b (by rw [h]; decide)]
  have k : ∃ e, (if (s.ctx i).why.isSome then s.wake i else s).ctx i =
      { s.ctx i with why := none, eligFrom := e } := by
    split
    · exact ⟨_, ctx_mapCtx_same s i _⟩
    · rename_i h0; exact ⟨(s.ctx i).eligFrom, by
        cases hw : (s.ctx i).why with
        | none => rw [← hw]
        | some w => simp [hw] at h0⟩
  obtain ⟨e, he⟩ := k
  refine ⟨e, ?_⟩
  unfold takeTrap
  dsimp only
  generalize (if (s.ctx i).why.isSome then s.wake i else s) = t at he ⊢
  rw [if_neg (by rw [he]; exact n)]
  unfold enterTrap
  simp [he, g, Ctx.goto, Ctx.sys]
/-- A delegated trap holds its context and joins the miller's list (R430). -/
theorem takeTrap_delegates (s : State) (i cause : Nat) (val epc : Word) (async : Bool)
    (h : ctxNo i ≠ 0) (g : (s.ctx i).tvec.getLsbD 0 = true) (w : (s.ctx i).why = none) :
    takeTrap s i cause val epc async = delegate s i cause val epc async := by
  simp [takeTrap, w, h, g]

/-! ## The store buffer -/

/-- With no store buffered, a head that drains goes on at once. -/
theorem drained_nil (s : State) (h : s.me.buf = []) (k : State → Out) : s.drained k = k s := by
  simp [State.drained, h]
/-- With no store buffered and every other access performed, a head that orders its context's accesses goes on at once. -/
theorem ordered_quiet (s : State) (sc : Scope) (but : Option Nat) (h : s.me.buf = []) (g : s.quiet s.cur sc but = true)
    (k : State → Out) : s.ordered sc but k = k s := by simp [State.ordered, drained_nil s h, g]
/-- With no store buffered and nothing outside the buffer to wait for, a full/empty store or an engine command goes on at once. -/
theorem released_calm (s : State) (sc : Scope) (h : s.me.buf = []) (g : s.calm s.cur sc none = true)
    (k : State → Out) : s.released sc k = k s := by simp [State.released, drained_nil s h, g]
/-- With no store buffered there is no release marker to pass. -/
theorem pastMarkers_nil (s : State) (h : s.me.buf = []) (k : State → Out) : s.pastMarkers k = k s := by
  simp [State.pastMarkers, h]

/-! ## The canonical form -/

theorem form_stepped (s t : State) (h : t.form) : (s.stepped t).form := h.congr rfl rfl rfl rfl
theorem form_jumped (t : State) (a : Nat) (h : t.form) : (t.jumped a).form := h.congr rfl rfl rfl rfl
theorem form_takeTrap (s : State) (i cause : Nat) (val epc : Word) (async : Bool) (h : s.form) :
    (takeTrap s i cause val epc async).form := by
  obtain ⟨cs, ks, l, m, e⟩ := takeTrap_module s i cause val epc async
  rw [e]; exact h
theorem form_trap (s : State) (cause : Nat) (val : Word) (h : s.form) : (s.trap cause val).form := by
  obtain ⟨cs, e⟩ := unpaired_ctxs s
  exact form_takeTrap s.unpaired s.cur cause val s.headPc false (by rw [e]; exact h)
/-- What a retirement answers keeps the form. -/
theorem form_retire {s t u : State} (hs : s.form) (ht : t.form) (h : retire s t = .next u) : u.form := by
  rcases retire_cases h with ⟨_, rfl⟩ | ⟨_, rfl⟩
  · exact form_stepped s t ht
  · exact form_trap s _ _ hs

end Sys2Proof.Machine
end

