-- ==== Sys2Proof/Laws/PerInstr.lean ====
section
/-! SUPPORT. The family Encoded: a well-formed instruction is what the decoder reads from its own fields. -/
namespace Sys2Proof.Laws.Encoded

/-- The fields that encode a well-formed instruction decode to it; an event has no fields. -/
def Statement (i : Instr) : Prop := ∀ f, encodeFields i = some f → i.wf = true → decodeFields f = .ok i
/-- An event has no encoding. -/
theorem none {i : Instr} (h : encodeFields i = .none) : Statement i := by
  intro f hf; rw [h] at hf; cases hf

theorem millerTakeTrap (core : Nat) : Statement (.millerTakeTrap core) := none rfl
theorem asyncTrapTake (ctx : Nat) : Statement (.asyncTrapTake ctx) := none rfl
theorem longOpReply (ctx : Nat) : Statement (.longOpReply ctx) := none rfl
theorem yieldRejoin (ctx : Nat) : Statement (.yieldRejoin ctx) := none rfl
theorem ifetchLineArrival (ctx : Nat) : Statement (.ifetchLineArrival ctx) := none rfl
theorem corePlacement (launch : Nat) (core : Nat) : Statement (.corePlacement launch core) := none rfl
theorem launchEnd (launch : Nat) : Statement (.launchEnd launch) := none rfl
theorem storeBufferDrain (ctx : Nat) : Statement (.storeBufferDrain ctx) := none rfl
theorem fullEmptyAtPort (ctx : Nat) (op : FeOp) (loc : Nat) (d : XR) (data : Word) :
    Statement (.fullEmptyAtPort ctx op loc d data) := none rfl
theorem peerAccessAtPort (core : Nat) (off : Nat) (n : Nat) (sg : Bool) (wr : Bool) (data : Word) (ctx : Nat) (d : XR) :
    Statement (.peerAccessAtPort core off n sg wr data ctx d) := none rfl
theorem proxyAccess (ctx : Nat) (va : Nat) (pa : Nat) (wr : Bool) : Statement (.proxyAccess ctx va pa wr) := none rfl
theorem atomicAtPlace (op : AmoOp) (w : Bool) (o : Ord) (sc : Scope) (loc : Nat) (c : Word) (e : Word) (ctx : Nat) (d : Option XR) :
    Statement (.atomicAtPlace op w o sc loc c e ctx d) := none rfl
theorem cellOperationAtHome (op : CellOp) (pa : Nat) (who : CellSend) : Statement (.cellOperationAtHome op pa who) := none rfl
theorem waitvAtHome (ctx : Nat) (loc : Nat) (wide : Bool) (ne : Bool) (c : Word) (e : Word) :
    Statement (.waitvAtHome ctx loc wide ne c e) := none rfl
theorem notifyAtHome (ctx : Nat) (loc : Nat) (all : Bool) (d : XR) : Statement (.notifyAtHome ctx loc all d) := none rfl
theorem waitTableEntryGrant (home : Nat) : Statement (.waitTableEntryGrant home) := none rfl
theorem syncAtHome (ctx : Nat) (loc : Nat) : Statement (.syncAtHome ctx loc) := none rfl
theorem joinUpdateAtHome (loc : Nat) (addend : Word) (ctx : Nat) (d : XR) (new : Bool) :
    Statement (.joinUpdateAtHome loc addend ctx d new) := none rfl
theorem sluiceArrivalCount (who : Nat × Nat) (ch : Nat) (phase : Nat) (after : Nat × List (Nat × Nat)) :
    Statement (.sluiceArrivalCount who ch phase after) := none rfl
theorem sluiceRelay (launch : Nat) (ch : Nat) (field : Nat) : Statement (.sluiceRelay launch ch field) := none rfl
theorem sluiceCompletionSeen (launch : Nat) (ch : Nat) (field : Nat) :
    Statement (.sluiceCompletionSeen launch ch field) := none rfl
theorem messageArrival (m : Msg) (ctx : Nat) (d : XR) : Statement (.messageArrival m ctx d) := none rfl
theorem sendStatusReturn (ctx : Nat) (status : BitVec 2) (d : XR) : Statement (.sendStatusReturn ctx status d) := none rfl
theorem spilledMessageMove (core : Nat) : Statement (.spilledMessageMove core) := none rfl
theorem engineAcceptance (ctx : Nat) (r : EngReq) : Statement (.engineAcceptance ctx r) := none rfl
theorem engineWordWrite (cluster : Nat) (kind : Nat) (seq : Nat) : Statement (.engineWordWrite cluster kind seq) := none rfl
theorem engineCommandComplete (cluster : Nat) (kind : Nat) (seq : Nat) :
    Statement (.engineCommandComplete cluster kind seq) := none rfl
theorem cpytFramePush (cluster : Nat) (seq : Nat) : Statement (.cpytFramePush cluster seq) := none rfl
theorem rdctNodeCombine (cluster : Nat) (seq : Nat) : Statement (.rdctNodeCombine cluster seq) := none rfl
theorem headraceTileFill (cluster : Nat) (seq : Nat) : Statement (.headraceTileFill cluster seq) := none rfl
theorem tailraceWriteback (cluster : Nat) (seq : Nat) : Statement (.tailraceWriteback cluster seq) := none rfl
theorem opticalAcceptance (ctx : Nat) (r : OptReq) : Statement (.opticalAcceptance ctx r) := none rfl
theorem passRowWrite (cluster : Nat) : Statement (.passRowWrite cluster) := none rfl
theorem probeSymbol (cluster : Nat) : Statement (.probeSymbol cluster) := none rfl
theorem passComplete (cluster : Nat) : Statement (.passComplete cluster) := none rfl
theorem phaseLoadEnd (cluster : Nat) : Statement (.phaseLoadEnd cluster) := none rfl
theorem phaseSwap (cluster : Nat) : Statement (.phaseSwap cluster) := none rfl
theorem decompositionComplete (cluster : Nat) : Statement (.decompositionComplete cluster) := none rfl
theorem calibrationStart (cluster : Nat) : Statement (.calibrationStart cluster) := none rfl
theorem calibrationComplete (cluster : Nat) : Statement (.calibrationComplete cluster) := none rfl
theorem governorLock (cluster : Nat) : Statement (.governorLock cluster) := none rfl
theorem governorEnterDrift (cluster : Nat) : Statement (.governorEnterDrift cluster) := none rfl
theorem governorLeaveDrift (cluster : Nat) : Statement (.governorLeaveDrift cluster) := none rfl
theorem recalibrationStart (cluster : Nat) : Statement (.recalibrationStart cluster) := none rfl
theorem temperatureLoop (cluster : Nat) : Statement (.temperatureLoop cluster) := none rfl
theorem dequeRefill (core : Nat) : Statement (.dequeRefill core) := none rfl
theorem stealProbeRead (ctx : Nat) (victims : List Nat) (d : XR) : Statement (.stealProbeRead ctx victims d) := none rfl
theorem stealCas (ctx : Nat) (victims : List Nat) (t : Nat) (d : XR) : Statement (.stealCas ctx victims t d) := none rfl
theorem loadTask (ctx : Nat) (frame : Nat) (d : XR) : Statement (.loadTask ctx frame d) := none rfl
theorem translationRequest (ctx : Nat) (va : Nat) (acc : Acc) : Statement (.translationRequest ctx va acc) := none rfl
theorem walkComplete (field : Nat) (asid : Nat) (granule : Nat) : Statement (.walkComplete field asid granule) := none rfl
theorem sliceEntryPinExpiry (cluster : Nat) (asid : Nat) (va : Nat) :
    Statement (.sliceEntryPinExpiry cluster asid va) := none rfl
theorem atsTranslationCompletion (field : Nat) (asid : Nat) (granule : Nat) (pa : Nat) (contiguous : Bool) (r : Bool) (w : Bool) (x : Bool) :
    Statement (.atsTranslationCompletion field asid granule pa contiguous r w x) := none rfl
theorem pageRequestSend (link : Nat) : Statement (.pageRequestSend link) := none rfl
theorem pageRequestResponse (link : Nat) (field : Nat) (asid : Nat) (granule : Nat) (code : Nat) :
    Statement (.pageRequestResponse link field asid granule code) := none rfl
theorem priEnable (link : Nat) (alloc : Nat) : Statement (.priEnable link alloc) := none rfl
theorem priStop (link : Nat) : Statement (.priStop link) := none rfl
theorem atsInvalidationRequest (link : Nat) (pasid : Nat) (va : Nat) (len : Nat) :
    Statement (.atsInvalidationRequest link pasid va len) := none rfl
theorem invalidationComplete (asid : Option Nat) (va : Nat) (len : Nat) :
    Statement (.invalidationComplete asid va len) := none rfl
theorem hostMessage (link : Nat) (fn : Nat) (whole : Bool) (record : BitVec 512) :
    Statement (.hostMessage link fn whole record) := none rfl
theorem bar2Access (link : Nat) (fn : Nat) (addr : Nat) (wr : Option (List Byte × Bool)) (len : Nat) :
    Statement (.bar2Access link fn addr wr len) := none rfl
theorem bar2AtomicOp (link : Nat) (fn : Nat) (op : AmoOp) (w : Option Bool) (addr : Nat) (c : Word) (s : Word) :
    Statement (.bar2AtomicOp link fn op w addr c s) := none rfl
theorem bar0RegisterWrite (fn : Nat × Nat) (off : Nat) (data : Word) : Statement (.bar0RegisterWrite fn off data) := none rfl
theorem rotorSlotStart (port : Nat) (offset : BitVec 16) (relockOk : Bool) :
    Statement (.rotorSlotStart port offset relockOk) := none rfl
theorem flitReceive (port : Nat) (src : Nat) (srcPart : Nat) (tgtPart : Nat) (seq : Nat) (ctx : Nat × Nat) (crcOk : Bool) (pa : Nat) (data : FlitWork) :
    Statement (.flitReceive port src srcPart tgtPart seq ctx crcOk pa data) := none rfl
theorem flitAck (port : Nat) (seq : Nat × Nat) (ok : Bool) : Statement (.flitAck port seq ok) := none rfl
theorem completionMarkerReceive (port : Nat) (src : Nat) (srcPart : Nat) (tgtPart : Nat) (ctx : Nat × Nat) (seqs : List Nat) (pa : Nat) (data : Word) :
    Statement (.completionMarkerReceive port src srcPart tgtPart ctx seqs pa data) := none rfl
theorem circuitBringUpComplete (port : Nat) (peer : Nat) : Statement (.circuitBringUpComplete port peer) := none rfl
theorem portResyncComplete (port : Nat) : Statement (.portResyncComplete port) := none rfl
theorem scrubVisit (struct : Nat) (unit : Nat) (addr : Nat) : Statement (.scrubVisit struct unit addr) := none rfl
theorem verticalBusTest (col : Nat) (fails : Bool) : Statement (.verticalBusTest col fails) := none rfl
theorem heartbeatSend (col : Nat) : Statement (.heartbeatSend col) := none rfl
theorem heartbeatReceive (col : Nat) (dir : Nat) (window : Nat) (coordsOk : Bool) (flit : VoteFlit) (crcOk : Bool) :
    Statement (.heartbeatReceive col dir window coordsOk flit crcOk) := none rfl
theorem heartbeatDeadline (col : Nat) : Statement (.heartbeatDeadline col) := none rfl
theorem suspectNotice (col : Nat) (voter : Nat) : Statement (.suspectNotice col voter) := none rfl
theorem fenceNotice (col : Nat) : Statement (.fenceNotice col) := none rfl
theorem quarantineEnd (col : Nat) (testPass : Bool) : Statement (.quarantineEnd col testPass) := none rfl
theorem appeal (col : Nat) (dir : Nat) : Statement (.appeal col dir) := none rfl
theorem temperatureSample (kind : Nat) (unit : Nat) (temp : BitVec 12) :
    Statement (.temperatureSample kind unit temp) := none rfl
theorem migrationStart (cluster : Nat) : Statement (.migrationStart cluster) := none rfl
theorem migrationRetry (cluster : Nat) : Statement (.migrationRetry cluster) := none rfl
theorem migrationStateCopy (cluster : Nat) : Statement (.migrationStateCopy cluster) := none rfl
theorem migrationCommit (cluster : Nat) : Statement (.migrationCommit cluster) := none rfl
theorem sliceFrameWriteback (cluster : Nat) : Statement (.sliceFrameWriteback cluster) := none rfl
theorem slicePowerOff (cluster : Nat) : Statement (.slicePowerOff cluster) := none rfl
theorem sliceRecovery (cluster : Nat) : Statement (.sliceRecovery cluster) := none rfl
theorem powerSample (watts : Nat) : Statement (.powerSample watts) := none rfl
theorem moduleReset : Statement (.moduleReset) := none rfl
theorem vmainLoss : Statement (.vmainLoss) := none rfl
theorem vmainPowerOn : Statement (.vmainPowerOn) := none rfl
theorem hostLinkTrained (link : Nat) (atomics : Bool) : Statement (.hostLinkTrained link atomics) := none rfl
theorem hbmStackReady (h : Nat) (pass : Bool) : Statement (.hbmStackReady h pass) := none rfl
theorem fieldReady (f : Nat) : Statement (.fieldReady f) := none rfl
theorem clusterReady (cluster : Nat) : Statement (.clusterReady cluster) := none rfl
theorem combLightLoss (site : Nat) : Statement (.combLightLoss site) := none rfl
theorem combLightReturn (site : Nat) : Statement (.combLightReturn site) := none rfl
theorem commandRingTailWrite (tail : Nat) : Statement (.commandRingTailWrite tail) := none rfl
theorem responseRingHeadWrite (head : Nat) : Statement (.responseRingHeadWrite head) := none rfl
theorem spdm (tag : Nat) (len : Nat) (msg : BitVec 384) : Statement (.spdm tag len msg) := none rfl
theorem setCtrl (tag : Nat) (fn : Nat) (ctrl : Nat) (units : Nat) (value : Word) :
    Statement (.setCtrl tag fn ctrl units value) := none rfl
theorem setCtrlMinSecurityVersion (tag : Nat) (version : Nat) : Statement (.setCtrlMinSecurityVersion tag version) := none rfl
theorem setTable (tag : Nat) (table : Nat) (index : Nat) (value : BitVec 128) :
    Statement (.setTable tag table index value) := none rfl
theorem inval (tag : Nat) (asid : Option Nat) (va : Nat) (len : Nat) : Statement (.inval tag asid va len) := none rfl
theorem hostAssist (tag : Nat) (req : Nat) (status : Nat) (pa : Nat) : Statement (.hostAssist tag req status pa) := none rfl
theorem fwStage (tag : Nat) (pa : Nat) (len : Nat) : Statement (.fwStage tag pa len) := none rfl
theorem readDebug (tag : Nat) (which : Nat) (unit : Nat) (clear : Bool) :
    Statement (.readDebug tag which unit clear) := none rfl
theorem illegalInstruction (reserved : Bool) : Statement (.illegalInstruction reserved) := none rfl
theorem softError (struct : Nat) (unit : Nat) (addr : Nat) (bit : Nat) (unc : Bool) :
    Statement (.softError struct unit addr bit unc) := none rfl
theorem inventoryUpdate : Statement (.inventoryUpdate) := none rfl
theorem nop : Statement (.nop) := by
  intro f hf h; cases hf
  exact decodeFields_ok rfl rfl rfl (by simp [D.const]) (legal_of_wf h) rfl (part_of_wf h)
theorem halt : Statement (.halt) := by
  intro f hf h; cases hf
  exact decodeFields_ok rfl rfl rfl (by simp [D.const]) (legal_of_wf h) rfl (part_of_wf h)
theorem yield : Statement (.yield) := by
  intro f hf h; cases hf
  exact decodeFields_ok rfl rfl rfl (by simp [D.const]) (legal_of_wf h) rfl (part_of_wf h)
theorem brk : Statement (.brk) := by
  intro f hf h; cases hf
  exact decodeFields_ok rfl rfl rfl (by simp [D.const]) (legal_of_wf h) rfl (part_of_wf h)
theorem j (off : BitVec 32) : Statement (.j off) := by
  intro f hf h; cases hf
  exact decodeFields_ok rfl rfl rfl (by simp [D.jmp]) (legal_of_wf h) rfl (part_of_wf h)
theorem jal (d : XR) (off : BitVec 32) : Statement (.jal d off) := by
  intro f hf h; cases hf
  exact decodeFields_ok rfl rfl rfl (by simp [D.xi32]) (legal_of_wf h) rfl (part_of_wf h)
theorem jalr (d : XR) (b : XS) : Statement (.jalr d b) := by
  intro f hf h; cases hf
  exact decodeFields_ok rfl rfl rfl (by simp [D.xx]) (legal_of_wf h) rfl (part_of_wf h)
theorem beq (a : XS) (b : XS) (off : BitVec 16) : Statement (.beq a b off) := by
  intro f hf h; cases hf
  exact decodeFields_ok rfl rfl rfl (by simp [D.ssI]) (legal_of_wf h) rfl (part_of_wf h)
theorem bne (a : XS) (b : XS) (off : BitVec 16) : Statement (.bne a b off) := by
  intro f hf h; cases hf
  exact decodeFields_ok rfl rfl rfl (by simp [D.ssI]) (legal_of_wf h) rfl (part_of_wf h)
theorem blt (a : XS) (b : XS) (off : BitVec 16) : Statement (.blt a b off) := by
  intro f hf h; cases hf
  exact decodeFields_ok rfl rfl rfl (by simp [D.ssI]) (legal_of_wf h) rfl (part_of_wf h)
theorem bge (a : XS) (b : XS) (off : BitVec 16) : Statement (.bge a b off) := by
  intro f hf h; cases hf
  exact decodeFields_ok rfl rfl rfl (by simp [D.ssI]) (legal_of_wf h) rfl (part_of_wf h)
theorem bltn (a : XS) (b : XS) (off : BitVec 16) : Statement (.bltn a b off) := by
  intro f hf h; cases hf
  exact decodeFields_ok rfl rfl rfl (by simp [D.ssI]) (legal_of_wf h) rfl (part_of_wf h)
theorem bgen (a : XS) (b : XS) (off : BitVec 16) : Statement (.bgen a b off) := by
  intro f hf h; cases hf
  exact decodeFields_ok rfl rfl rfl (by simp [D.ssI]) (legal_of_wf h) rfl (part_of_wf h)
theorem bkany (a : KR) (b : KR) (off : BitVec 16) : Statement (.bkany a b off) := by
  intro f hf h; cases hf
  exact decodeFields_ok rfl rfl rfl (by simp [D.kkI]) (legal_of_wf h) rfl (part_of_wf h)
theorem bkall (a : KR) (b : KR) (off : BitVec 16) : Statement (.bkall a b off) := by
  intro f hf h; cases hf
  exact decodeFields_ok rfl rfl rfl (by simp [D.kkI]) (legal_of_wf h) rfl (part_of_wf h)
theorem bknone (a : KR) (b : KR) (off : BitVec 16) : Statement (.bknone a b off) := by
  intro f hf h; cases hf
  exact decodeFields_ok rfl rfl rfl (by simp [D.kkI]) (legal_of_wf h) rfl (part_of_wf h)
theorem dbnz (a : XR) (off : BitVec 16) : Statement (.dbnz a off) := by
  intro f hf h; cases hf
  exact decodeFields_ok rfl rfl rfl (by simp [D.xI]) (legal_of_wf h) rfl (part_of_wf h)
theorem add (d : XR) (b : XS) (c : XS) : Statement (.add d b c) := by
  intro f hf h; cases hf
  exact decodeFields_ok rfl rfl rfl (by simp [D.xxx]) (legal_of_wf h) rfl (part_of_wf h)
theorem sub (d : XR) (b : XS) (c : XS) : Statement (.sub d b c) := by
  intro f hf h; cases hf
  exact decodeFields_ok rfl rfl rfl (by simp [D.xxx]) (legal_of_wf h) rfl (part_of_wf h)
theorem and (d : XR) (b : XS) (c : XS) : Statement (.and d b c) := by
  intro f hf h; cases hf
  exact decodeFields_ok rfl rfl rfl (by simp [D.xxx]) (legal_of_wf h) rfl (part_of_wf h)
theorem or (d : XR) (b : XS) (c : XS) : Statement (.or d b c) := by
  intro f hf h; cases hf
  exact decodeFields_ok rfl rfl rfl (by simp [D.xxx]) (legal_of_wf h) rfl (part_of_wf h)
theorem xor (d : XR) (b : XS) (c : XS) : Statement (.xor d b c) := by
  intro f hf h; cases hf
  exact decodeFields_ok rfl rfl rfl (by simp [D.xxx]) (legal_of_wf h) rfl (part_of_wf h)
theorem andn (d : XR) (b : XS) (c : XS) : Statement (.andn d b c) := by
  intro f hf h; cases hf
  exact decodeFields_ok rfl rfl rfl (by simp [D.xxx]) (legal_of_wf h) rfl (part_of_wf h)
theorem sll (d : XR) (b : XS) (c : XS) : Statement (.sll d b c) := by
  intro f hf h; cases hf
  exact decodeFields_ok rfl rfl rfl (by simp [D.xxx]) (legal_of_wf h) rfl (part_of_wf h)
theorem srl (d : XR) (b : XS) (c : XS) : Statement (.srl d b c) := by
  intro f hf h; cases hf
  exact decodeFields_ok rfl rfl rfl (by simp [D.xxx]) (legal_of_wf h) rfl (part_of_wf h)
theorem sra (d : XR) (b : XS) (c : XS) : Statement (.sra d b c) := by
  intro f hf h; cases hf
  exact decodeFields_ok rfl rfl rfl (by simp [D.xxx]) (legal_of_wf h) rfl (part_of_wf h)
theorem ror (d : XR) (b : XS) (c : XS) : Statement (.ror d b c) := by
  intro f hf h; cases hf
  exact decodeFields_ok rfl rfl rfl (by simp [D.xxx]) (legal_of_wf h) rfl (part_of_wf h)
theorem slt (d : XR) (b : XS) (c : XS) : Statement (.slt d b c) := by
  intro f hf h; cases hf
  exact decodeFields_ok rfl rfl rfl (by simp [D.xxx]) (legal_of_wf h) rfl (part_of_wf h)
theorem sltn (d : XR) (b : XS) (c : XS) : Statement (.sltn d b c) := by
  intro f hf h; cases hf
  exact decodeFields_ok rfl rfl rfl (by simp [D.xxx]) (legal_of_wf h) rfl (part_of_wf h)
theorem min (d : XR) (b : XS) (c : XS) : Statement (.min d b c) := by
  intro f hf h; cases hf
  exact decodeFields_ok rfl rfl rfl (by simp [D.xxx]) (legal_of_wf h) rfl (part_of_wf h)
theorem max (d : XR) (b : XS) (c : XS) : Statement (.max d b c) := by
  intro f hf h; cases hf
  exact decodeFields_ok rfl rfl rfl (by simp [D.xxx]) (legal_of_wf h) rfl (part_of_wf h)
theorem minn (d : XR) (b : XS) (c : XS) : Statement (.minn d b c) := by
  intro f hf h; cases hf
  exact decodeFields_ok rfl rfl rfl (by simp [D.xxx]) (legal_of_wf h) rfl (part_of_wf h)
theorem maxn (d : XR) (b : XS) (c : XS) : Statement (.maxn d b c) := by
  intro f hf h; cases hf
  exact decodeFields_ok rfl rfl rfl (by simp [D.xxx]) (legal_of_wf h) rfl (part_of_wf h)
theorem addi (d : XR) (b : XS) (imm : BitVec 16) : Statement (.addi d b imm) := by
  intro f hf h; cases hf
  exact decodeFields_ok rfl rfl rfl (by simp [D.xxI]) (legal_of_wf h) rfl (part_of_wf h)
theorem andi (d : XR) (b : XS) (imm : BitVec 16) : Statement (.andi d b imm) := by
  intro f hf h; cases hf
  exact decodeFields_ok rfl rfl rfl (by simp [D.xxI]) (legal_of_wf h) rfl (part_of_wf h)
theorem ori (d : XR) (b : XS) (imm : BitVec 16) : Statement (.ori d b imm) := by
  intro f hf h; cases hf
  exact decodeFields_ok rfl rfl rfl (by simp [D.xxI]) (legal_of_wf h) rfl (part_of_wf h)
theorem xori (d : XR) (b : XS) (imm : BitVec 16) : Statement (.xori d b imm) := by
  intro f hf h; cases hf
  exact decodeFields_ok rfl rfl rfl (by simp [D.xxI]) (legal_of_wf h) rfl (part_of_wf h)
theorem slli (d : XR) (b : XS) (sh : BitVec 6) : Statement (.slli d b sh) := by
  intro f hf h; cases hf
  exact decodeFields_ok rfl rfl rfl (by simp [D.xxS]) (legal_of_wf h) rfl (part_of_wf h)
theorem srli (d : XR) (b : XS) (sh : BitVec 6) : Statement (.srli d b sh) := by
  intro f hf h; cases hf
  exact decodeFields_ok rfl rfl rfl (by simp [D.xxS]) (legal_of_wf h) rfl (part_of_wf h)
theorem srai (d : XR) (b : XS) (sh : BitVec 6) : Statement (.srai d b sh) := by
  intro f hf h; cases hf
  exact decodeFields_ok rfl rfl rfl (by simp [D.xxS]) (legal_of_wf h) rfl (part_of_wf h)
theorem slti (d : XR) (b : XS) (imm : BitVec 16) : Statement (.slti d b imm) := by
  intro f hf h; cases hf
  exact decodeFields_ok rfl rfl rfl (by simp [D.xxI]) (legal_of_wf h) rfl (part_of_wf h)
theorem sltni (d : XR) (b : XS) (imm : BitVec 16) : Statement (.sltni d b imm) := by
  intro f hf h; cases hf
  exact decodeFields_ok rfl rfl rfl (by simp [D.xxI]) (legal_of_wf h) rfl (part_of_wf h)
theorem li (d : XR) (imm : BitVec 32) : Statement (.li d imm) := by
  intro f hf h; cases hf
  exact decodeFields_ok rfl rfl rfl (by simp [D.xi32]) (legal_of_wf h) rfl (part_of_wf h)
theorem lih (d : XR) (imm : BitVec 32) : Statement (.lih d imm) := by
  intro f hf h; cases hf
  exact decodeFields_ok rfl rfl rfl (by simp [D.xi32]) (legal_of_wf h) rfl (part_of_wf h)
theorem mul (d : XR) (b : XS) (c : XS) : Statement (.mul d b c) := by
  intro f hf h; cases hf
  exact decodeFields_ok rfl rfl rfl (by simp [D.xxx]) (legal_of_wf h) rfl (part_of_wf h)
theorem mulh (d : XR) (b : XS) (c : XS) : Statement (.mulh d b c) := by
  intro f hf h; cases hf
  exact decodeFields_ok rfl rfl rfl (by simp [D.xxx]) (legal_of_wf h) rfl (part_of_wf h)
theorem mulhn (d : XR) (b : XS) (c : XS) : Statement (.mulhn d b c) := by
  intro f hf h; cases hf
  exact decodeFields_ok rfl rfl rfl (by simp [D.xxx]) (legal_of_wf h) rfl (part_of_wf h)
theorem div (d : XR) (b : XS) (c : XS) : Statement (.div d b c) := by
  intro f hf h; cases hf
  exact decodeFields_ok rfl rfl rfl (by simp [D.xxx]) (legal_of_wf h) rfl (part_of_wf h)
theorem divn (d : XR) (b : XS) (c : XS) : Statement (.divn d b c) := by
  intro f hf h; cases hf
  exact decodeFields_ok rfl rfl rfl (by simp [D.xxx]) (legal_of_wf h) rfl (part_of_wf h)
theorem rem (d : XR) (b : XS) (c : XS) : Statement (.rem d b c) := by
  intro f hf h; cases hf
  exact decodeFields_ok rfl rfl rfl (by simp [D.xxx]) (legal_of_wf h) rfl (part_of_wf h)
theorem remn (d : XR) (b : XS) (c : XS) : Statement (.remn d b c) := by
  intro f hf h; cases hf
  exact decodeFields_ok rfl rfl rfl (by simp [D.xxx]) (legal_of_wf h) rfl (part_of_wf h)
theorem clz (d : XR) (b : XS) : Statement (.clz d b) := by
  intro f hf h; cases hf
  exact decodeFields_ok rfl rfl rfl (by simp [D.xx]) (legal_of_wf h) rfl (part_of_wf h)
theorem ctz (d : XR) (b : XS) : Statement (.ctz d b) := by
  intro f hf h; cases hf
  exact decodeFields_ok rfl rfl rfl (by simp [D.xx]) (legal_of_wf h) rfl (part_of_wf h)
theorem popc (d : XR) (b : XS) : Statement (.popc d b) := by
  intro f hf h; cases hf
  exact decodeFields_ok rfl rfl rfl (by simp [D.xx]) (legal_of_wf h) rfl (part_of_wf h)
theorem brev (d : XR) (b : XS) : Statement (.brev d b) := by
  intro f hf h; cases hf
  exact decodeFields_ok rfl rfl rfl (by simp [D.xx]) (legal_of_wf h) rfl (part_of_wf h)
theorem addpc (d : XR) (off : BitVec 32) : Statement (.addpc d off) := by
  intro f hf h; cases hf
  exact decodeFields_ok rfl rfl rfl (by simp [D.xi32]) (legal_of_wf h) rfl (part_of_wf h)
theorem faddF32 (d : XR) (b : XS) (c : XS) : Statement (.faddF32 d b c) := by
  intro f hf h; cases hf
  exact decodeFields_ok rfl rfl rfl (by simp [D.xxx]) (legal_of_wf h) rfl (part_of_wf h)
theorem fsubF32 (d : XR) (b : XS) (c : XS) : Statement (.fsubF32 d b c) := by
  intro f hf h; cases hf
  exact decodeFields_ok rfl rfl rfl (by simp [D.xxx]) (legal_of_wf h) rfl (part_of_wf h)
theorem fmulF32 (d : XR) (b : XS) (c : XS) : Statement (.fmulF32 d b c) := by
  intro f hf h; cases hf
  exact decodeFields_ok rfl rfl rfl (by simp [D.xxx]) (legal_of_wf h) rfl (part_of_wf h)
theorem fdivF32 (d : XR) (b : XS) (c : XS) : Statement (.fdivF32 d b c) := by
  intro f hf h; cases hf
  exact decodeFields_ok rfl rfl rfl (by simp [D.xxx]) (legal_of_wf h) rfl (part_of_wf h)
theorem fsqrtF32 (d : XR) (b : XS) : Statement (.fsqrtF32 d b) := by
  intro f hf h; cases hf
  exact decodeFields_ok rfl rfl rfl (by simp [D.xx]) (legal_of_wf h) rfl (part_of_wf h)
theorem fminF32 (d : XR) (b : XS) (c : XS) : Statement (.fminF32 d b c) := by
  intro f hf h; cases hf
  exact decodeFields_ok rfl rfl rfl (by simp [D.xxx]) (legal_of_wf h) rfl (part_of_wf h)
theorem fmaxF32 (d : XR) (b : XS) (c : XS) : Statement (.fmaxF32 d b c) := by
  intro f hf h; cases hf
  exact decodeFields_ok rfl rfl rfl (by simp [D.xxx]) (legal_of_wf h) rfl (part_of_wf h)
theorem ffmaF32 (d : XR) (b : XS) (c : XS) : Statement (.ffmaF32 d b c) := by
  intro f hf h; cases hf
  exact decodeFields_ok rfl rfl rfl (by simp [D.xxx]) (legal_of_wf h) rfl (part_of_wf h)
theorem feqF32 (d : XR) (b : XS) (c : XS) : Statement (.feqF32 d b c) := by
  intro f hf h; cases hf
  exact decodeFields_ok rfl rfl rfl (by simp [D.xxx]) (legal_of_wf h) rfl (part_of_wf h)
theorem fltF32 (d : XR) (b : XS) (c : XS) : Statement (.fltF32 d b c) := by
  intro f hf h; cases hf
  exact decodeFields_ok rfl rfl rfl (by simp [D.xxx]) (legal_of_wf h) rfl (part_of_wf h)
theorem fleF32 (d : XR) (b : XS) (c : XS) : Statement (.fleF32 d b c) := by
  intro f hf h; cases hf
  exact decodeFields_ok rfl rfl rfl (by simp [D.xxx]) (legal_of_wf h) rfl (part_of_wf h)
theorem faddF64 (d : XR) (b : XS) (c : XS) : Statement (.faddF64 d b c) := by
  intro f hf h; cases hf
  exact decodeFields_ok rfl rfl rfl (by simp [D.xxx]) (legal_of_wf h) rfl (part_of_wf h)
theorem fsubF64 (d : XR) (b : XS) (c : XS) : Statement (.fsubF64 d b c) := by
  intro f hf h; cases hf
  exact decodeFields_ok rfl rfl rfl (by simp [D.xxx]) (legal_of_wf h) rfl (part_of_wf h)
theorem fmulF64 (d : XR) (b : XS) (c : XS) : Statement (.fmulF64 d b c) := by
  intro f hf h; cases hf
  exact decodeFields_ok rfl rfl rfl (by simp [D.xxx]) (legal_of_wf h) rfl (part_of_wf h)
theorem fdivF64 (d : XR) (b : XS) (c : XS) : Statement (.fdivF64 d b c) := by
  intro f hf h; cases hf
  exact decodeFields_ok rfl rfl rfl (by simp [D.xxx]) (legal_of_wf h) rfl (part_of_wf h)
theorem fsqrtF64 (d : XR) (b : XS) : Statement (.fsqrtF64 d b) := by
  intro f hf h; cases hf
  exact decodeFields_ok rfl rfl rfl (by simp [D.xx]) (legal_of_wf h) rfl (part_of_wf h)
theorem fminF64 (d : XR) (b : XS) (c : XS) : Statement (.fminF64 d b c) := by
  intro f hf h; cases hf
  exact decodeFields_ok rfl rfl rfl (by simp [D.xxx]) (legal_of_wf h) rfl (part_of_wf h)
theorem fmaxF64 (d : XR) (b : XS) (c : XS) : Statement (.fmaxF64 d b c) := by
  intro f hf h; cases hf
  exact decodeFields_ok rfl rfl rfl (by simp [D.xxx]) (legal_of_wf h) rfl (part_of_wf h)
theorem ffmaF64 (d : XR) (b : XS) (c : XS) : Statement (.ffmaF64 d b c) := by
  intro f hf h; cases hf
  exact decodeFields_ok rfl rfl rfl (by simp [D.xxx]) (legal_of_wf h) rfl (part_of_wf h)
theorem feqF64 (d : XR) (b : XS) (c : XS) : Statement (.feqF64 d b c) := by
  intro f hf h; cases hf
  exact decodeFields_ok rfl rfl rfl (by simp [D.xxx]) (legal_of_wf h) rfl (part_of_wf h)
theorem fltF64 (d : XR) (b : XS) (c : XS) : Statement (.fltF64 d b c) := by
  intro f hf h; cases hf
  exact decodeFields_ok rfl rfl rfl (by simp [D.xxx]) (legal_of_wf h) rfl (part_of_wf h)
theorem fleF64 (d : XR) (b : XS) (c : XS) : Statement (.fleF64 d b c) := by
  intro f hf h; cases hf
  exact decodeFields_ok rfl rfl rfl (by simp [D.xxx]) (legal_of_wf h) rfl (part_of_wf h)
theorem vadd (t : ElemT) (d : VR) (b : VR) (c : VR) (m : KR) : Statement (.vadd t d b c m) := by
  intro f hf h; cases hf
  exact decodeFields_ok rfl rfl rfl (by simp [D.vvv]) (legal_of_wf h) rfl (part_of_wf h)
theorem vsub (t : ElemT) (d : VR) (b : VR) (c : VR) (m : KR) : Statement (.vsub t d b c m) := by
  intro f hf h; cases hf
  exact decodeFields_ok rfl rfl rfl (by simp [D.vvv]) (legal_of_wf h) rfl (part_of_wf h)
theorem vmul (t : ElemT) (d : VR) (b : VR) (c : VR) (m : KR) : Statement (.vmul t d b c m) := by
  intro f hf h; cases hf
  exact decodeFields_ok rfl rfl rfl (by simp [D.vvv]) (legal_of_wf h) rfl (part_of_wf h)
theorem vmulh (t : ElemT) (d : VR) (b : VR) (c : VR) (m : KR) : Statement (.vmulh t d b c m) := by
  intro f hf h; cases hf
  exact decodeFields_ok rfl rfl rfl (by simp [D.vvv]) (legal_of_wf h) rfl (part_of_wf h)
theorem vand (t : ElemT) (d : VR) (b : VR) (c : VR) (m : KR) : Statement (.vand t d b c m) := by
  intro f hf h; cases hf
  exact decodeFields_ok rfl rfl rfl (by simp [D.vvv]) (legal_of_wf h) rfl (part_of_wf h)
theorem vor (t : ElemT) (d : VR) (b : VR) (c : VR) (m : KR) : Statement (.vor t d b c m) := by
  intro f hf h; cases hf
  exact decodeFields_ok rfl rfl rfl (by simp [D.vvv]) (legal_of_wf h) rfl (part_of_wf h)
theorem vxor (t : ElemT) (d : VR) (b : VR) (c : VR) (m : KR) : Statement (.vxor t d b c m) := by
  intro f hf h; cases hf
  exact decodeFields_ok rfl rfl rfl (by simp [D.vvv]) (legal_of_wf h) rfl (part_of_wf h)
theorem vandn (t : ElemT) (d : VR) (b : VR) (c : VR) (m : KR) : Statement (.vandn t d b c m) := by
  intro f hf h; cases hf
  exact decodeFields_ok rfl rfl rfl (by simp [D.vvv]) (legal_of_wf h) rfl (part_of_wf h)
theorem vsll (t : ElemT) (d : VR) (b : VR) (c : VR) (m : KR) : Statement (.vsll t d b c m) := by
  intro f hf h; cases hf
  exact decodeFields_ok rfl rfl rfl (by simp [D.vvv]) (legal_of_wf h) rfl (part_of_wf h)
theorem vsrl (t : ElemT) (d : VR) (b : VR) (c : VR) (m : KR) : Statement (.vsrl t d b c m) := by
  intro f hf h; cases hf
  exact decodeFields_ok rfl rfl rfl (by simp [D.vvv]) (legal_of_wf h) rfl (part_of_wf h)
theorem vsra (t : ElemT) (d : VR) (b : VR) (c : VR) (m : KR) : Statement (.vsra t d b c m) := by
  intro f hf h; cases hf
  exact decodeFields_ok rfl rfl rfl (by simp [D.vvv]) (legal_of_wf h) rfl (part_of_wf h)
theorem vmin (t : ElemT) (d : VR) (b : VR) (c : VR) (m : KR) : Statement (.vmin t d b c m) := by
  intro f hf h; cases hf
  exact decodeFields_ok rfl rfl rfl (by simp [D.vvv]) (legal_of_wf h) rfl (part_of_wf h)
theorem vmax (t : ElemT) (d : VR) (b : VR) (c : VR) (m : KR) : Statement (.vmax t d b c m) := by
  intro f hf h; cases hf
  exact decodeFields_ok rfl rfl rfl (by simp [D.vvv]) (legal_of_wf h) rfl (part_of_wf h)
theorem vadds (t : ElemT) (d : VR) (b : VR) (c : VR) (m : KR) : Statement (.vadds t d b c m) := by
  intro f hf h; cases hf
  exact decodeFields_ok rfl rfl rfl (by simp [D.vvv]) (legal_of_wf h) rfl (part_of_wf h)
theorem vsubs (t : ElemT) (d : VR) (b : VR) (c : VR) (m : KR) : Statement (.vsubs t d b c m) := by
  intro f hf h; cases hf
  exact decodeFields_ok rfl rfl rfl (by simp [D.vvv]) (legal_of_wf h) rfl (part_of_wf h)
theorem vabs (t : ElemT) (d : VR) (b : VR) (m : KR) : Statement (.vabs t d b m) := by
  intro f hf h; cases hf
  exact decodeFields_ok rfl rfl rfl (by simp [D.vv]) (legal_of_wf h) rfl (part_of_wf h)
theorem vcmpeq (t : ElemT) (d : KR) (b : VR) (c : VR) (m : KR) : Statement (.vcmpeq t d b c m) := by
  intro f hf h; cases hf
  exact decodeFields_ok rfl rfl rfl (by simp [D.kvv]) (legal_of_wf h) rfl (part_of_wf h)
theorem vcmplt (t : ElemT) (d : KR) (b : VR) (c : VR) (m : KR) : Statement (.vcmplt t d b c m) := by
  intro f hf h; cases hf
  exact decodeFields_ok rfl rfl rfl (by simp [D.kvv]) (legal_of_wf h) rfl (part_of_wf h)
theorem vcmple (t : ElemT) (d : KR) (b : VR) (c : VR) (m : KR) : Statement (.vcmple t d b c m) := by
  intro f hf h; cases hf
  exact decodeFields_ok rfl rfl rfl (by simp [D.kvv]) (legal_of_wf h) rfl (part_of_wf h)
theorem vsel (t : ElemT) (d : VR) (b : VR) (c : VR) (m : KR) : Statement (.vsel t d b c m) := by
  intro f hf h; cases hf
  exact decodeFields_ok rfl rfl rfl (by simp [D.vvv]) (legal_of_wf h) rfl (part_of_wf h)
theorem vsplat (t : ElemT) (d : VR) (b : XS) (m : KR) : Statement (.vsplat t d b m) := by
  intro f hf h; cases hf
  exact decodeFields_ok rfl rfl rfl (by simp [D.vx]) (legal_of_wf h) rfl (part_of_wf h)
theorem vneg (t : ElemT) (d : VR) (b : VR) (m : KR) : Statement (.vneg t d b m) := by
  intro f hf h; cases hf
  exact decodeFields_ok rfl rfl rfl (by simp [D.vv]) (legal_of_wf h) rfl (part_of_wf h)
theorem vfadd (t : ElemT) (d : VR) (b : VR) (c : VR) (m : KR) : Statement (.vfadd t d b c m) := by
  intro f hf h; cases hf
  exact decodeFields_ok rfl rfl rfl (by simp [D.vvv]) (legal_of_wf h) rfl (part_of_wf h)
theorem vfsub (t : ElemT) (d : VR) (b : VR) (c : VR) (m : KR) : Statement (.vfsub t d b c m) := by
  intro f hf h; cases hf
  exact decodeFields_ok rfl rfl rfl (by simp [D.vvv]) (legal_of_wf h) rfl (part_of_wf h)
theorem vfmul (t : ElemT) (d : VR) (b : VR) (c : VR) (m : KR) : Statement (.vfmul t d b c m) := by
  intro f hf h; cases hf
  exact decodeFields_ok rfl rfl rfl (by simp [D.vvv]) (legal_of_wf h) rfl (part_of_wf h)
theorem vfma (t : ElemT) (d : VR) (b : VR) (c : VR) (m : KR) : Statement (.vfma t d b c m) := by
  intro f hf h; cases hf
  exact decodeFields_ok rfl rfl rfl (by simp [D.vvv]) (legal_of_wf h) rfl (part_of_wf h)
theorem vfms (t : ElemT) (d : VR) (b : VR) (c : VR) (m : KR) : Statement (.vfms t d b c m) := by
  intro f hf h; cases hf
  exact decodeFields_ok rfl rfl rfl (by simp [D.vvv]) (legal_of_wf h) rfl (part_of_wf h)
theorem vfnma (t : ElemT) (d : VR) (b : VR) (c : VR) (m : KR) : Statement (.vfnma t d b c m) := by
  intro f hf h; cases hf
  exact decodeFields_ok rfl rfl rfl (by simp [D.vvv]) (legal_of_wf h) rfl (part_of_wf h)
theorem vfmin (t : ElemT) (d : VR) (b : VR) (c : VR) (m : KR) : Statement (.vfmin t d b c m) := by
  intro f hf h; cases hf
  exact decodeFields_ok rfl rfl rfl (by simp [D.vvv]) (legal_of_wf h) rfl (part_of_wf h)
theorem vfmax (t : ElemT) (d : VR) (b : VR) (c : VR) (m : KR) : Statement (.vfmax t d b c m) := by
  intro f hf h; cases hf
  exact decodeFields_ok rfl rfl rfl (by simp [D.vvv]) (legal_of_wf h) rfl (part_of_wf h)
theorem vfdiv (t : ElemT) (d : VR) (b : VR) (c : VR) (m : KR) : Statement (.vfdiv t d b c m) := by
  intro f hf h; cases hf
  exact decodeFields_ok rfl rfl rfl (by simp [D.vvv]) (legal_of_wf h) rfl (part_of_wf h)
theorem vfsqrt (t : ElemT) (d : VR) (b : VR) (m : KR) : Statement (.vfsqrt t d b m) := by
  intro f hf h; cases hf
  exact decodeFields_ok rfl rfl rfl (by simp [D.vv]) (legal_of_wf h) rfl (part_of_wf h)
theorem vfabs (t : ElemT) (d : VR) (b : VR) (m : KR) : Statement (.vfabs t d b m) := by
  intro f hf h; cases hf
  exact decodeFields_ok rfl rfl rfl (by simp [D.vv]) (legal_of_wf h) rfl (part_of_wf h)
theorem vfneg (t : ElemT) (d : VR) (b : VR) (m : KR) : Statement (.vfneg t d b m) := by
  intro f hf h; cases hf
  exact decodeFields_ok rfl rfl rfl (by simp [D.vv]) (legal_of_wf h) rfl (part_of_wf h)
theorem vfcmpeq (t : ElemT) (d : KR) (b : VR) (c : VR) (m : KR) : Statement (.vfcmpeq t d b c m) := by
  intro f hf h; cases hf
  exact decodeFields_ok rfl rfl rfl (by simp [D.kvv]) (legal_of_wf h) rfl (part_of_wf h)
theorem vfcmplt (t : ElemT) (d : KR) (b : VR) (c : VR) (m : KR) : Statement (.vfcmplt t d b c m) := by
  intro f hf h; cases hf
  exact decodeFields_ok rfl rfl rfl (by simp [D.kvv]) (legal_of_wf h) rfl (part_of_wf h)
theorem vfcmple (t : ElemT) (d : KR) (b : VR) (c : VR) (m : KR) : Statement (.vfcmple t d b c m) := by
  intro f hf h; cases hf
  exact decodeFields_ok rfl rfl rfl (by simp [D.kvv]) (legal_of_wf h) rfl (part_of_wf h)
theorem kand (d : KR) (b : KR) (c : KR) : Statement (.kand d b c) := by
  intro f hf h; cases hf
  exact decodeFields_ok rfl rfl rfl (by simp [D.kkk]) (legal_of_wf h) rfl (part_of_wf h)
theorem kor (d : KR) (b : KR) (c : KR) : Statement (.kor d b c) := by
  intro f hf h; cases hf
  exact decodeFields_ok rfl rfl rfl (by simp [D.kkk]) (legal_of_wf h) rfl (part_of_wf h)
theorem kxor (d : KR) (b : KR) (c : KR) : Statement (.kxor d b c) := by
  intro f hf h; cases hf
  exact decodeFields_ok rfl rfl rfl (by simp [D.kkk]) (legal_of_wf h) rfl (part_of_wf h)
theorem kandn (d : KR) (b : KR) (c : KR) : Statement (.kandn d b c) := by
  intro f hf h; cases hf
  exact decodeFields_ok rfl rfl rfl (by simp [D.kkk]) (legal_of_wf h) rfl (part_of_wf h)
theorem knot (d : KR) (b : KR) : Statement (.knot d b) := by
  intro f hf h; cases hf
  exact decodeFields_ok rfl rfl rfl (by simp [D.kk]) (legal_of_wf h) rfl (part_of_wf h)
theorem kmovx (d : KR) (b : XS) : Statement (.kmovx d b) := by
  intro f hf h; cases hf
  exact decodeFields_ok rfl rfl rfl (by simp [D.kx]) (legal_of_wf h) rfl (part_of_wf h)
theorem ktox (d : XR) (b : KR) : Statement (.ktox d b) := by
  intro f hf h; cases hf
  exact decodeFields_ok rfl rfl rfl (by simp [D.xk]) (legal_of_wf h) rfl (part_of_wf h)
theorem kpopc (d : XR) (b : KR) : Statement (.kpopc d b) := by
  intro f hf h; cases hf
  exact decodeFields_ok rfl rfl rfl (by simp [D.xk]) (legal_of_wf h) rfl (part_of_wf h)
theorem kfirst (d : XR) (b : KR) : Statement (.kfirst d b) := by
  intro f hf h; cases hf
  exact decodeFields_ok rfl rfl rfl (by simp [D.xk]) (legal_of_wf h) rfl (part_of_wf h)
theorem vaddi (t : ElemT) (d : VR) (b : VR) (imm : BitVec 16) (m : KR) : Statement (.vaddi t d b imm m) := by
  intro f hf h; cases hf
  exact decodeFields_ok rfl rfl rfl (by simp [D.vvI]) (legal_of_wf h) rfl (part_of_wf h)
theorem vandi (t : ElemT) (d : VR) (b : VR) (imm : BitVec 16) (m : KR) : Statement (.vandi t d b imm m) := by
  intro f hf h; cases hf
  exact decodeFields_ok rfl rfl rfl (by simp [D.vvI]) (legal_of_wf h) rfl (part_of_wf h)
theorem vori (t : ElemT) (d : VR) (b : VR) (imm : BitVec 16) (m : KR) : Statement (.vori t d b imm m) := by
  intro f hf h; cases hf
  exact decodeFields_ok rfl rfl rfl (by simp [D.vvI]) (legal_of_wf h) rfl (part_of_wf h)
theorem vslli (t : ElemT) (d : VR) (b : VR) (sh : BitVec 6) (m : KR) : Statement (.vslli t d b sh m) := by
  intro f hf h; cases hf
  exact decodeFields_ok rfl rfl rfl (by simp [D.vvS]) (legal_of_wf h) rfl (part_of_wf h)
theorem vsrli (t : ElemT) (d : VR) (b : VR) (sh : BitVec 6) (m : KR) : Statement (.vsrli t d b sh m) := by
  intro f hf h; cases hf
  exact decodeFields_ok rfl rfl rfl (by simp [D.vvS]) (legal_of_wf h) rfl (part_of_wf h)
theorem vsrai (t : ElemT) (d : VR) (b : VR) (sh : BitVec 6) (m : KR) : Statement (.vsrai t d b sh m) := by
  intro f hf h; cases hf
  exact decodeFields_ok rfl rfl rfl (by simp [D.vvS]) (legal_of_wf h) rfl (part_of_wf h)
theorem vsplati (t : ElemT) (d : VR) (imm : BitVec 16) (m : KR) : Statement (.vsplati t d imm m) := by
  intro f hf h; cases hf
  exact decodeFields_ok rfl rfl rfl (by simp [D.vI]) (legal_of_wf h) rfl (part_of_wf h)
theorem vli16 (d : VR) (imm : BitVec 16) : Statement (.vli16 d imm) := by
  intro f hf h; cases hf
  exact decodeFields_ok rfl rfl rfl (by simp [D.vi16]) (legal_of_wf h) rfl (part_of_wf h)
theorem vli32 (d : VR) (imm : BitVec 32) : Statement (.vli32 d imm) := by
  intro f hf h; cases hf
  exact decodeFields_ok rfl rfl rfl (by simp [D.vi32]) (legal_of_wf h) rfl (part_of_wf h)
theorem vli64 (d : VR) (imm : BitVec 32) : Statement (.vli64 d imm) := by
  intro f hf h; cases hf
  exact decodeFields_ok rfl rfl rfl (by simp [D.vi32]) (legal_of_wf h) rfl (part_of_wf h)
theorem vxlr (t : ElemT) (d : VR) (b : VR) (c : VR) (m : KR) : Statement (.vxlr t d b c m) := by
  intro f hf h; cases hf
  exact decodeFields_ok rfl rfl rfl (by simp [D.vvv]) (legal_of_wf h) rfl (part_of_wf h)
theorem vperm (t : ElemT) (d : VR) (b : VR) (c : VR) (i : VR) (m : KR) : Statement (.vperm t d b c i m) := by
  intro f hf h; cases hf
  exact decodeFields_ok rfl rfl rfl (by simp [D.vvvv]) (legal_of_wf h) rfl (part_of_wf h)
theorem vcompr (t : ElemT) (d : VR) (b : VR) (m : KR) : Statement (.vcompr t d b m) := by
  intro f hf h; cases hf
  exact decodeFields_ok rfl rfl rfl (by simp [D.vv]) (legal_of_wf h) rfl (part_of_wf h)
theorem vexpnd (t : ElemT) (d : VR) (b : VR) (m : KR) : Statement (.vexpnd t d b m) := by
  intro f hf h; cases hf
  exact decodeFields_ok rfl rfl rfl (by simp [D.vv]) (legal_of_wf h) rfl (part_of_wf h)
theorem vslup (t : ElemT) (d : VR) (b : VR) (c : XS) (m : KR) : Statement (.vslup t d b c m) := by
  intro f hf h; cases hf
  exact decodeFields_ok rfl rfl rfl (by simp [D.vvx]) (legal_of_wf h) rfl (part_of_wf h)
theorem vsldn (t : ElemT) (d : VR) (b : VR) (c : XS) (m : KR) : Statement (.vsldn t d b c m) := by
  intro f hf h; cases hf
  exact decodeFields_ok rfl rfl rfl (by simp [D.vvx]) (legal_of_wf h) rfl (part_of_wf h)
theorem vzip (t : ElemT) (d : VR) (b : VR) (c : VR) (m : KR) : Statement (.vzip t d b c m) := by
  intro f hf h; cases hf
  exact decodeFields_ok rfl rfl rfl (by simp [D.vvv]) (legal_of_wf h) rfl (part_of_wf h)
theorem vunzip (t : ElemT) (d : VR) (b : VR) (c : VR) (m : KR) : Statement (.vunzip t d b c m) := by
  intro f hf h; cases hf
  exact decodeFields_ok rfl rfl rfl (by simp [D.vvv]) (legal_of_wf h) rfl (part_of_wf h)
theorem vextr (t : ElemT) (d : XR) (b : VR) (c : XS) : Statement (.vextr t d b c) := by
  intro f hf h; cases hf
  exact decodeFields_ok rfl rfl rfl (by simp [D.xvx]) (legal_of_wf h) rfl (part_of_wf h)
theorem vins (t : ElemT) (d : VR) (b : XS) (c : XS) : Statement (.vins t d b c) := by
  intro f hf h; cases hf
  exact decodeFields_ok rfl rfl rfl (by simp [D.vxx]) (legal_of_wf h) rfl (part_of_wf h)
theorem vredAdd (t : ElemT) (d : XR) (b : VR) (m : KR) : Statement (.vredAdd t d b m) := by
  intro f hf h; cases hf
  exact decodeFields_ok rfl rfl rfl (by simp [D.xv]) (legal_of_wf h) rfl (part_of_wf h)
theorem vredMin (t : ElemT) (d : XR) (b : VR) (m : KR) : Statement (.vredMin t d b m) := by
  intro f hf h; cases hf
  exact decodeFields_ok rfl rfl rfl (by simp [D.xv]) (legal_of_wf h) rfl (part_of_wf h)
theorem vredMax (t : ElemT) (d : XR) (b : VR) (m : KR) : Statement (.vredMax t d b m) := by
  intro f hf h; cases hf
  exact decodeFields_ok rfl rfl rfl (by simp [D.xv]) (legal_of_wf h) rfl (part_of_wf h)
theorem vredAnd (t : ElemT) (d : XR) (b : VR) (m : KR) : Statement (.vredAnd t d b m) := by
  intro f hf h; cases hf
  exact decodeFields_ok rfl rfl rfl (by simp [D.xv]) (legal_of_wf h) rfl (part_of_wf h)
theorem vredOr (t : ElemT) (d : XR) (b : VR) (m : KR) : Statement (.vredOr t d b m) := by
  intro f hf h; cases hf
  exact decodeFields_ok rfl rfl rfl (by simp [D.xv]) (legal_of_wf h) rfl (part_of_wf h)
theorem vscanAdd (t : ElemT) (d : VR) (b : VR) (m : KR) : Statement (.vscanAdd t d b m) := by
  intro f hf h; cases hf
  exact decodeFields_ok rfl rfl rfl (by simp [D.vv]) (legal_of_wf h) rfl (part_of_wf h)
theorem vscanMin (t : ElemT) (d : VR) (b : VR) (m : KR) : Statement (.vscanMin t d b m) := by
  intro f hf h; cases hf
  exact decodeFields_ok rfl rfl rfl (by simp [D.vv]) (legal_of_wf h) rfl (part_of_wf h)
theorem vscanMax (t : ElemT) (d : VR) (b : VR) (m : KR) : Statement (.vscanMax t d b m) := by
  intro f hf h; cases hf
  exact decodeFields_ok rfl rfl rfl (by simp [D.vv]) (legal_of_wf h) rfl (part_of_wf h)
theorem vcvt (td : ElemT) (ts : ElemT) (d : VR) (b : VR) (p : BitVec 6) (m : KR) : Statement (.vcvt td ts d b p m) := by
  intro f hf h; cases hf
  exact decodeFields_ok rfl rfl rfl (by simp [D.cvtV]) (legal_of_wf h) rfl (part_of_wf h)
theorem fcvt (td : ElemT) (ts : ElemT) (d : XR) (b : XS) : Statement (.fcvt td ts d b) := by
  intro f hf h; cases hf
  exact decodeFields_ok rfl rfl rfl (by simp [D.cvtX]) (legal_of_wf h) rfl (part_of_wf h)
theorem vqnt (bf : BlkF) (t : ElemT) (d : VR) (b : VR) (c : XS) (m : KR) : Statement (.vqnt bf t d b c m) := by
  intro f hf h; cases hf
  exact decodeFields_ok rfl rfl rfl (by simp [D.qnt]) (legal_of_wf h) rfl (part_of_wf h)
theorem vdqnt (bf : BlkF) (t : ElemT) (d : VR) (b : VR) (c : XS) (m : KR) : Statement (.vdqnt bf t d b c m) := by
  intro f hf h; cases hf
  exact decodeFields_ok rfl rfl rfl (by simp [D.qnt]) (legal_of_wf h) rfl (part_of_wf h)
theorem vrsc (bf : BlkF) (d : VR) (b : VR) (c : XS) (e : XS) (m : KR) : Statement (.vrsc bf d b c e m) := by
  intro f hf h; cases hf
  exact decodeFields_ok rfl rfl rfl (by simp [D.rsc]) (legal_of_wf h) rfl (part_of_wf h)
theorem vemax (bf : BlkF) (t : ElemT) (d : XR) (b : VR) (m : KR) : Statement (.vemax bf t d b m) := by
  intro f hf h; cases hf
  exact decodeFields_ok rfl rfl rfl (by simp [D.emx]) (legal_of_wf h) rfl (part_of_wf h)
theorem vpack (td : ElemT) (ts : ElemT) (d : VR) (b : VR) (c : VR) (m : KR) : Statement (.vpack td ts d b c m) := by
  intro f hf h; cases hf
  exact decodeFields_ok rfl rfl rfl (by simp [D.pck]) (legal_of_wf h) rfl (part_of_wf h)
theorem vunpk (td : ElemT) (ts : ElemT) (d : VR) (b : VR) (p : Bool) (m : KR) : Statement (.vunpk td ts d b p m) := by
  intro f hf h; cases hf
  exact decodeFields_ok rfl rfl rfl (by simp [D.unp]) (legal_of_wf h) rfl (part_of_wf h)
theorem vphcv (t : ElemT) (d : VR) (b : VR) (c : XS) (m : KR) : Statement (.vphcv t d b c m) := by
  intro f hf h; cases hf
  exact decodeFields_ok rfl rfl rfl (by simp [D.phc]) (legal_of_wf h) rfl (part_of_wf h)
theorem frsqa (t : ElemT) (d : VR) (b : VR) (m : KR) : Statement (.frsqa t d b m) := by
  intro f hf h; cases hf
  exact decodeFields_ok rfl rfl rfl (by simp [D.apx]) (legal_of_wf h) rfl (part_of_wf h)
theorem frcpa (t : ElemT) (d : VR) (b : VR) (m : KR) : Statement (.frcpa t d b m) := by
  intro f hf h; cases hf
  exact decodeFields_ok rfl rfl rfl (by simp [D.apx]) (legal_of_wf h) rfl (part_of_wf h)
theorem ldS8 (d : XR) (b : XS) (off : BitVec 16) : Statement (.ldS8 d b off) := by
  intro f hf h; cases hf
  exact decodeFields_ok rfl rfl rfl (by simp [D.xxI]) (legal_of_wf h) rfl (part_of_wf h)
theorem ldN8 (d : XR) (b : XS) (off : BitVec 16) : Statement (.ldN8 d b off) := by
  intro f hf h; cases hf
  exact decodeFields_ok rfl rfl rfl (by simp [D.xxI]) (legal_of_wf h) rfl (part_of_wf h)
theorem ldS16 (d : XR) (b : XS) (off : BitVec 16) : Statement (.ldS16 d b off) := by
  intro f hf h; cases hf
  exact decodeFields_ok rfl rfl rfl (by simp [D.xxI]) (legal_of_wf h) rfl (part_of_wf h)
theorem ldN16 (d : XR) (b : XS) (off : BitVec 16) : Statement (.ldN16 d b off) := by
  intro f hf h; cases hf
  exact decodeFields_ok rfl rfl rfl (by simp [D.xxI]) (legal_of_wf h) rfl (part_of_wf h)
theorem ldS32 (d : XR) (b : XS) (off : BitVec 16) : Statement (.ldS32 d b off) := by
  intro f hf h; cases hf
  exact decodeFields_ok rfl rfl rfl (by simp [D.xxI]) (legal_of_wf h) rfl (part_of_wf h)
theorem ldN32 (d : XR) (b : XS) (off : BitVec 16) : Statement (.ldN32 d b off) := by
  intro f hf h; cases hf
  exact decodeFields_ok rfl rfl rfl (by simp [D.xxI]) (legal_of_wf h) rfl (part_of_wf h)
theorem ld64 (d : XR) (b : XS) (off : BitVec 16) : Statement (.ld64 d b off) := by
  intro f hf h; cases hf
  exact decodeFields_ok rfl rfl rfl (by simp [D.xxI]) (legal_of_wf h) rfl (part_of_wf h)
theorem ldFe (d : XR) (b : XS) (off : BitVec 16) : Statement (.ldFe d b off) := by
  intro f hf h; cases hf
  exact decodeFields_ok rfl rfl rfl (by simp [D.xxI]) (legal_of_wf h) rfl (part_of_wf h)
theorem ldFc (d : XR) (b : XS) (off : BitVec 16) : Statement (.ldFc d b off) := by
  intro f hf h; cases hf
  exact decodeFields_ok rfl rfl rfl (by simp [D.xxI]) (legal_of_wf h) rfl (part_of_wf h)
theorem st8 (a : XS) (b : XS) (off : BitVec 16) : Statement (.st8 a b off) := by
  intro f hf h; cases hf
  exact decodeFields_ok rfl rfl rfl (by simp [D.ssI]) (legal_of_wf h) rfl (part_of_wf h)
theorem st16 (a : XS) (b : XS) (off : BitVec 16) : Statement (.st16 a b off) := by
  intro f hf h; cases hf
  exact decodeFields_ok rfl rfl rfl (by simp [D.ssI]) (legal_of_wf h) rfl (part_of_wf h)
theorem st32 (a : XS) (b : XS) (off : BitVec 16) : Statement (.st32 a b off) := by
  intro f hf h; cases hf
  exact decodeFields_ok rfl rfl rfl (by simp [D.ssI]) (legal_of_wf h) rfl (part_of_wf h)
theorem st64 (a : XS) (b : XS) (off : BitVec 16) : Statement (.st64 a b off) := by
  intro f hf h; cases hf
  exact decodeFields_ok rfl rfl rfl (by simp [D.ssI]) (legal_of_wf h) rfl (part_of_wf h)
theorem stEf (a : XS) (b : XS) (off : BitVec 16) : Statement (.stEf a b off) := by
  intro f hf h; cases hf
  exact decodeFields_ok rfl rfl rfl (by simp [D.ssI]) (legal_of_wf h) rfl (part_of_wf h)
theorem stF (a : XS) (b : XS) (off : BitVec 16) : Statement (.stF a b off) := by
  intro f hf h; cases hf
  exact decodeFields_ok rfl rfl rfl (by simp [D.ssI]) (legal_of_wf h) rfl (part_of_wf h)
theorem ldp (d : XR) (w : Fin 4) (off : BitVec 16) : Statement (.ldp d w off) := by
  intro f hf h; cases hf
  exact decodeFields_ok rfl rfl rfl (by simp [D.ldp, -BitVec.toFin_extractLsb']) (legal_of_wf h) rfl (part_of_wf h)
theorem vld (t : ElemT) (d : VR) (b : XS) (off : BitVec 16) (m : KR) : Statement (.vld t d b off m) := by
  intro f hf h; cases hf
  exact decodeFields_ok rfl rfl rfl (by simp [D.vxM]) (legal_of_wf h) rfl (part_of_wf h)
theorem vst (t : ElemT) (a : VR) (b : XS) (off : BitVec 16) (m : KR) : Statement (.vst t a b off m) := by
  intro f hf h; cases hf
  exact decodeFields_ok rfl rfl rfl (by simp [D.vxM]) (legal_of_wf h) rfl (part_of_wf h)
theorem vlds (t : ElemT) (d : VR) (b : XS) (c : XS) (off : BitVec 16) (m : KR) : Statement (.vlds t d b c off m) := by
  intro f hf h; cases hf
  exact decodeFields_ok rfl rfl rfl (by simp [D.vxxM]) (legal_of_wf h) rfl (part_of_wf h)
theorem vsts (t : ElemT) (a : VR) (b : XS) (c : XS) (off : BitVec 16) (m : KR) : Statement (.vsts t a b c off m) := by
  intro f hf h; cases hf
  exact decodeFields_ok rfl rfl rfl (by simp [D.vxxM]) (legal_of_wf h) rfl (part_of_wf h)
theorem vldg (t : ElemT) (d : VR) (b : XS) (c : VR) (off : BitVec 16) (m : KR) : Statement (.vldg t d b c off m) := by
  intro f hf h; cases hf
  exact decodeFields_ok rfl rfl rfl (by simp [D.vxvM]) (legal_of_wf h) rfl (part_of_wf h)
theorem vstg (t : ElemT) (a : VR) (b : XS) (c : VR) (off : BitVec 16) (m : KR) : Statement (.vstg t a b c off m) := by
  intro f hf h; cases hf
  exact decodeFields_ok rfl rfl rfl (by simp [D.vxvM]) (legal_of_wf h) rfl (part_of_wf h)
theorem prefL1 (b : XS) (off : BitVec 16) : Statement (.prefL1 b off) := by
  intro f hf h; cases hf
  exact decodeFields_ok rfl rfl rfl (by simp [D.bI]) (legal_of_wf h) rfl (part_of_wf h)
theorem prefSl (b : XS) (off : BitVec 16) : Statement (.prefSl b off) := by
  intro f hf h; cases hf
  exact decodeFields_ok rfl rfl rfl (by simp [D.bI]) (legal_of_wf h) rfl (part_of_wf h)
theorem cclean (b : XS) (off : BitVec 16) : Statement (.cclean b off) := by
  intro f hf h; cases hf
  exact decodeFields_ok rfl rfl rfl (by simp [D.bI]) (legal_of_wf h) rfl (part_of_wf h)
theorem cflush (b : XS) (off : BitVec 16) : Statement (.cflush b off) := by
  intro f hf h; cases hf
  exact decodeFields_ok rfl rfl rfl (by simp [D.bI]) (legal_of_wf h) rfl (part_of_wf h)
theorem iflush (b : XS) (off : BitVec 16) : Statement (.iflush b off) := by
  intro f hf h; cases hf
  exact decodeFields_ok rfl rfl rfl (by simp [D.bI]) (legal_of_wf h) rfl (part_of_wf h)
theorem ldxS8 (d : XR) (b : XS) (c : XS) : Statement (.ldxS8 d b c) := by
  intro f hf h; cases hf
  exact decodeFields_ok rfl rfl rfl (by simp [D.xxx]) (legal_of_wf h) rfl (part_of_wf h)
theorem ldxN8 (d : XR) (b : XS) (c : XS) : Statement (.ldxN8 d b c) := by
  intro f hf h; cases hf
  exact decodeFields_ok rfl rfl rfl (by simp [D.xxx]) (legal_of_wf h) rfl (part_of_wf h)
theorem ldxS16 (d : XR) (b : XS) (c : XS) : Statement (.ldxS16 d b c) := by
  intro f hf h; cases hf
  exact decodeFields_ok rfl rfl rfl (by simp [D.xxx]) (legal_of_wf h) rfl (part_of_wf h)
theorem ldxN16 (d : XR) (b : XS) (c : XS) : Statement (.ldxN16 d b c) := by
  intro f hf h; cases hf
  exact decodeFields_ok rfl rfl rfl (by simp [D.xxx]) (legal_of_wf h) rfl (part_of_wf h)
theorem ldxS32 (d : XR) (b : XS) (c : XS) : Statement (.ldxS32 d b c) := by
  intro f hf h; cases hf
  exact decodeFields_ok rfl rfl rfl (by simp [D.xxx]) (legal_of_wf h) rfl (part_of_wf h)
theorem ldxN32 (d : XR) (b : XS) (c : XS) : Statement (.ldxN32 d b c) := by
  intro f hf h; cases hf
  exact decodeFields_ok rfl rfl rfl (by simp [D.xxx]) (legal_of_wf h) rfl (part_of_wf h)
theorem ldx64 (d : XR) (b : XS) (c : XS) : Statement (.ldx64 d b c) := by
  intro f hf h; cases hf
  exact decodeFields_ok rfl rfl rfl (by simp [D.xxx]) (legal_of_wf h) rfl (part_of_wf h)
theorem stx8 (a : XS) (b : XS) (c : XS) : Statement (.stx8 a b c) := by
  intro f hf h; cases hf
  exact decodeFields_ok rfl rfl rfl (by simp [D.sss]) (legal_of_wf h) rfl (part_of_wf h)
theorem stx16 (a : XS) (b : XS) (c : XS) : Statement (.stx16 a b c) := by
  intro f hf h; cases hf
  exact decodeFields_ok rfl rfl rfl (by simp [D.sss]) (legal_of_wf h) rfl (part_of_wf h)
theorem stx32 (a : XS) (b : XS) (c : XS) : Statement (.stx32 a b c) := by
  intro f hf h; cases hf
  exact decodeFields_ok rfl rfl rfl (by simp [D.sss]) (legal_of_wf h) rfl (part_of_wf h)
theorem stx64 (a : XS) (b : XS) (c : XS) : Statement (.stx64 a b c) := by
  intro f hf h; cases hf
  exact decodeFields_ok rfl rfl rfl (by simp [D.sss]) (legal_of_wf h) rfl (part_of_wf h)
theorem amoAdd (o : Ord) (sc : Scope) (w : Bool) (d : XR) (b : XS) (c : XS) : Statement (.amoAdd o sc w d b c) := by
  intro f hf h; cases hf
  exact decodeFields_ok rfl rfl rfl (by simp [D.amo]) (legal_of_wf h) rfl (part_of_wf h)
theorem amoAnd (o : Ord) (sc : Scope) (w : Bool) (d : XR) (b : XS) (c : XS) : Statement (.amoAnd o sc w d b c) := by
  intro f hf h; cases hf
  exact decodeFields_ok rfl rfl rfl (by simp [D.amo]) (legal_of_wf h) rfl (part_of_wf h)
theorem amoOr (o : Ord) (sc : Scope) (w : Bool) (d : XR) (b : XS) (c : XS) : Statement (.amoOr o sc w d b c) := by
  intro f hf h; cases hf
  exact decodeFields_ok rfl rfl rfl (by simp [D.amo]) (legal_of_wf h) rfl (part_of_wf h)
theorem amoXor (o : Ord) (sc : Scope) (w : Bool) (d : XR) (b : XS) (c : XS) : Statement (.amoXor o sc w d b c) := by
  intro f hf h; cases hf
  exact decodeFields_ok rfl rfl rfl (by simp [D.amo]) (legal_of_wf h) rfl (part_of_wf h)
theorem amoMin (o : Ord) (sc : Scope) (w : Bool) (d : XR) (b : XS) (c : XS) : Statement (.amoMin o sc w d b c) := by
  intro f hf h; cases hf
  exact decodeFields_ok rfl rfl rfl (by simp [D.amo]) (legal_of_wf h) rfl (part_of_wf h)
theorem amoMax (o : Ord) (sc : Scope) (w : Bool) (d : XR) (b : XS) (c : XS) : Statement (.amoMax o sc w d b c) := by
  intro f hf h; cases hf
  exact decodeFields_ok rfl rfl rfl (by simp [D.amo]) (legal_of_wf h) rfl (part_of_wf h)
theorem amoMinn (o : Ord) (sc : Scope) (w : Bool) (d : XR) (b : XS) (c : XS) : Statement (.amoMinn o sc w d b c) := by
  intro f hf h; cases hf
  exact decodeFields_ok rfl rfl rfl (by simp [D.amo]) (legal_of_wf h) rfl (part_of_wf h)
theorem amoMaxn (o : Ord) (sc : Scope) (w : Bool) (d : XR) (b : XS) (c : XS) : Statement (.amoMaxn o sc w d b c) := by
  intro f hf h; cases hf
  exact decodeFields_ok rfl rfl rfl (by simp [D.amo]) (legal_of_wf h) rfl (part_of_wf h)
theorem amoSwap (o : Ord) (sc : Scope) (w : Bool) (d : XR) (b : XS) (c : XS) : Statement (.amoSwap o sc w d b c) := by
  intro f hf h; cases hf
  exact decodeFields_ok rfl rfl rfl (by simp [D.amo]) (legal_of_wf h) rfl (part_of_wf h)
theorem amoCas (o : Ord) (sc : Scope) (w : Bool) (d : XR) (b : XS) (c : XS) (e : XS) :
    Statement (.amoCas o sc w d b c e) := by
  intro f hf h; cases hf
  exact decodeFields_ok rfl rfl rfl (by simp [D.cas]) (legal_of_wf h) rfl (part_of_wf h)
theorem redAdd (o : Ord) (sc : Scope) (w : Bool) (a : XS) (b : XS) : Statement (.redAdd o sc w a b) := by
  intro f hf h; cases hf
  exact decodeFields_ok rfl rfl rfl (by simp [D.red]) (legal_of_wf h) rfl (part_of_wf h)
theorem redAnd (o : Ord) (sc : Scope) (w : Bool) (a : XS) (b : XS) : Statement (.redAnd o sc w a b) := by
  intro f hf h; cases hf
  exact decodeFields_ok rfl rfl rfl (by simp [D.red]) (legal_of_wf h) rfl (part_of_wf h)
theorem redOr (o : Ord) (sc : Scope) (w : Bool) (a : XS) (b : XS) : Statement (.redOr o sc w a b) := by
  intro f hf h; cases hf
  exact decodeFields_ok rfl rfl rfl (by simp [D.red]) (legal_of_wf h) rfl (part_of_wf h)
theorem redXor (o : Ord) (sc : Scope) (w : Bool) (a : XS) (b : XS) : Statement (.redXor o sc w a b) := by
  intro f hf h; cases hf
  exact decodeFields_ok rfl rfl rfl (by simp [D.red]) (legal_of_wf h) rfl (part_of_wf h)
theorem redMin (o : Ord) (sc : Scope) (w : Bool) (a : XS) (b : XS) : Statement (.redMin o sc w a b) := by
  intro f hf h; cases hf
  exact decodeFields_ok rfl rfl rfl (by simp [D.red]) (legal_of_wf h) rfl (part_of_wf h)
theorem redMax (o : Ord) (sc : Scope) (w : Bool) (a : XS) (b : XS) : Statement (.redMax o sc w a b) := by
  intro f hf h; cases hf
  exact decodeFields_ok rfl rfl rfl (by simp [D.red]) (legal_of_wf h) rfl (part_of_wf h)
theorem redMinn (o : Ord) (sc : Scope) (w : Bool) (a : XS) (b : XS) : Statement (.redMinn o sc w a b) := by
  intro f hf h; cases hf
  exact decodeFields_ok rfl rfl rfl (by simp [D.red]) (legal_of_wf h) rfl (part_of_wf h)
theorem redMaxn (o : Ord) (sc : Scope) (w : Bool) (a : XS) (b : XS) : Statement (.redMaxn o sc w a b) := by
  intro f hf h; cases hf
  exact decodeFields_ok rfl rfl rfl (by simp [D.red]) (legal_of_wf h) rfl (part_of_wf h)
theorem cadd (t : ElemT) (a : XS) (b : XS) : Statement (.cadd t a b) := by
  intro f hf h; cases hf
  exact decodeFields_ok rfl rfl rfl (by simp [D.cadd]) (legal_of_wf h) rfl (part_of_wf h)
theorem caddv (t : ElemT) (a : VR) (b : XS) (c : XS) (m : KR) : Statement (.caddv t a b c m) := by
  intro f hf h; cases hf
  exact decodeFields_ok rfl rfl rfl (by simp [D.caddv]) (legal_of_wf h) rfl (part_of_wf h)
theorem cld (t : ElemT) (d : XR) (b : XS) : Statement (.cld t d b) := by
  intro f hf h; cases hf
  exact decodeFields_ok rfl rfl rfl (by simp [D.cld]) (legal_of_wf h) rfl (part_of_wf h)
theorem cclr (b : XS) : Statement (.cclr b) := by
  intro f hf h; cases hf
  exact decodeFields_ok rfl rfl rfl (by simp [D.cclr]) (legal_of_wf h) rfl (part_of_wf h)
theorem cstat (d : XR) (b : XS) : Statement (.cstat d b) := by
  intro f hf h; cases hf
  exact decodeFields_ok rfl rfl rfl (by simp [D.cstat]) (legal_of_wf h) rfl (part_of_wf h)
theorem cldx (d : VR) (b : XS) : Statement (.cldx d b) := by
  intro f hf h; cases hf
  exact decodeFields_ok rfl rfl rfl (by simp [D.cldx]) (legal_of_wf h) rfl (part_of_wf h)
theorem fenceAcq (sc : Scope) : Statement (.fenceAcq sc) := by
  intro f hf h; cases hf
  exact decodeFields_ok rfl rfl rfl (by simp [D.fnc]) (legal_of_wf h) rfl (part_of_wf h)
theorem fenceRel (sc : Scope) : Statement (.fenceRel sc) := by
  intro f hf h; cases hf
  exact decodeFields_ok rfl rfl rfl (by simp [D.fnc]) (legal_of_wf h) rfl (part_of_wf h)
theorem fenceAr (sc : Scope) : Statement (.fenceAr sc) := by
  intro f hf h; cases hf
  exact decodeFields_ok rfl rfl rfl (by simp [D.fnc]) (legal_of_wf h) rfl (part_of_wf h)
theorem fenceSc (sc : Scope) : Statement (.fenceSc sc) := by
  intro f hf h; cases hf
  exact decodeFields_ok rfl rfl rfl (by simp [D.fnc]) (legal_of_wf h) rfl (part_of_wf h)
theorem fflag (sc : Scope) (a : XS) (b : XS) : Statement (.fflag sc a b) := by
  intro f hf h; cases hf
  exact decodeFields_ok rfl rfl rfl (by simp [D.ffl]) (legal_of_wf h) rfl (part_of_wf h)
theorem arv (ch : Fin 16) (d : XR) : Statement (.arv ch d) := by
  intro f hf h; cases hf
  exact decodeFields_ok rfl rfl rfl (by simp [D.chX, -BitVec.toFin_extractLsb']) (legal_of_wf h) rfl (part_of_wf h)
theorem arvRlx (ch : Fin 16) (d : XR) : Statement (.arvRlx ch d) := by
  intro f hf h; cases hf
  exact decodeFields_ok rfl rfl rfl (by simp [D.chX, -BitVec.toFin_extractLsb']) (legal_of_wf h) rfl (part_of_wf h)
theorem arvd (ch : Fin 16) (d : XR) : Statement (.arvd ch d) := by
  intro f hf h; cases hf
  exact decodeFields_ok rfl rfl rfl (by simp [D.chX, -BitVec.toFin_extractLsb']) (legal_of_wf h) rfl (part_of_wf h)
theorem bwt (ch : Fin 16) (a : XS) : Statement (.bwt ch a) := by
  intro f hf h; cases hf
  exact decodeFields_ok rfl rfl rfl (by simp [D.chS, -BitVec.toFin_extractLsb']) (legal_of_wf h) rfl (part_of_wf h)
theorem btest (ch : Fin 16) (d : XR) : Statement (.btest ch d) := by
  intro f hf h; cases hf
  exact decodeFields_ok rfl rfl rfl (by simp [D.chX, -BitVec.toFin_extractLsb']) (legal_of_wf h) rfl (part_of_wf h)
theorem waitv (ne : Bool) (sc : Scope) (w : Bool) (d : XR) (b : XS) (c : XS) (e : XS) :
    Statement (.waitv ne sc w d b c e) := by
  intro f hf h; cases hf
  exact decodeFields_ok rfl rfl rfl (by simp [D.wtv]) (legal_of_wf h) rfl (part_of_wf h)
theorem ntf1 (sc : Scope) (d : XR) (b : XS) : Statement (.ntf1 sc d b) := by
  intro f hf h; cases hf
  exact decodeFields_ok rfl rfl rfl (by simp [D.ntf]) (legal_of_wf h) rfl (part_of_wf h)
theorem ntfa (sc : Scope) (d : XR) (b : XS) : Statement (.ntfa sc d b) := by
  intro f hf h; cases hf
  exact decodeFields_ok rfl rfl rfl (by simp [D.ntf]) (legal_of_wf h) rfl (part_of_wf h)
theorem send (sc : Scope) (q : Fin 4) (d : XR) (b : XS) (c : VR) : Statement (.send sc q d b c) := by
  intro f hf h; cases hf
  exact decodeFields_ok rfl rfl rfl (by simp [D.snd, -BitVec.toFin_extractLsb']) (legal_of_wf h) rfl (part_of_wf h)
theorem recv (sc : Scope) (q : Option (Fin 4)) (d : VR) (xm : XR) : Statement (.recv sc q d xm) := by
  intro f hf h; cases hf
  cases q <;> exact decodeFields_ok rfl rfl rfl (by simp [D.rcv, -BitVec.toFin_extractLsb']) (legal_of_wf h) rfl (part_of_wf h)
theorem recvt (sc : Scope) (q : Option (Fin 4)) (d : VR) (xm : XR) : Statement (.recvt sc q d xm) := by
  intro f hf h; cases hf
  cases q <;> exact decodeFields_ok rfl rfl rfl (by simp [D.rcv, -BitVec.toFin_extractLsb']) (legal_of_wf h) rfl (part_of_wf h)
theorem spawn (d : XR) (b : XS) (c : XS) : Statement (.spawn d b c) := by
  intro f hf h; cases hf
  exact decodeFields_ok rfl rfl rfl (by simp [D.xxx]) (legal_of_wf h) rfl (part_of_wf h)
theorem sync (d : XR) (b : XS) : Statement (.sync d b) := by
  intro f hf h; cases hf
  exact decodeFields_ok rfl rfl rfl (by simp [D.xx]) (legal_of_wf h) rfl (part_of_wf h)
theorem take (d : XR) : Statement (.take d) := by
  intro f hf h; cases hf
  exact decodeFields_ok rfl rfl rfl (by simp [D.x1]) (legal_of_wf h) rfl (part_of_wf h)
theorem steal (d : XR) (b : XS) : Statement (.steal d b) := by
  intro f hf h; cases hf
  exact decodeFields_ok rfl rfl rfl (by simp [D.xx]) (legal_of_wf h) rfl (part_of_wf h)
theorem tdone (d : XR) : Statement (.tdone d) := by
  intro f hf h; cases hf
  exact decodeFields_ok rfl rfl rfl (by simp [D.x1]) (legal_of_wf h) rfl (part_of_wf h)
theorem slice (d : XR) (b : XS) (c : XS) : Statement (.slice d b c) := by
  intro f hf h; cases hf
  exact decodeFields_ok rfl rfl rfl (by simp [D.xxx]) (legal_of_wf h) rfl (part_of_wf h)
theorem joina (d : XR) (b : XS) (c : XS) : Statement (.joina d b c) := by
  intro f hf h; cases hf
  exact decodeFields_ok rfl rfl rfl (by simp [D.xxx]) (legal_of_wf h) rfl (part_of_wf h)
theorem dqlen (d : XR) : Statement (.dqlen d) := by
  intro f hf h; cases hf
  exact decodeFields_ok rfl rfl rfl (by simp [D.x1]) (legal_of_wf h) rfl (part_of_wf h)
theorem cpy (sc : Scope) (d : XR) (b : XS) (c : XS) (e : XS) : Statement (.cpy sc d b c e) := by
  intro f hf h; cases hf
  exact decodeFields_ok rfl rfl rfl (by simp [D.eng]) (legal_of_wf h) rfl (part_of_wf h)
theorem cpyt (sc : Scope) (d : XR) (b : XS) (c : XS) (e : XS) : Statement (.cpyt sc d b c e) := by
  intro f hf h; cases hf
  exact decodeFields_ok rfl rfl rfl (by simp [D.eng]) (legal_of_wf h) rfl (part_of_wf h)
theorem gath (sc : Scope) (d : XR) (b : XS) (c : XS) (e : XS) : Statement (.gath sc d b c e) := by
  intro f hf h; cases hf
  exact decodeFields_ok rfl rfl rfl (by simp [D.eng]) (legal_of_wf h) rfl (part_of_wf h)
theorem scat (sc : Scope) (d : XR) (b : XS) (c : XS) (e : XS) : Statement (.scat sc d b c e) := by
  intro f hf h; cases hf
  exact decodeFields_ok rfl rfl rfl (by simp [D.eng]) (legal_of_wf h) rfl (part_of_wf h)
theorem mcst (list : Bool) (sc : Scope) (d : XR) (b : XS) (c : XS) (e : XS) : Statement (.mcst list sc d b c e) := by
  intro f hf h; cases hf
  exact decodeFields_ok rfl rfl rfl (by simp [D.mcs]) (legal_of_wf h) rfl (part_of_wf h)
theorem rdct (op : RedOp) (sc : Scope) (d : XR) (b : XS) (c : XS) (e : XS) : Statement (.rdct op sc d b c e) := by
  intro f hf h; cases hf
  exact decodeFields_ok rfl rfl rfl (by simp [D.rdc]) (legal_of_wf h) rfl (part_of_wf h)
theorem hdsub (sc : Scope) (d : XR) (b : XS) (c : XS) (e : XS) : Statement (.hdsub sc d b c e) := by
  intro f hf h; cases hf
  exact decodeFields_ok rfl rfl rfl (by simp [D.eng]) (legal_of_wf h) rfl (part_of_wf h)
theorem hdend (d : XR) (b : XS) : Statement (.hdend d b) := by
  intro f hf h; cases hf
  exact decodeFields_ok rfl rfl rfl (by simp [D.xx2]) (legal_of_wf h) rfl (part_of_wf h)
theorem tlret (sc : Scope) (d : XR) (b : XS) (c : XS) : Statement (.tlret sc d b c) := by
  intro f hf h; cases hf
  exact decodeFields_ok rfl rfl rfl (by simp [D.tlr]) (legal_of_wf h) rfl (part_of_wf h)
theorem await (d : XR) (b : XS) : Statement (.await d b) := by
  intro f hf h; cases hf
  exact decodeFields_ok rfl rfl rfl (by simp [D.xx2]) (legal_of_wf h) rfl (part_of_wf h)
theorem phld (d : XR) (b : XS) : Statement (.phld d b) := by
  intro f hf h; cases hf
  exact decodeFields_ok rfl rfl rfl (by simp [D.xx2]) (legal_of_wf h) rfl (part_of_wf h)
theorem phsw (d : XR) : Statement (.phsw d) := by
  intro f hf h; cases hf
  exact decodeFields_ok rfl rfl rfl (by simp [D.x2]) (legal_of_wf h) rfl (part_of_wf h)
theorem phwr (bf : Bool) (d : XR) (b : XS) (c : XS) : Statement (.phwr bf d b c) := by
  intro f hf h; cases hf
  exact decodeFields_ok rfl rfl rfl (by simp [D.phw]) (legal_of_wf h) rfl (part_of_wf h)
theorem omx (pol : Pol) (ofm : Ofm) (d : XR) (b : XS) (c : XS) (e : XS) : Statement (.omx pol ofm d b c e) := by
  intro f hf h; cases hf
  exact decodeFields_ok rfl rfl rfl (by simp [D.omx]) (legal_of_wf h) rfl (part_of_wf h)
theorem omxa (pol : Pol) (ofm : Ofm) (d : XR) (b : XS) (c : XS) (e : XS) : Statement (.omxa pol ofm d b c e) := by
  intro f hf h; cases hf
  exact decodeFields_ok rfl rfl rfl (by simp [D.omx]) (legal_of_wf h) rfl (part_of_wf h)
theorem omxw (pol : Pol) (ofm : Ofm) (d : XR) (b : XS) (c : XS) (e : XS) : Statement (.omxw pol ofm d b c e) := by
  intro f hf h; cases hf
  exact decodeFields_ok rfl rfl rfl (by simp [D.omx]) (legal_of_wf h) rfl (part_of_wf h)
theorem prbe (d : XR) : Statement (.prbe d) := by
  intro f hf h; cases hf
  exact decodeFields_ok rfl rfl rfl (by simp [D.x2]) (legal_of_wf h) rfl (part_of_wf h)
theorem phcrc (shadow : Bool) (d : XR) : Statement (.phcrc shadow d) := by
  intro f hf h; cases hf
  exact decodeFields_ok rfl rfl rfl (by simp [D.crc]) (legal_of_wf h) rfl (part_of_wf h)
theorem launch (d : XR) (b : XS) : Statement (.launch d b) := by
  intro f hf h; cases hf
  exact decodeFields_ok rfl rfl rfl (by simp [D.xx]) (legal_of_wf h) rfl (part_of_wf h)
theorem start (n : Fin 16) (d : XR) (b : XS) : Statement (.start n d b) := by
  intro f hf h; cases hf
  exact decodeFields_ok rfl rfl rfl (by simp [D.nxx, -BitVec.toFin_extractLsb']) (legal_of_wf h) rfl (part_of_wf h)
theorem reap (n : Fin 16) (d : XR) : Statement (.reap n d) := by
  intro f hf h; cases hf
  exact decodeFields_ok rfl rfl rfl (by simp [D.nx, -BitVec.toFin_extractLsb']) (legal_of_wf h) rfl (part_of_wf h)
theorem migr (d : XR) (b : XS) : Statement (.migr d b) := by
  intro f hf h; cases hf
  exact decodeFields_ok rfl rfl rfl (by simp [D.xx]) (legal_of_wf h) rfl (part_of_wf h)
theorem trap (n : BitVec 6) : Statement (.trap n) := by
  intro f hf h; cases hf
  exact decodeFields_ok rfl rfl rfl (by simp [D.trp]) (legal_of_wf h) rfl (part_of_wf h)
theorem eret : Statement (.eret) := by
  intro f hf h; cases hf
  exact decodeFields_ok rfl rfl rfl (by simp [D.const]) (legal_of_wf h) rfl (part_of_wf h)
theorem ctxsv (n : Fin 16) (d : XR) (b : XS) : Statement (.ctxsv n d b) := by
  intro f hf h; cases hf
  exact decodeFields_ok rfl rfl rfl (by simp [D.nxx, -BitVec.toFin_extractLsb']) (legal_of_wf h) rfl (part_of_wf h)
theorem ctxld (n : Fin 16) (d : XR) (b : XS) : Statement (.ctxld n d b) := by
  intro f hf h; cases hf
  exact decodeFields_ok rfl rfl rfl (by simp [D.nxx, -BitVec.toFin_extractLsb']) (legal_of_wf h) rfl (part_of_wf h)
theorem prmt (d : XR) (b : XS) : Statement (.prmt d b) := by
  intro f hf h; cases hf
  exact decodeFields_ok rfl rfl rfl (by simp [D.xx]) (legal_of_wf h) rfl (part_of_wf h)
theorem rsme (d : XR) (b : XS) : Statement (.rsme d b) := by
  intro f hf h; cases hf
  exact decodeFields_ok rfl rfl rfl (by simp [D.xx]) (legal_of_wf h) rfl (part_of_wf h)
theorem errinj (d : XR) (b : XS) : Statement (.errinj d b) := by
  intro f hf h; cases hf
  exact decodeFields_ok rfl rfl rfl (by simp [D.xx]) (legal_of_wf h) rfl (part_of_wf h)
theorem mfs (d : XR) (num : BitVec 12) : Statement (.mfs d num) := by
  intro f hf h; cases hf
  exact decodeFields_ok rfl rfl rfl (by simp [D.mfs]) (legal_of_wf h) rfl (part_of_wf h)
theorem mts (a : XS) (num : BitVec 12) : Statement (.mts a num) := by
  intro f hf h; cases hf
  have own : ownMtsRow num = false := by simpa [Instr.legal] using legal_of_wf h
  refine decodeFields_ok rfl rfl rfl ?_ (legal_of_wf h) rfl (part_of_wf h)
  simp only [ownMtsRow, List.contains_eq_mem, decide_eq_false_iff_not, List.mem_cons, not_or] at own
  simp only [D.mts, fldI_a, fldI_p2, xs?_code, num_low, Option.bind_eq_bind, Option.bind_some]
  split <;> simp_all
theorem mtsFctx (a : XS) : Statement (.mtsFctx a) := by
  intro f hf h; cases hf
  exact decodeFields_ok rfl rfl rfl (by simp [D.mts]) (legal_of_wf h) rfl (part_of_wf h)
theorem mtsEbcmin (a : XS) : Statement (.mtsEbcmin a) := by
  intro f hf h; cases hf
  exact decodeFields_ok rfl rfl rfl (by simp [D.mts]) (legal_of_wf h) rfl (part_of_wf h)
theorem mtsScptr (a : XS) : Statement (.mtsScptr a) := by
  intro f hf h; cases hf
  exact decodeFields_ok rfl rfl rfl (by simp [D.mts]) (legal_of_wf h) rfl (part_of_wf h)
theorem mtsFstat (a : XS) : Statement (.mtsFstat a) := by
  intro f hf h; cases hf
  exact decodeFields_ok rfl rfl rfl (by simp [D.mts]) (legal_of_wf h) rfl (part_of_wf h)
theorem mtsPriv (a : XS) : Statement (.mtsPriv a) := by
  intro f hf h; cases hf
  exact decodeFields_ok rfl rfl rfl (by simp [D.mts]) (legal_of_wf h) rfl (part_of_wf h)
theorem mtsEpc (a : XS) : Statement (.mtsEpc a) := by
  intro f hf h; cases hf
  exact decodeFields_ok rfl rfl rfl (by simp [D.mts]) (legal_of_wf h) rfl (part_of_wf h)
theorem mtsTvec (a : XS) : Statement (.mtsTvec a) := by
  intro f hf h; cases hf
  exact decodeFields_ok rfl rfl rfl (by simp [D.mts]) (legal_of_wf h) rfl (part_of_wf h)
theorem mtsAsid (a : XS) : Statement (.mtsAsid a) := by
  intro f hf h; cases hf
  exact decodeFields_ok rfl rfl rfl (by simp [D.mts]) (legal_of_wf h) rfl (part_of_wf h)
theorem mtsDqbase (a : XS) : Statement (.mtsDqbase a) := by
  intro f hf h; cases hf
  exact decodeFields_ok rfl rfl rfl (by simp [D.mts]) (legal_of_wf h) rfl (part_of_wf h)
theorem mtsDqtop (a : XS) : Statement (.mtsDqtop a) := by
  intro f hf h; cases hf
  exact decodeFields_ok rfl rfl rfl (by simp [D.mts]) (legal_of_wf h) rfl (part_of_wf h)
theorem mtsDqbot (a : XS) : Statement (.mtsDqbot a) := by
  intro f hf h; cases hf
  exact decodeFields_ok rfl rfl rfl (by simp [D.mts]) (legal_of_wf h) rfl (part_of_wf h)
theorem mtsDqspill (a : XS) : Statement (.mtsDqspill a) := by
  intro f hf h; cases hf
  exact decodeFields_ok rfl rfl rfl (by simp [D.mts]) (legal_of_wf h) rfl (part_of_wf h)
theorem mtsSgmask (n : Fin 4) (a : XS) : Statement (.mtsSgmask n a) := by
  intro f hf h; cases hf
  exact decodeFields_ok rfl rfl rfl (by fin_cases n <;> simp [D.mts]) (legal_of_wf h) rfl (part_of_wf h)

end Sys2Proof.Laws.Encoded
end

