-- ==== Sys2Proof/Tests/Slice0.lean ====
section
/-! SUPPORT. Tests: the decoding of words written out from the tables of the manual, ill-formed instructions, states that meet the
hypotheses of the obligations, and single steps on small states. -/
open Sys2Proof Sys2Proof.Machine
namespace Sys2Proof.Tests
noncomputable section
set_option Elab.async false

/-! ## Decoding: a word of every head, from the rows of R100 and its encoding rules -/

theorem test_decode_00 :
    decode [0x0000] = .ok .nop := by decide
theorem test_decode_01 :
    decode [0x4040, 0x0000] = .ok .halt ∧
    decode [0x4040, 0x0001] = .ok .yield ∧
    decode [0x4040, 0x0002] = .ok .brk := by decide
theorem test_decode_02 :
    decode [0xC080, 0x0000, 0xBEEF, 0xDEAD] = .ok (.j 0xDEADBEEF) := by decide
theorem test_decode_03 :
    decode [0xC0C5, 0x0000, 0xBEEF, 0xDEAD] = .ok (.jal 5 0xDEADBEEF) := by decide
theorem test_decode_04 :
    decode [0x4105, 0xE400] = .ok (.jalr 5 .pc) := by decide
theorem test_decode_05 :
    decode [0x8146, 0xE400, 0xBEEF] = .ok (.beq (.x 6) .pc 0xBEEF) ∧
    decode [0x8146, 0xE401, 0xBEEF] = .ok (.bne (.x 6) .pc 0xBEEF) ∧
    decode [0x8146, 0xE402, 0xBEEF] = .ok (.blt (.x 6) .pc 0xBEEF) ∧
    decode [0x8146, 0xE403, 0xBEEF] = .ok (.bge (.x 6) .pc 0xBEEF) ∧
    decode [0x8146, 0xE404, 0xBEEF] = .ok (.bltn (.x 6) .pc 0xBEEF) ∧
    decode [0x8146, 0xE405, 0xBEEF] = .ok (.bgen (.x 6) .pc 0xBEEF) := by decide
theorem test_decode_06 :
    decode [0x81B5, 0xD800, 0xBEEF] = .ok (.bkany 5 6 0xBEEF) ∧
    decode [0x81B5, 0xD801, 0xBEEF] = .ok (.bkall 5 6 0xBEEF) ∧
    decode [0x81B5, 0xD802, 0xBEEF] = .ok (.bknone 5 6 0xBEEF) := by decide
theorem test_decode_07 :
    decode [0x81C5, 0x0000, 0xBEEF] = .ok (.dbnz 5 0xBEEF) := by decide
theorem test_decode_10 :
    decode [0x4405, 0xE490] = .ok (.add 5 .pc (.x 9)) ∧
    decode [0x4405, 0xE491] = .ok (.sub 5 .pc (.x 9)) ∧
    decode [0x4405, 0xE492] = .ok (.and 5 .pc (.x 9)) ∧
    decode [0x4405, 0xE493] = .ok (.or 5 .pc (.x 9)) ∧
    decode [0x4405, 0xE494] = .ok (.xor 5 .pc (.x 9)) ∧
    decode [0x4405, 0xE495] = .ok (.andn 5 .pc (.x 9)) ∧
    decode [0x4405, 0xE496] = .ok (.sll 5 .pc (.x 9)) ∧
    decode [0x4405, 0xE497] = .ok (.srl 5 .pc (.x 9)) ∧
    decode [0x4405, 0xE498] = .ok (.sra 5 .pc (.x 9)) ∧
    decode [0x4405, 0xE499] = .ok (.ror 5 .pc (.x 9)) ∧
    decode [0x4405, 0xE49A] = .ok (.slt 5 .pc (.x 9)) ∧
    decode [0x4405, 0xE49B] = .ok (.sltn 5 .pc (.x 9)) ∧
    decode [0x4405, 0xE49C] = .ok (.min 5 .pc (.x 9)) ∧
    decode [0x4405, 0xE49D] = .ok (.max 5 .pc (.x 9)) ∧
    decode [0x4405, 0xE49E] = .ok (.minn 5 .pc (.x 9)) ∧
    decode [0x4405, 0xE49F] = .ok (.maxn 5 .pc (.x 9)) := by decide
theorem test_decode_11 :
    decode [0x8445, 0xE400, 0xBEEF] = .ok (.addi 5 .pc 0xBEEF) ∧
    decode [0x8445, 0xE401, 0xBEEF] = .ok (.andi 5 .pc 0xBEEF) ∧
    decode [0x8445, 0xE402, 0xBEEF] = .ok (.ori 5 .pc 0xBEEF) ∧
    decode [0x8445, 0xE403, 0xBEEF] = .ok (.xori 5 .pc 0xBEEF) ∧
    decode [0x8445, 0xE404, 0x002A] = .ok (.slli 5 .pc 0x2A) ∧
    decode [0x8445, 0xE405, 0x002A] = .ok (.srli 5 .pc 0x2A) ∧
    decode [0x8445, 0xE406, 0x002A] = .ok (.srai 5 .pc 0x2A) ∧
    decode [0x8445, 0xE407, 0xBEEF] = .ok (.slti 5 .pc 0xBEEF) ∧
    decode [0x8445, 0xE408, 0xBEEF] = .ok (.sltni 5 .pc 0xBEEF) := by decide
theorem test_decode_12 :
    decode [0xC485, 0x0000, 0xBEEF, 0xDEAD] = .ok (.li 5 0xDEADBEEF) ∧
    decode [0xC485, 0x0001, 0xBEEF, 0xDEAD] = .ok (.lih 5 0xDEADBEEF) := by decide
theorem test_decode_13 :
    decode [0x44C5, 0xE490] = .ok (.mul 5 .pc (.x 9)) ∧
    decode [0x44C5, 0xE491] = .ok (.mulh 5 .pc (.x 9)) ∧
    decode [0x44C5, 0xE492] = .ok (.mulhn 5 .pc (.x 9)) ∧
    decode [0x44C5, 0xE493] = .ok (.div 5 .pc (.x 9)) ∧
    decode [0x44C5, 0xE494] = .ok (.divn 5 .pc (.x 9)) ∧
    decode [0x44C5, 0xE495] = .ok (.rem 5 .pc (.x 9)) ∧
    decode [0x44C5, 0xE496] = .ok (.remn 5 .pc (.x 9)) := by decide
theorem test_decode_14 :
    decode [0x4505, 0xE400] = .ok (.clz 5 .pc) ∧
    decode [0x4505, 0xE401] = .ok (.ctz 5 .pc) ∧
    decode [0x4505, 0xE402] = .ok (.popc 5 .pc) ∧
    decode [0x4505, 0xE403] = .ok (.brev 5 .pc) := by decide
theorem test_decode_15 :
    decode [0xC545, 0x0000, 0xBEEF, 0xDEAD] = .ok (.addpc 5 0xDEADBEEF) := by decide
theorem test_decode_20 :
    decode [0x4805, 0xE490] = .ok (.faddF32 5 .pc (.x 9)) ∧
    decode [0x4805, 0xE491] = .ok (.fsubF32 5 .pc (.x 9)) ∧
    decode [0x4805, 0xE492] = .ok (.fmulF32 5 .pc (.x 9)) ∧
    decode [0x4805, 0xE493] = .ok (.fdivF32 5 .pc (.x 9)) ∧
    decode [0x4805, 0xE404] = .ok (.fsqrtF32 5 .pc) ∧
    decode [0x4805, 0xE495] = .ok (.fminF32 5 .pc (.x 9)) ∧
    decode [0x4805, 0xE496] = .ok (.fmaxF32 5 .pc (.x 9)) ∧
    decode [0x4805, 0xE497] = .ok (.ffmaF32 5 .pc (.x 9)) ∧
    decode [0x4805, 0xE498] = .ok (.feqF32 5 .pc (.x 9)) ∧
    decode [0x4805, 0xE499] = .ok (.fltF32 5 .pc (.x 9)) ∧
    decode [0x4805, 0xE49A] = .ok (.fleF32 5 .pc (.x 9)) := by decide
theorem test_decode_21 :
    decode [0x4845, 0xE490] = .ok (.faddF64 5 .pc (.x 9)) ∧
    decode [0x4845, 0xE491] = .ok (.fsubF64 5 .pc (.x 9)) ∧
    decode [0x4845, 0xE492] = .ok (.fmulF64 5 .pc (.x 9)) ∧
    decode [0x4845, 0xE493] = .ok (.fdivF64 5 .pc (.x 9)) ∧
    decode [0x4845, 0xE404] = .ok (.fsqrtF64 5 .pc) ∧
    decode [0x4845, 0xE495] = .ok (.fminF64 5 .pc (.x 9)) ∧
    decode [0x4845, 0xE496] = .ok (.fmaxF64 5 .pc (.x 9)) ∧
    decode [0x4845, 0xE497] = .ok (.ffmaF64 5 .pc (.x 9)) ∧
    decode [0x4845, 0xE498] = .ok (.feqF64 5 .pc (.x 9)) ∧
    decode [0x4845, 0xE499] = .ok (.fltF64 5 .pc (.x 9)) ∧
    decode [0x4845, 0xE49A] = .ok (.fleF64 5 .pc (.x 9)) := by decide
theorem test_decode_28 :
    decode [0x8A24, 0xA230, 0x0181] = .ok (.vadd .s16 (.v 4) (.v 8) (.v 3) 3) ∧
    decode [0x8A24, 0xA231, 0x0181] = .ok (.vsub .s16 (.v 4) (.v 8) (.v 3) 3) ∧
    decode [0x8A24, 0xA232, 0x0181] = .ok (.vmul .s16 (.v 4) (.v 8) (.v 3) 3) ∧
    decode [0x8A24, 0xA233, 0x0181] = .ok (.vmulh .s16 (.v 4) (.v 8) (.v 3) 3) ∧
    decode [0x8A24, 0xA234, 0x0181] = .ok (.vand .s16 (.v 4) (.v 8) (.v 3) 3) ∧
    decode [0x8A24, 0xA235, 0x0181] = .ok (.vor .s16 (.v 4) (.v 8) (.v 3) 3) ∧
    decode [0x8A24, 0xA236, 0x0181] = .ok (.vxor .s16 (.v 4) (.v 8) (.v 3) 3) ∧
    decode [0x8A24, 0xA237, 0x0181] = .ok (.vandn .s16 (.v 4) (.v 8) (.v 3) 3) ∧
    decode [0x8A24, 0xA238, 0x0181] = .ok (.vsll .s16 (.v 4) (.v 8) (.v 3) 3) ∧
    decode [0x8A24, 0xA239, 0x0181] = .ok (.vsrl .s16 (.v 4) (.v 8) (.v 3) 3) ∧
    decode [0x8A24, 0xA23A, 0x0181] = .ok (.vsra .s16 (.v 4) (.v 8) (.v 3) 3) ∧
    decode [0x8A24, 0xA23B, 0x0181] = .ok (.vmin .s16 (.v 4) (.v 8) (.v 3) 3) ∧
    decode [0x8A24, 0xA23C, 0x0181] = .ok (.vmax .s16 (.v 4) (.v 8) (.v 3) 3) ∧
    decode [0x8A24, 0xA23D, 0x0181] = .ok (.vadds .s16 (.v 4) (.v 8) (.v 3) 3) ∧
    decode [0x8A24, 0xA23E, 0x0181] = .ok (.vsubs .s16 (.v 4) (.v 8) (.v 3) 3) ∧
    decode [0x8A24, 0xA00F, 0x0181] = .ok (.vabs .s16 (.v 4) (.v 8) 3) := by decide
theorem test_decode_29 :
    decode [0x8A75, 0xA230, 0x0181] = .ok (.vcmpeq .s16 5 (.v 8) (.v 3) 3) ∧
    decode [0x8A75, 0xA231, 0x0181] = .ok (.vcmplt .s16 5 (.v 8) (.v 3) 3) ∧
    decode [0x8A75, 0xA232, 0x0181] = .ok (.vcmple .s16 5 (.v 8) (.v 3) 3) ∧
    decode [0x8A64, 0xA233, 0x0184] = .ok (.vsel .n8 (.v 4) (.v 8) (.v 3) 3) ∧
    decode [0x8A64, 0xE404, 0x0184] = .ok (.vsplat .n8 (.v 4) .pc 3) ∧
    decode [0x8A64, 0xA005, 0x0181] = .ok (.vneg .s16 (.v 4) (.v 8) 3) := by decide
theorem test_decode_2A :
    decode [0x8AA4, 0xA230, 0x018A] = .ok (.vfadd .f32 (.v 4) (.v 8) (.v 3) 3) ∧
    decode [0x8AA4, 0xA231, 0x018A] = .ok (.vfsub .f32 (.v 4) (.v 8) (.v 3) 3) ∧
    decode [0x8AA4, 0xA232, 0x018A] = .ok (.vfmul .f32 (.v 4) (.v 8) (.v 3) 3) ∧
    decode [0x8AA4, 0xA233, 0x018A] = .ok (.vfma .f32 (.v 4) (.v 8) (.v 3) 3) ∧
    decode [0x8AA4, 0xA234, 0x018A] = .ok (.vfms .f32 (.v 4) (.v 8) (.v 3) 3) ∧
    decode [0x8AA4, 0xA235, 0x018A] = .ok (.vfnma .f32 (.v 4) (.v 8) (.v 3) 3) ∧
    decode [0x8AA4, 0xA236, 0x018A] = .ok (.vfmin .f32 (.v 4) (.v 8) (.v 3) 3) ∧
    decode [0x8AA4, 0xA237, 0x018A] = .ok (.vfmax .f32 (.v 4) (.v 8) (.v 3) 3) ∧
    decode [0x8AA4, 0xA238, 0x018A] = .ok (.vfdiv .f32 (.v 4) (.v 8) (.v 3) 3) ∧
    decode [0x8AA4, 0xA009, 0x018A] = .ok (.vfsqrt .f32 (.v 4) (.v 8) 3) ∧
    decode [0x8AA4, 0xA00A, 0x018A] = .ok (.vfabs .f32 (.v 4) (.v 8) 3) ∧
    decode [0x8AA4, 0xA00B, 0x018A] = .ok (.vfneg .f32 (.v 4) (.v 8) 3) ∧
    decode [0x8AB5, 0xA23C, 0x018A] = .ok (.vfcmpeq .f32 5 (.v 8) (.v 3) 3) ∧
    decode [0x8AB5, 0xA23D, 0x018A] = .ok (.vfcmplt .f32 5 (.v 8) (.v 3) 3) ∧
    decode [0x8AB5, 0xA23E, 0x018A] = .ok (.vfcmple .f32 5 (.v 8) (.v 3) 3) := by decide
theorem test_decode_2B :
    decode [0x4AF5, 0xDB70] = .ok (.kand 5 6 7) ∧
    decode [0x4AF5, 0xDB71] = .ok (.kor 5 6 7) ∧
    decode [0x4AF5, 0xDB72] = .ok (.kxor 5 6 7) ∧
    decode [0x4AF5, 0xDB73] = .ok (.kandn 5 6 7) ∧
    decode [0x4AF5, 0xD804] = .ok (.knot 5 6) ∧
    decode [0x4AF5, 0xE405] = .ok (.kmovx 5 .pc) ∧
    decode [0x4AC5, 0xD806] = .ok (.ktox 5 6) ∧
    decode [0x4AC5, 0xD807] = .ok (.kpopc 5 6) ∧
    decode [0x4AC5, 0xD808] = .ok (.kfirst 5 6) := by decide
theorem test_decode_2C :
    decode [0xCB24, 0xA000, 0x0181, 0xBEEF] = .ok (.vaddi .s16 (.v 4) (.v 8) 0xBEEF 3) ∧
    decode [0xCB24, 0xA001, 0x0181, 0xBEEF] = .ok (.vandi .s16 (.v 4) (.v 8) 0xBEEF 3) ∧
    decode [0xCB24, 0xA002, 0x0181, 0xBEEF] = .ok (.vori .s16 (.v 4) (.v 8) 0xBEEF 3) ∧
    decode [0xCB24, 0xA003, 0x0181, 0x002A] = .ok (.vslli .s16 (.v 4) (.v 8) 0x2A 3) ∧
    decode [0xCB24, 0xA004, 0x0181, 0x002A] = .ok (.vsrli .s16 (.v 4) (.v 8) 0x2A 3) ∧
    decode [0xCB24, 0xA005, 0x0181, 0x002A] = .ok (.vsrai .s16 (.v 4) (.v 8) 0x2A 3) ∧
    decode [0xCB24, 0x0006, 0x0181, 0xBEEF] = .ok (.vsplati .s16 (.v 4) 0xBEEF 3) := by decide
theorem test_decode_2D :
    decode [0xCB64, 0x0000, 0xBEEF, 0x0000] = .ok (.vli16 (.v 4) 0xBEEF) ∧
    decode [0xCB64, 0x0001, 0xBEEF, 0xDEAD] = .ok (.vli32 (.v 4) 0xDEADBEEF) ∧
    decode [0xCB64, 0x0002, 0xBEEF, 0xDEAD] = .ok (.vli64 (.v 4) 0xDEADBEEF) := by decide
theorem test_decode_30 :
    decode [0x8C24, 0xA230, 0x0184] = .ok (.vxlr .n8 (.v 4) (.v 8) (.v 3) 3) ∧
    decode [0x8C24, 0xA231, 0xA584] = .ok (.vperm .n8 (.v 4) (.v 8) (.v 3) (.v 9) 3) ∧
    decode [0x8C24, 0xA002, 0x0184] = .ok (.vcompr .n8 (.v 4) (.v 8) 3) ∧
    decode [0x8C24, 0xA003, 0x0184] = .ok (.vexpnd .n8 (.v 4) (.v 8) 3) ∧
    decode [0x8C24, 0xA094, 0x0184] = .ok (.vslup .n8 (.v 4) (.v 8) (.x 9) 3) ∧
    decode [0x8C24, 0xA095, 0x0184] = .ok (.vsldn .n8 (.v 4) (.v 8) (.x 9) 3) ∧
    decode [0x8C24, 0xA236, 0x0184] = .ok (.vzip .n8 (.v 4) (.v 8) (.v 3) 3) ∧
    decode [0x8C24, 0xA237, 0x0184] = .ok (.vunzip .n8 (.v 4) (.v 8) (.v 3) 3) ∧
    decode [0x8C05, 0xA098, 0x0004] = .ok (.vextr .n8 5 (.v 8) (.x 9)) ∧
    decode [0x8C24, 0xE499, 0x0004] = .ok (.vins .n8 (.v 4) .pc (.x 9)) := by decide
theorem test_decode_31 :
    decode [0x8C45, 0xA000, 0x0184] = .ok (.vredAdd .n8 5 (.v 8) 3) ∧
    decode [0x8C45, 0xA001, 0x0184] = .ok (.vredMin .n8 5 (.v 8) 3) ∧
    decode [0x8C45, 0xA002, 0x0184] = .ok (.vredMax .n8 5 (.v 8) 3) ∧
    decode [0x8C45, 0xA003, 0x0181] = .ok (.vredAnd .s16 5 (.v 8) 3) ∧
    decode [0x8C45, 0xA004, 0x0181] = .ok (.vredOr .s16 5 (.v 8) 3) ∧
    decode [0x8C64, 0xA005, 0x0184] = .ok (.vscanAdd .n8 (.v 4) (.v 8) 3) ∧
    decode [0x8C64, 0xA006, 0x0184] = .ok (.vscanMin .n8 (.v 4) (.v 8) 3) ∧
    decode [0x8C64, 0xA007, 0x0184] = .ok (.vscanMax .n8 (.v 4) (.v 8) 3) := by decide
theorem test_decode_38 :
    decode [0xCE24, 0xA010, 0x0184, 0x0001] = .ok (.vcvt .n8 .s16 (.v 4) (.v 8) 1 3) ∧
    decode [0xCE05, 0xE401, 0x000A, 0x0009] = .ok (.fcvt .f32 .bf16 5 .pc) ∧
    decode [0xCE24, 0xA092, 0x018A, 0x0003] = .ok (.vqnt .b4f .f32 (.v 4) (.v 8) (.x 9) 3) ∧
    decode [0xCE24, 0xA093, 0x018A, 0x0003] = .ok (.vdqnt .b4f .f32 (.v 4) (.v 8) (.x 9) 3) ∧
    decode [0xCE24, 0xA094, 0x2980, 0x0003] = .ok (.vrsc .b4f (.v 4) (.v 8) (.x 9) (.x 10) 3) ∧
    decode [0xCE05, 0xA005, 0x018A, 0x0003] = .ok (.vemax .b4f .f32 5 (.v 8) 3) ∧
    decode [0xCE24, 0xA236, 0x0180, 0x0001] = .ok (.vpack .s8 .s16 (.v 4) (.v 8) (.v 3) 3) ∧
    decode [0xCE24, 0xA017, 0x0181, 0x0000] = .ok (.vunpk .s16 .s8 (.v 4) (.v 8) true 3) ∧
    decode [0xCE24, 0xA098, 0x018A, 0x0000] = .ok (.vphcv .f32 (.v 4) (.v 8) (.x 9) 3) ∧
    decode [0xCE24, 0xA009, 0x018A, 0x0000] = .ok (.frsqa .f32 (.v 4) (.v 8) 3) ∧
    decode [0xCE24, 0xA00A, 0x018A, 0x0000] = .ok (.frcpa .f32 (.v 4) (.v 8) 3) := by decide
theorem test_decode_48 :
    decode [0x9205, 0xE400, 0xBEEF] = .ok (.ldS8 5 .pc 0xBEEF) ∧
    decode [0x9205, 0xE401, 0xBEEF] = .ok (.ldN8 5 .pc 0xBEEF) ∧
    decode [0x9205, 0xE402, 0xBEEF] = .ok (.ldS16 5 .pc 0xBEEF) ∧
    decode [0x9205, 0xE403, 0xBEEF] = .ok (.ldN16 5 .pc 0xBEEF) ∧
    decode [0x9205, 0xE404, 0xBEEF] = .ok (.ldS32 5 .pc 0xBEEF) ∧
    decode [0x9205, 0xE405, 0xBEEF] = .ok (.ldN32 5 .pc 0xBEEF) ∧
    decode [0x9205, 0xE406, 0xBEEF] = .ok (.ld64 5 .pc 0xBEEF) ∧
    decode [0x9205, 0xE407, 0xBEEF] = .ok (.ldFe 5 .pc 0xBEEF) ∧
    decode [0x9205, 0xE408, 0xBEEF] = .ok (.ldFc 5 .pc 0xBEEF) := by decide
theorem test_decode_49 :
    decode [0x9246, 0xE400, 0xBEEF] = .ok (.st8 (.x 6) .pc 0xBEEF) ∧
    decode [0x9246, 0xE401, 0xBEEF] = .ok (.st16 (.x 6) .pc 0xBEEF) ∧
    decode [0x9246, 0xE402, 0xBEEF] = .ok (.st32 (.x 6) .pc 0xBEEF) ∧
    decode [0x9246, 0xE403, 0xBEEF] = .ok (.st64 (.x 6) .pc 0xBEEF) ∧
    decode [0x9246, 0xE404, 0xBEEF] = .ok (.stEf (.x 6) .pc 0xBEEF) ∧
    decode [0x9246, 0xE405, 0xBEEF] = .ok (.stF (.x 6) .pc 0xBEEF) := by decide
theorem test_decode_4A :
    decode [0x9285, 0x0020, 0xBEEF] = .ok (.ldp 5 2 0xBEEF) := by decide
theorem test_decode_4B :
    decode [0xD2E4, 0xE400, 0x0184, 0xBEEF] = .ok (.vld .n8 (.v 4) .pc 0xBEEF 3) ∧
    decode [0xD2E4, 0xE401, 0x0184, 0xBEEF] = .ok (.vst .n8 (.v 4) .pc 0xBEEF 3) ∧
    decode [0xD2E4, 0xE492, 0x0184, 0xBEEF] = .ok (.vlds .n8 (.v 4) .pc (.x 9) 0xBEEF 3) ∧
    decode [0xD2E4, 0xE493, 0x0184, 0xBEEF] = .ok (.vsts .n8 (.v 4) .pc (.x 9) 0xBEEF 3) ∧
    decode [0xD2E4, 0xE634, 0x0184, 0xBEEF] = .ok (.vldg .n8 (.v 4) .pc (.v 3) 0xBEEF 3) ∧
    decode [0xD2E4, 0xE635, 0x0184, 0xBEEF] = .ok (.vstg .n8 (.v 4) .pc (.v 3) 0xBEEF 3) := by decide
theorem test_decode_4C :
    decode [0x9300, 0xE400, 0xBEEF] = .ok (.prefL1 .pc 0xBEEF) ∧
    decode [0x9300, 0xE401, 0xBEEF] = .ok (.prefSl .pc 0xBEEF) ∧
    decode [0x9300, 0xE402, 0xBEEF] = .ok (.cclean .pc 0xBEEF) ∧
    decode [0x9300, 0xE403, 0xBEEF] = .ok (.cflush .pc 0xBEEF) ∧
    decode [0x9300, 0xE404, 0xBEEF] = .ok (.iflush .pc 0xBEEF) := by decide
theorem test_decode_4D :
    decode [0x5345, 0xE490] = .ok (.ldxS8 5 .pc (.x 9)) ∧
    decode [0x5345, 0xE491] = .ok (.ldxN8 5 .pc (.x 9)) ∧
    decode [0x5345, 0xE492] = .ok (.ldxS16 5 .pc (.x 9)) ∧
    decode [0x5345, 0xE493] = .ok (.ldxN16 5 .pc (.x 9)) ∧
    decode [0x5345, 0xE494] = .ok (.ldxS32 5 .pc (.x 9)) ∧
    decode [0x5345, 0xE495] = .ok (.ldxN32 5 .pc (.x 9)) ∧
    decode [0x5345, 0xE496] = .ok (.ldx64 5 .pc (.x 9)) := by decide
theorem test_decode_4E :
    decode [0x5386, 0xE490] = .ok (.stx8 (.x 6) .pc (.x 9)) ∧
    decode [0x5386, 0xE491] = .ok (.stx16 (.x 6) .pc (.x 9)) ∧
    decode [0x5386, 0xE492] = .ok (.stx32 (.x 6) .pc (.x 9)) ∧
    decode [0x5386, 0xE493] = .ok (.stx64 (.x 6) .pc (.x 9)) := by decide
theorem test_decode_50 :
    decode [0x9405, 0xE490, 0x0039] = .ok (.amoAdd .rel .field true 5 .pc (.x 9)) ∧
    decode [0x9405, 0xE491, 0x0039] = .ok (.amoAnd .rel .field true 5 .pc (.x 9)) ∧
    decode [0x9405, 0xE492, 0x0039] = .ok (.amoOr .rel .field true 5 .pc (.x 9)) ∧
    decode [0x9405, 0xE493, 0x0039] = .ok (.amoXor .rel .field true 5 .pc (.x 9)) ∧
    decode [0x9405, 0xE494, 0x0039] = .ok (.amoMin .rel .field true 5 .pc (.x 9)) ∧
    decode [0x9405, 0xE495, 0x0039] = .ok (.amoMax .rel .field true 5 .pc (.x 9)) ∧
    decode [0x9405, 0xE496, 0x0039] = .ok (.amoMinn .rel .field true 5 .pc (.x 9)) ∧
    decode [0x9405, 0xE497, 0x0039] = .ok (.amoMaxn .rel .field true 5 .pc (.x 9)) ∧
    decode [0x9405, 0xE498, 0x0039] = .ok (.amoSwap .rel .field true 5 .pc (.x 9)) ∧
    decode [0x9405, 0xE499, 0x2839] = .ok (.amoCas .rel .field true 5 .pc (.x 9) (.x 10)) := by decide
theorem test_decode_51 :
    decode [0x9446, 0xE400, 0x0039] = .ok (.redAdd .rel .field true (.x 6) .pc) ∧
    decode [0x9446, 0xE401, 0x0039] = .ok (.redAnd .rel .field true (.x 6) .pc) ∧
    decode [0x9446, 0xE402, 0x0039] = .ok (.redOr .rel .field true (.x 6) .pc) ∧
    decode [0x9446, 0xE403, 0x0039] = .ok (.redXor .rel .field true (.x 6) .pc) ∧
    decode [0x9446, 0xE404, 0x0039] = .ok (.redMin .rel .field true (.x 6) .pc) ∧
    decode [0x9446, 0xE405, 0x0039] = .ok (.redMax .rel .field true (.x 6) .pc) ∧
    decode [0x9446, 0xE406, 0x0039] = .ok (.redMinn .rel .field true (.x 6) .pc) ∧
    decode [0x9446, 0xE407, 0x0039] = .ok (.redMaxn .rel .field true (.x 6) .pc) := by decide
theorem test_decode_52 :
    decode [0x9486, 0xE400, 0x000A] = .ok (.cadd .f32 (.x 6) .pc) ∧
    decode [0x94A4, 0xE491, 0x018A] = .ok (.caddv .f32 (.v 4) .pc (.x 9) 3) ∧
    decode [0x9485, 0xE402, 0x000A] = .ok (.cld .f32 5 .pc) ∧
    decode [0x9480, 0xE403, 0x0000] = .ok (.cclr .pc) ∧
    decode [0x9485, 0xE404, 0x0000] = .ok (.cstat 5 .pc) ∧
    decode [0x94A4, 0xE405, 0x0000] = .ok (.cldx (.v 4) .pc) := by decide
theorem test_decode_58 :
    decode [0x5600, 0x0030] = .ok (.fenceAcq .field) ∧
    decode [0x5600, 0x0031] = .ok (.fenceRel .field) ∧
    decode [0x5600, 0x0032] = .ok (.fenceAr .field) ∧
    decode [0x5600, 0x0033] = .ok (.fenceSc .field) ∧
    decode [0x5606, 0xE434] = .ok (.fflag .field (.x 6) .pc) := by decide
theorem test_decode_59 :
    decode [0x5645, 0x00B0] = .ok (.arv 11 5) ∧
    decode [0x5645, 0x00B1] = .ok (.arvRlx 11 5) ∧
    decode [0x5645, 0x00B2] = .ok (.arvd 11 5) ∧
    decode [0x5646, 0x00B3] = .ok (.bwt 11 (.x 6)) ∧
    decode [0x5645, 0x00B4] = .ok (.btest 11 5) := by decide
theorem test_decode_5A :
    decode [0x9685, 0xE490, 0x2835] = .ok (.waitv true .field true 5 .pc (.x 9) (.x 10)) ∧
    decode [0x9685, 0xE401, 0x0030] = .ok (.ntf1 .field 5 .pc) ∧
    decode [0x9685, 0xE402, 0x0030] = .ok (.ntfa .field 5 .pc) ∧
    decode [0x9685, 0xE633, 0x0038] = .ok (.send .field 2 5 .pc (.v 3)) ∧
    decode [0x96A4, 0x1C04, 0x0038] = .ok (.recv .field (some 2) (.v 4) 7) ∧
    decode [0x96A4, 0x1C05, 0x0031] = .ok (.recvt .field none (.v 4) 7) := by decide
theorem test_decode_60 :
    decode [0x5805, 0xE490] = .ok (.spawn 5 .pc (.x 9)) ∧
    decode [0x5805, 0xE401] = .ok (.sync 5 .pc) ∧
    decode [0x5805, 0x0002] = .ok (.take 5) ∧
    decode [0x5805, 0xE403] = .ok (.steal 5 .pc) ∧
    decode [0x5805, 0x0004] = .ok (.tdone 5) ∧
    decode [0x5805, 0xE495] = .ok (.slice 5 .pc (.x 9)) ∧
    decode [0x5805, 0xE496] = .ok (.joina 5 .pc (.x 9)) ∧
    decode [0x5805, 0x0007] = .ok (.dqlen 5) := by decide
theorem test_decode_64 :
    decode [0x9905, 0xE490, 0x2830] = .ok (.cpy .field 5 .pc (.x 9) (.x 10)) ∧
    decode [0x9905, 0xE491, 0x2830] = .ok (.cpyt .field 5 .pc (.x 9) (.x 10)) ∧
    decode [0x9905, 0xE492, 0x2830] = .ok (.gath .field 5 .pc (.x 9) (.x 10)) ∧
    decode [0x9905, 0xE493, 0x2830] = .ok (.scat .field 5 .pc (.x 9) (.x 10)) ∧
    decode [0x9905, 0xE494, 0x2831] = .ok (.mcst true .field 5 .pc (.x 9) (.x 10)) ∧
    decode [0x9905, 0xE495, 0x2838] = .ok (.rdct .max .field 5 .pc (.x 9) (.x 10)) ∧
    decode [0x9905, 0xE496, 0x2830] = .ok (.hdsub .field 5 .pc (.x 9) (.x 10)) ∧
    decode [0x9905, 0xE407, 0x0000] = .ok (.hdend 5 .pc) ∧
    decode [0x9905, 0xE498, 0x0030] = .ok (.tlret .field 5 .pc (.x 9)) ∧
    decode [0x9905, 0xE409, 0x0000] = .ok (.await 5 .pc) := by decide
theorem test_decode_68 :
    decode [0x9A05, 0xE400, 0x0000] = .ok (.phld 5 .pc) ∧
    decode [0x9A05, 0x0001, 0x0000] = .ok (.phsw 5) ∧
    decode [0x9A05, 0xE492, 0x0001] = .ok (.phwr true 5 .pc (.x 9)) ∧
    decode [0x9A05, 0xE493, 0x2830] = .ok (.omx .mark .bf16 5 .pc (.x 9) (.x 10)) ∧
    decode [0x9A05, 0xE494, 0x2830] = .ok (.omxa .mark .bf16 5 .pc (.x 9) (.x 10)) ∧
    decode [0x9A05, 0xE495, 0x2830] = .ok (.omxw .mark .bf16 5 .pc (.x 9) (.x 10)) ∧
    decode [0x9A05, 0x0006, 0x0000] = .ok (.prbe 5) ∧
    decode [0x9A05, 0x0007, 0x0001] = .ok (.phcrc true 5) := by decide
theorem test_decode_70 :
    decode [0x5C05, 0xE400] = .ok (.launch 5 .pc) ∧
    decode [0x5C05, 0xE4B1] = .ok (.start 11 5 .pc) ∧
    decode [0x5C05, 0x00B2] = .ok (.reap 11 5) ∧
    decode [0x5C05, 0xE403] = .ok (.migr 5 .pc) ∧
    decode [0x5C00, 0x02B4] = .ok (.trap 43) ∧
    decode [0x5C00, 0x0005] = .ok .eret ∧
    decode [0x5C05, 0xE4B6] = .ok (.ctxsv 11 5 .pc) ∧
    decode [0x5C05, 0xE4B7] = .ok (.ctxld 11 5 .pc) ∧
    decode [0x5C05, 0xE408] = .ok (.prmt 5 .pc) ∧
    decode [0x5C05, 0xE409] = .ok (.rsme 5 .pc) ∧
    decode [0x5C05, 0xE40A] = .ok (.errinj 5 .pc) := by decide
theorem test_decode_71 :
    decode [0x9C45, 0x0000, 0x0104] = .ok (.mfs 5 0x104) ∧
    decode [0x9C46, 0x0001, 0x0302] = .ok (.mts (.x 6) 0x302) ∧
    decode [0x9C46, 0x0001, 0x0001] = .ok (.mtsFctx (.x 6)) ∧
    decode [0x9C46, 0x0001, 0x0004] = .ok (.mtsEbcmin (.x 6)) ∧
    decode [0x9C46, 0x0001, 0x0002] = .ok (.mtsScptr (.x 6)) ∧
    decode [0x9C46, 0x0001, 0x0003] = .ok (.mtsFstat (.x 6)) ∧
    decode [0x9C46, 0x0001, 0x0100] = .ok (.mtsPriv (.x 6)) ∧
    decode [0x9C46, 0x0001, 0x0101] = .ok (.mtsEpc (.x 6)) ∧
    decode [0x9C46, 0x0001, 0x0104] = .ok (.mtsTvec (.x 6)) ∧
    decode [0x9C46, 0x0001, 0x0105] = .ok (.mtsAsid (.x 6)) ∧
    decode [0x9C46, 0x0001, 0x0200] = .ok (.mtsDqbase (.x 6)) ∧
    decode [0x9C46, 0x0001, 0x0201] = .ok (.mtsDqtop (.x 6)) ∧
    decode [0x9C46, 0x0001, 0x0202] = .ok (.mtsDqbot (.x 6)) ∧
    decode [0x9C46, 0x0001, 0x0203] = .ok (.mtsDqspill (.x 6)) ∧
    decode [0x9C46, 0x0001, 0x0212] = .ok (.mtsSgmask 2 (.x 6)) := by decide

/-! ## Small states -/

/-- The miller of core 0 runs at head 1 of a line; f changes its context. -/
def one (f : Ctx → Ctx) : State := { State.reset with ctxs := [(0, f { Ctx.reset with pc := 0x1002, run := .running })] }
/-- Context 3 of core 0 runs at head 1 of a line; f changes it. -/
def three (f : Ctx → Ctx) : State :=
  { State.reset with cur := 3, ctxs := [(3, f { Ctx.reset with pc := 0x1002, run := .running })] }
/-- The context at the sys level. -/
def asSys (c : Ctx) : Ctx := { c with priv := 1 }
/-- The context with x5 holding a value. -/
def withX5 (v : Word) (c : Ctx) : Ctx := { c with x := c.x.set 5 v }
/-- A window address of the own scratchpad. -/
def win (o : Nat) : Word := BitVec.ofNat 64 (0x00F0000002000000 + o)
/-- The outcome is a next state with a property. -/
def after (o : Out) (p : State → Bool) : Bool :=
  match o with
  | .next t => p t
  | _ => false
/-- Core 1 of cluster 0 has a remap entry in this state (R30): 1 MAPPED, 2 MOVING, 3 FENCED. -/
def remapped (s : State) (n : Nat) : State :=
  s.setClu 0 { Cluster.reset with remap := Cluster.reset.remap.set 1 (BitVec.ofNat 16 (n * 2 ^ 14 + 1)) }
/-- Core 0 is pre-empted in a mode (R442), with ASID 0 and no launch. -/
def inMode (m : Mode) (s : State) : State :=
  s.setCore 0 { Core.reset with mode := m, saved := some ⟨0, 0, 0, true, 0, none, [], none, [], [], Vector.replicate 4 0, Vector.replicate 4 0,
                                                       Vector.replicate 4 0⟩ }
/-- ASID 0 is valid in partition 0, which holds field 0 (R407, R408). -/
def spaced (s : State) : State := { s with mem := [(0x200000, 1)], parts := s.parts.set 0 0x100000001 }
/-- VAs 0x10000 to 0x1FFFF of ASID 0 map to PAs from 0x400000 on, with every right, on a CELL page or not. -/
def paged (cell : Bool) (s : State) : State :=
  (spaced s).setClu 0 { Cluster.reset with tlb := [⟨0, 0x10000, 16, 0x400000, true, true, true, true, cell, 0, [], 0⟩] }
/-- Launch 0 of core 0 is live and owns channel 0, of which contexts 0 and 3 are members. -/
def launched (s : State) : State :=
  { s.setCore 0 { s.core 0 with launch := some 0 } with
    launches := [(0, { Launch.none with live := true, cores := [0], record := 2 ^ 176,
                                        groups := [(0, { Group.new with parts := [(0, 9)] })] })] }
/-- What a page with every right grants. -/
def fullGrant : Grant := ⟨true, true, true, true, false⟩
/-- A plain message for a context. -/
def plainMsg (dst : Nat) : Msg :=
  { dst := dst, ch := 0, payload := 7, addr := 3, status := 0, host := false, asid := 0, scope := .core, poisoned := false,
    via := none }
/-- Core 0 is MAPPED. -/
def mapped (s : State) : State := s.mapClu 0 fun c => { c with remap := c.remap.set 0 0x4000 }

/-! ## Ill-formed instructions: one for each check of WellFormed (R80, R98, R99, R126, R172, R179, R180, R431) -/

theorem test_illformed_integer_lanes : (Instr.vadd .f32 (.v 1) (.v 2) (.v 3) 0).wf = false ∧ (Instr.vmulh .f16 .vz .vz .vz 0).wf = false ∧
    (Instr.vcmpeq .f8e4 1 (.v 2) (.v 3) 0).wf = false ∧ (Instr.vaddi .f64 (.v 1) (.v 2) 3 0).wf = false := by decide
theorem test_illformed_signed_lanes : (Instr.vabs .n8 (.v 1) (.v 2) 0).wf = false ∧ (Instr.vabs .s8 (.v 1) (.v 2) 0).wf = true := by decide
theorem test_illformed_lanes : (Instr.vsel .f64 (.v 1) (.v 2) (.v 3) 0).wf = false ∧ (Instr.vld .f8e4 (.v 1) (.x 5) 0 0).wf = false ∧
    (Instr.vredAdd .f64 5 (.v 2) 0).wf = false := by decide
theorem test_illformed_float_lanes : (Instr.vfadd .f64 (.v 1) (.v 2) (.v 3) 0).wf = false ∧ (Instr.vfsqrt .s32 (.v 1) (.v 2) 0).wf = false ∧
    (Instr.frcpa .f8e5 (.v 1) (.v 2) 0).wf = false := by decide
theorem test_illformed_moves : (Instr.vxlr .f64 (.v 1) (.v 2) (.v 3) 0).wf = false ∧ (Instr.vextr .f64 5 (.v 1) (.x 2)).wf = false := by decide
theorem test_illformed_conversions : (Instr.vcvt .f64 .f32 (.v 1) (.v 2) 0 0).wf = false ∧ (Instr.vcvt .f32 .f16 (.v 1) (.v 2) 2 0).wf = false ∧
    (Instr.vcvt .f32 .f16 (.v 1) (.v 2) 1 0).wf = true := by decide
theorem test_illformed_blocks : (Instr.vqnt .b8i .f32 (.v 4) (.v 2) (.x 5) 0).wf = false ∧ (Instr.vqnt .b8i .s32 (.v 4) (.v 0) (.x 5) 0).wf = false ∧
    (Instr.vdqnt .b8i .f16 (.v 3) (.v 0) (.x 5) 0).wf = false ∧ (Instr.vemax .b4f .f64 5 (.v 0) 0).wf = false ∧
    (Instr.vphcv .f32 (.v 1) (.v 2) (.x 5) 0).wf = false := by decide
theorem test_illformed_packs : (Instr.vpack .s16 .n32 (.v 1) (.v 2) (.v 3) 0).wf = false ∧ (Instr.vunpk .s8 .s16 (.v 1) (.v 2) false 0).wf = false := by
  decide
theorem test_illformed_orders : (Instr.redAdd .acq .core true (.x 5) (.x 6)).wf = false ∧ (Instr.redMaxn .ar .core true (.x 5) (.x 6)).wf = false := by
  decide
theorem test_illformed_cells : (Instr.cadd .s32 (.x 5) (.x 6)).wf = false ∧ (Instr.cld .f16 5 (.x 6)).wf = false ∧ (Instr.cldx (.v 1) (.x 6)).wf = false := by
  decide
theorem test_illformed_omxa : (Instr.omxa .mark .ph16 5 (.x 6) (.x 7) (.x 8)).wf = false := by decide
theorem test_illformed_start : (Instr.start 0 5 (.x 6)).wf = false ∧ (Instr.reap 0 5).wf = false := by decide
theorem test_illformed_mts : (Instr.mts (.x 5) 0x104).wf = false ∧ (Instr.mts (.x 5) 0x102).wf = true := by decide
/-- R80, R81: a reserved bit of NOP and of HALT; a minor of major 1 that is not assigned; T of another major. -/
theorem test_illegal_words : decode [0x0001] = .reserved ∧ decode [0x4040, 0x8000] = .reserved ∧ decode [0x4040, 0x0003] = .illegal ∧
    decode [0x0400] = .illegal := by decide

/-! ## Steps: expected results are worked by hand from the rules that the names of the tests give -/

/-- R83: the head after the last of a line is the first of the next. -/
theorem test_step_nop_leaves_the_line :
    (after (step (State.reset.withFetchWord 16 0)) fun t => (t.ctx 0).pc == 0x1042 && (t.ctx 0).line.isNone) = true := by decide +kernel
/-- R153: the sum wraps. -/
theorem test_add_wraps : (after (exec (.add 6 (.x 5) (.x 5)) (one (withX5 0x8000000000000001))) fun t => t.me.getX 6 == 2) = true := by
  decide +kernel
/-- R143: a shift by 64 gives zero, or the sign. -/
theorem test_shift_by_the_width : let s := one fun c => { c with x := (c.x.set 5 0xF000000000000000).set 6 64 }
    (after (exec (.sll 7 (.x 5) (.x 6)) s) fun t => t.me.getX 7 == 0) = true ∧
    (after (exec (.sra 7 (.x 5) (.x 6)) s) fun t => t.me.getX 7 == 0xFFFFFFFFFFFFFFFF) = true := by decide +kernel
/-- R156: division by zero, and the quotient that does not fit; the remainder's sign is the dividend's. -/
theorem test_division_corners : let s := one fun c => { c with x := ((c.x.set 5 (-7)).set 6 2).set 7 0x8000000000000000 }
    (after (exec (.div 8 (.x 5) (.x 0)) s) fun t => t.me.getX 8 == 0xFFFFFFFFFFFFFFFF) = true ∧
    (after (exec (.rem 8 (.x 5) (.x 6)) s) fun t => t.me.getX 8 == (-1)) = true ∧
    (after (exec (.div 8 (.x 7) (.x 5)) s) fun t => t.me.getX 8 == 0x1249249249249249) = true := by decide +kernel
/-- R155: LIH keeps the low half of its register. -/
theorem test_lih_keeps_the_low_half :
    (after (exec (.lih 5 0x89ABCDEF) (one (withX5 0x11111111_01234567))) fun t => t.me.getX 5 == 0x89ABCDEF_01234567) = true := by decide +kernel
/-- R149: JALR reads its target before it writes the link. -/
theorem test_jalr_reads_first :
    (after (exec (.jalr 5 (.x 5)) (one (withX5 0x2004))) fun t => t.me.pc == 0x2004 && t.me.getX 5 == 0x1004) = true := by decide +kernel
/-- R428: a TRAP of the miller enters its handler at the sys level, with the level it left in plvl. -/
theorem test_trap_enters_the_handler : (after (exec (.trap 9) (one fun c => { c with tvec := 0x2002 })) fun t =>
    t.me.pc == 0x2002 && t.me.eval == 9 && t.me.epc == 0x1004 && t.me.priv == 1 && t.me.ecause == 7) = true := by decide +kernel
/-- R430: a context that delegates is held, and its miller has the trap. -/
theorem test_trap_is_delegated : (after (exec (.trap 9) (three fun c => { c with tvec := 1 })) fun t =>
    t.me.run == .held && t.me.pc == 0x1002 && (t.core 0).pending == [⟨3, 7, 9, false, false⟩] && t.me.ecause == 0x3807) = true := by decide +kernel
/-- R144, R159: 1 + 2^-24 rounds to even in F32 and is inexact. -/
theorem test_fadd_rounds_to_even : let s := one fun c => { c with x := (c.x.set 5 0x3F800000).set 6 0x33800000 }
    (after (exec (.faddF32 7 (.x 5) (.x 6)) s) fun t => t.me.getX 7 == 0x3F800000 && t.me.fstat == 16) = true := by decide +kernel
/-- R162: S8 lanes saturate; an inactive lane keeps its value. -/
theorem test_vadds_saturates : let s := one fun c => { c with v := (c.v.set 1 0x7F7F).set 2 0x0101, k := c.k.set 1 1 }
    (after (exec (.vadds .s8 (.v 1) (.v 1) (.v 2) 1) s) fun t => t.me.getV (.v 1) == 0x7F7F && t.me.fstat == 0x100) = true := by decide +kernel
/-- R283: a load takes the bytes of the context's own buffered store. -/
theorem test_load_after_store : (after (exec (.st64 (.x 6) (.x 5) 0) (one fun c => { c with x := (c.x.set 5 (win 0)).set 6 0x8182 })) fun s =>
    after (exec (.ldS8 7 (.x 5) 1) s) fun t => t.me.getX 7 == 0xFFFFFFFFFFFFFF81 && t.byte (spadKey 0 0) == 0) = true := by decide +kernel
/-- R301: LD.FC of a full word leaves it empty. -/
theorem test_ldfc_empties : (after (exec (.ldFc 7 (.x 5) 0) ((one (withX5 (win 8))).putByte (spadKey 0 8) 5)) fun t =>
    t.me.getX 7 == 5 && t.isFull (spadKey 0 8) == false && t.isFull (spadKey 0 16)) = true := by decide +kernel
/-- R312: an atomic returns the old value, sign-extended from its width. -/
theorem test_amo_word : let s := (one id).wrN 0x400004 4 0xFFFFFFFF
    (after (exec (.atomicAtPlace .add false .rlx .core 0x400004 1 0 0 (some 7)) s) fun t =>
      t.me.getX 7 == 0xFFFFFFFFFFFFFFFF && t.rdN 0x400004 4 == 0 && t.rdN 0x400000 4 == 0) = true := by decide +kernel
/-- R49, R433: a write of FSTAT clears the flags whose bits are 0 and sets none. -/
theorem test_mts_fstat_only_clears :
    (after (exec (.mtsFstat (.x 5)) (one fun c => { withX5 6 c with fstat := 3 })) fun t => t.me.fstat == 2) = true := by decide +kernel
/-- R396: TAKE removes the newest entry. -/
theorem test_take_is_last_in_first_out : let s := ((one id).setCore 0 { Core.reset with dqbot := 2 }).wrN (spadKey 0 8) 8 0x10040
    (after (exec (.take 7) s) fun t => t.me.getX 7 == 0x10040 && (t.core 0).dqbot == 1) = true := by decide +kernel
/-- R339: RECVT of an empty queue gives 0. -/
theorem test_recvt_without_message : (after (exec (.recvt .core none (.v 1) 7) (one id)) fun t => t.me.getX 7 == 0 && t.me.pc == 0x1004) = true := by
  decide +kernel

/-! ## Witnesses: for each statement with hypotheses, a state and operands that meet them -/

theorem test_witness_DecodeEncode : (encodeFields (.vcvt .f32 .f16 (.v 15) .vz 1 7)).isSome = true ∧
    (Instr.vcvt .f32 .f16 (.v 15) .vz 1 7).wf = true ∧ (encodeFields .nop).isSome = true ∧ Instr.nop.wf = true := by decide
theorem test_witness_UnassignedIsRefused :
    forms (headMajor 0x0FC0).toNat = none ∧ forms (headMajor 0x0400).toNat ≠ none ∧ headT 0x0400 = 0 ∧
    decode [0x4405, 0xE490] = .ok (.add 5 .pc (.x 9)) ∧ (encode (.add 5 .pc (.x 9))).length ≤ 2 := by decide
theorem test_witness_StepKeepsForm : State.reset.form ∧ (after (step State.reset) fun t => t.cycle == 1) = true := by decide +kernel
theorem test_witness_LevelRisesByTrapsOnly : (one id).me.sys = false ∧ ((one id).ctx 3).sys = false ∧
    (after (exec (.li 5 1) (one id)) fun t => t.mark != .trapped) = true := by decide +kernel
theorem test_witness_StepRunsTheHead :
    let s := State.reset.withFetchWord 16 0
    s.agenda = [] ∧ s.nextIssuer = some 0 ∧ (s.ctx 0).asyncs = [] ∧ (s.ctx 0).line = none ∧
    inWindow (lineAddr (s.ctx 0).pc) = false ∧
    (s.l1iAnswer (s.asker 0) (lineAddr (s.ctx 0).pc)).map (·.data) = some (lineFor [0x0000]) ∧
    (s.core 0).stop = 0 ∧ (s.ctx 0).reaping = false ∧ (s.core 0).pending = [] ∧ lineLegal (lineFor [0x0000]) = true ∧
    headIndex (s.ctx 0).pc ≤ lineHeads (lineFor [0x0000]) ∧
    headP (lineParcel (lineFor [0x0000]) (headIndex (s.ctx 0).pc)) = false ∧
    decode (headParcels (lineFor [0x0000]) (headIndex (s.ctx 0).pc)) = .ok .nop ∧
    armedReg s.me (regsRead s.me .nop) (sysReads s.me .nop) = none ∧ firstBad s.me (regsRead s.me .nop) = none ∧
    s.sysBad (sysReads s.me .nop) = false ∧ (s.ctx 0).late = none ∧ s.leaver = none := by decide +kernel
/-- Head 1 is of major 0x3F, which the opcode map does not assign, or has a reserved bit set. -/
theorem test_witness_StepRunsTheHead_illegal : lineLegal (lineFor [0x0FC0]) = true ∧ headP 0x0FC0 = false ∧ decode [0x0FC0] = .illegal ∧
    lineLegal (lineFor [0x0001]) = true ∧ decode [0x0001] = .reserved := by
  decide +kernel
theorem test_witness_OtherSteps :
    State.reset.agenda = [] ∧ State.reset.nextIssuer = none ∧
    (let d : Line := BitVec.ofNat 512 (2 + 0x2000 * 2 ^ 16 + 0x8A25 * 2 ^ 32 + 0x926D * 2 ^ 496 + 2 ^ 480)
     let s := one fun c => { c with line := some ⟨0x1000, d⟩ }
     s.nextIssuer = some 0 ∧ lineLegal d = true ∧ headP (lineParcel d 1) = true ∧ decode (headParcels d 1) = .ok .nop ∧
     decode (headParcels d 2) = .ok (.vadds .s16 (.v 5) (.v 4) (.v 6) 0) ∧ armedReg s.me [] [] = none ∧ (s.ctx 0).late = none) ∧
    (∀ p, p ∈ State.reset.cols → p.2.state ≠ 1) ∧ State.reset.cycle % 2000 ≠ 1000 ∧
    (let s : State := (one id).post (.storeBufferDrain 0)
     s.agenda = [.storeBufferDrain 0] ∧ s.heldBack (.storeBufferDrain 0) = false ∧ s.dropped (.storeBufferDrain 0) = false) := by decide +kernel
theorem test_witness_Barrel :
    ((State.reset.setCore 0 { Core.reset with stalled := true }).core 0).stalled = true ∧
    ((one id).core 0).stalled = false ∧ ((one id).ctx 0).eligible 16 = true ∧ (one id).issuer 0 16 = some 0 ∧
    (one id).issuer 0 3 = some 0 ∧ (one id).issuer 0 9 = none := by decide +kernel
theorem test_witness_flows : (one id).flows ∧ (three id).flows := by decide
theorem test_witness_flows_top : goodPc (one fun c => { c with pc := 0x00FFFFFFFFFFFFFE }).nextPc = false := by decide
theorem test_witness_IntegerFrame : (after (exec (.div 5 .pc (.x 0)) (one id)) fun _ => true) = true := by decide +kernel
theorem test_witness_Jumps :
    goodPc (((one id).me.pc &&& ~~~63) + (1 : BitVec 32).signExtend 64 * 2).toNat = true ∧
    goodPc (((one id).me.pc &&& ~~~63) + (0 : BitVec 32).signExtend 64 * 2).toNat = false ∧
    goodPc ((one id).me.getS .pc).toNat = true ∧ goodPc ((one id).me.getS (.x 0)).toNat = false := by decide
theorem test_witness_Branches :
    ((one id).me.getS .pc == (one id).me.getS .pc) = true ∧ ((one id).me.getX 5 != 1) = true ∧
    ((one (withX5 1)).me.getX 5 != 1) = false ∧ ((one id).me.getX 0 != 1) = true ∧
    goodPc (((one id).me.pc &&& ~~~63) + (0xFFE1 : BitVec 16).signExtend 64 * 2).toNat = true ∧
    goodPc (((one id).me.pc &&& ~~~63) + (0xFFE0 : BitVec 16).signExtend 64 * 2).toNat = false := by decide
theorem test_witness_HaltYieldBreak : (one id).me.taskf = 0 ∧ (one id).me.buf = [] ∧
    (one fun c => { c with taskf := 8 }).me.taskf ≠ 0 ∧ ((one fun c => { c with why := some .yield }).ctx 0).why = some .yield := by
  decide
theorem test_witness_ControlFrame : (after (exec (.dbnz 5 1) (one id)) fun t => t.mark == .done) = true := by decide +kernel
theorem test_witness_TrapEntry :
    (ctxNo 0 = 0 ∧ goodPc (bits ((one fun c => { c with tvec := 0x2003 }).ctx 0).tvec.toNat 55 1 * 2) = true) ∧
    (((three fun c => { c with tvec := 0x2002 }).ctx 3).tvec.getLsbD 0 = false ∧
      goodPc (bits ((three fun c => { c with tvec := 0x2002 }).ctx 3).tvec.toNat 55 1 * 2) = true) := by decide
theorem test_witness_TrapDelegation :
    ctxNo 3 ≠ 0 ∧ ((three fun c => { c with tvec := 1 }).ctx 3).tvec.getLsbD 0 = true := by decide
theorem test_witness_DoubleTrap :
    goodPc (bits ((one id).ctx 0).tvec.toNat 55 1 * 2) = false ∧ ctxNo 0 = 0 ∧
    goodPc (bits ((three id).ctx 3).tvec.toNat 55 1 * 2) = false ∧ ((three id).ctx 3).tvec.getLsbD 0 = false := by decide
theorem test_witness_TrapAndReturn :
    (one asSys).me.sys = true ∧ goodPc (bits (one fun c => { asSys c with epc := 0x2002 }).me.epc.toNat 55 1 * 2) = true ∧
    ((one asSys).core 0).mode ≠ .restoring ∧ goodPc (bits (one asSys).me.epc.toNat 55 1 * 2) = false ∧
    (let s := inMode .restoring (one asSys)
     ctxNo s.cur = 0 ∧ (s.core s.myCore).mode = .restoring ∧ (s.core s.myCore).saved.isSome) := by decide
theorem test_witness_PrivilegeTraps : (one id).me.sys = false ∧ ctxNo (three id).cur ≠ 0 := by decide
theorem test_witness_ScalarFloatForms : rmodeOf (one id).me.fctx < 6 ∧ rmodeOf (one fun c => { c with fctxB := 5 }).me.fctx < 6 := by
  decide
theorem test_witness_RoundingModeTraps : rmodeOf (one fun c => { c with fctxB := 6 }).me.fctx = 6 ∧
    rmodeOf (one fun c => { c with fctxB := 7 }).me.fctx = 7 ∧ ElemT.f16.isInt = false ∧ ElemT.f4e2.isInt = false := by decide
theorem test_witness_RoundingKeepsExactValues :
    (fmtF32.decode (fmtF32.sign true + 1) matches .fin ..) = true ∧ 1 ≤ fmtF32.maxCode ∧
    (fmtF4E2.decode (fmtF4E2.sign false + fmtF4E2.maxCode) matches .fin ..) = true ∧ 2 ^ fmtF4E2.mb ≤ fmtF4E2.maxCode := by decide
theorem test_witness_FloatSpecialResults : let e : FEnv := envOf 0
    fmtF32.read e 0x7F800001 = .nan true ∧ fmtF32.read e 0x7FC00000 = .nan false ∧ fmtF32.read e 0 ≠ .nan true ∧
    fmtF32.read e 0x7F800000 = .inf false ∧ fmtF32.read e 0xFF800000 = .inf true ∧
    (fmtF32.read e 0x80000000 matches .fin true 0 _) = true ∧ (fmtF32.read e 0xBF800000 matches .fin true _ _) = true := by decide
theorem test_witness_IntegerReductions : ElemT.s8.isInt = true ∧ ElemT.n64.isInt = true := by decide
theorem test_witness_ElementConversions : rmodeOf (one id).me.fctx < 6 ∧ ElemT.s8.isInt = true ∧ ElemT.n64.isInt = true ∧
    ElemT.s8 ≠ ElemT.s16 := by decide
theorem test_witness_VectorFrame : (after (exec (.vadd .s8 (.v 5) (.v 5) .vz 0) (one id)) fun t => t.mark == .done) = true := by
  decide +kernel
theorem test_witness_WindowAddresses : (0 : Nat) < 64 ∧ 2 ^ 19 - 64 + 64 ≤ 2 ^ 19 ∧ (2 ^ 19 - 1 < 2 ^ 19 ∧ 2 ^ 19 < 2 ^ 19 - 1 + 2) ∧
    2 ^ 19 + 64 ≤ 2 ^ 25 ∧ (0x00F0000000000000 - 2 < 0x00EFFFFFFFFFFFFF ∧ 0x00EFFFFFFFFFFFFF < 0x00F0000000000000) ∧
    2 ^ 64 - 64 + 64 ≤ 2 ^ 64 := by decide
theorem test_witness_ScalarLoads : let s := one (withX5 (win 0x7FFF8))
    s.resolveMe .load (s.me.getS (.x 5) + (0 : BitVec 16).signExtend 64).toNat 8 =
      .ok [⟨0x00F000000207FFF8, spadKey 0 0x7FFF8, 8, false, none⟩] ∧ s.me.armed = none ∧ s.me.recBad = false ∧
    s.badPiece [⟨0x00F000000207FFF8, spadKey 0 0x7FFF8, 8, false, none⟩] = none ∧
    bufHits s.me.buf (pieceKeys [⟨0x00F000000207FFF8, spadKey 0 0x7FFF8, 8, false, none⟩]) = [] ∧
    s.atPeer [⟨0x00F000000207FFF8, spadKey 0 0x7FFF8, 8, false, none⟩] = none := by decide +kernel
/-- Core 1 of the cluster is mapped, so its scratchpad is a peer's. -/
theorem test_witness_ScalarLoads_peer : let s := remapped (one (withX5 0x00F0000000080000)) 1
    s.resolveMe .load (s.me.getS (.x 5) + (0 : BitVec 16).signExtend 64).toNat 4 = .ok [⟨0x00F0000000080000, spadKey 1 0, 4, false, none⟩] ∧
    s.atPeer [⟨0x00F0000000080000, spadKey 1 0, 4, false, none⟩] = some ⟨0x00F0000000080000, spadKey 1 0, 4, false, none⟩ := by decide +kernel
theorem test_witness_StoreToLoadForwarding : let p : Piece := ⟨0x00F0000002000000, spadKey 0 0, 8, false, none⟩
    let s := one fun c => { withX5 (win 0) c with buf := [.store [p] (byteList (spadKey 0 0) 7 8) 0 [spadKey 0 0] none false] }
    s.resolveMe .load (s.me.getS (.x 5) + (0 : BitVec 16).signExtend 64).toNat 8 = .ok [p] ∧ s.badPiece [p] = none ∧
    pieceKeys [p] ≠ [] ∧ (∀ a ∈ pieceKeys [p], a ∈ (byteList (spadKey 0 0) 7 8).map (·.1)) := by decide +kernel
theorem test_witness_ScalarStores : let s := one (withX5 (win 0))
    s.resolveMe .store (s.me.getS (.x 5) + (0 : BitVec 16).signExtend 64).toNat 8 = .ok [⟨0x00F0000002000000, spadKey 0 0, 8, false, none⟩] ∧
    s.badMerge [⟨0x00F0000002000000, spadKey 0 0, 8, false, none⟩] = none ∧ s.me.buf.length < 8 := by decide +kernel
theorem test_witness_StoreBufferDrains :
    let p : Piece := ⟨0x00F0000002000000, spadKey 0 0, 8, false, none⟩
    let e : BufEntry := .store [p] (storeBytes (pieceKeys [p]) 7) 0 [spadKey 0 0] none false
    let s := one fun c => { c with buf := [e, .marker .core] }
    (s.ctx 0).buf = e :: [.marker .core] ∧ s.form ∧ s.canPerform 0 0 (spadKey 0 0) = true ∧
    (let t := one fun c => { c with buf := [.marker .core] }
     (t.ctx 0).buf = .marker .core :: [] ∧ t.quiet 0 .core none = true ∧
     (t.post (.cellOperationAtHome .clear 0x400040 ⟨0, true, 0, 0x10040, none, 0⟩)).quiet 0 .core none = false) := by decide +kernel
theorem test_witness_AccessesAwayFromTheCore : let s := one fun c => { c with why := some .longOp }
    s.heldKey 0 0 .load (2 ^ 52 + 2 ^ 19 * 1 + 0) = false ∧ s.badIn (2 ^ 52 + 2 ^ 19 * 1 + 0) 8 = none ∧ s.form ∧ (s.ctx 0).why = some .longOp ∧
    (s.ctx 0).late = none ∧ ((one fun c => { c with why := some .longOp, late := some ⟨[spadKey 0 0], [0x00F0000002000000], [(spadKey 0 0, 5)], .inl (5, true)⟩ }).ctx 0).late =
      some ⟨[spadKey 0 0], [0x00F0000002000000], [(spadKey 0 0, 5)], .inl (5, true)⟩ ∧ s.isBad (spadKey 0 0) = false := by decide +kernel
theorem test_witness_AccessRefusals :
    (let s := one (withX5 (win 0x7FFF9))
     s.resolveMe .load (s.eaOff (.x 5) 0).toNat 8 = .trap 1 0x11 0x00F000000207FFF9) ∧
    (let s := spaced (one (withX5 0x2000))
     s.resolveMe .store (s.eaOff (.x 5) 0).toNat 8 matches .miss _) ∧
    (let s := remapped (one (withX5 0x00F0000000080000)) 2
     s.resolveMe .load (s.eaOff (.x 5) 0).toNat 8 = .held) ∧
    (let s := { one (withX5 (win 0)) with poison := [spadKey 0 0] }
     s.badPiece [⟨0x00F0000002000000, spadKey 0 0, 8, false, none⟩] = some 0x00F0000002000000) ∧
    (let s := (remapped (one (withX5 0x00F0000000080000)) 1).setCore 1 ((inMode .saved (one id)).core 0)
     s.resolveMe .load (s.eaOff (.x 5) 0).toNat 8 = .saved) := by decide +kernel

theorem test_witness_FullEmptyForms : let s := one (withX5 (win 0x7FFF8))
    let w := 2 ^ 52 + 2 ^ 19 * (s.cur / 16) + 0x7FFF8
    s.form ∧ s.me.got = none ∧ s.me.armed = none ∧ s.me.recBad = false ∧ (one fun c => { c with got := some 7 }).me.got = some 7 ∧ s.me.buf = [] ∧ s.cellsOut 0 = false ∧ s.me.getS (.x 5) + (0 : BitVec 16).signExtend 64 = BitVec.ofNat 64 (0x00F0000002000000 + 0x7FFF8) ∧
    s.isBad w = false ∧ s.inRange w = false ∧ (s.core s.myCore).feq = [] ∧ s.isFull w = true ∧ (s.setEmpty w).isFull w = false ∧
    (s.setEmpty w).form := by decide +kernel
theorem test_witness_FullEmptyAtThePort : let s := one fun c => { c with why := some (.fullEmpty 0) }
    let w := spadKey 0 0
    s.form ∧ (s.ctx 0).why = some (.fullEmpty (spadCore w)) ∧ (s.ctx 0).taken = false ∧ s.heldKey 0 0 .load w = false ∧ s.inRange w = false ∧ s.isBad w = false ∧
    w % 8 = 0 ∧ (s.core (spadCore w)).feq = [] ∧ s.feReady .ef w = false ∧ s.feReady .fe w = true ∧ s.feReady .fc w = true ∧
    s.feReady .f w = true ∧ (s.setEmpty w).feReady .ef w = true := by decide +kernel
theorem test_witness_ParameterLoads :
    ((one id).core 0).windows[(0 : Fin 4)].2 = 0 ∧
    (let s := (one id).setCore 0 { Core.reset with windows := Core.reset.windows.set 3 (win 0x7FFF0, 16) }
     (s.core s.myCore).windows[(3 : Fin 4)].2 ≠ 0 ∧ (8 : Nat) % 8 = 0 ∧ 8 + 8 ≤ (s.core s.myCore).windows[(3 : Fin 4)].2 ∧
     (s.core s.myCore).windows[(3 : Fin 4)].2 < 16 + 8 ∧
     s.resolveMe .load ((s.core s.myCore).windows[(3 : Fin 4)].1 + 8).toNat 8 = .ok [⟨0x00F000000207FFF8, spadKey 0 0x7FFF8, 8, false, none⟩]) := by
  decide +kernel
theorem test_witness_VectorMemory : let s := one (withX5 (win 0))
    let ps := (List.range 4).map fun i => (⟨0x00F0000002000000 + 8 * i, spadKey 0 (8 * i), 8, false, none⟩ : Piece)
    let ea (i : Nat) : Nat := (((s.me.getS (.x 5)).toNat + (i * 8 : Int)) % ((2 ^ 64 : Nat) : Int)).toNat
    [0, 1, 2, 3].foldl (fun r i => joinLanes r (s.resolveMe .load (ea i) 8)) (.ok []) = .ok ps ∧
    [0, 1, 2, 3].foldl (fun r i => joinLanes r (s.resolveMe .store (ea i) 8)) (.ok []) = .ok ps ∧
    (List.range (32 / 8)).filter (s.me.getK 0).getLsbD = [0, 1, 2, 3] ∧
    s.me.armed = none ∧ s.me.recBad = false ∧ s.badPiece ps = none ∧ s.badMerge ps = none ∧ bufHits s.me.buf (pieceKeys ps) = [] ∧ ElemT.n64.isLane = true := by decide +kernel
theorem test_witness_CacheForms :
    inWindow ((one (withX5 (win 0))).me.getS (.x 5)).toNat = true ∧
    (let s := spaced (one (withX5 0x2000)); inWindow (s.me.getS (.x 5)).toNat = false ∧ s.resolveMe .load 0x2000 1 = .miss 0x2000) ∧
    (let s := paged false (one (withX5 0x10000))
     s.resolveMe .load (s.me.getS (.x 5)).toNat 1 = .ok [⟨0x10000, 0x400000, 1, false, some fullGrant⟩] ∧ isCarve 0x400000 = false ∧
     (∀ h, h ∈ s.homeKey 0x400000 → s.sliceShut (bankCluster h) = false ∧ s.sliceShut (bankCluster (proxyBank (fieldOf s.myCore) h)) = false)) := by decide +kernel
theorem test_witness_AtomicsAreSent :
    (0x10004 : Word).toNat % 8 ≠ 0 ∧
    (let s := paged false (one (withX5 0x10008))
     s.resolveMe .atomic (s.me.getS (.x 5)).toNat 8 = .ok [⟨0x10008, 0x400008, 8, false, some fullGrant⟩] ∧ isHost 0x400008 = false ∧
     s.badPiece [⟨0x10008, 0x400008, 8, false, some fullGrant⟩] = none ∧ s.me.buf = [] ∧ s.quiet 0 .system none = true ∧ s.flows) := by decide +kernel
theorem test_witness_AtomicsAtTheirPlace : let s := one id
    s.form ∧ s.heldKey 0 0 .atomic 0x400008 = false ∧ s.inRange 0x400008 = false ∧ s.isBad 0x400008 = false ∧
    ({ s with poison := [0x400008] } : State).isBad 0x400008 = true := by decide +kernel
theorem test_witness_FlaggedFence :
    (let s := one (withX5 (win 8))
     s.resolveMe .store (s.me.getS (.x 5)).toNat 8 = .ok [⟨0x00F0000002000008, spadKey 0 8, 8, false, none⟩] ∧ isHost (spadKey 0 8) = false ∧
     s.me.buf = [] ∧ s.form ∧ s.flows ∧ s.quiet 0 .system none = true ∧ s.heldKey 0 0 .atomic (spadKey 0 8) = false ∧ s.inRange (spadKey 0 8) = false) ∧
    (let s := (spaced (one (withX5 0x10000))).setClu 0
       { Cluster.reset with tlb := [⟨0, 0x10000, 16, 2 ^ 50 + 2 ^ 42, true, true, true, true, false, 0, [], 0⟩] }
     isRemote (2 ^ 50 + 2 ^ 42) = true ∧ s.quiet 0 .system (some (paPkg (2 ^ 50 + 2 ^ 42))) = true) ∧
    (let s := (spaced (one (withX5 0x10000))).setClu 0
       { Cluster.reset with tlb := [⟨0, 0x10000, 16, 2 ^ 51, true, true, true, true, false, 0, [], 0⟩] }
     s.resolveMe .store (s.me.getS (.x 5)).toNat 8 = .ok [⟨0x10000, 2 ^ 51, 8, false, some fullGrant⟩] ∧ isHost (2 ^ 51) = true) := by decide +kernel
theorem test_witness_CellFormsAreSent : let s := paged true (one fun c => withX5 0x10040 (asSys c))
    s.flows ∧ rmodeOf s.me.fctx < 6 ∧ s.me.sys = true ∧ s.resolveCell .store (s.me.getS (.x 5)).toNat = .ok [⟨0x10040, 0x400040, 64, true, none⟩] ∧
    s.resolveCell .load (s.me.getS (.x 5)).toNat = .ok [⟨0x10040, 0x400040, 64, true, none⟩] ∧ s.badIn 0x400040 64 = none ∧ s.me.buf = [] ∧ s.me.armed = none ∧ s.me.recBad = false ∧
    bits ((one id).me.getK 7).toNat 7 0 = 0 ∧ bits ((one fun c => { c with k := c.k.set 7 1 }).me.getK 7).toNat 7 0 = 1 ∧
    inWindow ((one (withX5 (win 0))).me.getS (.x 5)).toNat = true := by decide +kernel
theorem test_witness_CellOperations : (one id).form ∧ (one id).badIn 0x400040 64 = none ∧ (one id).heldKey 0 0 .cell 0x400040 = false ∧ (one id).agenda.any (isCellOp 0 false) = false ∧
    ({ one id with poison := [0x400048] } : State).badIn 0x400040 64 = some 0x400048 ∧ (one id).cells.contains 0x400040 = false ∧ ({ one id with cells := [0x400040] } : State).cells.contains 0x400040 = true ∧
    cellBytes (cellOf ((one id).rdN 0x400040 64)) = (one id).rdN 0x400040 64 := by decide +kernel
theorem test_witness_SluiceForms : let s := launched (one (withX5 0xFFFF))
    let g := s.group 0 0
    (s.core s.myCore).launch = some 0 ∧ (s.launch 0).live = true ∧ (s.launch 0).owns 0 = true ∧ (s.launch 0).owns 1 = false ∧ s.flows ∧
    g.member s.cur = true ∧ g.hasArrived s.cur (g.view s.myCore) = false ∧
    (g.view s.myCore + 2 ^ 16 - (s.me.getS (.x 5)).toNat % 2 ^ 16) % 2 ^ 16 = 1 ∧
    (g.view s.myCore + 2 ^ 16 - (s.me.getS (.x 0)).toNat % 2 ^ 16) % 2 ^ 16 = 0 := by decide +kernel
theorem test_witness_SluicePhases :
    (let s := (launched (three fun c => { c with drains := 1 })).mapGroup 0 0 fun g => { g with arrived := [(3, 0)], uncounted := [3] }
     (s.group 0 0).uncounted.contains 3 = true ∧ (s.group 0 0).hasArrived 3 0 = true ∧
     (s.ctx 3).drains + 1 < 3 ∧ 2 ≤ (s.ctx 3).drains + 1 ∧ s.cellsOut 3 = false) ∧
    (let s := (launched (one id)).mapLaunch 0 fun x => { x with cores := [0, 1024] }
     (s.launch 0).live = true ∧ tget (s.group 0 0).views 0 0 = (s.group 0 0).tree ∧ (s.group 0 0).reported.contains 0 = false ∧
     (setFields (s.launch 0).cores).all (fun n => n == 0 || (s.group 0 0).reported.contains n) = false) ∧
    (let s := (launched (one id)).mapGroup 0 0 fun g => { g with arrived := [(0, 0), (3, 0)] }
     (s.group 0 0).fieldDone (s.launch 0).cores 0 = true ∧ tget (s.group 0 0).openedAt 0 (s.cycle + 1) ≠ s.cycle ∧
     (setFields (s.launch 0).cores).all (fun n => n == 0 || (s.group 0 0).reported.contains n) = true ∧ tget (s.group 0 0).parts 0 0 ≠ 0) ∧
    (let s := (launched (one id)).mapGroup 0 0 fun g => { g with tree := 1, arrived := [(0, 0)] }
     tget (s.group 0 0).views 0 0 ≠ (s.group 0 0).tree) := by decide +kernel
theorem test_witness_WaitAndNotifyAreSent :
    (let s := paged false (one (withX5 0x10004))
     s.flows ∧ s.me.got = none ∧ (s.me.getS (.x 5)).toNat % 8 ≠ 0 ∧
     s.resolveMe .load (s.me.getS (.x 5)).toNat 4 = .ok [⟨0x10004, 0x400004, 4, false, some fullGrant⟩] ∧ s.badPiece [⟨0x10004, 0x400004, 4, false, some fullGrant⟩] = none ∧
     isRemote 0x400004 = false ∧ isHost 0x400004 = false ∧ s.me.buf = [] ∧ s.quiet 0 .system none = true ∧ s.me.armed = none ∧ s.me.recBad = false) ∧
    (isRemote (2 ^ 50) = true ∧ isHost (2 ^ 51) = true) ∧ (one fun c => { c with got := some 5 }).me.got = some 5 := by decide +kernel
theorem test_witness_HomesOfWaitedWords :
    (let s := one fun c => { c with why := some .sleep }
     let loc := spadKey 0 0
     (s.ctx 0).why = some .sleep ∧ s.heldKey 0 0 .atomic loc = false ∧ s.entryFree loc = true ∧ s.entryWait = [] ∧ s.isBad loc = false ∧ s.rdN loc 8 = 0 ∧
     (s.putByte loc 1).rdN loc 8 ≠ 0 ∧
     ({ s with entryWait := [(5, 0, .syncAtHome 0 loc)] } : State).entryWait = [(5, 0, .syncAtHome 0 loc)]) ∧
    (let s := { one fun c => { c with why := some .sleep } with
       sleepers := (List.range 1024).map fun i => ⟨i, false, false, spadKey 0 (8 * (1024 - i)), true, none⟩ }
     s.heldKey 0 0 .atomic (spadKey 0 0) = false ∧ s.entryFree (spadKey 0 0) = false ∧ (s.ctx 0).taken = false) ∧
    (∀ r, r ∈ (one id).sleepers → ((one id).ctx r.who).recBad = false) := by decide +kernel
theorem test_witness_SendIsSent :
    (let s := spaced (one (withX5 16))
     s.flows ∧ s.me.buf = [] ∧ s.quiet 0 .system none = true ∧ s.partOf (fieldOf s.myCore) = some 0 ∧ (s.me.getS (.x 5)).toNat % 2 ^ 25 / 2 ^ 19 = s.pkg ∧
     s.partOf (fieldOf ((s.me.getS (.x 5)).toNat % 2 ^ 25 % 2 ^ 19 / 16)) = some 0 ∧ s.partOf (fieldOf (2 ^ 18 / 16)) ≠ some 0 ∧ s.cur < 2 ^ 19) ∧
    (let s : State := { spaced (one (withX5 (2 ^ 19))) with mem := [(8, 1), (0x200000, 1)], groupN := 2 }
     s.partOf 0 = some 0 ∧ (s.me.getS (.x 5)).toNat % 2 ^ 25 / 2 ^ 19 ≠ s.pkg ∧ s.reaches 0 1 0 = true) := by decide +kernel
theorem test_witness_MessageDelivery :
    (let s := remapped (one id) 1
     let m := plainMsg 16
     m.status = 0 ∧ bits m.addr 24 19 = s.pkg ∧ s.portLets m = true ∧ s.portLets { m with via := some ⟨5, 5, 0, 0⟩ } = false ∧ s.form ∧ 5 ≠ noCtx ∧ (s.turnOf m).1 = (s.turnOf m).2 ∧
     s.remapState 1 = 1 ∧ s.savedFor 1 0 = false ∧ (s.core 1).takes 16 = true ∧ (s.core 1).spill.any (sameTriple m) = false) ∧
    (let s := (remapped (one id) 1).setCore 1 { Core.reset with spill := [plainMsg 16] }
     (s.core 1).spill.any (sameTriple (plainMsg 16)) = true ∧ (s.core 1).spill.length < 2048 ∧ (s.core 1).spill = [plainMsg 16] ∧
     (plainMsg 16).dst / 16 = 1 ∧ (s.core 1).takes 16 = true) ∧
    (one id).remapState 1 = 0 ∧ (remapped (one id) 2).remapState 1 = 2 ∧ (remapped (one id) 3).remapState 1 = 3 ∧
    ((one fun c => { c with why := some .longOp }).ctx 0).why = some .longOp := by decide +kernel
theorem test_witness_Receive : let s := (one id).setCore 0 { Core.reset with rq := [plainMsg 5, plainMsg 0] }
    (s.core s.myCore).rq[1]? = some (plainMsg 0) ∧ (plainMsg 0).poisoned = false ∧ (plainMsg 0).dst = s.cur ∧ (plainMsg 0).ch = 0 ∧
    (plainMsg 5).dst ≠ s.cur ∧ s.flows ∧ s.me.armed = none ∧ ((one id).core 0).rq = [] := by decide +kernel
theorem test_witness_HostMessages : let t := spaced (remapped (one id) 1)
    let s := t.mapFunc 1 fun f => { f with disp := f.disp.set 2 (2 ^ 25 + 16) }
    let r : BitVec 512 := BitVec.ofNat 512 (2 * 2 ^ 256 + 2 ^ 260)
    partValid (s.parts.toList.getD (1 - 1) 0) = true ∧ bits r.toNat 511 262 = 0 ∧ bits (2 ^ 262 : Nat) 511 262 ≠ 0 ∧
    ((s.func 1).disp.toList.getD (bits r.toNat 259 256) 0).toNat = 2 ^ 25 + 16 ∧ ((s.func 1).disp.toList.getD 0 0).toNat.testBit 25 = false ∧
    s.fnReach 1 (fieldOf 1) = true ∧ s.fnReach 1 1 = false ∧ s.remapState 1 = 1 ∧ s.remapState 2 = 0 ∧
    (remapped s 3).remapState 1 = 3 ∧ (s.core 1).mode = .running ∧ (s.core 1).rq = [] ∧ (s.core 1).spill = [] := by decide +kernel
theorem test_witness_TakeATask :
    (one fun c => { c with taskf := 64 }).me.taskf ≠ 0 ∧
    (let s := (one id).setCore 0 { Core.reset with dqtop := 0xFFFFFFFF }
     (s.core 0).dqLen = 1 ∧ s.me.taskf = 0 ∧ s.flows ∧ s.isBad (s.dqSlot 0 0xFFFFFFFF) = false) ∧
    (((one id).core 0).dqLen = 0 ∧ ((one id).core 0).refill = none ∧ ((one id).core 0).nblk = 0) ∧
    0 < (((one id).setCore 0 { Core.reset with nblk := 1 }).core 0).nblk := by decide +kernel
theorem test_witness_StealATask : let s := (remapped (one fun c => { c with why := some .deque }) 1).setCore 1 { Core.reset with dqbot := 1 }
    s.me.taskf = 0 ∧ s.flows ∧ (s.ctx 0).why = some .deque ∧ s.remapState 1 = 1 ∧ s.portFrozen 1 0 = false ∧ (s.core 1).dqLen = 1 ∧
    (s.core 1).dqtop.toNat = 0 ∧ s.isBad (s.dqSlot 1 0) = false := by decide +kernel
theorem test_witness_FramesAndJoins : let s := paged false (one fun c => { c with x := (c.x.set 5 0x10000).set 6 0x10040 })
    let p : Piece := ⟨0x10008, 0x400008, 8, false, none⟩
    let q : Piece := ⟨0x10050, 0x400050, 8, false, none⟩
    s.form ∧ s.flows ∧ s.me.buf = [] ∧ s.frameMe .store (s.me.getS (.x 5)).toNat 8 8 = .ok [p] ∧ p.key + 8 ≤ 2 ^ 52 ∧ (s.core s.myCore).dqLen < 255 ∧ s.me.armed = none ∧ s.me.recBad = false ∧
    s.inRange (s.dqSlot s.myCore (s.core s.myCore).dqbot.toNat) = false ∧
    s.frameMe .atomic (s.me.getS (.x 6)).toNat 16 8 = .ok [q] ∧ s.badPiece [q] = none ∧ p.key + 8 ≤ q.key ∧ s.me.getS (.x 6) ≠ 0 ∧
    s.me.getS (.x 0) = 0 ∧ s.me.taskf = 0 ∧ s.me.got = none ∧ s.heldKey 0 0 .atomic q.key = false ∧ s.isBad q.key = false ∧
    s.quiet s.cur .device none = true := by decide +kernel
theorem test_witness_FramesAndJoins_tdone : let s := paged false (one fun c => { c with taskf := 0x10000 })
    let q : Piece := ⟨0x10008, 0x400008, 8, false, none⟩
    s.me.taskf ≠ 0 ∧ s.frameMe .load s.me.taskf.toNat 8 8 = .ok [q] ∧ s.badPiece [q] = none ∧ s.rd64 q.key = 0 ∧
    (let t := s.wrN 0x400008 8 0x10040
     t.rd64 q.key ≠ 0 ∧ t.frameMe .atomic (t.rd64 q.key).toNat 16 8 = .ok [⟨0x10050, 0x400050, 8, false, none⟩]) := by decide +kernel
theorem test_witness_TaskIsLoaded : let s := paged false (one fun c => { c with pendf := some 0x10000, why := some .longOp })
    (s.ctx 0).pendf = some (BitVec.ofNat 64 0x10000) ∧ (s.ctx 0).why = some .longOp ∧ (s.ctx 0).resume = none ∧
    s.frameAt (s.asker 0) (s.ctx 0).walkFail .load 0x10000 0 40 = .ok [⟨0x10000, 0x400000, 40, false, none⟩] ∧ s.badIn 0x400000 8 = none ∧
    s.badIn 0x400018 16 = none ∧ (s.rd64 0x400000).getLsbD 0 = false ∧ ((s.putByte 0x400000 1).rd64 0x400000).getLsbD 0 = true := by decide +kernel
theorem test_witness_DequeRefills : let s := (paged false (one id)).setCore 0 { Core.reset with refill := some 2, nblk := 3, dqspill := 0x10000,
                                                                                                dqtop := 64, dqbot := 256 }
    (s.core 0).refill = some 2 ∧ s.portRuns 0 = true ∧ (s.core 0).dqLen = 192 ∧ s.spillAt 0 .load = .at 0x400000 ∧
    s.badIn (0x400000 + 512 + 512 * 2) 512 = none ∧ ((List.range 64).all fun i => s.inRange (s.dqSlot 0 ((s.core 0).dqtop.toNat + 2 ^ 32 - 64 + i)) == false) = true ∧
    (s.core 0).dqtop.toNat = 64 ∧ ((one id).core 0).refill = none := by decide +kernel
theorem test_witness_SliceOfAShape : let s := (one (withX5 (win 0x7FF80))).wrN (spadKey 0 (0x7FF80 + 36)) 4 1
    let h := shapeOf (s.rdN (2 ^ 52 + 2 ^ 19 * (s.cur / 16) + 0x7FF80) 128)
    s.flows ∧ s.me.getS (.x 5) = BitVec.ofNat 64 (0x00F0000002000000 + 0x7FF80) ∧ s.me.armed = none ∧ s.me.recBad = false ∧ s.badIn (spadKey 0 0x7FF80) 128 = none ∧
    h.reserved = 0 ∧ h.gran = 1 ∧ h.pdim ≤ h.ndm1 ∧ (shapeOf ((one id).rdN (spadKey 0 0) 128)).gran = 0 ∧ (win 8).toNat % 64 ≠ 0 := by decide +kernel
theorem test_witness_EngineHeadsAreSent : (one id).flows ∧ (one id).me.buf = [] ∧ (one id).calm 0 .system none = true ∧ rmodeOf (one id).me.fctx < 6 := by
  decide +kernel
theorem test_witness_CopiesAreAccepted : let s := mapped (one fun c => { c with why := some .accept })
    let r : EngReq := ⟨.cpy, .core, 5, win 64, win 0, 8, 0⟩
    (s.ctx 0).why = some .accept ∧ (s.clu (0 / 1024)).cmds.length < 32 ∧ (copyList r).toOption = some none ∧
    (copyList { r with e := 4 }).toOption = none ∧
    s.probeCopy (s.asker 0) none (copyRows r []) =
      (.ok [⟨(win 0).toNat, spadKey 0 0, 8, false, none⟩], .ok [⟨(win 64).toNat, spadKey 0 64, 8, false, none⟩], [⟨spadKey 0 0, spadKey 0 64, 0, 1⟩]) ∧
    s.overlapping 0 (copyRows r []) none = none ∧ s.knownClash 0 r = .ok [] ∧ knownRanges r = [] := by decide +kernel
theorem test_witness_CopiesAreAccepted_list : let s := mapped (one fun c => { c with why := some .accept })
    let r : EngReq := ⟨.cpyt, .core, 5, win 64, win 0, win 128, 0⟩
    (copyList r).toOption = some (some ((win 128).toNat, 32)) ∧
    s.engRange (s.asker 0) none .load (win 128).toNat 32 = .ok [⟨(win 128).toNat, spadKey 0 128, 32, false, none⟩] ∧
    s.badPiece [⟨(win 128).toNat, spadKey 0 128, 32, false, none⟩] = none ∧
    ((keyWords (pieceKeys [⟨(win 128).toNat, spadKey 0 128, 32, false, none⟩])).all fun a => s.engReach 0 0 a != .held) = true ∧
    cpytWords [8, 0x10000, 1, 0] = .ok [] ∧ ((remapped (spaced (one id)) 1).cpytBlock ⟨0, 0, false⟩ [8, 0x10000, 1, 0]).1 = .ok [] := by decide +kernel
/-- A command of one word, or of none, with a frame for core 1 or without. -/
def copying (ms : List Move) (push : Option (Nat × Word)) (s : State) : State :=
  s.mapClu 0 fun c => { c with cmds := [⟨4, 0, 0, .core, ms, 0, push, [], false⟩] }
theorem test_witness_CopiesMoveWords : let s := copying [⟨spadKey 0 0, spadKey 0 64, 0, 1⟩] none (mapped (one id))
    s.form ∧ (s.clu 0).cmds.find? (·.seq == 4) = some ⟨4, 0, 0, .core, [⟨spadKey 0 0, spadKey 0 64, 0, 1⟩], 0, none, [], false⟩ ∧
    (let x : EngCmd := ⟨4, 0, 0, .core, [⟨spadKey 0 0, spadKey 0 64, 0, 1⟩], 0, none, [], false⟩
     s.copyReach x (spadKey 0 0) = .ok ∧ s.copyReach x (spadKey 0 64) = .ok ∧ s.inRange (spadKey 0 64) = false ∧ (s.core 0).feq = [] ∧ s.dirtyCopy (spadKey 0 0) = false ∧
      ({ s with poison := [spadKey 0 0] } : State).isBad (spadKey 0 0) = true) := by
  decide +kernel
theorem test_witness_CopyThenPush : let s := copying [] (some (1, 64)) (remapped (one id) 1)
    s.form ∧ (s.clu 0).cmds.find? (·.seq == 4) = some ⟨4, 0, 0, .core, [], 0, some (1, 64), [], false⟩ ∧ s.remapState 1 = 1 ∧ s.portFrozen 1 0 = false ∧
    (s.core 1).mode = .running ∧ (s.core 1).dqLen < 256 ∧ s.inRange (s.dqSlot 1 (s.core 1).dqbot.toNat) = false ∧ s.flying [] = false ∧ (copying [] (some (1, 64)) (one id)).remapState 1 = 0 ∧
    (copying [] (some (1, 64)) (remapped (one id) 3)).remapState 1 = 3 := by decide +kernel

theorem test_witness_ReductionsAreAccepted : let s := mapped (one fun c => { c with why := some .accept })
    let r : EngReq := ⟨.rdct .add, .core, 5, win 0, win 64, BitVec.ofNat 64 (2048 + 10 * 2 ^ 16 + 3 * 2 ^ 20), 0⟩
    (s.ctx 0).why = some .accept ∧ r.e.toNat = 2048 + 10 * 2 ^ 16 + 3 * 2 ^ 20 ∧ (s.clu 0).reds = [] ∧
    s.redFirst 0 3 = true ∧ s.spadPlace 0 r.b.toNat = some (spadKey 0 0) ∧ spadCore (spadKey 0 0) = 0 ∧
    s.engRange (s.asker 0) none .load r.b.toNat 8192 = .ok [⟨r.b.toNat, spadKey 0 0, 8192, false, none⟩] ∧ s.rankOf 0 = (0, 0, 1) ∧
    s.engRange (s.asker 0) none .store (win 8192).toNat 8192 = .ok [⟨(win 8192).toNat, spadKey 0 8192, 8192, false, none⟩] ∧
    overlaps (s.engPlace 0 (win 8192).toNat) 8192 (s.engPlace 0 r.b.toNat) 8192 = false ∧ (s.launch 0).broken 3 0 = none ∧ s.allReds = [] := by
  decide +kernel
theorem test_witness_CopiesMoveWords_dirty : let s : State := { (one id).setCore 0 { Core.reset with
      l1d := [⟨0, 0x10000, 0x400000, true, true, true, true, false, true⟩] } with poison := [0x400008] }
    s.dirtyCopy 0x400008 = true ∧ s.isBad 0x400008 = true := by decide +kernel
/-- A reduction of one F32 element, of rank 0 of one core or of rank 1 of two. -/
def red (rank : Nat) : Red :=
  ⟨4, 0, 0, .core, 0, 0, rank, 0, spadKey 0 0, 2, 10, .add, 0, if rank = 0 then [(spadKey 0 64, 8)] else [], none, [], 0, []⟩
/-- The state with reductions under way in cluster 0. -/
def reducing (l : List Red) : State := (mapped (one id)).mapClu 0 fun c => { c with reds := l }
theorem test_witness_ReductionsCombine :
    (let s := reducing [red 0]
     s.form ∧ (s.clu 0).reds.find? (·.seq == 4) = some (red 0) ∧ (red 0).result = none ∧ (red 0).out = [] ∧ redT (red 0).t = some .f32 ∧
     s.engReach 0 0 (red 0).src ≠ .held ∧ s.badIn (red 0).src 8 = none ∧ s.engReach 0 0 (spadKey 0 64) = .ok ∧
     s.inRange (spadKey 0 64) = false) ∧
    (let s := (reducing [red 0]).mapLaunch 0 fun x => { x with cores := [0, 1] }
     ((List.range 4).map fun i => 4 * 0 + 1 + i).filter (· < Nat.max 1 (s.launch 0).cores.length) = [1] ∧
     (s.redOf 0 0 0 1).bind (·.2.result) = none) ∧
    (let s := (reducing [red 0, { red 1 with seq := 5, result := some [1, 2] }]).mapLaunch 0 fun x => { x with cores := [0, 1] }
     (s.redOf 0 0 0 1).bind (·.2.result) = some [1, 2]) ∧
    (let x := { red 0 with out := [(spadKey 0 64, 5, 8)], result := some [5, 0] }
     ((reducing [x]).clu 0).reds.find? (·.seq == 4) = some x ∧ x.out ≠ [] ∧ x.rank = 0 ∧ x.result.isSome = true ∧ spadKey 0 64 % 8 = 0 ∧
     (reducing [x]).flying x.flits = false ∧ { x with out := [] }.out = []) := by decide +kernel
theorem test_witness_no_port_waits : ∀ n, ((reducing [red 0]).core n).feq = [] := fun _ => rfl
/-- A stream of one tile of one row of 64 bytes at VA 0x10000, written back there. -/
def stream : BitVec 512 :=
  BitVec.ofNat 512 (0x10000 + 0x10000 * 2 ^ 64 + 2 ^ 256 + 2 ^ 272 + 2 ^ 288 + 64 * 2 ^ 352)
/-- A subscription of two slots of a unit at the foot of core 0's scratchpad. -/
def sub : Sub := ⟨4, 0, 0, false, .core, spadKey 0 0, 1, 2, stream, 0, 0, [], .none⟩
/-- Cluster 0 has a subscription, whose words are empty, and returns. -/
def subscribed (u : Sub) (rs : List Ret) : State :=
  { (mapped (paged false (one id))).mapClu 0 fun c => { c with subs := [u], rets := rs } with
    empties := (List.range 18).map fun i => spadKey 0 (8 * i) }
theorem test_witness_Subscriptions :
    let s := (mapped (one fun c => { c with why := some .accept })).wrN (spadKey 0 4096) 64 stream.toNat
    let r : EngReq := ⟨.hdsub, .core, 5, win 0, win 4096, 0x20001, 0⟩
    (s.ctx 0).why = some .accept ∧ (s.clu 0).subs.length < 16 ∧ r.e.toNat = 1 + 2 * 2 ^ 16 ∧ r.b.toNat % 64 = 0 ∧ inWindow r.b.toNat = true ∧
    r.c.toNat % 64 = 0 ∧ s.engRange (s.asker 0) none .load r.c.toNat 64 = .ok [⟨r.c.toNat, spadKey 0 4096, 64, false, none⟩] ∧
    s.engRange (s.asker 0) none .store r.b.toNat 144 = .ok [⟨r.b.toNat, spadKey 0 0, 144, false, none⟩] ∧
    s.badPiece [⟨r.c.toNat, spadKey 0 4096, 64, false, none⟩] = none ∧
    ((keyWords (pieceKeys [⟨r.c.toNat, spadKey 0 4096, 64, false, none⟩])).all fun a => s.engReach 0 0 a != .held) = true ∧ streamOk (s.rdN (spadKey 0 4096) 64) 64 = true ∧
    s.engReach 0 0 (windowKey 0 r.b.toNat) = .ok := by decide +kernel
theorem test_witness_TilesAreFilled : let s := subscribed sub []
    let d := streamOf sub.desc.toNat
    s.form ∧ (s.clu 0).subs.find? (·.seq == 4) = some sub ∧ sub.tile < d.tiles ∧ d.rowlen = 64 ∧ d.rows = 1 ∧ d.hdr = false ∧
    ((List.range 8).all fun i => !s.isFull (sub.slot 0 + 8 * i)) = true ∧ s.isFull (sub.marker 0) = false ∧
    s.engReach sub.who sub.asid sub.ring = .ok ∧ s.inRange (sub.slot 0) = false ∧ s.inRange (sub.marker 0) = false ∧
    s.rowRange ⟨0, 0, false⟩ (fillUnit 0 4) .load (d.row d.base 0 0) 64 = .ok [⟨d.row d.base 0 0, 0x400000, 64, false, none⟩] ∧
    s.heldKey 0 0 .atomic 0x400000 = false ∧ s.isBad 0x400000 = false ∧ 2 ^ 52 ≤ sub.ring ∧
    (let u := { sub with work := ⟨1, [0, 8], [[(0x400000, 64)]]⟩ }
     swizzledFrom (runByte (u.work.rows.getD (d.at 8).1 [])) (d.at 8).2 d.swz = 0x400008 ∧
     ((subscribed u []).clu 0).subs.find? (·.seq == 4) = some u) ∧ ({ sub with work := ⟨3, [], []⟩ } : Sub).work.step = 3 := by decide +kernel
theorem test_witness_ReturnsAreAccepted :
    let s := { subscribed { sub with tile := 1 } [] with empties := [] }
    s.subOf 0 (5 * 2 ^ 32 + 4) = some { sub with tile := 1 } ∧ s.subOf 0 (5 * 2 ^ 32 + 3) = none ∧ ¬ 2 ≤ (0 : Nat) ∧
    s.engReach 0 0 sub.ring ≠ .held ∧ s.isFull (sub.marker 0) = true ∧ ({ sub with tile := 1 } : Sub).tileIn 0 = some 0 ∧ (s.clu 0).rets = [] ∧
    (subscribed sub []).isFull (sub.marker 0) = false := by decide +kernel
theorem test_witness_TilesAreReturned : let u := { sub with tile := 1 }
    let x : Ret := ⟨7, 0, 0, u, 0, 0, .core, .none, []⟩
    let s := subscribed u [x]
    let d := streamOf u.desc.toNat
    s.form ∧ (s.clu 0).rets.find? (·.seq == 7) = some x ∧ x.work.step = 0 ∧ d.wbbase ≠ 0 ∧ s.engReach u.who u.asid u.ring = .ok ∧ x.slot < u.ns ∧
    s.rowRange ⟨0, 0, false⟩ (returnUnit 0 7) .store (d.row d.wbbase 0 0) 64 = .ok [⟨d.row d.wbbase 0 0, 0x400000, 64, false, none⟩] ∧
    (streamOf 0).wbbase = 0 ∧
    (let y := { x with work := ⟨1, [0, 8], [[(0x400000, 64)]]⟩ }
     let dst := runByte (y.work.rows.getD (d.at 8).1 []) (d.at 8).2
     dst = 0x400008 ∧ isSpad dst = false ∧ isRemote dst = false ∧ s.heldKey 0 0 .atomic dst = false ∧
     s.isBad (swizzledFrom (fun k => u.slot 0 + d.off + (d.at 8).1 * d.rowlen + k) (d.at 8).2 d.swz) = false) ∧
    (∀ o, o ∈ wordOffs 0 64 → o < 64 * u.su) ∧ ({ x with work := ⟨3, [], []⟩ } : Ret).work.step = 3 ∧ s.flying x.flits = false := by decide +kernel
theorem test_witness_SubscriptionsEnd : let s := (subscribed sub []).mapMe (withX5 (5 * 2 ^ 32 + 4))
    s.flows ∧ s.me.buf = [] ∧ s.subOf (s.cur / 1024) (s.me.getS (.x 5)) = some sub ∧ s.subOf (s.cur / 1024) (s.me.getS (.x 0)) = none := by
  decide +kernel
theorem test_witness_Tokens : let s := (one (withX5 (3 * 2 ^ 32 + 0xFFFFFFFF))).mapClu 0 fun c => { c with cmds := [⟨0xFFFFFFFF, 0, 0, .core, [], 0, none, [], false⟩] }
    let c := s.clu 0
    s.me.getS (.x 5) = BitVec.ofNat 64 (3 * 2 ^ 32 + 0xFFFFFFFF) ∧ (s.seqNext 0 3 + 2 ^ 32 - 0xFFFFFFFF) % 2 ^ 32 = 1 ∧
    (s.seqNext 0 3 + 2 ^ 32 - 0) % 2 ^ 32 = 0 ∧ c.otherKind 3 0xFFFFFFFF = false ∧ c.busy 3 0xFFFFFFFF = true ∧ s.flows ∧
    (let c := ((one id).mapClu 0 fun c => { c with done := [⟨3, 0xFFFFFFFF, 2, .core⟩] }).clu 0
     c.busy 3 0xFFFFFFFF = false ∧ c.done.find? (fun x => x.kind == 3 && x.seq == 0xFFFFFFFF) = some ⟨3, 0xFFFFFFFF, 2, .core⟩) ∧
    36 ≤ (2 ^ 36 : Word).toNat.log2 ∧ bits (7 * 2 ^ 32 : Word).toNat 35 32 = 7 := by decide +kernel
theorem test_witness_OpticalHeadsAreSent : passOfm .omx .f32 (one id).me.fctx = some .f32 ∧ rmodeOf (one id).me.fctx < 6 := by decide +kernel
/-- Context 0 waits for the OMU of its cluster, which is ready and TRACKING, with an image; f changes the OMU. -/
def atOmu (f : Omu → Omu) : State :=
  ((mapped (paged false (one fun c => { c with why := some .accept }))).setReady 10 0 true).mapOmu 0 fun o =>
    f { o with gov := 1, live := some 0, waiting := [(0, .omx, 0)] }
/-- Whether the unit is present at all is the module's own (log entry 3); it is assumed here. -/
theorem test_witness_OpticalHeadsAreAccepted (_ : Config.omuPresent 0 = true) : let s := atOmu id
    let o := s.omu 0
    (s.ctx 0).why = some .accept ∧ o.reached 0 2 = true ∧ behind o.waiting 0 .omx = false ∧ behind o.waiting 0 .phld = false ∧
    behind o.waiting 0 .phsw = false ∧ o.swapping = false ∧ s.omuUp 0 = true ∧ o.gov ≠ 0 ∧ o.gov ≠ 3 ∧
    o.queue = [] ∧ (s.clu 0).mill.length < 17 ∧ (s.clu 0).ranges.length < 8 ∧
    s.vaRange (s.asker 0) none .load 0x10000 16384 = .ok [⟨0x10000, 0x400000, 16384, false, none⟩] ∧
    s.vaRange (s.asker 0) none .store 0x14000 16456 = .ok [⟨0x14000, 0x404000, 16456, false, none⟩] ∧
    s.vaRange (s.asker 0) none .load 0x10040 16448 = .ok [⟨0x10040, 0x400040, 16448, false, none⟩] := by decide +kernel
theorem test_witness_OpticalHeadsAreAccepted_pass :
    let s := (atOmu id).wrN (spadKey 0 0) 16 (4 * 2 ^ 32 + 2 ^ 48 + 2 ^ 64)
    (s.checkPass 0 ⟨.omx, .mark, .f32, 5, win 0, win 0x1000, BitVec.ofNat 64 (64 * 2 ^ 48 + 4 * 2 ^ 32 + 2 ^ 16), 0⟩ matches .ok _) = true := by
  decide +kernel
theorem test_witness_OpticalRefusals : let s := atOmu fun o => { o with gov := 0 }
    (s.ctx 0).why = some .accept ∧ ((s.omu 0).reached 0 2 = true ∧ behind (s.omu 0).waiting 0 .omx = false ∧ (s.omu 0).swapping = false) ∧
    (!Config.omuPresent 0 || !s.omuUp 0 || (s.omu 0).gov == 0) = true ∧ ((atOmu fun o => { o with gov := 3 }).omu 0).gov = 3 ∧
    (8 : Word).toNat % 64 ≠ 0 := by
  refine ⟨by decide +kernel, by decide +kernel, ?_, by decide +kernel, by decide⟩
  rw [show ((atOmu fun o => { o with gov := 0 }).omu 0).gov = 0 by decide +kernel]; simp
theorem test_witness_PhaseBanks :
    ((atOmu fun o => { o with queue := [.load 4 0 0 []] }).omu 0).queue = [.load 4 0 0 []] ∧
    ((atOmu fun o => { o with queue := [.swap 0 5], shadow := some 1 }).omu 0).queue = [.swap 0 5] ∧
    ((atOmu fun o => { o with shadow := some 1 }).omu 0).shadow = some 1 ∧ ((atOmu id).omu 0).shadow = none := by decide +kernel
/-- A pass of one row into core 0's scratchpad, with its tag behind it. -/
def onePass (f : Pass → Pass) : Pass :=
  f { seq := some 4, who := 0, asid := 0, form := .omx, pol := .split, ofm := .ph16, d := 5, fctx := 8, tile := spadKey 0 0, row0 := 0, rows := 1, rstride := 1,
      scoff := 4, dst := spadKey 0 0x1000, dstride := 2, toff := 64, tag := spadKey 0 0x2000, image := 0, exact := false, run := 0, row := 0, probe := false, probes := [],
      eNow := 0, eFin := 0, eHigh := 0, mark := false, split := false, lowered := 0, exps := [], flags := 0, status := 0,
      aborted := false, late := [], parked := false }
/-- The OMU of cluster 0 streams a pass. -/
def streams (p : Pass) : State := atOmu fun o => { o with queue := [.pass p] }
theorem test_witness_PassRows : let p := onePass id
    let s := streams p
    s.form ∧ s.streaming 0 = some p ∧ p.probe = false ∧ p.row < p.rows ∧ p.run ≠ 1 ∧ s.engReach p.who 0 p.dst = .ok ∧
    s.blocked p.id (p.rowKey 0) 128 = false ∧ (onePass fun p => { p with aborted := true }).aborted = true ∧ 2 ^ 52 ≤ p.rowKey 0 ∧ (onePass fun p => { p with run := 1 }).run = 1 := by decide +kernel
theorem test_witness_Probes :
    ((atOmu fun o => { o with queue := [.prbe 0 5] }).omu 0).queue = [.prbe 0 5] ∧ ((atOmu id).omu 0).live ≠ none ∧
    ((atOmu fun o => { o with live := none }).omu 0).live = none ∧
    (let p := onePass fun p => { p with probe := true }
     (streams p).streaming 0 = some p ∧ p.row = 0) ∧
    (let p := onePass fun p => { p with probe := true, row := 1 }
     (streams p).streaming 0 = some p ∧ p.row ≠ 0) := by decide +kernel
theorem test_witness_PassesEnd :
    (let p := onePass fun p => { p with row := 1 }
     (streams p).form ∧ (streams p).streaming 0 = some p ∧ (streams p).parkedPasses 0 = [] ∧ p.late = [] ∧ p.row = p.rows ∧ p.run = 0 ∧ p.pol = .split ∧ p.ebc p.eNow < p.ebcmin) ∧
    (let p := onePass fun p => { p with row := 1, run := 1 }
     (streams p).streaming 0 = some p ∧ p.run = 1) ∧
    (let p := onePass fun p => { p with row := 1, eNow := 1, exps := [(0, 3)] }
     (streams p).streaming 0 = some p ∧ p.ebcmin ≤ p.ebc p.eNow ∧ (streams p).engReach 0 0 p.tag = .ok ∧
     (streams p).tagsWait p = false ∧ (streams p).savedFor 0 0 = false ∧ (p.exps.map (·.1)).Nodup ∧ 2 ^ 52 ≤ p.tag) ∧
    (let p := onePass fun p => { p with row := 1, aborted := true, exps := [(0, 3)] }
     (streams p).streaming 0 = some p ∧ (streams p).tagsWait p = false) := by
  decide +kernel
theorem test_witness_BuiltImagesAreValid : normalPos 0x00800000 = true ∧ normalPos 0x7F7FFFFF = true := by decide
/-- A decomposition of the F32 block at PA 0x400000 into the image at PA 0x404000. -/
def decomp : Decomp := ⟨4, 0, 0, false, 0, [(0x400000, 16384)], [(0x404000, 16456)], [], []⟩
/-- Cluster 0's millwright has it. -/
def milling : State := (one id).mapClu 0 fun c => { c with mill := [decomp] }
theorem test_witness_Decompositions : let s := milling
    s.form ∧ (s.clu 0).mill = [decomp] ∧ (decomp.block ++ decomp.image).all (fun r => s.engReach 0 0 r.1 == .ok && !s.inRange r.1) = true ∧
    s.badIn 0x400000 16384 = none ∧ 0x404000 + 16456 ≤ 2 ^ 52 ∧ ([(0x404000, 5, 7)].map fun o : Nat × Nat × Nat => o.1).Nodup ∧ 0x404000 % 8 = 0 ∧ ({ decomp with out := [(0x404000, 5)] } : Decomp).out ≠ [] := by decide +kernel
theorem test_witness_Governor :
    (let s := { (atOmu fun o => { o with gov := 0 }) with light := 15, mgmt := { Mgmt.reset with running := some false } }
     (s.omu 0).gov = 0 ∧ (s.omu 0).calibrating = false ∧ s.fwRuns = true ∧ s.light.getLsbD (lightSite 0) = true ∧ s.hostMode 1 = false ∧
     s.mgmt.assists = []) ∧
    ((atOmu fun o => { o with calibrating := true }).omu 0).calibrating = true ∧
    (let s := { (atOmu id).setReady 2 0 true with cycle := 2 ^ 20 }
     s.cycle < (s.omu 0).changed + 2 ^ 20 + 1 ∧ (s.omu 0).changed + 2 ^ 20 ≤ s.cycle ∧ (s.omu 0).loopAt + 2 ^ 16 ≤ s.cycle) ∧
    (atOmu id).cycle < ((atOmu id).omu 0).changed + 2 ^ 20 ∧ ((atOmu id).setReady 2 0 true).clusterUp 0 = true ∧
    (let s : State := { atOmu fun o => { o with gov := 3 } with cycle := 2 ^ 26 }
     (s.omu 0).gov = 3 ∧ (s.omu 0).drifting + 2 ^ 26 ≤ s.cycle ∧ (s.omu 0).queue = []) := by decide +kernel

theorem test_witness_blocks : (blockInts fmtF32 (envOf 0) (blockElems false 0)).isSome = true ∧
    blockInts fmtF32 (envOf 0) (blockElems false 0x7FC00000) = none := by decide +kernel
theorem test_witness_SystemRegisterReads : (one asSys).me.sys = true ∧ (one id).me.sys = false ∧ (one id).flows ∧
    (0x3FF#12 < 0x400#12) ∧ (0x41F#12 < 0x420#12) ∧ (0x41F#12 = BitVec.ofNat 12 (0x400 + (31 : Fin 32).val)) := by decide
theorem test_witness_SystemRegisterWrites :
    (2 : Word) &&& 0xFFFFFFFFFFFFFFFC#64 = 0 ∧ (4 : Word) &&& 0xFFFFFFFFFFFFFFFC#64 ≠ 0 ∧ (0x00FFFFFFFFFFFFFE : Word) &&& 0xFF00000000000001#64 = 0 ∧
    (0x00FFFFFFFFFFFFFE : Word).toNat / 2 % 32 ≠ 0 ∧ (0x00FFFFFFFFFFFFC0 : Word).toNat / 2 % 32 = 0 := by decide
theorem test_witness_HeadIndexZeroIsReserved : (one fun c => withX5 0x1000 (asSys c)).me.sys = true ∧
    ((one fun c => withX5 0x1000 (asSys c)).me.getS (.x 5)).toNat / 2 % 32 = 0 := by decide
theorem test_witness_CoreRegisterWrites : let s := one (withX5 0xFFFFFF00)
    s.cur % 16 = 0 ∧ (three id).cur % 16 ≠ 0 ∧ (0x7F800 : Word) &&& ~~~0x7F800#64 = 0 ∧ (s.core 0).dqLen = 0 ∧
    (s.me.getS (.x 5)).toNat < 2 ^ 32 ∧ ((s.core 0).dqbot.toNat + 2 ^ 32 - (s.me.getS (.x 5)).toNat) % 2 ^ 32 = 256 ∧
    ((256 : Word).toNat + 2 ^ 32 - (s.core 0).dqtop.toNat) % 2 ^ 32 = 256 ∧ (0x00FFFFFFFFFFF000 : Word) &&& 0xFF00000000000FFF#64 = 0 ∧
    (s.core 0).nblk = 0 ∧ ({ Core.reset with nblk := 1 } : Core).nblk ≠ 0 ∧ ({ Core.reset with dqbot := 1 } : Core).dqLen ≠ 0 := by decide +kernel
/-- A launch record for context 0 of core 1 at 0x1002. -/
def record : Nat := 1 + 64 + 2 ^ 16 + 2 ^ 32 + 0x1002 * 2 ^ 64 + 2 ^ 1280
/-- Core 1 of a ready cluster is mapped; the own scratchpad holds bytes at its foot. -/
def withRecord (n v : Nat) (f : Ctx → Ctx) : State :=
  (((remapped (spaced (one fun c => withX5 (win 0) (f c))) 1).setReady 0 0 true).setReady 2 0 true).wrN (spadKey 0 0) n v
/-- The runs of a block at the foot of the own scratchpad. -/
def lines (n : Nat) : List Piece := (List.range n).map fun i => ⟨(win 0).toNat + 64 * i, spadKey 0 (64 * i), 64, false, none⟩
theorem test_witness_Launches : let s := { withRecord 256 record id with rdyNew := Vector.replicate 32 0 }
    let r : BitVec 2048 := BitVec.ofNat 2048 (s.readKeys (pieceKeys (lines 4)))
    s.flows ∧ s.me.buf = [] ∧ s.me.armed = none ∧ s.me.recBad = false ∧ s.quiet 0 .device none = true ∧ s.blockMe .load (s.me.getS (.x 5)).toNat 256 = .ok (lines 4) ∧ s.badPiece (lines 4) = none ∧
    r.toNat = record ∧ recBad r = false ∧ recCores r = [1] ∧ s.launchRefused r = none ∧ bits r.toNat 447 384 = 0 ∧
    recBad 0 = true ∧ s.launchRefused (r ||| 2 ^ 147) = some 7 := by decide +kernel
theorem test_witness_Placement : let s : State := { remapped (one fun c => { c with why := some .longOp }) 1 with
      launches := [(0, { Launch.none with live := true, cores := [1], record := BitVec.ofNat 2048 record, waiter := some (0, 5) })] }
    (s.launch 0).live = true ∧ 1 ∉ (s.launch 0).placed ∧ s.remapState 1 = 1 ∧ (s.launch 0).waiter = some (0, 5) ∧ 0 / 16 ≠ 1 ∧
    (s.ctx 0).why = some .longOp ∧ (s.launch 0).placed.length + 1 = (s.launch 0).cores.length := by decide +kernel
theorem test_witness_LaunchesEnd :
    (let s := (launched State.reset).mapLaunch 0 fun x => { x with placed := [0] }
     (s.launch 0).acting = false ∧ s.launchHalted 0 = true ∧ s.launchQuiet 0 = true ∧ bits (s.launch 0).record.toNat 1345 1344 = 0 ∧
     (s.core 0).launch = some 0) ∧
    (launched (one id)).launchHalted 0 = false ∧
    (let s := (launched (paged false State.reset)).mapLaunch 0 fun x =>
       { x with acting := true, record := BitVec.ofNat 2048 (2 ^ 1344 + 0x10008 * 2 ^ 1408 + 7 * 2 ^ 1472) }
     let va := bits (s.launch 0).record.toNat 1471 1408
     s.form ∧ (s.launch 0).acting = true ∧ bits (s.launch 0).record.toNat 1345 1344 = 1 ∧ inWindow va = false ∧
     s.heldKey 0 0 .atomic 0x400008 = false ∧ va < 2 ^ 56 ∧
     s.devRange ⟨0, 0, true⟩ (launchUnit 0) .store va 8 = .ok [⟨0x10008, 0x400008, 8, false, none⟩] ∧ s.badPiece [⟨0x10008, 0x400008, 8, false, none⟩] = none) := by
  decide +kernel
theorem test_witness_StartAndReap : let s := withRecord 16 (0x1002 + 7 * 2 ^ 64) id
    let p : Piece := ⟨(win 0).toNat, spadKey 0 0, 16, false, none⟩
    s.flows ∧ s.cur % 16 = 0 ∧ (three id).cur % 16 ≠ 0 ∧ (s.me.getS (.x 5)).toNat % 16 = 0 ∧ s.resolveMe .load (s.me.getS (.x 5)).toNat 16 = .ok [p] ∧
    s.badPiece [p] = none ∧ s.me.buf = [] ∧ s.me.armed = none ∧ s.me.recBad = false ∧ s.quiet 0 .core none = true ∧ (mapped s).remapState 0 = 1 ∧ (s.ctx 3).asyncs = [] ∧ (s.ctx 3).buf = [] ∧
    (s.ctx 3).run = .halted ∧ goodPc (s.rdN p.key 16 % 2 ^ 64) = true ∧
    goodPc ((withRecord 16 0 id).rdN p.key 16 % 2 ^ 64) = false ∧
    ((s.mapCtx 3 fun c => { c with run := .running }).ctx 3).run = .running ∧ ((s.mapCtx 3 fun c => { c with run := .held }).ctx 3).run = .held := by
  decide +kernel
theorem test_witness_ContextImages : let s := withRecord 1024 0 asSys
    s.flows ∧ s.me.sys = true ∧ (one id).me.sys = false ∧ (8 : Word).toNat % 64 ≠ 0 ∧ (s.me.getS (.x 5)).toNat % 64 = 0 ∧
    pieceKeys (lines 16) = (List.range 1024).map (spadKey 0 0 + ·) ∧ s.form ∧ s.blockMe .store (s.me.getS (.x 5)).toNat 1024 = .ok (lines 16) ∧
    s.blockMe .load (s.me.getS (.x 5)).toNat 1024 = .ok (lines 16) ∧ s.badPiece (lines 16) = none ∧ (s.ctx 3).run = .halted ∧
    spadKey 0 0 % 8 = 0 ∧ (s.ctx 3).buf = [] ∧ ((List.range 128).all fun i => s.canPerform 0 0 (spadKey 0 0 + 8 * i)) = true ∧
    ((s.mapCtx 3 fun c => { c with run := .running }).ctx 3).run = .running ∧ imageOk (s.rdN (spadKey 0 0) 1024) = false ∧
    imageOk ((s.putByte (spadKey 0 832) 2).rdN (spadKey 0 0) 1024) = true ∧
    bits ((s.putByte (spadKey 0 832) 2).rdN (spadKey 0 0) 1024) 6722 6720 = 0 ∧ (s.core 0).saved = none := by decide +kernel
theorem test_witness_ImagesComeBack : Ctx.reset.x[0] = 0 ∧ Ctx.reset.k[0] = 0 ∧ Ctx.reset.tvec.getLsbD 0 = false := by decide
theorem test_witness_SaversAndMovers : let s := remapped (spaced (one fun c => withX5 1 (asSys c))) 1
    s.flows ∧ (one id).me.sys = false ∧ s.me.sys = true ∧ (s.me.getS (.x 5)).toNat % 2 ^ 21 = s.pkg * 2 ^ 15 + 1 ∧ s.remapState 1 = 1 ∧
    s.partOf 0 = some 0 ∧ (one id).partOf 0 = none ∧ (s.core 1).mode ≠ .saved ∧ s.pickSpare 0 none = none ∧ s.migrStarts 1 = false ∧ (s.clu 0).migReqs = [] ∧
    (remapped s 3).remapState 1 = 3 ∧ (one id).remapState 1 = 0 := by decide +kernel
/-- That a column is good is the module's own harvest (log entry 3); it is assumed here. -/
theorem test_witness_SaversAndMovers_spare (h : Config.goodColumn 63 = true) :
    (((remapped (one id) 1).mapClu 0 fun c => { c with spares := [63] }).mapCol 63 fun _ => { Column.reset with sampled := true }).pickSpare 0 none ≠
      none := by
  simp [State.pickSpare, State.eligible, State.mapCol, State.sparesOf, State.mapClu, State.setClu, State.clu, remapped, one, tget,
    tset, State.col, h, State.reset, Column.reset]
theorem test_witness_SaversAndMovers_block : let t := launched (withRecord 16 (1 + 0x10000 * 2 ^ 64) asSys)
    let s := (t.setCore 1 (t.core 0)).mapCtx 16 fun c => { c with run := .running }
    let s := s.mapClu 0 fun c => { c with tlb := [⟨0, 0, 20, 0x400000, true, true, true, true, false, 0, [], 0⟩] }
    let p : Piece := ⟨(win 0).toNat, spadKey 0 0, 16, false, none⟩
    s.resolveMe .load (s.me.getS (.x 5)).toNat 16 = .ok [p] ∧ s.badPiece [p] = none ∧ s.rdN p.key 16 / 2 ^ 64 % 65536 = 0 ∧
    s.rdN p.key 16 % 2 ^ 21 = 1 ∧ s.remapState 1 = 1 ∧ (s.core 1).mode = .running ∧ (s.core 1).saved = none ∧ s.inLaunch 1 = true ∧
    (withRecord 16 1 asSys).inLaunch 1 = false ∧ (s.ctx (16 * 1)).run = .running ∧ (s.saveBlockMe .store 0x10000 matches .ok _) = true ∧ s.cur / 16 ≠ 1 := by
  decide +kernel
theorem test_witness_SaversAndMovers_errinj : (one id).mgmt.injection = false ∧ ({ Mgmt.reset with injection := true } : Mgmt).injection = true ∧
    3 ≤ (3 : Word).toNat % 16 ∧ 7 < (8 : Word).toNat % 16 := by decide
theorem test_witness_IssueEvents :
    (let s := (one fun c => { c with why := some .recv, tvec := 0x2002 }).setCore 0 { Core.reset with pending := [⟨3, 1, 7, false, false⟩] }
     (s.core 0).mode = .running ∧ (s.core 0).pending = [⟨3, 1, 7, false, false⟩] ∧ (s.ctx 0).run = .running ∧ (s.ctx 0).intv = false ∧
     (s.ctx 0).got = none ∧ (s.ctx 0).held = false ∧ (s.ctx 0).why = some .recv ∧ goodPc (tvecAddr (s.ctx 0).tvec) = true) ∧
    (let s := three fun c => { c with run := .halted, asyncs := [⟨0x28, 5⟩] }
     (s.ctx 3).run = .halted ∧ (s.ctx 3).asyncs = [⟨0x28, 5⟩] ∧ 3 % 16 ≠ 0) ∧
    (let s := paged false (one fun c => { c with pc := 0x10002, why := some .line })
     (s.ctx 0).why = some .line ∧ s.badIn 0x400000 64 = none ∧ s.askSlice (s.asker 0) none (lineAddr (s.ctx 0).pc) .fetch = .ok 0x400000 ∧
     s.pageOf (s.asker 0) (lineAddr (s.ctx 0).pc) = some ⟨0, 0x10000, 16, 0x400000, true, true, true, true, false, 0, [], 0⟩ ∧
     (∀ bank, bank ∈ s.bankFor (s.asker 0) (lineAddr (s.ctx 0).pc) 0x400000 → s.shutFor .fetch (fieldOf (coreOf 0)) bank 0x400000 = false)) := by decide +kernel

theorem test_witness_TranslationChecks : let s := paged false (one id)
    let q : Asker := ⟨0, 0, false⟩
    let e : TEntry := ⟨0, 0x10000, 16, 0x400000, true, true, true, true, false, 0, [], 0⟩
    s.asidOk 0 0 = true ∧ (one id).asidOk 0 0 = false ∧ tlbFind (s.clu (sliceOf 0 0x1FFFF)).tlb 0 0x1FFFF = some e ∧
    s.paReach 0 0x40FFFF .load = true ∧ s.homeIn 0 0 0x40FFFF = true ∧ s.paReach 0 0x021871200000 .load = false ∧
    hasRight .load e.r e.w e.x = true ∧ e.app = true ∧ hasRight .store true false true = false ∧ q = s.asker 0 ∧
    tlbFind (s.clu (sliceOf 0 0x20000)).tlb 0 0x20000 = none ∧ s.askSlice q none 0x20000 .load = .miss ∧
    walkFind (s.clu (sliceOf 0 0x20000)).walks 0 2 = none := by decide +kernel
/-- A pending walk of granule 1 of ASID 0 in field 0 that context 0 waits for. -/
def aWalk (ph : WalkPhase) : Walk := ⟨0, 1, 0, [0], ph, true, false, false, false, false, 0, 0, false, false⟩
/-- Cluster 0 has that walk under way, with tables that map the first 2^30 bytes by a leaf (R414 to R418); the ASID may use the host's. -/
def walking (ph : WalkPhase) (leaf : Byte) : State :=
  { (one fun c => { c with why := some .parked }).mapClu 0 fun c => { c with walks := [aWalk ph] } with
    mem := [(0, 1), (2, 1), (0x10000, leaf), (0x20001, 0x40), (0x200000, 5)],
    parts := State.reset.parts.set 0 (0x100000001 + 0x20 * 2 ^ 128) }
theorem test_witness_Walks : let s := walking .device 0x27
    s.walkOf 0 0 1 = some (aWalk .device) ∧ s.asidOk 0 0 = true ∧ s.walkShut 0 0x10000 = false ∧ (aWalk .device).rw = false ∧ (s.ctx 0).why = some .parked ∧ s.walk 0 0x10000 = .leaf 30 0x27 ∧
    (s.checkEntry ⟨0, 0, false⟩ (leafEntry 0 0x10000 30 0x27) 0x10000 .load = .ok 0x10000) ∧ (s.clu 0).tlb.length < 4096 ∧
    (walking .device 0x26).walk 0 0x10000 = .fault none ∧ (walking .device 0x67).walk 0 0x10000 = .leaf 30 0x67 ∧
    (s.asidEntry 0).testBit 2 = true := by decide +kernel
theorem test_witness_PinsEnd :
    let e : TEntry := ⟨0, 0x10000, 16, 0x400000, true, true, true, true, false, 0, [0], 0⟩
    (((one id).setClu 0 { Cluster.reset with tlb := [e] }).clu 0).tlb = [e] ∧ e.pin ≠ [] ∧ (one id).pinned e = true ∧
    e.pinnedAt + 4096 ≤ ({ one id with cycle := 4096 } : State).cycle := by decide +kernel
theorem test_witness_HostManagedPages : let s := walking .ats 0x67
    s.walkOf 0 0 1 = some (aWalk .ats) ∧ s.walk 0 0x10000 = .leaf 30 0x67 ∧ (0x67 : Nat).testBit 2 = true ∧ s.hostMode 2 = false ∧
    (s.link 0).stopped = false ∧
    s.checkEntry ⟨0, 0, false⟩ { leafEntry 0 0x10000 16 0x67 with pa := 2 ^ 51 + 0x10000, w := false, x := false } 0x10000 .load = .ok (2 ^ 51 + 0x10000) ∧
    (walking .pageSent 0x67).walkOf 0 0 1 = some (aWalk .pageSent) ∧
    (let s : State := { walking .pageWait 0x67 with links := [(0, { HostLink.reset with priOn := true, alloc := 1, groups := [(0, 0, 1)] })] }
     (s.link 0).groups = [(0, 0, 1)] ∧ (s.link 0).priOn = true ∧ (s.pagesOut 0).length < (s.link 0).alloc ∧ (s.pagesOut 0).length < s.mgmt.priCap) ∧
    ({ HostLink.reset with groups := [(0, 0, 1)] } : HostLink).priOn = false := by decide +kernel
theorem test_witness_Invalidations :
    let s : State := { (one id).setCore 0 { Core.reset with l1d := [⟨0, 0x10000, 0x400000, true, true, true, true, false, false⟩] } with
      mgmt := { Mgmt.reset with running := some true, invals := [(none, some 0, 0, 2 ^ 56)] } }
    (s.cores.all fun p => p.2.l1d.all fun d => !d.dirty) = true ∧ s.fwRuns = true ∧ s.mgmt.invals = [(none, some 0, 0, 2 ^ 56)] ∧
    s.oldAccess (some 0) 0 (2 ^ 56) = false ∧
    (s.mapMe fun c => { c with buf := [.store [⟨0x10000, 0x400000, 1, false, none⟩] [(0x400000, 1)] 0 [0x400000] none false] }).oldAccess (some 0) 0 (2 ^ 56) = true := by decide +kernel
theorem test_witness_HostAccesses : let s := one id
    s.form ∧ s.bar2Ok 0 (hbmTop - 8) 8 = true ∧ s.bar2Ok 0 (hbmTop - 7) 8 = false ∧ s.isBad (hbmTop - 8) = false ∧ s.fnServes 0 = true ∧
    (hbmTop - 8) % 8 = 0 ∧ s.homeShut (hbmTop - 8) = false ∧ ((wordsOf (hbmTop - 8) 8).all fun v => !s.onCellPage v) = true ∧ s.badIn (hbmTop - 8) 8 = none ∧ s.rdN (hbmTop - 8) 8 = (0 : Word).toNat % 256 ^ 8 ∧ s.rdN (hbmTop - 8) 8 ≠ (1 : Word).toNat % 256 ^ 8 := by decide +kernel
/-- A port site 0 of package 0 of two, in a state of its own. -/
def ported (p : Port) : State := { spaced (one id) with groupN := 2, light := 15, ports := [(0, p)] }
theorem test_witness_Rotor :
    (let s := ported { Port.reset with state := 2, valid := [1] }
     2 ≤ s.groupN ∧ s.light.getLsbD 0 = true ∧ (s.port 0).state = 2 ∧ rotorPeer 2 0 (s.slotAt 0) 0 = 1 ∧ (s.port 0).valid.contains 1 = true ∧
     (s.port 0).run < 3 ∧ -40 ≤ (-40 : BitVec 16).toInt ∧ (40 : BitVec 16).toInt ≤ 40 ∧ 40 < (41 : BitVec 16).toInt) ∧
    ((ported { Port.reset with state := 2, run := 3 }).port 0).run = 3 ∧ ((ported { Port.reset with state := 1 }).port 0).state = 1 ∧
    ((ported { Port.reset with state := 3 }).port 0).state = 3 ∧
    -10 ≤ (Port.reset.offset).toInt ∧ (Port.reset.offset).toInt ≤ 10 ∧ 10 < (11 : BitVec 16).toInt := by decide +kernel
theorem test_witness_FlitsAndMarkers : let s : State := { ported { Port.reset with state := 2 } with mem := [(8, 2), (0x200000, 1)], enlSeen := [(1, 4)] }
    s.form ∧ s.normPa 0x400000 = 0x400000 ∧ s.hears 0 1 = true ∧ s.placeHeld 0 0x400000 8 true = false ∧ ((wordsOf 0x400000 8).all fun v => !s.onCellPage v) = true ∧ isRemote 0x400000 = false ∧ (1, 4) ∈ s.enlSeen ∧ (1, 5) ∉ s.enlSeen ∧ s.flitOk 1 0 0 0x400000 1 = true ∧
    s.flitOk 2 0 0 0x400000 1 = false ∧ (1, 0, 0) ∉ s.enlRefused ∧ 1 ≠ s.pkg := by decide +kernel
theorem test_witness_Errors : scrubber 0 0 = none ∧ scrubber 3 5 = some (5, 8192) ∧ State.reset.form ∧
    tget State.reset.mgmt.scrub 5 8 ≠ 0 ∧ (tget State.reset.scrubAt 5 (0, 0)).2 ≤ State.reset.cycle ∧
    tget ({ Mgmt.reset with scrub := [(5, 0)] } : Mgmt).scrub 5 8 = 0 ∧ 64 ≠ 64 * (tget State.reset.scrubAt 5 (0, 0)).1 ∧
    State.reset.cycle < (tget ({ State.reset with scrubAt := [(5, 0, 9)] } : State).scrubAt 5 (0, 0)).2 ∧
    (State.reset.ctx 0).armed = none ∧ (State.reset.ctx 0).latent = [] := by decide +kernel
/-- Which columns are good is the module's own harvest (log entry 3); it is assumed here. -/
theorem test_witness_Heartbeats (h0 : Config.goodColumn 0 = true) (h1 : Config.goodColumn 1 = true) (h8 : Config.goodColumn 8 = false) :
    nbrOf 0 1 = some 1 ∧ nbrOf 1 3 = some 0 ∧ nbrOf 0 0 = none ∧ nbrOf 0 2 = none ∧ nbrOf 0 3 = none := by
  have c (p q : Nat) (d : Nat) (h : colAt p q = some d) (g : Config.goodColumn d = true) : (colAt p q).filter Config.goodColumn = some d := by
    simp [h, g]
  refine ⟨c 33 0 1 (by decide) h1, c 32 0 0 (by decide) h0, ?_, ?_, ?_⟩
  · decide +kernel
  · show (colAt 32 1).filter Config.goodColumn = none
    rw [show colAt 32 1 = some 8 by decide]; simp [h8]
  · show (colAt 31 0).filter Config.goodColumn = none
    rw [show colAt 31 0 = none by decide]; rfl
theorem test_witness_Heartbeats_state :
    (let s := State.reset.mapCol 0 fun _ => { Column.reset with nbr := 2 }
     s.isMoving 1 = false ∧ s.cycle % 2000 ≤ 1000 ∧ (s.col 0).beatFrom ≤ s.cycle / 2000 ∧ (s.seenBy 0 1).rsv = 0 ∧ (s.col 0).nbr.getLsbD 1 = true ∧ (s.seenBy 0 1).appeal = none ∧ (s.col 0).susp.getLsbD 1 = false ∧
     (s.seenBy 0 1).beats = 0 ∧ (s.seenBy 0 1).crcs = 0 ∧ (s.seenBy 0 1).flits ≤ 3 ∧ (s.seenBy 0 1).judged = false ∧ (s.col 0).state ≠ 2 ∧ (s.col 0).miss[1] < 2) ∧
    ({ Column.reset with state := 2 } : Column).state = 2 := by decide +kernel
theorem test_witness_FenceAndAppeal : let s := (remapped (one id) 1).mapCol 1 fun _ => { Column.reset with state := 2 }
    (s.col 1).state = 2 ∧ s.isMoving 1 = false ∧ s.coreAt 1 = some 1 ∧ (s.col 0).state ≠ 2 ∧ (s.col 1).fails + (s.col 1).tests < 3 ∧
    (s.col 1).fencedAt + 1000000 ≤ ({ s with cycle := 1000000 } : State).cycle ∧ (s.col 2).state ≠ 3 ∧
    ({ Column.reset with state := 3 } : Column).state = 3 := by decide +kernel
theorem test_witness_FenceAndAppeal_suspects (h : Config.goodColumn 0 = true) (k : nbrOf 1 0 = none) (l : nbrOf 1 1 = none) (m : nbrOf 1 2 = none) :
    let s := State.reset.mapCol 0 fun _ => { Column.reset with susp := 2 }
    s.isMoving 1 = false ∧ (s.suspects 1).contains 3 = true := by
  have n : nbrOf 1 3 = some 0 := by
    show (colAt 32 0).filter Config.goodColumn = some 0
    rw [show colAt 32 0 = some 0 by decide]; simp [h]
  refine ⟨by decide +kernel, ?_⟩
  simp [State.suspects, List.range, List.range.loop, k, l, m, n, State.col, State.mapCol, tget, tset, State.reset, oppDir]
theorem test_witness_Samples : let s := remapped (one id) 1
    s.hostMode 5 = false ∧ (one id).coreAt 1 = none ∧ (s.col 1).sampleAt ≤ s.cycle ∧ (s.clu 0).sampleAt ≤ s.cycle ∧ (1359 : BitVec 12).toInt < 1360 ∧ s.coreAt 1 = some 1 ∧ s.remapState 1 = 1 ∧ (s.core 1).stalled = false ∧ s.requested 1 = false ∧
    (s.clu 0).shut = none ∧ (1519 : BitVec 12).toInt < 1520 ∧ 1520 ≤ (1520 : BitVec 12).toInt ∧ 1680 ≤ (1839 : BitVec 12).toInt ∧
    (1839 : BitVec 12).toInt < 1840 ∧ 1840 ≤ (2047 : BitVec 12).toInt ∧ (1599 : BitVec 12).toInt < 1600 := by decide +kernel
/-- A migration request for core 1 by a MIGR. -/
def wish : MigReq := ⟨1, 0, false, true, none, none⟩
theorem test_witness_Migrations :
    (let s := { (remapped (one id) 1).mapClu 0 fun c => { c with migReqs := [wish] } with cycle := 1 }
     (s.clu 0).mig = none ∧ (s.clu 0).migReqs = [wish] ∧ wish.arrived < s.cycle ∧ wish.nospare = none ∧ s.remapState 1 = 1 ∧ (s.core 1).mode = .running ∧
     s.pickSpare 0 none = none) ∧
    (let s := (remapped (one id) 1).mapClu 0 fun c => { c with migReqs := [{ wish with nospare := some 0 }] }
     (s.clu 0).migReqs = [{ wish with nospare := some 0 }] ∧ s.cycle < 0 + 2 ^ 20 ∧ 0 + 2 ^ 20 ≤ ({ s with cycle := 2 ^ 20 } : State).cycle) ∧
    (let g : Mig := ⟨1, 1, 63, 0, false, [], []⟩
     let s := (remapped (one id) 2).mapClu 0 fun c => { c with mig := some g }
     (s.clu 0).mig = some g ∧ s.spadRanged 1 = false ∧ s.optBusy 1 = false ∧
     ((List.range 16).all fun j => s.isStopped (16 * 1 + j) && (s.ctx (16 * 1 + j)).buf.isEmpty) = true ∧
     ((s.mapCtx 16 fun c => { c with run := .running }).stopped 1 2).isNone = true) ∧
    (let g : Mig := ⟨1, 1, 63, 0, true, [], []⟩
     (((remapped (one id) 2).mapClu 0 fun c => { c with mig := some g }).clu 0).mig = some g ∧ g.dst < 64 ∧ g.src ≠ g.dst) := by decide +kernel
theorem test_witness_Migrations_spare (h : Config.goodColumn 63 = true) :
    (((remapped (one id) 1).mapClu 0 fun c => { c with spares := [63] }).mapCol 63 fun _ => { Column.reset with sampled := true }).pickSpare 0 none = some 63 := by
  simp [State.pickSpare, State.eligible, State.mapCol, State.sparesOf, State.mapClu, State.setClu, State.clu, remapped, one, tget,
    tset, State.col, h, State.reset, Column.reset]
theorem test_witness_SliceShutdown :
    (let h : Shut := ⟨0, [5, 6], 0, false⟩
     let s : State := { (one id).mapClu 0 fun c => { c with shut := some h } with cycle := 769 }
     (s.clu 0).shut = some h ∧ (s.clu 0).lines = [] ∧ h.sent < Nat.min (s.cycle - (h.since + 768)) 7423 ∧
     Nat.min (({ s with cycle := 768 } : State).cycle - (h.since + 768)) 7423 ≤ h.sent ∧ s.cycle < h.since + 8192) ∧
    (let h : Shut := ⟨0, [3], 7423, true⟩
     let l : SLine := ⟨64 * 5, true, true, 7⟩
     let s : State := { (one id).mapClu 0 fun c => { c with shut := some h, coolFrom := some 9, lines := [l] } with cycle := 2 ^ 21 }
     (s.clu 0).coolFrom = some 9 ∧ 9 + 2 ^ 20 ≤ s.cycle ∧ h.off = true ∧ l ∈ (s.clu 0).lines ∧ l.frame ∈ h.frames) ∧
    (let h : Shut := ⟨0, [], 7423, false⟩
     h.frames = [] ∧ h.since + 8192 ≤ ({ one id with cycle := 8192 } : State).cycle) := by decide +kernel
theorem test_witness_PowerAndLight : ({ one id with power := List.replicate 10 23501 } : State).power = List.replicate 10 23501 ∧
    (one id).powerCap < 512 ∧ lightSite (0 / 16) = 0 := by decide
theorem test_witness_Resets : ({ Mgmt.reset with slotA := some 0 } : Mgmt).slotA = some 0 ∧ Mgmt.reset.fuseMin ≤ 0 ∧
    Mgmt.reset.slotA = none ∧ ({ Mgmt.reset with slotB := some 3 } : Mgmt).slotB = some 3 := by decide
/-- The management controller runs, with VMAIN on; f changes it. -/
def managed (f : Mgmt → Mgmt) : State := { one id with mgmt := f { Mgmt.reset with running := some true, vmain := true } }
theorem test_witness_BringUp :
    (managed id).mgmt.running.isSome = true ∧ (managed id).mgmt.vmain = true ∧ (managed id).ready 1 47 = false ∧
    (let s : State := { managed id with rdy := (managed id).rdy.set 1 0xFFFFFFFFFFFF }
     ((List.range 48).all fun i => s.ready 1 i) = true) ∧
    (let s := (managed id).setReady 0 31 true
     s.ready 0 (511 / 16) = true ∧ s.clusterUp 511 = false) := by decide +kernel
theorem test_witness_Rings : let s := (managed id).wrN 64 8 (7 + 5 * 2 ^ 16)
    s.form ∧ s.mgmt.busy = false ∧ s.mgmt.waiting = none ∧ 1 ≠ s.rdN 8 8 % 16383 ∧
    commandOf (BitVec.ofNat 512 (s.rdN (64 + 64 * (s.rdN 8 8 % 16383)) 64)) = some (.readDebug 5 0 0 false) ∧ s.hasRoom ∧
    (let t := s.wrN 0x100008 8 1
     ¬ t.hasRoom ∧ ({ t with mgmt := { t.mgmt with waiting := some 9 } } : State).mgmt.waiting = some 9 ∧ t.mgmt.held = [] ∧
     t.rdN 0 8 % 16383 = t.rdN 8 8 % 16383 ∧ 5 ≠ (t.rdN 0x100000 8 % 16383 + 1) % 16383) := by
  refine ⟨by decide +kernel, by decide +kernel, by decide +kernel, by decide +kernel, by decide +kernel, ?_, ?_, by decide +kernel,
    by decide +kernel, by decide +kernel, by decide +kernel⟩
  · show _ ≠ _; decide +kernel
  · show ¬ (_ ≠ _); decide +kernel
theorem test_witness_Commands : (managed id).form ∧ (managed fun m => { m with running := none }).mgmt.running = none ∧
    ctrlExpert 9 0 = none ∧ ctrlExpert 8 1 = some true ∧ (managed id).mgmt.unlocked = false ∧
    (managed fun m => { m with unlocked := true }).mgmt.unlocked = true ∧
    (managed fun m => { m with assists := [(4, .calibrate 0)] }).mgmt.assists = [(4, .calibrate 0)] ∧ (managed id).mgmt.assists = [] := by decide +kernel
theorem test_witness_Inventory : (managed id).form ∧ (managed id).mgmt.alarms = 0 ∧ (managed id).mgmt.stale = false ∧
    (managed fun m => { m with stale := true }).mgmt.stale = true ∧ (managed id).rdN 0x400000 8 % 2 = 0 ∧
    ((managed id).putByte 0x400000 255).rdN 0x400000 8 % 2 = 1 := by decide +kernel

/-! The statements AccessesComplete to ManagementComplete hold under hypotheses that the witnesses above meet; here are those
of their clauses that no other statement has. -/

theorem test_witness_TasksComplete : let s := (one (withX5 (win 0x7FF80))).wrN (spadKey 0 (0x7FF80 + 32)) 8 (2 ^ 32 + 2 ^ 16)
    0 < (shapeOf (s.rdN (spadKey 0 0x7FF80) 128)).parts ∧ (shapeOf (s.rdN (spadKey 0 0x7FF80) 128)).reserved = 0 := by decide +kernel
theorem test_witness_EnginesComplete :
    (let s := (reducing [red 1]).mapLaunch 0 fun x => { x with cores := [0, 1] }
     (s.clu 0).reds.find? (·.seq == 4) = some (red 1) ∧ (red 1).rank ≠ 0 ∧ Nat.max 1 (s.launch 0).cores.length ≤ 4 * 1 + 1 ∧
     s.engReach 0 0 (red 1).src ≠ .held ∧ s.badIn (red 1).src 8 = none) ∧ (∀ n, (State.reset.core n).feq = []) := by
  refine ⟨by decide +kernel, fun _ => rfl⟩
theorem test_witness_OpticsComplete : let p := onePass fun p => { p with row := 1, pol := .mark, fctx := 0, toff := 0 }
    (streams p).streaming 0 = some p ∧ p.row = p.rows ∧ (streams p).tagsWait p = false ∧ p.ebcmin ≤ p.ebc p.eNow ∧ p.exps = [] ∧
    (streams p).savedFor 0 0 = false ∧ (streams p).engReach 0 0 p.tag = .ok := by decide +kernel
/-- Core 1 is saved, its block at VA 0x10000 of pages that every right reaches, with an image that CTXLD accepts. -/
theorem test_witness_SystemComplete :
    let s := (withRecord 16 (1 + 0x10000 * 2 ^ 64) asSys).mapClu 0 fun c => { c with tlb := [⟨0, 0, 20, 0x400000, true, true, true, true, false, 0, [], 0⟩] }
    let s := (s.setCore 1 ((inMode .saved s).core 0)).mapCore 1 fun c => { c with saved := c.saved.map fun k => { k with block := 0x10000 } }
    let s := s.putByte 0x410340 2
    s.flows ∧ s.remapState 1 = 1 ∧ (s.core 1).mode = .saved ∧ (s.core 1).saved.map (·.block) = some 0x10000 ∧ s.inLaunch 1 = false ∧
    s.partOf 0 = some 0 ∧
    (match (blockReads ((s.core 1).saved.map (·.msgs.length)).get!).foldl (fun r p => joinRes r (s.blockMe .load (0x10000 + p.1) p.2)) (s.saveBlockMe .load 0x10000) with
     | .ok qs => s.badPiece qs == none
     | _ => false) = true ∧
    (match s.blockMe .load 0x10000 1024 with
     | .ok qs => imageOk (s.readKeys (pieceKeys qs))
     | _ => false) = true := by decide +kernel
theorem test_witness_ManagementComplete : (managed id).mgmt.running = some true ∧ (managed id).mgmt.fuseMin ≤ (1 : Nat) / 2 ∧
    (1 : Word).getLsbD 0 = true := by decide

end
end Sys2Proof.Tests
end

section
/-! SUPPORT. What a store, the rings of the management controller and its responses leave in memory, said once
(R5, R470, R528, R529). -/
namespace Sys2Proof.Machine

/-! ## Values in memory (R5) -/

/-- A value of n bytes is below 256 to the n. -/
theorem rdN_lt (s : State) (a n : Nat) : s.rdN a n < 256 ^ n := by
  induction n generalizing a with
  | zero => simp [State.rdN]
  | succ n ih =>
    have hb := (s.byte a).isLt
    have hr := ih (a + 1)
    rw [State.rdN, Nat.pow_succ]
    omega
/-- A word of n bytes is below 256 to the n. -/
theorem toNat_lt_bytes {n : Nat} (e : BitVec (8 * n)) : e.toNat < 256 ^ n := by
  have h := e.isLt
  rwa [Nat.pow_mul] at h
/-- The low bits of a word are those of its number. -/
theorem toNat_ofNat_mod {n k : Nat} (h : k ≤ n) (v : Nat) : (BitVec.ofNat n v).toNat % 2 ^ k = v % 2 ^ k := by
  rw [BitVec.toNat_ofNat, Nat.mod_mod_of_dvd _ (Nat.pow_dvd_pow 2 h)]
/-- A value is read in two pieces. -/
theorem rdN_add (s : State) (a m n : Nat) : s.rdN a (m + n) = s.rdN a m + 256 ^ m * s.rdN (a + m) n := by
  induction m generalizing a with
  | zero => simp [State.rdN]
  | succ m ih =>
    rw [Nat.succ_add, State.rdN, State.rdN, ih, Nat.add_assoc a 1 m, Nat.add_comm 1 m, Nat.pow_succ]
    ring
/-- The first m bytes of a longer value. -/
theorem rdN_low (s : State) (a m n : Nat) : s.rdN a m = s.rdN a (m + n) % 256 ^ m := by
  rw [rdN_add, Nat.add_mul_mod_self_left, Nat.mod_eq_of_lt (rdN_lt s a m)]
/-- The bytes after the first m of a longer value. -/
theorem rdN_high (s : State) (a m n : Nat) : s.rdN (a + m) n = s.rdN a (m + n) / 256 ^ m := by
  rw [rdN_add, Nat.add_mul_div_left _ _ (by positivity), Nat.div_eq_of_lt (rdN_lt s a m), Nat.zero_add]

/-! ## A store (R470) -/

/-- A store of sound data changes bytes and poison alone. -/
theorem store_module (s : State) (a n v : Nat) :
    s.store a n v false = { s with mem := (s.store a n v false).mem, poison := (s.store a n v false).poison } := rfl
/-- A store leaves the bytes outside it alone. -/
theorem byte_store_out (s : State) (a n v x : Nat) (h : s.form) (hx : x < a ∨ a + n ≤ x) :
    (s.store a n v false).byte x = s.byte x :=
  mget_writes_ne _ _ _ h.1 fun p hp => by have := byteList_addr a v n p hp; omega
/-- A value that a store does not touch is read as before. -/
theorem rdN_store_out (s : State) (a n v b m : Nat) (h : s.form) (hd : b + m ≤ a ∨ a + n ≤ b) :
    (s.store a n v false).rdN b m = s.rdN b m :=
  rdN_congr _ _ _ _ fun x h1 h2 => byte_store_out s a n v x h (by omega)
/-- A stored value is read back, as far as its bytes hold it. -/
theorem rdN_store (s : State) (a n v : Nat) (h : s.form) : (s.store a n v false).rdN a n = v % 256 ^ n :=
  (rdN_congr (s.wrN a n v) (s.store a n v false) a n fun _ _ _ => rfl).trans (rdN_wrN s a n v h)

/-! ## Memory that is left alone -/

/-- t has the memory of s, with its full bits, its poison and its written cells. -/
def SameMem (s t : State) : Prop := t.mem = s.mem ∧ t.empties = s.empties ∧ t.poison = s.poison ∧ t.cells = s.cells

namespace SameMem
theorem refl (s : State) : SameMem s s := ⟨rfl, rfl, rfl, rfl⟩
theorem trans {s t u : State} (h : SameMem s t) (k : SameMem t u) : SameMem s u := by
  obtain ⟨hm, he, hp, hc⟩ := h
  obtain ⟨km, ke, kp, kc⟩ := k
  exact ⟨km.trans hm, ke.trans he, kp.trans hp, kc.trans hc⟩
theorem form {s t : State} (h : SameMem s t) (hs : s.form) : t.form := hs.congr h.1 h.2.1 h.2.2.1 h.2.2.2
theorem keeps {s t : State} (h : SameMem s t) : KeepsMemory s t := .of_eq h.1 h.2.1 h.2.2.1
theorem rdN {s t : State} (h : SameMem s t) (a n : Nat) : t.rdN a n = s.rdN a n :=
  rdN_congr _ _ _ _ fun x _ _ => congrArg (mget · x) h.1
theorem hasRoom {s t : State} (h : SameMem s t) (hr : s.hasRoom) : t.hasRoom := by
  unfold State.hasRoom; rw [h.rdN, h.rdN]; exact hr
theorem ringTail {s t : State} (h : SameMem s t) (r : Nat) : t.ringTail r = s.ringTail r := congrArg (· % ringLen) (h.rdN r 8)
theorem post (s : State) (e : Instr) : SameMem s (s.post e) := ⟨rfl, rfl, rfl, rfl⟩
theorem mapMgmt (s : State) (f : Mgmt → Mgmt) : SameMem s (s.mapMgmt f) := ⟨rfl, rfl, rfl, rfl⟩
/-- Steps that each leave memory alone do so together. -/
theorem foldl {α : Type} {f : State → α → State} (hf : ∀ s x, SameMem s (f s x)) (l : List α) (s : State) :
    SameMem s (l.foldl f s) := List.foldlRecOn l f (refl s) fun t ht x _ => ht.trans (hf t x)
end SameMem

/-! ## The inventory and the readiness map (R66, R531) -/

/-- A change of what the inventory publishes marks it stale, and posts its update unless one is due. -/
theorem inventory_eq (s : State) : s.inventory =
    { s with mgmt := { s.mgmt with stale := true }
             agenda := if s.mgmt.stale then s.agenda else s.agenda ++ [.inventoryUpdate] } := by
  unfold State.inventory
  cases h : s.mgmt.stale with
  | false => simp [State.post, State.mapMgmt]
  | true => simp [← h]
theorem inventory_sameMem (s : State) : SameMem s s.inventory := by rw [inventory_eq]; exact ⟨rfl, rfl, rfl, rfl⟩
/-- A bit of a word after one bit is put into it. -/
theorem getLsbD_setField_bit (x : Word) (b i : Nat) (v : Bool) (hb : b < 64) :
    (setField x b 1 (if v then 1 else 0)).getLsbD i = if i = b then v else x.getLsbD i := by
  have hm : (BitVec.ofNat 64 ((2 ^ 1 - 1) * 2 ^ b)).getLsbD i = (decide (i < 64) && decide (b = i)) := by
    rw [show (2 ^ 1 - 1) * 2 ^ b = 2 ^ b by omega, BitVec.getLsbD_ofNat, Nat.testBit_two_pow]
  have hv : ∀ j, (if v then 1 else 0 : Word).getLsbD j = (v && decide (j = 0)) := fun j => by
    cases v <;> simp [BitVec.getLsbD_one]
  unfold setField
  simp only [BitVec.getLsbD_or, BitVec.getLsbD_and, BitVec.getLsbD_not, BitVec.getLsbD_shiftLeft, hm, hv]
  by_cases h : i = b
  · subst h; simp [hb]
  · simp only [h, Ne.symm h, if_false]
    by_cases hi : i < 64
    · simp [hi]
    · simp [hi, BitVec.getLsbD_of_ge x i (by omega)]
/-- A bit of a map of units after one bit is put. -/
theorem getLsbD_mapBit (m : Vector Word 32) (w b w' b' : Nat) (v : Bool) (hw : w < 32) (hb : b < 64) :
    ((mapBit m w b v).toList.getD w' 0).getLsbD b' =
      if w' = w ∧ b' = b then v else (m.toList.getD w' 0).getLsbD b' := by
  by_cases h : w' < 32
  · have e : ∀ q : Vector Word 32, q.toList.getD w' 0 = q[w'] := fun q => by simp [List.getD, h]
    rw [e, e]
    simp only [mapBit, Vector.getElem_ofFn]
    by_cases hw' : w' = w
    · subst hw'; simp only [if_true, true_and]; exact getLsbD_setField_bit _ _ _ _ hb
    · simp [hw']
  · have hne : w' ≠ w := by omega
    simp [List.getD, hne, h]
/-- Setting a bit of RDYMAP changes the map, what counts the changes of the cycle, and what publishes them. -/
theorem setReady_module (s : State) (w b : Nat) (v : Bool) : ∃ r q l m,
    s.setReady w b v = { s with rdy := r, rdyNew := q, agenda := l, mgmt := { s.mgmt with stale := m } } := by
  unfold State.setReady
  split
  · exact ⟨s.rdy, s.rdyNew, s.agenda, s.mgmt.stale, rfl⟩
  · rw [inventory_eq]; exact ⟨_, _, _, _, rfl⟩
/-- What a bit of RDYMAP reads after one bit is set. -/
theorem ready_setReady (s : State) (w b w' b' : Nat) (v : Bool) (hw : w < 32) (hb : b < 64) :
    (s.setReady w b v).ready w' b' = if w' = w ∧ b' = b then v else s.ready w' b' := by
  unfold State.setReady
  split
  case isTrue h =>
    split
    · next e => obtain ⟨rfl, rfl⟩ := e; exact h
    · rfl
  case isFalse => rw [inventory_eq]; exact getLsbD_mapBit s.rdy w b w' b' v hw hb
theorem setReady_sameMem (s : State) (w b : Nat) (v : Bool) : SameMem s (s.setReady w b v) := by
  obtain ⟨r, q, l, m, h⟩ := setReady_module s w b v
  rw [h]; exact ⟨rfl, rfl, rfl, rfl⟩
/-- Posting one event for each of a list puts them on the agenda. -/
theorem foldl_post {α : Type} (f : α → Instr) (l : List α) (s : State) :
    l.foldl (fun (s : State) x => s.post (f x)) s = { s with agenda := s.agenda ++ l.map f } := by
  induction l generalizing s with
  | nil => simp
  | cons x l ih => simp only [List.foldl_cons]; rw [ih]; simp [State.post]
/-- Steps that each change the agenda alone change the agenda alone. -/
theorem foldl_agenda {α : Type} {f : State → α → State} (hf : ∀ s x, ∃ l, f s x = { s with agenda := l })
    (xs : List α) (s : State) : ∃ l, xs.foldl f s = { s with agenda := l } := by
  induction xs generalizing s with
  | nil => exact ⟨s.agenda, rfl⟩
  | cons x xs ih =>
    obtain ⟨l, h⟩ := hf s x
    obtain ⟨k, hk⟩ := ih (f s x)
    exact ⟨k, by rw [List.foldl_cons, hk, h]⟩

/-! ## The response ring (R529) -/

/-- The response ring has room when its tail can step on without meeting its head. -/
theorem hasRoom_iff (s : State) : s.hasRoom ↔ (s.ringTail respRing + 1) % ringLen ≠ s.ringHead respRing := ne_comm
/-- Two stores: of an entry, and of the word of its ring that tells where the ring now ends. -/
def State.entryAt (s : State) (a n v r m k : Nat) : State := (s.store a n v false).store r m k false
theorem entryAt_module (s : State) (a n v r m k : Nat) :
    ∃ x y, s.entryAt a n v r m k = { s with mem := x, poison := y } := ⟨_, _, rfl⟩
theorem form_entryAt {s : State} (h : s.form) (a n v r m k : Nat) : (s.entryAt a n v r m k).form :=
  form_store _ r m k false (form_store s a n v false h)
theorem rdN_entryAt_word {s : State} (h : s.form) (a n v r m k : Nat) : (s.entryAt a n v r m k).rdN r m = k % 256 ^ m :=
  rdN_store _ r m k (form_store s a n v false h)
theorem rdN_entryAt_entry {s : State} (h : s.form) (a n v r m k : Nat) (hd : r + m ≤ a) :
    (s.entryAt a n v r m k).rdN a n = v % 256 ^ n :=
  (rdN_store_out _ r m k a n (form_store s a n v false h) (.inr hd)).trans (rdN_store s a n v h)
theorem rdN_entryAt_out {s : State} (h : s.form) (a n v r m k b l : Nat) (hr : b + l ≤ r ∨ r + m ≤ b)
    (ha : b + l ≤ a ∨ a + n ≤ b) : (s.entryAt a n v r m k).rdN b l = s.rdN b l :=
  (rdN_store_out _ r m k b l (form_store s a n v false h) hr).trans (rdN_store_out s a n v b l h ha)
/-- MSI-X vector 0 of the PF is raised (R448, R529). -/
def State.withMsix (s : State) : State :=
  let pf := tget s.funcs 0 Func.reset
  { s with funcs := tset s.funcs 0 { pf with msix := pf.msix ||| 1 } }
theorem withMsix_sameMem (s : State) : SameMem s s.withMsix := ⟨rfl, rfl, rfl, rfl⟩
/-- The stores of an entry leave what the PF has raised alone. -/
theorem withMsix_entryAt (s : State) (a n v r m k : Nat) : (s.entryAt a n v r m k).withMsix =
    let pf := tget s.funcs 0 Func.reset
    let t := (s.store a n v false).store r m k false
    { t with funcs := tset t.funcs 0 { pf with msix := pf.msix ||| 1 } } := rfl
/-- An entry put on the response ring (R529). -/
def State.putEntry (s : State) (e : BitVec 512) : State :=
  (s.entryAt (ringEntry respRing (s.ringTail respRing)) 64 e.toNat respRing 8 ((s.ringTail respRing + 1) % ringLen)).withMsix
/-- With room in the ring an entry is put on it. -/
theorem ringPut_room {s : State} (h : s.hasRoom) (e : BitVec 512) : s.ringPut e = some (s.putEntry e) := by
  unfold State.ringPut State.putEntry
  rw [withMsix_entryAt]
  exact if_neg ((hasRoom_iff s).mp h)
/-- A full ring takes no entry. -/
theorem ringPut_full {s : State} (h : ¬ s.hasRoom) (e : BitVec 512) : s.ringPut e = none := by
  unfold State.ringPut
  exact if_pos (not_not.mp fun g => h ((hasRoom_iff s).mpr g))
/-- An entry on the ring changes memory and what the PF has raised alone. -/
theorem putEntry_module (s : State) (e : BitVec 512) :
    ∃ m p f, s.putEntry e = { s with mem := m, poison := p, funcs := f } := by
  unfold State.putEntry
  obtain ⟨m, p, h⟩ := entryAt_module s (ringEntry respRing (s.ringTail respRing)) 64 e.toNat respRing 8
    ((s.ringTail respRing + 1) % ringLen)
  rw [h]
  exact ⟨m, p, _, rfl⟩
theorem form_putEntry {s : State} (h : s.form) (e : BitVec 512) : (s.putEntry e).form :=
  (withMsix_sameMem _).form (form_entryAt h ..)
/-- The ring's tail steps over the entry. -/
theorem rdN_putEntry_tail {s : State} (h : s.form) (e : BitVec 512) :
    (s.putEntry e).rdN respRing 8 = (s.ringTail respRing + 1) % ringLen := by
  unfold State.putEntry
  rw [(withMsix_sameMem _).rdN, rdN_entryAt_word h]
  exact Nat.mod_eq_of_lt ((Nat.mod_lt _ (by decide)).trans (by decide))
/-- The entry stands where the tail was. -/
theorem rdN_putEntry_entry {s : State} (h : s.form) (e : BitVec 512) :
    (s.putEntry e).rdN (ringEntry respRing (s.ringTail respRing)) 64 = e.toNat := by
  unfold State.putEntry
  rw [(withMsix_sameMem _).rdN, rdN_entryAt_entry h _ _ _ _ _ _ (by unfold ringEntry; omega),
    Nat.mod_eq_of_lt (toNat_lt_bytes (n := 64) e)]
theorem ringTail_lt (s : State) (r : Nat) : s.ringTail r < 16383 := Nat.mod_lt _ (by decide)
/-- Memory outside the ring's tail and its entries is read as before: the ring lies from 2^20 to 2^21 (R528). -/
theorem rdN_putEntry_out {s : State} (h : s.form) (e : BitVec 512) (b m : Nat)
    (hb : b + m ≤ 0x100000 ∨ 0x100008 ≤ b ∧ b + m ≤ 0x100040 ∨ 0x200000 ≤ b) : (s.putEntry e).rdN b m = s.rdN b m := by
  have hp := ringTail_lt s respRing
  have ha : ringEntry respRing (s.ringTail respRing) = 0x100040 + 64 * s.ringTail respRing := rfl
  have hr : respRing = 0x100000 := rfl
  unfold State.putEntry
  rw [(withMsix_sameMem _).rdN]
  exact rdN_entryAt_out h _ _ _ _ _ _ _ _ (by omega) (by omega)

/-! ## Responses (R529) -/

/-- The entry of a response: its code, tag and status, its result if it has one, and free values elsewhere. -/
def State.responseEntry (s : State) (code tag status : Nat) (result : Option Nat) : BitVec 512 :=
  let v := s.openEntry.1.toNat
  let v := match result with
    | some x => x * 2 ^ 64 + v % 2 ^ 64
    | none => v
  BitVec.ofNat 512 (v / 2 ^ 48 * 2 ^ 48 + status % 2 ^ 16 * 2 ^ 32 + tag % 2 ^ 16 * 2 ^ 16 + code % 2 ^ 16)
/-- The command being served is over, and its response is formed. -/
def State.served (s : State) : State := { s with free := s.free + 8, mgmt := { s.mgmt with busy := false } }
theorem served_sameMem (s : State) : SameMem s s.served := ⟨rfl, rfl, rfl, rfl⟩
theorem openEntry_served (s : State) : (s.openEntry.2.mapMgmt fun m => { m with busy := false }) = s.served := rfl
/-- With room in the ring the response goes on it, and the next command is looked for. -/
theorem respond_room {s : State} (h : s.hasRoom) (code tag status : Nat) (result : Option Nat) :
    s.respond code tag status result = (s.served.putEntry (s.responseEntry code tag status result)).post
      (.commandRingTailWrite ((s.served.putEntry (s.responseEntry code tag status result)).rdN cmdRing 8)) := by
  unfold State.respond State.responseEntry
  simp only [openEntry_served, ringPut_room (s := s.served) h] <;> cases result <;> rfl
/-- With no room the response waits for the host. -/
theorem respond_full {s : State} (h : ¬ s.hasRoom) (code tag status : Nat) (result : Option Nat) :
    s.respond code tag status result =
      s.served.mapMgmt fun m => { m with waiting := some (s.responseEntry code tag status result) } := by
  unfold State.respond State.responseEntry
  simp only [openEntry_served, ringPut_full (s := s.served) h] <;> cases result <;> rfl
/-- A response that is written changes memory, what the PF has raised, the count of free values and the agenda, and ends the
command. -/
theorem respond_module {s : State} (h : s.hasRoom) (code tag status : Nat) (result : Option Nat) :
    ∃ m p f x, s.respond code tag status result =
      { s with mem := m, poison := p, funcs := f, free := s.free + 8, mgmt := { s.mgmt with busy := false }
               agenda := s.agenda ++ [.commandRingTailWrite x] } := by
  rw [respond_room h]
  obtain ⟨m, p, f, e⟩ := putEntry_module s.served (s.responseEntry code tag status result)
  generalize State.rdN _ cmdRing 8 = x
  rw [e]
  exact ⟨m, p, f, x, rfl⟩
/-- What a response that is written leaves of memory. -/
theorem rdN_respond {s : State} (hf : s.form) (h : s.hasRoom) (code tag status : Nat) (result : Option Nat) (b m : Nat)
    (hb : b + m ≤ 0x100000 ∨ 0x100008 ≤ b ∧ b + m ≤ 0x100040 ∨ 0x200000 ≤ b) :
    (s.respond code tag status result).rdN b m = s.rdN b m := by
  rw [respond_room h, (SameMem.post _ _).rdN, rdN_putEntry_out ((served_sameMem s).form hf) _ b m hb, (served_sameMem s).rdN]
/-- The entry of a response that is written. -/
theorem rdN_respond_entry {s : State} (hf : s.form) (h : s.hasRoom) (code tag status : Nat) (result : Option Nat) :
    (s.respond code tag status result).rdN (ringEntry respRing (s.ringTail respRing)) 64 =
      (s.responseEntry code tag status result).toNat := by
  rw [respond_room h, (SameMem.post _ _).rdN, ← (served_sameMem s).ringTail,
    rdN_putEntry_entry ((served_sameMem s).form hf)]
theorem rdN_respond_tail {s : State} (hf : s.form) (h : s.hasRoom) (code tag status : Nat) (result : Option Nat) :
    (s.respond code tag status result).rdN respRing 8 = (s.ringTail respRing + 1) % ringLen := by
  rw [respond_room h, (SameMem.post _ _).rdN, rdN_putEntry_tail ((served_sameMem s).form hf), (served_sameMem s).ringTail]
/-- The low six bytes of a response. -/
theorem responseEntry_low (s : State) {code tag status : Nat} (result : Option Nat) (hc : code < 2 ^ 16) (ht : tag < 2 ^ 16)
    (hk : status < 2 ^ 16) :
    (s.responseEntry code tag status result).toNat % 256 ^ 6 = code + tag * 2 ^ 16 + status * 2 ^ 32 := by
  unfold State.responseEntry
  dsimp only
  generalize (match result with | some x => _ | none => _ : Nat) = v
  rw [show 256 ^ 6 = 2 ^ 48 from rfl, toNat_ofNat_mod (by decide), Nat.mod_eq_of_lt hc, Nat.mod_eq_of_lt ht, Nat.mod_eq_of_lt hk]
  omega
/-- The result of a response stands in its bytes from 8 to 15. -/
theorem responseEntry_result (s : State) (code tag status x : Nat) (hx : x < 2 ^ 64) :
    (s.responseEntry code tag status (some x)).toNat / 256 ^ 8 % 256 ^ 8 = x := by
  unfold State.responseEntry
  dsimp only
  generalize s.openEntry.1.toNat = r
  rw [show 256 ^ 8 = 2 ^ 64 from rfl, ← Nat.mod_mul_right_div_self, ← Nat.pow_add, toNat_ofNat_mod (by decide), Nat.pow_add, Nat.mod_mul_right_div_self]
  omega
/-- A response to a command, given in a state with the command's own tail of the response ring. -/
theorem responded_respond {s u : State} (hf : u.form) (hr : u.hasRoom) (ht : u.rdN respRing 8 = s.rdN respRing 8)
    {code tag status : Nat} (result : Option Nat) (hc : code < 2 ^ 16) (htag : tag < 2 ^ 16) (hk : status < 2 ^ 16) :
    Responded s (u.respond code tag status result) code tag status := by
  have e : u.ringTail respRing = s.ringTail respRing := congrArg (· % ringLen) ht
  have hlow := rdN_low (u.respond code tag status result) (ringEntry respRing (u.ringTail respRing)) 6 58
  rw [rdN_respond_entry hf hr, responseEntry_low u result hc htag hk, e] at hlow
  have htail := rdN_respond_tail hf hr code tag status result
  rw [e] at htail
  refine ⟨hlow, htail, ?_⟩
  obtain ⟨_, _, _, _, h⟩ := respond_module hr code tag status result
  rw [h]
/-- A response to a command whose other effect leaves memory alone. -/
theorem responded_sameMem {s u : State} (h : SameMem s u) (hf : s.form) (hr : s.hasRoom) {code tag status : Nat}
    (result : Option Nat) (hc : code < 2 ^ 16) (htag : tag < 2 ^ 16) (hk : status < 2 ^ 16) :
    Responded s (u.respond code tag status result) code tag status :=
  responded_respond (h.form hf) (h.hasRoom hr) (h.rdN ..) result hc htag hk

end Sys2Proof.Machine
end

section
/-! SUPPORT. What a reset leaves, and what the events of bring-up do (R9, R31, R66, R67, R525, R533, R537). -/
namespace Sys2Proof.Machine

/-! ## Reset (R9, R525, R533, R537) -/

/-- Calibration begins by events alone. -/
theorem calibrateAll_agenda (s : State) : ∃ l, s.calibrateAll = { s with agenda := l } := by
  refine foldl_agenda (fun s cl => ?_) _ s
  split
  · exact ⟨_, rfl⟩
  · exact ⟨s.agenda, rfl⟩
/-- A module reset leaves the reset units and the controller as it boots, with events of calibration. -/
theorem exec_moduleReset (s : State) :
    ∃ l, exec .moduleReset s = .next { s.resetUnits with mgmt := s.mgmt.boot, agenda := l } := by
  change ∃ l, execModuleReset s = _
  unfold execModuleReset
  dsimp only
  split
  · obtain ⟨l, h⟩ := calibrateAll_agenda { s.resetUnits with mgmt := s.mgmt.boot }
    exact ⟨l, by rw [h]⟩
  · exact ⟨_, rfl⟩
/-- VMAIN that comes on is noted, with events of calibration. -/
theorem exec_vmainPowerOn (s : State) :
    ∃ l, exec .vmainPowerOn s = .next { s with mgmt := { s.mgmt with vmain := true }, agenda := l } := by
  change ∃ l, execVmainPowerOn s = _
  obtain ⟨l, h⟩ := calibrateAll_agenda (s.mapMgmt fun m => { m with vmain := true })
  exact ⟨l, by unfold execVmainPowerOn; rw [h]; rfl⟩
/-- Bytes of this module read as unlisted after a reset. -/
theorem byte_resetUnits (s : State) (a : Nat) (h : a < 2 ^ 50) : s.resetUnits.byte a = unlisted := by
  have ho : outside a = false := by
    have hs : spaceOf a = 0 := by
      simp only [spaceOf, bits]
      rw [Nat.div_eq_of_lt h, Nat.zero_mod]
    simp [outside, isHost, isRemote, hs]
  change mget (s.mem.filter fun p => outside p.1) a = unlisted
  induction s.mem with
  | nil => rfl
  | cons p m ih =>
    rw [List.filter_cons]
    split
    · next hp => rw [mget, if_neg (by rintro rfl; simp [ho] at hp)]; exact ih
    · exact ih
/-- The controller boots slot A where the fused minimum lets it. -/
theorem boot_slotA (m : Mgmt) (v : Nat) (ha : m.slotA = some v) (hv : m.fuseMin ≤ v) :
    m.boot.running = some true ∧ m.boot.runVersion = v := by
  simp [Mgmt.boot, Mgmt.accepts, ha, hv]
/-- With slot A empty the controller boots slot B where the fused minimum lets it. -/
theorem boot_slotB (m : Mgmt) (v : Nat) (ha : m.slotA = none) (hb : m.slotB = some v) (hv : m.fuseMin ≤ v) :
    m.boot.running = some false ∧ m.boot.runVersion = v := by
  simp [Mgmt.boot, Mgmt.accepts, ha, hb, hv]
/-- With both slots empty the controller stays in recovery. -/
theorem boot_recovery (m : Mgmt) (ha : m.slotA = none) (hb : m.slotB = none) : m.boot.running = none := by
  simp [Mgmt.boot, Mgmt.accepts, ha, hb]
/-- An entry that is put on the ring, held or dropped changes memory, what the PF has raised, the agenda, and of the controller
what it holds, has dropped and has yet to publish. -/
theorem putOrHold_module (s : State) (x : BitVec 512) (keep : Bool) : ∃ m p f l h d e, s.putOrHold x keep =
    { s with mem := m, poison := p, funcs := f, agenda := l, mgmt := { s.mgmt with held := h, dropped := d, stale := e } } := by
  unfold State.putOrHold
  split
  next t ht =>
    split at ht
    · by_cases hr : s.hasRoom
      · rw [ringPut_room hr] at ht
        obtain ⟨m, p, f, e⟩ := putEntry_module s x
        obtain rfl := Option.some.inj ht
        exact ⟨m, p, f, s.agenda, s.mgmt.held, s.mgmt.dropped, s.mgmt.stale, e⟩
      · rw [ringPut_full hr] at ht
        cases ht
    · cases ht
  next =>
    split
    · exact ⟨_, _, _, _, _, _, _, rfl⟩
    · rw [inventory_eq]; exact ⟨_, _, _, _, _, _, _, rfl⟩
/-- A report does the same, and takes free values. -/
theorem report_module (s : State) : ∃ m p f x l h d e, s.report =
    { s with mem := m, poison := p, funcs := f, free := x, agenda := l
             mgmt := { s.mgmt with held := h, dropped := d, stale := e } } := by
  unfold State.report
  dsimp only
  rw [show s.openEntry.2 = { s with free := s.free + 8 } from rfl]
  generalize s.openEntry.1 = x
  obtain ⟨m, p, f, l, h, d, e, hp⟩ := putOrHold_module { s with free := s.free + 8 } x false
  exact ⟨m, p, f, _, l, h, d, e, hp⟩

/-- A loss of VMAIN resets every unit, but the links, the partitions and the controller, which notes it (R537). -/
theorem exec_vmainLoss (s : State) : ∃ t, exec .vmainLoss s = .next t ∧ t.ctxs = [] ∧ t.cores = [] ∧ t.clus = [] ∧
    t.rdy = Vector.replicate 32 0 ∧ t.links = s.links ∧ t.parts = s.parts ∧ t.mgmt.vmain = false ∧
    t.mgmt.running = s.mgmt.running := by
  change ∃ t, execVmainLoss s = .next t ∧ _
  unfold execVmainLoss
  dsimp only
  rw [inventory_eq]
  split
  · obtain ⟨_, _, _, _, _, _, _, _, h⟩ := report_module (State.mk ..)
    rw [h]
    exact ⟨_, rfl, rfl, rfl, rfl, rfl, rfl, rfl, rfl, rfl⟩
  · exact ⟨_, rfl, rfl, rfl, rfl, rfl, rfl, rfl, rfl, rfl⟩

/-! ## Bring-up (R31, R66, R67, R525) -/

theorem exec_hostLinkTrained (l : Nat) (at' : Bool) (s : State) (hl : l < 2) (hr : s.mgmt.running.isSome = true) :
    exec (.hostLinkTrained l at') s = .next (s.mapLink l fun k => { k with up := true, atomics := at' }) :=
  if_pos (by simp [hl, State.fwRuns, hr])
@[simp] theorem link_mapLink (s : State) (l : Nat) (f : HostLink → HostLink) : (s.mapLink l f).link l = f (s.link l) :=
  tget_tset_same ..
theorem mapLink_sameMem (s : State) (l : Nat) (f : HostLink → HostLink) : SameMem s (s.mapLink l f) := ⟨rfl, rfl, rfl, rfl⟩
/-- A host link trains once the firmware has verified (R525). -/
theorem hostLinkTrained_up {s : State} {l : Nat} (hl : l < 2) (at' : Bool) (hr : s.mgmt.running.isSome = true) :
    ∃ t, exec (.hostLinkTrained l at') s = .next t ∧ (t.link l).up = true ∧ (t.link l).atomics = at' ∧ KeepsMemory s t :=
  ⟨_, exec_hostLinkTrained l at' s hl hr, by rw [link_mapLink], by rw [link_mapLink], (mapLink_sameMem ..).keeps⟩
/-- The firmware runs and VMAIN is present: the stages beyond the first run. -/
theorem staged_of {s : State} (hr : s.mgmt.running.isSome = true) (hv : s.mgmt.vmain = true) : s.staged = true := by
  simp [State.staged, State.fwRuns, hr, hv]
/-- A stack that passes its test is ready; the last one lets the fields come up. -/
theorem exec_hbmStackReady_pass {s : State} {h : Nat} (hs : s.staged = true) (hh : h < 48) (hn : s.ready 1 h = false) :
    ∃ l, exec (.hbmStackReady h true) s = .next { s.setReady 1 h true with agenda := l } := by
  change ∃ l, execHbmStackReady h true s = _
  have hg : (!s.staged || decide (48 ≤ h) || s.ready 1 h) = false := by simp [hs, hn]; omega
  unfold execHbmStackReady
  rw [hg, if_neg Bool.false_ne_true, if_neg (by decide)]
  dsimp only
  split
  · exact ⟨_, by rw [foldl_post]⟩
  · exact ⟨_, rfl⟩
theorem hbmStackReady_ready {s : State} {h : Nat} (hs : s.staged = true) (hh : h < 48) (hn : s.ready 1 h = false) :
    ∃ t, exec (.hbmStackReady h true) s = .next t ∧ t.ready 1 h = true ∧ KeepsMemory s t := by
  obtain ⟨l, he⟩ := exec_hbmStackReady_pass hs hh hn
  exact ⟨_, he, (ready_setReady s 1 h 1 h true (by decide) (by omega)).trans (if_pos ⟨rfl, rfl⟩), (setReady_sameMem s 1 h true).keeps⟩
/-- A stack that fails its test is reported. -/
theorem exec_hbmStackReady_fail {s : State} {h : Nat} (hs : s.staged = true) (hh : h < 48) (hn : s.ready 1 h = false) :
    exec (.hbmStackReady h false) s = .next s.report := by
  change execHbmStackReady h false s = _
  have hg : (!s.staged || decide (48 ≤ h) || s.ready 1 h) = false := by simp [hs, hn]; omega
  unfold execHbmStackReady
  rw [hg, if_neg Bool.false_ne_true, if_pos (by decide)]
/-- A field is ready once every stack is, and its clusters follow. -/
theorem exec_fieldReady {s : State} {f : Nat} (hs : s.staged = true) (hu : ∀ i, i < 48 → s.ready 1 i = true) (hf : f < 32) :
    exec (.fieldReady f) s = .next { s.setReady 0 f true with
      agenda := (s.setReady 0 f true).agenda ++ (List.range 16).map fun c => Instr.clusterReady (16 * f + c) } := by
  change execFieldReady f s = _
  have hup : s.stacksUp = true := by simpa [State.stacksUp] using hu
  have hf : ¬ Config.nFields ≤ f := Nat.not_le.mpr hf
  have hg : (!s.staged || !s.stacksUp || decide (Config.nFields ≤ f)) = false := by
    simp [hs, hup, hf]
  unfold execFieldReady
  rw [hg, if_neg Bool.false_ne_true, foldl_post]

theorem fieldReady_ready {s : State} {f : Nat} (hs : s.staged = true) (hu : ∀ i, i < 48 → s.ready 1 i = true) (hf : f < 32) :
    ∃ t, exec (.fieldReady f) s = .next t ∧ t.ready 0 f = true ∧ (∀ i, i < 16 → Instr.clusterReady (16 * f + i) ∈ t.agenda) ∧
      KeepsMemory s t := by
  refine ⟨_, exec_fieldReady hs hu hf, (ready_setReady s 0 f 0 f true (by decide) (by omega)).trans (if_pos ⟨rfl, rfl⟩),
    fun i hi => ?_, (setReady_sameMem s 0 f true).keeps⟩
  exact List.mem_append_right _ (List.mem_map.mpr ⟨i, List.mem_range.mpr hi, rfl⟩)

/-! ### A cluster's remap table -/

/-- The good columns of a cluster that are no spares, rising (R31). -/
def State.usedCols (s : State) (cl : Nat) : List Nat := (goodCols cl).filter fun p => !(s.spareCols cl).contains p
theorem usedCols_lt {s : State} {cl i p : Nat} (h : (s.usedCols cl)[i]? = some p) : p < 64 := by
  have hm := List.mem_of_getElem? h
  simp only [State.usedCols, goodCols, List.mem_filter, List.mem_range] at hm
  exact hm.1.1
/-- Changing cores one after another changes cores alone. -/
theorem foldl_mapCore {α : Type} (n : α → Nat) (f : α → Core → Core) (l : List α) (s : State) :
    ∃ k, l.foldl (fun (s : State) x => s.mapCore (n x) (f x)) s = { s with cores := k } := by
  induction l generalizing s with
  | nil => exact ⟨s.cores, rfl⟩
  | cons x l ih =>
    obtain ⟨k, h⟩ := ih (s.mapCore (n x) (f x))
    exact ⟨k, h⟩
/-- Changing columns one after another changes columns alone. -/
theorem foldl_mapCol {α : Type} (n : α → Nat) (f : α → Column → Column) (l : List α) (s : State) :
    ∃ q, l.foldl (fun (s : State) x => s.mapCol (n x) (f x)) s = { s with cols := q } := by
  induction l generalizing s with
  | nil => exact ⟨s.cols, rfl⟩
  | cons x l ih =>
    obtain ⟨q, h⟩ := ih (s.mapCol (n x) (f x))
    exact ⟨q, h⟩
/-- The remap entry that column p of a cluster, or none, gives a core (R30, R31). -/
def remapEntry : Option Nat → BitVec 16
  | some p => BitVec.ofNat 16 (2 ^ 14 + p)
  | none => 0
/-- A cluster whose remap table has been filled. -/
def State.filled (s : State) (cl : Nat) : Cluster :=
  { s.clu cl with spares := s.spareCols cl, remap := Vector.ofFn fun i => remapEntry (s.usedCols cl)[i.val]? }
/-- Filling the remap table of a cluster changes that cluster, its cores' columns and the columns' neighbours (R31). -/
theorem fillRemap_module (s : State) (cl : Nat) : ∃ k q, s.fillRemap cl = { s.setClu cl (s.filled cl) with cores := k, cols := q } := by
  obtain ⟨k, hk⟩ := foldl_mapCore (fun i => 64 * cl + i) (fun i k => { k with pcol := (s.usedCols cl).getD i 0 })
    (List.range (s.usedCols cl).length) (s.setClu cl (s.filled cl))
  obtain ⟨q, hq⟩ := foldl_mapCol (fun p => 64 * cl + p) (fun p x => { x with nbr := nbrBits (64 * cl + p) }) (goodCols cl)
    { s.setClu cl (s.filled cl) with cores := k }
  refine ⟨k, q, Eq.trans ?_ hq⟩
  rw [← hk]
  have hm : (s.mapClu cl fun c => { c with
      spares := s.spareCols cl
      remap := Vector.ofFn fun i => match (s.usedCols cl)[i.val]? with
        | some p => BitVec.ofNat 16 (2 ^ 14 + p)
        | none => 0 }) = s.setClu cl (s.filled cl) := by
    unfold State.mapClu State.filled
    congr 3
  rw [← hm]
  rfl
/-- A core of a cluster whose remap table has been filled is mapped to its column, or absent. -/
theorem remapOf_filled {s t : State} {cl : Nat} (h : t.clu cl = s.filled cl) (i : Fin 64) :
    t.remapOf (64 * cl + i) = remapEntry (s.usedCols cl)[i.val]? := by
  have hc : clusterOf (64 * cl + i) = cl := by unfold clusterOf; omega
  have hi : (64 * cl + i.val) % 64 = i.val := by omega
  rw [State.remapOf, hc, hi, h]
  simp [State.filled, List.getD]
/-- What the remap entry of a column reads as: MAPPED, and the column. -/
theorem remapEntry_some {p : Nat} (h : p < 64) :
    bits (remapEntry (some p)).toNat 15 14 = 1 ∧ bits (remapEntry (some p)).toNat 5 0 = p := by
  simp only [remapEntry, bits, BitVec.toNat_ofNat]
  omega

/-- A core that a good column serves is mapped to it. -/
theorem remapState_colOf_filled {s t : State} {cl p : Nat} (h : t.clu cl = s.filled cl) {i : Fin 64}
    (hp : (s.usedCols cl)[i.val]? = some p) : t.remapState (64 * cl + i) = 1 ∧ t.colOf (64 * cl + i) = 64 * cl + p := by
  have hc : clusterOf (64 * cl + i) = cl := by unfold clusterOf; omega
  obtain ⟨hstate, hcol⟩ := remapEntry_some (usedCols_lt hp)
  rw [State.remapState, State.colOf, remapOf_filled h, hp, hc, hstate, hcol]
  exact ⟨rfl, rfl⟩
/-- A core that no good column is left for is absent. -/
theorem remapState_filled_none {s t : State} {cl : Nat} (h : t.clu cl = s.filled cl) {i : Fin 64}
    (hp : (s.usedCols cl)[i.val]? = none) : t.remapState (64 * cl + i) = 0 := by
  rw [State.remapState, remapOf_filled h, hp]
  rfl

/-! ### A cluster becomes ready -/

/-- An OMU that sets its bit changes what `setReady` changes, in words 10 and above. -/
theorem omuSetReady_module (s : State) (cl : Nat) : ∃ r q l m,
    s.omuSetReady cl = { s with rdy := r, rdyNew := q, agenda := l, mgmt := { s.mgmt with stale := m } } := by
  unfold State.omuSetReady
  split
  · exact setReady_module ..
  · exact ⟨s.rdy, s.rdyNew, s.agenda, s.mgmt.stale, rfl⟩
theorem ready_omuSetReady (s : State) (cl w b : Nat) (hcl : cl < 512) (hw : w < 10) :
    (s.omuSetReady cl).ready w b = s.ready w b := by
  unfold State.omuSetReady omuBit
  split
  · rw [ready_setReady _ _ _ _ _ _ (by omega) (by omega), if_neg (by omega)]
  · rfl
/-- A cluster becomes ready: its remap table is filled, and its bit is set, and its OMU's where the governor has locked. -/
theorem exec_clusterReady {s : State} {cl : Nat} (hs : s.staged = true) (hf : s.ready 0 (cl / 16) = true)
    (hn : s.clusterUp cl = false) (hcl : cl < 512) : ∃ t, exec (.clusterReady cl) s = .next t ∧ t.clusterUp cl = true ∧
      t.clu cl = s.filled cl ∧ SameMem s t := by
  refine ⟨((((s.fillRemap cl).setReady (clusterBit cl).1 (clusterBit cl).2 true).omuSetReady cl).inventory), ?_, ?_, ?_⟩
  · change execClusterReady cl s = _
    have hcl : ¬ Config.nClusters ≤ cl := Nat.not_le.mpr hcl
    have hg : (!s.staged || !s.ready 0 (cl / 16) || s.clusterUp cl || decide (Config.nClusters ≤ cl)) = false := by
      simp [hs, hf, hn, hcl]
    unfold execClusterReady
    rw [hg, if_neg Bool.false_ne_true]
  · rw [inventory_eq]
    change (State.omuSetReady _ cl).ready _ _ = true
    rw [ready_omuSetReady _ _ _ _ hcl (by unfold clusterBit; omega), ready_setReady _ _ _ _ _ _
      (by unfold clusterBit; omega) (by unfold clusterBit; omega), if_pos ⟨rfl, rfl⟩]
  · obtain ⟨k, q, h1⟩ := fillRemap_module s cl
    obtain ⟨_, _, _, _, h2⟩ := setReady_module (s.fillRemap cl) (clusterBit cl).1 (clusterBit cl).2 true
    obtain ⟨_, _, _, _, h3⟩ := omuSetReady_module ((s.fillRemap cl).setReady (clusterBit cl).1 (clusterBit cl).2 true) cl
    rw [inventory_eq, h3, h2, h1]
    exact ⟨clu_setClu_same s cl (s.filled cl), rfl, rfl, rfl, rfl⟩

end Sys2Proof.Machine
end

section
/-! SUPPORT. The commands of the management rings: what each does before its response is written (R407, R526, R529, R530,
R533), and how the rings go on (R528, R529). -/
namespace Sys2Proof.Machine

/-! ## The rings (R528, R529) -/

/-- A store of sound data leaves the controller alone. -/
theorem store_mgmt (s : State) (a n v : Nat) : (s.store a n v false).mgmt = s.mgmt := rfl
theorem store_agenda (s : State) (a n v : Nat) : (s.store a n v false).agenda = s.agenda := rfl
theorem store_isFull (s : State) (a n v w : Nat) : (s.store a n v false).isFull w = s.isFull w := rfl
/-- The command that waits at the head of the command ring is taken up: the head steps on. -/
theorem serveCommand_next {s : State} {i : Instr} (hb : s.mgmt.busy = false) (hw : s.mgmt.waiting = none)
    (ht : s.ringHead cmdRing ≠ s.ringTail cmdRing)
    (hi : commandOf (BitVec.ofNat 512 (s.rdN (ringEntry cmdRing (s.ringHead cmdRing)) 64)) = some i) :
    s.serveCommand = ((s.store (cmdRing + 8) 8 ((s.ringHead cmdRing + 1) % ringLen) false).mapMgmt fun m =>
      { m with busy := true }).post i := by
  unfold State.serveCommand
  dsimp only
  rw [if_neg (by simp [hb, hw, ht])]
  simp only [hi]
/-- With the head at the tail there is no command to take up. -/
theorem serveCommand_none {s : State} (ht : s.ringHead cmdRing = s.ringTail cmdRing) : s.serveCommand = s := by
  unfold State.serveCommand
  dsimp only
  rw [if_pos (by simp [ht])]
theorem exec_commandRingTailWrite (tail : Nat) (s : State) :
    exec (.commandRingTailWrite tail) s = .next (s.store cmdRing 8 tail false).serveCommand := rfl
/-- The host's advance of the command ring's tail takes up the next command. -/
theorem commandRingTailWrite_next {s : State} {tail : Nat} {i : Instr} (hf : s.form) (hb : s.mgmt.busy = false)
    (hw : s.mgmt.waiting = none) (ht : tail < 16383) (hn : tail ≠ s.ringHead cmdRing)
    (hi : commandOf (BitVec.ofNat 512 (s.rdN (ringEntry cmdRing (s.ringHead cmdRing)) 64)) = some i) :
    ∃ t, exec (.commandRingTailWrite tail) s = .next t ∧ t.rdN cmdRing 8 = tail ∧
      t.rdN (cmdRing + 8) 8 = (s.ringHead cmdRing + 1) % ringLen ∧ t.mgmt.busy = true ∧ i ∈ t.agenda := by
  have hf' : (s.store cmdRing 8 tail false).form := form_store s _ _ _ false hf
  have ht8 : (s.store cmdRing 8 tail false).rdN cmdRing 8 = tail := by
    rw [rdN_store s _ _ _ hf, Nat.mod_eq_of_lt (ht.trans (by decide))]
  have hhead : (s.store cmdRing 8 tail false).ringHead cmdRing = s.ringHead cmdRing :=
    congrArg (· % ringLen) (rdN_store_out s _ _ _ _ _ hf (.inr le_rfl))
  have htail : (s.store cmdRing 8 tail false).ringTail cmdRing = tail := by
    rw [State.ringTail, ht8]; exact Nat.mod_eq_of_lt ht
  have hent : (s.store cmdRing 8 tail false).rdN (ringEntry cmdRing (s.ringHead cmdRing)) 64 =
      s.rdN (ringEntry cmdRing (s.ringHead cmdRing)) 64 :=
    rdN_store_out s _ _ _ _ _ hf (.inr (by unfold ringEntry; omega))
  have hnext := serveCommand_next (s := s.store cmdRing 8 tail false) (by rw [store_mgmt, hb]) (by rw [store_mgmt, hw])
    (by rw [hhead, htail]; exact hn.symm) (by rw [hhead, hent]; exact hi)
  refine ⟨_, by rw [exec_commandRingTailWrite, hnext], ?_, ?_, rfl, ?_⟩
  · rw [(SameMem.post _ _).rdN, (SameMem.mapMgmt _ _).rdN, rdN_store_out _ _ _ _ _ _ hf' (.inl le_rfl), ht8]
  · rw [(SameMem.post _ _).rdN, (SameMem.mapMgmt _ _).rdN, rdN_store _ _ _ _ hf', hhead]
    exact Nat.mod_eq_of_lt ((Nat.mod_lt _ (by decide)).trans (by decide))
  · exact List.mem_append_right _ (List.mem_singleton.mpr rfl)
theorem settleModes_sameMem (s : State) : SameMem s s.settleModes := .mapMgmt ..
/-- The response that waited has been written: the modes that waited with it are in force, and nothing is held (R529, R530). -/
def State.unwaited (s : State) (r : BitVec 512) : State :=
  ((s.putEntry r).mapMgmt fun m => { m with waiting := none }).settleModes.mapMgmt fun m => { m with held := [] }
theorem putEntry_unwaited (s : State) (r : BitVec 512) : SameMem (s.putEntry r) (s.unwaited r) :=
  (SameMem.mapMgmt ..).trans ((settleModes_sameMem _).trans (.mapMgmt ..))
theorem unwaited_waiting (s : State) (r : BitVec 512) : (s.unwaited r).mgmt.waiting = none := rfl
theorem putEntry_mgmt (s : State) (r : BitVec 512) : (s.putEntry r).mgmt = s.mgmt := by
  obtain ⟨_, _, _, e⟩ := putEntry_module s r
  rw [e]
/-- With room and nothing held, the host's write of the head lets the response that waits be written, and commands go on. -/
theorem exec_responseRingHeadWrite {s u : State} {tail : Nat} {r : BitVec 512} (hu : s.store (respRing + 8) 8 tail false = u)
    (hw : u.mgmt.waiting = some r) (hh : u.mgmt.held = []) (hr : u.hasRoom) :
    exec (.responseRingHeadWrite tail) s = .next (u.unwaited r).serveCommand := by
  change execResponseRingHeadWrite tail s = _
  unfold execResponseRingHeadWrite State.unwaited
  simp only [hu, hw, ringPut_room hr, Option.map_some, Option.getD_some]
  have hv : ((u.putEntry r).mapMgmt fun m => { m with waiting := none }).settleModes.mgmt.held = [] := by
    change (u.putEntry r).mgmt.held = []
    rw [putEntry_mgmt, hh]
  rw [hv, State.flushHeld]
/-- The host's write of the response ring's head lets the response that waits be written. -/
theorem responseRingHeadWrite_waiting {s : State} {tail : Nat} {r : BitVec 512} (hf : s.form) (hw : s.mgmt.waiting = some r)
    (hh : s.mgmt.held = []) (hc : s.ringTail cmdRing = s.ringHead cmdRing) (ht : tail < 16383)
    (hn : tail ≠ (s.ringTail respRing + 1) % ringLen) :
    ∃ t, exec (.responseRingHeadWrite tail) s = .next t ∧ t.rdN (respRing + 8) 8 = tail ∧
      t.rdN (ringEntry respRing (s.ringTail respRing)) 64 = r.toNat ∧
      t.rdN respRing 8 = (s.ringTail respRing + 1) % ringLen ∧ t.mgmt.waiting = none := by
  have hr : respRing = 0x100000 := rfl
  have hk : cmdRing = 0 := rfl
  obtain ⟨u, hu⟩ : ∃ u, s.store (respRing + 8) 8 tail false = u := ⟨_, rfl⟩
  have hf' : u.form := hu ▸ form_store s _ _ _ false hf
  have hm : u.mgmt = s.mgmt := hu ▸ store_mgmt ..
  have hhead : u.rdN (respRing + 8) 8 = tail := by rw [← hu, rdN_store s _ _ _ hf, Nat.mod_eq_of_lt (ht.trans (by decide))]
  have hout : ∀ b, b + 8 ≤ respRing + 8 → u.rdN b 8 = s.rdN b 8 := fun b hb => by
    rw [← hu, rdN_store_out s _ _ _ _ _ hf (.inl hb)]
  have hrt : u.ringTail respRing = s.ringTail respRing := congrArg (· % ringLen) (hout _ le_rfl)
  have hroom : u.hasRoom := by
    have ht' : tail % ringLen = tail := Nat.mod_eq_of_lt ht
    rw [hasRoom_iff, hrt, State.ringHead, hhead, ht']
    exact hn.symm
  have hmem := putEntry_unwaited u r
  have hlow : ∀ b, b + 8 ≤ 0x100000 → (u.unwaited r).rdN b 8 = s.rdN b 8 := fun b hb => by
    rw [hmem.rdN, rdN_putEntry_out hf' _ _ _ (.inl hb), hout b (by omega)]
  have hcmd : (u.unwaited r).ringHead cmdRing = (u.unwaited r).ringTail cmdRing := by
    rw [State.ringHead, State.ringTail, hlow _ (by omega), hlow _ (by omega)]
    exact hc.symm
  refine ⟨_, exec_responseRingHeadWrite hu (by rw [hm, hw]) (by rw [hm, hh]) hroom, ?_⟩
  rw [serveCommand_none hcmd]
  refine ⟨?_, ?_, ?_, unwaited_waiting u r⟩
  · rw [hmem.rdN, rdN_putEntry_out hf' _ _ _ (by omega), hhead]
  · rw [hmem.rdN, ← hrt, rdN_putEntry_entry hf']
  · rw [hmem.rdN, rdN_putEntry_tail hf', hrt]

end Sys2Proof.Machine
end

section
/-! SUPPORT. The commands that the management controller serves (R407, R526, R529, R530, R533): what each does before its
response is written. -/
namespace Sys2Proof.Machine

/-! ## What lines and sleepers do to memory: nothing (R266, R272, R273, R395) -/

theorem mapClu_sameMem (s : State) (n : Nat) (f : Cluster → Cluster) : SameMem s (s.mapClu n f) := ⟨rfl, rfl, rfl, rfl⟩
theorem mapCore_sameMem (s : State) (n : Nat) (f : Core → Core) : SameMem s (s.mapCore n f) := ⟨rfl, rfl, rfl, rfl⟩
theorem mapCtx_sameMem (s : State) (n : Nat) (f : Ctx → Ctx) : SameMem s (s.mapCtx n f) := ⟨rfl, rfl, rfl, rfl⟩
theorem sliceOut_sameMem (s : State) (cl : Nat) (l : SLine) : SameMem s (s.sliceOut cl l) := ⟨rfl, rfl, rfl, rfl⟩
theorem freeNat_sameMem (s : State) (n : Nat) : SameMem s (s.freeNat n).2 := ⟨rfl, rfl, rfl, rfl⟩
theorem sliceIn_sameMem (s : State) (b pa : Nat) (home : Bool) : SameMem s (s.sliceIn b pa home) := by
  have room : ∀ (n : Nat) (mine : SLine → Bool), SameMem s
      (if ((s.clu (bankCluster b)).lines.filter mine).length < n then s
       else match ((s.clu (bankCluster b)).lines.filter mine)[(s.freeNat n).1]? with
        | some l => (s.freeNat n).2.sliceOut (bankCluster b) l
        | none => (s.freeNat n).2) := fun n mine => by
    split
    · exact .refl s
    · split
      · exact (freeNat_sameMem s n).trans (sliceOut_sameMem ..)
      · exact freeNat_sameMem s n
  unfold State.sliceIn
  dsimp only
  split
  · exact .refl s
  · exact (room _ _).trans ((freeNat_sameMem _ _).trans (mapClu_sameMem ..))
theorem dirtyAt_sameMem (s : State) (bank : Option Nat) (pa : Nat) : SameMem s (s.dirtyAt bank pa) := by
  cases bank with
  | none => exact .refl s
  | some b => exact (sliceIn_sameMem s b pa true).trans (mapClu_sameMem ..)
theorem recall_sameMem (s : State) (pa : Nat) : SameMem s (s.recall pa) := by
  unfold State.recall
  dsimp only
  split
  · exact SameMem.trans ⟨rfl, rfl, rfl, rfl⟩ (dirtyAt_sameMem ..)
  · exact ⟨rfl, rfl, rfl, rfl⟩
theorem grants_sameMem (s : State) : SameMem s s.grants := .foldl (fun s _ => .post s _) _ s
theorem wakeSyncs_sameMem (s : State) (w : Nat) : SameMem s (s.wakeSyncs w) := by
  unfold State.wakeSyncs
  dsimp only
  split
  · refine SameMem.trans ?_ (grants_sameMem _)
    refine SameMem.trans (t := { s with sleepers := _ }) ⟨rfl, rfl, rfl, rfl⟩ (.foldl (fun t q => ?_) _ _)
    split
    · exact .refl t
    · exact (mapCtx_sameMem t _ _).trans (mapCtx_sameMem ..)
  · exact .refl s

/-! ## A write of the management controller in a table (R408, R450) -/

/-- The bytes of a value, put together again. -/
theorem bytesVal_byteList (a v n : Nat) : bytesVal ((byteList a v n).map (·.2)) = v % 256 ^ n := by
  induction n generalizing a v with
  | zero => simp [byteList, bytesVal, Nat.mod_one]
  | succ n ih =>
    have hp : (256 : Nat) ^ (n + 1) = 256 * 256 ^ n := Nat.pow_succ'
    rw [byteList, List.map_cons, bytesVal, ih, BitVec.toNat_ofNat, hp, Nat.mod_mul]
theorem byteList_length (a v n : Nat) : (byteList a v n).length = n := by
  induction n generalizing a v with
  | zero => rfl
  | succ n ih => simp [byteList, ih]
/-- The words of a run of bytes lie from the word of its first byte to its end. -/
theorem mem_wordsOf {a n w : Nat} (h : w ∈ wordsOf a n) : wordOf a ≤ w ∧ w < a + n := by
  simp only [wordsOf, divUp, wordOf, List.mem_map, List.mem_range] at h ⊢
  omega
/-- t is s with nothing changed in memory below c, and of canonical form still. -/
def KeepsBelow (c : Nat) (s t : State) : Prop := (s.form → t.form) ∧ ∀ x, x < c → s.form → t.byte x = s.byte x
theorem SameMem.keepsBelow {s t : State} (h : SameMem s t) (c : Nat) : KeepsBelow c s t :=
  ⟨h.form, fun x _ _ => congrArg (mget · x) h.1⟩
theorem KeepsBelow.trans {c : Nat} {s t u : State} (h : KeepsBelow c s t) (k : KeepsBelow c t u) : KeepsBelow c s u :=
  ⟨fun f => k.1 (h.1 f), fun x hx f => (k.2 x hx (h.1 f)).trans (h.2 x hx f)⟩
/-- A cell above c that is set to zero and counts as written changes nothing below c. -/
theorem zeroCell_keepsBelow (s : State) (c a n : Nat) (hc : c ≤ a) :
    KeepsBelow c s { s.wrN a n 0 with cells := kput s.cells a } := by
  refine ⟨fun h => ?_, fun x hx h => byte_wrN_out s a n 0 x h (.inl (by omega))⟩
  have hw := form_wrN s a n 0 h
  exact ⟨hw.1, hw.2.1, hw.2.2.1, risingFrom_kput _ _ _ h.2.2.2 (Nat.zero_le a)⟩
/-- A cell that is touched above c changes nothing below it. -/
theorem cellTouched_keepsBelow (s : State) (c a : Nat) (hc : c ≤ a / 64 * 64) : KeepsBelow c s (s.cellTouched a) := by
  unfold State.cellTouched
  dsimp only
  split
  · exact zeroCell_keepsBelow s c _ _ hc
  · exact (SameMem.refl s).keepsBelow c
theorem store_keepsBelow (s : State) (c a n v : Nat) (hc : c ≤ a) : KeepsBelow c s (s.store a n v false) :=
  ⟨form_store s a n v false, fun x hx h => byte_store_out s a n v x h (.inl (by omega))⟩
/-- Cells touched above c, one after another. -/
theorem cellsTouched_keepsBelow (c : Nat) (ws : List Nat) (hc : ∀ w ∈ ws, c ≤ w / 64 * 64) (s : State) :
    KeepsBelow c s (ws.foldl State.cellTouched s) := by
  induction ws generalizing s with
  | nil => exact (SameMem.refl s).keepsBelow c
  | cons w ws ih =>
    exact (cellTouched_keepsBelow s c w (hc w List.mem_cons_self)).trans (ih (fun x hx => hc x (List.mem_cons_of_mem _ hx)) _)
/-- What follows the bytes of an outside write at words of memory outside the scratchpads leaves memory alone. -/
theorem outsideWords_sameMem (home : Nat → Option Nat) (ws : List Nat) (hs : ∀ w ∈ ws, isSpad w = false) (s : State) :
    SameMem s (ws.foldl (fun (s : State) w =>
      if isSpad w then (s.setFull w).serveAll w else ((s.recall w).dirtyAt (home w) w).wakeSyncs w) s) := by
  induction ws generalizing s with
  | nil => exact .refl s
  | cons w ws ih =>
    rw [List.foldl_cons, if_neg (by simp [hs w List.mem_cons_self])]
    exact ((recall_sameMem s w).trans ((dirtyAt_sameMem ..).trans (wakeSyncs_sameMem ..))).trans
      (ih (fun x hx => hs x (List.mem_cons_of_mem _ hx)) _)
/-- A table entry that is written reads as it was written, and nothing below it changes but in its line. -/
theorem tableWrite_spec {s : State} (hf : s.form) (c a n v : Nat) (hc : c % 64 = 0) (ha : c ≤ a) (he : a + n ≤ 2 ^ 52) :
    (s.tableWrite a n v).form ∧ (s.tableWrite a n v).rdN a n = v % 256 ^ n ∧
      ∀ b m, b + m ≤ c → (s.tableWrite a n v).rdN b m = s.rdN b m := by
  have hspad : ∀ w ∈ wordsOf a n, isSpad w = false := fun w hw => by
    have := mem_wordsOf hw
    simp [isSpad]; omega
  have hline : ∀ w ∈ wordsOf a n, c ≤ w / 64 * 64 := fun w hw => by
    have := mem_wordsOf hw
    unfold wordOf at this
    omega
  obtain ⟨u, hu, hub⟩ : ∃ u, KeepsBelow c s u ∧
      SameMem (u.store a n (v % 256 ^ n) false) (s.tableWrite a n v) := by
    unfold State.tableWrite State.outsideWrite State.outsideAt
    simp only [List.length_map, byteList_length, bytesVal_byteList]
    refine ⟨if isSpad a then s else (wordsOf a n).foldl State.cellTouched s, ?_, ?_⟩
    · split
      · exact (SameMem.refl s).keepsBelow c
      · exact cellsTouched_keepsBelow c _ hline s
    · exact SameMem.trans ⟨rfl, rfl, rfl, rfl⟩ (outsideWords_sameMem _ _ hspad _)
  refine ⟨hub.form (form_store _ _ _ _ false (hu.1 hf)), ?_, fun b m hb => ?_⟩
  · rw [hub.rdN, rdN_store u a n _ (hu.1 hf), Nat.mod_mod]
  · rw [hub.rdN, rdN_store_out u _ _ _ _ _ (hu.1 hf) (.inl (by omega))]
    exact rdN_congr _ _ _ _ fun x _ hx => hu.2 x (by omega) hf

end Sys2Proof.Machine
end

section
/-! SUPPORT. The commands that the management controller serves (R407, R526, R529, R530, R533): what each answers, in service
and in recovery. -/
namespace Sys2Proof.Machine

/-! ## In service and in recovery (R533) -/

theorem inService_runs {s : State} (h : s.mgmt.running.isSome = true) (code tag : Nat) (k : Out) : inService s code tag k = k :=
  if_pos h
/-- In recovery a command is refused with a free status that is not 0. -/
theorem inService_recovery {s : State} (h : s.mgmt.running = none) (code tag : Nat) (k : Out) :
    inService s code tag k = .next ((s.freeNat 4).2.respond code tag (1 + (s.freeNat 4).1) none) :=
  if_neg (by simp [State.fwRuns, h])
theorem freeNat_lt (s : State) (n : Nat) (h : 0 < n) : (s.freeNat n).1 < n := Nat.mod_lt _ h

/-! ## What a response leaves of the units -/

theorem respond_mgmt {s : State} (h : s.hasRoom) (code tag status : Nat) (result : Option Nat) :
    (s.respond code tag status result).mgmt = { s.mgmt with busy := false } := by
  obtain ⟨_, _, _, _, e⟩ := respond_module h code tag status result
  rw [e]
theorem respond_core {s : State} (h : s.hasRoom) (code tag status n : Nat) (result : Option Nat) :
    (s.respond code tag status result).core n = s.core n := by
  obtain ⟨_, _, _, _, e⟩ := respond_module h code tag status result
  rw [e]; rfl
theorem respond_omu {s : State} (h : s.hasRoom) (code tag status n : Nat) (result : Option Nat) :
    (s.respond code tag status result).omu n = s.omu n := by
  obtain ⟨_, _, _, _, e⟩ := respond_module h code tag status result
  rw [e]; rfl
/-- What was pending is pending still after a response. -/
theorem mem_respond_agenda {s : State} (h : s.hasRoom) (code tag status : Nat) (result : Option Nat) {i : Instr}
    (hi : i ∈ s.agenda) : i ∈ (s.respond code tag status result).agenda := by
  obtain ⟨_, _, _, _, e⟩ := respond_module h code tag status result
  rw [e]; exact List.mem_append_left _ hi

/-! ## SPDM (R530, R534) -/

/-- An SPDM command answers at once: with 0 where the message lies in the entry, else with 0 or 4. -/
theorem exec_spdm (s : State) (tag len : Nat) (m : BitVec 384) : ∃ u k, exec (.spdm tag len m) s = .next (u.respond 1 tag k none) ∧
    SameMem s u ∧ (k = 0 ∨ k = 4) ∧ (len ≤ 48 → k = 0) := by
  refine ⟨_, _, rfl, ((freeNat_sameMem s 2).trans (freeNat_sameMem _ 2)).trans (.mapMgmt ..), ?_, fun h => if_neg (by omega)⟩
  have hq := freeNat_lt (s.freeNat 2).2 2 (by decide)
  split <;> omega
/-- An SPDM command with room for its response gets it. -/
theorem spdm_responded {s : State} (hf : s.form) (hr : s.hasRoom) {tag : Nat} (ht : tag < 2 ^ 16) (len : Nat) (m : BitVec 384) :
    ∃ t k, exec (.spdm tag len m) s = .next t ∧ (k = 0 ∨ k = 4) ∧ (len ≤ 48 → k = 0) ∧ Responded s t 1 tag k := by
  obtain ⟨u, k, he, hm, hk, hk0⟩ := exec_spdm s tag len m
  exact ⟨_, k, he, hk, hk0, responded_sameMem hm hf hr none (by decide) ht (by omega)⟩
/-- Without room the response waits. -/
theorem spdm_waits {s : State} (hr : ¬ s.hasRoom) (tag len : Nat) (m : BitVec 384) : ∃ t, exec (.spdm tag len m) s = .next t ∧
    t.mgmt.waiting.isSome = true ∧ t.mgmt.busy = false ∧ KeepsMemory s t := by
  obtain ⟨u, k, he, hm, -⟩ := exec_spdm s tag len m
  have hu : ¬ u.hasRoom := fun g => hr (by unfold State.hasRoom at g ⊢; rwa [hm.rdN, hm.rdN] at g)
  refine ⟨_, he, ?_⟩
  rw [respond_full hu]
  exact ⟨rfl, rfl, (hm.trans ((served_sameMem u).trans (.mapMgmt ..))).keeps⟩

/-! ## SET_CTRL (R526, R530, R533) -/

theorem responded_settleModes {s t : State} {code tag k : Nat} (h : Responded s t code tag k) :
    Responded s t.settleModes code tag k := by
  obtain ⟨he, ht, hb⟩ := h
  exact ⟨((settleModes_sameMem t).rdN ..).trans he, ((settleModes_sameMem t).rdN ..).trans ht, hb⟩
/-- In recovery a control is refused, and the modes stand. -/
theorem setCtrl_recovery {s : State} (hf : s.form) (hr : s.hasRoom) (hn : s.mgmt.running = none) {tag : Nat}
    (ht : tag < 2 ^ 16) (fn ctrl units : Nat) (x : Word) : ∃ t k, exec (.setCtrl tag fn ctrl units x) s = .next t ∧ 0 < k ∧
    k < 5 ∧ Responded s t 2 tag k ∧ t.mgmt.modes = s.mgmt.modes := by
  have hk := freeNat_lt s 4 (by decide)
  have hm := freeNat_sameMem s 4
  refine ⟨_, _, inService_recovery hn 2 tag _, Nat.add_pos_left one_pos _, by omega,
    responded_sameMem hm hf hr none (by decide) ht (by omega), ?_⟩
  rw [respond_mgmt (hm.hasRoom hr)]
  rfl
/-- A control that the manual does not have is refused. -/
theorem exec_setCtrl_absent {s : State} (hs : s.mgmt.running.isSome = true) {fn ctrl : Nat} (hc : ctrlExpert fn ctrl = none)
    (tag units : Nat) (x : Word) : exec (.setCtrl tag fn ctrl units x) s = .next (s.respond 2 tag 4 none) := by
  change execSetCtrl tag fn ctrl units x s = _
  rw [execSetCtrl, inService_runs hs, hc]
/-- An expert control without the unlock is refused. -/
theorem exec_setCtrl_locked {s : State} (hs : s.mgmt.running.isSome = true) {fn ctrl : Nat} (hc : ctrlExpert fn ctrl = some true)
    (hu : s.mgmt.unlocked = false) (tag units : Nat) (x : Word) :
    exec (.setCtrl tag fn ctrl units x) s = .next (s.respond 2 tag 2 none) := by
  change execSetCtrl tag fn ctrl units x s = _
  rw [execSetCtrl, inService_runs hs, hc]
  simp [hu]
/-- A control that is allowed is applied; its modes are in force once the response is written. -/
theorem exec_setCtrl_allowed {s u : State} (hs : s.mgmt.running.isSome = true) {fn ctrl units k : Nat} {e : Bool} {x : Word}
    (hc : ctrlExpert fn ctrl = some e) (he : e = true → s.mgmt.unlocked = true)
    (ha : s.applyCtrl fn ctrl units x.toNat = (k, u)) (hr : u.hasRoom) (tag : Nat) :
    exec (.setCtrl tag fn ctrl units x) s = .next (u.inventory.respond 2 tag k none).settleModes := by
  change execSetCtrl tag fn ctrl units x s = _
  rw [execSetCtrl, inService_runs hs, hc]
  have hg : (e && !s.mgmt.unlocked) = false := by cases e <;> simp_all
  simp only [hg, ha, ringPut_room hr, Bool.false_eq_true, if_false, Option.isSome_some, if_true]
/-- A control whose effect leaves memory alone, applied with room for its response. -/
theorem setCtrl_allowed {s u : State} (hf : s.form) (hr : s.hasRoom) (hs : s.mgmt.running.isSome = true)
    {fn ctrl units : Nat} {e : Bool} {x : Word} (hc : ctrlExpert fn ctrl = some e) (he : e = true → s.mgmt.unlocked = true)
    (ha : s.applyCtrl fn ctrl units x.toNat = (0, u)) (hm : SameMem s u) {tag : Nat} (ht : tag < 2 ^ 16) :
    ∃ t, exec (.setCtrl tag fn ctrl units x) s = .next t ∧ Responded s t 2 tag 0 ∧
      t.mgmt = { u.mgmt with stale := true, busy := false, modes := u.mgmt.newModes.getD u.mgmt.modes, newModes := none } := by
  have hi : SameMem s u.inventory := hm.trans (inventory_sameMem u)
  refine ⟨_, exec_setCtrl_allowed hs hc he ha (hm.hasRoom hr) tag,
    responded_settleModes (responded_sameMem hi hf hr none (by decide) ht (by decide)), ?_⟩
  unfold State.settleModes State.mapMgmt
  dsimp only
  rw [respond_mgmt (hi.hasRoom hr), inventory_eq]
/-- SET_CTRL of control 0 with value 1 turns on the host-assisted mode of function 0. -/
theorem setCtrl_mode0 {s : State} (hf : s.form) (hr : s.hasRoom) (hs : s.mgmt.running.isSome = true) {tag : Nat}
    (ht : tag < 2 ^ 16) (units : Nat) : ∃ t, exec (.setCtrl tag 0 0 units 1) s = .next t ∧ t.mgmt.modes.getLsbD 0 = true ∧
    Responded s t 2 tag 0 := by
  obtain ⟨t, he, hresp, hmgmt⟩ := setCtrl_allowed (u := s.mapMgmt fun m => { m with newModes := some (m.modes ||| BitVec.ofNat 8 (2 ^ 0)) })
    hf hr hs (e := false) (fn := 0) (ctrl := 0) rfl (by simp) (x := 1) (units := units) (by simp [State.applyCtrl]) (.mapMgmt ..) ht
  refine ⟨t, he, ?_, hresp⟩
  rw [hmgmt]
  simp [State.mapMgmt]
/-- SET_CTRL of the spare reserve takes a value up to 8. -/
theorem setCtrl_reserve {s : State} (hf : s.form) (hr : s.hasRoom) (hs : s.mgmt.running.isSome = true)
    (hu : s.mgmt.unlocked = true) {tag : Nat} (ht : tag < 2 ^ 16) (units : Nat) {x : Word} (hx : x.toNat ≤ 8) :
    ∃ t, exec (.setCtrl tag 5 1 units x) s = .next t ∧ t.mgmt.reserve = x.toNat ∧ Responded s t 2 tag 0 := by
  obtain ⟨t, he, hresp, hmgmt⟩ := setCtrl_allowed (u := s.mapMgmt fun m => { m with reserve := x.toNat })
    hf hr hs (fn := 5) (ctrl := 1) (e := true) rfl (fun _ => hu) (x := x) (units := units)
    (by simp [State.applyCtrl, hx]) (.mapMgmt ..) ht
  refine ⟨t, he, ?_, hresp⟩
  rw [hmgmt]
  rfl
/-- The fused minimum is only raised, and not above the version that runs (R533). -/
theorem setMinVersion_unlocked {s : State} (hf : s.form) (hr : s.hasRoom) (hs : s.mgmt.running.isSome = true)
    (hu : s.mgmt.unlocked = true) {tag v : Nat} (ht : tag < 2 ^ 16) (hv : v ≤ s.mgmt.runVersion) :
    ∃ t, exec (.setCtrlMinSecurityVersion tag v) s = .next t ∧ t.mgmt.fuseMin = Nat.max s.mgmt.fuseMin v ∧
      Responded s t 2 tag 0 := by
  have hm : SameMem s (s.mapMgmt fun m => { m with fuseMin := Nat.max m.fuseMin v }) := .mapMgmt ..
  refine ⟨_, ?_, ?_, responded_sameMem hm hf hr none (by decide) ht (by decide)⟩
  · change execSetCtrlMinSecurityVersion tag v s = _
    rw [execSetCtrlMinSecurityVersion, inService_runs hs, if_neg (by simp [hu]), if_neg (by omega)]
  · rw [respond_mgmt (hm.hasRoom hr)]
    rfl
theorem setMinVersion_locked {s : State} (hf : s.form) (hr : s.hasRoom) (hs : s.mgmt.running.isSome = true)
    (hu : s.mgmt.unlocked = false) {tag : Nat} (ht : tag < 2 ^ 16) (v : Nat) :
    ∃ t, exec (.setCtrlMinSecurityVersion tag v) s = .next t ∧ t.mgmt.fuseMin = s.mgmt.fuseMin ∧ Responded s t 2 tag 2 := by
  refine ⟨s.respond 2 tag 2 none, ?_, ?_, responded_sameMem (.refl s) hf hr none (by decide) ht (by decide)⟩
  · change execSetCtrlMinSecurityVersion tag v s = _
    rw [execSetCtrlMinSecurityVersion, inService_runs hs, if_pos (by simp [hu])]
  · rw [respond_mgmt hr]

/-! ## SET_TABLE of the address spaces (R408) -/

theorem exec_setTable_asid {s : State} (hs : s.mgmt.running.isSome = true) {i : Nat} (hi : i < 2 ^ 16) (tag : Nat)
    (val : BitVec 128) : exec (.setTable tag 4 i val) s =
      .next ((s.tableWrite (asidTable + 16 * i) 16 (bits val.toNat 115 80 * 2 ^ 80 + bits val.toNat 27 0)).inventory.respond
        3 tag 0 none) := by
  change execSetTable tag 4 i val s = _
  unfold execSetTable
  dsimp only
  rw [inService_runs hs]
  simp only [hi, decide_true, if_true]
/-- An entry of the address-space table takes the fields of the value that is given. -/
theorem setTable_asid {s : State} (hf : s.form) (hr : s.hasRoom) (hs : s.mgmt.running.isSome = true) {tag i : Nat}
    (ht : tag < 2 ^ 16) (hi : i < 2 ^ 16) (val : BitVec 128) : ∃ t, exec (.setTable tag 4 i val) s = .next t ∧
    Responded s t 3 tag 0 ∧ t.asidEntry i = bits val.toNat 115 80 * 2 ^ 80 + bits val.toNat 27 0 := by
  have ha : asidTable = 0x200000 := rfl
  obtain ⟨x, hx⟩ : ∃ x, bits val.toNat 115 80 * 2 ^ 80 + bits val.toNat 27 0 = x := ⟨_, rfl⟩
  have hlt : x < 256 ^ 16 := by
    have h1 : bits val.toNat 115 80 < 2 ^ 36 := Nat.mod_lt _ (by decide)
    have h2 : bits val.toNat 27 0 < 2 ^ 28 := Nat.mod_lt _ (by decide)
    omega
  obtain ⟨hwf, hread, hlow⟩ := tableWrite_spec hf 0x200000 (asidTable + 16 * i) 16 x (by decide) (by omega) (by omega)
  have hi' := inventory_sameMem (s.tableWrite (asidTable + 16 * i) 16 x)
  have hroom : (s.tableWrite (asidTable + 16 * i) 16 x).inventory.hasRoom := hi'.hasRoom (by
    unfold State.hasRoom
    rw [hlow _ _ (by decide), hlow _ _ (by decide)]
    exact hr)
  refine ⟨_, exec_setTable_asid hs hi tag val, ?_, ?_⟩
  · rw [hx]
    refine responded_respond (hi'.form hwf) hroom ?_ none (by decide) ht (by decide)
    rw [hi'.rdN, hlow _ _ (by decide)]
  · rw [hx, State.asidEntry, rdN_respond (hi'.form hwf) hroom _ _ _ _ _ _ (by omega), hi'.rdN, hread, Nat.mod_eq_of_lt hlt]

/-! ## READ_DEBUG of SADV (R278) -/

/-- READ_DEBUG of a core's SADV answers it, and clears it. -/
theorem readDebug_sadv {s : State} (hf : s.form) (hr : s.hasRoom) (hs : s.mgmt.running.isSome = true)
    (hu : s.mgmt.unlocked = true) {tag n : Nat} (ht : tag < 2 ^ 16) (hn : n < 32768) :
    ∃ t, exec (.readDebug tag 0 n true) s = .next t ∧ (t.core n).sadv = 0 ∧ Responded s t 7 tag 0 ∧
      t.rdN (ringEntry respRing (s.ringTail respRing) + 8) 8 = (s.core n).sadv.toNat := by
  obtain ⟨u, hu'⟩ : ∃ u, (s.mapCore n fun k => { k with sadv := 0 }) = u := ⟨_, rfl⟩
  have hm : SameMem s u := hu' ▸ mapCore_sameMem ..
  refine ⟨u.respond 7 tag 0 (some (s.core n).sadv.toNat), ?_, ?_, responded_sameMem hm hf hr _ (by decide) ht (by decide), ?_⟩
  · change execReadDebug tag 0 n true s = _
    unfold execReadDebug
    dsimp only
    rw [inService_runs hs, if_neg (by simp [hu]), if_pos ⟨rfl, hn⟩, if_pos rfl, hu']
  · rw [respond_core (hm.hasRoom hr), ← hu', core_mapCore, if_pos rfl]
  · rw [← hm.ringTail, rdN_low _ _ 8 48, rdN_high _ _ 8 56, rdN_respond_entry (hm.form hf) (hm.hasRoom hr)]
    exact responseEntry_result _ _ _ _ _ ((s.core n).sadv.isLt.trans (by decide))

/-! ## HOST_ASSIST (R530) -/

/-- The host's data for the only calibration that was asked for lets it complete. -/
theorem hostAssist_calibrate {s : State} (hf : s.form) (hr : s.hasRoom) (hs : s.mgmt.running.isSome = true) {tag q cl : Nat}
    (ht : tag < 2 ^ 16) (ha : s.mgmt.assists = [(q, .calibrate cl)]) : ∃ t, exec (.hostAssist tag q 0 0) s = .next t ∧
    t.mgmt.assists = [] ∧ (t.omu cl).calData = true ∧ Instr.calibrationComplete cl ∈ t.agenda ∧ Responded s t 5 tag 0 := by
  obtain ⟨u, hu⟩ : ∃ u, (s.mapMgmt fun m => { m with assists := m.assists.filter (·.1 != q) }).assisted (.calibrate cl) 0 0 = u :=
    ⟨_, rfl⟩
  have hm : SameMem s u := hu ▸ ⟨rfl, rfl, rfl, rfl⟩
  refine ⟨u.respond 5 tag 0 none, ?_, ?_, ?_, ?_, responded_sameMem hm hf hr none (by decide) ht (by decide)⟩
  · change execHostAssist tag q 0 0 s = _
    rw [execHostAssist, inService_runs hs, ha]
    simp only [List.find?_cons, beq_self_eq_true, ← hu]
  · rw [respond_mgmt (hm.hasRoom hr), ← hu]
    change s.mgmt.assists.filter (·.1 != q) = []
    simp [ha]
  · rw [respond_omu (hm.hasRoom hr), ← hu]
    change ((s.mapClu cl fun c => { c with omu := { c.omu with calData := true } }).clu cl).omu.calData = true
    rw [clu_mapClu, if_pos rfl]
  · refine mem_respond_agenda (hm.hasRoom hr) _ _ _ _ ?_
    rw [← hu]
    exact List.mem_append_right _ (List.mem_singleton.mpr rfl)
/-- An answer that nobody asked for is refused. -/
theorem hostAssist_none {s : State} (hf : s.form) (hr : s.hasRoom) (hs : s.mgmt.running.isSome = true) {tag : Nat}
    (ht : tag < 2 ^ 16) (ha : s.mgmt.assists = []) (q : Nat) : ∃ t, exec (.hostAssist tag q 0 0) s = .next t ∧
    Responded s t 5 tag 4 := by
  refine ⟨s.respond 5 tag 4 none, ?_, responded_sameMem (.refl s) hf hr none (by decide) ht (by decide)⟩
  change execHostAssist tag q 0 0 s = _
  rw [execHostAssist, inService_runs hs, ha]
  rfl

/-! ## FW_STAGE (R533) -/

/-- An image that does not verify, or is too old, is refused. -/
theorem exec_fwStage_refused {s : State} {v : Word} (hv : Config.freeWord s.free = v)
    (h : v.getLsbD 0 = true → ¬ s.mgmt.fuseMin ≤ v.toNat / 2) (tag pa len : Nat) :
    exec (.fwStage tag pa len) s = .next (({ s with free := s.free + 1 } : State).respond 6 tag 4 none) := by
  change execFwStage tag pa len s = _
  unfold execFwStage
  rw [hv]
  refine if_pos ?_
  cases hb : v.getLsbD 0 with
  | false => rfl
  | true => simpa using h hb
/-- The state in which an image of a version stands in slot B. -/
def State.stagedB (s : State) (v : Nat) : State := ({ s with free := s.free + 1 } : State).mapMgmt fun m => { m with slotB := some v }
/-- While slot A runs, an image that verifies goes to slot B. -/
theorem exec_fwStage_toB {s : State} {v : Word} (hv : Config.freeWord s.free = v) (hb : v.getLsbD 0 = true)
    (hm : s.mgmt.fuseMin ≤ v.toNat / 2) (ha : s.mgmt.running = some true) (tag pa len : Nat) :
    exec (.fwStage tag pa len) s = .next ((s.stagedB (v.toNat / 2)).respond 6 tag 0 none) := by
  have hg : (!v.getLsbD 0 || decide (v.toNat / 2 < s.mgmt.fuseMin)) = false := by rw [hb]; simpa using hm
  change execFwStage tag pa len s = _
  unfold execFwStage
  simp only [hv, hg, ha, Bool.false_eq_true, if_false, Bool.not_true]
  rfl
/-- While slot A runs, FW_STAGE leaves it alone; an image that verifies stands in slot B. -/
theorem fwStage_runsA {s : State} (hf : s.form) (hr : s.hasRoom) (ha : s.mgmt.running = some true) {tag : Nat}
    (ht : tag < 2 ^ 16) (pa len : Nat) : ∃ t k, exec (.fwStage tag pa len) s = .next t ∧ t.mgmt.slotA = s.mgmt.slotA ∧
    Responded s t 6 tag k ∧ ((Config.freeWord s.free).getLsbD 0 = true → s.mgmt.fuseMin ≤ (Config.freeWord s.free).toNat / 2 →
      k = 0 ∧ t.mgmt.slotB = some ((Config.freeWord s.free).toNat / 2)) := by
  obtain ⟨v, hv⟩ : ∃ v, Config.freeWord s.free = v := ⟨_, rfl⟩
  rw [hv]
  by_cases hok : v.getLsbD 0 = true ∧ s.mgmt.fuseMin ≤ v.toNat / 2
  · have hm : SameMem s (s.stagedB (v.toNat / 2)) := ⟨rfl, rfl, rfl, rfl⟩
    refine ⟨_, 0, exec_fwStage_toB hv hok.1 hok.2 ha tag pa len, ?_,
      responded_sameMem hm hf hr none (by decide) ht (by decide), fun _ _ => ⟨rfl, ?_⟩⟩
    all_goals rw [respond_mgmt (hm.hasRoom hr)]; rfl
  · have hm : SameMem s { s with free := s.free + 1 } := ⟨rfl, rfl, rfl, rfl⟩
    refine ⟨_, 4, exec_fwStage_refused hv (fun h1 h2 => hok ⟨h1, h2⟩) tag pa len, ?_,
      responded_sameMem hm hf hr none (by decide) ht (by decide), fun h1 h2 => absurd ⟨h1, h2⟩ hok⟩
    rw [respond_mgmt (hm.hasRoom hr)]

end Sys2Proof.Machine
end

section
/-! SUPPORT. The module inventory: what its update writes, and what is left to be written after it (R429, R473, R531). -/
namespace Sys2Proof.Machine

/-! ## Records written one after another (R531) -/

/-- The records of an inventory, each its offset, length and value, written in order. -/
def State.storeRecords (s : State) (l : List (Nat × Nat × Nat)) : State :=
  l.foldl (fun (s : State) r => s.store (inventoryAt + r.1) r.2.1 r.2.2 false) s
theorem storeRecords_append (s : State) (l l' : List (Nat × Nat × Nat)) :
    s.storeRecords (l ++ l') = (s.storeRecords l).storeRecords l' := List.foldl_append
theorem form_storeRecords {s : State} (h : s.form) (l : List (Nat × Nat × Nat)) : (s.storeRecords l).form := by
  induction l generalizing s with
  | nil => exact h
  | cons r l ih => exact ih (form_store s _ _ _ false h)
/-- Records change bytes and poison alone. -/
theorem storeRecords_module (s : State) (l : List (Nat × Nat × Nat)) :
    ∃ m p, s.storeRecords l = { s with mem := m, poison := p } := by
  induction l generalizing s with
  | nil => exact ⟨s.mem, s.poison, rfl⟩
  | cons r l ih => exact ih (s.store (inventoryAt + r.1) r.2.1 r.2.2 false)
/-- A value that no record touches is read as before. -/
theorem rdN_storeRecords_out {s : State} (h : s.form) (l : List (Nat × Nat × Nat)) (o n : Nat)
    (hd : ∀ r ∈ l, o + n ≤ r.1 ∨ r.1 + r.2.1 ≤ o) : (s.storeRecords l).rdN (inventoryAt + o) n = s.rdN (inventoryAt + o) n := by
  induction l generalizing s with
  | nil => rfl
  | cons r l ih =>
    have hr := hd r List.mem_cons_self
    refine (ih (form_store s _ _ _ false h) fun q hq => hd q (List.mem_cons_of_mem _ hq)).trans ?_
    exact rdN_store_out s _ _ _ _ _ h (by omega)
/-- A record reads as it was written where later records do not touch it. -/
theorem rdN_storeRecords {s : State} (h : s.form) (l l' : List (Nat × Nat × Nat)) (o n v : Nat)
    (hd : ∀ r ∈ l', o + n ≤ r.1 ∨ r.1 + r.2.1 ≤ o) :
    (s.storeRecords (l ++ (o, n, v) :: l')).rdN (inventoryAt + o) n = v % 256 ^ n := by
  rw [storeRecords_append]
  have hl := form_storeRecords h l
  exact (rdN_storeRecords_out (form_store _ _ _ _ false hl) l' o n hd).trans (rdN_store _ _ _ _ hl)

/-! ## The readiness map in the inventory (R66, R531) -/

/-- The words of RDYMAP from the first on, as records. -/
def State.rdyRecords (s : State) (ws : List Nat) : List (Nat × Nat × Nat) :=
  ws.map fun w => (0x100 + 8 * w, 8, (s.rdy.toList.getD w 0).toNat)
/-- The records before those of RDYMAP, and those behind them, which lie from 2^16 on. -/
theorem inventoryRecords_split (s : State) : ∃ l l', s.inventoryRecords = l ++ s.rdyRecords (List.range 32) ++ l' ∧
    ∀ r ∈ l', 0x10000 ≤ r.1 := by
  refine ⟨_, _, by
    unfold State.inventoryRecords State.rdyRecords
    dsimp only
    simp only [List.append_assoc]
    rw [← List.append_assoc, ← List.append_assoc], ?_⟩
  simp only [List.mem_append, List.mem_map]
  rintro r (⟨k, -, rfl⟩ | ⟨k, -, rfl⟩ | ⟨k, -, rfl⟩ | ⟨k, -, rfl⟩ | ⟨k, -, rfl⟩ | ⟨k, -, rfl⟩ | ⟨k, -, rfl⟩) <;>
    exact Nat.le_add_right_of_le (by decide)
/-- Once the records have been written, RDYMAP stands in the inventory. -/
theorem rdN_inventoryRecords_rdy {s : State} (h : s.form) (w : Fin 32) :
    (s.storeRecords s.inventoryRecords).rdN (inventoryAt + (0x100 + 8 * w.val)) 8 = s.rdy[w].toNat := by
  obtain ⟨l, l', hs, hl'⟩ := inventoryRecords_split s
  obtain ⟨a, b, hab, hb⟩ : ∃ a b, List.range 32 = a ++ w.val :: b ∧ ∀ x ∈ b, w.val < x := by
    refine ⟨(List.range 32).take w, (List.range 32).drop (w + 1), ?_, fun x hx => ?_⟩
    · have hlen : w.val < (List.range 32).length := by simp
      conv_lhs => rw [← List.take_append_drop w.val (List.range 32), List.drop_eq_getElem_cons hlen, List.getElem_range]
    · obtain ⟨k, hk, rfl⟩ := List.mem_iff_getElem.mp hx
      simp; omega
  have he : s.inventoryRecords = (l ++ s.rdyRecords a) ++
      (0x100 + 8 * w.val, 8, (s.rdy.toList.getD w.val 0).toNat) :: (s.rdyRecords b ++ l') := by
    rw [hs, hab]; simp [State.rdyRecords]
  have hv : s.rdy.toList.getD w.val 0 = s.rdy[w] := by simp [List.getD]
  rw [he, rdN_storeRecords h, hv]
  · exact Nat.mod_eq_of_lt s.rdy[w].isLt
  · intro r hr
    rcases List.mem_append.mp hr with hr | hr
    · obtain ⟨x, hx, rfl⟩ := List.mem_map.mp hr
      have := hb x hx
      left; dsimp only; omega
    · have := hl' r hr
      left; omega

/-! ## What is read and cleared (R7, R462, R473) -/

/-- A published ring has the records that it had. -/
theorem recs_seen (r : Ring) : r.seen.recs = r.recs := rfl
/-- What a table of rings reads as once every ring has been read. -/
theorem tget_seen (t : Tab Ring) (k : Nat) : tget (t.map fun p => (p.1, p.2.seen)) k .empty = (tget t k .empty).seen := by
  induction t with
  | nil => rfl
  | cons p t ih =>
    obtain ⟨j, r⟩ := p
    simp only [List.map_cons, tget]
    split
    · rfl
    · exact ih
/-- A cluster whose rings have been read. -/
def Cluster.seen (c : Cluster) : Cluster :=
  { c with regRing := c.regRing.seen, spadRing := c.spadRing.seen, l1Ring := c.l1Ring.seen
           sliceRing := c.sliceRing.seen, faultRing := c.faultRing.seen }
theorem clu_ringsSeen (s : State) (cl : Nat) : s.ringsSeen.clu cl = (s.clu cl).seen := by
  change tget (s.clus.map fun p => (p.1, p.2.seen)) cl Cluster.reset = (tget s.clus cl Cluster.reset).seen
  induction s.clus with
  | nil => rfl
  | cons p t ih =>
    obtain ⟨j, c⟩ := p
    simp only [List.map_cons, tget]
    split
    · rfl
    · exact ih
/-- Reading the rings reads every ring, and nothing else. -/
theorem rings_ringsSeen (s : State) : s.ringsSeen.rings = s.rings.map Ring.seen := by
  have hs : ∀ k, tget s.ringsSeen.stackRings k .empty = (tget s.stackRings k .empty).seen := tget_seen s.stackRings
  have hm : ∀ k, tget s.ringsSeen.meshRings k .empty = (tget s.meshRings k .empty).seen := tget_seen s.meshRings
  have hp : ∀ k, tget s.ringsSeen.siteRings k .empty = (tget s.siteRings k .empty).seen := tget_seen s.siteRings
  unfold State.rings
  simp only [hs, hm, hp, clu_ringsSeen, List.map_append, List.map_flatMap, List.map_map, Function.comp_def]
  rfl
/-- Where no ring holds a record, none does once they have been read. -/
theorem noRecs_ringsSeen {s : State} (h : ∀ x ∈ s.rings, x.recs = []) : (s.ringsSeen.rings.all fun x => x.recs.isEmpty) = true := by
  rw [rings_ringsSeen, List.all_map, List.all_eq_true]
  intro x hx
  simp [recs_seen, h x hx]
/-- An aperture that is set changes the functions and the free values alone. -/
theorem setAperture_module (s : State) : ∃ f x, s.setAperture = { s with funcs := f, free := x } := by
  unfold State.setAperture
  dsimp only
  split
  · exact ⟨_, _, rfl⟩
  · split
    · exact ⟨_, _, rfl⟩
    · exact ⟨s.funcs, _, rfl⟩
theorem mapPort_sameMem (s : State) (k : Nat) (f : Port → Port) : SameMem s (s.mapPort k f) :=
  SameMem.trans ⟨rfl, rfl, rfl, rfl⟩ (inventory_sameMem _)
/-- The skew bit of a port site is cleared where the free value says so (R7, R462). -/
def clearSkew (v : Nat) (s : State) (k : Nat) : State :=
  if v.testBit k && (s.port k).skew then (s.mapPort k fun p => { p with skew := false }).inventory else s
theorem clearSkew_sameMem (v : Nat) (s : State) (k : Nat) : SameMem s (clearSkew v s k) := by
  unfold clearSkew
  split
  · exact (mapPort_sameMem ..).trans (inventory_sameMem _)
  · exact .refl s
/-- A skew bit that is not set is not cleared. -/
theorem clearSkew_none {s : State} (v : Nat) {ks : List Nat} (h : ∀ k ∈ ks, (s.port k).skew = false) :
    ks.foldl (clearSkew v) s = s := by
  induction ks with
  | nil => rfl
  | cons k ks ih =>
    have hk : clearSkew v s k = s := if_neg (by simp [h k List.mem_cons_self])
    rw [List.foldl_cons, hk, ih fun j hj => h j (List.mem_cons_of_mem _ hj)]
/-- Every error log ring is cleared where the free value says so and some ring holds a record (R473). -/
def clearRings (v : Nat) (s : State) : State :=
  if !v.testBit 4 || (s.rings.all fun x => x.recs.isEmpty) then s
  else
    { s with
      clus := s.clus.map fun (p : Nat × Cluster) =>
        (p.1, { p.2 with regRing := .empty, spadRing := .empty, l1Ring := .empty, sliceRing := .empty, faultRing := .empty })
      stackRings := [], meshRings := [], siteRings := [] }.inventory
theorem clearRings_sameMem (v : Nat) (s : State) : SameMem s (clearRings v s) := by
  unfold clearRings
  split
  · exact .refl s
  · exact SameMem.trans ⟨rfl, rfl, rfl, rfl⟩ (inventory_sameMem _)
/-- The free value that decides what is read and cleared. -/
def State.clearing (s : State) : Nat := (s.ringsSeen.freeNat (2 ^ 6)).1
/-- After the rings have been read, skew bits, an aperture and the rings, each as the free value says. -/
theorem readAndClear_eq (s : State) : s.readAndClear = clearRings s.clearing
    (if s.clearing.testBit 5 then ((List.range 4).foldl (clearSkew s.clearing) (s.ringsSeen.freeNat (2 ^ 6)).2).setAperture
     else (List.range 4).foldl (clearSkew s.clearing) (s.ringsSeen.freeNat (2 ^ 6)).2) := rfl
theorem setAperture_sameMem (s : State) : SameMem s s.setAperture := by
  obtain ⟨_, _, h⟩ := setAperture_module s
  rw [h]; exact ⟨rfl, rfl, rfl, rfl⟩
theorem readAndClear_sameMem (s : State) : SameMem s s.readAndClear := by
  rw [readAndClear_eq]
  have h : SameMem s ((List.range 4).foldl (clearSkew s.clearing) (s.ringsSeen.freeNat (2 ^ 6)).2) :=
    SameMem.trans ⟨rfl, rfl, rfl, rfl⟩ (.foldl (clearSkew_sameMem _) _ _)
  refine SameMem.trans ?_ (clearRings_sameMem ..)
  split
  · exact h.trans (setAperture_sameMem _)
  · exact h
/-- With no skew bit set and no record logged, there is nothing to clear, and the controller stays as it is. -/
theorem readAndClear_mgmt {s : State} (hk : ∀ k, k < 4 → (s.port k).skew = false) (hr : ∀ x ∈ s.rings, x.recs = []) :
    s.readAndClear.mgmt = s.mgmt := by
  obtain ⟨u, hu⟩ : ∃ u, (s.ringsSeen.freeNat (2 ^ 6)).2 = u := ⟨_, rfl⟩
  have hport : ∀ k, u.port k = s.port k := fun k => by rw [← hu]; rfl
  have hmgmt : u.mgmt = s.mgmt := by rw [← hu]; rfl
  have hrings : (u.rings.all fun x => x.recs.isEmpty) = true := by rw [← hu]; exact noRecs_ringsSeen hr
  have hclear : ∀ t : State, t.rings = u.rings → clearRings s.clearing t = t := fun t ht => by
    rw [clearRings, ht, hrings, Bool.or_true, if_pos rfl]
  rw [readAndClear_eq, hu, clearSkew_none (s := u) _ fun k h => by rw [hport, hk k (List.mem_range.mp h)]]
  split
  · obtain ⟨f, x, ha⟩ := setAperture_module u
    rw [hclear _ (by rw [ha]; rfl), ha]
    exact hmgmt
  · rw [hclear u rfl, hmgmt]

/-! ## INVENTORY_UPDATE (R429, R531) -/

/-- With nothing stale and no alarm there is nothing to write. -/
theorem exec_inventoryUpdate_idle {s : State} (hr : s.mgmt.running.isSome = true) (ha : s.mgmt.alarms = 0)
    (hs : s.mgmt.stale = false) : exec .inventoryUpdate s = .next s := by
  change execInventoryUpdate s = _
  unfold execInventoryUpdate
  rw [if_neg (by simp [State.fwRuns, hr]), if_neg (by omega), if_pos (by simp [hs])]
/-- With the generation number even, the update makes it odd. -/
theorem exec_inventoryUpdate_even {s : State} (hr : s.mgmt.running.isSome = true) (ha : s.mgmt.alarms = 0)
    (hs : s.mgmt.stale = true) (hg : s.rdN inventoryAt 8 % 2 = 0) : exec .inventoryUpdate s =
      .next ((s.store inventoryAt 8 (s.rdN inventoryAt 8 + 1) false).post .inventoryUpdate) := by
  change execInventoryUpdate s = _
  unfold execInventoryUpdate
  dsimp only
  rw [if_neg (by simp [State.fwRuns, hr]), if_neg (by omega), if_neg (by simp [hs]), if_pos hg]
/-- With the generation number odd, the update writes the records and makes it even. -/
theorem exec_inventoryUpdate_odd {s : State} (hr : s.mgmt.running.isSome = true) (ha : s.mgmt.alarms = 0)
    (hs : s.mgmt.stale = true) (hg : s.rdN inventoryAt 8 % 2 = 1) : exec .inventoryUpdate s =
      .next ((((s.storeRecords s.inventoryRecords).store inventoryAt 8 (s.rdN inventoryAt 8 + 1) false).mapMgmt fun m =>
        { m with stale := false }).readAndClear) := by
  change execInventoryUpdate s = _
  unfold execInventoryUpdate State.storeRecords
  dsimp only
  rw [if_neg (by simp [State.fwRuns, hr]), if_neg (by omega), if_neg (by simp [hs]), if_neg (by omega)]
/-- The update's first step: the generation number becomes odd, and nothing else changes in memory. -/
theorem inventoryUpdate_even {s : State} (hf : s.form) (hr : s.mgmt.running.isSome = true) (ha : s.mgmt.alarms = 0)
    (hs : s.mgmt.stale = true) (hg : s.rdN inventoryAt 8 % 2 = 0) : ∃ t, exec .inventoryUpdate s = .next t ∧
      t.rdN inventoryAt 8 = s.rdN inventoryAt 8 + 1 ∧ KeepsMemoryBut s t inventoryAt 8 ∧ Instr.inventoryUpdate ∈ t.agenda := by
  have hlt := rdN_lt s inventoryAt 8
  refine ⟨_, exec_inventoryUpdate_even hr ha hs hg, ?_, ⟨fun b hb => ?_, fun w => ?_⟩, ?_⟩
  · rw [(SameMem.post _ _).rdN, rdN_store s _ _ _ hf, Nat.mod_eq_of_lt (by omega)]
  · exact byte_store_out s _ _ _ b hf hb
  · exact store_isFull s inventoryAt 8 (s.rdN inventoryAt 8 + 1) w
  · exact List.mem_append_right _ (List.mem_singleton.mpr rfl)
/-- The update's second step: the readiness map stands in the inventory, the generation number becomes even, and with nothing to
clear nothing is left to be written. -/
theorem inventoryUpdate_odd {s : State} (hf : s.form) (hr : s.mgmt.running.isSome = true) (ha : s.mgmt.alarms = 0)
    (hs : s.mgmt.stale = true) (hg : s.rdN inventoryAt 8 % 2 = 1) (w : Fin 32) : ∃ t, exec .inventoryUpdate s = .next t ∧
      t.rdN inventoryAt 8 = (s.rdN inventoryAt 8 + 1) % 2 ^ 64 ∧ t.rdN (inventoryAt + (0x100 + 8 * w.val)) 8 = s.rdy[w].toNat ∧
      ((∀ k, k < 4 → (s.port k).skew = false) → (∀ x, x ∈ s.rings → x.recs = []) → t.mgmt.stale = false) := by
  obtain ⟨u, hu⟩ : ∃ u, s.storeRecords s.inventoryRecords = u := ⟨_, rfl⟩
  have hfu : u.form := hu ▸ form_storeRecords hf _
  have hrdy := rdN_inventoryRecords_rdy hf w
  obtain ⟨v, hv⟩ : ∃ v, (u.store inventoryAt 8 (s.rdN inventoryAt 8 + 1) false).mapMgmt (fun m => { m with stale := false }) = v :=
    ⟨_, rfl⟩
  have hm : SameMem (u.store inventoryAt 8 (s.rdN inventoryAt 8 + 1) false) v.readAndClear :=
    (hv ▸ SameMem.mapMgmt ..).trans (readAndClear_sameMem v)
  refine ⟨v.readAndClear, by rw [exec_inventoryUpdate_odd hr ha hs hg, hu, hv], ?_, ?_, fun hk hx => ?_⟩
  · rw [hm.rdN, rdN_store u _ _ _ hfu, show 256 ^ 8 = 2 ^ 64 from rfl]
  · rw [hm.rdN, rdN_store_out u _ _ _ _ _ hfu (.inr (by omega)), ← hu, hrdy]
  · obtain ⟨m, p, hmod⟩ := storeRecords_module s s.inventoryRecords
    have hport : ∀ k, v.port k = s.port k := fun k => by rw [← hv, ← hu, hmod]; rfl
    have hrings : v.rings = s.rings := by rw [← hv, ← hu, hmod]; rfl
    rw [readAndClear_mgmt (fun k h => by rw [hport, hk k h]) (by rw [hrings]; exact hx), ← hv]
    rfl

end Sys2Proof.Machine
end

section
/-! CERTIFICATE. Reset, bring-up, the management rings and commands, and the inventory. -/
namespace Sys2Proof.Machine

/-! ## The state after reset (R9, R66, R69, R70, R259, R407) -/

/-- A table that holds one value everywhere reads as it, past its end too. -/
theorem getD_replicate_self {α : Type} (n i : Nat) (a : α) : (Vector.replicate n a).toList.getD i a = a := by
  rw [Vector.toList_replicate]
  exact List.getElem?_getD_replicate_default_eq a n i
/-- No unit is ready after reset. -/
theorem reset_ready (w b : Nat) : State.reset.ready w b = false := by
  have h : State.reset.rdy.toList.getD w 0 = 0 := getD_replicate_self 32 w 0
  rw [State.ready, h]
  exact BitVec.getLsbD_zero
/-- Every remap entry is ABSENT after reset. -/
theorem reset_remapState (n : Nat) : State.reset.remapState n = 0 := by
  have h : State.reset.remapOf n = 0 := getD_replicate_self 64 (n % 64) 0
  rw [State.remapState, h]
  rfl
/-- Settles O4: each field reads its reset value. -/
theorem resetState : Obligations.ResetState := by
  intro c n cl a w i
  have hrdy : State.reset.rdy[i] = 0 := Vector.getElem_replicate i.isLt
  have hparts : State.reset.parts[i] = 0 := Vector.getElem_replicate i.isLt
  exact ⟨rfl, rfl, rfl, rfl, rfl, rfl, BitVec.getLsbD_zero, rfl, rfl, rfl, rfl, rfl, rfl, rfl, rfl, rfl, rfl, rfl, reset_ready _ _,
    reset_remapState n, hrdy, hparts, rfl, rfl, rfl⟩
/-- Settles O5: memory and the sets of words are empty after reset. -/
theorem resetForm : Obligations.ResetForm := ⟨rfl, rfl, rfl, rfl⟩

/-! ## The places of the rings, in numbers (R528) -/

theorem ringHead_cmdRing (s : State) : s.ringHead cmdRing = s.rdN 8 8 % 16383 := rfl
theorem ringTail_cmdRing (s : State) : s.ringTail cmdRing = s.rdN 0 8 % 16383 := rfl
theorem ringTail_respRing (s : State) : s.ringTail respRing = s.rdN 0x100000 8 % 16383 := rfl
theorem ringEntry_cmdRing (i : Nat) : ringEntry cmdRing i = 64 + 64 * i := rfl
theorem ringEntry_respRing (i : Nat) : ringEntry respRing i = 0x100040 + 64 * i := rfl
theorem inventoryAt_rdy (w : Nat) : inventoryAt + (0x100 + 8 * w) = 0x400100 + 8 * w := by
  rw [← Nat.add_assoc]; rfl

/-! ## Management -/

/-- Settles O51: clause by clause, from what each event and command does. -/
theorem management : Obligations.Management := by
  unfold Obligations.Management
  refine ⟨?resets, ?bringUp, ?rings, ?commands, ?inventory⟩
  case resets =>
    intro s c n cl
    obtain ⟨l, hreset⟩ := exec_moduleReset s
    obtain ⟨t, hloss, hctxs, hcores, hclus, hrdy, hlinks, hparts, hvmain, hrun⟩ := exec_vmainLoss s
    obtain ⟨k, hon⟩ := exec_vmainPowerOn s
    refine ⟨⟨_, hreset, rfl, rfl, rfl, rfl, rfl, rfl, rfl, rfl, rfl, rfl, rfl, rfl, rfl, boot_slotA s.mgmt,
      boot_slotB s.mgmt, boot_recovery s.mgmt, byte_resetUnits s⟩, ⟨t, hloss, ?_, ?_, ?_, hrdy, hlinks, hparts, hvmain, hrun⟩,
      ⟨_, hon, rfl, .of_eq rfl rfl rfl⟩⟩
    · rw [State.ctx, hctxs]; rfl
    · rw [State.core, hcores]; rfl
    · rw [State.clu, hclus]; rfl
  case bringUp =>
    intro s l h f cl at' hrun
    refine ⟨fun hl => hostLinkTrained_up hl at' hrun, fun hv => ?_⟩
    have hs := staged_of hrun hv
    refine ⟨fun hh hn => ⟨hbmStackReady_ready hs hh hn, ?_⟩, fun hu hf => fieldReady_ready hs hu hf, fun hcl hf hn => ?_⟩
    · obtain ⟨_, _, _, _, _, _, _, _, hrep⟩ := report_module s
      exact ⟨_, exec_hbmStackReady_fail hs hh hn, by rw [hrep]; exact hn⟩
    · obtain ⟨t, he, hup, hclu, hm⟩ := exec_clusterReady hs hf hn hcl
      refine ⟨t, he, hup, by rw [hclu]; rfl, hm.keeps, fun i => ⟨fun p hp => ?_, fun hp => ?_⟩⟩
      · exact remapState_colOf_filled hclu hp
      · exact remapState_filled_none hclu hp
  case rings =>
    intro s tag tail i hf
    refine ⟨fun hb hw ht hn hi => commandRingTailWrite_next hf hb hw ht hn hi, fun ht => ⟨fun hr => ?_, fun hr => ?_⟩, ?_⟩
    · obtain ⟨t, k, he, hk, -, hresp⟩ := spdm_responded hf hr ht 49 0
      exact ⟨t, k, he, hk, hresp⟩
    · exact spdm_waits hr tag 49 0
    · intro r hw hh _ hc ht hn
      exact responseRingHeadWrite_waiting hf hw hh hc ht hn
  case commands =>
    intro s tag fn ctrl unit v x val m hf ht hr
    refine ⟨?_, fun hn => setCtrl_recovery hf hr hn ht fn ctrl unit x, fun hs => ⟨fun hc => ?_, fun hc hu => ?_,
      setCtrl_mode0 hf hr hs ht unit, fun hu hx => setCtrl_reserve hf hr hs hu ht unit hx,
      fun hu hv => setMinVersion_unlocked hf hr hs hu ht hv, fun hu => setMinVersion_locked hf hr hs hu ht v,
      fun hi => setTable_asid hf hr hs ht hi val, fun hu hn => readDebug_sadv hf hr hs hu ht hn,
      fun ha => hostAssist_calibrate hf hr hs ht ha, fun ha => hostAssist_none hf hr hs ht ha fn⟩, fun ha => ?_⟩
    · obtain ⟨t, k, he, -, hk, hresp⟩ := spdm_responded hf hr ht 48 m
      exact ⟨t, he, hk le_rfl ▸ hresp⟩
    · exact ⟨_, exec_setCtrl_absent hs hc tag unit x, responded_sameMem (.refl s) hf hr none (by decide) ht (by decide)⟩
    · exact ⟨_, exec_setCtrl_locked hs hc hu tag unit x, responded_sameMem (.refl s) hf hr none (by decide) ht (by decide)⟩
    · obtain ⟨t, k, he, hA, hresp, -⟩ := fwStage_runsA hf hr ha ht 0 0
      exact ⟨t, k, he, hA, hresp⟩
  case inventory =>
    intro s w hf hrun ha
    refine ⟨exec_inventoryUpdate_idle hrun ha, inventoryUpdate_even hf hrun ha, fun hs hg => ?_⟩
    have h := inventoryUpdate_odd hf hrun ha hs hg w
    rwa [inventoryAt_rdy] at h

/-- Settles O60: clause by clause, from what each event and command does. -/
theorem managementComplete : Obligations.ManagementComplete := by
  unfold Obligations.ManagementComplete
  intro s hf
  refine ⟨fun c n => ?_, fun c n => ?_, ?_, fun hrun => ⟨fun l hl => hostLinkTrained_up hl true hrun, fun hv => ?_⟩,
    fun tail i hb hw ht hn hi => commandRingTailWrite_next hf hb hw ht hn hi, fun tail r hw hh _ hc ht hn => ?_,
    fun tag ht hr hA => ?_, fun hrun ha hs hg => ?_, fun r => rfl⟩
  · obtain ⟨l, h⟩ := exec_moduleReset s
    exact ⟨_, h, rfl, rfl, rfl, rfl, rfl⟩
  · obtain ⟨t, he, hctxs, hcores, -, hrdy, -, -, hvmain, -⟩ := exec_vmainLoss s
    exact ⟨t, he, by rw [State.ctx, hctxs]; rfl, by rw [State.core, hcores]; rfl, hrdy, hvmain⟩
  · obtain ⟨l, h⟩ := exec_vmainPowerOn s
    exact ⟨_, h, rfl, .of_eq rfl rfl rfl⟩
  · have hs := staged_of hrun hv
    refine ⟨fun h hh hn => hbmStackReady_ready hs hh hn, fun f hu hf => ?_, fun cl hcl hf hn => ?_⟩
    · obtain ⟨t, he, hup, -, hm⟩ := fieldReady_ready hs hu hf
      exact ⟨t, he, hup, hm⟩
    · obtain ⟨t, he, hup, -, hm⟩ := exec_clusterReady hs hf hn hcl
      exact ⟨t, he, hup, hm.keeps⟩
  · obtain ⟨t, he, hhead, hentry, -, hwait⟩ := responseRingHeadWrite_waiting hf hw hh hc ht hn
    exact ⟨t, he, hhead, hentry, hwait⟩
  · have hs : s.mgmt.running.isSome = true := by rw [hA]; rfl
    refine ⟨fun m => ?_, setCtrl_mode0 hf hr hs ht, fun v hu hv => setMinVersion_unlocked hf hr hs hu ht hv,
      fun i val hi => setTable_asid hf hr hs ht hi val, fun q cl ha => ?_, fun pa len hb hm => ?_, fun n hu hn => ?_⟩
    · obtain ⟨t, k, he, -, hk, hresp⟩ := spdm_responded hf hr ht 48 m
      exact ⟨t, he, hk le_rfl ▸ hresp⟩
    · obtain ⟨t, he, hassists, -, hcal, hresp⟩ := hostAssist_calibrate hf hr hs ht ha
      exact ⟨t, he, hassists, hcal, hresp⟩
    · obtain ⟨t, k, he, hslot, hresp, hok⟩ := fwStage_runsA hf hr hA ht pa len
      obtain ⟨rfl, hB⟩ := hok hb hm
      exact ⟨t, he, hB, hslot, hresp⟩
    · obtain ⟨t, he, hsadv, hresp, -⟩ := readDebug_sadv hf hr hs hu ht hn
      exact ⟨t, he, hsadv, hresp⟩
  · obtain ⟨t, he, hg', hbut, -⟩ := inventoryUpdate_even hf hrun ha hs hg
    exact ⟨t, he, hg', hbut⟩

end Sys2Proof.Machine
end

section
/-! SUPPORT. System registers: the rights to read and to write them, and what MFS and each MTS do (R42 to R64,
R389, R433). -/
namespace Sys2Proof.Machine

/-! ## Rights (R42, R43) -/

/-- The right that a read, or a write, of a register needs. -/
def rightFor (p : Right × Right) (write : Bool) : Right := if write then p.2 else p.1
/-- A number that names no register is illegal. -/
theorem regCheck_none {s : State} {num : Nat} (h : regRights num = none) (write : Bool) (k : Out) :
    s.regCheck num write k = .next (s.trapHead 0x01) := by
  unfold State.regCheck
  rw [h]
/-- A register that any context may access, or whose write is discarded, passes. -/
theorem regCheck_pass {s : State} {num : Nat} {p : Right × Right} (h : regRights num = some p) {write : Bool}
    (hp : rightFor p write = .any ∨ rightFor p write = .ro) (k : Out) : s.regCheck num write k = k := by
  obtain ⟨r, w⟩ := p
  unfold State.regCheck
  rw [h]
  cases write <;> obtain rfl | rfl := hp <;> rfl
/-- A register for sys. -/
theorem regCheck_sys {s : State} {num : Nat} {p : Right × Right} (h : regRights num = some p) {write : Bool}
    (hp : rightFor p write = .sys) (k : Out) :
    s.regCheck num write k = if s.me.sys then k else .next (s.trap 0x04 (BitVec.ofNat 64 num)) := by
  obtain ⟨r, w⟩ := p
  unfold State.regCheck
  rw [h]
  cases write <;> obtain rfl := hp <;> rfl
/-- A register for the miller. -/
theorem regCheck_miller {s : State} {num : Nat} {p : Right × Right} (h : regRights num = some p) {write : Bool}
    (hp : rightFor p write = .miller) (k : Out) :
    s.regCheck num write k = if ctxNo s.cur = 0 then k else .next (s.trap 0x04 (BitVec.ofNat 64 num)) := by
  obtain ⟨r, w⟩ := p
  unfold State.regCheck
  rw [h]
  cases write <;> obtain rfl := hp <;> rfl

/-! ## MFS (R433) -/

theorem exec_mfs (d : XR) (num : BitVec 12) (s : State) :
    exec (.mfs d num) s = s.regCheck num.toNat false (retire s (s.putX d (s.readReg num.toNat))) := rfl
/-- A register that every context may read. -/
theorem mfs_any {s : State} (hs : s.flows) (d : XR) {num : BitVec 12} {w : Right} {v : Word}
    (h : regRights num.toNat = some (.any, w)) (hv : s.readReg num.toNat = v) : exec (.mfs d num) s = .next (s.wroteX d v) := by
  rw [exec_mfs, regCheck_pass h (.inl rfl), retire_flows hs, hv]
  rfl
/-- A register that only sys may read. -/
theorem mfs_sys {s : State} (hs : s.flows) (d : XR) {num : BitVec 12} {w : Right} {v : Word}
    (h : regRights num.toNat = some (.sys, w)) (hv : s.readReg num.toNat = v) :
    (s.me.sys = true → exec (.mfs d num) s = .next (s.wroteX d v)) ∧
    (s.me.sys = false → exec (.mfs d num) s = .next (s.trap 0x04 (num.setWidth 64))) := by
  rw [exec_mfs, regCheck_sys h rfl, retire_flows hs, hv]
  refine ⟨fun hy => by rw [if_pos hy]; rfl, fun hn => ?_⟩
  rw [if_neg (by simp [hn]), BitVec.ofNat_toNat]
/-- A number that names none. -/
theorem mfs_none {s : State} (d : XR) {num : BitVec 12} (h : regRights num.toNat = none) :
    exec (.mfs d num) s = .next (s.trapHead 0x01) := by
  rw [exec_mfs, regCheck_none h]
/-- The SGMASK registers stand at 0x210 to 0x213. -/
theorem readReg_sgmask (s : State) (m : Fin 4) : s.readReg (0x210 + m.val) = (s.core s.myCore).sgmask[m] := by
  have h : ∀ q : Vector Word 4, q.toList.getD m.val 0 = q[m] := fun q => by simp [List.getD]
  have hr : s.readReg (0x210 + m.val) = (s.core s.myCore).sgmask.toList.getD m.val 0 := by
    fin_cases m <;> rfl
  rw [hr, h]
/-- RDYMAP is read as it stood at the end of the previous cycle, at 0x400 to 0x41F (R527). -/
theorem readReg_rdymap (s : State) (i : Fin 32) : s.readReg (0x400 + i.val) = s.rdySeen[i] := by
  have h : ∀ q : Vector Word 32, q.toList.getD i.val 0 = q[i] := fun q => by simp [List.getD]
  have hr : s.readReg (0x400 + i.val) = s.rdySeen.toList.getD i.val 0 := by
    fin_cases i <;> rfl
  rw [hr, h]
/-- GOVSTAT is that of the core's cluster (R65). -/
theorem readReg_govstat (s : State) : s.readReg 0x300 = s.govstat (s.cur / 1024) := by
  have h : clusterOf s.myCore = s.cur / 1024 := Nat.div_div_eq_div_mul ..
  rw [← h]
  rfl

/-! ## MTS to a register of the context (R44 to R60, R433) -/

/-- What an MTS with its rights answers where no reserved bit is set: `w` written, and the register's poison gone (R470). -/
def MtsWrites (s : State) (a : XS) (i : Instr) (sys : Bool) (num rsv : Word) (w : Ctx) (head : Prop) : Prop :=
  ((sys = true → s.me.sys = true) → s.me.getS a &&& rsv = 0 → head →
    exec i s = .next (s.stepped (s.setMe { w with badSys := kdel s.me.badSys (s.me.badNo num.toNat) }))) ∧
  ((sys = true → s.me.sys = true) → s.me.getS a &&& rsv ≠ 0 → exec i s = .next (s.trap 0x03 (s.me.getS a))) ∧
  (sys = true → s.me.sys = false → exec i s = .next (s.trap 0x04 num))
/-- The right to write a register of the context. -/
def ctxRight (sys : Bool) : Right := if sys then .sys else .any
/-- An MTS is refused by its right and its reserved bits alone, and else does what its own effect says. -/
theorem mtsWrites_of_writeReg {s : State} {a : XS} {i : Instr} {sys : Bool} {num rsv : Word} {w : Ctx} {head : Prop} (r : Right)
    (k : Word → Out) (he : exec i s = writeReg s num.toNat a rsv k) (hr : regRights num.toNat = some (r, ctxRight sys))
    (hk : s.me.getS a &&& rsv = 0 → head →
      k (s.me.getS a) = .next (s.stepped (s.setMe { w with badSys := kdel s.me.badSys (s.me.badNo num.toNat) }))) :
    MtsWrites s a i sys num rsv w head := by
  have hallowed : (sys = true → s.me.sys = true) → exec i s =
      if s.me.getS a &&& rsv = 0 then k (s.me.getS a) else .next (s.trap 0x03 (s.me.getS a)) := fun hy => by
    rw [he]
    unfold writeReg
    cases sys with
    | false => exact regCheck_pass hr (.inl rfl) _
    | true => rw [regCheck_sys hr rfl, if_pos (hy rfl)]
  refine ⟨fun hy hv hh => by rw [hallowed hy, if_pos hv, hk hv hh], fun hy hv => by rw [hallowed hy, if_neg hv], ?_⟩
  rintro rfl hn
  rw [he]
  unfold writeReg
  rw [regCheck_sys hr rfl, if_neg (by simp [hn]), BitVec.ofNat_toNat, BitVec.setWidth_eq]
/-- An MTS that writes a register of the context and asks for no head index. -/
theorem mtsWrites_of_writeCtx {s : State} (hs : s.flows) {a : XS} {i : Instr} {sys : Bool} {num rsv : Word} {w : Ctx}
    (r : Right) (f : Ctx → Word → Ctx) (he : exec i s = writeCtx s num.toNat a rsv f)
    (hr : regRights num.toNat = some (r, ctxRight sys)) (hw : s.me.getS a &&& rsv = 0 → f s.me (s.me.getS a) = w) (head : Prop) :
    MtsWrites s a i sys num rsv w head :=
  mtsWrites_of_writeReg r _ he hr fun hv _ => by rw [retire_flows hs, State.mapMe, hw hv]
/-- With a head index that is not 0 a code address is taken (R59). -/
theorem needHead_ok (s : State) {v : Word} (h : v.toNat / 2 % 32 ≠ 0) (k : Out) : needHead s v k = k := if_neg h

/-- Only FCTX and SCPTR have a shadow copy, and so two places for their poison (R48, R68). -/
theorem badNo_plain (c : Ctx) {num : Nat} (h1 : num ≠ 1) (h2 : num ≠ 2) : c.badNo num = num := by
  simp [Ctx.badNo, h1, h2]
/-- A word whose bits outside a mask are zero is its own part in the mask. -/
theorem and_mask_of_and_not {v m : Word} (h : v &&& ~~~m = 0) : v &&& m = v := by
  calc v &&& m = (v &&& m) ||| (v &&& ~~~m) := by rw [h]; exact BitVec.or_zero.symm
    _ = v &&& (m ||| ~~~m) := (BitVec.and_or_distrib_left ..).symm
    _ = v := by rw [BitVec.or_not_self, BitVec.and_allOnes]
/-- EBCMIN is written in its field of FCTX (R46). -/
theorem setField_ebcmin (x : Word) {v : Word} (h : v &&& 0xFFFFFFFFFFFFFFF0#64 = 0) :
    setField x 3 4 v = (x &&& ~~~0x78#64) ||| (v <<< 3) := by
  have hv : v &&& 0xF#64 = v := and_mask_of_and_not h
  have hs : v <<< 3 &&& 0x78#64 = v <<< 3 := by
    conv_rhs => rw [← hv, BitVec.shiftLeft_and_distrib]
    rfl
  unfold setField
  exact congrArg (_ ||| ·) hs

theorem exec_mts (a : XS) (num : BitVec 12) (s : State) : exec (.mts a num) s = execMts a num s := rfl
theorem exec_mts_ecause (a : XS) (s : State) :
    exec (.mts a 0x102) s = writeCtx s 0x102 a rsvEcause fun c v => { c with ecause := v } :=
  (exec_mts ..).trans (if_pos rfl)
theorem exec_mts_eval (a : XS) (s : State) :
    exec (.mts a 0x103) s = writeCtx s 0x103 a 0 fun c v => { c with eval := v } :=
  (exec_mts ..).trans ((if_neg (by decide)).trans (if_pos rfl))

/-- The MTS forms with their right, number, reserved bits and effect. -/
theorem mts_writes {s : State} (hs : s.flows) (a : XS) (i : Instr) (sys : Bool) (num rsv : Word) (w : Ctx)
    (h : (i, sys, num, rsv, w) ∈ ([
      ((.mtsFctx a : Instr), false, 0x001, 0xFFF00000#64, s.me.setFctx (s.me.getS a)),
      (.mtsEbcmin a, false, 0x004, 0xFFFFFFFFFFFFFFF0#64, s.me.setFctx ((s.me.fctx &&& ~~~0x78#64) ||| (s.me.getS a <<< 3))),
      (.mtsScptr a, false, 0x002, 0xFF0000000000003F#64, s.me.setScptr (s.me.getS a)),
      (.mtsFstat a, false, 0x003, 0xFFFFFFFFFFFFFE00#64, { s.me with
        fstat := (s.me.fstat &&& s.me.getS a) ||| (if s.me.merged.1 = s.cycle then s.me.fstat &&& s.me.merged.2 else 0) }),
      (.mtsPriv a, true, 0x100, 0xFFFFFFFFFFFFFFFC#64, { s.me with priv := s.me.getS a }),
      (.mtsEpc a, true, 0x101, 0xFF00000000000001#64, { s.me with epc := s.me.getS a }),
      (.mts a 0x102, true, 0x102, 0xFFFFFFFFFFFF0300#64, { s.me with ecause := s.me.getS a }),
      (.mts a 0x103, true, 0x103, 0#64, { s.me with eval := s.me.getS a }),
      (.mtsTvec a, true, 0x104, 0xFF00000000000000#64, { s.me with tvec := tvecFor s.cur (s.me.getS a) }),
      (.mtsAsid a, true, 0x105, 0xFFFFFFFFFFFF0000#64, { s.me with asid := s.me.getS a })] : List (Instr × Bool × Word × Word × Ctx))) :
    MtsWrites s a i sys num rsv w (i = .mtsEpc a ∨ i = .mtsTvec a → (s.me.getS a).toNat / 2 % 32 ≠ 0) := by
  simp only [List.mem_cons, List.not_mem_nil, or_false, Prod.mk.injEq] at h
  obtain ⟨rfl, rfl, rfl, rfl, rfl⟩ | ⟨rfl, rfl, rfl, rfl, rfl⟩ | ⟨rfl, rfl, rfl, rfl, rfl⟩ | ⟨rfl, rfl, rfl, rfl, rfl⟩ |
    ⟨rfl, rfl, rfl, rfl, rfl⟩ | ⟨rfl, rfl, rfl, rfl, rfl⟩ | ⟨rfl, rfl, rfl, rfl, rfl⟩ | ⟨rfl, rfl, rfl, rfl, rfl⟩ |
    ⟨rfl, rfl, rfl, rfl, rfl⟩ | ⟨rfl, rfl, rfl, rfl, rfl⟩ := h
  · exact mtsWrites_of_writeCtx hs .any Ctx.setFctx rfl rfl (fun _ => rfl) _
  · exact mtsWrites_of_writeCtx hs .any (fun c v => c.setFctx (setField c.fctx 3 4 v)) rfl rfl
      (fun hv => by rw [setField_ebcmin s.me.fctx hv]) _
  · exact mtsWrites_of_writeCtx hs .any Ctx.setScptr rfl rfl (fun _ => rfl) _
  · exact mtsWrites_of_writeCtx hs .any (fun c v => { c with
      fstat := (c.fstat &&& v) ||| (if c.merged.1 = s.cycle then c.fstat &&& c.merged.2 else 0) }) rfl rfl (fun _ => rfl) _
  · exact mtsWrites_of_writeCtx hs .any (fun c v => { c with priv := v }) rfl rfl (fun _ => rfl) _
  · refine mtsWrites_of_writeReg .sys (fun v => needHead s v (retire s
      (s.mapMe fun c => { c with epc := v, badSys := kdel c.badSys 0x101 }))) rfl rfl fun _ hh => ?_
    rw [needHead_ok s (hh (.inl rfl)), retire_flows hs, badNo_plain s.me (by decide) (by decide)]
    rfl
  · refine mtsWrites_of_writeCtx hs .sys (fun c v => { c with ecause := v }) ?_ rfl (fun _ => rfl) _
    exact exec_mts_ecause a s
  · refine mtsWrites_of_writeCtx hs .sys (fun c v => { c with eval := v }) ?_ rfl (fun _ => rfl) _
    exact exec_mts_eval a s
  · refine mtsWrites_of_writeReg .sys (fun v => needHead s v (retire s
      (s.mapMe fun c => { c with tvec := tvecFor s.cur v, badSys := kdel c.badSys 0x104 }))) rfl rfl fun _ hh => ?_
    rw [needHead_ok s (hh (.inr rfl)), retire_flows hs, badNo_plain s.me (by decide) (by decide)]
    rfl
  · exact mtsWrites_of_writeCtx hs .sys (fun c v => { c with asid := v }) rfl rfl (fun _ => rfl) _

end Sys2Proof.Machine
end

section
/-! SUPPORT. The miller's writes of its core's registers: the deque registers and the sluice masks (R61 to R64, R389). -/
namespace Sys2Proof.Machine

/-! ## What goes on beside such a write: a refill that is due, contexts that look again, phases that take a new part -/

/-- The deque registers and the sluice masks of two cores are the same. -/
structure SameRegs (x y : Core) : Prop where
  dqbase : x.dqbase = y.dqbase
  dqtop : x.dqtop = y.dqtop
  dqbot : x.dqbot = y.dqbot
  dqspill : x.dqspill = y.dqspill
  sgmask : x.sgmask = y.sgmask
theorem SameRegs.refl (x : Core) : SameRegs x x := ⟨rfl, rfl, rfl, rfl, rfl⟩
theorem SameRegs.trans {x y z : Core} (h : SameRegs x y) (k : SameRegs y z) : SameRegs x z :=
  ⟨h.dqbase.trans k.dqbase, h.dqtop.trans k.dqtop, h.dqbot.trans k.dqbot, h.dqspill.trans k.dqspill, h.sgmask.trans k.sgmask⟩
/-- t leaves alone what a write of a register of core n is about: memory, every context's x registers, and the core's deque
registers and sluice masks. -/
structure KeepsCoreRegs (n : Nat) (s t : State) : Prop where
  mem : SameMem s t
  cur : t.cur = s.cur
  x : ∀ c, (t.ctx c).x = (s.ctx c).x
  regs : SameRegs (t.core n) (s.core n)

namespace KeepsCoreRegs
theorem refl (n : Nat) (s : State) : KeepsCoreRegs n s s := ⟨.refl s, rfl, fun _ => rfl, .refl _⟩
theorem trans {n : Nat} {s t u : State} (h : KeepsCoreRegs n s t) (k : KeepsCoreRegs n t u) : KeepsCoreRegs n s u :=
  ⟨h.mem.trans k.mem, k.cur.trans h.cur, fun c => (k.x c).trans (h.x c), k.regs.trans h.regs⟩
/-- Steps that each leave the registers alone do so together. -/
theorem foldl {α : Type} {n : Nat} {f : State → α → State} (hf : ∀ s x, KeepsCoreRegs n s (f s x)) (l : List α) (s : State) :
    KeepsCoreRegs n s (l.foldl f s) := List.foldlRecOn l f (refl n s) fun t ht x _ => ht.trans (hf t x)
theorem post (n : Nat) (s : State) (e : Instr) : KeepsCoreRegs n s (s.post e) :=
  ⟨.post s e, rfl, fun _ => rfl, .refl _⟩
theorem mapGroup (n : Nat) (s : State) (l ch : Nat) (f : Group → Group) : KeepsCoreRegs n s (s.mapGroup l ch f) :=
  ⟨⟨rfl, rfl, rfl, rfl⟩, rfl, fun _ => rfl, .refl _⟩
theorem wake (n : Nat) (s : State) (c : Nat) : KeepsCoreRegs n s (s.wake c) := by
  refine ⟨mapCtx_sameMem .., rfl, fun d => ?_, .refl _⟩
  rw [State.wake, ctx_mapCtx]
  split
  · next h => rw [h]
  · rfl
/-- A refill that is due begins. -/
theorem refillDue (n : Nat) (s : State) : KeepsCoreRegs n s (s.refillDue n) := by
  unfold State.refillDue
  dsimp only
  split
  · refine trans ⟨mapCore_sameMem .., rfl, fun _ => rfl, ?_⟩ (post n _ _)
    rw [core_mapCore, if_pos rfl]
    exact ⟨rfl, rfl, rfl, rfl, rfl⟩
  · exact refl n s
/-- Contexts that wait at the port look again. -/
theorem wakeDeque (n : Nat) (s : State) : KeepsCoreRegs n s (s.wakeDeque n) :=
  foldl (fun s j => by
    dsimp only
    split
    · exact wake n s _
    · exact refl n s) _ s
theorem treeCheck (n : Nat) (s : State) (l ch f : Nat) : KeepsCoreRegs n s (s.treeCheck l ch f) := by
  unfold State.treeCheck
  dsimp only
  split
  · exact post n s _
  · exact refl n s
/-- Phases that opened in this cycle take their part from a mask that is written. -/
theorem maskWritten (n : Nat) (s : State) (i : Nat) : KeepsCoreRegs n s (s.maskWritten n i) := by
  unfold State.maskWritten
  split
  · exact refl n s
  · refine foldl (fun s ch => ?_) _ s
    split
    · exact (mapGroup n s _ ch _).trans (treeCheck n _ _ ch _)
    · exact refl n s
end KeepsCoreRegs

/-! ## The write itself -/

/-- A head is done, and a register of the executing core reads v; `same` tells what stays beside it. -/
def WritesCore (s : State) (v : Word) (o : Out) (now : Core → Word) (same : Core → Core → Prop) : Prop :=
  ∃ t, o = .next t ∧ now (t.core s.myCore) = v ∧ same (t.core s.myCore) (s.core s.myCore) ∧
    t.me.pc = BitVec.ofNat 64 s.nextPc ∧ t.me.x = s.me.x ∧ KeepsMemory s t
/-- A head that changes the core, and then only what leaves its registers alone, has written them. -/
theorem writesCore_of_stepped {s u : State} {v : Word} {now : Core → Word} {same : Core → Core → Prop} (f : Core → Core)
    (hu : KeepsCoreRegs s.myCore (s.mapCore s.myCore f) u)
    (hf : ∀ k, SameRegs k (f (s.core s.myCore)) → now k = v ∧ same k (s.core s.myCore)) :
    WritesCore s v (.next (s.stepped u)) now same := by
  have hr : SameRegs (u.core s.myCore) (f (s.core s.myCore)) := by
    have h := hu.regs
    rwa [core_mapCore, if_pos rfl] at h
  have hme : (s.stepped u).me = u.me.stepTo s.nextPc := me_mapMe u (·.stepTo s.nextPc)
  have hx : u.me.x = s.me.x := by
    have h := hu.x s.cur
    unfold State.me
    rwa [hu.cur]
  obtain ⟨hnow, hsame⟩ := hf _ hr
  refine ⟨s.stepped u, rfl, hnow, hsame, by rw [hme]; rfl, by rw [hme, stepTo_x, hx], ?_⟩
  exact ((mapCore_sameMem s _ f).trans (hu.mem.trans ⟨rfl, rfl, rfl, rfl⟩)).keeps
/-- The miller writes its core's registers with no bit of `rsv` set. -/
theorem writeReg_miller {s : State} (hm : s.cur % 16 = 0) {a : XS} {num : Nat} {rsv : Word} {k : Word → Out}
    (hr : regRights num = some (.any, .miller)) (hv : s.me.getS a &&& rsv = 0) : writeReg s num a rsv k = k (s.me.getS a) := by
  unfold writeReg
  rw [regCheck_miller hr rfl]
  exact (if_pos hm).trans (if_pos hv)
/-- No other context writes them (R43). -/
theorem writeReg_other {s : State} (hm : s.cur % 16 ≠ 0) {a : XS} {num : Nat} {rsv : Word} {k : Word → Out}
    (hr : regRights num = some (.any, .miller)) : writeReg s num a rsv k = .next (s.trap 0x04 (BitVec.ofNat 64 num)) := by
  unfold writeReg
  rw [regCheck_miller hr rfl]
  exact if_neg hm
/-- A deque register is written when its rule allows it (R389). -/
theorem writeDeque_ok {s : State} (hs : s.flows) (hm : s.cur % 16 = 0) {a : XS} {num : Nat} {rsv : Word} {ok : Core → Word → Bool}
    {f : Core → Word → Core} {now : Core → Word} {same : Core → Core → Prop} (hr : regRights num = some (.any, .miller))
    (hv : s.me.getS a &&& rsv = 0) (hok : ok (s.core s.myCore) (s.me.getS a) = true)
    (hf : ∀ k, SameRegs k (f (s.core s.myCore) (s.me.getS a)) → now k = s.me.getS a ∧ same k (s.core s.myCore)) :
    WritesCore s (s.me.getS a) (writeDeque s num a rsv ok f) now same := by
  unfold writeDeque
  dsimp only
  rw [writeReg_miller hm hr hv, if_pos hok, retire_flows hs]
  exact writesCore_of_stepped (fun k => { f k (s.me.getS a) with badSys := kdel k.badSys num })
    ((KeepsCoreRegs.refillDue _ _).trans (KeepsCoreRegs.wakeDeque _ _)) fun k hk => hf k (hk.trans ⟨rfl, rfl, rfl, rfl, rfl⟩)
/-- A write that its rule forbids raises TASK_STATE (R389). -/
theorem writeDeque_refused {s : State} (hm : s.cur % 16 = 0) {a : XS} {num : Nat} {rsv : Word} {ok : Core → Word → Bool}
    {f : Core → Word → Core} (hr : regRights num = some (.any, .miller)) (hv : s.me.getS a &&& rsv = 0)
    (hok : ok (s.core s.myCore) (s.me.getS a) = false) : writeDeque s num a rsv ok f = .next (s.trap 0x08 (s.me.getS a)) := by
  unfold writeDeque
  dsimp only
  rw [writeReg_miller hm hr hv]
  exact if_neg (by simp [hok])
/-- A value below 2^32 has no bit set outside its low 32. -/
theorem and_not_low32 {v : Word} (h : v.toNat < 2 ^ 32) : v &&& ~~~0xFFFFFFFF#64 = 0 := by
  have hv : v &&& 0xFFFFFFFF#64 = v := by
    apply BitVec.eq_of_toNat_eq
    rw [BitVec.toNat_and]
    exact (Nat.and_two_pow_sub_one_eq_mod v.toNat 32).trans (Nat.mod_eq_of_lt h)
  rw [← hv, BitVec.and_assoc, BitVec.and_not_self]
  exact BitVec.and_zero
/-- No other context writes a deque register (R43). -/
theorem writeDeque_other {s : State} (hm : s.cur % 16 ≠ 0) {a : XS} {num : Nat} {rsv : Word} {ok : Core → Word → Bool}
    {f : Core → Word → Core} (hr : regRights num = some (.any, .miller)) :
    writeDeque s num a rsv ok f = .next (s.trap 0x04 (BitVec.ofNat 64 num)) := by
  unfold writeDeque
  exact writeReg_other hm hr

/-! ## Each register (R61 to R64) -/

theorem exec_mtsDqbase (a : XS) (s : State) : exec (.mtsDqbase a) s =
    writeDeque s 0x200 a (~~~0x7F800#64) (fun k _ => k.dqLen == 0) fun k v => { k with dqbase := v } := rfl
theorem exec_mtsDqtop (a : XS) (s : State) : exec (.mtsDqtop a) s =
    writeDeque s 0x201 a (~~~0xFFFFFFFF#64) (fun k v => ({ k with dqtop := v }).dqLen ≤ 256) fun k v => { k with dqtop := v } := rfl
theorem exec_mtsDqbot (a : XS) (s : State) : exec (.mtsDqbot a) s =
    writeDeque s 0x202 a (~~~0xFFFFFFFF#64) (fun k v => ({ k with dqbot := v }).dqLen ≤ 256) fun k v => { k with dqbot := v } := rfl
theorem exec_mtsDqspill (a : XS) (s : State) : exec (.mtsDqspill a) s =
    writeDeque s 0x203 a 0xFF00000000000FFF#64 (fun k _ => k.nblk == 0) fun k v => { k with dqspill := v } := rfl
/-- DQBASE is written with the deque empty. -/
theorem mtsDqbase_writes {s : State} (hs : s.flows) (hm : s.cur % 16 = 0) {a : XS} (hv : s.me.getS a &&& ~~~0x7F800#64 = 0)
    (he : (s.core s.myCore).dqLen = 0) : WritesCore s (s.me.getS a) (exec (.mtsDqbase a) s) (·.dqbase)
      fun x y => x.dqtop = y.dqtop ∧ x.dqbot = y.dqbot ∧ x.dqspill = y.dqspill := by
  rw [exec_mtsDqbase]
  exact writeDeque_ok hs hm rfl hv (beq_iff_eq.mpr he) fun _ h => ⟨h.dqbase, h.dqtop, h.dqbot, h.dqspill⟩
theorem mtsDqbase_refused {s : State} (hm : s.cur % 16 = 0) {a : XS} (hv : s.me.getS a &&& ~~~0x7F800#64 = 0)
    (he : (s.core s.myCore).dqLen ≠ 0) : exec (.mtsDqbase a) s = .next (s.trap 0x08 (s.me.getS a)) := by
  rw [exec_mtsDqbase]
  exact writeDeque_refused hm rfl hv (beq_eq_false_iff_ne.mpr he)
/-- The bound on the entries between a top below 2^32 and a bottom (R61). -/
theorem dqLen_le {k : Core} (ht : k.dqtop.toNat < 2 ^ 32) (hl : (k.dqbot.toNat + 2 ^ 32 - k.dqtop.toNat) % 2 ^ 32 ≤ 256) :
    k.dqLen ≤ 256 := by
  unfold Core.dqLen
  rwa [Nat.mod_eq_of_lt ht]
/-- DQTOP is written so that at most 256 entries stand between it and DQBOT. -/
theorem mtsDqtop_writes {s : State} (hs : s.flows) (hm : s.cur % 16 = 0) {a : XS} (hv : (s.me.getS a).toNat < 2 ^ 32)
    (hl : ((s.core s.myCore).dqbot.toNat + 2 ^ 32 - (s.me.getS a).toNat) % 2 ^ 32 ≤ 256) :
    WritesCore s (s.me.getS a) (exec (.mtsDqtop a) s) (·.dqtop)
      fun x y => x.dqbase = y.dqbase ∧ x.dqbot = y.dqbot ∧ x.dqspill = y.dqspill := by
  rw [exec_mtsDqtop]
  exact writeDeque_ok hs hm rfl (and_not_low32 hv) (decide_eq_true (dqLen_le hv hl))
    fun _ h => ⟨h.dqtop, h.dqbase, h.dqbot, h.dqspill⟩
/-- DQBOT is written so that at most 256 entries stand between DQTOP and it. -/
theorem mtsDqbot_writes {s : State} (hs : s.flows) (hm : s.cur % 16 = 0) {a : XS} (hv : (s.me.getS a).toNat < 2 ^ 32)
    (hl : ((s.me.getS a).toNat + 2 ^ 32 - (s.core s.myCore).dqtop.toNat) % 2 ^ 32 ≤ 256)
    (ht : (s.core s.myCore).dqtop.toNat < 2 ^ 32) : WritesCore s (s.me.getS a) (exec (.mtsDqbot a) s) (·.dqbot)
      fun x y => x.dqbase = y.dqbase ∧ x.dqtop = y.dqtop ∧ x.dqspill = y.dqspill := by
  rw [exec_mtsDqbot]
  exact writeDeque_ok hs hm rfl (and_not_low32 hv) (decide_eq_true (dqLen_le ht hl))
    fun _ h => ⟨h.dqbot, h.dqbase, h.dqtop, h.dqspill⟩
/-- DQSPILL is written with nothing spilled. -/
theorem mtsDqspill_writes {s : State} (hs : s.flows) (hm : s.cur % 16 = 0) {a : XS}
    (hv : s.me.getS a &&& 0xFF00000000000FFF#64 = 0) (he : (s.core s.myCore).nblk = 0) :
    WritesCore s (s.me.getS a) (exec (.mtsDqspill a) s) (·.dqspill)
      fun x y => x.dqbase = y.dqbase ∧ x.dqtop = y.dqtop ∧ x.dqbot = y.dqbot := by
  rw [exec_mtsDqspill]
  exact writeDeque_ok hs hm rfl hv (beq_iff_eq.mpr he) fun _ h => ⟨h.dqspill, h.dqbase, h.dqtop, h.dqbot⟩
theorem mtsDqspill_refused {s : State} (hm : s.cur % 16 = 0) {a : XS} (hv : s.me.getS a &&& 0xFF00000000000FFF#64 = 0)
    (he : (s.core s.myCore).nblk ≠ 0) : exec (.mtsDqspill a) s = .next (s.trap 0x08 (s.me.getS a)) := by
  rw [exec_mtsDqspill]
  exact writeDeque_refused hm rfl hv (beq_eq_false_iff_ne.mpr he)
/-- The SGMASK registers are the miller's to write. -/
theorem regRights_sgmask (m : Fin 4) : regRights (0x210 + m.val) = some (.any, .miller) := by
  revert m; decide
theorem exec_mtsSgmask (m : Fin 4) (a : XS) (s : State) :
    exec (.mtsSgmask m a) s = writeReg s (0x210 + m.val) a 0 fun v => retire s ((s.mapCore s.myCore fun k =>
      { k with sgmask := k.sgmask.set m v, sgWrote := k.sgWrote.set m (s.cycle + 1),
               badSys := kdel k.badSys (0x210 + m.val) }).maskWritten s.myCore m.val) := rfl
/-- MTS SGMASK writes its register alone (R63). -/
theorem mtsSgmask_writes {s : State} (hs : s.flows) (hm : s.cur % 16 = 0) (m : Fin 4) (a : XS) :
    WritesCore s (s.me.getS a) (exec (.mtsSgmask m a) s) (·.sgmask[m])
      fun x y => ∀ i, i ≠ m → x.sgmask[i] = y.sgmask[i] := by
  rw [exec_mtsSgmask, writeReg_miller (rsv := 0) hm (regRights_sgmask m) BitVec.and_zero, retire_flows hs]
  refine writesCore_of_stepped _ (KeepsCoreRegs.maskWritten _ _ _) fun k hk => ⟨?_, fun i hi => ?_⟩
  · exact (congrArg (·[m]) hk.sgmask).trans (Vector.getElem_set_self ..)
  · exact (congrArg (·[i]) hk.sgmask).trans (Vector.getElem_set_ne m.isLt i.isLt fun h => hi (Fin.ext h.symm))
/-- Any context but the miller is refused. -/
theorem mtsSgmask_other {s : State} (hm : s.cur % 16 ≠ 0) (m : Fin 4) (a : XS) :
    exec (.mtsSgmask m a) s = .next (s.trap 0x04 (BitVec.ofNat 64 (0x210 + m.val))) := by
  rw [exec_mtsSgmask]
  exact writeReg_other hm (regRights_sgmask m)

end Sys2Proof.Machine
end

section
/-! CERTIFICATE. System registers are read and written as their fields say: O43. -/
namespace Sys2Proof.Machine

/-! ## Reads (R42 to R66, R433) -/

/-- The registers that every context may read. -/
theorem mfs_reads {s : State} (hs : s.flows) (d : XR) (num : BitVec 12) (v : Word)
    (h : let c := s.me
      let k := s.core s.myCore
      (num, v) ∈ [(0x001#12, c.fctx), (0x002#12, c.scptr), (0x003#12, c.fstat), (0x004#12, BitVec.ofNat 64 (ebcminOf c.fctx)),
        (0x010#12, c.ctxid), (0x011#12, c.lcore), (0x012#12, c.stage), (0x013#12, c.taskf), (0x100#12, c.priv), (0x200#12, k.dqbase),
        (0x201#12, k.dqtop), (0x202#12, k.dqbot), (0x203#12, k.dqspill), (0x210#12, k.sgmask[0]), (0x211#12, k.sgmask[1]),
        (0x212#12, k.sgmask[2]), (0x213#12, k.sgmask[3]), (0x300#12, s.govstat (s.cur / 1024))]) :
    exec (.mfs d num) s = .next (s.wroteX d v) := by
  simp only [List.mem_cons, List.not_mem_nil, or_false, Prod.mk.injEq] at h
  obtain ⟨rfl, rfl⟩ | ⟨rfl, rfl⟩ | ⟨rfl, rfl⟩ | ⟨rfl, rfl⟩ | ⟨rfl, rfl⟩ | ⟨rfl, rfl⟩ | ⟨rfl, rfl⟩ | ⟨rfl, rfl⟩ | ⟨rfl, rfl⟩ |
    ⟨rfl, rfl⟩ | ⟨rfl, rfl⟩ | ⟨rfl, rfl⟩ | ⟨rfl, rfl⟩ | hsg := h
  iterate 13 exact mfs_any hs d rfl rfl
  obtain ⟨rfl, rfl⟩ | ⟨rfl, rfl⟩ | ⟨rfl, rfl⟩ | ⟨rfl, rfl⟩ | ⟨rfl, rfl⟩ := hsg
  · exact mfs_any hs d rfl (readReg_sgmask s 0)
  · exact mfs_any hs d rfl (readReg_sgmask s 1)
  · exact mfs_any hs d rfl (readReg_sgmask s 2)
  · exact mfs_any hs d rfl (readReg_sgmask s 3)
  · exact mfs_any hs d rfl (readReg_govstat s)
/-- The registers that only sys may read. -/
theorem mfs_sysReads {s : State} (hs : s.flows) (d : XR) (num : BitVec 12) (v : Word)
    (h : (num, v) ∈ [(0x101#12, s.me.epc), (0x102#12, s.me.ecause), (0x103#12, s.me.eval), (0x104#12, s.me.tvec), (0x105#12, s.me.asid)]) :
    (s.me.sys = true → exec (.mfs d num) s = .next (s.wroteX d v)) ∧
    (s.me.sys = false → exec (.mfs d num) s = .next (s.trap 0x04 (num.setWidth 64))) := by
  simp only [List.mem_cons, List.not_mem_nil, or_false, Prod.mk.injEq] at h
  obtain ⟨rfl, rfl⟩ | ⟨rfl, rfl⟩ | ⟨rfl, rfl⟩ | ⟨rfl, rfl⟩ | ⟨rfl, rfl⟩ := h <;> exact mfs_sys hs d rfl rfl
/-- RDYMAP register i is number 0x400 + i. -/
theorem toNat_rdymap (i : Fin 32) : (BitVec.ofNat 12 (0x400 + i.val)).toNat = 0x400 + i.val := by
  rw [BitVec.toNat_ofNat]
  exact Nat.mod_eq_of_lt (by omega)
theorem regRights_rdymap (i : Fin 32) : regRights (0x400 + i.val) = some (.any, .ro) := by
  revert i; decide
/-- RDYMAP may be read by every context (R66). -/
theorem mfs_rdymap {s : State} (hs : s.flows) (d : XR) (i : Fin 32) :
    exec (.mfs d (BitVec.ofNat 12 (0x400 + i.val))) s = .next (s.wroteX d s.rdySeen[i]) := by
  have hn := toNat_rdymap i
  exact mfs_any hs d (by rw [hn]; exact regRights_rdymap i) (by rw [hn]; exact readReg_rdymap s i)
/-- A number outside the table names no register. -/
theorem regRights_unnamed {num : BitVec 12}
    (h : num ∉ [0x001#12, 0x002#12, 0x003#12, 0x004#12, 0x010#12, 0x011#12, 0x012#12, 0x013#12, 0x100#12, 0x101#12, 0x102#12, 0x103#12,
      0x104#12, 0x105#12, 0x200#12, 0x201#12, 0x202#12, 0x203#12, 0x210#12, 0x211#12, 0x212#12, 0x213#12, 0x300#12])
    (hr : num < 0x400#12 ∨ 0x41F#12 < num) : regRights num.toNat = none := by
  simp only [List.mem_cons, List.not_mem_nil, or_false, not_or, ← BitVec.toNat_inj, BitVec.toNat_ofNat] at h
  simp only [BitVec.lt_def, BitVec.toNat_ofNat] at hr
  unfold regRights
  simp only [List.mem_cons, List.not_mem_nil, or_false, Bool.or_eq_true, Bool.and_eq_true, decide_eq_true_eq]
  repeat rw [if_neg (by omega)]

/-! ## Writes (R61 to R64, R389, R433) -/

/-- The write of a read-only register is discarded (R43). -/
theorem mts_readOnly {s : State} (hs : s.flows) (a : XS) {n : BitVec 12} (hr : regRights n.toNat = some (.any, .ro))
    (h2 : n ≠ 0x102#12) (h3 : n ≠ 0x103#12) : exec (.mts a n) s = .next (s.stepped s) := by
  rw [exec_mts, execMts, if_neg h2, if_neg h3, hr, regCheck_pass hr (.inr rfl), retire_flows hs]
  rfl
/-- Any context but the miller is refused each register of the core. -/
theorem mts_core_other {s : State} (hm : s.cur % 16 ≠ 0) (a : XS) (i : Instr) (num : Word)
    (h : (i, num) ∈ ([((.mtsDqbase a : Instr), 0x200), (.mtsDqtop a, 0x201), (.mtsDqbot a, 0x202), (.mtsDqspill a, 0x203),
      (.mtsSgmask 0 a, 0x210), (.mtsSgmask 1 a, 0x211), (.mtsSgmask 2 a, 0x212), (.mtsSgmask 3 a, 0x213)] : List (Instr × Word))) :
    exec i s = .next (s.trap 0x04 num) := by
  simp only [List.mem_cons, List.not_mem_nil, or_false, Prod.mk.injEq] at h
  obtain ⟨rfl, rfl⟩ | ⟨rfl, rfl⟩ | ⟨rfl, rfl⟩ | ⟨rfl, rfl⟩ | ⟨rfl, rfl⟩ | ⟨rfl, rfl⟩ | ⟨rfl, rfl⟩ | ⟨rfl, rfl⟩ := h
  · rw [exec_mtsDqbase]; exact writeDeque_other hm rfl
  · rw [exec_mtsDqtop]; exact writeDeque_other hm rfl
  · rw [exec_mtsDqbot]; exact writeDeque_other hm rfl
  · rw [exec_mtsDqspill]; exact writeDeque_other hm rfl
  · exact mtsSgmask_other hm 0 a
  · exact mtsSgmask_other hm 1 a
  · exact mtsSgmask_other hm 2 a
  · exact mtsSgmask_other hm 3 a

/-- Settles O43: each read and each write is refused by its right and its reserved bits alone, and else has its own effect. -/
theorem systemRegisters : Obligations.SystemRegisters := by
  unfold Obligations.SystemRegisters
  refine ⟨fun s d num v hs => ⟨mfs_reads hs d num v, mfs_sysReads hs d num v, ?rdymap, ?unnamed⟩,
    fun s a i sys num rsv w hs => ⟨mts_writes hs a i sys num rsv w, ?readOnly⟩,
    fun s a m hs => ⟨fun hm => ⟨mtsDqbase_writes hs hm, mtsDqbase_refused hm, fun hv hl _ => mtsDqtop_writes hs hm hv hl,
      mtsDqbot_writes hs hm, mtsDqspill_writes hs hm, mtsDqspill_refused hm, mtsSgmask_writes hs hm m a⟩,
      fun hm i num => mts_core_other hm a i num⟩⟩
  case rdymap =>
    rintro i rfl
    exact mfs_rdymap hs d i
  case unnamed => exact fun hn hr => mfs_none d (regRights_unnamed hn hr)
  case readOnly =>
    intro n hn
    simp only [List.mem_cons, List.not_mem_nil, or_false] at hn
    obtain rfl | rfl | rfl | rfl | rfl | rfl | rfl := hn <;> exact mts_readOnly hs a rfl (by decide) (by decide)

end Sys2Proof.Machine
end

section
/-! SUPPORT. The privilege level of every context (R56, R57): the operations that touch no context, and those that change one and
leave its level. -/
namespace Sys2Proof.Machine

/-! ## Operations that touch no context -/

/-- Steps that each leave a view of the state alone do so together. -/
theorem foldl_view {α β : Type} {f : State → α → State} {v : State → β} (hf : ∀ s a, v (f s a) = v s) (l : List α) (s : State) :
    v (l.foldl f s) = v s :=
  List.foldlRecOn (motive := fun t => v t = v s) l f rfl fun t ht a _ => (hf t a).trans ht

@[simp] theorem freeNat_ctxs (s : State) (n : Nat) : (s.freeNat n).2.ctxs = s.ctxs := rfl
@[simp] theorem mapMgmt_ctxs (s : State) (f : Mgmt → Mgmt) : (s.mapMgmt f).ctxs = s.ctxs := rfl
@[simp] theorem mapOmu_ctxs (s : State) (cl : Nat) (f : Omu → Omu) : (s.mapOmu cl f).ctxs = s.ctxs := rfl
@[simp] theorem mapLaunch_ctxs (s : State) (l : Nat) (f : Launch → Launch) : (s.mapLaunch l f).ctxs = s.ctxs := rfl
@[simp] theorem mapGroup_ctxs (s : State) (l ch : Nat) (f : Group → Group) : (s.mapGroup l ch f).ctxs = s.ctxs := rfl
@[simp] theorem mapSaved_ctxs (s : State) (n : Nat) (f : Saved → Saved) : (s.mapSaved n f).ctxs = s.ctxs := rfl
@[simp] theorem failUsed_ctxs (s : State) (u : Nat) : (s.failUsed u).ctxs = s.ctxs := rfl
@[simp] theorem leaveWalks_ctxs (s : State) (c : Nat) : (s.leaveWalks c).ctxs = s.ctxs := rfl
@[simp] theorem sendOut_ctxs (s : State) (c p : Nat) (b : FlitBody) : (s.sendOut c p b).ctxs = s.ctxs := rfl
@[simp] theorem sendMessage_ctxs (s : State) (c p : Nat) (m : Msg) (d : XR) : (s.sendMessage c p m d).ctxs = s.ctxs := rfl
@[simp] theorem setTag_ctxs (s : State) (c : Nat) (rel : Option Scope) (home : Bool) (w : Nat) :
    (s.setTag c rel home w).ctxs = s.ctxs := rfl
@[simp] theorem cleanLine_ctxs (s : State) (pa : Nat) : (s.cleanLine pa).ctxs = s.ctxs := rfl
@[simp] theorem sliceOut_ctxs (s : State) (cl : Nat) (l : SLine) : (s.sliceOut cl l).ctxs = s.ctxs := rfl
@[simp] theorem sliceDirty_ctxs (s : State) (cl pa : Nat) : (s.sliceDirty cl pa).ctxs = s.ctxs := rfl
@[simp] theorem bumpSadv_ctxs (s : State) (n : Nat) : (s.bumpSadv n).ctxs = s.ctxs := rfl
@[simp] theorem noteRdct_ctxs (s : State) (ch : Nat) : (s.noteRdct ch).ctxs = s.ctxs := rfl
@[simp] theorem dropQueue_ctxs (s : State) (n : Nat) : (s.dropQueue n).ctxs = s.ctxs := rfl
@[simp] theorem store_ctxs (s : State) (a n v : Nat) (bad : Bool) : (s.store a n v bad).ctxs = s.ctxs := by
  cases bad <;> rfl
@[simp] theorem seeLaunch_ctxs (s : State) (n : Nat) : (s.seeLaunch n).ctxs = s.ctxs := by
  unfold State.seeLaunch; split <;> rfl
@[simp] theorem inventory_ctxs (s : State) : s.inventory.ctxs = s.ctxs := by
  unfold State.inventory; split <;> rfl
@[simp] theorem logClu_ctxs (s : State) (cl : Nat) (k : RingKind) (x : BitVec 128) : (s.logClu cl k x).ctxs = s.ctxs :=
  inventory_ctxs _
@[simp] theorem logStack_ctxs (s : State) (h : Nat) (x : BitVec 128) : (s.logStack h x).ctxs = s.ctxs := inventory_ctxs _
@[simp] theorem logDiscard_ctxs (s : State) (n dst : Nat) : (s.logDiscard n dst).ctxs = s.ctxs := logClu_ctxs _ _ _ _
@[simp] theorem openWalk_ctxs (s : State) (q : Asker) (who va : Nat) (acc : Acc) : (s.openWalk q who va acc).ctxs = s.ctxs := by
  unfold State.openWalk; dsimp only; split
  · rfl
  · split <;> rfl
@[simp] theorem sliceIn_ctxs (s : State) (b pa : Nat) (home : Bool) : (s.sliceIn b pa home).ctxs = s.ctxs := by
  unfold State.sliceIn
  dsimp only
  split
  · rfl
  · split
    · rfl
    · split <;> rfl
@[simp] theorem dirtyAt_ctxs (s : State) (bank : Option Nat) (pa : Nat) : (s.dirtyAt bank pa).ctxs = s.ctxs := by
  cases bank with
  | none => rfl
  | some b => exact sliceIn_ctxs s b pa true
@[simp] theorem homeDirty_ctxs (s : State) (pa : Nat) : (s.homeDirty pa).ctxs = s.ctxs := dirtyAt_ctxs _ _ _
@[simp] theorem l1Back_ctxs (s : State) (n pa : Nat) : (s.l1Back n pa).ctxs = s.ctxs := by
  unfold State.l1Back
  split
  · dsimp only; split <;> simp
  · rfl
@[simp] theorem l1In_ctxs (s : State) (n : Nat) (l : DLine) : (s.l1In n l).ctxs = s.ctxs := by
  unfold State.l1In
  dsimp only
  split
  · split <;> simp
  · rfl
@[simp] theorem proxyServe_ctxs (s : State) (q : Asker) (va pa : Nat) (g : Option Grant) : (s.proxyServe q va pa g).ctxs = s.ctxs := by
  cases g with
  | none => rfl
  | some e =>
    have hs : (match s.homeKey pa with
        | none => s
        | some b => (s.sliceIn b pa true).sliceIn (proxyBank (fieldOf q.core) b) pa (b / 64 == fieldOf q.core)).ctxs = s.ctxs := by
      split <;> simp
    unfold State.proxyServe
    dsimp only
    split
    · rfl
    · split
      · split
        · exact hs
        · exact hs
      · rw [l1In_ctxs]; exact hs
@[simp] theorem l1Write_ctxs (s : State) (n pa : Nat) : (s.l1Write n pa).ctxs = s.ctxs := by
  unfold State.l1Write; dsimp only; split <;> simp
@[simp] theorem recall_ctxs (s : State) (pa : Nat) : (s.recall pa).ctxs = s.ctxs := by
  unfold State.recall; dsimp only; split <;> simp
@[simp] theorem acquireOf_ctxs (s : State) (c : Nat) (sc : Scope) (rs : List ReadTag) : (s.acquireOf c sc rs).ctxs = s.ctxs := by
  unfold State.acquireOf; dsimp only; split <;> rfl
@[simp] theorem traceWrite_ctxs (s : State) (c : Nat) (old : WTag) (w b : Nat) : (s.traceWrite c old w b).ctxs = s.ctxs := by
  unfold State.traceWrite
  dsimp only
  split
  · split <;> split <;> rfl
  · rfl
@[simp] theorem tagAt_ctxs (s : State) (bank : Option Nat) (c : Nat) (rel : Option Scope) (home : Bool) (w : Nat) :
    (s.tagAt bank c rel home w).ctxs = s.ctxs := by
  cases bank with
  | none => rfl
  | some b => exact traceWrite_ctxs s c _ w b
@[simp] theorem tagWrite_ctxs (s : State) (c : Nat) (rel : Option Scope) (home : Bool) (w : Nat) :
    (s.tagWrite c rel home w).ctxs = s.ctxs := tagAt_ctxs _ _ _ _ _ _
@[simp] theorem handFlit_ctxs (s : State) (c a : Nat) (bs : List Byte) : (s.handFlit c a bs).ctxs = s.ctxs := by
  unfold State.handFlit; split <;> rfl
@[simp] theorem performWord_ctxs (s : State) (c : Nat) (bs : List (Nat × Byte)) (rel : Option Scope) (bad : Bool) (w : Nat) :
    (s.performWord c bs rel bad w).ctxs = s.ctxs := by
  unfold State.performWord
  dsimp only
  rw [handFlit_ctxs]
  split
  · rw [tagWrite_ctxs]
    split <;> split <;> rfl
  · rw [l1Write_ctxs, tagWrite_ctxs]
    split <;> split <;> rfl
@[simp] theorem grants_ctxs (s : State) : s.grants.ctxs = s.ctxs := by
  unfold State.grants; exact foldl_view (v := State.ctxs) (by intro _ _; rfl) _ s
@[simp] theorem setBadLine_ctxs (s : State) (pa : Nat) : (s.setBadLine pa).ctxs = s.ctxs := by
  unfold State.setBadLine; exact foldl_view (v := State.ctxs) (by intro _ _; rfl) _ s
@[simp] theorem dropLine_ctxs (s : State) (n pa : Nat) (home : Option Nat) : (s.dropLine n pa home).ctxs = s.ctxs :=
  (foldl_view (v := State.ctxs) (fun t i => by dsimp only; split <;> rfl) _ _).trans (mapCore_ctxs s n _)
@[simp] theorem bringLines_ctxs (s : State) (ps : List Piece) : (s.bringLines ps).1.ctxs = s.ctxs :=
  foldl_view (v := State.ctxs) (fun t p => by split <;> simp) _ s
@[simp] theorem treeCheck_ctxs (s : State) (l ch f : Nat) : (s.treeCheck l ch f).ctxs = s.ctxs := by
  unfold State.treeCheck; dsimp only; split <;> rfl
@[simp] theorem maskWritten_ctxs (s : State) (n i : Nat) : (s.maskWritten n i).ctxs = s.ctxs := by
  unfold State.maskWritten
  split
  · rfl
  · exact foldl_view (v := State.ctxs) (fun t ch => by split <;> simp) _ s
@[simp] theorem refillDue_ctxs (s : State) (n : Nat) : (s.refillDue n).ctxs = s.ctxs := by
  rw [State.refillDue]
  split
  · rw [post_ctxs, mapCore_ctxs]
  · rfl
@[simp] theorem copyEntries_ctxs (s : State) (src dst : Nat → Nat) : (s.copyEntries src dst).ctxs = s.ctxs :=
  foldl_view (v := State.ctxs) (fun t i => by dsimp only; split <;> simp) _ s
@[simp] theorem spillHeader_ctxs (s : State) (key n : Nat) : (s.spillHeader key n).ctxs = s.ctxs := by
  unfold State.spillHeader; simp
@[simp] theorem portAsks_ctxs (s : State) (n : Nat) : (s.portAsks n).ctxs = s.ctxs := by
  unfold State.portAsks; split <;> rfl
@[simp] theorem pushSlot_ctxs (s : State) (n : Nat) (f : Word) : (s.pushSlot n f).ctxs = s.ctxs := by
  unfold State.pushSlot; dsimp only; simp
@[simp] theorem dropQueues_ctxs (s : State) (n : Nat) : (s.dropQueues n).ctxs = s.ctxs :=
  (foldl_view (v := State.ctxs) (fun t _ => logDiscard_ctxs t n _) _ _).trans (dropQueue_ctxs s n)
@[simp] theorem launchAccept_ctxs (s : State) (r : BitVec 2048) (shape : Nat) (d : XR) : (s.launchAccept r shape d).ctxs = s.ctxs :=
  (foldl_view (v := State.ctxs) (fun t n => by simp) _ _).trans rfl

/-! ## The levels of all contexts -/

/-- The PRIV word of each context (R56). -/
def privs (t : Tab Ctx) : Nat → Word := fun c => (tget t c Ctx.reset).priv

/-- A change of a context that leaves its PRIV leaves all levels. -/
theorem privs_mapCtx (s : State) (c : Nat) {f : Ctx → Ctx} (hf : ∀ x, (f x).priv = x.priv) :
    privs (s.mapCtx c f).ctxs = privs s.ctxs := by
  funext d
  show ((s.mapCtx c f).ctx d).priv = (s.ctx d).priv
  rw [ctx_mapCtx]
  split
  · subst d; exact hf _
  · rfl
theorem privs_mapMe (s : State) {f : Ctx → Ctx} (hf : ∀ x, (f x).priv = x.priv) : privs (s.mapMe f).ctxs = privs s.ctxs :=
  privs_mapCtx s s.cur hf
/-- Steps that each leave all levels do so together. -/
theorem privs_foldl {α : Type} {f : State → α → State} (hf : ∀ s a, privs (f s a).ctxs = privs s.ctxs) (l : List α) (s : State) :
    privs (l.foldl f s).ctxs = privs s.ctxs := foldl_view (v := fun s => privs s.ctxs) hf l s

@[simp] theorem privs_putX (s : State) (d : XR) (v : Word) : privs (s.putX d v).ctxs = privs s.ctxs := privs_mapMe s fun x => setX_priv x d v
@[simp] theorem privs_putV (s : State) (d : VR) (v : VWord) : privs (s.putV d v).ctxs = privs s.ctxs := privs_mapMe s fun x => setV_priv x d v
@[simp] theorem privs_putK (s : State) (d : KR) (v : KWord) : privs (s.putK d v).ctxs = privs s.ctxs := privs_mapMe s fun x => setK_priv x d v
@[simp] theorem privs_putLanes (s : State) (w : Nat) (d : VR) (m : KR) (f : Nat → Fp) : privs (s.putLanes w d m f).ctxs = privs s.ctxs :=
  privs_mapMe s fun x => by simp
@[simp] theorem privs_putMask (s : State) (w : Nat) (d m : KR) (f : Nat → Bool × Word) : privs (s.putMask w d m f).ctxs = privs s.ctxs :=
  privs_mapMe s fun x => by simp
@[simp] theorem privs_vf (s : State) (t : ElemT) (d : VR) (m : KR) (f : Nat → Fp) : privs (s.vf t d m f).ctxs = privs s.ctxs :=
  privs_putLanes _ _ _ _ _
@[simp] theorem privs_putBlock (s : State) (bf : BlkF) (d : VR) (m : KR) (f : Nat → Fp) : privs (s.putBlock bf d m f).ctxs = privs s.ctxs :=
  privs_mapMe s fun x => by simp
/-- Writing a group of registers leaves the level. -/
@[simp] theorem setGroup_priv (c : Ctx) (r : VR) (g v : Nat) : (c.setGroup r g v).priv = c.priv := by
  cases r with
  | vz => rfl
  | v n =>
    refine List.foldlRecOn (motive := fun x : Ctx => x.priv = c.priv) (List.range g) _ rfl fun x hx i _ => ?_
    split
    · simp [hx]
    · exact hx
@[simp] theorem privs_putGroup (s : State) (t : ElemT) (n : Nat) (d : VR) (m : KR) (f : Nat → Fp) :
    privs (s.putGroup t n d m f).ctxs = privs s.ctxs := privs_mapMe s fun x => by simp
@[simp] theorem privs_putFp (s : State) (d : XR) (r : Fp) : privs (s.putFp d r).ctxs = privs s.ctxs := privs_mapMe s fun x => by simp
@[simp] theorem privs_wake (s : State) (c : Nat) : privs (s.wake c).ctxs = privs s.ctxs := privs_mapCtx s c fun _ => rfl
@[simp] theorem privs_park (s : State) (w : Why) : privs (s.park w).ctxs = privs s.ctxs := by
  unfold State.park; exact privs_mapMe s (f := fun c => { c with why := some w, held := w == .moving || (c.held && w.firm), sent := !w.reissues }) (fun _ => rfl)
@[simp] theorem privs_release (s : State) (c : Nat) (sc : Scope) : privs (s.release c sc).ctxs = privs s.ctxs := privs_mapCtx s c fun _ => rfl
@[simp] theorem privs_gotFrom (s : State) (c : Nat) (v : Word) (keys : List Nat) : privs (s.gotFrom c v keys).ctxs = privs s.ctxs :=
  privs_mapCtx s c fun _ => rfl
@[simp] theorem privs_acquire (s : State) (c : Nat) (sc : Scope) : privs (s.acquire c sc).ctxs = privs s.ctxs :=
  by
  unfold State.acquire
  exact (privs_mapCtx _ c (by intro _; rfl)).trans (by rw [acquireOf_ctxs])
@[simp] theorem privs_noteReads (s : State) (c : Nat) (home : Bool) (keys : List Nat) : privs (s.noteReads c home keys).ctxs = privs s.ctxs := by
  simp only [State.noteReads]
  split
  · rfl
  · exact privs_mapCtx s c fun _ => rfl
@[simp] theorem privs_nextSeq (s : State) (c p : Nat) : privs (s.nextSeq c p).ctxs = privs s.ctxs := privs_mapCtx s c fun _ => rfl
@[simp] theorem privs_take (s : State) (c : Nat) : privs (s.take c).ctxs = privs s.ctxs := privs_mapCtx s c fun _ => rfl
@[simp] theorem privs_taken (s : State) (c : Nat) (f : Word) (d : XR) : privs (s.taken c f d).ctxs = privs s.ctxs := by
  unfold State.taken; rw [post_ctxs]; exact privs_mapCtx s c (by intro x; exact setX_priv x d f)
@[simp] theorem privs_haltCtx (s : State) (c : Nat) : privs (haltCtx s c).ctxs = privs s.ctxs := by
  unfold haltCtx
  dsimp only
  rw [seeLaunch_ctxs, privs_mapCtx]
  · split <;> rfl
  · exact fun _ => rfl
@[simp] theorem finishLate_priv (x : Ctx) : x.finishLate.priv = x.priv := by
  unfold Ctx.finishLate
  split
  · rfl
  · dsimp only; split <;> simp
@[simp] theorem privs_freezeCtx (s : State) (c : Nat) : privs (s.freezeCtx c).ctxs = privs s.ctxs :=
  privs_mapCtx s c fun x => finishLate_priv x
@[simp] theorem privs_wakeSyncs (s : State) (w : Nat) : privs (s.wakeSyncs w).ctxs = privs s.ctxs := by
  unfold State.wakeSyncs
  split
  · dsimp only
    rw [grants_ctxs, privs_foldl]
    intro t q
    split <;> simp
  · rfl
@[simp] theorem privs_homeWrite (s : State) (c loc : Nat) (v : Word) (rel : Option Scope) : privs (s.homeWrite c loc v rel).ctxs = privs s.ctxs := by
  unfold State.homeWrite; dsimp only; split <;> split <;> simp
@[simp] theorem privs_withdraw (s : State) (c : Nat) : privs (s.withdraw c).ctxs = privs s.ctxs := by
  have hq : ∀ t : State, t.ctxs = s.ctxs →
      privs (if (t.ctx c).why.isSome then (t.mapCtx c fun x => { x with held := false, sent := false }).wake c else t).grants.ctxs =
        privs s.ctxs := by
    intro t ht
    rw [grants_ctxs]
    split
    · rw [privs_wake, privs_mapCtx t c (by intro _; rfl), ht]
    · rw [ht]
  exact hq _ (by dsimp only [mapClu_ctxs]; split <;> rfl)
@[simp] theorem privs_stopCtx (s : State) (c : Nat) : privs (s.stopCtx c).ctxs = privs s.ctxs := by
  unfold State.stopCtx
  dsimp only
  repeat' split
  all_goals simp
@[simp] theorem privs_wakeDeque (s : State) (n : Nat) : privs (s.wakeDeque n).ctxs = privs s.ctxs :=
  privs_foldl (fun t j => by dsimp only; split <;> simp) _ s

/-! ## The store buffer -/

@[simp] theorem privs_drainWords (s : State) (c : Nat) (ws : List Nat) : privs (s.drainWords c ws).ctxs = privs s.ctxs := by
  unfold State.drainWords
  split
  · dsimp only
    rw [privs_mapCtx, privs_foldl, foldl_view (v := State.ctxs)]
    · intro t p; split <;> simp
    · intro t w; simp
    · intro x; split <;> rfl
  · rfl
theorem privs_drainOne {s t : State} {c : Nat} (h : s.drainOne c = some t) : privs t.ctxs = privs s.ctxs := by
  unfold State.drainOne at h
  split at h
  · cases h
  · split at h
    · cases h; simp
    · cases h
  · split at h
    · cases h; exact privs_mapCtx s c fun _ => rfl
    · cases h
theorem privs_drainTo {s t : State} {c n k : Nat} (h : s.drainTo c n k = some t) : privs t.ctxs = privs s.ctxs := by
  induction k generalizing s with
  | zero => cases h; rfl
  | succ k ih =>
    unfold State.drainTo at h
    split at h
    · cases h; rfl
    · obtain ⟨u, hu, ht⟩ := Option.bind_eq_some_iff.mp h
      exact (ih ht).trans (privs_drainOne hu)
theorem privs_drainAll {s t : State} {c : Nat} (h : s.drainAll c = some t) : privs t.ctxs = privs s.ctxs := privs_drainTo h

/-! ## Full/empty words and armed errors -/

@[simp] theorem privs_feDo (s : State) (c : Nat) (op : FeOp) (w : Nat) (data : Word) : privs (s.feDo c op w data).ctxs = privs s.ctxs := by
  cases op <;> simp [State.feDo]
@[simp] theorem privs_serve (s : State) (w k : Nat) : privs (s.serve w k).ctxs = privs s.ctxs := by
  induction k generalizing s with
  | zero => rfl
  | succ k ih =>
    unfold State.serve
    dsimp only
    split
    · rfl
    · split
      · rw [ih, privs_wake, mapCore_ctxs]
      · rw [ih, privs_wake, privs_feDo, mapCore_ctxs]
@[simp] theorem privs_serveAll (s : State) (w : Nat) : privs (s.serveAll w).ctxs = privs s.ctxs := privs_serve _ _ _
@[simp] theorem tookGot_priv (x : Ctx) : x.tookGot.priv = x.priv := rfl
@[simp] theorem endTask_priv (x : Ctx) : x.endTask.priv = x.priv := rfl
@[simp] theorem privs_feEnd (s : State) (op : FeOp) (d : Option XR) : privs (s.feEnd op d).ctxs = privs s.ctxs := by
  have h : ∀ t : State, privs t.ctxs = privs s.ctxs → privs (t.mapMe Ctx.tookGot).ctxs = privs s.ctxs := fun t ht =>
    (privs_mapMe t tookGot_priv).trans ht
  have hs : privs (if feAcquires op then s.acquireOf s.cur .cluster s.me.gotTags else s.release s.cur .cluster).ctxs = privs s.ctxs := by
    split <;> simp
  unfold State.feEnd
  cases d with
  | none => exact h _ hs
  | some d => exact (privs_putX _ d _).trans (h _ hs)
@[simp] theorem privs_meetPiece (s : State) (a : Armed) (p : Piece) : privs (s.meetPiece a p).ctxs = privs s.ctxs := by
  have h : privs (s.mapMe fun c => { c with armed := none }).ctxs = privs s.ctxs := privs_mapMe s fun _ => rfl
  unfold State.meetPiece
  dsimp only
  split
  · split <;> simpa using h
  · split
    · simpa using h
    · split <;> simpa using h
  · split <;> simpa using h
  · split <;> simpa using h
@[simp] theorem privs_meetRead (s : State) (home : Bool) (ps : List Piece) : privs (s.meetRead home ps).ctxs = privs s.ctxs := by
  unfold State.meetRead
  split
  · rfl
  · split <;> simp
@[simp] theorem privs_meetRecord (s : State) (ps : List Piece) : privs (s.meetRecord ps).ctxs = privs s.ctxs := by
  cases ps with
  | nil => rfl
  | cons p ps =>
    simp only [State.meetRecord]
    split
    · rw [setBad_ctxs]; exact privs_mapMe s (by intro _; rfl)
    · rfl
@[simp] theorem privs_readLate (s : State) (ps : List Piece) (dst : XR × Bool ⊕ VR × ElemT × KWord) : privs (s.readLate ps dst).ctxs = privs s.ctxs := by
  unfold State.readLate
  dsimp only
  split
  · rfl
  · exact privs_mapMe s fun _ => rfl
@[simp] theorem privs_meetEntry (s : State) (i : Nat) : privs (s.meetEntry i).1.ctxs = privs s.ctxs := by
  unfold State.meetEntry
  split
  · split
    · exact (congrArg privs (logClu_ctxs _ _ _ _)).trans (privs_mapMe s fun _ => rfl)
    · rfl
  · rfl
@[simp] theorem privs_reaped (s : State) (c : Nat) : privs (s.reaped c).ctxs = privs s.ctxs :=
  (privs_haltCtx _ c).trans (privs_mapCtx _ c fun _ => rfl)

end Sys2Proof.Machine
end

section
/-! SUPPORT. What a head that does not trap can do to the levels of the contexts: the ends of a head and its checks, then one lemma for
each operation that several forms share (R57). -/
namespace Sys2Proof.Machine

/-! ## The ends of a head -/

/-- No context that is at the app level in p is above it in q. -/
def Lowers (p q : Nat → Word) : Prop := ∀ c, (p c).getLsbD 0 = false → (q c).getLsbD 0 = false
/-- A head traps, or ends with no level above those of p. -/
def NoRise (p : Nat → Word) (o : Out) : Prop := ∀ t, o = .next t → t.mark ≠ .trapped → Lowers p (privs t.ctxs)

section
variable {p : Nat → Word} {s t : State}

theorem ends_lower (h : Lowers p (privs t.ctxs)) : NoRise p (.next t) := fun _ e _ => by cases e; exact h
theorem ends_next (h : privs t.ctxs = p) : NoRise p (.next t) := ends_lower (by rw [h]; exact fun _ hc => hc)
theorem ends_trapped (h : t.mark = .trapped) : NoRise p (.next t) := fun _ e g => by cases e; exact absurd h g
theorem ends_trap (c : Nat) (v : Word) : NoRise p (.next (s.trap c v)) := ends_trapped rfl
theorem ends_trapHead (c : Nat) : NoRise p (.next (s.trapHead c)) := ends_trapped rfl
theorem ends_trapTo (c : Nat) (v e : Word) : NoRise p (.next (s.trapTo c v e)) := ends_trapped rfl
theorem ends_park (h : privs s.ctxs = p) (w : Why) : NoRise p (.next (s.park w)) := ends_next (by rwa [privs_park])
theorem ends_retire_lower (h : Lowers p (privs t.ctxs)) : NoRise p (retire s t) := by
  unfold retire
  split
  · refine ends_lower ?_
    show Lowers p (privs (t.mapMe fun c => c.stepTo s.nextPc).ctxs)
    rwa [privs_mapMe t (by intro _; rfl)]
  · exact ends_trap _ _
theorem ends_retire (h : privs t.ctxs = p) : NoRise p (retire s t) := ends_retire_lower (by rw [h]; exact fun _ hc => hc)
theorem ends_retireAfter (h : privs t.ctxs = p) (l : Nat) : NoRise p (retireAfter s t l) :=
  ends_retire (by rwa [privs_mapMe t (by intro _; rfl)])
theorem ends_retireLong (h : privs t.ctxs = p) : NoRise p (retireLong s t) :=
  ends_retire (by rwa [post_ctxs, privs_mapMe t (by intro _; rfl)])
theorem ends_transfer (h : privs t.ctxs = p) (a : Nat) : NoRise p (transfer s t a) := by
  unfold transfer
  split
  · refine ends_next ?_
    show privs (t.mapMe fun c => c.goto a).ctxs = p
    rwa [privs_mapMe t (by intro _; rfl)]
  · exact ends_trap _ _
theorem ends_branch (h : privs t.ctxs = p) (b : Bool) (off : BitVec 16) : NoRise p (branch s t b off) := by
  cases b
  · exact ends_retire h
  · exact ends_transfer h _
theorem ends_endStatus (h : privs t.ctxs = p) (d : XR) (n : Nat) : NoRise p (endStatus s t d n) :=
  ends_retireLong (by rwa [privs_putX])
/-- A head that waits for a long op. -/
theorem privs_longOp (t : State) : privs (t.mapMe fun x => { x with why := some .longOp }).ctxs = privs t.ctxs :=
  privs_mapMe t (by intro _; rfl)
/-- A head that waits for a long op that it has sent to a place. -/
theorem privs_sentOp (t : State) (f : Ctx → Fill) :
    privs (t.mapMe fun x => { x with why := some .longOp, fill := some (f x) }).ctxs = privs t.ctxs := privs_mapMe t (by intro _; rfl)

/-! ## The checks before a head's effect -/

variable {k : Out}

theorem ends_needNext (h : NoRise p k) : NoRise p (s.needNext k) := by
  unfold State.needNext; split
  · exact h
  · exact ends_trap _ _
theorem ends_needMiller (h : NoRise p k) : NoRise p (s.needMiller k) := by
  unfold State.needMiller; split
  · exact h
  · exact ends_trapHead _
theorem ends_needRmode (h : NoRise p k) : NoRise p (s.needRmode k) := by
  unfold State.needRmode; split
  · exact h
  · exact ends_trap _ _
theorem ends_needTask (z : Bool) (h : NoRise p k) : NoRise p (s.needTask z k) := by
  unfold State.needTask; split
  · exact h
  · exact ends_trap _ _
theorem ends_needAligned (v : Word) (n : Nat) (h : NoRise p k) : NoRise p (s.needAligned v n k) := by
  unfold State.needAligned; split
  · exact h
  · exact ends_trap _ _
theorem ends_needHead (v : Word) (h : NoRise p k) : NoRise p (needHead s v k) := by
  unfold needHead; split
  · exact ends_trap _ _
  · exact h
theorem ends_openLine (hs : privs s.ctxs = p) (pa : Nat) (h : NoRise p k) : NoRise p (s.openLine pa k) := by
  unfold State.openLine; dsimp only; split
  · exact ends_park hs _
  · exact h
theorem ends_redRounds (op : RedK) (t : ElemT) (h : NoRise p k) : NoRise p (redRounds op t s k) := by
  unfold redRounds; split
  · exact ends_needRmode h
  · exact h
theorem ends_cvtRounds (td ts : ElemT) (h : NoRise p k) : NoRise p (cvtRounds td ts s k) := by
  unfold cvtRounds; split
  · exact h
  · exact ends_needRmode h
theorem ends_regCheck (n : Nat) (w : Bool) (h : NoRise p k) : NoRise p (s.regCheck n w k) := by
  unfold State.regCheck
  split
  · exact ends_trapHead _
  · split
    · split
      · exact h
      · exact ends_trap _ _
    · split
      · exact h
      · exact ends_trap _ _
    · exact h
/-- A form of the sys level traps at the app level. -/
theorem ends_needSys (h : s.me.sys = false) : NoRise p (s.needSys k) := by
  rw [needSys_app h]; exact ends_trapHead _

/-! ## The waits of a head -/

theorem ends_onRes (hs : privs s.ctxs = p) (acc : Acc) (r : Res) {k : List Piece → Out} (h : ∀ ps, NoRise p (k ps)) :
    NoRise p (s.onRes acc r k) := by
  cases r with
  | ok ps => exact h ps
  | miss va => exact ends_park (by rwa [openWalk_ctxs]) _
  | held => exact ends_park hs _
  | saved => exact ends_park hs _
  | trap o c va => exact ends_trap _ _
theorem ends_awaitDrain (hs : privs s.ctxs = p) (n : Nat) : NoRise p (.next (s.awaitDrain n)) :=
  ends_next (by unfold State.awaitDrain; rwa [post_ctxs, privs_park])

section
variable {k : State → Out} (hs : privs s.ctxs = p) (h : NoRise p (k s))
include hs h
theorem ends_drained : NoRise p (s.drained k) := by
  unfold State.drained; split
  · exact h
  · exact ends_awaitDrain hs _
theorem ends_pastMarkers : NoRise p (s.pastMarkers k) := by
  unfold State.pastMarkers; split
  · exact h
  · exact ends_awaitDrain hs _
/-- The head waits, parked, with the event that wakes it. -/
theorem ends_waitFor (b : Bool) (w : Why) (e : Instr) : NoRise p (if b then k s else .next ((s.park w).post e)) := by
  split
  · exact h
  · exact ends_next (by rwa [post_ctxs, privs_park])
theorem ends_ordered (sc : Scope) (but : Option Nat) : NoRise p (s.ordered sc but k) :=
  ends_drained hs (ends_waitFor hs h _ _ _)
theorem ends_released (sc : Scope) : NoRise p (s.released sc k) := ends_drained hs (ends_waitFor hs h _ _ _)
end

theorem ends_buffer (hs : privs s.ctxs = p) (e : BufEntry) {k : State → Out}
    (h : ∀ t : State, privs t.ctxs = privs s.ctxs → NoRise p (k t)) : NoRise p (s.buffer e k) := by
  unfold State.buffer
  split
  · exact h _ (by rw [post_ctxs]; exact privs_mapMe s (by intro _; rfl))
  · exact ends_awaitDrain hs _
theorem ends_readCheck (home : Bool) (ps : List Piece) {k : State → Out}
    (h : ∀ t : State, privs t.ctxs = privs s.ctxs → NoRise p (k t)) : NoRise p (s.readCheck home ps k) := by
  unfold State.readCheck
  dsimp only
  split
  · exact ends_trap _ _
  · exact h _ (by rw [privs_meetRecord, privs_meetRead])
theorem ends_sluiceCheck (ch : Fin 16) {k : Nat → Out} (h : ∀ l, NoRise p (k l)) : NoRise p (s.sluiceCheck ch k) := by
  unfold State.sluiceCheck State.sluiceTrap
  split
  · exact ends_trap _ _
  · split
    · exact h _
    · exact ends_trap _ _
theorem ends_waitChecks (hs : privs s.ctxs = p) (ea : Word) (n : Nat) (rel : Option Scope) {k : State → Nat → Out}
    (h : ∀ (t : State) l, privs t.ctxs = privs s.ctxs → NoRise p (k t l)) : NoRise p (waitChecks s ea n rel k) := by
  unfold waitChecks
  split
  · exact ends_trap _ _
  · refine ends_onRes hs _ _ fun ps => ?_
    have go := ends_readCheck (p := p) (s := s) true ps fun t ht => h t ((pieceKeys ps).getD 0 0) ht
    cases rel with
    | none => exact ends_drained hs go
    | some sc => exact ends_ordered hs go sc none
theorem ends_readRecord (hs : privs s.ctxs = p) (r : Res) (rel : Option Scope) {k : State → Nat → Out}
    (h : ∀ (t : State) v, privs t.ctxs = privs s.ctxs → NoRise p (k t v)) : NoRise p (readRecord s r rel k) := by
  unfold readRecord
  refine ends_onRes hs _ _ fun ps => ?_
  have go := ends_readCheck (p := p) (s := s) false ps fun t ht => h t (t.readKeys (pieceKeys ps)) ht
  cases rel with
  | none => exact ends_drained hs go
  | some sc => exact ends_ordered hs go sc none
end

/-! ## Forms of the registers -/

section
variable (s : State)

theorem levels_intOut (d : XR) (v : Word) : NoRise (privs s.ctxs) (intOut s d v) := ends_retire (privs_putX s d v)
theorem levels_divOut (d : XR) (v : Word) : NoRise (privs s.ctxs) (divOut s d v) := ends_retireAfter (privs_putX s d v) _
theorem levels_fpOut (d : XR) (r : Fp) : NoRise (privs s.ctxs) (fpOut s d r) := ends_needRmode (ends_retire (privs_putFp s d r))
theorem levels_fpLong (d : XR) (r : Fp) (l : Nat) : NoRise (privs s.ctxs) (fpLong s d r l) :=
  ends_needRmode (ends_retireAfter (privs_putFp s d r) l)
theorem levels_fpPlain (d : XR) (r : Fp) : NoRise (privs s.ctxs) (fpPlain s d r) := ends_retire (privs_putFp s d r)
theorem privs_xFlag (d : XR) (v f : Word) : privs (s.mapMe fun c => (c.setX d v).flag f).ctxs = privs s.ctxs :=
  privs_mapMe s fun c => by simp
theorem levels_fpBool (d : XR) (r : Bool × Word) : NoRise (privs s.ctxs) (fpBool s d r) := ends_retire (privs_xFlag s d _ _)
theorem levels_putLanes (w : Nat) (d : VR) (m : KR) (f : Nat → Fp) : NoRise (privs s.ctxs) (retire s (s.putLanes w d m f)) :=
  ends_retire (privs_putLanes s w d m f)
theorem levels_putMask (w : Nat) (d m : KR) (f : Nat → Bool × Word) : NoRise (privs s.ctxs) (retire s (s.putMask w d m f)) :=
  ends_retire (privs_putMask s w d m f)
theorem levels_putV (d : VR) (v : VWord) : NoRise (privs s.ctxs) (retire s (s.putV d v)) := ends_retire (privs_putV s d v)
theorem levels_putK (d : KR) (v : KWord) : NoRise (privs s.ctxs) (retire s (s.putK d v)) := ends_retire (privs_putK s d v)
theorem levels_vf2 (t : ElemT) (d b c : VR) (m : KR) (f : Nat → Nat → Nat → Fp) : NoRise (privs s.ctxs) (vf2 s t d b c m f) :=
  ends_needRmode (levels_putLanes s _ d m _)
theorem levels_vfLong (t : ElemT) (d : VR) (m : KR) (f : Nat → Fp) (l : Nat) :
    NoRise (privs s.ctxs) (s.needRmode (retireAfter s (s.vf t d m f) l)) := ends_needRmode (ends_retireAfter (privs_vf s t d m f) l)
theorem levels_vred (op : RedK) (t : ElemT) (d : XR) (b : VR) (m : KR) : NoRise (privs s.ctxs) (vred op t d b m s) :=
  ends_redRounds op t (ends_retireAfter (privs_xFlag s d _ _) _)
theorem levels_vscan (op : RedK) (t : ElemT) (d b : VR) (m : KR) : NoRise (privs s.ctxs) (vscan op t d b m s) :=
  ends_redRounds op t (ends_retireAfter (privs_mapMe s fun c => by simp) _)
theorem levels_vcvt (td ts : ElemT) (d b : VR) (p : BitVec 6) (m : KR) : NoRise (privs s.ctxs) (execVcvt td ts d b p m s) :=
  ends_cvtRounds td ts (levels_putLanes s _ d m _)
theorem levels_fcvt (td ts : ElemT) (d : XR) (b : XS) : NoRise (privs s.ctxs) (execFcvt td ts d b s) :=
  ends_cvtRounds td ts (ends_retire (privs_xFlag s d _ _))
theorem levels_vemax (bf : BlkF) (t : ElemT) (d : XR) (b : VR) (m : KR) : NoRise (privs s.ctxs) (execVemax bf t d b m s) :=
  ends_retire (privs_xFlag s d _ _)
theorem levels_block (bf : BlkF) (d : VR) (m : KR) (f : Nat → Fp) : NoRise (privs s.ctxs) (s.needRmode (retire s (s.putBlock bf d m f))) :=
  ends_needRmode (ends_retire (privs_putBlock s bf d m f))
theorem levels_group (t : ElemT) (n : Nat) (d : VR) (m : KR) (f : Nat → Fp) :
    NoRise (privs s.ctxs) (s.needRmode (retire s (s.putGroup t n d m f))) := ends_needRmode (ends_retire (privs_putGroup s t n d m f))

/-! ## Control -/

theorem levels_halt : NoRise (privs s.ctxs) (execHalt s) := by
  unfold execHalt
  split
  · exact ends_trap _ _
  · exact ends_drained rfl (ends_retire (privs_haltCtx s _))
theorem levels_yield : NoRise (privs s.ctxs) (execYield s) :=
  ends_retire (by rw [post_ctxs]; exact privs_mapMe s (by intro _; rfl))

/-! ## Loads and stores -/

theorem levels_endRead {t : State} (h : privs t.ctxs = privs s.ctxs) (fixed : Bool) (ps : List Piece) :
    NoRise (privs s.ctxs) (endRead s t fixed ps) := by
  unfold endRead
  split
  · exact ends_retire h
  · have hb : privs (t.bringLines ps).1.ctxs = privs s.ctxs := by rw [bringLines_ctxs, h]
    split
    · rename_i u e; rw [e] at hb; exact ends_retireLong hb
    · rename_i u p e; rw [e] at hb; exact ends_retire (by rw [post_ctxs, privs_sentOp]; exact hb)
theorem levels_readPieces (fixed : Bool) (ps : List Piece) (dst : XR × Bool ⊕ VR × ElemT × KWord) {fin : State → Nat → State}
    (h : ∀ t v, privs (fin t v).ctxs = privs t.ctxs) : NoRise (privs s.ctxs) (readPieces s fixed ps dst fin) := by
  unfold readPieces
  dsimp only
  split
  · exact ends_awaitDrain rfl _
  · split
    · exact ends_trap _ _
    · exact levels_endRead s (h s _) fixed ps
  · refine ends_readCheck false ps fun t ht => ?_
    have he := levels_endRead t (t := fin ((t.noteReads t.cur false (keyWords (pieceKeys ps))).readLate ps dst) (t.readKeys (pieceKeys ps)))
      (by rw [h, privs_readLate, privs_noteReads]) fixed ps
    rwa [ht] at he
theorem levels_load (sg : Bool) (n : Nat) (d : XR) (ea : Word) : NoRise (privs s.ctxs) (load s sg n d ea) := by
  refine ends_onRes rfl _ _ fun ps => ?_
  split
  · exact ends_readCheck false ps fun t ht => ends_retire (by rw [post_ctxs, privs_sentOp, ht])
  · exact levels_readPieces s true ps _ fun t v => privs_putX t d _
theorem levels_bufferStore (ps : List Piece) (bs : List (Nat × Byte)) : NoRise (privs s.ctxs) (bufferStore s ps bs) := by
  unfold bufferStore
  split
  · exact ends_trap _ _
  · refine ends_buffer rfl _ fun t ht => ?_
    split
    · exact ends_retire ((privs_mapMe t (by intro _; rfl)).trans ht)
    · exact ends_retire ht
theorem levels_store (n : Nat) (a : XS) (ea : Word) : NoRise (privs s.ctxs) (store s n a ea) :=
  ends_onRes rfl _ _ fun ps => levels_bufferStore s ps _
theorem levels_vload (t : ElemT) (d : VR) (m : KR) (fixed : Bool) (base : Word) (step : Nat → Int) :
    NoRise (privs s.ctxs) (vload s t d m fixed base step) :=
  ends_onRes rfl _ _ fun ps => levels_readPieces s fixed ps _ fun t _ => privs_mapMe t fun c => setV_priv c d _
theorem levels_vstore (t : ElemT) (a : VR) (m : KR) (base : Word) (step : Nat → Int) : NoRise (privs s.ctxs) (vstore s t a m base step) :=
  ends_onRes rfl _ _ fun ps => levels_bufferStore s ps _
theorem levels_ldp (d : XR) (w : Fin 4) (off : BitVec 16) : NoRise (privs s.ctxs) (execLdp d w off s) := by
  unfold execLdp
  dsimp only
  split
  · exact ends_trap _ _
  · split
    · exact ends_trap _ _
    · split
      · exact ends_onRes rfl _ _ fun ps => levels_readPieces s false ps _ fun t v => privs_putX t d _
      · exact ends_retireLong (privs_xFlag s d _ _)
theorem levels_prefetch (ea : Word) {k : State → Piece → State} (h : ∀ p, (k s p).ctxs = s.ctxs) : NoRise (privs s.ctxs) (prefetch s ea k) := by
  unfold prefetch
  split
  · exact ends_retireLong rfl
  · split
    · exact ends_trap _ _
    · refine ends_retireLong ?_
      split
      · rfl
      · rw [h]
    · exact ends_retireLong rfl
theorem levels_prefL1 (b : XS) (off : BitVec 16) : NoRise (privs s.ctxs) (execPrefL1 b off s) :=
  levels_prefetch s _ fun _ => proxyServe_ctxs s _ _ _ _
theorem levels_prefSl (b : XS) (off : BitVec 16) : NoRise (privs s.ctxs) (execPrefSl b off s) :=
  levels_prefetch s _ fun p => by
    split
    · exact sliceIn_ctxs s _ _ _
    · rfl
theorem levels_maintain (ea : Word) {k : Piece → Out} (h : ∀ p, NoRise (privs s.ctxs) (k p)) : NoRise (privs s.ctxs) (maintain s ea k) := by
  unfold maintain
  split
  · exact ends_retireLong rfl
  · refine ends_onRes rfl _ _ fun ps => ?_
    cases ps with
    | nil => exact ends_retireLong rfl
    | cons p ps => exact h p
theorem levels_cclean (b : XS) (off : BitVec 16) : NoRise (privs s.ctxs) (execCclean b off s) :=
  levels_maintain s _ fun p => ends_openLine rfl _ (ends_drained rfl (ends_retireLong (by split <;> rfl)))
theorem levels_cflush (b : XS) (off : BitVec 16) : NoRise (privs s.ctxs) (execCflush b off s) :=
  levels_maintain s _ fun p => ends_openLine rfl _ (ends_drained rfl (ends_retireLong (by
    split
    · rfl
    · rw [dropLine_ctxs, cleanLine_ctxs])))
theorem levels_iflush (b : XS) (off : BitVec 16) : NoRise (privs s.ctxs) (execIflush b off s) :=
  levels_maintain s _ fun _ => ends_drained rfl (ends_retireLong rfl)

/-! ## Full/empty forms, atomics, cells and fences -/

theorem levels_fullEmpty (op : FeOp) (d : Option XR) (data ea : Word) : NoRise (privs s.ctxs) (fullEmpty s op d data ea) := by
  unfold fullEmpty
  split
  · exact ends_retire (privs_feEnd s op d)
  · split
    · exact ends_trap _ _
    · split
      · exact ends_trap _ _
      · split
        · exact ends_trap _ _
        · refine ends_onRes rfl _ _ fun ps => ?_
          have go : NoRise (privs s.ctxs) (s.readCheck false ps fun t =>
              let w := windowKey t.myCore ea.toNat
              if allOwn t.myCore ps && t.feReady op w then retire t (((t.feDo t.cur op w data).serveAll w).feEnd op d)
              else .next ((t.park (.fullEmpty (spadCore w))).post (.fullEmptyAtPort t.cur op w (d.getD 0) data))) := by
            refine ends_readCheck false ps fun t ht => ?_
            dsimp only
            split
            · exact ends_retire (by simpa using ht)
            · exact ends_next (by simpa using ht)
          split
          · exact ends_drained rfl go
          · exact ends_released rfl go .cluster
theorem levels_atomic (op : AmoOp) (o : Ord) (sc : Scope) (w : Bool) (ea c e : Word) (d : Option XR) :
    NoRise (privs s.ctxs) (atomic s op o sc w ea c e d) := by
  unfold atomic
  split
  · exact ends_trap _ _
  · refine ends_onRes rfl _ _ fun ps => ?_
    have send : NoRise (privs s.ctxs) (s.readCheck true ps fun s =>
        let loc := (pieceKeys ps).getD 0 0
        retire s ((s.mapMe fun x => { x with why := some .longOp, fill := some ⟨x.asid.toNat, ea.toNat, loc, none⟩ }).post
          (.atomicAtPlace op w o sc loc c e s.cur d))) :=
      ends_readCheck true ps fun t ht => ends_retire (by rw [post_ctxs, privs_sentOp, ht])
    dsimp only
    split
    · exact ends_ordered rfl send sc none
    · exact ends_drained rfl send
theorem levels_cellForm (acc : Acc) (vas : List Nat) (ops : List CellOp) : NoRise (privs s.ctxs) (cellForm s acc vas ops) := by
  refine ends_onRes rfl _ _ fun ps => ends_readCheck true ps fun t ht => ends_pastMarkers ht (ends_retire ?_)
  rw [privs_longOp, foldl_view (v := State.ctxs) (by intro _ _; rfl), ht]
theorem levels_caddv (t : ElemT) (a : VR) (b c : XS) (m : KR) : NoRise (privs s.ctxs) (execCaddv t a b c m s) := by
  unfold execCaddv
  dsimp only
  split
  · exact ends_retireAfter rfl 8
  · exact levels_cellForm s _ _ _
theorem levels_cld (t : ElemT) (d : XR) (b : XS) : NoRise (privs s.ctxs) (execCld t d b s) := ends_needRmode (levels_cellForm s _ _ _)
theorem levels_fenceAcq (sc : Scope) : NoRise (privs s.ctxs) (execFenceAcq sc s) := ends_retireLong (privs_acquire s _ _)
theorem levels_fenceRel (sc : Scope) : NoRise (privs s.ctxs) (execFenceRel sc s) :=
  ends_buffer rfl _ fun t ht => ends_retire ((privs_release t _ _).trans ht)
theorem levels_fenceAr (sc : Scope) : NoRise (privs s.ctxs) (execFenceAr sc s) :=
  ends_buffer rfl _ fun t ht => ends_retireLong (by rw [privs_acquire, privs_release, ht])
theorem levels_fenceSc (sc : Scope) : NoRise (privs s.ctxs) (execFenceSc sc s) := by
  refine ends_ordered rfl ?_ sc none
  exact ends_retireLong (by rw [privs_acquire, privs_release])
theorem levels_fflag (sc : Scope) (a b : XS) : NoRise (privs s.ctxs) (execFflag sc a b s) := by
  unfold execFflag
  dsimp only
  split
  · exact ends_trap _ _
  · refine ends_onRes rfl _ _ fun ps => ?_
    split
    · exact ends_trap _ _
    · split
      · refine ends_ordered rfl ?_ sc _
        exact ends_retireLong (by rw [privs_nextSeq, sendOut_ctxs, privs_release])
      · refine ends_ordered rfl ?_ sc none
        split
        · exact ends_park rfl _
        · split
          · exact ends_next (by rw [post_ctxs, privs_park])
          · refine ends_retireLong ?_
            split
            · rw [tagWrite_ctxs, store_ctxs, privs_release]
            · rw [privs_wakeSyncs, homeDirty_ctxs, tagWrite_ctxs, store_ctxs, recall_ctxs, privs_release]

/-! ## Sluices, sleeping and messages -/

theorem levels_arrive (ch : Fin 16) (d : XR) (rel drop : Bool) : NoRise (privs s.ctxs) (arrive s ch d rel drop) := by
  refine ends_sluiceCheck ch fun l => ?_
  dsimp only
  split
  · refine ends_retire ?_
    rw [post_ctxs, privs_putX]
    split <;> simp
  · split
    · exact ends_park rfl _
    · exact ends_trap _ _
theorem levels_bwt (ch : Fin 16) (a : XS) : NoRise (privs s.ctxs) (execBwt ch a s) := by
  refine ends_sluiceCheck ch fun l => ?_
  dsimp only
  split
  · split
    · exact ends_retireLong (by rw [acquireOf_ctxs])
    · exact ends_retire (by rw [acquireOf_ctxs])
  · exact ends_park rfl _
theorem levels_btest (ch : Fin 16) (d : XR) : NoRise (privs s.ctxs) (execBtest ch d s) :=
  ends_sluiceCheck ch fun _ => ends_retire (privs_putX s d _)
/-- A form that a wait has ended takes its word as an acquire. -/
theorem levels_gotten (sc : Scope) (d : XR) (v : Word) :
    NoRise (privs s.ctxs) (retireLong s (((s.acquireOf s.cur sc s.me.gotTags).mapMe Ctx.tookGot).putX d v)) :=
  ends_retireLong (by rw [privs_putX, privs_mapMe _ tookGot_priv, acquireOf_ctxs])
theorem levels_waitv (ne : Bool) (sc : Scope) (w : Bool) (d : XR) (b c e : XS) : NoRise (privs s.ctxs) (execWaitv ne sc w d b c e s) := by
  unfold execWaitv
  split
  · exact levels_gotten s sc d _
  · exact ends_waitChecks rfl _ _ _ fun t l ht => ends_next (by rwa [post_ctxs, privs_park])
theorem levels_notify (sc : Scope) (all : Bool) (d : XR) (b : XS) : NoRise (privs s.ctxs) (notify s sc all d b) :=
  ends_waitChecks rfl _ _ _ fun t l ht => ends_retire (by rw [post_ctxs, privs_sentOp, privs_release, ht])
theorem levels_send (sc : Scope) (q : Fin 4) (d : XR) (b : XS) (c : VR) : NoRise (privs s.ctxs) (execSend sc q d b c s) := by
  refine ends_ordered rfl ?_ sc none
  have go : ∀ t : State, privs t.ctxs = privs s.ctxs → NoRise (privs s.ctxs) (retire s (t.mapMe fun x => { x with why := some .longOp })) :=
    fun t ht => ends_retire ((privs_longOp t).trans ht)
  dsimp only
  split
  · split <;> exact go _ (by simp)
  · split
    · split <;> exact go _ (by simp)
    · exact go _ (by simp)
theorem levels_takeEntry (sc : Scope) (i : Nat) (m : Msg) (d : VR) (x : XR) : NoRise (privs s.ctxs) (takeEntry s sc i m d x) := by
  unfold takeEntry
  dsimp only
  split
  · exact ends_trap _ _
  · exact ends_retire (by simp)
theorem levels_recv (sc : Scope) (q : Option (Fin 4)) (d : VR) (x : XR) : NoRise (privs s.ctxs) (execRecv sc q d x s) := by
  unfold execRecv
  dsimp only
  split
  · exact levels_takeEntry s sc _ _ d x
  · exact ends_park rfl _
theorem levels_recvt (sc : Scope) (q : Option (Fin 4)) (d : VR) (x : XR) : NoRise (privs s.ctxs) (execRecvt sc q d x s) := by
  unfold execRecvt
  dsimp only
  split
  · exact levels_takeEntry s sc _ _ d x
  · exact ends_retire (privs_putX s x 0)

/-! ## Tasks -/

/-- A push changes no context, whatever it answers. -/
theorem push_ctxs (n : Nat) (f : Word) : (∀ u, s.push n f = .done u → u.ctxs = s.ctxs) ∧ ∀ u, s.push n f = .walk u → u.ctxs = s.ctxs := by
  unfold State.push
  dsimp only
  split
  · constructor <;> intro u h <;> cases h
  · split
    · constructor <;> intro u h <;> cases h
      simp
    · split
      · constructor <;> intro u h <;> cases h
      · split
        · constructor <;> intro u h <;> cases h
        · constructor <;> intro u h <;> cases h
          rfl
        · constructor <;> intro u h <;> cases h
        · constructor <;> intro u h <;> cases h
          simp
/-- Counting a child in its parent's frame changes no level. -/
theorem privs_countChild (c : Nat) (ps : List Piece) :
    privs (match (ps.drop 1).head? with
      | some p => (s.noteReads c true [p.key]).homeWrite c p.key (s.rd64 p.key + 1) (some .device)
      | none => s).ctxs = privs s.ctxs := by
  split
  · rw [privs_homeWrite, privs_noteReads]
  · rfl
theorem levels_spawn (d : XR) (b c : XS) : NoRise (privs s.ctxs) (execSpawn d b c s) := by
  refine ends_onRes rfl _ _ fun ps => ends_ordered rfl (ends_readCheck true _ fun t ht => ?_) .device none
  dsimp only
  split
  · exact ends_trap _ _
  · rename_i u hu
    exact ends_park (by rw [openWalk_ctxs, openWalk_ctxs, (push_ctxs t _ _).2 u hu, ht]) _
  · exact ends_next (by rw [post_ctxs, privs_park])
  · split
    · rename_i u hu
      refine ends_retireLong ?_
      rw [privs_putX, privs_wakeDeque, refillDue_ctxs, (push_ctxs _ _ _).1 u hu]
      exact (privs_countChild _ _ ps).trans (by rw [privs_homeWrite, privs_release, ht])
    · exact ends_trap _ _
theorem levels_joinUpdate {t : State} (h : privs t.ctxs = privs s.ctxs) (va loc : Nat) (v : Word) (d : XR) (new : Bool) :
    NoRise (privs s.ctxs) (joinUpdate s t va loc v d new) := ends_retire (by rw [post_ctxs, privs_sentOp, h])
theorem levels_joina (d : XR) (b c : XS) : NoRise (privs s.ctxs) (execJoina d b c s) :=
  ends_onRes rfl _ _ fun _ => ends_ordered rfl (ends_readCheck true _ fun t ht =>
    levels_joinUpdate s ((privs_release t _ _).trans ht) _ _ _ d false) .device none
theorem levels_tdone (d : XR) : NoRise (privs s.ctxs) (execTdone d s) := by
  refine ends_needTask _ (ends_onRes rfl _ _ fun ps => ends_ordered rfl (ends_readCheck true _ fun t ht => ?_) .device none)
  have hu : privs (t.release s.cur .device).ctxs = privs s.ctxs := (privs_release t _ _).trans ht
  dsimp only
  split
  · exact ends_retireLong (by rw [privs_putX, privs_mapMe _ endTask_priv, hu])
  · exact ends_onRes rfl _ _ fun qs => ends_readCheck true qs fun u hr =>
      levels_joinUpdate s ((privs_mapMe u endTask_priv).trans (hr.trans hu)) _ _ _ d true
theorem levels_sync (d : XR) (b : XS) : NoRise (privs s.ctxs) (execSync d b s) := by
  unfold execSync
  split
  · exact levels_gotten s .device d _
  · exact ends_onRes rfl _ _ fun ps => ends_drained rfl (ends_readCheck true ps fun t ht =>
      ends_next (by rwa [post_ctxs, privs_park]))
theorem levels_take (d : XR) : NoRise (privs s.ctxs) (execTake d s) := by
  rw [execTake]
  refine ends_needTask _ ?_
  split
  · dsimp only
    split
    · exact ends_trap _ _
    · exact ends_retire (by rw [privs_wakeDeque, privs_taken, refillDue_ctxs, mapCore_ctxs])
  · split
    · exact ends_park (by rw [refillDue_ctxs]) _
    · exact ends_retireAfter (privs_putX s d 0) 8
theorem levels_steal (d : XR) (b : XS) : NoRise (privs s.ctxs) (execSteal d b s) :=
  ends_needTask _ (ends_needNext (ends_next (by rw [post_ctxs, privs_park, mapCore_ctxs])))

/-! ## Engines and optical forms -/

theorem levels_engine (form : EngForm) (sc : Scope) (d : XR) (b c e : XS) : NoRise (privs s.ctxs) (engine s form sc d b c e) := by
  refine ends_needNext (ends_released rfl ?_ sc)
  exact ends_next (by rw [post_ctxs, privs_park])
theorem levels_rdct (op : RedOp) (sc : Scope) (d : XR) (b c e : XS) : NoRise (privs s.ctxs) (execRdct op sc d b c e s) := by
  have h : NoRise (privs s.ctxs) (engine (s.noteRdct (bits (s.me.getS e).toNat 21 20)) (.rdct op) sc d b c e) :=
    levels_engine (s.noteRdct _) (.rdct op) sc d b c e
  unfold execRdct
  dsimp only
  split
  · exact ends_needRmode h
  · exact h
theorem levels_hdend (d : XR) (b : XS) : NoRise (privs s.ctxs) (execHdend d b s) := by
  refine ends_drained rfl ?_
  dsimp only
  split
  · exact ends_trap _ _
  · exact ends_retire (by rw [post_ctxs, privs_longOp, mapClu_ctxs])
theorem levels_await (d : XR) (b : XS) : NoRise (privs s.ctxs) (execAwait d b s) := by
  unfold execAwait
  dsimp only
  split
  · exact ends_trap _ _
  · refine ends_drained rfl ?_
    split
    · exact ends_retire (by rw [mapClu_ctxs, privs_longOp])
    · exact ends_retireLong (by rw [privs_putX, acquireOf_ctxs])
theorem levels_optical (form : OptForm) (pol : Pol) (ofm : Ofm) (d : XR) (b c e : XS) :
    NoRise (privs s.ctxs) (optical s form pol ofm d b c e) :=
  ends_needNext (ends_drained rfl (ends_next (by
    rw [post_ctxs, privs_park]
    split <;> rfl)))
theorem levels_passForm (form : OptForm) (pol : Pol) (ofm : Ofm) (d : XR) (b c e : XS) :
    NoRise (privs s.ctxs) (passForm s form pol ofm d b c e) := by
  unfold passForm
  split
  · exact ends_trapHead _
  · exact levels_optical s form pol _ d b c e
  · exact ends_needRmode (levels_optical s form pol _ d b c e)
end
end Sys2Proof.Machine
end

section
/-! SUPPORT. The system forms and the levels of the contexts (R57): those of the sys level trap at the app level, START places a context
at a level no higher than its miller's, and no other form writes PRIV. -/
namespace Sys2Proof.Machine

section
variable (s : State)

/-! ## Launches -/

theorem levels_slice (d : XR) (b c : XS) : NoRise (privs s.ctxs) (execSlice d b c s) := by
  have go : ∀ (v : Nat) (t : State), privs t.ctxs = privs s.ctxs → NoRise (privs s.ctxs)
      (let h := shapeOf v
       if h.reserved ≠ 0 ∨ h.gran = 0 ∨ h.ndm1 < h.pdim then .next (s.trap 0x32 (s.me.getS b))
       else
        let w := (s.me.getS c).toNat
        let p := h.part (if h.parts = 0 then s.me.nrank else h.parts) (bits w 15 0)
        let r := if w.testBit 16 then w64 p.2 else h.base + w64 p.1 * h.pstride
        retireAfter s (t.putX d r) 24) := by
    intro v t ht
    dsimp only
    split
    · exact ends_trap _ _
    · exact ends_retireAfter (by rw [privs_putX, ht]) 24
  unfold execSlice
  dsimp only
  split
  · exact ends_trap _ _
  · split
    · exact ends_awaitDrain rfl _
    · split
      · exact ends_trap _ _
      · exact go _ s rfl
    · exact ends_readCheck false _ fun t ht => go _ _ ((privs_noteReads t _ _ _).trans ht)
theorem levels_launch (d : XR) (b : XS) : NoRise (privs s.ctxs) (execLaunch d b s) := by
  refine ends_needAligned _ _ (ends_readRecord rfl _ _ fun t v ht => ?_)
  have hu : privs (t.release s.cur .device).ctxs = privs s.ctxs := (privs_release t _ _).trans ht
  dsimp only
  split
  · exact ends_endStatus hu d _
  · split
    · exact ends_retire (by rw [privs_longOp, launchAccept_ctxs, hu])
    · exact ends_readRecord rfl _ _ fun _ _ _ => ends_retire (by rw [privs_longOp, launchAccept_ctxs, hu])
/-- A context that its miller starts at the app level is at the app level. -/
theorem lowers_placeCtx (c l pc : Nat) (x1 : Word) : Lowers (privs s.ctxs) (privs (s.placeCtx c l pc x1 false).ctxs) := by
  intro i hi
  show ((s.placeCtx c l pc x1 false).ctx i).priv.getLsbD 0 = false
  unfold State.placeCtx
  rw [ctx_setCtx]
  split
  · show (lvlBit false).getLsbD 0 = false
    decide
  · exact hi
theorem levels_start (n : Fin 16) (d : XR) (b : XS) (h : s.me.sys = false) : NoRise (privs s.ctxs) (execStart n d b s) := by
  refine ends_needMiller (ends_needAligned _ _ (ends_readRecord rfl _ _ fun t v ht => ?_))
  have hu : privs (t.release s.cur .core).ctxs = privs s.ctxs := (privs_release t _ _).trans ht
  dsimp only
  split
  · exact ends_endStatus hu d _
  · split
    · exact ends_endStatus hu d _
    · split
      · exact ends_endStatus hu d _
      · split
        · exact ends_endStatus hu d _
        · rw [h, Bool.and_false, endStatus, retireLong]
          refine ends_retire_lower ?_
          rw [post_ctxs, privs_longOp, privs_putX, acquireOf_ctxs, ← hu]
          exact lowers_placeCtx _ _ _ _ _
theorem levels_reapWait {t : State} (h : privs t.ctxs = privs s.ctxs) (c : Nat) : NoRise (privs s.ctxs) (reapWait t c) :=
  ends_next (by rw [post_ctxs, post_ctxs, privs_park, h])
/-- A context that has stopped is reaped once its buffer has drained. -/
theorem levels_reapDrained {t : State} (h : privs t.ctxs = privs s.ctxs) (c : Nat) (d : XR) (v : Word) : NoRise (privs s.ctxs)
    (match t.drainAll c with
     | none => reapWait t c
     | some u => retireLong s ((u.reaped c).putX d v)) := by
  split
  · exact levels_reapWait s h c
  · rename_i u hu
    exact ends_retireLong (by rw [privs_putX, privs_reaped, privs_drainAll hu, h])
/-- A context that is to be reaped goes on until it has stopped. -/
theorem levels_reapStopped {t : State} (h : privs t.ctxs = privs s.ctxs) (c : Nat) (d : XR) (v : Word) : NoRise (privs s.ctxs)
    (if (t.ctx c).why = some .frozen then
       match t.drainAll c with
       | none => reapWait t c
       | some u => retireLong s ((u.reaped c).putX d v)
     else reapWait t c) := by
  split
  · exact levels_reapDrained s h c d v
  · exact levels_reapWait s h c
theorem levels_reap (n : Fin 16) (d : XR) : NoRise (privs s.ctxs) (execReap n d s) := by
  refine ends_needMiller ?_
  split
  · exact ends_retireLong (privs_putX s d 0)
  · exact levels_reapDrained s rfl _ d _
  · refine levels_reapStopped s ?_ _ d _
    have h0 : privs (s.mapCtx (16 * s.myCore + n.val) fun x => { x with reaping := true }).ctxs = privs s.ctxs :=
      privs_mapCtx s _ (by intro _; rfl)
    split
    · rw [privs_freezeCtx, privs_withdraw, h0]
    · rw [privs_stopCtx, h0]

/-! ## System registers -/

theorem levels_mfs (d : XR) (n : BitVec 12) : NoRise (privs s.ctxs) (execMfs d n s) :=
  ends_regCheck _ _ (ends_retire (privs_putX s d _))
theorem levels_writeReg (n : Nat) (a : XS) (rsv : Word) {k : Word → Out} (h : ∀ v, NoRise (privs s.ctxs) (k v)) :
    NoRise (privs s.ctxs) (writeReg s n a rsv k) := by
  refine ends_regCheck _ _ ?_
  split
  · exact h _
  · exact ends_trap _ _
theorem levels_writeCtx (n : Nat) (a : XS) (rsv : Word) {f : Ctx → Word → Ctx} (h : ∀ c v, (f c v).priv = c.priv) :
    NoRise (privs s.ctxs) (writeCtx s n a rsv f) :=
  levels_writeReg s n a rsv fun v => ends_retire (privs_mapMe s fun c => h c v)
theorem setFctx_priv (c : Ctx) (v : Word) : (c.setFctx v).priv = c.priv := by unfold Ctx.setFctx; split <;> rfl
theorem setScptr_priv (c : Ctx) (v : Word) : (c.setScptr v).priv = c.priv := by unfold Ctx.setScptr; split <;> rfl
theorem levels_mtsFctx (a : XS) : NoRise (privs s.ctxs) (execMtsFctx a s) := levels_writeCtx s _ a _ setFctx_priv
theorem levels_mtsEbcmin (a : XS) : NoRise (privs s.ctxs) (execMtsEbcmin a s) := levels_writeCtx s _ a _ fun c _ => setFctx_priv c _
theorem levels_mtsScptr (a : XS) : NoRise (privs s.ctxs) (execMtsScptr a s) := levels_writeCtx s _ a _ setScptr_priv
theorem levels_mtsFstat (a : XS) : NoRise (privs s.ctxs) (execMtsFstat a s) := levels_writeCtx s _ a _ fun _ _ => rfl
theorem levels_mtsAsid (a : XS) : NoRise (privs s.ctxs) (execMtsAsid a s) := levels_writeCtx s _ a _ fun _ _ => rfl
/-- PRIV is written at the sys level alone (R42, R56). -/
theorem levels_mtsPriv (a : XS) (h : s.me.sys = false) : NoRise (privs s.ctxs) (execMtsPriv a s) := by
  have hp : regRights 0x100 = some (.any, .sys) := by decide
  unfold execMtsPriv writeCtx writeReg
  dsimp only
  rw [regCheck_sys hp rfl, h]
  exact ends_trap _ _
theorem levels_mtsEpc (a : XS) : NoRise (privs s.ctxs) (execMtsEpc a s) :=
  levels_writeReg s _ a _ fun v => ends_needHead v (ends_retire (privs_mapMe s (by intro _; rfl)))
theorem levels_mtsTvec (a : XS) : NoRise (privs s.ctxs) (execMtsTvec a s) :=
  levels_writeReg s _ a _ fun v => ends_needHead v (ends_retire (privs_mapMe s (by intro _; rfl)))
theorem levels_writeDeque (n : Nat) (a : XS) (rsv : Word) (ok : Core → Word → Bool) (f : Core → Word → Core) :
    NoRise (privs s.ctxs) (writeDeque s n a rsv ok f) := by
  unfold writeDeque
  refine levels_writeReg s n a rsv fun v => ?_
  split
  · exact ends_retire (by rw [privs_wakeDeque, refillDue_ctxs, mapCore_ctxs])
  · exact ends_trap _ _
theorem levels_mtsSgmask (n : Fin 4) (a : XS) : NoRise (privs s.ctxs) (execMtsSgmask n a s) :=
  levels_writeReg s _ a _ fun v => ends_retire (by rw [maskWritten_ctxs, mapCore_ctxs])
theorem levels_mts (a : XS) (n : BitVec 12) : NoRise (privs s.ctxs) (execMts a n s) := by
  unfold execMts
  split
  · exact levels_writeCtx s _ a _ fun _ _ => rfl
  · split
    · exact levels_writeCtx s _ a _ fun _ _ => rfl
    · split
      · exact ends_regCheck _ _ (ends_retire rfl)
      · exact ends_trapHead _
end
end Sys2Proof.Machine
end

section
/-! CERTIFICATE. A privilege level rises by a trap only: O10. -/
namespace Sys2Proof.Machine

/-- No head that issues at the app level and does not trap raises a level (R57). -/
theorem noRise_exec {s : State} (i : Instr) (hi : (encodeFields i).isSome = true) (h : s.me.sys = false) :
    NoRise (privs s.ctxs) (exec i s) := by
  cases i with
  -- control
  | nop => exact ends_retire rfl
  | yield => exact levels_yield s
  | halt => exact levels_halt s
  | brk | trap => exact ends_trapTo _ _ _
  | j => exact ends_transfer rfl _
  | jal d | jalr d => exact ends_transfer (privs_putX s d _) _
  | beq | bne | blt | bge | bltn | bgen | bkany | bkall | bknone => exact ends_branch rfl _ _
  | dbnz a => exact ends_branch (privs_putX s a _) _ _
  -- integer and scalar floating forms
  | add | sub | and | or | xor | andn | sll | srl | sra | ror | slt | sltn | min | max | minn | maxn | mul | mulh | mulhn | addi | andi |
    ori | xori | slli | srli | srai | slti | sltni | li | lih | clz | ctz | popc | brev | addpc => exact levels_intOut s _ _
  | div | divn | rem | remn => exact levels_divOut s _ _
  | faddF32 | fsubF32 | fmulF32 | ffmaF32 | faddF64 | fsubF64 | fmulF64 | ffmaF64 => exact levels_fpOut s _ _
  | fdivF32 | fsqrtF32 | fdivF64 | fsqrtF64 => exact levels_fpLong s _ _ _
  | fminF32 | fmaxF32 | fminF64 | fmaxF64 => exact levels_fpPlain s _ _
  | feqF32 | fltF32 | fleF32 | feqF64 | fltF64 | fleF64 => exact levels_fpBool s _ _
  -- vector and mask forms
  | vadd | vsub | vmul | vmulh | vand | vor | vxor | vandn | vsll | vsrl | vsra | vmin | vmax | vadds | vsubs | vabs | vneg | vaddi |
    vandi | vori | vslli | vsrli | vsrai | vsplat | vsplati | vfmin | vfmax | vfabs | vfneg | vperm | vslup | vsldn | vzip | vunzip |
    vpack | vunpk | frsqa | frcpa => exact levels_putLanes s _ _ _ _
  | vcmpeq | vcmplt | vcmple | vfcmpeq | vfcmplt | vfcmple => exact levels_putMask s _ _ _ _
  | vfadd | vfsub | vfmul | vfma | vfms | vfnma => exact levels_vf2 s _ _ _ _ _ _
  | vfdiv | vfsqrt => exact levels_vfLong s _ _ _ _ _
  | vsel | vli16 | vli32 | vli64 | vxlr | vcompr | vexpnd | vins => exact levels_putV s _ _
  | kand | kor | kxor | kandn | knot | kmovx => exact levels_putK s _ _
  | ktox | kpopc | kfirst | vextr | dqlen => exact levels_intOut s _ _
  | vredAdd t d b m => exact levels_vred s .add t d b m
  | vredMin t d b m => exact levels_vred s .min t d b m
  | vredMax t d b m => exact levels_vred s .max t d b m
  | vredAnd t d b m => exact levels_vred s .and t d b m
  | vredOr t d b m => exact levels_vred s .or t d b m
  | vscanAdd t d b m => exact levels_vscan s .add t d b m
  | vscanMin t d b m => exact levels_vscan s .min t d b m
  | vscanMax t d b m => exact levels_vscan s .max t d b m
  | vcvt => exact levels_vcvt s _ _ _ _ _ _
  | fcvt => exact levels_fcvt s _ _ _ _
  | vqnt | vrsc => exact levels_block s _ _ _ _
  | vdqnt | vphcv => exact levels_group s _ _ _ _ _
  | vemax => exact levels_vemax s _ _ _ _ _
  -- loads and stores, full/empty forms, atomics, cells and fences
  | ldS8 | ldN8 | ldS16 | ldN16 | ldS32 | ldN32 | ld64 | ldxS8 | ldxN8 | ldxS16 | ldxN16 | ldxS32 | ldxN32 | ldx64 =>
    exact levels_load s _ _ _ _
  | st8 | st16 | st32 | st64 | stx8 | stx16 | stx32 | stx64 => exact levels_store s _ _ _
  | vld | vlds | vldg => exact levels_vload s _ _ _ _ _ _
  | vst | vsts | vstg => exact levels_vstore s _ _ _ _ _
  | ldp => exact levels_ldp s _ _ _
  | prefL1 => exact levels_prefL1 s _ _
  | prefSl => exact levels_prefSl s _ _
  | cclean => exact levels_cclean s _ _
  | cflush => exact levels_cflush s _ _
  | iflush => exact levels_iflush s _ _
  | ldFe | ldFc | stEf | stF => exact levels_fullEmpty s _ _ _ _
  | amoAdd | amoAnd | amoOr | amoXor | amoMin | amoMax | amoMinn | amoMaxn | amoSwap | amoCas | redAdd | redAnd | redOr | redXor | redMin |
    redMax | redMinn | redMaxn => exact levels_atomic s _ _ _ _ _ _ _ _
  | cadd | cclr | cstat => exact levels_cellForm s _ _ _
  | caddv => exact levels_caddv s _ _ _ _ _
  | cld => exact levels_cld s _ _ _
  | fenceAcq => exact levels_fenceAcq s _
  | fenceRel => exact levels_fenceRel s _
  | fenceAr => exact levels_fenceAr s _
  | fenceSc => exact levels_fenceSc s _
  | fflag => exact levels_fflag s _ _ _
  -- sluices, sleeping and messages
  | arv | arvRlx | arvd => exact levels_arrive s _ _ _ _
  | bwt => exact levels_bwt s _ _
  | btest => exact levels_btest s _ _
  | waitv => exact levels_waitv s _ _ _ _ _ _ _
  | ntf1 | ntfa => exact levels_notify s _ _ _ _
  | send => exact levels_send s _ _ _ _ _
  | recv => exact levels_recv s _ _ _ _
  | recvt => exact levels_recvt s _ _ _ _
  -- tasks, engines and optical forms
  | spawn => exact levels_spawn s _ _ _
  | joina => exact levels_joina s _ _ _
  | tdone => exact levels_tdone s _
  | sync => exact levels_sync s _ _
  | take => exact levels_take s _
  | steal => exact levels_steal s _ _
  | slice => exact levels_slice s _ _ _
  | cpy | cpyt | gath | scat | mcst | hdsub | tlret => exact levels_engine s _ _ _ _ _ _
  | rdct => exact levels_rdct s _ _ _ _ _ _
  | hdend => exact levels_hdend s _ _
  | await => exact levels_await s _ _
  | phld d b => exact levels_optical s .phld .mark .ph16 d b (.x 0) (.x 0)
  | phsw d => exact levels_optical s .phsw .mark .ph16 d (.x 0) (.x 0) (.x 0)
  | prbe d => exact levels_optical s .prbe .mark .ph16 d (.x 0) (.x 0) (.x 0)
  | phcrc f d => exact levels_optical s (.phcrc f) .mark .ph16 d (.x 0) (.x 0) (.x 0)
  | phwr => exact ends_needRmode (levels_optical s _ _ _ _ _ _ _)
  | omx | omxa | omxw => exact levels_passForm s _ _ _ _ _ _ _
  -- system forms and system registers
  | launch => exact levels_launch s _ _
  | start => exact levels_start s _ _ _ h
  | reap => exact levels_reap s _ _
  | cldx | eret | migr | ctxsv | ctxld | prmt | rsme | errinj => exact ends_needSys h
  | mfs => exact levels_mfs s _ _
  | mts => exact levels_mts s _ _
  | mtsFctx => exact levels_mtsFctx s _
  | mtsEbcmin => exact levels_mtsEbcmin s _
  | mtsScptr => exact levels_mtsScptr s _
  | mtsFstat => exact levels_mtsFstat s _
  | mtsAsid => exact levels_mtsAsid s _
  | mtsPriv => exact levels_mtsPriv s _ h
  | mtsEpc => exact levels_mtsEpc s _
  | mtsTvec => exact levels_mtsTvec s _
  | mtsDqbase => rw [exec_mtsDqbase]; exact levels_writeDeque s _ _ _ _ _
  | mtsDqtop => rw [exec_mtsDqtop]; exact levels_writeDeque s _ _ _ _ _
  | mtsDqbot => rw [exec_mtsDqbot]; exact levels_writeDeque s _ _ _ _ _
  | mtsDqspill => rw [exec_mtsDqspill]; exact levels_writeDeque s _ _ _ _ _
  | mtsSgmask => exact levels_mtsSgmask s _ _
  -- an event is no head
  | _ => exact absurd hi Bool.false_ne_true

/-- Settles O10: by cases on the head, each of which keeps every level, traps at the app level, or places a context no higher than its
miller. -/
theorem levelRisesByTrapsOnly : Obligations.LevelRisesByTrapsOnly := by
  unfold Obligations.LevelRisesByTrapsOnly
  intro s t i c hi hs ht hm hc
  exact noRise_exec i hi hs t ht hm c hc

end Sys2Proof.Machine
end

section
/-! CERTIFICATE. A code address of head index 0 is refused: O44. -/
namespace Sys2Proof.Machine

/-- With a head index of 0 a code address is refused (R59). -/
theorem needHead_zero (s : State) {v : Word} (h : v.toNat / 2 % 32 = 0) (k : Out) : needHead s v k = .next (s.trap 0x03 v) := if_pos h
/-- An MTS at the sys level of a code address of head index 0 raises the reserved-field trap, by that or by a reserved bit (R59). -/
theorem writeReg_headZero {s : State} (hs : s.me.sys = true) {a : XS} (h : (s.me.getS a).toNat / 2 % 32 = 0) {num : Nat} {r : Right}
    (hr : regRights num = some (r, .sys)) (rsv : Word) (k : Word → Out) :
    writeReg s num a rsv (fun v => needHead s v (k v)) = .next (s.trap 0x03 (s.me.getS a)) := by
  unfold writeReg
  rw [regCheck_sys hr rfl, if_pos hs]
  split
  · exact needHead_zero s h _
  · rfl

/-- Settles O44: either the head index or a reserved bit refuses the address, with the same trap. -/
theorem headIndexZeroIsReserved : Obligations.HeadIndexZeroIsReserved := by
  unfold Obligations.HeadIndexZeroIsReserved
  exact fun s a hs h => ⟨writeReg_headZero hs h (num := 0x101) rfl rsvEpc fun _ => retire s _,
    writeReg_headZero hs h (num := 0x104) rfl rsvTvec fun _ => retire s _⟩

end Sys2Proof.Machine
end

section
/-! SUPPORT. Stores of any data and the words whose poison they change (R470), and the addresses of the own window (R253, R254, R298). -/
namespace Sys2Proof.Machine

/-! ## A store's bytes and full bits -/

/-- Byte i of a value that has been written. -/
theorem byte_wrN (s : State) (a n v i : Nat) (h : s.form) (hi : i < n) : (s.wrN a n v).byte (a + i) = BitVec.ofNat 8 (v / 256 ^ i) := by
  induction n generalizing s a v i with
  | zero => omega
  | succ n ih =>
    have e : s.wrN a (n + 1) v = (s.putByte a (BitVec.ofNat 8 v)).wrN (a + 1) n (v / 256) := rfl
    have hf := form_putByte s a (BitVec.ofNat 8 v) h
    rw [e]
    cases i with
    | zero =>
      rw [byte_wrN_out _ _ _ _ _ hf (.inl (by omega)), pow_zero, Nat.div_one]
      exact mget_mput_same s.mem a _ h.1
    | succ i => rw [show a + (i + 1) = a + 1 + i by omega, ih _ _ _ _ hf (by omega), Nat.div_div_eq_div_mul, Nat.pow_succ']
/-- The bytes that a store leaves are those of a write of its value. -/
theorem byte_store (s : State) (a n v : Nat) (bad : Bool) (x : Nat) : (s.store a n v bad).byte x = (s.wrN a n v).byte x := by
  cases bad <;> rfl
theorem isFull_store (s : State) (a n v : Nat) (bad : Bool) (w : Nat) : (s.store a n v bad).isFull w = s.isFull w := by
  cases bad <;> rfl

/-! ## A store's poison -/

/-- The words that n bytes at a touch, by their numbers. -/
theorem mem_wordsOf_iff (a n w : Nat) : w ∈ wordsOf a n ↔ w % 8 = 0 ∧ a / 8 ≤ w / 8 ∧ w / 8 < a / 8 + (a % 8 + n + 7) / 8 := by
  simp only [wordsOf, List.mem_map, List.mem_range, divUp, wordOf]
  constructor
  · rintro ⟨k, hk, rfl⟩; omega
  · rintro ⟨h0, h1, h2⟩; exact ⟨w / 8 - a / 8, by omega, by omega⟩
/-- The words that a store clears of poison. -/
theorem mem_uncover (a n j : Nat) (ws l : List Nat) :
    j ∈ ws.foldl (fun p w => if covers a n w then kdel p w else p) l ↔ j ∈ l ∧ ¬ (j ∈ ws ∧ covers a n j = true) := by
  induction ws generalizing l with
  | nil => simp
  | cons w ws ih =>
    rw [List.foldl_cons, ih]
    by_cases hc : covers a n w = true
    · rw [if_pos hc, mem_kdel]
      by_cases hj : j = w
      · subst hj; simp [hc]
      · simp [hj]
    · rw [if_neg hc]
      by_cases hj : j = w
      · subst hj; simp [hc]
      · simp [hj]
/-- The words that a store poisons. -/
theorem mem_kputs (j : Nat) (ws l : List Nat) : j ∈ ws.foldl kput l ↔ j ∈ ws ∨ j ∈ l := by
  induction ws generalizing l with
  | nil => simp
  | cons w ws ih => rw [List.foldl_cons, ih, mem_kput, List.mem_cons]; tauto
/-- The poison of a word after a store: that of the data in a word it touches, none in a word it covers, else as before (R470). -/
theorem isBad_store (s : State) (a n v : Nat) (bad : Bool) (b : Nat) : (s.store a n v bad).isBad b = true ↔
    bad = true ∧ wordOf b ∈ wordsOf a n ∨ s.isBad b = true ∧ ¬ (wordOf b ∈ wordsOf a n ∧ covers a n (wordOf b) = true) := by
  unfold State.isBad
  rw [List.contains_iff_mem, List.contains_iff_mem]
  cases bad with
  | false => exact (mem_uncover a n (wordOf b) (wordsOf a n) s.poison).trans (by simp)
  | true => exact (mem_kputs (wordOf b) (wordsOf a n) _).trans ((or_congr_right (mem_uncover ..)).trans (by simp))
theorem isBad_store_out (s : State) (a n v : Nat) (bad : Bool) (b : Nat) (hb : b / 8 < a / 8 ∨ (a + n - 1) / 8 < b / 8) :
    (s.store a n v bad).isBad b = s.isBad b := by
  have hw : wordOf b ∉ wordsOf a n := by rw [mem_wordsOf_iff, wordOf]; omega
  rw [Bool.eq_iff_iff, isBad_store]
  simp [hw]
theorem isBad_store_bad (s : State) (a n v b : Nat) (h1 : a ≤ b) (h2 : b < a + n) : (s.store a n v true).isBad b = true :=
  (isBad_store s a n v true b).mpr (.inl ⟨rfl, by rw [mem_wordsOf_iff, wordOf]; omega⟩)
theorem isBad_store_covered (s : State) (a n v w : Nat) (hw : w % 8 = 0) (h1 : a ≤ w) (h2 : w + 8 ≤ a + n) :
    (s.store a n v false).isBad w = false := by
  have he : wordOf w = w := by rw [wordOf]; omega
  have hin : w ∈ wordsOf a n := by rw [mem_wordsOf_iff]; omega
  rw [Bool.eq_false_iff, Ne, isBad_store, he]
  simp [hin, covers, h1, h2]

/-! ## The own window (R253, R254) -/

theorem inWindow_own (o : Nat) (h : o < 2 ^ 25) : inWindow (0x00F0000002000000 + o) = true := by
  unfold inWindow
  rw [beq_iff_eq]
  omega
/-- The lowest 26 bits of an address of the own window. -/
theorem bits_own (o : Nat) (h : o < 2 ^ 25) : bits (0x00F0000002000000 + o) 25 25 = 1 ∧ bits (0x00F0000002000000 + o) 24 19 = o / 2 ^ 19 ∧
    bits (0x00F0000002000000 + o) 18 0 = o % 2 ^ 19 := by
  unfold bits
  omega
theorem badWindow_own (o : Nat) (h : o < 2 ^ 25) : badWindow (0x00F0000002000000 + o) = decide (2 ^ 19 ≤ o) := by
  obtain ⟨hs, hc, -⟩ := bits_own o h
  rw [badWindow, hs, hc, Bool.eq_iff_iff]
  simp only [beq_self_eq_true, Bool.true_and, bne_iff_ne, ne_eq, decide_eq_true_eq]
  omega
/-- An access that stays in the window is checked by its own window rules. -/
theorem resolveMe_window (s : State) (acc : Acc) (o n : Nat) (hn : 0 < n) (h : o + n ≤ 2 ^ 25) :
    s.resolveMe acc (0x00F0000002000000 + o) n = s.windowAt (s.asker s.cur) acc (0x00F0000002000000 + o) n := by
  have hl : (0x00F0000002000000 + o + n - 1) % 2 ^ 64 = 0x00F0000002000000 + (o + n - 1) := by omega
  unfold State.resolveMe State.resolve
  dsimp only
  rw [hl, inWindow_own o (by omega), inWindow_own (o + n - 1) (by omega)]
  rfl
theorem resolveMe_own (s : State) (acc : Acc) (o n : Nat) (hn : 0 < n) (h : o + n ≤ 2 ^ 19) :
    s.resolveMe acc (0x00F0000002000000 + o) n =
      .ok [⟨0x00F0000002000000 + o, 2 ^ 52 + 2 ^ 19 * (s.cur / 16) + o, n, false, none⟩] := by
  obtain ⟨hs, -, ho⟩ := bits_own o (by omega)
  have hw : ∀ k, windowCore k (0x00F0000002000000 + o) = k := fun k => if_pos hs
  have hmod : o % 2 ^ 19 = o := Nat.mod_eq_of_lt (by omega)
  rw [resolveMe_window s acc o n hn (by omega), State.windowAt, badWindow_own o (by omega), ho, hmod, if_neg (by simp; omega)]
  dsimp only
  rw [if_pos (hw _), windowKey, hw, ho, hmod]
  rfl
/-- Past the scratchpad's end there is nothing. -/
theorem resolveMe_pastEnd (s : State) (acc : Acc) (o n : Nat) (hn : 0 < n) (h : o + n ≤ 2 ^ 25) (hp : 2 ^ 19 < o + n) :
    s.resolveMe acc (0x00F0000002000000 + o) n = .trap 1 0x11 (0x00F0000002000000 + o) := by
  obtain ⟨-, -, ho⟩ := bits_own o (by omega)
  rw [resolveMe_window s acc o n hn h, State.windowAt, badWindow_own o (by omega), ho, if_pos]
  simp only [Bool.or_eq_true, decide_eq_true_eq]
  omega
/-- An access that crosses into the window from below (R298). -/
theorem resolveMe_crossing (s : State) (acc : Acc) (va n : Nat) (hn : n ≤ 64) (h1 : 0x00F0000000000000 - n < va)
    (h2 : va < 0x00F0000000000000) : s.resolveMe acc va n = .trap 1 0x11 va := by
  have ho : inWindow va = false := by
    unfold inWindow; rw [beq_eq_false_iff_ne]; omega
  have hi : inWindow ((va + n - 1) % 2 ^ 64) = true := by
    unfold inWindow; rw [beq_iff_eq]; omega
  unfold State.resolveMe State.resolve
  simp only [ho, hi, Bool.false_and, Bool.or_true, if_true, Bool.false_eq_true, if_false]

/-! ## Addresses past the range (R298) -/

theorem pieceAt_range (s : State) (q : Asker) (fail : Option WalkFail) (acc : Acc) {va : Nat} (n : Nat) (h : 2 ^ 56 ≤ va) :
    s.pieceAt q fail acc va n = .trap 4 0x14 va := by
  unfold State.pieceAt State.translate
  rw [if_pos h]
theorem inWindow_range {va : Nat} (h : 2 ^ 56 ≤ va) : inWindow va = false := by
  unfold inWindow; rw [beq_eq_false_iff_ne]; omega
theorem resolveMe_range (s : State) (acc : Acc) (va n : Nat) (hn : 0 < n) (h1 : 2 ^ 56 ≤ va) (h2 : va + n ≤ 2 ^ 64) :
    s.resolveMe acc va n = .trap 4 0x14 va := by
  have hv : va % 2 ^ 64 = va := Nat.mod_eq_of_lt (by omega)
  have hl : (va + n - 1) % 2 ^ 64 = va + n - 1 := Nat.mod_eq_of_lt (by omega)
  unfold State.resolveMe State.resolve spans
  dsimp only
  rw [hl, inWindow_range h1, inWindow_range (by omega : 2 ^ 56 ≤ va + n - 1), hv, if_neg (by decide), if_neg (by decide)]
  split
  · rw [List.foldl_cons, List.foldl_nil, pieceAt_range s _ _ acc n h1]
    rfl
  · have hr : (va + (64 - va % 64)) % 2 ^ 64 = va + (64 - va % 64) := Nat.mod_eq_of_lt (by omega)
    rw [hr, List.foldl_cons, List.foldl_cons, List.foldl_nil, pieceAt_range s _ _ acc _ h1,
      pieceAt_range s _ _ acc _ (by omega : 2 ^ 56 ≤ va + (64 - va % 64))]
    rfl

end Sys2Proof.Machine
end

section
/-! CERTIFICATE. Registers and memory read what was written, and the window addresses: O22. -/
namespace Sys2Proof.Machine

/-- Settles O22: by the laws of a register write, of a store, and of the checks of an access. -/
theorem registersAndMemoryRead : Obligations.RegistersAndMemoryRead := by
  unfold Obligations.RegistersAndMemoryRead
  refine ⟨fun c a b p q m n x y z => ?registers, fun s a n v bad h => ?memory, fun s acc o n va hn hm => ?window⟩
  case registers =>
    refine ⟨getX_zero c, getV_vz c, getK_zero c, by rw [setX_zero], by rw [setV_vz], by rw [setK_zero], fun h => ?_, fun h => ?_,
      fun h => ?_, fun h => ?_, fun h => ?_, fun h => ?_⟩
    · rw [getX_setX, if_pos ⟨rfl, h⟩]
    · rw [getX_setX, if_neg fun e => h e.1.symm]
    · rw [getV_setV, if_pos ⟨rfl, h⟩]
    · rw [getV_setV, if_neg fun e => h e.1.symm]
    · rw [getK_setK, if_pos ⟨rfl, h⟩]
    · rw [getK_setK, if_neg fun e => h e.1.symm]
  case memory =>
    refine ⟨?_, fun i hi => (byte_store ..).trans (byte_wrN s a n v i h hi),
      fun b hb => (byte_store ..).trans (byte_wrN_out s a n v b h hb), isFull_store s a n v bad, isBad_store_out s a n v bad,
      fun b _ h1 h2 e => ?_, fun w hw h1 h2 e => ?_, form_store s a n v bad h⟩
    · exact (rdN_congr (s.wrN a n v) _ a n fun x _ _ => byte_store s a n v bad x).trans (rdN_wrN s a n v h)
    · rw [e]; exact isBad_store_bad s a n v b h1 h2
    · rw [e]; exact isBad_store_covered s a n v w hw h1 h2
  case window =>
    exact ⟨resolveMe_own s acc o n hn, fun _ hp => resolveMe_pastEnd s acc o n hn (by omega) hp,
      fun hp h => resolveMe_pastEnd s acc o n hn h (by omega), resolveMe_crossing s acc va n hm, resolveMe_range s acc va n hn⟩

end Sys2Proof.Machine
end

section
/-! SUPPORT. The heads whose whole effect is on registers of their own context: what each names as its destination, and that nothing else
changes (R39 to R41, R83, R142). -/
namespace Sys2Proof.Machine

/-! ## Destinations -/

/-- What a head of a register form writes: x, v and k registers, whether it may raise flags, and whether it may leave the sequence. -/
structure Dests where
  xs : List XR := []
  vs : List VR := []
  ks : List KR := []
  flags : Bool := false
  jumps : Bool := false
/-- The destinations of the register forms; none of any other instruction. -/
def destsOf : Instr → Option Dests
  | .add d _ _ | .sub d _ _ | .and d _ _ | .or d _ _ | .xor d _ _ | .andn d _ _ | .sll d _ _ | .srl d _ _ | .sra d _ _ | .ror d _ _ |
    .slt d _ _ | .sltn d _ _ | .min d _ _ | .max d _ _ | .minn d _ _ | .maxn d _ _ | .addi d _ _ | .andi d _ _ | .ori d _ _ |
    .xori d _ _ | .slli d _ _ | .srli d _ _ | .srai d _ _ | .slti d _ _ | .sltni d _ _ | .li d _ | .lih d _ | .mul d _ _ |
    .mulh d _ _ | .mulhn d _ _ | .div d _ _ | .divn d _ _ | .rem d _ _ | .remn d _ _ | .clz d _ | .ctz d _ | .popc d _ | .brev d _ |
    .addpc d _ | .ktox d _ | .kpopc d _ | .kfirst d _ | .vextr _ d _ _ => some { xs := [d] }
  | .j _ | .beq _ _ _ | .bne _ _ _ | .blt _ _ _ | .bge _ _ _ | .bltn _ _ _ | .bgen _ _ _ | .bkany _ _ _ | .bkall _ _ _ |
    .bknone _ _ _ => some { jumps := true }
  | .nop => some {}
  | .jal d _ | .jalr d _ | .dbnz d _ => some { xs := [d], jumps := true }
  | .faddF32 d _ _ | .fsubF32 d _ _ | .fmulF32 d _ _ | .fdivF32 d _ _ | .fsqrtF32 d _ | .ffmaF32 d _ _ | .fminF32 d _ _ |
    .fmaxF32 d _ _ | .feqF32 d _ _ | .fltF32 d _ _ | .fleF32 d _ _ | .faddF64 d _ _ | .fsubF64 d _ _ | .fmulF64 d _ _ |
    .fdivF64 d _ _ | .fsqrtF64 d _ | .ffmaF64 d _ _ | .fminF64 d _ _ | .fmaxF64 d _ _ | .feqF64 d _ _ | .fltF64 d _ _ |
    .fleF64 d _ _ | .vredAdd _ d _ _ | .vredMin _ d _ _ | .vredMax _ d _ _ | .vredAnd _ d _ _ | .vredOr _ d _ _ | .fcvt _ _ d _ |
    .vemax _ _ d _ _ => some { xs := [d], flags := true }
  | .vadd _ d _ _ _ | .vsub _ d _ _ _ | .vmul _ d _ _ _ | .vmulh _ d _ _ _ | .vand _ d _ _ _ | .vor _ d _ _ _ | .vxor _ d _ _ _ |
    .vandn _ d _ _ _ | .vsll _ d _ _ _ | .vsrl _ d _ _ _ | .vsra _ d _ _ _ | .vmin _ d _ _ _ | .vmax _ d _ _ _ | .vadds _ d _ _ _ |
    .vsubs _ d _ _ _ | .vabs _ d _ _ | .vneg _ d _ _ | .vsplat _ d _ _ | .vsplati _ d _ _ | .vaddi _ d _ _ _ | .vandi _ d _ _ _ |
    .vori _ d _ _ _ | .vslli _ d _ _ _ | .vsrli _ d _ _ _ | .vsrai _ d _ _ _ | .vfadd _ d _ _ _ | .vfsub _ d _ _ _ |
    .vfmul _ d _ _ _ | .vfma _ d _ _ _ | .vfms _ d _ _ _ | .vfnma _ d _ _ _ | .vfdiv _ d _ _ _ | .vfsqrt _ d _ _ | .vfmin _ d _ _ _ |
    .vfmax _ d _ _ _ | .vfabs _ d _ _ | .vfneg _ d _ _ | .frsqa _ d _ _ | .frcpa _ d _ _ | .vperm _ d _ _ _ _ | .vslup _ d _ _ _ |
    .vsldn _ d _ _ _ | .vzip _ d _ _ _ | .vunzip _ d _ _ _ | .vscanAdd _ d _ _ | .vscanMin _ d _ _ | .vscanMax _ d _ _ |
    .vcvt _ _ d _ _ _ | .vqnt _ _ d _ _ _ | .vrsc _ d _ _ _ _ | .vpack _ _ d _ _ _ | .vunpk _ _ d _ _ _ =>
    some { vs := [d], flags := true }
  | .vsel _ d _ _ _ | .vli16 d _ | .vli32 d _ | .vli64 d _ | .vxlr _ d _ _ _ | .vcompr _ d _ _ | .vexpnd _ d _ _ | .vins _ d _ _ =>
    some { vs := [d] }
  | .vdqnt _ t d _ _ _ => some { vs := groupRegs d (t.width / 8), flags := true }
  | .vphcv t d _ _ _ => some { vs := groupRegs d (t.width / 16), flags := true }
  | .vcmpeq _ d _ _ _ | .vcmplt _ d _ _ _ | .vcmple _ d _ _ _ | .vfcmpeq _ d _ _ _ | .vfcmplt _ d _ _ _ | .vfcmple _ d _ _ _ =>
    some { ks := [d], flags := true }
  | .kand d _ _ | .kor d _ _ | .kxor d _ _ | .kandn d _ _ | .knot d _ | .kmovx d _ => some { ks := [d] }
  | _ => none

/-! ## What register writes leave of a context -/

/-- A context's registers outside the destinations are left alone. -/
structure RegsOnly (D : Dests) (a b : Ctx) : Prop where
  system : KeepsSystem a b
  x : KeepsX a b D.xs
  v : KeepsV a b D.vs
  k : KeepsK a b D.ks
  raises : b.fstat &&& a.fstat = a.fstat
  quiet : D.flags = false → b.fstat = a.fstat

theorem KeepsSystem.trans {a b c : Ctx} (h : KeepsSystem a b) (g : KeepsSystem b c) : KeepsSystem a c :=
  Eq.trans g (congrArg (fun y : Ctx => { y with
    x := c.x, v := c.v, k := c.k, bad := c.bad, fstat := c.fstat, pc := c.pc, line := c.line, eligFrom := c.eligFrom, why := c.why,
    held := c.held, sent := c.sent, recBad := c.recBad, late := c.late, fill := c.fill }) h)
theorem KeepsSystem.refl (a : Ctx) : KeepsSystem a a := rfl
theorem KeepsSystem.setX (a : Ctx) (d : XR) (v : Word) : KeepsSystem a (a.setX d v) := by
  unfold Ctx.setX; split <;> rfl
theorem KeepsSystem.setV (a : Ctx) (d : VR) (v : VWord) : KeepsSystem a (a.setV d v) := by cases d <;> rfl
theorem KeepsSystem.setK (a : Ctx) (d : KR) (v : KWord) : KeepsSystem a (a.setK d v) := by
  unfold Ctx.setK; split <;> rfl
theorem KeepsV.of_eq {a b : Ctx} (h : b.v = a.v) (l : List VR) : KeepsV a b l := fun n _ => by
  cases n with
  | vz => rfl
  | v n => exact congrArg (·[n]) h
theorem KeepsX.of_eq {a b : Ctx} (h : b.x = a.x) (l : List XR) : KeepsX a b l := fun n _ => by
  unfold Ctx.getX; rw [h]
theorem KeepsK.of_eq {a b : Ctx} (h : b.k = a.k) (l : List KR) : KeepsK a b l := fun n _ => by
  unfold Ctx.getK; rw [h]

namespace RegsOnly
variable {D : Dests} {a b : Ctx}

theorem of_quiet (hs : KeepsSystem a b) (hx : KeepsX a b D.xs) (hv : KeepsV a b D.vs) (hk : KeepsK a b D.ks) (hf : b.fstat = a.fstat) :
    RegsOnly D a b := ⟨hs, hx, hv, hk, by rw [hf, BitVec.and_self], fun _ => hf⟩
theorem refl (a : Ctx) : RegsOnly D a a :=
  .of_quiet (KeepsSystem.refl a) (.of_eq rfl _) (.of_eq rfl _) (.of_eq rfl _) rfl
theorem setX (a : Ctx) (d : XR) (v : Word) (f j : Bool) : RegsOnly { xs := [d], flags := f, jumps := j } a (a.setX d v) :=
  .of_quiet (.setX a d v) (.setX a d v) (.of_eq (setX_v a d v) _) (.of_eq (setX_k a d v) _) (setX_fstat a d v)
theorem setV (a : Ctx) (d : VR) (v : VWord) (f : Bool) : RegsOnly { vs := [d], flags := f } a (a.setV d v) :=
  .of_quiet (.setV a d v) (.of_eq (setV_x a d v) _) (.setV a d v) (.of_eq (setV_k a d v) _) (setV_fstat a d v)
theorem setK (a : Ctx) (d : KR) (v : KWord) (f : Bool) : RegsOnly { ks := [d], flags := f } a (a.setK d v) :=
  .of_quiet (.setK a d v) (.of_eq (setK_x a d v) _) (.of_eq (setK_v a d v) _) (.setK a d v) (setK_fstat a d v)
/-- A register of a group that lies in the file is one of the group's. -/
theorem mem_groupRegs {n : Fin 16} {g i : Nat} (hi : i < g) (h : n.val + i < 16) : VR.v ⟨n.val + i, h⟩ ∈ groupRegs (.v n) g :=
  List.mem_filterMap.mpr ⟨i, List.mem_range.mpr hi, dif_pos h⟩
theorem setGroup (a : Ctx) (d : VR) (g v : Nat) (f : Bool) : RegsOnly { vs := groupRegs d g, flags := f } a (a.setGroup d g v) := by
  cases d with
  | vz => exact refl a
  | v n =>
    refine List.foldlRecOn (motive := fun b : Ctx => RegsOnly { vs := groupRegs (.v n) g, flags := f } a b) (List.range g) _ (refl a)
      fun b hb i hi => ?_
    split
    · rename_i h
      obtain ⟨hs, hx, hv, hk, hr, hq⟩ := hb
      have hd := mem_groupRegs (List.mem_range.mp hi) h
      refine ⟨hs.trans (.setV b _ _), fun r hr => ?_, fun r hr => ?_, fun r hr => ?_, ?_, ?_⟩
      · exact (KeepsX.of_eq (setV_x b _ _) [] r List.not_mem_nil).trans (hx r hr)
      · have hne : r ≠ .v ⟨n.val + i, h⟩ := fun e => hr (e ▸ hd)
        exact (getV_setV ..).trans ((if_neg fun e => hne e.1).trans (hv r hr))
      · exact (KeepsK.of_eq (setV_k b _ _) [] r List.not_mem_nil).trans (hk r hr)
      · rwa [setV_fstat]
      · rwa [setV_fstat]
    · exact hb
/-- Flags are merged: a flag that is set stays set (R49). -/
theorem flag (h : RegsOnly D a b) (hD : D.flags = true) (w : Word) : RegsOnly D a (b.flag w) where
  system := h.system.trans rfl
  x := h.x
  v := h.v
  k := h.k
  raises := by
    show (b.fstat ||| w) &&& a.fstat = a.fstat
    refine BitVec.eq_of_getLsbD_eq fun i _ => ?_
    have hr := congrArg (·.getLsbD i) h.raises
    simp only [BitVec.getLsbD_and] at hr
    rw [BitVec.getLsbD_and, BitVec.getLsbD_or, Bool.and_or_distrib_right, hr]
    cases a.fstat.getLsbD i <;> simp
  quiet := fun e => absurd (hD.symm.trans e) (by decide)
/-- Where the pc, the line and the place in the rotation are has no part in it. -/
theorem moved (h : RegsOnly D a b) {c : Ctx} (hs : KeepsSystem b c) (hx : c.x = b.x) (hv : c.v = b.v) (hk : c.k = b.k)
    (hf : c.fstat = b.fstat) : RegsOnly D a c where
  system := h.system.trans hs
  x := fun n hn => (KeepsX.of_eq hx [] n List.not_mem_nil).trans (h.x n hn)
  v := fun n hn => (KeepsV.of_eq hv [] n List.not_mem_nil).trans (h.v n hn)
  k := fun n hn => (KeepsK.of_eq hk [] n List.not_mem_nil).trans (h.k n hn)
  raises := by rw [hf]; exact h.raises
  quiet := fun e => hf.trans (h.quiet e)
end RegsOnly

/-! ## What a register form leaves of the state -/

/-- t is s with nothing but the executing context changed. -/
def OnlyMe (s t : State) : Prop := t = { s with ctxs := t.ctxs } ∧ KeepsOthers s t
theorem OnlyMe.refl (s : State) : OnlyMe s s := ⟨rfl, .refl s⟩
/-- What does not look at contexts is as before. -/
theorem OnlyMe.view {s t : State} {β : Type} (h : OnlyMe s t) (v : State → β) (hv : ∀ (s : State) x, v { s with ctxs := x } = v s) :
    v t = v s := (congrArg v h.1).trans (hv s t.ctxs)
theorem OnlyMe.mapMe {s t : State} (h : OnlyMe s t) (f : Ctx → Ctx) : OnlyMe s (t.mapMe f) := by
  have hc := h.view State.cur fun _ _ => rfl
  obtain ⟨e, ho⟩ := h
  refine ⟨?_, fun c hne => (ctx_mapMe_ne t c f (hc ▸ hne)).trans (ho c hne)⟩
  show { t with ctxs := (t.mapMe f).ctxs } = { s with ctxs := (t.mapMe f).ctxs }
  exact congrArg (fun u : State => { u with ctxs := (t.mapMe f).ctxs }) e

/-- A register form has ended: its destinations are written, and control has moved on. -/
structure Framed (D : Dests) (s u : State) : Prop where
  memory : KeepsMemory s u
  module : KeepsModule s u
  agenda : u.agenda = s.agenda
  others : KeepsOthers s u
  regs : RegsOnly D s.me u.me
  pc : D.jumps = false → u.me.pc = BitVec.ofNat 64 s.nextPc
/-- A head's effect is on its destinations, unless it traps; and one that raises no flag and does not jump traps only where control
cannot step on. -/
def EndsFramed (D : Dests) (s : State) (o : Out) : Prop :=
  ∀ u, o = .next u → Framed D s u ∨ u.mark = .trapped ∧ (D.flags = false → D.jumps = false → s.stepsOn = false)

section
variable {D : Dests} {s t : State}

/-- The end of a head: its context and the mark. -/
theorem framed_of_onlyMe (ht : OnlyMe s t) (hr : RegsOnly D s.me t.me) (hp : D.jumps = false → t.me.pc = BitVec.ofNat 64 s.nextPc)
    (m : Mark) : Framed D s { t with mark := m } := by
  have ha : t.agenda = s.agenda := ht.view State.agenda fun _ _ => rfl
  refine ⟨.of_eq (ht.view State.mem fun _ _ => rfl) (ht.view State.empties fun _ _ => rfl) (ht.view State.poison fun _ _ => rfl), ?_, ha, ht.2, hr,
    hp⟩
  exact congrArg (fun u : State => { u with ctxs := t.ctxs, mark := m, agenda := t.agenda }) ht.1
theorem framed_stepped (ht : OnlyMe s t) (hr : RegsOnly D s.me t.me) : Framed D s (s.stepped t) := by
  have hm : (t.mapMe (·.stepTo s.nextPc)).me = t.me.stepTo s.nextPc := me_mapMe t (·.stepTo s.nextPc)
  exact framed_of_onlyMe (ht.mapMe (·.stepTo s.nextPc)) (by rw [hm]; exact hr.moved rfl rfl rfl rfl rfl) (fun _ => by rw [hm]; rfl) .done
theorem framed_jumped (ht : OnlyMe s t) (hr : RegsOnly D s.me t.me) (hj : D.jumps = true) (a : Nat) : Framed D s (t.jumped a) := by
  have hm : (t.mapMe (·.goto a)).me = t.me.goto a := me_mapMe t (·.goto a)
  exact framed_of_onlyMe (ht.mapMe (·.goto a)) (by rw [hm]; exact hr.moved rfl rfl rfl rfl rfl)
    (fun e => absurd (hj.symm.trans e) (by decide)) .done

theorem framed_retire (ht : OnlyMe s t) (hr : RegsOnly D s.me t.me) : EndsFramed D s (retire s t) := by
  intro u h
  obtain ⟨-, rfl⟩ | ⟨hs, rfl⟩ := retire_cases h
  · exact .inl (framed_stepped ht hr)
  · exact .inr ⟨rfl, fun _ _ => hs⟩
theorem framed_retireAfter (ht : OnlyMe s t) (hr : RegsOnly D s.me t.me) (l : Nat) : EndsFramed D s (retireAfter s t l) :=
  framed_retire (ht.mapMe _) (by rw [me_mapMe]; exact hr.moved rfl rfl rfl rfl rfl)
theorem framed_trap (hD : D.flags = true ∨ D.jumps = true) (c : Nat) (v : Word) : EndsFramed D s (.next (s.trap c v)) := by
  intro u h
  cases h
  refine .inr ⟨rfl, fun hf hj => ?_⟩
  rw [hf, hj] at hD
  exact absurd hD (by decide)
theorem framed_transfer (ht : OnlyMe s t) (hr : RegsOnly D s.me t.me) (hj : D.jumps = true) (a : Nat) :
    EndsFramed D s (transfer s t a) := by
  unfold transfer
  split
  · intro u h
    cases h
    exact .inl (framed_jumped ht hr hj a)
  · exact framed_trap (.inr hj) _ _
theorem framed_branch (ht : OnlyMe s t) (hr : RegsOnly D s.me t.me) (hj : D.jumps = true) (b : Bool) (off : BitVec 16) :
    EndsFramed D s (branch s t b off) := by
  cases b
  · exact framed_retire ht hr
  · exact framed_transfer ht hr hj _
theorem framed_needRmode {k : Out} (hD : D.flags = true) (h : EndsFramed D s k) : EndsFramed D s (s.needRmode k) := by
  unfold State.needRmode
  split
  · exact h
  · exact framed_trap (.inl hD) _ _
theorem framed_redRounds {k : Out} (hD : D.flags = true) (op : RedK) (t : ElemT) (h : EndsFramed D s k) :
    EndsFramed D s (redRounds op t s k) := by
  unfold redRounds
  split
  · exact framed_needRmode hD h
  · exact h
theorem framed_cvtRounds {k : Out} (hD : D.flags = true) (td ts : ElemT) (h : EndsFramed D s k) : EndsFramed D s (cvtRounds td ts s k) := by
  unfold cvtRounds
  split
  · exact h
  · exact framed_needRmode hD h
end

/-! ## The families -/

section
variable (s : State)

/-- A change of the executing context that writes the destinations alone. -/
theorem framed_mapMe {D : Dests} {f : Ctx → Ctx} (h : RegsOnly D s.me (f s.me)) : OnlyMe s (s.mapMe f) ∧ RegsOnly D s.me (s.mapMe f).me :=
  ⟨(OnlyMe.refl s).mapMe f, by rw [me_mapMe]; exact h⟩
theorem framed_intOut (d : XR) (v : Word) : EndsFramed { xs := [d] } s (intOut s d v) :=
  have h := framed_mapMe s (RegsOnly.setX s.me d v false false)
  framed_retire h.1 h.2
theorem framed_divOut (d : XR) (v : Word) : EndsFramed { xs := [d] } s (divOut s d v) :=
  have h := framed_mapMe s (RegsOnly.setX s.me d v false false)
  framed_retireAfter h.1 h.2 _
theorem framed_jump (a : Nat) : EndsFramed { jumps := true } s (transfer s s a) := framed_transfer (.refl s) (.refl _) rfl a
theorem framed_link (d : XR) (v : Word) (a : Nat) : EndsFramed { xs := [d], jumps := true } s (transfer s (s.putX d v) a) :=
  have h := framed_mapMe s (RegsOnly.setX s.me d v false true)
  framed_transfer h.1 h.2 rfl a
theorem framed_count (d : XR) (v : Word) (b : Bool) (off : BitVec 16) :
    EndsFramed { xs := [d], jumps := true } s (branch s (s.putX d v) b off) :=
  have h := framed_mapMe s (RegsOnly.setX s.me d v false true)
  framed_branch h.1 h.2 rfl b off
/-- An x register and flags. -/
theorem framed_xFlag (d : XR) (v w : Word) : OnlyMe s (s.mapMe fun c => (c.setX d v).flag w) ∧
    RegsOnly { xs := [d], flags := true } s.me (s.mapMe fun c => (c.setX d v).flag w).me :=
  framed_mapMe s ((RegsOnly.setX s.me d v true false).flag rfl w)
theorem framed_fpOut (d : XR) (r : Fp) : EndsFramed { xs := [d], flags := true } s (fpOut s d r) :=
  have h := framed_xFlag s d (BitVec.ofNat 64 r.1) r.2
  framed_needRmode rfl (framed_retire h.1 h.2)
theorem framed_fpLong (d : XR) (r : Fp) (l : Nat) : EndsFramed { xs := [d], flags := true } s (fpLong s d r l) :=
  have h := framed_xFlag s d (BitVec.ofNat 64 r.1) r.2
  framed_needRmode rfl (framed_retireAfter h.1 h.2 l)
theorem framed_fpPlain (d : XR) (r : Fp) : EndsFramed { xs := [d], flags := true } s (fpPlain s d r) :=
  have h := framed_xFlag s d (BitVec.ofNat 64 r.1) r.2
  framed_retire h.1 h.2
theorem framed_fpBool (d : XR) (r : Bool × Word) : EndsFramed { xs := [d], flags := true } s (fpBool s d r) :=
  have h := framed_xFlag s d (if r.1 then 1 else 0) r.2
  framed_retire h.1 h.2
theorem framed_vred (op : RedK) (t : ElemT) (d : XR) (b : VR) (m : KR) :
    EndsFramed { xs := [d], flags := true } s (vred op t d b m s) :=
  have h := framed_xFlag s d _ _
  framed_redRounds rfl op t (framed_retireAfter h.1 h.2 _)
theorem framed_fcvt (td ts : ElemT) (d : XR) (b : XS) : EndsFramed { xs := [d], flags := true } s (execFcvt td ts d b s) :=
  have h := framed_xFlag s d _ _
  framed_cvtRounds rfl td ts (framed_retire h.1 h.2)
theorem framed_vemax (bf : BlkF) (t : ElemT) (d : XR) (b : VR) (m : KR) :
    EndsFramed { xs := [d], flags := true } s (execVemax bf t d b m s) :=
  have h := framed_xFlag s d _ _
  framed_retire h.1 h.2
/-- A v register and flags. -/
theorem framed_lanes (w : Nat) (d : VR) (m : KR) (f : Nat → Fp) :
    OnlyMe s (s.putLanes w d m f) ∧ RegsOnly { vs := [d], flags := true } s.me (s.putLanes w d m f).me :=
  ⟨by unfold State.putLanes; exact (OnlyMe.refl s).mapMe _, by rw [me_putLanes]; exact (RegsOnly.setV s.me d _ true).flag rfl _⟩
theorem framed_putLanes (w : Nat) (d : VR) (m : KR) (f : Nat → Fp) :
    EndsFramed { vs := [d], flags := true } s (retire s (s.putLanes w d m f)) :=
  framed_retire (framed_lanes s w d m f).1 (framed_lanes s w d m f).2
theorem framed_vf2 (t : ElemT) (d b c : VR) (m : KR) (f : Nat → Nat → Nat → Fp) :
    EndsFramed { vs := [d], flags := true } s (vf2 s t d b c m f) := framed_needRmode rfl (framed_putLanes s _ d m _)
theorem framed_vfLong (t : ElemT) (d : VR) (m : KR) (f : Nat → Fp) (l : Nat) :
    EndsFramed { vs := [d], flags := true } s (s.needRmode (retireAfter s (s.vf t d m f) l)) :=
  framed_needRmode rfl (framed_retireAfter (framed_lanes s _ d m f).1 (framed_lanes s _ d m f).2 l)
theorem framed_vscan (op : RedK) (t : ElemT) (d b : VR) (m : KR) : EndsFramed { vs := [d], flags := true } s (vscan op t d b m s) :=
  have h := framed_mapMe s ((RegsOnly.setV s.me d _ true).flag rfl _)
  framed_redRounds rfl op t (framed_retireAfter h.1 h.2 _)
theorem framed_vcvt (td ts : ElemT) (d b : VR) (p : BitVec 6) (m : KR) :
    EndsFramed { vs := [d], flags := true } s (execVcvt td ts d b p m s) := framed_cvtRounds rfl td ts (framed_putLanes s _ d m _)
theorem framed_block (bf : BlkF) (d : VR) (m : KR) (f : Nat → Fp) :
    EndsFramed { vs := [d], flags := true } s (s.needRmode (retire s (s.putBlock bf d m f))) := by
  unfold State.putBlock
  refine framed_needRmode rfl (framed_retire ((OnlyMe.refl s).mapMe _) ?_)
  rw [me_mapMe]
  exact (RegsOnly.setV s.me d _ true).flag rfl _
theorem framed_group (t : ElemT) (n : Nat) (d : VR) (m : KR) (f : Nat → Fp) :
    EndsFramed { vs := groupRegs d (n * t.width / 256), flags := true } s (s.needRmode (retire s (s.putGroup t n d m f))) := by
  unfold State.putGroup
  refine framed_needRmode rfl (framed_retire ((OnlyMe.refl s).mapMe _) ?_)
  rw [me_mapMe]
  exact (RegsOnly.setGroup s.me d (n * t.width / 256) _ true).flag rfl _
theorem framed_putV (d : VR) (v : VWord) : EndsFramed { vs := [d] } s (retire s (s.putV d v)) :=
  have h := framed_mapMe s (RegsOnly.setV s.me d v false)
  framed_retire h.1 h.2
theorem framed_putMask (w : Nat) (d m : KR) (f : Nat → Bool × Word) :
    EndsFramed { ks := [d], flags := true } s (retire s (s.putMask w d m f)) :=
  framed_retire (by unfold State.putMask; exact (OnlyMe.refl s).mapMe _) (by rw [me_putMask]; exact (RegsOnly.setK s.me d _ true).flag rfl _)
theorem framed_putK (d : KR) (v : KWord) : EndsFramed { ks := [d] } s (retire s (s.putK d v)) :=
  have h := framed_mapMe s (RegsOnly.setK s.me d v false)
  framed_retire h.1 h.2
end
end Sys2Proof.Machine
end

section
/-! CERTIFICATE. What the integer, control, vector, mask and conversion forms leave alone: O14. -/
namespace Sys2Proof.Machine

/-- Every register form ends with its destinations written and nothing else changed, or traps. -/
theorem endsFramed_exec (s : State) (i : Instr) (D : Dests) (h : destsOf i = some D) : EndsFramed D s (exec i s) := by
  cases i with
  | add | sub | and | or | xor | andn | sll | srl | sra | ror | slt | sltn | min | max | minn | maxn | mul | mulh | mulhn | addi | andi |
    ori | xori | slli | srli | srai | slti | sltni | li | lih | clz | ctz | popc | brev | addpc | ktox | kpopc | kfirst | vextr =>
    cases h; exact framed_intOut s _ _
  | div | divn | rem | remn => cases h; exact framed_divOut s _ _
  | nop => cases h; exact framed_retire (.refl s) (.refl s.me)
  | j => cases h; exact framed_jump s _
  | jal | jalr => cases h; exact framed_link s _ _ _
  | beq | bne | blt | bge | bltn | bgen | bkany | bkall | bknone => cases h; exact framed_branch (.refl s) (.refl s.me) rfl _ _
  | dbnz => cases h; exact framed_count s _ _ _ _
  | faddF32 | fsubF32 | fmulF32 | ffmaF32 | faddF64 | fsubF64 | fmulF64 | ffmaF64 => cases h; exact framed_fpOut s _ _
  | fdivF32 | fsqrtF32 | fdivF64 | fsqrtF64 => cases h; exact framed_fpLong s _ _ _
  | fminF32 | fmaxF32 | fminF64 | fmaxF64 => cases h; exact framed_fpPlain s _ _
  | feqF32 | fltF32 | fleF32 | feqF64 | fltF64 | fleF64 => cases h; exact framed_fpBool s _ _
  | vredAdd t d b m => cases h; exact framed_vred s .add t d b m
  | vredMin t d b m => cases h; exact framed_vred s .min t d b m
  | vredMax t d b m => cases h; exact framed_vred s .max t d b m
  | vredAnd t d b m => cases h; exact framed_vred s .and t d b m
  | vredOr t d b m => cases h; exact framed_vred s .or t d b m
  | fcvt => cases h; exact framed_fcvt s _ _ _ _
  | vemax => cases h; exact framed_vemax s _ _ _ _ _
  | vadd | vsub | vmul | vmulh | vand | vor | vxor | vandn | vsll | vsrl | vsra | vmin | vmax | vadds | vsubs | vabs | vneg | vaddi |
    vandi | vori | vslli | vsrli | vsrai | vsplat | vsplati | vfmin | vfmax | vfabs | vfneg | vperm | vslup | vsldn | vzip | vunzip |
    vpack | vunpk | frsqa | frcpa => cases h; exact framed_putLanes s _ _ _ _
  | vfadd | vfsub | vfmul | vfma | vfms | vfnma => cases h; exact framed_vf2 s _ _ _ _ _ _
  | vfdiv | vfsqrt => cases h; exact framed_vfLong s _ _ _ _ _
  | vscanAdd t d b m => cases h; exact framed_vscan s .add t d b m
  | vscanMin t d b m => cases h; exact framed_vscan s .min t d b m
  | vscanMax t d b m => cases h; exact framed_vscan s .max t d b m
  | vcvt => cases h; exact framed_vcvt s _ _ _ _ _ _
  | vqnt | vrsc => cases h; exact framed_block s _ _ _ _
  | vsel | vli16 | vli32 | vli64 | vxlr | vcompr | vexpnd | vins => cases h; exact framed_putV s _ _
  | vdqnt bf t d b c m =>
    have hg : t.width / 8 = 32 * t.width / 256 := by omega
    cases h
    rw [hg]
    exact framed_group s t 32 d m _
  | vphcv t d b c m =>
    have hg : t.width / 16 = 16 * t.width / 256 := by omega
    cases h
    rw [hg]
    exact framed_group s t 16 d m _
  | vcmpeq | vcmplt | vcmple | vfcmpeq | vfcmplt | vfcmple => cases h; exact framed_putMask s _ _ _ _
  | kand | kor | kxor | kandn | knot | kmovx => cases h; exact framed_putK s _ _
  | _ => cases h

/-- A form of a list ends framed by the destinations that the list gives it, unless it traps. -/
theorem framed_of_done {s u : State} {i : Instr} {D : Dests} (hD : destsOf i = some D) (h : exec i s = .next u) (hm : u.mark = .done) :
    Framed D s u := by
  obtain hf | ⟨ht, -⟩ := endsFramed_exec s i D hD u h
  · exact hf
  · exact absurd (hm.symm.trans ht) (by decide)

/-- Settles O14: each form of the three lists writes the destinations that its own list names. -/
theorem registerFormsFrame : Obligations.RegisterFormsFrame := by
  unfold Obligations.RegisterFormsFrame
  refine ⟨fun s t d b c k i w h hs hmem he => ?integer, fun s t d a b ka kb off far i ds hmem he hm => ?control,
    fun s u t ts x y z d b c j kd kb kc m k p n l h bf i xs vs ks hmem he hm => ?vector⟩
  case integer =>
    have hD : destsOf h = some { xs := [d] } := (List.map_inj_left (f := destsOf) (g := fun _ => some ({ xs := [d] } : Dests))).mp rfl h hmem
    obtain hf | ⟨-, hstuck⟩ := endsFramed_exec s h _ hD t he
    · obtain ⟨hsys, hx, hv, hk, -, hq⟩ := hf.regs
      exact ⟨hf.memory, hf.module, hf.agenda, hf.others, hsys, hx, getX_zero _, hv, hk, hq rfl, hf.pc rfl⟩
    · exact absurd ((hstuck rfl rfl).symm.trans hs) (by decide)
  case control =>
    have hL := (List.map_inj_left (f := fun p : Instr × List XR => (destsOf p.1).map fun D => (D.xs, D.vs, D.ks, D.flags))
      (g := fun p => some (p.2, [], [], false))).mp rfl (i, ds) hmem
    obtain ⟨⟨xs, vs, ks, fl, jumps⟩, hD, e⟩ := Option.map_eq_some_iff.mp hL
    cases e
    have hf := framed_of_done hD he hm
    obtain ⟨hsys, hx, hv, hk, -, hq⟩ := hf.regs
    exact ⟨hf.memory, hf.module, hf.agenda, hf.others, hsys, hx, hv, hk, hq rfl⟩
  case vector =>
    have hL := (List.map_inj_left
      (f := fun p : Instr × List XR × List VR × List KR => (destsOf p.1).map fun D => (D.xs, D.vs, D.ks, D.jumps))
      (g := fun p => some (p.2.1, p.2.2.1, p.2.2.2, false))).mp rfl (i, xs, vs, ks) hmem
    obtain ⟨⟨xs, vs, ks, fl, jumps⟩, hD, e⟩ := Option.map_eq_some_iff.mp hL
    cases e
    have hf := framed_of_done hD he hm
    obtain ⟨hsys, hx, hv, hk, hr, -⟩ := hf.regs
    exact ⟨hf.memory, hf.module, hf.agenda, hf.others, hsys, hx, hv, hk, hf.pc rfl, hr⟩

end Sys2Proof.Machine
end

section
/-! SUPPORT. The slot of a context: what comes before its head, and the head it issues. -/
namespace Sys2Proof.Machine

/-! ## One context changed twice -/

/-- The second of two writes to one place of a table stands. -/
theorem tset_tset {α : Type} (t : Tab α) (k : Nat) (a b : α) : tset (tset t k a) k b = tset t k b := by
  induction t with
  | nil => simp [tset]
  | cons p t ih =>
    obtain ⟨j, e⟩ := p
    rcases lt_trichotomy k j with h | rfl | h
    · simp [tset, h]
    · simp [tset]
    · simp [tset, h.ne, h.not_gt, ih]

theorem mapMe_mapMe (s : State) (f g : Ctx → Ctx) : (s.mapMe f).mapMe g = s.mapMe fun x => g (f x) := by
  have hme : (s.mapMe f).me = f s.me := me_mapMe s f
  change ({ s with ctxs := tset (tset s.ctxs s.cur (f s.me)) s.cur (g (s.mapMe f).me) } : State) = _
  rw [hme, tset_tset]; rfl

theorem mapMe_congr (s : State) {f g : Ctx → Ctx} (h : f s.me = g s.me) : s.mapMe f = s.mapMe g :=
  congrArg s.setMe h

/-! ## The next issuer is in the rotation -/

theorem issuer_eligible (s : State) (n t c : Nat) (h : s.issuer n t = some c) : (s.ctx c).eligible t = true := by
  unfold State.issuer at h
  split at h
  · exact absurd h (by simp)
  dsimp only at h
  split at h
  next hhome => exact Option.some.inj h ▸ hhome
  split at h
  · exact absurd h (by simp)
  refine List.foldlRecOn (motive := fun b => ∀ c, b = some c → (s.ctx c).eligible t = true) _ _
    (by simp) (fun b ih d hd c hc => ?_) c h
  have hel : (s.ctx d).eligible t = true := by
    have := (List.mem_filter.mp hd).2
    simp only [Bool.and_eq_true] at this
    exact this.1.2
  cases b with
  | none => exact Option.some.inj hc ▸ hel
  | some b =>
    dsimp only at hc
    split at hc
    · exact Option.some.inj hc ▸ hel
    · exact ih c hc

theorem nextIssuer_eligible (s : State) (c : Nat) (h : s.nextIssuer = some c) : (s.ctx c).eligible s.cycle = true := by
  obtain ⟨n, -, hn⟩ := List.exists_of_findSome?_eq_some h
  exact issuer_eligible s n s.cycle c hn

theorem nextIssuer_why (s : State) (c : Nat) (h : s.nextIssuer = some c) :
    (s.ctx c).why = none ∨ (s.ctx c).why = some .yield := by
  have hel := nextIssuer_eligible s c h
  simp only [Ctx.eligible, Ctx.inRotation, Bool.and_eq_true, Bool.or_eq_true, Option.isNone_iff_eq_none, beq_iff_eq] at hel
  exact hel.1.2

/-! ## What stands before a head -/

/-- The state in which the slot of a context is prepared. -/
noncomputable def State.inSlot (s : State) (c : Nat) : State :=
  ({ s with cur := c, pairing := .single, mark := .done, turn := s.rank (coreOf c) + 1 } : State).mapMe fun x => { x with why := none }

@[simp] theorem inSlot_cur (s : State) (c : Nat) : (s.inSlot c).cur = c := rfl
@[simp] theorem inSlot_cores (s : State) (c : Nat) : (s.inSlot c).cores = s.cores := rfl
@[simp] theorem inSlot_ctx (s : State) (c : Nat) : (s.inSlot c).ctx c = { s.ctx c with why := none } := me_mapMe _ _
@[simp] theorem inSlot_me (s : State) (c : Nat) : (s.inSlot c).me = { s.ctx c with why := none } := me_mapMe _ _
theorem inSlot_stops (s : State) (c : Nat) : (s.inSlot c).stops c = s.stops c := by
  have hc : (s.inSlot c).core (coreOf c) = s.core (coreOf c) := rfl
  unfold State.stops; rw [inSlot_ctx, hc]
theorem inSlot_l1iAnswer (s : State) (c va : Nat) :
    (s.inSlot c).l1iAnswer ((s.inSlot c).asker c) va = s.l1iAnswer (s.asker c) va := by
  have hq : (s.inSlot c).asker c = s.asker c := by unfold State.asker; rw [inSlot_ctx]; rfl
  rw [hq]; rfl

theorem rereads_of_late_none (s : State) (c : Nat) (h : (s.ctx c).late = none) : s.rereads c = (s, none) := by
  unfold State.rereads; rw [h]
theorem finishLate_of_late_none (x : Ctx) (h : x.late = none) : x.finishLate = x := by
  unfold Ctx.finishLate; rw [h]
theorem takesAsync_of_asyncs_nil (x : Ctx) (h : x.asyncs = []) : x.takesAsync = false := by
  simp [Ctx.takesAsync, h]

/-- A context that a yield has kept out of the rotation is in it again, and one with no read under way has none to finish. -/
theorem slot_of_late_none (s : State) (c : Nat) (hwhy : (s.ctx c).why = none ∨ (s.ctx c).why = some .yield)
    (hlate : (s.ctx c).late = none) :
    let s0 : State := { s with cur := c, pairing := .single, mark := .done, turn := s.rank (coreOf c) + 1 }
    let s1 := if s0.me.why = some .yield then s0.mapMe fun x => { x with why := none } else s0
    (s1.ctx c).late = none ∧ s1.mapMe Ctx.finishLate = s.inSlot c := by
  intro s0 s1
  have hme : s0.me = s.ctx c := rfl
  rcases hwhy with hn | hy
  · have h1 : s1 = s0 := if_neg (by rw [hme, hn]; simp)
    rw [h1]
    refine ⟨hlate, mapMe_congr s0 ?_⟩
    rw [hme, finishLate_of_late_none _ hlate, ← hn]
  · have h1 : s1 = s.inSlot c := if_pos (by rw [hme, hy])
    rw [h1]
    refine ⟨by rw [inSlot_ctx]; exact hlate, (mapMe_mapMe s0 _ _).trans (mapMe_congr s0 ?_)⟩
    exact finishLate_of_late_none _ hlate

theorem enterLine_of_held (s : State) (e : ILine) (hw : inWindow (lineAddr s.me.pc) = false)
    (he : s.l1iAnswer (s.asker s.cur) (lineAddr s.me.pc) = some e) : s.enterLine = .line e.data := by
  simp [State.enterLine, hw, he]

theorem not_millerReady_of_intv (s : State) (c : Nat) (hc : ctxNo c = 0) (h : (s.ctx c).intv = true) :
    (s.inSlot c).millerReady (coreOf c) = false := by
  have hk : 16 * coreOf c = c := by unfold coreOf; unfold ctxNo at hc; omega
  unfold State.millerReady
  rw [hk, inSlot_ctx]
  simp [h]

end Sys2Proof.Machine
end
section
/-! SUPPORT. The head that a slot runs, and what its operands' errors leave of it. -/
namespace Sys2Proof.Machine

/-- A slot in which nothing comes before the head, and whose head is a single one, runs it. -/
theorem prepare_go (s : State) (c : Nat) (d : Line) (hwhy : (s.ctx c).why = none ∨ (s.ctx c).why = some .yield)
    (hlate : (s.ctx c).late = none) (hasync : (s.ctx c).asyncs = []) (hstop : s.stops c = false)
    (hmiller : ctxNo c ≠ 0 ∨ (s.core (coreOf c)).pending = [] ∨ (s.ctx c).intv = true)
    (hline : (s.ctx c).line = some ⟨lineAddr (s.ctx c).pc, d⟩ ∨
      (s.ctx c).line = none ∧ inWindow (lineAddr (s.ctx c).pc) = false ∧
        (s.l1iAnswer (s.asker c) (lineAddr (s.ctx c).pc)).map (·.data) = some d)
    (hlegal : lineLegal d = true) (hhead : headIndex (s.ctx c).pc ≤ lineHeads d)
    (hsingle : headP (lineParcel d (headIndex (s.ctx c).pc)) = false) :
    s.prepare c = .go ((s.inSlot c).mapMe fun x =>
      { x with line := some ⟨lineAddr x.pc, d⟩, entry := none, lastIssue := some s.cycle })
      (instrAt d (headIndex (s.ctx c).pc)) := by
  obtain ⟨hl, hslot⟩ := slot_of_late_none s c hwhy hlate
  have hm : ¬(ctxNo c = 0 ∧ (s.inSlot c).millerReady (coreOf c) = true ∧ (s.core (coreOf c)).pending ≠ []) := by
    rintro ⟨hc, hr, hp⟩
    rcases hmiller with h | h | h
    · exact h hc
    · exact hp h
    · rw [not_millerReady_of_intv s c hc h] at hr; exact absurd hr (by simp)
  have hcore : ∀ t : State, t.cores = s.cores → t.core (coreOf c) = s.core (coreOf c) := fun t h => by unfold State.core; rw [h]
  have ha : (s.inSlot c).me.takesAsync = false := takesAsync_of_asyncs_nil _ (by rw [inSlot_me]; exact hasync)
  have hpc : (s.inSlot c).me.pc = (s.ctx c).pc := by rw [inSlot_me]
  have hl' : (s.inSlot c).me.line = (s.ctx c).line := by rw [inSlot_me]
  have hh : ¬(!lineLegal d || decide (lineHeads d < headIndex (s.ctx c).pc)) = true := by simp [hlegal, hhead]
  unfold State.prepare
  dsimp only
  rw [rereads_of_late_none _ c hl]
  dsimp only
  rw [hslot, hcore _ (by split <;> rfl)]
  simp only [ha, Bool.false_eq_true, if_false, inSlot_stops, hstop, if_neg hm]
  rw [hpc, hl']
  rcases hline with h | ⟨h, hw, he⟩
  · rw [h]
    simp only [if_true, if_neg hh, hsingle, Bool.false_eq_true, if_false]
    rfl
  · rw [h]
    obtain ⟨e, hans, rfl⟩ := Option.map_eq_some_iff.mp he
    rw [enterLine_of_held _ e (by rw [hpc]; exact hw) (by rw [hpc, inSlot_cur, inSlot_l1iAnswer]; exact hans)]
    simp only [if_neg hh, hsingle, Bool.false_eq_true, if_false]
    rfl

theorem mapCtx_mapCtx (s : State) (c : Nat) (f g : Ctx → Ctx) :
    (s.mapCtx c f).mapCtx c g = s.mapCtx c fun x => g (f x) := by
  change ({ s with ctxs := tset (tset s.ctxs c (f (s.ctx c))) c (g ((s.mapCtx c f).ctx c)) } : State) = _
  rw [ctx_mapCtx_same, tset_tset]; rfl

theorem mapCtx_congr (s : State) (c : Nat) {f g : Ctx → Ctx} (h : f (s.ctx c) = g (s.ctx c)) :
    s.mapCtx c f = s.mapCtx c g :=
  congrArg (s.setCtx c) h

/-- Where no operand is poisoned and no trap of the miller is due, all that is new is what the head may have to take back. -/
theorem settle_of_clean (s t : State) (rs : List (BitVec 6)) (ys : List Nat) (hrs : firstBad s.me rs = none)
    (hys : s.sysBad ys = false) (hpend : ctxNo s.cur ≠ 0 ∨ (t.core (coreOf s.cur)).pending = [])
    (hwalk : (t.ctx s.cur).walkFail = none) :
    s.settle rs ys t = t.mapCtx s.cur fun x => { x with undo := s.undoOf x } := by
  have hnote : (t.mapCtx s.cur fun c => if c.why = some .accept then c else { c with walkFail := none }).mapCtx s.cur
      (fun c => { c with undo := s.undoOf c }) = t.mapCtx s.cur fun x => { x with undo := s.undoOf x } := by
    refine (mapCtx_mapCtx t s.cur _ _).trans (mapCtx_congr t s.cur ?_)
    have hsame : (if (t.ctx s.cur).why = some .accept then t.ctx s.cur else { t.ctx s.cur with walkFail := none }) = t.ctx s.cur := by
      split
      · rfl
      · rw [← hwalk]
    simp only [hsame]
  have hno : ∀ p q : Prop, ¬(ctxNo s.cur = 0 ∧ p ∧ q ∧ (t.core (coreOf s.cur)).pending ≠ []) := by
    rintro p q ⟨h0, -, -, hp⟩
    exact hpend.elim (fun h => h h0) hp
  unfold State.settle
  simp only [hrs, hys, Bool.false_eq_true, if_false, ite_self]
  rw [hnote]
  exact if_neg (hno _ _)

/-- A head none of whose operands carries an error is executed, and settled. -/
theorem runHead_of_unarmed (s : State) (i : Instr) (hgood : s.badTarget i = none)
    (harmed : armedReg s.me (regsRead s.me i) (sysReads s.me i) = none) :
    (∀ t, exec i s = .next t → runHead s i = .next (s.settle (regsRead s.me i) (sysReads s.me i) t)) ∧
    (∀ r, exec i s = .fault r → runHead s i = .fault r) ∧ (∀ r, exec i s = .refused r → runHead s i = .refused r) := by
  refine ⟨fun t h => ?_, fun r h => ?_, fun r h => ?_⟩ <;> simp [runHead, hgood, harmed, h]

theorem runHead_of_badTarget (s v : State) (i : Instr) (h : s.badTarget i = some v) : runHead s i = .next v := by
  simp [runHead, h]

theorem instrAt_of_decode (d : Line) (h : Nat) (i : Instr)
    (hd : decode (headParcels d h) = .ok i ∨ decode (headParcels d h) = .illegal ∧ i = .illegalInstruction false ∨
      decode (headParcels d h) = .reserved ∧ i = .illegalInstruction true) : instrAt d h = i := by
  rcases hd with hd | ⟨hd, rfl⟩ | ⟨hd, rfl⟩ <;> simp [instrAt, hd]

theorem step_of_go (s u : State) (c : Nat) (i : Instr) (hagenda : s.agenda = []) (hleaver : s.leaver = none)
    (hnext : s.nextIssuer = some c) (hgo : s.prepare c = .go u i) : step s = runHead u i := by
  simp [step, issue, hagenda, hleaver, hnext, hgo]

end Sys2Proof.Machine
end
section
/-! CERTIFICATE. A step runs the decoded instruction: O7. -/
namespace Sys2Proof.Machine

/-- Settles O7: nothing comes before the head in the next issuer's slot (`prepare_go`), and settling a head without errors only
notes what it has replaced (`settle_of_clean`). -/
theorem stepRunsTheHead : Obligations.StepRunsTheHead := by
  unfold Obligations.StepRunsTheHead
  intro s t c d i x va k p u rs ys hagenda hleaver hnext hasync hlate hstop hmiller hline hlegal hhead hsingle hdecode
  have hslot : u = (s.inSlot c).mapMe fun x => { x with line := some ⟨lineAddr x.pc, d⟩, entry := none, lastIssue := some s.cycle } := by
    unfold State.inSlot; rw [mapMe_mapMe]; exact mapMe_congr _ rfl
  have hgo : s.prepare c = .go u i := by
    rw [hslot, ← instrAt_of_decode d _ i hdecode]
    exact prepare_go s c d (nextIssuer_why s c hnext) hlate hasync hstop hmiller hline hlegal hhead hsingle
  have hstep : step s = runHead u i := step_of_go s u c i hagenda hleaver hnext hgo
  rw [hstep]
  refine ⟨fun v => runHead_of_badTarget u v i, fun hgood harmed => ?_⟩
  obtain ⟨hnextT, hfault, hrefused⟩ := runHead_of_unarmed u i hgood harmed
  refine ⟨hnextT t, hfault, hrefused, fun hrs hys hpend hwalk => ?_⟩
  have hsettle : u.settle rs ys t = t.mapCtx c fun x => { x with undo := u.undoOf x } :=
    settle_of_clean u t rs ys hrs hys hpend hwalk
  rw [hsettle]
  exact ⟨ctx_mapCtx_same t c _, KeepsMemory.of_eq rfl rfl rfl, rfl⟩

end Sys2Proof.Machine
end

section
/-! SUPPORT. The scalar floating forms and the conversions where their head steps on, and the forms that look at the rounding mode. -/
namespace Sys2Proof.Machine

variable {s : State}

/-! ## Forms that round -/

theorem needRmode_flows (hr : rmodeOf s.me.fctx < 6) (hf : s.flows) (t : State) : s.needRmode (retire s t) = .next (s.stepped t) :=
  (needRmode_ok hr _).trans (retire_flows hf t)
theorem fpOut_flows (hr : rmodeOf s.me.fctx < 6) (hf : s.flows) (d : XR) (r : Fp) : fpOut s d r = .next (s.stepped (s.putFp d r)) :=
  needRmode_flows hr hf _
theorem fpLong_flows (hr : rmodeOf s.me.fctx < 6) (hf : s.flows) (d : XR) (r : Fp) (l : Nat) :
    fpLong s d r l = .next (s.steppedFor (s.putFp d r) l) :=
  (needRmode_ok hr _).trans (retireAfter_flows hf _ l)
theorem fpPlain_flows (hf : s.flows) (d : XR) (r : Fp) : fpPlain s d r = .next (s.stepped (s.putFp d r)) := retire_flows hf _
theorem fpBool_flows (hf : s.flows) (d : XR) (r : Bool × Word) :
    fpBool s d r = .next (s.stepped (s.mapMe fun k => (k.setX d (if r.1 then 1 else 0)).flag r.2)) := retire_flows hf _

theorem fpS_fmtF32 (s : State) (b : XS) : s.fpS fmtF32 b = (s.me.getS b).toNat % 2 ^ 32 := rfl
theorem fpS_fmtF64 (s : State) (b : XS) : s.fpS fmtF64 b = (s.me.getS b).toNat := Nat.mod_eq_of_lt (s.me.getS b).isLt

theorem redRounds_add {t : ElemT} (h : t.isInt = false) (s : State) (k : Out) : redRounds .add t s k = s.needRmode k :=
  if_pos ⟨rfl, h⟩
theorem cvtRounds_of_float {td ts : ElemT} (h : td.isInt = false ∨ ts.isInt = false) (s : State) (k : Out) :
    cvtRounds td ts s k = s.needRmode k := by
  unfold cvtRounds; rcases h with h | h <;> simp [h]
theorem cvtRounds_flows {td ts : ElemT} (h : rmodeOf s.me.fctx < 6 ∨ (td.isInt = true ∧ ts.isInt = true)) (hf : s.flows) (t : State) :
    cvtRounds td ts s (retire s t) = .next (s.stepped t) := by
  rcases h with h | ⟨hd, hs⟩
  · unfold cvtRounds; rw [needRmode_flows h hf, retire_flows hf, ite_self]
  · rw [cvtRounds, hd, hs]; exact retire_flows hf t

/-! ## Lanes of the conversions -/

/-- What VCVT puts in its lanes. -/
theorem vcvt_flows (td ts : ElemT) (d b : VR) (p : BitVec 6) (m : KR)
    (h : rmodeOf s.me.fctx < 6 ∨ (td.isInt = true ∧ ts.isInt = true)) (hf : s.flows) :
    let n := 256 / max td.width ts.width
    exec (.vcvt td ts d b p m) s = .next (s.stepped (s.putLanes td.width d m fun j =>
      if td.width < ts.width then
        (if p.toNat * n ≤ j ∧ j < p.toNat * n + n then cvt td ts s.env j (s.lane b ts.width (j - p.toNat * n))
        else (s.lane d td.width j, 0))
      else if ts.width < td.width then cvt td ts s.env j (s.lane b ts.width (p.toNat * n + j))
      else cvt td ts s.env j (s.lane b ts.width j))) := by
  intro n
  have hn : 256 / Nat.max td.width ts.width = n := rfl
  refine (cvtRounds_flows h hf _).trans (congrArg (fun f => Host.Outcome.next (s.stepped (s.putLanes td.width d m f))) (funext fun j => ?_))
  unfold cvtSource
  rw [hn]
  by_cases hlt : td.width < ts.width
  · by_cases hj : p.toNat * n ≤ j ∧ j < p.toNat * n + n <;> simp [hlt, hj, plain]
  · by_cases hgt : ts.width < td.width <;> simp [hlt, hgt]

theorem fcvt_flows (td ts : ElemT) (x : XR) (y : XS) (h : rmodeOf s.me.fctx < 6 ∨ (td.isInt = true ∧ ts.isInt = true)) (hf : s.flows) :
    let r := cvt td ts s.env 0 ((s.me.getS y).toNat % 2 ^ ts.width)
    exec (.fcvt td ts x y) s = .next (s.stepped (s.mapMe fun k => (k.setX x (xOfLane td r.1)).flag r.2)) :=
  cvtRounds_flows h hf _

/-- VPACK of a pair of element types that are not 4-bit ones. -/
theorem vpack_flows_of_ne {td ts : ElemT} (h : td ≠ ts) (d b c : VR) (m : KR) (hf : s.flows) :
    exec (.vpack td ts d b c m) s = .next (s.stepped (s.putLanes td.width d m fun i =>
      satT td (readInt ts (if i < 256 / ts.width then s.lane b ts.width i else s.lane c ts.width (i - 256 / ts.width))))) := by
  have hp : packs4 td ts = false := by simpa [packs4] using h
  refine (retire_flows hf _).trans ?_
  simp only [hp, Bool.false_eq_true, if_false]
  rfl

/-- VPACK of nibbles. -/
theorem vpack_flows_same (t : ElemT) (d b c : VR) (m : KR) (hf : s.flows) :
    let x (q : Nat) : Nat := if q < 32 then s.lane b 8 q else s.lane c 8 (q - 32)
    exec (.vpack t t d b c m) s = .next (s.stepped (s.putLanes t.width d m fun i =>
      ((packNib t (x (2 * i))).1 + 16 * (packNib t (x (2 * i + 1))).1, (packNib t (x (2 * i))).2 ||| (packNib t (x (2 * i + 1))).2))) := by
  have hp : packs4 t t = true := by simp [packs4]
  refine (retire_flows hf _).trans ?_
  simp only [hp, if_true]

theorem vunpk_flows_of_ne {td ts : ElemT} (h : td ≠ ts) (d b : VR) (p : Bool) (m : KR) (hf : s.flows) :
    exec (.vunpk td ts d b p m) s = .next (s.stepped (s.putLanes td.width d m fun i =>
      plain (wrap (readInt ts (s.lane b ts.width ((if p then 128 / ts.width else 0) + i))) td.width))) := by
  have hp : packs4 td ts = false := by simpa [packs4] using h
  refine (retire_flows hf _).trans ?_
  simp only [hp, Bool.false_eq_true, if_false]

theorem vunpk_flows_same (t : ElemT) (d b : VR) (p : Bool) (m : KR) (hf : s.flows) :
    exec (.vunpk t t d b p m) s = .next (s.stepped (s.putLanes t.width d m fun i =>
      let q := s.lane b 4 ((if p then 32 else 0) + i)
      plain (if t = .s8 then wrap (sext q 4) 8 else q))) := by
  have hp : packs4 t t = true := by simp [packs4]
  refine (retire_flows hf _).trans ?_
  simp only [hp, if_true]

/-! ## Blocks -/

theorem vFmt_of_mem {t : ElemT} (h : t ∈ [ElemT.f16, .bf16, .f32]) :
    vFmt t = if t = .f16 then fmtF16 else if t = .bf16 then fmtBF16 else fmtF32 := by
  fin_cases h <;> rfl
theorem groupRegs_of_mem {t : ElemT} (h : t ∈ [ElemT.f16, .bf16, .f32]) : 32 * t.width / 256 = t.width / 8 := by
  fin_cases h <;> rfl
theorem blkWidth_eq (f : BlkF) : blkWidth f = if f = .b4i ∨ f = .b4f then 4 else 8 := by cases f <;> rfl

/-! ## The scale code of VEMAX -/

/-- Among values of magnitude zero there is no largest logarithm. -/
theorem maxLog_of_zeros (l : List Machine.Num) (h : ∀ x ∈ l, ∃ g k, x = .fin g 0 k) : maxLog l = none := by
  refine List.foldlRecOn (motive := (· = none)) _ _ rfl fun a ha x hx => ?_
  obtain ⟨g, k, rfl⟩ := h x hx
  simpa using ha


/-- VEMAX gives a scale code: the greatest one for an infinity or a NaN and only then, and the code of one where every value is zero. -/
theorem vemax_flows (bf : BlkF) (t : ElemT) (x : XR) (b : VR) (m : KR) (hf : s.flows) :
    let src (j : Nat) : Machine.Num := (vFmt t).read s.env (s.groupElem t b j)
    let a := s.me.getK m
    ∃ (code : Nat) (fl : Word), exec (.vemax bf t x b m) s =
        .next (s.stepped (s.mapMe fun k => (k.setX x (BitVec.ofNat 64 code)).flag fl)) ∧ code ≤ 255 ∧ (fl = 0 ∨ fl = fNv) ∧
      (code = 255 ↔ ∃ j, j < 32 ∧ a.getLsbD j = true ∧ ∀ g n k, src j ≠ .fin g n k) ∧
      ((∀ j, j < 32 → a.getLsbD j = true → ∃ g k, src j = .fin g 0 k) → code = 127) := by
  intro src a
  have hspecial : ((activeLanes a 32).map src).any (fun x => match x with | .fin _ _ _ => false | _ => true) = true ↔
      ∃ j, j < 32 ∧ a.getLsbD j = true ∧ ∀ g n k, src j ≠ .fin g n k := by
    simp only [activeLanes, active, List.any_eq_true, List.mem_map, List.mem_filter, List.mem_range]
    constructor
    · rintro ⟨_, ⟨j, ⟨hj, ha⟩, rfl⟩, hs⟩
      exact ⟨j, hj, ha, fun g n k h => by rw [h] at hs; exact absurd hs (by simp)⟩
    · rintro ⟨j, hj, ha, hs⟩
      refine ⟨_, ⟨j, ⟨hj, ha⟩, rfl⟩, ?_⟩
      cases h : src j with
      | fin g n k => exact absurd h (hs g n k)
      | inf _ | nan _ => rfl
  have hzeros : (∀ j, j < 32 → a.getLsbD j = true → ∃ g k, src j = .fin g 0 k) → maxLog ((activeLanes a 32).map src) = none := by
    intro h
    refine maxLog_of_zeros _ fun x hx => ?_
    simp only [activeLanes, active, List.mem_map, List.mem_filter, List.mem_range] at hx
    obtain ⟨j, ⟨hj, ha⟩, rfl⟩ := hx
    exact h j hj ha
  refine ⟨_, _, retire_flows hf _, ?_, ?_, ?_, ?_⟩
  · split
    · omega
    · split <;> omega
  · split
    · exact .inr rfl
    · exact .inl rfl
  · refine Iff.trans ⟨fun h => ?_, fun h => if_pos h⟩ hspecial
    by_contra hn
    rw [if_neg hn] at h
    split at h <;> omega
  · intro h
    refine (if_neg fun hs => ?_).trans (by rw [hzeros h])
    obtain ⟨j, hj, ha, hfin⟩ := hspecial.mp hs
    obtain ⟨g, k, hz⟩ := h j hj ha
    exact hfin g 0 k hz

end Sys2Proof.Machine
end
section
/-! CERTIFICATE. Scalar floating forms and conversions: O18. -/
namespace Sys2Proof.Machine

/-- Every form that rounds looks at the rounding mode first. -/
theorem exec_eq_needRmode (s : State) (d : XR) (b c e : XS) (t u : ElemT) (bf : BlkF) (f : Bool) (v y z : VR) (m : KR)
    (p : BitVec 6) (pol : Pol) (ht : t.isInt = false) :
    ∀ i ∈ ([.faddF32 d b c, .fsubF32 d b c, .fmulF32 d b c, .fdivF32 d b c, .fsqrtF32 d b, .ffmaF32 d b c,
      .faddF64 d b c, .fsubF64 d b c, .fmulF64 d b c, .fdivF64 d b c, .fsqrtF64 d b, .ffmaF64 d b c,
      .vfadd t v y z m, .vfsub t v y z m, .vfmul t v y z m, .vfma t v y z m, .vfms t v y z m, .vfnma t v y z m,
      .vfdiv t v y z m, .vfsqrt t v y m, .vredAdd t d y m, .vscanAdd t v y m, .vcvt t u v y p m, .vcvt u t v y p m,
      .fcvt t u d b, .fcvt u t d b, .vqnt bf t v y c m, .vdqnt bf t v y c m, .vrsc bf v y c e m, .vphcv t v y c m,
      .cld t d b, .phwr f d b c, .omx pol .f32 d b c e, .omx pol .bf16 d b c e, .omxa pol .f32 d b c e,
      .omxa pol .bf16 d b c e, .omxw pol .f32 d b c e, .omxw pol .bf16 d b c e] : List Instr),
    ∃ k, exec i s = s.needRmode k := by
  simp only [List.forall_mem_cons, List.not_mem_nil, false_imp_iff, implies_true, and_true]
  exact ⟨⟨_, rfl⟩, ⟨_, rfl⟩, ⟨_, rfl⟩, ⟨_, rfl⟩, ⟨_, rfl⟩, ⟨_, rfl⟩,
    ⟨_, rfl⟩, ⟨_, rfl⟩, ⟨_, rfl⟩, ⟨_, rfl⟩, ⟨_, rfl⟩, ⟨_, rfl⟩,
    ⟨_, rfl⟩, ⟨_, rfl⟩, ⟨_, rfl⟩, ⟨_, rfl⟩, ⟨_, rfl⟩, ⟨_, rfl⟩,
    ⟨_, rfl⟩, ⟨_, rfl⟩, ⟨_, redRounds_add ht s _⟩, ⟨_, redRounds_add ht s _⟩,
    ⟨_, cvtRounds_of_float (.inl ht) s _⟩, ⟨_, cvtRounds_of_float (.inr ht) s _⟩,
    ⟨_, cvtRounds_of_float (.inl ht) s _⟩, ⟨_, cvtRounds_of_float (.inr ht) s _⟩,
    ⟨_, rfl⟩, ⟨_, rfl⟩, ⟨_, rfl⟩, ⟨_, rfl⟩,
    ⟨_, rfl⟩, ⟨_, rfl⟩, ⟨_, rfl⟩, ⟨_, rfl⟩, ⟨_, rfl⟩, ⟨_, rfl⟩, ⟨_, rfl⟩, ⟨_, rfl⟩⟩

/-- Settles O18, form by form: each is a rounding check around a head that steps on. -/
theorem scalarFloatsAndConversions : Obligations.ScalarFloatsAndConversions := by
  unfold Obligations.ScalarFloatsAndConversions
  refine ⟨fun s d b c hf hr => ?_, fun s d b c hf => ?_, fun s d b c e t u bf f v y z m p pol i hr ht hi => ?_,
    fun s td ts x y d b c p h m hf => ?_, fun s bf t x d b c q m hf ht => ?_⟩
  · have hz32 : (s.me.getX d).toNat % 2 ^ 32 = s.fpS fmtF32 (.x d) := rfl
    have hz64 : (s.me.getX d).toNat = s.fpS fmtF64 (.x d) := (fpS_fmtF64 s (.x d)).symm
    simp only [← fpS_fmtF32, hz32]
    simp only [← fpS_fmtF64, hz64]
    exact ⟨fpOut_flows hr hf d _, fpOut_flows hr hf d _, fpOut_flows hr hf d _, fpOut_flows hr hf d _,
      fpLong_flows hr hf d _ _, fpLong_flows hr hf d _ _, fpOut_flows hr hf d _, fpOut_flows hr hf d _,
      fpOut_flows hr hf d _, fpOut_flows hr hf d _, fpLong_flows hr hf d _ _, fpLong_flows hr hf d _ _⟩
  · simp only [← fpS_fmtF32]
    simp only [← fpS_fmtF64]
    exact ⟨fpPlain_flows hf d _, fpPlain_flows hf d _, fpBool_flows hf d _, fpBool_flows hf d _, fpBool_flows hf d _,
      fpPlain_flows hf d _, fpPlain_flows hf d _, fpBool_flows hf d _, fpBool_flows hf d _, fpBool_flows hf d _⟩
  · obtain ⟨k, hk⟩ := exec_eq_needRmode s d b c e t u bf f v y z m p pol ht i hi
    rw [hk]
    exact needRmode_bad (by omega) k
  · refine ⟨fun hr => ⟨vcvt_flows td ts d b p m hr hf, fcvt_flows td ts x y hr hf⟩, fun hne => vpack_flows_of_ne hne d b c m hf,
      fun heq => ?_, fun hne => vunpk_flows_of_ne hne d b h m hf, fun heq => ?_⟩
    · subst heq; exact vpack_flows_same td d b c m hf
    · subst heq; exact vunpk_flows_same td d b h m hf
  · simp only [← vFmt_of_mem ht, ← groupRegs_of_mem ht, ← blkWidth_eq]
    exact ⟨fun hr => ⟨needRmode_flows hr hf _, needRmode_flows hr hf _, needRmode_flows hr hf _, needRmode_flows hr hf _⟩,
      vemax_flows bf t x b m hf⟩

end Sys2Proof.Machine
end

section
/-! SUPPORT. Deques: what their operations leave alone (R385 to R400). -/
namespace Sys2Proof.Machine

/-! ## The deque of a core (R61 to R64) -/

/-- The deque registers of a core and the number of its spilled blocks. -/
def State.deque (s : State) (n : Nat) : Word × Word × Word × Nat :=
  ((s.core n).dqbase, (s.core n).dqtop, (s.core n).dqbot, (s.core n).nblk)

theorem deque_of_cores {s t : State} (h : t.cores = s.cores) (n : Nat) : t.deque n = s.deque n := by
  unfold State.deque State.core; rw [h]
theorem deque_mapCore {s : State} {m : Nat} {f : Core → Core}
    (h : ((f (s.core m)).dqbase, (f (s.core m)).dqtop, (f (s.core m)).dqbot, (f (s.core m)).nblk) = s.deque m) (n : Nat) :
    (s.mapCore m f).deque n = s.deque n := by
  unfold State.deque
  rw [core_mapCore]
  split
  · next e => rw [e]; exact h
  · rfl
/-- A view of an entry of a table, where every entry of the table has been changed in a way that it does not see. -/
theorem tget_map_view {α β : Type} {g : Nat × α → Nat × α} {v : α → β} (hk : ∀ p, (g p).1 = p.1) (hv : ∀ p, v (g p).2 = v p.2)
    (l : Tab α) (n : Nat) (d : α) : v (tget (l.map g : Tab α) n d) = v (tget l n d) := by
  induction l with
  | nil => rfl
  | cons p l ih =>
    obtain ⟨j, a⟩ := p
    have hcons : tget ((((j, a) :: l).map g : List (Nat × α)) : Tab α) n d =
        if (g (j, a)).1 = n then (g (j, a)).2 else tget (l.map g : Tab α) n d := rfl
    rw [hcons, hk]
    by_cases h : j = n <;> simp [tget, h, hv, ih]
/-- Where every core has been changed, but not its deque. -/
theorem deque_of_map {s t : State} {g : Nat × Core → Nat × Core} (h : t.cores = s.cores.map g) (hk : ∀ p, (g p).1 = p.1)
    (hv : ∀ p, ((g p).2.dqbase, (g p).2.dqtop, (g p).2.dqbot, (g p).2.nblk) = (p.2.dqbase, p.2.dqtop, p.2.dqbot, p.2.nblk))
    (n : Nat) : t.deque n = s.deque n := by
  have := tget_map_view (v := fun k : Core => (k.dqbase, k.dqtop, k.dqbot, k.nblk)) hk hv s.cores n Core.reset
  unfold State.deque State.core
  rw [h]; exact this

/-! ## Lines that come and go, and words that are copied -/

theorem sliceOut_deque (s : State) (cl : Nat) (l : SLine) (n : Nat) : (s.sliceOut cl l).deque n = s.deque n := by
  refine deque_of_map rfl (fun p => ?_) (fun p => ?_) n <;> dsimp only <;> split <;> rfl
theorem sliceIn_deque (s : State) (b pa : Nat) (home : Bool) (m : Nat) : (s.sliceIn b pa home).deque m = s.deque m := by
  have room : ∀ (n : Nat) (mine : SLine → Bool), State.deque
      (if ((s.clu (bankCluster b)).lines.filter mine).length < n then s
       else match ((s.clu (bankCluster b)).lines.filter mine)[(s.freeNat n).1]? with
        | some l => (s.freeNat n).2.sliceOut (bankCluster b) l
        | none => (s.freeNat n).2) m = s.deque m := fun n mine => by
    split
    · rfl
    · split
      · exact sliceOut_deque _ _ _ m
      · rfl
  unfold State.sliceIn
  dsimp only
  split
  · rfl
  · exact room _ _
theorem dirtyAt_deque (s : State) (bank : Option Nat) (pa n : Nat) : (s.dirtyAt bank pa).deque n = s.deque n := by
  cases bank with
  | none => rfl
  | some b => exact sliceIn_deque s b pa true n
theorem homeDirty_deque (s : State) (pa n : Nat) : (s.homeDirty pa).deque n = s.deque n := dirtyAt_deque s _ pa n
theorem recall_deque (s : State) (pa n : Nat) : (s.recall pa).deque n = s.deque n := by
  unfold State.recall
  dsimp only
  split
  · exact (homeDirty_deque _ pa n).trans (deque_of_map rfl (by intro _; rfl) (by intro _; rfl) n)
  · exact deque_of_map rfl (by intro _; rfl) (by intro _; rfl) n
theorem store_cores (s : State) (a n v : Nat) (bad : Bool) : (s.store a n v bad).cores = s.cores := by
  cases bad <;> rfl
theorem store_deque (s : State) (a k v : Nat) (bad : Bool) (n : Nat) : (s.store a k v bad).deque n = s.deque n :=
  deque_of_cores (store_cores s a k v bad) n
theorem copyEntries_deque (s : State) (src dst : Nat → Nat) (n : Nat) : (s.copyEntries src dst).deque n = s.deque n := by
  refine foldl_view (v := fun t : State => t.deque n) (fun t i => ?_) _ s
  dsimp only
  split
  · exact store_deque _ _ _ _ _ n
  · rw [homeDirty_deque, store_deque, recall_deque]
theorem spillHeader_deque (s : State) (key k n : Nat) : (s.spillHeader key k).deque n = s.deque n := by
  unfold State.spillHeader
  rw [homeDirty_deque, store_deque, recall_deque]

/-! ## Refills, and contexts that look again -/

theorem refillDue_deque (s : State) (n m : Nat) : (s.refillDue n).deque m = s.deque m := by
  rw [State.refillDue]
  split
  · exact deque_mapCore (f := fun k => { k with refill := some ((s.core n).nblk - 1) }) rfl m
  · rfl
theorem refillDue_sameMem (s : State) (n : Nat) : SameMem s (s.refillDue n) := (KeepsCoreRegs.refillDue n s).mem
theorem refillDue_cur (s : State) (n : Nat) : (s.refillDue n).cur = s.cur := (KeepsCoreRegs.refillDue n s).cur
theorem refillDue_ctx (s : State) (n c : Nat) : (s.refillDue n).ctx c = s.ctx c := by
  unfold State.ctx; rw [refillDue_ctxs]

/-- Contexts that look again at a port: nothing else of the module is changed. -/
theorem wakeDeque_view {β : Type} {v : State → β} (hv : ∀ (s : State) x, v { s with ctxs := x } = v s) (s : State) (n : Nat) :
    v (s.wakeDeque n) = v s := by
  refine foldl_view (v := v) (fun t j => ?_) _ s
  dsimp only
  split
  · exact hv t _
  · rfl
theorem wakeDeque_agenda (s : State) (n : Nat) : (s.wakeDeque n).agenda = s.agenda := wakeDeque_view (v := State.agenda) (by intro _ _; rfl) s n
theorem wakeDeque_cores (s : State) (n : Nat) : (s.wakeDeque n).cores = s.cores := wakeDeque_view (v := State.cores) (by intro _ _; rfl) s n
theorem wakeDeque_cur (s : State) (n : Nat) : (s.wakeDeque n).cur = s.cur := (KeepsCoreRegs.wakeDeque n s).cur
theorem wakeDeque_sameMem (s : State) (n : Nat) : SameMem s (s.wakeDeque n) := (KeepsCoreRegs.wakeDeque n s).mem
theorem wakeDeque_deque (s : State) (n m : Nat) : (s.wakeDeque n).deque m = s.deque m := deque_of_cores (wakeDeque_cores s n) m
/-- A context that does not wait at the port does not look again. -/
theorem wakeDeque_ctx (s : State) (n c : Nat) (h : (s.ctx c).why ≠ some .deque) : (s.wakeDeque n).ctx c = s.ctx c := by
  refine List.foldlRecOn (motive := fun t : State => t.ctx c = s.ctx c) _ _ rfl fun t ht j _ => ?_
  dsimp only
  split
  · next hw =>
    have hne : c ≠ 16 * n + j := by
      rintro rfl
      simp only [Bool.and_eq_true, decide_eq_true_eq] at hw
      exact h (ht ▸ hw.1)
    rw [State.wake, ctx_mapCtx, if_neg hne, ht]
  · exact ht

end Sys2Proof.Machine
end

section
/-! SUPPORT. Taking and stealing tasks, and refilling a deque (R388, R396 to R399). -/
namespace Sys2Proof.Machine

variable {s : State}

theorem needTask_ok {z : Bool} (h : (s.me.taskf == 0) = z) (k : Out) : s.needTask z k = k := if_pos (by rw [h]; exact beq_self_eq_true z)
theorem needTask_bad {z : Bool} (h : (s.me.taskf == 0) = !z) (k : Out) : s.needTask z k = .next (s.trap 0x08 s.me.taskf) :=
  if_neg (by rw [h]; cases z <;> simp)

theorem ctx_mapCore (s : State) (n c : Nat) (f : Core → Core) : (s.mapCore n f).ctx c = s.ctx c := rfl
theorem stepped_sameMem (s t : State) : SameMem t (s.stepped t) := ⟨rfl, rfl, rfl, rfl⟩
theorem park_sameMem (s : State) (w : Why) : SameMem s (s.park w) := ⟨rfl, rfl, rfl, rfl⟩

/-! ## An entry that was removed (R400, R401) -/

/-- A context that has removed the entry of a frame (R400). -/
def Ctx.holding (x : Ctx) (f : Word) (d : XR) : Ctx := { x.setX d f with pendf := some f, why := some .longOp }
theorem getX_of_x {a b : Ctx} (h : a.x = b.x) (d : XR) : a.getX d = b.getX d := by unfold Ctx.getX; rw [h]
theorem getX_setX_self (x : Ctx) (d : XR) (v : Word) : (x.setX d v).getX d = if d = 0 then 0 else v := by
  rw [getX_setX]; by_cases h : d = 0 <;> simp [h]
@[simp] theorem holding_getX (x : Ctx) (f : Word) (d : XR) : (x.holding f d).getX d = if d = 0 then 0 else f :=
  (getX_of_x (by rfl) d).trans (getX_setX_self x d f)
@[simp] theorem holding_pendf (x : Ctx) (f : Word) (d : XR) : (x.holding f d).pendf = some f := rfl
@[simp] theorem holding_why (x : Ctx) (f : Word) (d : XR) : (x.holding f d).why = some .longOp := rfl
@[simp] theorem holding_pc (x : Ctx) (f : Word) (d : XR) : (x.holding f d).pc = x.pc := setX_pc x d f

theorem taken_ctx (s : State) (c : Nat) (f : Word) (d : XR) : (s.taken c f d).ctx c = (s.ctx c).holding f d :=
  ctx_mapCtx_same s c fun x => x.holding f d
theorem taken_agenda (s : State) (c : Nat) (f : Word) (d : XR) : Instr.loadTask c f.toNat d ∈ (s.taken c f d).agenda :=
  List.mem_append_right _ (List.mem_singleton_self _)
theorem taken_cur (s : State) (c : Nat) (f : Word) (d : XR) : (s.taken c f d).cur = s.cur := rfl
theorem taken_deque (s : State) (c : Nat) (f : Word) (d : XR) (n : Nat) : (s.taken c f d).deque n = s.deque n := rfl
theorem taken_sameMem (s : State) (c : Nat) (f : Word) (d : XR) : SameMem s (s.taken c f d) := ⟨rfl, rfl, rfl, rfl⟩

/-- What a context holds that has taken an entry, when the contexts that wait at the port have looked again. -/
theorem taken_wakeDeque_ctx (s : State) (n c : Nat) (f : Word) (d : XR) :
    ((s.taken c f d).wakeDeque n).ctx c = (s.ctx c).holding f d := by
  have h := taken_ctx s c f d
  rw [wakeDeque_ctx _ n c (by rw [h]; simp), h]

/-- The entry of a TAKE that finds one, removed. -/
def State.takenEntry (s : State) (slot j : Nat) (d : XR) : State :=
  ((((s.mapCore s.myCore fun k => { k with dqbot := w64 j }).refillDue s.myCore).taken s.cur (s.rd64 slot) d).wakeDeque s.myCore)

theorem exec_take (d : XR) (h : s.me.taskf = 0) : exec (.take d) s =
    (if 1 ≤ (s.core s.myCore).dqLen then
      if s.isBad (s.dqSlot s.myCore (((s.core s.myCore).dqbot.toNat + 2 ^ 32 - 1) % 2 ^ 32)) then
        .next (s.trap 0x1A (slotEval s.cur (s.dqSlot s.myCore (((s.core s.myCore).dqbot.toNat + 2 ^ 32 - 1) % 2 ^ 32))))
      else retire s (s.takenEntry (s.dqSlot s.myCore (((s.core s.myCore).dqbot.toNat + 2 ^ 32 - 1) % 2 ^ 32))
        (((s.core s.myCore).dqbot.toNat + 2 ^ 32 - 1) % 2 ^ 32) d)
    else if (s.core s.myCore).refill.isSome || 0 < (s.core s.myCore).nblk then .next ((s.refillDue s.myCore).park .deque)
    else retireAfter s (s.putX d 0) 8) := needTask_ok (by rw [h]; rfl) _

/-- With the newest entry removed, it stands in the register, and its frame's load is under way. -/
theorem takenEntry_effect (s : State) (slot j : Nat) (d : XR) :
    let t := s.stepped (s.takenEntry slot j d)
    t.me.getX d = (if d = 0 then 0 else s.rd64 slot) ∧ t.me.pendf = some (s.rd64 slot) ∧
    (t.core s.myCore).dqbot = BitVec.ofNat 64 j ∧ (t.core s.myCore).dqtop = (s.core s.myCore).dqtop ∧
    t.me.pc = BitVec.ofNat 64 s.nextPc ∧ Instr.loadTask s.cur (s.rd64 slot).toNat d ∈ t.agenda ∧ KeepsMemory s t := by
  intro t
  have hcur : (s.takenEntry slot j d).cur = s.cur := by
    rw [State.takenEntry, wakeDeque_cur, taken_cur, refillDue_cur, mapCore_cur]
  have hme : t.me = (s.me.holding (s.rd64 slot) d).stepTo s.nextPc := by
    rw [stepped_me]
    unfold State.me
    rw [hcur]
    rw [State.takenEntry, taken_wakeDeque_ctx, refillDue_ctx, ctx_mapCore]
  have hdeque : t.deque s.myCore = (s.mapCore s.myCore fun k => { k with dqbot := w64 j }).deque s.myCore := by
    rw [deque_of_cores (stepped_cores _ _), State.takenEntry, wakeDeque_deque, taken_deque, refillDue_deque]
  have hcore : (s.mapCore s.myCore fun k => { k with dqbot := w64 j }).deque s.myCore =
      ((s.core s.myCore).dqbase, (s.core s.myCore).dqtop, w64 j, (s.core s.myCore).nblk) := by
    unfold State.deque; rw [core_mapCore, if_pos rfl]
  obtain ⟨-, htop, hbot, -⟩ := by simpa only [State.deque, Prod.mk.injEq] using hdeque.trans hcore
  refine ⟨?_, ?_, hbot, htop, ?_, ?_, ?_⟩
  · rw [hme]; exact (getX_of_x (stepTo_x _ _) d).trans (holding_getX _ _ _)
  · rw [hme, stepTo_pendf, holding_pendf]
  · rw [hme, stepTo_pc]
  · have h := taken_agenda ((s.mapCore s.myCore fun k => { k with dqbot := w64 j }).refillDue s.myCore) s.cur (s.rd64 slot) d
    change _ ∈ (s.stepped _).agenda
    rw [stepped_agenda, State.takenEntry, wakeDeque_agenda]; exact h
  · exact ((mapCore_sameMem _ _ _).trans ((refillDue_sameMem _ _).trans ((taken_sameMem _ _ _ _).trans
      ((wakeDeque_sameMem _ _).trans (stepped_sameMem s _))))).keeps

/-- A TAKE that finds an entry removes the newest one. -/
theorem take_entry (d : XR) (htask : s.me.taskf = 0) (hf : s.flows) (hlen : 1 ≤ (s.core s.myCore).dqLen)
    (hbad : s.isBad (s.dqSlot s.myCore (((s.core s.myCore).dqbot.toNat + 2 ^ 32 - 1) % 2 ^ 32)) = false) :
    exec (.take d) s = .next (s.stepped (s.takenEntry (s.dqSlot s.myCore (((s.core s.myCore).dqbot.toNat + 2 ^ 32 - 1) % 2 ^ 32))
      (((s.core s.myCore).dqbot.toNat + 2 ^ 32 - 1) % 2 ^ 32) d)) := by
  rw [exec_take d htask, if_pos hlen, hbad, if_neg Bool.false_ne_true, retire_flows hf]

/-- A TAKE with spilled blocks and an empty deque waits. -/
theorem take_waits (d : XR) (htask : s.me.taskf = 0) (hlen : (s.core s.myCore).dqLen = 0) (hblk : 0 < (s.core s.myCore).nblk) :
    exec (.take d) s = .next ((s.refillDue s.myCore).park .deque) := by
  rw [exec_take d htask, if_neg (by rw [hlen]; exact Nat.not_succ_le_zero 0), if_pos (by simp [hblk])]

/-- A TAKE of an empty deque with nothing spilled gives 0. -/
theorem take_empty (d : XR) (htask : s.me.taskf = 0) (hf : s.flows) (hlen : (s.core s.myCore).dqLen = 0)
    (hrefill : (s.core s.myCore).refill = none) (hblk : (s.core s.myCore).nblk = 0) :
    exec (.take d) s = .next (s.steppedFor (s.putX d 0) 8) := by
  rw [exec_take d htask, if_neg (by rw [hlen]; exact Nat.not_succ_le_zero 0), if_neg (by simp [hrefill, hblk]), retireAfter_flows hf]

/-! ## STEAL (R397 to R399) -/

/-- What a context is that is kept out of the rotation to issue its head again. -/
def Ctx.parked (x : Ctx) (w : Why) : Ctx := { x with why := some w, held := w == .moving || (x.held && w.firm), sent := !w.reissues }
theorem park_me (s : State) (w : Why) : (s.park w).me = s.me.parked w := me_mapMe s (·.parked w)
@[simp] theorem parked_why (x : Ctx) (w : Why) : (x.parked w).why = some w := rfl
@[simp] theorem parked_pc (x : Ctx) (w : Why) : (x.parked w).pc = x.pc := rfl
@[simp] theorem parked_x (x : Ctx) (w : Why) : (x.parked w).x = x.x := rfl
/-- A head that is parked for its deque stands where it stood. -/
theorem park_refillDue (s : State) (n : Nat) : ((s.refillDue n).park .deque).me.why = some .deque ∧
    ((s.refillDue n).park .deque).me.pc = s.me.pc ∧ ((s.refillDue n).park .deque).me.x = s.me.x ∧
    KeepsMemory s ((s.refillDue n).park .deque) := by
  have hme : (s.refillDue n).me = s.me := by unfold State.me; rw [refillDue_cur, refillDue_ctx]
  rw [park_me, hme]
  exact ⟨parked_why _ _, parked_pc _ _, parked_x _ _, ((refillDue_sameMem s n).trans (park_sameMem _ _)).keeps⟩

/-- A STEAL counts in its core's rotation, and its probes leave for other cores. -/
theorem steal_sends (d : XR) (b : XS) (htask : s.me.taskf = 0) (hf : s.flows) :
    ∃ u ws, exec (.steal d b) s = .next u ∧ u.me.why = some .deque ∧ u.me.pc = s.me.pc ∧
      (u.core s.myCore).rho = (s.core s.myCore).rho + 1 ∧ Instr.stealProbeRead s.cur ws d ∈ u.agenda ∧ s.myCore ∉ ws ∧ KeepsMemory s u := by
  have hme : ∀ t : State, t.cur = s.cur → t.ctxs = s.ctxs → ∀ e, ((t.park .deque).post e).me = s.me.parked .deque := fun t hcur hctxs e => by
    have ht : t.me = s.me := by unfold State.me State.ctx; rw [hcur, hctxs]
    rw [← ht]; exact park_me t .deque
  refine ⟨_, _, (needTask_ok (by rw [htask]; rfl) _).trans (needNext_flows hf _), ?_, ?_, ?_,
    List.mem_append_right _ (List.mem_singleton_self _), ?_, .of_eq rfl rfl rfl⟩
  · exact congrArg Ctx.why (hme (s.mapCore s.myCore fun k => { k with rho := k.rho + 1 }) rfl rfl _)
  · exact (congrArg Ctx.pc (hme (s.mapCore s.myCore fun k => { k with rho := k.rho + 1 }) rfl rfl _)).trans (parked_pc _ _)
  · exact congrArg Core.rho ((core_mapCore s s.myCore s.myCore fun k => { k with rho := k.rho + 1 }).trans (if_pos rfl))
  · simp

theorem stealing_of_why {c : Nat} (h : (s.ctx c).why = some .deque) : s.stealing c = true := by simp [State.stealing, h]

/-- With a deque's entry found, the exchange of its top follows. -/
theorem stealProbeRead_found {c v : Nat} (vs : List Nat) (d : XR) (hwhy : (s.ctx c).why = some .deque) (hmap : s.remapState v = 1)
    (hfroz : s.portFrozen v (s.ctx c).asid.toNat = false) (hlen : 1 ≤ (s.core v).dqLen) :
    exec (.stealProbeRead c (v :: vs) d) s = .next (s.post (.stealCas c (v :: vs) (s.core v).dqtop.toNat d)) := by
  change execStealProbeRead c (v :: vs) d s = _
  simp [execStealProbeRead, stealing_of_why hwhy, hmap, hfroz, hlen]

theorem finishHead_ctx (s : State) (c : Nat) : (s.finishHead c).ctx c =
    { (s.ctx c).stepTo (s.ctx c).nextPc with why := none, eligFrom := Nat.max ((s.ctx c).stepTo (s.ctx c).nextPc).eligFrom (s.cycle + 1) } := by
  unfold State.finishHead State.wake
  rw [ctx_mapCtx_same, ctx_mapCtx_same]; rfl
theorem finishHead_ctx_pc (s : State) (c : Nat) : ((s.finishHead c).ctx c).pc = BitVec.ofNat 64 (s.ctx c).nextPc := by
  rw [finishHead_ctx]; rfl
theorem finishHead_ctx_why (s : State) (c : Nat) : ((s.finishHead c).ctx c).why = none := by rw [finishHead_ctx]
theorem finishHead_ctx_x (s : State) (c : Nat) : ((s.finishHead c).ctx c).x = (s.ctx c).x := by rw [finishHead_ctx]; rfl
theorem finishHead_sameMem (s : State) (c : Nat) : SameMem s (s.finishHead c) := ⟨rfl, rfl, rfl, rfl⟩
theorem finishHead_deque (s : State) (c n : Nat) : (s.finishHead c).deque n = s.deque n := rfl

/-- With nothing left to probe a STEAL ends with 0. -/
theorem stealProbeRead_nothing {c : Nat} (d : XR) (hwhy : (s.ctx c).why = some .deque) :
    ∃ u, exec (.stealProbeRead c [] d) s = .next u ∧ (u.ctx c).getX d = 0 ∧ (u.ctx c).why = none ∧
      (u.ctx c).pc = BitVec.ofNat 64 (s.ctx c).nextPc ∧ KeepsMemory s u := by
  have hzero : (s.mapCtx c fun x => x.setX d 0).ctx c = (s.ctx c).setX d 0 := ctx_mapCtx_same s c (·.setX d 0)
  have hpc : ((s.ctx c).setX d 0).nextPc = (s.ctx c).nextPc := by
    unfold Ctx.nextPc Ctx.heads; rw [setX_pc, setX_line]
  refine ⟨(s.mapCtx c fun x => x.setX d 0).finishHead c, ?_, ?_, finishHead_ctx_why _ _, ?_, .of_eq rfl rfl rfl⟩
  · change execStealProbeRead c [] d s = _
    simp [execStealProbeRead, stealing_of_why hwhy, State.stealNext]
  · rw [getX_of_x (finishHead_ctx_x _ _), hzero, getX_setX_self]; exact ite_self 0
  · rw [finishHead_ctx_pc, hzero, hpc]

/-- The entry that a STEAL_CAS has removed from the deque of core v. -/
def State.stolenEntry (s : State) (c v : Nat) (top f : Word) (d : XR) : State :=
  (((((s.mapCore v fun k => { k with dqtop := top }).refillDue v).finishHead c).taken c f d).wakeDeque v)

theorem stealCas_takes {c v t : Nat} (vs : List Nat) (d : XR) (hwhy : (s.ctx c).why = some .deque) (hmap : s.remapState v = 1)
    (hfroz : s.portFrozen v (s.ctx c).asid.toNat = false) (hlen : 1 ≤ (s.core v).dqLen) (htop : (s.core v).dqtop.toNat = t)
    (hbad : s.isBad (s.dqSlot v t) = false) :
    exec (.stealCas c (v :: vs) t d) s = .next (s.stolenEntry c v (w64 ((t + 1) % 2 ^ 32)) (s.rd64 (s.dqSlot v t)) d) := by
  change execStealCas c (v :: vs) t d s = _
  rw [execStealCas]
  simp [stealing_of_why hwhy, hmap, hfroz, hlen, htop, hbad]
  rfl

theorem stolenEntry_effect (s : State) (c v : Nat) (top f : Word) (d : XR) :
    let u := s.stolenEntry c v top f d
    (u.ctx c).getX d = (if d = 0 then 0 else f) ∧ (u.ctx c).pendf = some f ∧ (u.core v).dqtop = top ∧
    (u.core v).dqbot = (s.core v).dqbot ∧ (u.ctx c).pc = BitVec.ofNat 64 (s.ctx c).nextPc ∧ KeepsMemory s u := by
  intro u
  have hctx : u.ctx c = ((((s.mapCore v fun k => { k with dqtop := top }).refillDue v).finishHead c).ctx c).holding f d :=
    taken_wakeDeque_ctx _ v c f d
  have hdeque : u.deque v = (s.mapCore v fun k => { k with dqtop := top }).deque v := by
    change (s.stolenEntry c v top f d).deque v = _
    rw [State.stolenEntry, wakeDeque_deque, taken_deque, finishHead_deque, refillDue_deque]
  have hcore : (s.mapCore v fun k => { k with dqtop := top }).deque v = ((s.core v).dqbase, top, (s.core v).dqbot, (s.core v).nblk) := by
    unfold State.deque; rw [core_mapCore, if_pos rfl]
  obtain ⟨-, htop, hbot, -⟩ := by simpa only [State.deque, Prod.mk.injEq] using hdeque.trans hcore
  refine ⟨?_, ?_, htop, hbot, ?_, ?_⟩
  · rw [hctx]; exact holding_getX _ _ _
  · rw [hctx]; exact holding_pendf _ _ _
  · rw [hctx, holding_pc, finishHead_ctx_pc, refillDue_ctx, ctx_mapCore]
  · exact ((mapCore_sameMem _ _ _).trans ((refillDue_sameMem _ _).trans ((finishHead_sameMem _ _).trans
      ((taken_sameMem _ _ _ _).trans (wakeDeque_sameMem _ _))))).keeps

end Sys2Proof.Machine
end

section
/-! SUPPORT. Loading a task and refilling a deque (R388, R400). -/
namespace Sys2Proof.Machine

variable {s : State}

/-! ## The reply of a long op (R91) -/

/-- Of a context whose long op is answered, only its place in the rotation and its pending fill change. -/
theorem reply_ctx_view {β : Type} {v : Ctx → β} (hf : ∀ x f, v { x with fill := f } = v x)
    (hw : ∀ x w e, v { x with why := w, eligFrom := e } = v x) (s : State) (c : Nat) : v ((s.reply c).ctx c) = v (s.ctx c) := by
  unfold State.reply
  split
  · rw [State.wake, ctx_mapCtx_same, ctx_mapCtx_same]; exact (hw _ _ _).trans (hf _ _)
  · rfl
theorem reply_ctx_why {c : Nat} (h : (s.ctx c).why = some .longOp) : ((s.reply c).ctx c).why = none := by
  rw [State.reply, if_pos h, State.wake, ctx_mapCtx_same]
theorem reply_sameMem (s : State) (c : Nat) : SameMem s (s.reply c) := by
  unfold State.reply
  split <;> exact ⟨rfl, rfl, rfl, rfl⟩
theorem acquireOf_sameMem (s : State) (c : Nat) (sc : Scope) (rs : List ReadTag) : SameMem s (s.acquireOf c sc rs) := by
  unfold State.acquireOf
  dsimp only
  split <;> exact ⟨rfl, rfl, rfl, rfl⟩
theorem acquireOf_ctx (s : State) (c : Nat) (sc : Scope) (rs : List ReadTag) (e : Nat) : (s.acquireOf c sc rs).ctx e = s.ctx e := by
  unfold State.ctx; rw [acquireOf_ctxs]

/-! ## LOAD_TASK (R400) -/

theorem taskLoaded_of_resume_none {c : Nat} (h : (s.ctx c).resume = none) : s.taskLoaded c = s.reply c := by
  unfold State.taskLoaded; rw [h]

/-- A context with its task's frame read: the task is in force, and the register of its TAKE holds the frame's address. -/
def Ctx.withTask (x : Ctx) (f fctx scptr : Word) (d : XR) : Ctx := (x.putTask f fctx scptr).setX d f
theorem withTask_getX (x : Ctx) (f fctx scptr : Word) (d : XR) : (x.withTask f fctx scptr d).getX d = if d = 0 then 0 else f :=
  getX_setX_self _ d f
@[simp] theorem withTask_taskf (x : Ctx) (f fctx scptr : Word) (d : XR) : (x.withTask f fctx scptr d).taskf = loadedScptr f := setX_taskf _ d f
@[simp] theorem withTask_shadow (x : Ctx) (f fctx scptr : Word) (d : XR) : (x.withTask f fctx scptr d).shadow = true := setX_shadow _ d f
@[simp] theorem withTask_pendf (x : Ctx) (f fctx scptr : Word) (d : XR) : (x.withTask f fctx scptr d).pendf = none := setX_pendf _ d f
@[simp] theorem withTask_why (x : Ctx) (f fctx scptr : Word) (d : XR) : (x.withTask f fctx scptr d).why = x.why := setX_why _ d f
@[simp] theorem withTask_resume (x : Ctx) (f fctx scptr : Word) (d : XR) : (x.withTask f fctx scptr d).resume = x.resume := setX_resume _ d f
@[simp] theorem withTask_fctxS (x : Ctx) (f fctx scptr : Word) (d : XR) : (x.withTask f fctx scptr d).fctxS = fctx := setX_fctxS _ d f
@[simp] theorem withTask_scptrS (x : Ctx) (f fctx scptr : Word) (d : XR) : (x.withTask f fctx scptr d).scptrS = scptr := setX_scptrS _ d f
@[simp] theorem withTask_fctxB (x : Ctx) (f fctx scptr : Word) (d : XR) : (x.withTask f fctx scptr d).fctxB = x.fctxB := setX_fctxB _ d f
@[simp] theorem withTask_scptrB (x : Ctx) (f fctx scptr : Word) (d : XR) : (x.withTask f fctx scptr d).scptrB = x.scptrB := setX_scptrB _ d f

/-- What the shadow copies are loaded with from the frame at a: its own words or, where its inh bit is set, the base copies. -/
def State.frameFctx (s : State) (x : Ctx) (a : Nat) : Word := if (s.rd64 a).getLsbD 0 then x.fctxB else loadedFctx (s.rd64 (a + 24))
def State.frameScptr (s : State) (x : Ctx) (a : Nat) : Word := if (s.rd64 a).getLsbD 0 then x.scptrB else loadedScptr (s.rd64 (a + 32))
/-- The state with the frame at a read and its task in force. -/
def State.inForce (s : State) (c f a : Nat) (d : XR) : State :=
  (s.acquireOf c .device (s.tagsOf c true [a, a + 24, a + 32])).mapCtx c fun x => x.withTask (w64 f) (s.frameFctx x a) (s.frameScptr x a) d
theorem inForce_ctx (s : State) (c f a : Nat) (d : XR) :
    (s.inForce c f a d).ctx c = (s.ctx c).withTask (w64 f) (s.frameFctx (s.ctx c) a) (s.frameScptr (s.ctx c) a) d := by
  rw [State.inForce, ctx_mapCtx_same, acquireOf_ctx]

theorem loadTask_loads {c f : Nat} {d : XR} {p : Piece} (hpend : (s.ctx c).pendf = some (BitVec.ofNat 64 f)) (hresume : (s.ctx c).resume = none)
    (hframe : s.frameAt (s.asker c) (s.ctx c).walkFail .load f 0 40 = .ok [p]) (hbad : s.badIn p.key 8 = none)
    (hbad' : s.badIn (p.key + 24) 16 = none) : exec (.loadTask c f d) s = .next ((s.inForce c f p.key d).reply c) := by
  change execLoadTask c f d s = _
  have hpend' : ¬ (s.ctx c).pendf ≠ some (w64 f) := not_not_intro hpend
  have hok : ¬ ((s.badIn p.key 8).isSome || (s.badIn (p.key + 24) 16).isSome) = true := by simp [hbad, hbad']
  rw [execLoadTask, if_neg hpend', hframe]
  refine (if_neg hok).trans (congrArg Host.Outcome.next (taskLoaded_of_resume_none (s := s.inForce c f p.key d) ?_))
  rw [inForce_ctx, withTask_resume, hresume]

theorem reply_inForce {c : Nat} (f a : Nat) (d : XR) (hwhy : (s.ctx c).why = some .longOp) :
    let t := (s.inForce c f a d).reply c
    (t.ctx c).taskf = (BitVec.ofNat 64 f) &&& 0x00FFFFFFFFFFFFC0 ∧ (t.ctx c).shadow = true ∧ (t.ctx c).pendf = none ∧
    (t.ctx c).why = none ∧ (t.ctx c).getX d = (if d = 0 then 0 else BitVec.ofNat 64 f) ∧
    ((s.rd64 a).getLsbD 0 = true → (t.ctx c).fctxS = (s.ctx c).fctxB ∧ (t.ctx c).scptrS = (s.ctx c).scptrB) ∧
    ((s.rd64 a).getLsbD 0 = false → (t.ctx c).fctxS = (s.rd64 (a + 24)) &&& ~~~0xFFF00000 ∧
      (t.ctx c).scptrS = (s.rd64 (a + 32)) &&& 0x00FFFFFFFFFFFFC0) ∧
    (t.ctx c).fctxB = (s.ctx c).fctxB ∧ (t.ctx c).scptrB = (s.ctx c).scptrB ∧ KeepsMemory s t := by
  intro t
  have hview : ∀ {β : Type} {v : Ctx → β}, (∀ x f, v { x with fill := f } = v x) → (∀ x w e, v { x with why := w, eligFrom := e } = v x) →
      v (t.ctx c) = v ((s.ctx c).withTask (w64 f) (s.frameFctx (s.ctx c) a) (s.frameScptr (s.ctx c) a) d) := fun hf hw =>
    (reply_ctx_view hf hw _ c).trans (by rw [inForce_ctx])
  have hfctx : (t.ctx c).fctxS = s.frameFctx (s.ctx c) a :=
    (hview (v := Ctx.fctxS) (by intro _ _; rfl) (by intro _ _ _; rfl)).trans (withTask_fctxS ..)
  have hscptr : (t.ctx c).scptrS = s.frameScptr (s.ctx c) a :=
    (hview (v := Ctx.scptrS) (by intro _ _; rfl) (by intro _ _ _; rfl)).trans (withTask_scptrS ..)
  refine ⟨?_, ?_, ?_, reply_ctx_why (by rw [inForce_ctx, withTask_why]; exact hwhy), ?_,
    fun h => ⟨hfctx.trans (if_pos h), hscptr.trans (if_pos h)⟩,
    fun h => ⟨hfctx.trans (if_neg (ne_true_of_eq_false h)), hscptr.trans (if_neg (ne_true_of_eq_false h))⟩, ?_, ?_,
    ((acquireOf_sameMem _ _ _ _).trans ((mapCtx_sameMem _ _ _).trans (reply_sameMem _ _))).keeps⟩
  · exact (hview (v := Ctx.taskf) (by intro _ _; rfl) (by intro _ _ _; rfl)).trans (withTask_taskf ..)
  · exact (hview (v := Ctx.shadow) (by intro _ _; rfl) (by intro _ _ _; rfl)).trans (withTask_shadow ..)
  · exact (hview (v := Ctx.pendf) (by intro _ _; rfl) (by intro _ _ _; rfl)).trans (withTask_pendf ..)
  · exact (getX_of_x (hview (v := Ctx.x) (by intro _ _; rfl) (by intro _ _ _; rfl)) d).trans (withTask_getX ..)
  · exact (hview (v := Ctx.fctxB) (by intro _ _; rfl) (by intro _ _ _; rfl)).trans (withTask_fctxB ..)
  · exact (hview (v := Ctx.scptrB) (by intro _ _; rfl) (by intro _ _ _; rfl)).trans (withTask_scptrB ..)

/-! ## DEQUE_REFILL (R386, R388) -/

theorem refill_idle {n : Nat} (h : (s.core n).refill = none) : exec (.dequeRefill n) s = .next s := by
  change execDequeRefill n s = _
  rw [execDequeRefill, h]

/-- The block at r that a refill of core n's deque brings back, with b blocks left. -/
def State.refilled (s : State) (n b r : Nat) (top : Nat) : State :=
  let u := (s.copyEntries (fun i => r + 512 + 512 * b + 8 * i) fun i => s.dqSlot n (top + i)).spillHeader r b
  (((u.mapCore n fun k => { k with refill := none, nblk := b, dqtop := w64 (top % 2 ^ 32) }).refillDue n).wakeDeque n)

theorem dequeRefill_refills {n b r : Nat} (hb : (s.core n).refill = some b) (hruns : s.portRuns n = true) (hlen : (s.core n).dqLen ≤ 192)
    (hspill : s.spillAt n .load = .at r) (hbad : s.badIn (r + 512 + 512 * b) 512 = none)
    (hrange : ∀ i, i < 64 → s.inRange (s.dqSlot n ((s.core n).dqtop.toNat + 2 ^ 32 - 64 + i)) = false) :
    exec (.dequeRefill n) s = .next (s.refilled n b r ((s.core n).dqtop.toNat + 2 ^ 32 - 64)) := by
  change execDequeRefill n s = _
  have hany : ((List.range 64).any fun i => s.inRange (s.dqSlot n ((s.core n).dqtop.toNat + 2 ^ 32 - 64 + i))) = false := by
    simpa using hrange
  have hfull : decide (192 < (s.core n).dqLen) = false := decide_eq_false (by omega)
  rw [execDequeRefill, hb]
  dsimp only
  rw [hruns, hspill, hfull]
  simp only [Bool.not_true, Bool.false_eq_true, if_false, Nat.mul_zero, Nat.add_zero, hbad, Option.isSome_none, hany]
  rfl

theorem refilled_deque (s : State) (n b r top : Nat) : (s.refilled n b r top).deque n =
    ((s.core n).dqbase, w64 (top % 2 ^ 32), (s.core n).dqbot, b) := by
  have hu : ((s.copyEntries (fun i => r + 512 + 512 * b + 8 * i) fun i => s.dqSlot n (top + i)).spillHeader r b).deque n = s.deque n := by
    rw [spillHeader_deque, copyEntries_deque]
  have hcore : ∀ u : State, u.deque n = s.deque n →
      (u.mapCore n fun k => { k with refill := none, nblk := b, dqtop := w64 (top % 2 ^ 32) }).deque n =
      ((s.core n).dqbase, w64 (top % 2 ^ 32), (s.core n).dqbot, b) := fun u h => by
    obtain ⟨hbase, -, hbot, -⟩ := by simpa only [State.deque, Prod.mk.injEq] using h
    unfold State.deque
    rw [core_mapCore, if_pos rfl]
    simp only [hbase, hbot]
  rw [State.refilled, wakeDeque_deque, refillDue_deque]
  exact hcore _ hu

end Sys2Proof.Machine
end
section
/-! CERTIFICATE. Taking, stealing, loading and refilling tasks: O36. -/
namespace Sys2Proof.Machine

/-- The top of a deque 64 entries further up. -/
theorem top_sub_64 {w : Word} (h : 64 ≤ w.toNat) (h' : w.toNat < 2 ^ 32) : w64 ((w.toNat + 2 ^ 32 - 64) % 2 ^ 32) = w - 64 := by
  have hm : (w.toNat + 2 ^ 32 - 64) % 2 ^ 32 = w.toNat - 64 := by omega
  rw [hm]
  apply BitVec.eq_of_toNat_eq
  rw [BitVec.toNat_sub_of_le (by simpa [BitVec.le_def] using h)]
  exact Nat.mod_eq_of_lt (by omega)

/-- Settles O36: what each form does where it completes, and what the port of a deque leaves alone (`refillDue_deque`, `wakeDeque_ctx`). -/
theorem deques : Obligations.Deques := by
  unfold Obligations.Deques
  refine ⟨fun s d => ⟨fun h => ?_, fun h hf hlen hbad => ?_, fun h hf hlen hr hb => take_empty d h hf hlen hr hb,
      fun h hlen hb => ?_⟩, fun s d b c v t vs => ⟨fun h => ?_, steal_sends d b, fun hw hm hf hl => stealProbeRead_found vs d hw hm hf hl,
      fun hw => stealProbeRead_nothing d hw, fun hw hm hf hl ht hb => ?_⟩,
    fun s c f d p hpend hwhy hresume hframe hbad hbad' => ?_, fun s n b r => ⟨refill_idle, fun hb hruns hlen hspill hbad hrange hlt hle => ?_⟩⟩
  · exact needTask_bad (beq_false_of_ne h) _
  · exact ⟨_, take_entry d h hf hlen hbad, takenEntry_effect s _ _ d⟩
  · exact ⟨_, take_waits d h hlen hb, park_refillDue s _⟩
  · exact needTask_bad (beq_false_of_ne h) _
  · exact ⟨_, stealCas_takes vs d hw hm hf hl ht hb, stolenEntry_effect s c v _ _ d⟩
  · exact ⟨_, loadTask_loads hpend hresume hframe hbad hbad', reply_inForce f p.key d hwhy⟩
  · have hdeque := refilled_deque s n b r ((s.core n).dqtop.toNat + 2 ^ 32 - 64)
    simp only [State.deque, Prod.mk.injEq] at hdeque
    obtain ⟨-, htop, hbot, hblk⟩ := hdeque
    exact ⟨_, dequeRefill_refills hb hruns hlen hspill hbad hrange, htop.trans (top_sub_64 hle hlt), hblk, hbot⟩

end Sys2Proof.Machine
end

section
/-! SUPPORT. What a write at a word's home leaves alone, and a push on a deque that has room (R312, R387, R392). -/
namespace Sys2Proof.Machine

/-! ## Blocks that an OMU has yet to read (R214) -/

/-- The blocks of a cluster's scratchpads that its OMU has yet to read. -/
def State.toRead (s : State) (cl : Nat) := (s.clu cl).ranges

theorem inRange_congr {s t : State} (h : ∀ cl, t.toRead cl = s.toRead cl) (a : Nat) : t.inRange a = s.inRange a := by
  have hr := h (clusterOf (spadCore a))
  unfold State.toRead at hr
  unfold State.inRange; rw [hr]
theorem toRead_mapClu {s : State} {m : Nat} {f : Cluster → Cluster} (h : (f (s.clu m)).ranges = (s.clu m).ranges) (cl : Nat) :
    (s.mapClu m f).toRead cl = s.toRead cl := by
  unfold State.toRead
  rw [clu_mapClu]
  split
  · next e => rw [e]; exact h
  · rfl
theorem toRead_of_map {s t : State} {g : Nat × Cluster → Nat × Cluster} (h : t.clus = s.clus.map g) (hk : ∀ p, (g p).1 = p.1)
    (hv : ∀ p, (g p).2.ranges = p.2.ranges) (cl : Nat) : t.toRead cl = s.toRead cl := by
  have := tget_map_view (v := Cluster.ranges) hk hv s.clus cl Cluster.reset
  unfold State.toRead State.clu
  rw [h]; exact this

theorem sliceOut_toRead (s : State) (c : Nat) (l : SLine) (cl : Nat) : (s.sliceOut c l).toRead cl = s.toRead cl :=
  toRead_mapClu (f := fun k => { k with lines := k.lines.erase l }) rfl cl
theorem sliceIn_toRead (s : State) (b pa : Nat) (home : Bool) (cl : Nat) : (s.sliceIn b pa home).toRead cl = s.toRead cl := by
  have room : ∀ (n : Nat) (mine : SLine → Bool), State.toRead
      (if ((s.clu (bankCluster b)).lines.filter mine).length < n then s
       else match ((s.clu (bankCluster b)).lines.filter mine)[(s.freeNat n).1]? with
        | some l => (s.freeNat n).2.sliceOut (bankCluster b) l
        | none => (s.freeNat n).2) cl = s.toRead cl := fun n mine => by
    split
    · rfl
    · split
      · exact sliceOut_toRead _ _ _ cl
      · rfl
  unfold State.sliceIn
  dsimp only
  split
  · rfl
  · exact (toRead_mapClu (by rfl) cl).trans (room _ _)
theorem sliceDirty_toRead (s : State) (c pa cl : Nat) : (s.sliceDirty c pa).toRead cl = s.toRead cl := toRead_mapClu (by rfl) cl
theorem homeDirty_toRead (s : State) (pa cl : Nat) : (s.homeDirty pa).toRead cl = s.toRead cl := by
  unfold State.homeDirty State.dirtyAt
  split
  · exact (sliceDirty_toRead _ _ _ cl).trans (sliceIn_toRead _ _ _ _ cl)
  · rfl
theorem recall_toRead (s : State) (pa cl : Nat) : (s.recall pa).toRead cl = s.toRead cl := by
  unfold State.recall
  dsimp only
  split
  · exact (homeDirty_toRead _ pa cl).trans (toRead_of_map rfl (by intro _; rfl) (by intro _; rfl) cl)
  · exact toRead_of_map rfl (by intro _; rfl) (by intro _; rfl) cl

/-! ## The note of a write (R278, R294) -/

/-- t has the memory and the cores of s, and every OMU has yet to read the same blocks. -/
structure NotesOnly (s t : State) : Prop where
  mem : SameMem s t
  cores : t.cores = s.cores
  toRead : ∀ cl, t.toRead cl = s.toRead cl

theorem NotesOnly.refl (s : State) : NotesOnly s s := ⟨.refl s, rfl, fun _ => rfl⟩
theorem NotesOnly.trans {s t u : State} (h : NotesOnly s t) (k : NotesOnly t u) : NotesOnly s u :=
  ⟨h.mem.trans k.mem, k.cores.trans h.cores, fun cl => (k.toRead cl).trans (h.toRead cl)⟩
theorem NotesOnly.mapClu (s : State) (b : Nat) {f : Cluster → Cluster} (hf : ∀ k, (f k).ranges = k.ranges) : NotesOnly s (s.mapClu b f) :=
  ⟨mapClu_sameMem .., rfl, toRead_mapClu (hf _)⟩
theorem NotesOnly.freeNat (s : State) (n : Nat) : NotesOnly s (s.freeNat n).2 := ⟨⟨rfl, rfl, rfl, rfl⟩, rfl, fun _ => rfl⟩
theorem NotesOnly.setTag (s : State) (c : Nat) (rel : Option Scope) (home : Bool) (w : Nat) : NotesOnly s (s.setTag c rel home w) :=
  ⟨⟨rfl, rfl, rfl, rfl⟩, rfl, fun _ => rfl⟩
theorem NotesOnly.traceWrite (s : State) (c : Nat) (old : WTag) (w b : Nat) : NotesOnly s (s.traceWrite c old w b) := by
  have traced : ∀ (r : Nat × State) (m : Nat) (f : Cluster → Cluster), (∀ k, (f k).ranges = k.ranges) → NotesOnly s r.2 →
      NotesOnly s (if r.1 = 0 then r.2.mapClu m f else r.2) := fun r m f hf h => by
    split
    · exact h.trans (.mapClu _ m hf)
    · exact h
  unfold State.traceWrite
  dsimp only
  split
  · refine traced _ _ _ (by intro _; rfl) ?_
    split
    · exact .refl s
    · exact .freeNat s 2
  · exact .refl s
theorem NotesOnly.tagWrite (s : State) (c : Nat) (rel : Option Scope) (home : Bool) (w : Nat) : NotesOnly s (s.tagWrite c rel home w) := by
  unfold State.tagWrite State.tagAt
  split
  · exact .setTag s c rel home w
  · exact (NotesOnly.traceWrite s c _ w _).trans (.setTag _ c rel home w)

/-! ## A write of a word at its home (R312, R384, R395) -/

/-- Waking the sleepers on a word: nothing of the module's units is changed. -/
theorem wakeSyncs_view {β : Type} {v : State → β} (hv : ∀ (s : State) x y z, v { s with ctxs := x, sleepers := y, agenda := z } = v s)
    (s : State) (w : Nat) : v (s.wakeSyncs w) = v s := by
  unfold State.wakeSyncs
  split
  · dsimp only
    refine (foldl_view (v := v) (f := fun t h => t.post (.waitTableEntryGrant h)) (fun t h => hv t t.ctxs t.sleepers _) _ _).trans ?_
    refine (foldl_view (v := v) (fun t q => ?_) _ _).trans (hv s s.ctxs _ s.agenda)
    split
    · rfl
    · exact hv t _ t.sleepers t.agenda
  · rfl
theorem wakeSyncs_deque (s : State) (w n : Nat) : (s.wakeSyncs w).deque n = s.deque n :=
  wakeSyncs_view (v := fun t : State => t.deque n) (by intro _ _ _ _; rfl) s w
theorem wakeSyncs_toRead (s : State) (w cl : Nat) : (s.wakeSyncs w).toRead cl = s.toRead cl :=
  wakeSyncs_view (v := fun t : State => t.toRead cl) (by intro _ _ _ _; rfl) s w

/-- The store of a write at the home, where every copy of the line has been recalled. -/
def State.homeStore (s : State) (loc : Nat) (v : Word) : State := (if isSpad loc then s else s.recall loc).store loc 8 v.toNat false

theorem homeStore_deque (s : State) (loc : Nat) (v : Word) (n : Nat) : (s.homeStore loc v).deque n = s.deque n := by
  unfold State.homeStore
  rw [store_deque]
  split
  · rfl
  · exact recall_deque s loc n
theorem homeStore_toRead (s : State) (loc : Nat) (v : Word) (cl : Nat) : (s.homeStore loc v).toRead cl = s.toRead cl := by
  change State.toRead (if isSpad loc then s else s.recall loc) cl = _
  split
  · rfl
  · exact recall_toRead s loc cl

/-- What stands around the store of a write at the home: the note of the write, the line that the home holds dirty, the sleepers on
the word, and the flit of a word of another package. -/
theorem homeWrite_around (s : State) (c loc : Nat) (v : Word) (rel : Option Scope) : SameMem (s.homeStore loc v) (s.homeWrite c loc v rel) ∧
    (∀ n, (s.homeWrite c loc v rel).deque n = s.deque n) ∧ ∀ cl, (s.homeWrite c loc v rel).toRead cl = s.toRead cl := by
  have htag := NotesOnly.tagWrite (s.homeStore loc v) c rel true loc
  have hdirty : ∀ t : State, SameMem t (if isSpad loc then t else t.homeDirty loc) ∧
      (∀ n, (if isSpad loc then t else t.homeDirty loc).deque n = t.deque n) ∧
      ∀ cl, (if isSpad loc then t else t.homeDirty loc).toRead cl = t.toRead cl := fun t => by
    split
    · exact ⟨.refl t, fun _ => rfl, fun _ => rfl⟩
    · exact ⟨dirtyAt_sameMem .., homeDirty_deque t loc, homeDirty_toRead t loc⟩
  have hsent : ∀ t : State, SameMem (s.homeStore loc v) t → (∀ n, t.deque n = s.deque n) → (∀ cl, t.toRead cl = s.toRead cl) → ∀ b,
      SameMem (s.homeStore loc v) (if isRemote loc then t.sendOut noCtx (paPkg loc) b else t) ∧
      (∀ n, (if isRemote loc then t.sendOut noCtx (paPkg loc) b else t).deque n = s.deque n) ∧
      ∀ cl, (if isRemote loc then t.sendOut noCtx (paPkg loc) b else t).toRead cl = s.toRead cl := fun t hm hd hr b => by
    split
    · exact ⟨hm.trans ⟨rfl, rfl, rfl, rfl⟩, hd, hr⟩
    · exact ⟨hm, hd, hr⟩
  obtain ⟨hm, hd, hr⟩ := hdirty ((s.homeStore loc v).tagWrite c rel true loc)
  refine hsent _ (htag.mem.trans (hm.trans (wakeSyncs_sameMem _ loc))) (fun n => ?_) (fun cl => ?_) _
  · rw [wakeSyncs_deque]; exact (hd n).trans ((deque_of_cores htag.cores n).trans (homeStore_deque s loc v n))
  · rw [wakeSyncs_toRead]; exact (hr cl).trans ((htag.toRead cl).trans (homeStore_toRead s loc v cl))

theorem homeWrite_form {s : State} (h : s.form) (c loc : Nat) (v : Word) (rel : Option Scope) : (s.homeWrite c loc v rel).form := by
  refine (homeWrite_around s c loc v rel).1.form (form_store _ _ _ _ _ ?_)
  split
  · exact h
  · exact (recall_sameMem s loc).form h
/-- A word written at its home holds what was written. -/
theorem rd64_homeWrite {s : State} (h : s.form) (c loc : Nat) (v : Word) (rel : Option Scope) : (s.homeWrite c loc v rel).rd64 loc = v := by
  have hform : State.form (if isSpad loc then s else s.recall loc) := by
    split
    · exact h
    · exact (recall_sameMem s loc).form h
  unfold State.rd64
  rw [(homeWrite_around s c loc v rel).1.rdN, State.homeStore, rdN_store _ _ _ _ hform]
  apply BitVec.eq_of_toNat_eq
  have hv : v.toNat < 2 ^ 64 := v.isLt
  rw [BitVec.toNat_ofNat, Nat.mod_eq_of_lt (a := v.toNat) (by omega), Nat.mod_eq_of_lt hv]

/-! ## A push on a deque that has room (R387, R392) -/

theorem dqSlot_of_deque {s t : State} {n : Nat} (h : t.deque n = s.deque n) (j : Nat) : t.dqSlot n j = s.dqSlot n j := by
  have hb : (t.core n).dqbase = (s.core n).dqbase := congrArg Prod.fst h
  unfold State.dqSlot; rw [hb]
theorem dqbot_of_deque {s t : State} {n : Nat} (h : t.deque n = s.deque n) : (t.core n).dqbot = (s.core n).dqbot :=
  congrArg (fun q => q.2.2.1) h
theorem dqLen_of_deque {s t : State} {n : Nat} (h : t.deque n = s.deque n) : (t.core n).dqLen = (s.core n).dqLen := by
  have ht : (t.core n).dqtop = (s.core n).dqtop := congrArg (fun q => q.2.1) h
  rw [Core.dqLen, Core.dqLen, ht, dqbot_of_deque h]
theorem dqSlot_spad (s : State) (n j : Nat) : 2 ^ 52 ≤ s.dqSlot n j := by
  unfold State.dqSlot spadKey; omega

theorem push_room {s : State} {n : Nat} (f : Word) (hrange : s.inRange (s.dqSlot n (s.core n).dqbot.toNat) = false) (hlen : (s.core n).dqLen < 256) :
    s.push n f = .done ((s.portAsks n).pushSlot n f) := by
  rw [State.push, hrange, if_neg Bool.false_ne_true, if_pos hlen]

theorem portAsks_deque (s : State) (n m : Nat) : (s.portAsks n).deque m = s.deque m := by
  unfold State.portAsks
  split <;> rfl
theorem portAsks_sameMem (s : State) (n : Nat) : SameMem s (s.portAsks n) := by
  unfold State.portAsks
  split <;> exact ⟨rfl, rfl, rfl, rfl⟩
theorem pushSlot_sameMem (s : State) (n : Nat) (f : Word) :
    SameMem (s.store (s.dqSlot n (s.core n).dqbot.toNat) 8 f.toNat false) (s.pushSlot n f) := ⟨rfl, rfl, rfl, rfl⟩
/-- One more entry stands in a deque that has room after a push. -/
theorem pushSlot_dqLen (s : State) (n : Nat) (f : Word) (h : (s.core n).dqLen < 255) :
    ((s.pushSlot n f).core n).dqLen = (s.core n).dqLen + 1 := by
  have hcore : (s.pushSlot n f).core n = { s.core n with dqbot := w64 (((s.core n).dqbot.toNat + 1) % 2 ^ 32) } :=
    (core_mapCore _ n n _).trans (if_pos rfl)
  rw [hcore]
  rw [Core.dqLen] at h ⊢
  rw [Core.dqLen]
  have hw : (w64 (((s.core n).dqbot.toNat + 1) % 2 ^ 32)).toNat = ((s.core n).dqbot.toNat + 1) % 2 ^ 32 :=
    Nat.mod_eq_of_lt (by omega)
  dsimp only
  rw [hw]
  omega

end Sys2Proof.Machine
end

section
/-! SUPPORT. SPAWN, JOINA, TDONE, SYNC and SLICE where they complete (R392 to R395, R403, R404). -/
namespace Sys2Proof.Machine

variable {s : State}

/-- A read that meets no error of any kind goes on at once. -/
theorem readCheck_clean (harmed : s.me.armed = none) (hrec : s.me.recBad = false) (home : Bool) {ps : List Piece} (hbad : s.badPiece ps = none)
    (k : State → Out) : s.readCheck home ps k = k s := by
  have hread : s.meetRead home ps = s := by unfold State.meetRead; rw [harmed]
  have hrecord : s.meetRecord ps = s := by cases ps <;> simp [State.meetRecord, hrec]
  unfold State.readCheck
  rw [hread, hrecord]
  dsimp only
  rw [hbad]

/-! ## Long ops -/

theorem steppedLong_me_view {β : Type} {v : Ctx → β} (hv : ∀ x w, v { x with why := w } = v x) (s t : State) :
    v (s.steppedLong t).me = v (t.me.stepTo s.nextPc) := by
  have hme : (s.steppedLong t).me = { t.me with why := some .longOp }.stepTo s.nextPc := by
    unfold State.steppedLong
    rw [stepped_me]
    exact congrArg (·.stepTo s.nextPc) (me_mapMe t fun c => { c with why := some .longOp })
  rw [hme]
  exact hv (t.me.stepTo s.nextPc) (some .longOp)
theorem steppedLong_pc (s t : State) : (s.steppedLong t).me.pc = BitVec.ofNat 64 s.nextPc := steppedLong_me_view (by intro _ _; rfl) s t
theorem steppedLong_getX (s t : State) (d : XR) : (s.steppedLong t).me.getX d = t.me.getX d :=
  (getX_of_x (steppedLong_me_view (v := Ctx.x) (by intro _ _; rfl) s t) d).trans (getX_of_x (stepTo_x _ _) d)
theorem steppedLong_sameMem (s t : State) : SameMem t (s.steppedLong t) := ⟨rfl, rfl, rfl, rfl⟩
theorem putX_getX (s : State) (d : XR) (v : Word) : (s.putX d v).me.getX d = if d = 0 then 0 else v := by
  have hme : (s.putX d v).me = s.me.setX d v := me_mapMe s (·.setX d v)
  rw [hme, getX_setX_self]

theorem mapMe_sameMem (s : State) (f : Ctx → Ctx) : SameMem s (s.mapMe f) := ⟨rfl, rfl, rfl, rfl⟩
theorem putX_sameMem (s : State) (d : XR) (v : Word) : SameMem s (s.putX d v) := ⟨rfl, rfl, rfl, rfl⟩

/-! ## SPAWN (R392) -/

/-- The frame of a child whose address stands in its deque, its parent's in the frame. -/
def State.spawned (s : State) (key : Nat) (child parent : Word) : State :=
  (((s.release s.cur .device).homeWrite s.cur key parent (some .device)).portAsks s.myCore).pushSlot s.myCore child
/-- SPAWN's own state: the deque's length is its result. -/
def State.spawnDone (s : State) (key : Nat) (d : XR) (child parent : Word) : State :=
  let u := s.spawned key child parent
  ((u.refillDue s.myCore).wakeDeque s.myCore).putX d (w64 (u.core s.myCore).dqLen)

theorem release_deque (s : State) (c : Nat) (sc : Scope) (n : Nat) : (s.release c sc).deque n = s.deque n := rfl
theorem release_toRead (s : State) (c : Nat) (sc : Scope) (cl : Nat) : (s.release c sc).toRead cl = s.toRead cl := rfl
theorem release_sameMem (s : State) (c : Nat) (sc : Scope) : SameMem s (s.release c sc) := ⟨rfl, rfl, rfl, rfl⟩

/-- The port of a core's deque is as it was after the child's frame is written. -/
theorem homeWrite_release_push (s : State) (key n : Nat) (child parent : Word)
    (hrange : s.inRange (s.dqSlot n (s.core n).dqbot.toNat) = false) (hlen : (s.core n).dqLen < 256) :
    let t := (s.release s.cur .device).homeWrite s.cur key parent (some .device)
    t.push n child = .done ((t.portAsks n).pushSlot n child) := by
  intro t
  obtain ⟨-, hdeque, hread⟩ := homeWrite_around (s.release s.cur .device) s.cur key parent (some .device)
  have hd : t.deque n = s.deque n := (hdeque n).trans (release_deque s s.cur .device n)
  have hr : ∀ cl, t.toRead cl = s.toRead cl := fun cl => (hread cl).trans (release_toRead s s.cur .device cl)
  refine push_room child ?_ (by rw [dqLen_of_deque hd]; exact hlen)
  rw [dqSlot_of_deque hd, dqbot_of_deque hd, inRange_congr hr, hrange]

/-- SPAWN of a child without a parent, onto a deque that has room. -/
theorem spawn_flows (d : XR) {b c : XS} {p : Piece} (hf : s.flows) (hbuf : s.me.buf = []) (hquiet : s.quiet s.cur .device none = true)
    (harmed : s.me.armed = none) (hrec : s.me.recBad = false) (hframe : s.frameMe .store (s.me.getS b).toNat 8 8 = .ok [p])
    (hlen : (s.core s.myCore).dqLen < 255) (hrange : s.inRange (s.dqSlot s.myCore (s.core s.myCore).dqbot.toNat) = false)
    (hparent : s.me.getS c = 0) : exec (.spawn d b c) s = .next (s.steppedLong (s.spawnDone p.key d (s.me.getS b) 0)) := by
  change execSpawn d b c s = _
  rw [execSpawn]
  rw [hparent, if_pos rfl, hframe]
  change s.ordered .device none _ = _
  rw [ordered_quiet s _ _ hbuf hquiet, readCheck_clean harmed hrec true rfl, push_room _ hrange (by omega)]
  have hpush := homeWrite_release_push s p.key s.myCore (s.me.getS b) 0 hrange (by omega)
  have hparents : (List.drop 1 ([p] ++ [])).head? = none := rfl
  have hkey : key0 ([p] ++ []) = p.key := rfl
  dsimp only at hpush ⊢
  rw [hparents, hkey]
  dsimp only
  rw [hpush]
  exact retireLong_flows hf (s.spawnDone p.key d (s.me.getS b) 0)

theorem spawned_sameMem (s : State) (key : Nat) (child parent : Word) :
    let t := ((s.release s.cur .device).homeWrite s.cur key parent (some .device)).portAsks s.myCore
    SameMem (t.store (s.dqSlot s.myCore (s.core s.myCore).dqbot.toNat) 8 child.toNat false) (s.spawned key child parent) := by
  intro t
  obtain ⟨-, hdeque, -⟩ := homeWrite_around (s.release s.cur .device) s.cur key parent (some .device)
  have hd : t.deque s.myCore = s.deque s.myCore := (portAsks_deque _ _ _).trans ((hdeque _).trans (release_deque s s.cur .device _))
  have h := pushSlot_sameMem t s.myCore child
  rwa [dqSlot_of_deque hd, dqbot_of_deque hd] at h
theorem spawnDone_sameMem (s : State) (key : Nat) (d : XR) (child parent : Word) :
    SameMem (s.spawned key child parent) (s.spawnDone key d child parent) :=
  (refillDue_sameMem _ _).trans ((wakeDeque_sameMem _ _).trans (putX_sameMem _ _ _))

/-- A spawned child names its parent and stands at the bottom of the deque, whose length is the result. -/
theorem spawnDone_effect (hform : s.form) {key : Nat} (hkey : key + 8 ≤ 2 ^ 52) (d : XR) (child parent : Word) (hlen : (s.core s.myCore).dqLen < 255) :
    let t := s.steppedLong (s.spawnDone key d child parent)
    t.me.getX d = (if d = 0 then 0 else BitVec.ofNat 64 ((s.core s.myCore).dqLen + 1)) ∧ t.rd64 key = parent ∧
    t.rd64 (s.dqSlot s.myCore (s.core s.myCore).dqbot.toNat) = child ∧ t.me.pc = BitVec.ofNat 64 s.nextPc := by
  intro t
  let w := ((s.release s.cur .device).homeWrite s.cur key parent (some .device))
  have hwform : w.form := homeWrite_form ((release_sameMem s s.cur .device).form hform) _ _ _ _
  have hpform : (w.portAsks s.myCore).form := (portAsks_sameMem w s.myCore).form hwform
  have hmem : SameMem ((w.portAsks s.myCore).store (s.dqSlot s.myCore (s.core s.myCore).dqbot.toNat) 8 child.toNat false) t :=
    (spawned_sameMem s key child parent).trans ((spawnDone_sameMem s key d child parent).trans (steppedLong_sameMem s _))
  have hslot := dqSlot_spad s s.myCore (s.core s.myCore).dqbot.toNat
  have hdlen : (w.portAsks s.myCore).deque s.myCore = s.deque s.myCore :=
    (portAsks_deque _ _ _).trans (((homeWrite_around (s.release s.cur .device) s.cur key parent (some .device)).2.1 _).trans (release_deque s s.cur .device _))
  refine ⟨?_, ?_, ?_, steppedLong_pc s _⟩
  · have hone : ((s.spawned key child parent).core s.myCore).dqLen = (s.core s.myCore).dqLen + 1 := by
      have h := pushSlot_dqLen (w.portAsks s.myCore) s.myCore child (by rw [dqLen_of_deque hdlen]; exact hlen)
      rwa [dqLen_of_deque hdlen] at h
    rw [← hone]
    exact (steppedLong_getX s _ d).trans (putX_getX _ d _)
  · have hread : t.rd64 key = w.rd64 key := by
      unfold State.rd64
      rw [hmem.rdN, rdN_store_out _ _ _ _ _ _ hpform (by omega), (portAsks_sameMem w s.myCore).rdN]
    rw [hread]
    exact rd64_homeWrite ((release_sameMem s s.cur .device).form hform) _ _ _ _
  · unfold State.rd64
    rw [hmem.rdN, rdN_store _ _ _ _ hpform]
    apply BitVec.eq_of_toNat_eq
    have hv : child.toNat < 2 ^ 64 := child.isLt
    rw [BitVec.toNat_ofNat, Nat.mod_eq_of_lt (a := child.toNat) (by omega), Nat.mod_eq_of_lt hv]

/-! ## JOINA, TDONE and SYNC (R393 to R395) -/

/-- A context whose join update is on its way to the home of a word. -/
def Ctx.joining (x : Ctx) (va loc : Nat) : Ctx := { x with why := some .longOp, fill := some ⟨x.asid.toNat, va, loc, none⟩ }

theorem joina_flows (d : XR) {b c : XS} {q : Piece} (hf : s.flows) (hbuf : s.me.buf = []) (hquiet : s.quiet s.cur .device none = true)
    (harmed : s.me.armed = none) (hrec : s.me.recBad = false) (hframe : s.frameMe .atomic (s.me.getS b).toNat 16 8 = .ok [q])
    (hbad : s.badPiece [q] = none) :
    ∃ t, exec (.joina d b c) s = .next t ∧ Instr.joinUpdateAtHome q.key (s.me.getS c) s.cur d false ∈ t.agenda ∧ t.me.why = some .longOp ∧
      t.me.pc = BitVec.ofNat 64 s.nextPc ∧ KeepsMemory s t := by
  let u := ((s.release s.cur .device).mapMe (·.joining ((s.me.getS b).toNat + 16) q.key)).post (.joinUpdateAtHome q.key (s.me.getS c) s.cur d false)
  have hexec : exec (.joina d b c) s = .next (s.stepped u) := by
    change execJoina d b c s = _
    rw [execJoina, hframe, onRes_ok, ordered_quiet s _ _ hbuf hquiet, readCheck_clean harmed hrec true hbad]
    exact retire_flows hf u
  have hme : (s.stepped u).me = ((s.release s.cur .device).me.joining ((s.me.getS b).toNat + 16) q.key).stepTo s.nextPc := by
    rw [stepped_me]
    exact congrArg (·.stepTo s.nextPc) (me_mapMe (s.release s.cur .device) (·.joining ((s.me.getS b).toNat + 16) q.key))
  refine ⟨s.stepped u, hexec, List.mem_append_right _ (List.mem_singleton_self _), ?_, ?_, .of_eq rfl rfl rfl⟩
  · rw [hme]; rfl
  · rw [hme]; rfl

/-- TDONE of a task without a parent ends the task and gives 0. -/
theorem tdone_flows (d : XR) {q : Piece} (hf : s.flows) (hbuf : s.me.buf = []) (hquiet : s.quiet s.cur .device none = true)
    (harmed : s.me.armed = none) (hrec : s.me.recBad = false) (htask : s.me.taskf ≠ 0) (hframe : s.frameMe .load s.me.taskf.toNat 8 8 = .ok [q])
    (hbad : s.badPiece [q] = none) (hparent : s.rd64 q.key = 0) :
    ∃ t, exec (.tdone d) s = .next t ∧ t.me.getX d = 0 ∧ t.me.taskf = 0 ∧ t.me.shadow = false ∧ t.me.pc = BitVec.ofNat 64 s.nextPc ∧
      KeepsMemory s t := by
  let u := ((s.release s.cur .device).mapMe Ctx.endTask).putX d 0
  have hexec : exec (.tdone d) s = .next (s.steppedLong u) := by
    change execTdone d s = _
    rw [execTdone, needTask_ok (beq_false_of_ne htask), hframe, onRes_ok, ordered_quiet s _ _ hbuf hquiet, readCheck_clean harmed hrec true hbad]
    have hkey : key0 [q] = q.key := rfl
    dsimp only
    rw [hkey, if_pos hparent]
    exact retireLong_flows hf u
  have hme : u.me = ((s.release s.cur .device).me.endTask).setX d 0 :=
    (me_mapMe ((s.release s.cur .device).mapMe Ctx.endTask) (·.setX d 0)).trans (congrArg (·.setX d 0) (me_mapMe (s.release s.cur .device) Ctx.endTask))
  refine ⟨s.steppedLong u, hexec, ?_, ?_, ?_, steppedLong_pc s u, ((release_sameMem _ _ _).trans
    ((mapMe_sameMem _ _).trans ((putX_sameMem _ _ _).trans (steppedLong_sameMem s _)))).keeps⟩
  · rw [steppedLong_getX, hme, getX_setX_self]; exact ite_self 0
  · rw [steppedLong_me_view (v := Ctx.taskf) (by intro _ _; rfl), stepTo_taskf, hme, setX_taskf]; rfl
  · rw [steppedLong_me_view (v := Ctx.shadow) (by intro _ _; rfl), stepTo_shadow, hme, setX_shadow]; rfl

/-- SYNC waits at the home of its join word. -/
theorem sync_waits (d : XR) {b : XS} {q : Piece} (hbuf : s.me.buf = []) (harmed : s.me.armed = none) (hrec : s.me.recBad = false)
    (hgot : s.me.got = none) (hframe : s.frameMe .load (s.me.getS b).toNat 16 8 = .ok [q]) (hbad : s.badPiece [q] = none) :
    ∃ t, exec (.sync d b) s = .next t ∧ t.me.why = some .sleep ∧ t.me.pc = s.me.pc ∧ Instr.syncAtHome s.cur q.key ∈ t.agenda ∧ KeepsMemory s t := by
  have hexec : exec (.sync d b) s = .next ((s.park .sleep).post (.syncAtHome s.cur q.key)) := by
    change execSync d b s = _
    rw [execSync, hgot]
    dsimp only
    rw [hframe, onRes_ok, drained_nil s hbuf, readCheck_clean harmed hrec true hbad]
    rfl
  have hme : ((s.park .sleep).post (.syncAtHome s.cur q.key)).me = s.me.parked .sleep := park_me s .sleep
  refine ⟨_, hexec, ?_, ?_, List.mem_append_right _ (List.mem_singleton_self _), .of_eq rfl rfl rfl⟩
  · rw [hme, parked_why]
  · rw [hme, parked_pc]

/-- SYNC ends with the answer that its wait has left. -/
theorem sync_ends (d : XR) (b : XS) {v : Word} (hf : s.flows) (hgot : s.me.got = some v) :
    ∃ t, exec (.sync d b) s = .next t ∧ t.me.getX d = (if d = 0 then 0 else v) ∧ t.me.pc = BitVec.ofNat 64 s.nextPc ∧ KeepsMemory s t := by
  let u := ((s.acquireOf s.cur .device s.me.gotTags).mapMe Ctx.tookGot).putX d v
  have hexec : exec (.sync d b) s = .next (s.steppedLong u) := by
    change execSync d b s = _
    rw [execSync, hgot]
    dsimp only
    exact retireLong_flows hf _
  refine ⟨_, hexec, ?_, steppedLong_pc s _, ?_⟩
  · rw [steppedLong_getX]; exact putX_getX _ d v
  · exact ((acquireOf_sameMem _ _ _ _).trans ((mapMe_sameMem _ _).trans ((putX_sameMem _ _ _).trans (steppedLong_sameMem s _)))).keeps

end Sys2Proof.Machine
end

section
/-! SUPPORT. SLICE of a shape record in the own scratchpad (R403, R404). -/
namespace Sys2Proof.Machine

variable {s : State}

/-- The bytes of a run of keys, read one by one. -/
theorem readKeys_range (s : State) (a n : Nat) : s.readKeys ((List.range n).map (a + ·)) = s.rdN a n := by
  induction n generalizing a with
  | zero => rfl
  | succ n ih =>
    have hmap : (List.range (n + 1)).map (a + ·) = a :: (List.range n).map (a + 1 + ·) := by
      rw [List.range_succ_eq_map, List.map_cons, List.map_map]
      exact congrArg _ (List.map_congr_left fun i _ => by simp; omega)
    rw [hmap]
    change (s.byte a).toNat + 256 * _ = (s.byte a).toNat + 256 * s.rdN (a + 1) n
    rw [ih]
theorem pieceKeys_single (p : Piece) : pieceKeys [p] = (List.range p.len).map (p.key + ·) := by simp [pieceKeys]
theorem badPiece_single {p : Piece} (h : s.badIn p.key p.len = none) : s.badPiece [p] = none := by simp [State.badPiece, h]
/-- With nothing buffered a load takes its value from memory. -/
theorem loadSource_of_buf_nil (h : s.me.buf = []) (ks : List Nat) : s.loadSource ks = .memory := by
  unfold State.loadSource; rw [h]; rfl
theorem noteReads_sameMem (s : State) (c : Nat) (home : Bool) (keys : List Nat) : SameMem s (s.noteReads c home keys) := by
  unfold State.noteReads
  dsimp only
  split <;> exact ⟨rfl, rfl, rfl, rfl⟩

theorem steppedFor_me_view {β : Type} {v : Ctx → β} (hv : ∀ x e, v { x with eligFrom := e } = v x) (s t : State) (l : Nat) :
    v (s.steppedFor t l).me = v (t.me.stepTo s.nextPc) := by
  have hme : (s.steppedFor t l).me = { t.me with eligFrom := s.cycle + l }.stepTo s.nextPc := by
    unfold State.steppedFor
    rw [stepped_me]
    exact congrArg (·.stepTo s.nextPc) (me_mapMe t fun c => { c with eligFrom := s.cycle + l })
  rw [hme]
  exact hv (t.me.stepTo s.nextPc) (s.cycle + l)
theorem steppedFor_eligFrom (s t : State) (l : Nat) : (s.steppedFor t l).me.eligFrom = s.cycle + l := by
  unfold State.steppedFor
  rw [stepped_me, stepTo_eligFrom]
  exact congrArg Ctx.eligFrom (me_mapMe t fun c => { c with eligFrom := s.cycle + l })
theorem steppedFor_sameMem (s t : State) (l : Nat) : SameMem t (s.steppedFor t l) := ⟨rfl, rfl, rfl, rfl⟩

/-- What SLICE writes for a well-formed shape and the value w of its last operand: a part's extent, or the address of its first
element (R404). -/
def Shape.sliceOf (h : Shape) (w : Nat) : Word :=
  if w.testBit 16 then BitVec.ofNat 64 (h.part h.parts (w % 2 ^ 16)).2 else h.base + BitVec.ofNat 64 (h.part h.parts (w % 2 ^ 16)).1 * h.pstride

theorem bits_low16 (w : Nat) : bits w 15 0 = w % 2 ^ 16 := by unfold bits; omega

/-- A record in the own scratchpad is in place. -/
theorem slice_place (s : State) {o : Nat} (ho : o % 64 = 0) (hend : o + 128 ≤ 2 ^ 19) :
    let va := 0x00F0000002000000 + o
    ¬(va % 64 ≠ 0 ∨ !inWindow va ∨ badWindow va ∨ windowCore s.myCore va ≠ s.myCore ∨ 2 ^ 19 < bits va 18 0 + 128) ∧ bits va 18 0 = o := by
  intro va
  obtain ⟨hs, -, hb⟩ := bits_own o (by omega)
  have hbits : bits va 18 0 = o := hb.trans (Nat.mod_eq_of_lt (by omega))
  have hwin : inWindow va = true := inWindow_own o (by omega)
  have hbad : badWindow va = false := by rw [badWindow_own o (by omega)]; simp; omega
  have hcore : windowCore s.myCore va = s.myCore := if_pos hs
  refine ⟨?_, hbits⟩
  rw [hbits, hwin, hbad, hcore]
  simp only [Bool.not_true, Bool.false_eq_true, ne_eq, not_true, false_or, not_or, not_not, Nat.not_lt]
  exact ⟨by omega, hend⟩

/-- SLICE of a well-formed shape record in the own scratchpad gives its rank's part, after 24 cycles. -/
theorem slice_flows (d : XR) {b c : XS} {o : Nat} {h : Shape} (hf : s.flows) (hb : s.me.getS b = BitVec.ofNat 64 (0x00F0000002000000 + o))
    (ho : o % 64 = 0) (hend : o + 128 ≤ 2 ^ 19) (harmed : s.me.armed = none) (hrec : s.me.recBad = false)
    (hbad : s.badIn (2 ^ 52 + 2 ^ 19 * (s.cur / 16) + o) 128 = none) (hbuf : s.me.buf = [])
    (hshape : shapeOf (s.rdN (2 ^ 52 + 2 ^ 19 * (s.cur / 16) + o) 128) = h) (hres : h.reserved = 0) (hgran : h.gran ≠ 0)
    (hdim : h.pdim ≤ h.ndm1) (hparts : 0 < h.parts) :
    ∃ t, exec (.slice d b c) s = .next t ∧ t.me.eligFrom = s.cycle + 24 ∧ t.me.pc = BitVec.ofNat 64 s.nextPc ∧ KeepsMemory s t ∧
      t.me.getX d = if d = 0 then 0 else h.sliceOf (s.me.getS c).toNat := by
  have hkey : 2 ^ 52 + 2 ^ 19 * (s.cur / 16) + o = spadKey s.myCore o := rfl
  rw [hkey] at hbad hshape
  let p : Piece := ⟨0x00F0000002000000 + o, spadKey s.myCore o, 128, false, none⟩
  let u := (s.noteReads s.cur false (keyWords (pieceKeys [p]))).putX d (h.sliceOf (s.me.getS c).toNat)
  have hva : (s.me.getS b).toNat = 0x00F0000002000000 + o := by rw [hb, BitVec.toNat_ofNat]; omega
  obtain ⟨hplace, hbits⟩ := slice_place s ho hend
  have hread : shapeOf (s.readKeys (pieceKeys [p])) = h := by rw [pieceKeys_single, readKeys_range]; exact hshape
  have hclean : s.badPiece [p] = none := badPiece_single (p := p) hbad
  have hexec : exec (.slice d b c) s = .next (s.steppedFor u 24) := by
    change execSlice d b c s = _
    rw [execSlice]
    dsimp only
    rw [hva, if_neg hplace, hbits]
    change (match s.loadSource (pieceKeys [p]) with
      | .after n => _ | .forward v bad => _ | .memory => s.readCheck false [p] _) = _
    rw [loadSource_of_buf_nil hbuf]
    dsimp only
    rw [readCheck_clean harmed hrec false hclean]
    rw [hread, if_neg (by omega), if_neg hparts.ne', bits_low16]
    exact retireAfter_flows hf u 24
  refine ⟨_, hexec, steppedFor_eligFrom s u 24, steppedFor_me_view (v := Ctx.pc) (by intro _ _; rfl) s u 24,
    ((noteReads_sameMem _ _ _ _).trans ((putX_sameMem _ _ _).trans (steppedFor_sameMem s u 24))).keeps, ?_⟩
  exact (getX_of_x (steppedFor_me_view (v := Ctx.x) (by intro _ _; rfl) s u 24) d).trans
    ((getX_of_x (stepTo_x _ _) d).trans (putX_getX _ d _))

end Sys2Proof.Machine
end
section
/-! CERTIFICATE. Task forms and deque events complete: O54. -/
namespace Sys2Proof.Machine

/-- Settles O54, form by form, from what each does where its conditions hold. -/
theorem tasksComplete : Obligations.TasksComplete := by
  unfold Obligations.TasksComplete
  intro s hform
  refine ⟨fun d htask hf hlen hbad => ?_, fun d b htask hf => ?_, fun c d hwhy => ⟨stealProbeRead_nothing d hwhy, fun v vs => stealProbeRead_found vs d hwhy⟩,
    fun c v vs d hwhy hmap hfroz hlen hbad => ?_, fun c f d p hpend hwhy hresume hframe hbad hbad' => ?_,
    fun n b r hb hruns hlen hspill hbad hrange hle hlt => ?_, fun d b c p q v hf hbuf hquiet harmed hrec => ⟨?_, ?_, ?_, ?_, ?_⟩,
    fun d b c o h hf hb ho hend harmed hrec hbad hbuf hshape hres hgran hdim hparts => ?_⟩
  · obtain ⟨-, hpendf, hbot, -, hpc, -, hmem⟩ := takenEntry_effect s (s.dqSlot s.myCore (((s.core s.myCore).dqbot.toNat + 2 ^ 32 - 1) % 2 ^ 32))
      (((s.core s.myCore).dqbot.toNat + 2 ^ 32 - 1) % 2 ^ 32) d
    exact ⟨_, take_entry d htask hf hlen hbad, hpendf, hbot, hpc, hmem⟩
  · obtain ⟨u, ws, hexec, hwhy, hpc, hrho, hsent, -, hmem⟩ := steal_sends d b htask hf
    exact ⟨u, ws, hexec, hwhy, hpc, hrho, hsent, hmem⟩
  · obtain ⟨-, hpendf, htop, -, hpc, hmem⟩ := stolenEntry_effect s c v (w64 (((s.core v).dqtop.toNat + 1) % 2 ^ 32))
      (s.rd64 (s.dqSlot v (s.core v).dqtop.toNat)) d
    exact ⟨_, stealCas_takes vs d hwhy hmap hfroz hlen rfl hbad, hpendf, htop, hpc, hmem⟩
  · obtain ⟨htask, hshadow, -, hdone, -, -, -, -, -, hmem⟩ := reply_inForce f p.key d hwhy
    exact ⟨_, loadTask_loads hpend hresume hframe hbad hbad', htask, hshadow, hdone, hmem⟩
  · have hdeque := refilled_deque s n b r ((s.core n).dqtop.toNat + 2 ^ 32 - 64)
    simp only [State.deque, Prod.mk.injEq] at hdeque
    obtain ⟨-, htop, hbot, hblk⟩ := hdeque
    exact ⟨_, dequeRefill_refills hb hruns hlen hspill hbad hrange, htop.trans (top_sub_64 hle hlt), hblk, hbot⟩
  · intro hframe hkey hlen hrange hparent
    obtain ⟨hlength, hword, hslot, hpc⟩ := spawnDone_effect hform hkey d (s.me.getS b) 0 hlen
    exact ⟨_, spawn_flows d hf hbuf hquiet harmed hrec hframe hlen hrange hparent, hlength, hword, hslot, hpc⟩
  · exact joina_flows d hf hbuf hquiet harmed hrec
  · exact tdone_flows d hf hbuf hquiet harmed hrec
  · exact sync_waits d hbuf harmed hrec
  · exact sync_ends d b hf
  · exact slice_flows d hf hb ho hend harmed hrec hbad hbuf hshape hres hgran hdim hparts

end Sys2Proof.Machine
end

section
/-! SUPPORT. A PHCRC of the accepted head's own context that stands in an idle queue without its result: the next command lets it end,
and that context goes on (R200, R231). -/
namespace Sys2Proof.Machine

theorem omu_mapOmu (s : State) (cl : Nat) (f : Omu → Omu) : (s.mapOmu cl f).omu cl = f (s.omu cl) := by
  unfold State.omu State.mapOmu; rw [clu_mapClu, if_pos rfl]
theorem omu_mapCtx (s : State) (cl c : Nat) (f : Ctx → Ctx) : (s.mapCtx c f).omu cl = s.omu cl := rfl
theorem omu_finishHead (s : State) (cl c : Nat) : (s.finishHead c).omu cl = s.omu cl := rfl

theorem queue_capture (s : State) (cl : Nat) : ((s.capture cl).omu cl).queue = (s.omu cl).capture (s.omu cl).queue := by
  unfold State.capture; rw [omu_mapOmu]

/-- A queue whose first command is a PHCRC with its result, and whose second is a probe: the PHCRC's context goes on. -/
theorem omuGo_phcrc_prbe {s : State} {cl c e : Nat} {b : Bool} {d d' : XR} {v : Word}
    (hq : (s.omu cl).queue = [.phcrc c b d (some v), .prbe e d']) : ((s.omuGo cl).ctx c).why = none := by
  let t := ((s.omuDrop cl (.phcrc c b d (some v))).mapCtx c fun x => x.setX d v).finishHead c
  have ht : (t.omu cl).queue = [.prbe e d'] := by
    rw [omu_finishHead, omu_mapCtx, State.omuDrop, omu_mapOmu, hq]; exact List.erase_cons_head ..
  have hgo : s.omuGo cl = t.post (.probeSymbol cl) := by
    have hfirst : firstOther (s.omu cl).queue false = some (.phcrc c b d (some v), false) := by rw [hq]; rfl
    have hsecond : firstOther (t.omu cl).queue false = some (.prbe e d', false) := by rw [ht]; rfl
    rw [State.omuGo, hq]
    change s.omuNext cl 3 = _
    rw [State.omuNext, hfirst]
    change t.omuNext cl 2 = _
    rw [State.omuNext, hsecond]
  rw [hgo]
  exact finishHead_ctx_why _ c

/-- A probe that enters a queue with nothing but a PHCRC without its result gives that its result, and its context goes on. -/
theorem enqueue_prbe_after_phcrc {s : State} {cl c e : Nat} {b : Bool} {d d' : XR} (hq : (s.omu cl).queue = [.phcrc c b d none]) :
    ((s.enqueue cl (.prbe e d')).ctx c).why = none := by
  let u := (s.mapOmu cl fun o => { o with queue := o.queue ++ [.prbe e d'] }).capture cl
  have hcapture : ∃ v, (u.omu cl).queue = [.phcrc c b d (some v), .prbe e d'] := by
    have happend : ((s.mapOmu cl fun o => { o with queue := o.queue ++ [.prbe e d'] }).omu cl).queue = [.phcrc c b d none, .prbe e d'] := by
      rw [omu_mapOmu, hq]; rfl
    exact ⟨_, (queue_capture _ cl).trans (congrArg (Omu.capture _) happend)⟩
  obtain ⟨v, hv⟩ := hcapture
  have hbegin : u.loadBegin cl = u := by
    unfold State.loadBegin
    rw [hv]
    exact if_pos (by simp [OptCmd.isLoad])
  have hidle : (firstOther (s.omu cl).queue false).isNone = true := by rw [hq]; rfl
  have hgo : s.enqueue cl (.prbe e d') = u.omuGo cl := by
    unfold State.enqueue
    dsimp only
    rw [hidle, hbegin]
    rfl
  rw [hgo]
  exact omuGo_phcrc_prbe hv

theorem omu_leaveQueue_queue (s : State) (c cl : Nat) : ((s.leaveQueue c).omu cl).queue = (s.omu cl).queue := by
  unfold State.leaveQueue State.omu State.mapOmu
  rw [clu_mapClu]
  split
  · next h => rw [h]
  · rfl

/-- A PRBE that is accepted is put on the queue, its context held. -/
theorem acceptOptical_prbe {s : State} {c : Nat} {r : OptReq} (hform : r.form = .prbe)
    (hreached : (s.omu (clusterOf (coreOf c))).reached c s.cycle = true) (hfirst : behind (s.omu (clusterOf (coreOf c))).waiting c .prbe = false)
    (hswap : (s.omu (clusterOf (coreOf c))).swapping = false) (haway : s.omuAway (clusterOf (coreOf c)) = false) :
    acceptOptical c r s = .next ((s.holdHead c).enqueue (clusterOf (coreOf c)) (.prbe c r.d)) := by
  simp [acceptOptical, hform, hreached, hfirst, hswap, haway]

end Sys2Proof.Machine
end
section
/-! CERTIFICATE. Optical heads, refuted: O40. -/
namespace Sys2Proof.Machine

/-- Of 17 clusters one has its OMU: at most 16 are without (R1). -/
theorem exists_omuPresent : ∃ cl, cl < 17 ∧ Config.omuPresent cl = true := by
  let absent := Config.badOmus.take (if Config.gradeB then 16 else 4)
  have hcard : absent.toFinset.card < (Finset.range 17).card := by
    have hlen : absent.length ≤ 16 := (List.length_take_le _ _).trans (by split <;> omega)
    rw [Finset.card_range]
    exact (List.toFinset_card_le absent).trans_lt (by omega)
  obtain ⟨cl, hcl, habsent⟩ := Finset.exists_mem_notMem_of_card_lt_card hcard
  refine ⟨cl, Finset.mem_range.mp hcl, ?_⟩
  have hcontains : absent.contains cl = false := by simpa using habsent
  exact congrArg (!·) hcontains

/-- An OMU with an image to offer, whose queue holds a PHCRC of context c that has no result yet. -/
def omuWithPhcrc (c : Nat) : Omu := { Omu.reset with gov := 1, queue := [.phcrc c false 0 none] }
/-- Context 0 of the first core of a cluster waits for the acceptance of its head, in front of `omuWithPhcrc`. -/
def phcrcThenPrbe (cl : Nat) : State :=
  { State.reset with
    ctxs := [(1024 * cl, { Ctx.reset with why := some .accept })]
    clus := [(cl, { Cluster.reset with omu := omuWithPhcrc (1024 * cl) })]
    rdy := Vector.replicate 32 (BitVec.allOnes 64) }
/-- The PRBE that waits. -/
def prbeReq : OptReq := ⟨.prbe, .mark, .ph16, 0, 0, 0, 0, 0⟩

theorem phcrcThenPrbe_omu (cl : Nat) : (phcrcThenPrbe cl).omu cl = omuWithPhcrc (1024 * cl) :=
  congrArg Cluster.omu (if_pos rfl)
theorem phcrcThenPrbe_why (cl : Nat) : ((phcrcThenPrbe cl).ctx (1024 * cl)).why = some .accept :=
  congrArg Ctx.why (if_pos rfl)
theorem phcrcThenPrbe_omuUp {cl : Nat} (h : cl < 17) : (phcrcThenPrbe cl).omuUp cl = true := by
  interval_cases cl <;> rfl
theorem reset_form : State.reset.form := by decide
theorem phcrcThenPrbe_form (cl : Nat) : (phcrcThenPrbe cl).form :=
  State.form.congr reset_form rfl rfl rfl rfl

/-- The PRBE's own context does not stay out of the rotation: the PHCRC that it lets end brings it back. -/
theorem exec_prbe_after_phcrc {cl : Nat} (h : cl < 17) (hpresent : Config.omuPresent cl = true) (t : State)
    (ht : exec (.opticalAcceptance (1024 * cl) prbeReq) (phcrcThenPrbe cl) = .next t) : (t.ctx (1024 * cl)).why = none := by
  have hcl : clusterOf (coreOf (1024 * cl)) = cl := by unfold clusterOf coreOf; omega
  let u := ((phcrcThenPrbe cl).holdHead (1024 * cl)).enqueue cl (.prbe (1024 * cl) 0)
  have hwhy : (u.ctx (1024 * cl)).why = none :=
    enqueue_prbe_after_phcrc (b := false) (d := 0) (by
      unfold State.holdHead
      rw [omu_mapCtx, omu_leaveQueue_queue, phcrcThenPrbe_omu]; rfl)
  have haccept : acceptOptical (1024 * cl) prbeReq (phcrcThenPrbe cl) = .next u := by
    have haway : (phcrcThenPrbe cl).omuAway cl = false := by
      unfold State.omuAway
      rw [hpresent, phcrcThenPrbe_omuUp h, phcrcThenPrbe_omu]; rfl
    have := acceptOptical_prbe (s := phcrcThenPrbe cl) (c := 1024 * cl) (r := prbeReq) rfl
    rw [hcl, phcrcThenPrbe_omu] at this
    exact this rfl rfl rfl haway
  have hexec : exec (.opticalAcceptance (1024 * cl) prbeReq) (phcrcThenPrbe cl) =
      .next (u.mapCtx (1024 * cl) fun x => { x with walkFail := none }) := by
    change execOpticalAcceptance _ _ _ = _
    rw [execOpticalAcceptance, if_neg (not_not_intro (phcrcThenPrbe_why cl)), haccept]
    exact congrArg Host.Outcome.next (if_neg (by rw [hwhy]; simp))
  rw [hexec] at ht
  cases ht
  rw [ctx_mapCtx_same]
  exact hwhy

/-- Refutes O40: in clause (2) a PRBE is said to hold its context out of the rotation. In `phcrcThenPrbe` the queue of its OMU holds a
PHCRC of the same context that has not taken its result; the PRBE's arrival lets it end, and the context is back in the rotation. -/
theorem not_opticalHeads : ¬ Obligations.OpticalHeads := by
  unfold Obligations.OpticalHeads
  rintro ⟨-, haccepted, -⟩
  obtain ⟨cl, hlt, hpresent⟩ := exists_omuPresent
  have hdiv : 1024 * cl / 1024 = cl := Nat.mul_div_cancel_left cl (by omega)
  obtain ⟨-, hqueue⟩ := haccepted (phcrcThenPrbe cl) (1024 * cl) prbeReq (phcrcThenPrbe_form cl) (phcrcThenPrbe_why cl)
  rw [hdiv, phcrcThenPrbe_omu] at hqueue
  obtain ⟨-, hheld, -⟩ := hqueue rfl rfl rfl hpresent (phcrcThenPrbe_omuUp hlt) (show (1 : Nat) ≠ 0 by decide)
  obtain ⟨t, hexec, hawait, -⟩ := hheld _ (.inr ⟨rfl, rfl⟩)
  rw [exec_prbe_after_phcrc hlt hpresent t hexec] at hawait
  exact absurd hawait (by simp)

end Sys2Proof.Machine
end

section
/-! CERTIFICATE. Decoding what the encoder gives, and what the decoder refuses: O1, O2, O3. -/
namespace Sys2Proof
open Laws

/-- Settles O1: the decoder is run on each word. -/
theorem wordsDecode : Obligations.WordsDecode := by
  unfold Obligations.WordsDecode
  decide

/-- The law of its own form, for each constructor in its order. -/
theorem encoded_statement (i : Instr) : Encoded.Statement i :=
  Instr.casesOn (motive := Encoded.Statement) i
    Encoded.millerTakeTrap Encoded.asyncTrapTake Encoded.longOpReply Encoded.yieldRejoin Encoded.ifetchLineArrival
    Encoded.corePlacement Encoded.launchEnd Encoded.storeBufferDrain Encoded.fullEmptyAtPort Encoded.peerAccessAtPort
    Encoded.proxyAccess Encoded.atomicAtPlace Encoded.cellOperationAtHome Encoded.waitvAtHome Encoded.notifyAtHome
    Encoded.waitTableEntryGrant Encoded.syncAtHome Encoded.joinUpdateAtHome Encoded.sluiceArrivalCount Encoded.sluiceRelay
    Encoded.sluiceCompletionSeen Encoded.messageArrival Encoded.sendStatusReturn Encoded.spilledMessageMove
    Encoded.engineAcceptance Encoded.engineWordWrite Encoded.engineCommandComplete Encoded.cpytFramePush
    Encoded.rdctNodeCombine Encoded.headraceTileFill Encoded.tailraceWriteback Encoded.opticalAcceptance
    Encoded.passRowWrite Encoded.probeSymbol Encoded.passComplete Encoded.phaseLoadEnd Encoded.phaseSwap
    Encoded.decompositionComplete Encoded.calibrationStart Encoded.calibrationComplete Encoded.governorLock
    Encoded.governorEnterDrift Encoded.governorLeaveDrift Encoded.recalibrationStart Encoded.temperatureLoop
    Encoded.dequeRefill Encoded.stealProbeRead Encoded.stealCas Encoded.loadTask Encoded.translationRequest
    Encoded.walkComplete Encoded.sliceEntryPinExpiry Encoded.atsTranslationCompletion Encoded.pageRequestSend
    Encoded.pageRequestResponse Encoded.priEnable Encoded.priStop Encoded.atsInvalidationRequest
    Encoded.invalidationComplete Encoded.hostMessage Encoded.bar2Access Encoded.bar2AtomicOp Encoded.bar0RegisterWrite
    Encoded.rotorSlotStart Encoded.flitReceive Encoded.flitAck Encoded.completionMarkerReceive
    Encoded.circuitBringUpComplete Encoded.portResyncComplete Encoded.scrubVisit Encoded.verticalBusTest
    Encoded.heartbeatSend Encoded.heartbeatReceive Encoded.heartbeatDeadline Encoded.suspectNotice Encoded.fenceNotice
    Encoded.quarantineEnd Encoded.appeal Encoded.temperatureSample Encoded.migrationStart Encoded.migrationRetry
    Encoded.migrationStateCopy Encoded.migrationCommit Encoded.sliceFrameWriteback Encoded.slicePowerOff
    Encoded.sliceRecovery Encoded.powerSample Encoded.moduleReset Encoded.vmainLoss Encoded.vmainPowerOn
    Encoded.hostLinkTrained Encoded.hbmStackReady Encoded.fieldReady Encoded.clusterReady Encoded.combLightLoss
    Encoded.combLightReturn Encoded.commandRingTailWrite Encoded.responseRingHeadWrite Encoded.spdm Encoded.setCtrl
    Encoded.setCtrlMinSecurityVersion Encoded.setTable Encoded.inval Encoded.hostAssist Encoded.fwStage Encoded.readDebug
    Encoded.illegalInstruction Encoded.softError Encoded.inventoryUpdate Encoded.nop Encoded.halt Encoded.yield
    Encoded.brk Encoded.j Encoded.jal Encoded.jalr Encoded.beq Encoded.bne Encoded.blt Encoded.bge Encoded.bltn
    Encoded.bgen Encoded.bkany Encoded.bkall Encoded.bknone Encoded.dbnz Encoded.add Encoded.sub Encoded.and Encoded.or
    Encoded.xor Encoded.andn Encoded.sll Encoded.srl Encoded.sra Encoded.ror Encoded.slt Encoded.sltn Encoded.min
    Encoded.max Encoded.minn Encoded.maxn Encoded.addi Encoded.andi Encoded.ori Encoded.xori Encoded.slli Encoded.srli
    Encoded.srai Encoded.slti Encoded.sltni Encoded.li Encoded.lih Encoded.mul Encoded.mulh Encoded.mulhn Encoded.div
    Encoded.divn Encoded.rem Encoded.remn Encoded.clz Encoded.ctz Encoded.popc Encoded.brev Encoded.addpc Encoded.faddF32
    Encoded.fsubF32 Encoded.fmulF32 Encoded.fdivF32 Encoded.fsqrtF32 Encoded.fminF32 Encoded.fmaxF32 Encoded.ffmaF32
    Encoded.feqF32 Encoded.fltF32 Encoded.fleF32 Encoded.faddF64 Encoded.fsubF64 Encoded.fmulF64 Encoded.fdivF64
    Encoded.fsqrtF64 Encoded.fminF64 Encoded.fmaxF64 Encoded.ffmaF64 Encoded.feqF64 Encoded.fltF64 Encoded.fleF64
    Encoded.vadd Encoded.vsub Encoded.vmul Encoded.vmulh Encoded.vand Encoded.vor Encoded.vxor Encoded.vandn Encoded.vsll
    Encoded.vsrl Encoded.vsra Encoded.vmin Encoded.vmax Encoded.vadds Encoded.vsubs Encoded.vabs Encoded.vcmpeq
    Encoded.vcmplt Encoded.vcmple Encoded.vsel Encoded.vsplat Encoded.vneg Encoded.vfadd Encoded.vfsub Encoded.vfmul
    Encoded.vfma Encoded.vfms Encoded.vfnma Encoded.vfmin Encoded.vfmax Encoded.vfdiv Encoded.vfsqrt Encoded.vfabs
    Encoded.vfneg Encoded.vfcmpeq Encoded.vfcmplt Encoded.vfcmple Encoded.kand Encoded.kor Encoded.kxor Encoded.kandn
    Encoded.knot Encoded.kmovx Encoded.ktox Encoded.kpopc Encoded.kfirst Encoded.vaddi Encoded.vandi Encoded.vori
    Encoded.vslli Encoded.vsrli Encoded.vsrai Encoded.vsplati Encoded.vli16 Encoded.vli32 Encoded.vli64 Encoded.vxlr
    Encoded.vperm Encoded.vcompr Encoded.vexpnd Encoded.vslup Encoded.vsldn Encoded.vzip Encoded.vunzip Encoded.vextr
    Encoded.vins Encoded.vredAdd Encoded.vredMin Encoded.vredMax Encoded.vredAnd Encoded.vredOr Encoded.vscanAdd
    Encoded.vscanMin Encoded.vscanMax Encoded.vcvt Encoded.fcvt Encoded.vqnt Encoded.vdqnt Encoded.vrsc Encoded.vemax
    Encoded.vpack Encoded.vunpk Encoded.vphcv Encoded.frsqa Encoded.frcpa Encoded.ldS8 Encoded.ldN8 Encoded.ldS16
    Encoded.ldN16 Encoded.ldS32 Encoded.ldN32 Encoded.ld64 Encoded.ldFe Encoded.ldFc Encoded.st8 Encoded.st16 Encoded.st32
    Encoded.st64 Encoded.stEf Encoded.stF Encoded.ldp Encoded.vld Encoded.vst Encoded.vlds Encoded.vsts Encoded.vldg
    Encoded.vstg Encoded.prefL1 Encoded.prefSl Encoded.cclean Encoded.cflush Encoded.iflush Encoded.ldxS8 Encoded.ldxN8
    Encoded.ldxS16 Encoded.ldxN16 Encoded.ldxS32 Encoded.ldxN32 Encoded.ldx64 Encoded.stx8 Encoded.stx16 Encoded.stx32
    Encoded.stx64 Encoded.amoAdd Encoded.amoAnd Encoded.amoOr Encoded.amoXor Encoded.amoMin Encoded.amoMax Encoded.amoMinn
    Encoded.amoMaxn Encoded.amoSwap Encoded.amoCas Encoded.redAdd Encoded.redAnd Encoded.redOr Encoded.redXor
    Encoded.redMin Encoded.redMax Encoded.redMinn Encoded.redMaxn Encoded.cadd Encoded.caddv Encoded.cld Encoded.cclr
    Encoded.cstat Encoded.cldx Encoded.fenceAcq Encoded.fenceRel Encoded.fenceAr Encoded.fenceSc Encoded.fflag Encoded.arv
    Encoded.arvRlx Encoded.arvd Encoded.bwt Encoded.btest Encoded.waitv Encoded.ntf1 Encoded.ntfa Encoded.send
    Encoded.recv Encoded.recvt Encoded.spawn Encoded.sync Encoded.take Encoded.steal Encoded.tdone Encoded.slice
    Encoded.joina Encoded.dqlen Encoded.cpy Encoded.cpyt Encoded.gath Encoded.scat Encoded.mcst Encoded.rdct Encoded.hdsub
    Encoded.hdend Encoded.tlret Encoded.await Encoded.phld Encoded.phsw Encoded.phwr Encoded.omx Encoded.omxa Encoded.omxw
    Encoded.prbe Encoded.phcrc Encoded.launch Encoded.start Encoded.reap Encoded.migr Encoded.trap Encoded.eret
    Encoded.ctxsv Encoded.ctxld Encoded.prmt Encoded.rsme Encoded.errinj Encoded.mfs Encoded.mts Encoded.mtsFctx
    Encoded.mtsEbcmin Encoded.mtsScptr Encoded.mtsFstat Encoded.mtsPriv Encoded.mtsEpc Encoded.mtsTvec Encoded.mtsAsid
    Encoded.mtsDqbase Encoded.mtsDqtop Encoded.mtsDqbot Encoded.mtsDqspill Encoded.mtsSgmask

/-- The parcels of an instruction that has an encoding are those of its fields. -/
theorem encode_of_fields {i : Instr} {f : Fields} (h : encodeFields i = some f) : encode i = f.parcels := by
  rw [encode, h]

/-- Settles O2: an encoding leaves no parcel beyond its tails, so its parcels decode as its fields do, and these give the
instruction by the law of its form. -/
theorem decodeEncode : Obligations.DecodeEncode := by
  intro i hi hwf
  obtain ⟨f, hf⟩ := Option.isSome_iff_exists.mp hi
  rw [encode_of_fields hf, decode_parcels (encodeFields_tight hf)]
  exact encoded_statement i f hf hwf

/-! ## What is read from parcels -/

/-- The fields of a head parcel and its tails, those that its T does not name zero. -/
def readFields (ps : List Parcel) : Fields :=
  let tail (k : Nat) : Parcel := if k ≤ (headT (ps.getD 0 0)).toNat then ps.getD k 0 else 0
  fieldsOf (ps.getD 0 0) (tail 1) (tail 2) (tail 3)

theorem decode_eq_readFields (ps : List Parcel) : decode ps = decodeFields (readFields ps) := rfl
theorem readFields_t (ps : List Parcel) : (readFields ps).t = headT (ps.getD 0 0) := rfl
theorem readFields_minor (ps : List Parcel) (h : (headT (ps.getD 0 0)).toNat ≠ 0) :
    (readFields ps).minor = tailMinor (ps.getD 1 0) := by
  simp only [readFields, fieldsOf, if_pos (Nat.one_le_iff_ne_zero.mpr h)]

/-- A head of an unassigned major is refused. -/
theorem decodeFields_of_major {f : Fields} (h : forms f.major.toNat = none) : decodeFields f = .illegal := by
  rw [decodeFields, h]
/-- A head with a T that its major does not allow is refused. -/
theorem decodeFields_of_t {f : Fields} {t : Nat} {l : List (Fields → Option Instr)}
    (h : forms f.major.toNat = some (t, l)) (ht : f.t.toNat ≠ t) : decodeFields f = .illegal := by
  simp [decodeFields, h, ht]
/-- A head of an unassigned minor is refused. -/
theorem decodeFields_of_minor {f : Fields} {t : Nat} {l : List (Fields → Option Instr)}
    (h : forms f.major.toNat = some (t, l)) (hm : l.length ≤ f.minor.toNat) : decodeFields f = .illegal := by
  simp [decodeFields, h, List.getElem?_eq_none hm]
/-- What decodes is accepted, and has the fields that it was read from. -/
theorem decodeFields_sound {f : Fields} {i : Instr} (h : decodeFields f = .ok i) :
    i.wf = true ∧ encodeFields i = some f := by
  unfold decodeFields at h
  split at h <;> try cases h
  split at h <;> try cases h
  split at h <;> try cases h
  split at h <;> try cases h
  split at h <;> try cases h
  split at h <;> try cases h
  rename_i hlegal henc
  exact ⟨by simp [Instr.wf, hlegal, henc.2], henc.1⟩

/-- The fields of a head parcel are its bits but for P. -/
theorem mkHead_parts (h : Parcel) : mkHead (headT h) (headMajor h) (headA h) = h &&& 0xDFFF := by
  have mask : ∀ i, i < 16 → (0xDFFF : Parcel).getLsbD i = decide (i ≠ 13) := by decide
  apply BitVec.eq_of_getLsbD_eq
  intro i hi
  rw [mkHead_bit, BitVec.getLsbD_and, mask i hi]
  by_cases h6 : i < 6
  · simp [headA, h6, show i ≠ 13 by omega]
  by_cases h13 : i < 13
  · simp [headMajor, h6, h13, show i - 6 < 7 by omega, show 6 + (i - 6) = i by omega, show i ≠ 13 by omega]
  by_cases h14 : i < 14
  · simp [show i = 13 by omega]
  · simp [headT, h6, h13, h14, show i - 14 < 2 by omega, show 14 + (i - 14) = i by omega, show i ≠ 13 by omega]
/-- The fields of tail parcel 1 are all its bits. -/
theorem mkTail_parts (p : Parcel) : mkTail (tailB p) (tailC p) (tailMinor p) = p := by
  apply BitVec.eq_of_getLsbD_eq
  intro i hi
  rw [mkTail_bit]
  by_cases h4 : i < 4
  · simp [tailMinor, h4]
  by_cases h10 : i < 10
  · simp [tailC, h4, h10, show i - 4 < 6 by omega, show 4 + (i - 4) = i by omega]
  · simp [tailB, h4, h10, show i - 10 < 6 by omega, show 10 + (i - 10) = i by omega]

theorem fieldsOf_parcels (h t1 t2 t3 : Parcel) :
    (fieldsOf h t1 t2 t3).parcels = (h &&& 0xDFFF) :: [t1, t2, t3].take (headT h).toNat := by
  simp [Fields.parcels, fieldsOf, mkHead_parts, mkTail_parts]

/-- The fields that are read from parcels give them back, but for P. -/
theorem readFields_parcels {ps : List Parcel} (hlen : (headT (ps.getD 0 0)).toNat < ps.length) :
    (readFields ps).parcels = (ps.getD 0 0 &&& 0xDFFF) :: ps.tail.take (headT (ps.getD 0 0)).toNat := by
  rw [readFields, fieldsOf_parcels]
  congr 1
  have hT : (headT (ps.getD 0 0)).toNat < 4 := (headT (ps.getD 0 0)).isLt
  generalize (headT (ps.getD 0 0)).toNat = T at hlen hT
  apply List.ext_getElem (by simp; omega)
  intro k h1 h2
  have hk : k < T ∧ k < 3 := by simpa using h1
  obtain ⟨hk, hk3⟩ := hk
  have hps : ps[k + 1]? = some ps[k + 1] := List.getElem?_eq_getElem (by omega)
  interval_cases k <;> simp [hps, show _ ≤ T from hk]

/-- The parcels of an instruction that decodes, where none is missing, are its own but for P. -/
theorem encode_of_decode {ps : List Parcel} {i : Instr} (h : decode ps = .ok i) (hlen : (encode i).length ≤ ps.length) :
    encode i = (ps.getD 0 0 &&& 0xDFFF) :: ps.tail.take ((encode i).length - 1) := by
  have henc : encode i = (readFields ps).parcels := encode_of_fields (decodeFields_sound h).2
  have hl : (encode i).length = (headT (ps.getD 0 0)).toNat + 1 := by
    have hT : (headT (ps.getD 0 0)).toNat < 4 := (headT (ps.getD 0 0)).isLt
    rw [henc, Fields.parcels, List.length_take, readFields_t]
    simp only [List.length_cons, List.length_nil]
    omega
  rw [hl, Nat.add_sub_cancel, ← readFields_parcels (by omega), henc]

/-- Settles O3: the decoder refuses what the map does not assign, and asks of what it accepts that the form's own encoding has the
fields it was read from. -/
theorem unassignedIsRefused : Obligations.UnassignedIsRefused := by
  intro ps i
  refine ⟨fun h => decodeFields_of_major h, fun t l h ht => decodeFields_of_t h ht, fun t l h ht ht0 hm => ?_, fun h hlen => ?_⟩
  · rw [decode_eq_readFields]
    exact decodeFields_of_minor h (by rwa [readFields_minor ps (ht ▸ ht0)])
  · obtain ⟨hwf, henc⟩ := decodeFields_sound h
    have hparcels := encode_of_decode h hlen
    refine ⟨hwf, Option.isSome_iff_exists.mpr ⟨_, henc⟩, ?_, ?_⟩
    · rw [List.tail_take_eq_take_tail]
      exact congrArg List.tail hparcels
    · rw [hparcels]; rfl

end Sys2Proof
end

section
/-! CERTIFICATE. Every instruction, event and step answers a next state: O9. -/
namespace Sys2Proof.Machine

/-- The outcome is a next state. -/
def Answers (o : Out) : Prop := ∃ t, o = .next t

theorem answers_next (t : State) : Answers (.next t) := ⟨t, rfl⟩
theorem answers_ite {p : Prop} [Decidable p] {a b : Out} (ha : Answers a) (hb : Answers b) :
    Answers (if p then a else b) := by
  split <;> assumption

/-! ## How a head ends, and what comes before it -/

theorem retire_answers (s s' : State) : Answers (retire s s') :=
  answers_ite (answers_next _) (answers_next _)
theorem transfer_answers (s s' : State) (a : Nat) : Answers (transfer s s' a) :=
  answers_ite (answers_next _) (answers_next _)
theorem retireAfter_answers (s s' : State) (l : Nat) : Answers (retireAfter s s' l) := retire_answers _ _
theorem retireLong_answers (s s' : State) : Answers (retireLong s s') := retire_answers _ _
theorem needNext_answers {s : State} {k : Out} (h : Answers k) : Answers (s.needNext k) := answers_ite h (answers_next _)
theorem needSys_answers {s : State} {k : Out} (h : Answers k) : Answers (s.needSys k) := answers_ite h (answers_next _)
theorem needMiller_answers {s : State} {k : Out} (h : Answers k) : Answers (s.needMiller k) :=
  answers_ite h (answers_next _)
theorem needRmode_answers {s : State} {k : Out} (h : Answers k) : Answers (s.needRmode k) := answers_ite h (answers_next _)
theorem needTask_answers {s : State} {zero : Bool} {k : Out} (h : Answers k) : Answers (s.needTask zero k) :=
  answers_ite h (answers_next _)
theorem needAligned_answers {s : State} {v : Word} {n : Nat} {k : Out} (h : Answers k) : Answers (s.needAligned v n k) :=
  answers_ite h (answers_next _)
theorem needHead_answers {s : State} {v : Word} {k : Out} (h : Answers k) : Answers (needHead s v k) :=
  answers_ite (answers_next _) h
theorem openLine_answers {s : State} {pa : Nat} {k : Out} (h : Answers k) : Answers (s.openLine pa k) :=
  answers_ite (answers_next _) h
theorem redRounds_answers {op : RedK} {t : ElemT} {s : State} {k : Out} (h : Answers k) : Answers (redRounds op t s k) :=
  answers_ite (needRmode_answers h) h
theorem cvtRounds_answers {td ts : ElemT} {s : State} {k : Out} (h : Answers k) : Answers (cvtRounds td ts s k) :=
  answers_ite h (needRmode_answers h)
theorem inService_answers {s : State} {code tag : Nat} {k : Out} (h : Answers k) : Answers (inService s code tag k) :=
  answers_ite h (answers_next _)

/-! ## Waiting for earlier accesses -/

theorem onRes_answers {s : State} {acc : Acc} {r : Res} {k : List Piece → Out} (h : ∀ ps, Answers (k ps)) :
    Answers (s.onRes acc r k) := by
  cases r with
  | ok ps => exact h ps
  | _ => exact answers_next _
theorem drained_answers {s : State} {k : State → Out} (h : ∀ t, Answers (k t)) : Answers (s.drained k) :=
  answers_ite (h s) (answers_next _)
theorem ordered_answers {s : State} {sc : Scope} {but : Option Nat} {k : State → Out} (h : ∀ t, Answers (k t)) :
    Answers (s.ordered sc but k) :=
  drained_answers fun t => answers_ite (h t) (answers_next _)
theorem released_answers {s : State} {sc : Scope} {k : State → Out} (h : ∀ t, Answers (k t)) :
    Answers (s.released sc k) :=
  drained_answers fun t => answers_ite (h t) (answers_next _)
theorem pastMarkers_answers {s : State} {k : State → Out} (h : ∀ t, Answers (k t)) : Answers (s.pastMarkers k) := by
  unfold State.pastMarkers
  split
  · exact h s
  · exact answers_next _
theorem buffer_answers {s : State} {e : BufEntry} {k : State → Out} (h : ∀ t, Answers (k t)) : Answers (s.buffer e k) :=
  answers_ite (h _) (answers_next _)

/-! ## Reads and writes of memory -/

theorem readCheck_answers {s : State} {home : Bool} {ps : List Piece} {k : State → Out} (h : ∀ t, Answers (k t)) :
    Answers (s.readCheck home ps k) := by
  dsimp only [State.readCheck]
  split
  · exact answers_next _
  · exact h _
theorem endRead_answers (s s' : State) (fixed : Bool) (ps : List Piece) : Answers (endRead s s' fixed ps) := by
  refine answers_ite (retire_answers _ _) ?_
  split
  · exact retireLong_answers _ _
  · exact retire_answers _ _
theorem readPieces_answers (s : State) (fixed : Bool) (ps : List Piece) (dst : XR × Bool ⊕ VR × ElemT × KWord)
    (fin : State → Nat → State) : Answers (readPieces s fixed ps dst fin) := by
  dsimp only [readPieces]
  split
  · exact answers_next _
  · exact answers_ite (answers_next _) (endRead_answers _ _ _ _)
  · exact readCheck_answers fun _ => endRead_answers _ _ _ _
theorem load_answers (s : State) (sg : Bool) (n : Nat) (d : XR) (ea : Word) : Answers (load s sg n d ea) := by
  refine onRes_answers fun ps => ?_
  split
  · exact readCheck_answers fun _ => retire_answers _ _
  · exact readPieces_answers _ _ _ _ _
theorem bufferStore_answers (s : State) (ps : List Piece) (bs : List (Nat × Byte)) : Answers (bufferStore s ps bs) := by
  unfold bufferStore
  split
  · exact answers_next _
  · exact buffer_answers fun _ => answers_ite (retire_answers _ _) (retire_answers _ _)
theorem store_answers (s : State) (n : Nat) (a : XS) (ea : Word) : Answers (store s n a ea) :=
  onRes_answers fun _ => bufferStore_answers _ _ _
theorem vload_answers (s : State) (t : ElemT) (d : VR) (m : KR) (fixed : Bool) (base : Word) (step : Nat → Int) :
    Answers (vload s t d m fixed base step) :=
  onRes_answers fun _ => readPieces_answers _ _ _ _ _
theorem vstore_answers (s : State) (t : ElemT) (a : VR) (m : KR) (base : Word) (step : Nat → Int) :
    Answers (vstore s t a m base step) :=
  onRes_answers fun _ => bufferStore_answers _ _ _
theorem prefetch_answers (s : State) (ea : Word) (k : State → Piece → State) : Answers (prefetch s ea k) := by
  refine answers_ite (retireLong_answers _ _) ?_
  split
  · exact answers_next _
  · exact retireLong_answers _ _
  · exact retireLong_answers _ _
theorem maintain_answers {s : State} {ea : Word} {k : Piece → Out} (h : ∀ p, Answers (k p)) : Answers (maintain s ea k) := by
  refine answers_ite (retireLong_answers _ _) (onRes_answers fun ps => ?_)
  split
  · exact h _
  · exact retireLong_answers _ _
theorem fullEmpty_answers (s : State) (op : FeOp) (d : Option XR) (data ea : Word) : Answers (fullEmpty s op d data ea) := by
  unfold fullEmpty
  split
  · exact retire_answers _ _
  · have sent : ∀ ps t, Answers (State.readCheck t false ps fun t =>
        let w := windowKey t.myCore ea.toNat
        if allOwn t.myCore ps && t.feReady op w then retire t (((t.feDo t.cur op w data).serveAll w).feEnd op d)
        else .next ((t.park (.fullEmpty (spadCore w))).post (.fullEmptyAtPort t.cur op w (d.getD 0) data))) :=
      fun _ _ => readCheck_answers fun _ => answers_ite (retire_answers _ _) (answers_next _)
    refine answers_ite (answers_next _) (answers_ite (answers_next _) (answers_ite (answers_next _) (onRes_answers fun ps => ?_)))
    split
    · exact drained_answers (sent ps)
    · exact released_answers (sent ps)
theorem atomic_answers (s : State) (op : AmoOp) (o : Ord) (sc : Scope) (w : Bool) (ea c e : Word) (d : Option XR) :
    Answers (atomic s op o sc w ea c e d) := by
  have sent : ∀ ps t, Answers (State.readCheck t true ps fun s =>
      let loc := (pieceKeys ps).getD 0 0
      retire s ((s.mapMe fun x => { x with why := some .longOp, fill := some ⟨x.asid.toNat, ea.toNat, loc, none⟩ }).post
        (.atomicAtPlace op w o sc loc c e s.cur d))) :=
    fun _ _ => readCheck_answers fun _ => retire_answers _ _
  exact answers_ite (answers_next _) (onRes_answers fun ps => answers_ite (ordered_answers (sent ps)) (drained_answers (sent ps)))
theorem cellForm_answers (s : State) (acc : Acc) (vas : List Nat) (ops : List CellOp) : Answers (cellForm s acc vas ops) :=
  onRes_answers fun _ => readCheck_answers fun _ => pastMarkers_answers fun _ => retire_answers _ _
theorem readRecord_answers {s : State} {r : Res} {rel : Option Scope} {k : State → Nat → Out}
    (h : ∀ t v, Answers (k t v)) : Answers (readRecord s r rel k) := by
  refine onRes_answers fun ps => ?_
  have go : ∀ t, Answers (State.readCheck t false ps fun t => k t (t.readKeys (pieceKeys ps))) :=
    fun _ => readCheck_answers fun _ => h _ _
  cases rel with
  | none => exact drained_answers go
  | some sc => exact ordered_answers go
theorem readRequest_answers {s : State} {b : XS} {k : State → Nat → Nat → Out} (h : ∀ t g v, Answers (k t g v)) :
    Answers (readRequest s b k) :=
  needSys_answers (needAligned_answers (readRecord_answers fun _ _ => needAligned_answers (h _ _ _)))

/-! ## The shapes that the forms of a family share -/

theorem branch_answers (s s' : State) (taken : Bool) (off : BitVec 16) : Answers (branch s s' taken off) :=
  answers_ite (transfer_answers _ _ _) (retire_answers _ _)
theorem endStatus_answers (s t : State) (d : XR) (status : Nat) : Answers (endStatus s t d status) := retireLong_answers _ _
theorem regCheck_answers {s : State} {num : Nat} {write : Bool} {k : Out} (h : Answers k) :
    Answers (s.regCheck num write k) := by
  unfold State.regCheck
  split
  · exact answers_next _
  · split
    · exact answers_ite h (answers_next _)
    · exact answers_ite h (answers_next _)
    · exact h
theorem writeReg_answers {s : State} {num : Nat} {a : XS} {rsv : Word} {k : Word → Out} (h : ∀ v, Answers (k v)) :
    Answers (writeReg s num a rsv k) :=
  regCheck_answers (answers_ite (h _) (answers_next _))
theorem writeCtx_answers (s : State) (num : Nat) (a : XS) (rsv : Word) (f : Ctx → Word → Ctx) :
    Answers (writeCtx s num a rsv f) :=
  writeReg_answers fun _ => retire_answers _ _
theorem writeDeque_answers (s : State) (num : Nat) (a : XS) (rsv : Word) (ok : Core → Word → Bool)
    (f : Core → Word → Core) : Answers (writeDeque s num a rsv ok f) := by
  unfold writeDeque
  exact writeReg_answers fun _ => answers_ite (retire_answers _ _) (answers_next _)
theorem sluiceCheck_answers {s : State} {ch : Fin 16} {k : Nat → Out} (h : ∀ l, Answers (k l)) :
    Answers (s.sluiceCheck ch k) := by
  unfold State.sluiceCheck
  split
  · exact answers_next _
  · exact answers_ite (h _) (answers_next _)
theorem arrive_answers (s : State) (ch : Fin 16) (d : XR) (rel drop : Bool) : Answers (arrive s ch d rel drop) :=
  sluiceCheck_answers fun _ => answers_ite (retire_answers _ _) (answers_ite (answers_next _) (answers_next _))
theorem takeEntry_answers (s : State) (sc : Scope) (i : Nat) (m : Msg) (d : VR) (xm : XR) :
    Answers (takeEntry s sc i m d xm) :=
  answers_ite (answers_next _) (retire_answers _ _)
theorem atHome_answers {s : State} {c loc : Nat} {e : Instr} {test : State → Out} (h : ∀ t, Answers (test t)) :
    Answers (atHome s c loc e test) :=
  answers_ite (answers_next _) (answers_ite (answers_next _) (answers_ite (answers_next _)
    (answers_ite (h _) (answers_ite (answers_next _) (answers_next _)))))
theorem waitvTest_answers (s : State) (c loc : Nat) (wide ne : Bool) (x m : Word) :
    Answers (waitvTest s c loc wide ne x m) :=
  answers_ite (answers_next _) (answers_ite (answers_next _) (answers_next _))
theorem syncTest_answers (s : State) (c loc : Nat) : Answers (syncTest s c loc) :=
  answers_ite (answers_next _) (answers_ite (answers_next _) (answers_next _))
theorem waitChecks_answers {s : State} {ea : Word} {n : Nat} {rel : Option Scope} {k : State → Nat → Out}
    (h : ∀ t l, Answers (k t l)) : Answers (waitChecks s ea n rel k) := by
  refine answers_ite (answers_next _) (onRes_answers fun ps => ?_)
  have go : ∀ t, Answers (State.readCheck t true ps fun t => k t ((pieceKeys ps).getD 0 0)) :=
    fun _ => readCheck_answers fun _ => h _ _
  cases rel with
  | none => exact drained_answers go
  | some sc => exact ordered_answers go
theorem notify_answers (s : State) (sc : Scope) (all : Bool) (d : XR) (b : XS) : Answers (notify s sc all d b) :=
  waitChecks_answers fun _ _ => retire_answers _ _
theorem engine_answers (s : State) (form : EngForm) (sc : Scope) (d : XR) (b c e : XS) :
    Answers (engine s form sc d b c e) :=
  needNext_answers (released_answers fun _ => answers_next _)
theorem answered_answers {c : Nat} {o : Out} (h : Answers o) : Answers (answered c o) := by
  obtain ⟨t, rfl⟩ := h
  exact answers_next _
theorem refuse_answers {s : State} {c : Nat} {r : Res} {acc : Acc} {again : Instr} {k : List Piece → Out}
    (h : ∀ ps, Answers (k ps)) : Answers (refuse s c r acc again k) := by
  cases r with
  | ok ps => exact h ps
  | _ => exact answers_next _
theorem engRecord_answers {s : State} {c : Nat} {ps : List Piece} {again : Instr} {k : State → List Nat → Out}
    (h : ∀ t ws, Answers (k t ws)) : Answers (engRecord s c ps again k) := by
  dsimp only [engRecord]
  split
  · exact answers_next _
  · split
    · exact answers_next _
    · exact h _ _
theorem reapWait_answers (s : State) (c : Nat) : Answers (reapWait s c) := answers_next _
theorem joinUpdate_answers (s t : State) (va loc : Nat) (v : Word) (d : XR) (new : Bool) :
    Answers (joinUpdate s t va loc v d new) :=
  retire_answers _ _
theorem optical_answers (s : State) (form : OptForm) (pol : Pol) (ofm : Ofm) (d : XR) (b c e : XS) :
    Answers (optical s form pol ofm d b c e) :=
  needNext_answers (drained_answers fun _ => answers_next _)
theorem passForm_answers (s : State) (form : OptForm) (pol : Pol) (ofm : Ofm) (d : XR) (b c e : XS) :
    Answers (passForm s form pol ofm d b c e) := by
  unfold passForm
  split
  · exact answers_next _
  · exact optical_answers _ _ _ _ _ _ _ _
  · exact needRmode_answers (optical_answers _ _ _ _ _ _ _ _)

/-! ## Acceptance by the engines and the OMU, and what goes on there -/

theorem acceptCopy_answers (s : State) (c : Nat) (r : EngReq) : Answers (acceptCopy s c r) := by
  refine answers_ite (answers_next _) ?_
  split
  · exact answers_next _
  · exact refuse_answers fun _ => refuse_answers fun _ => refuse_answers fun _ => engRecord_answers fun _ _ =>
      refuse_answers fun _ => answers_next _
theorem acceptRdct_answers (s : State) (c : Nat) (op : RedOp) (r : EngReq) : Answers (acceptRdct s c op r) := by
  refine answers_ite (answers_next _) (answers_ite (answers_next _) (refuse_answers fun _ => ?_))
  dsimp only
  split
  · exact answers_next _
  · exact answers_ite (answers_next _) (answers_next _)
theorem acceptHdsub_answers (s : State) (c : Nat) (r : EngReq) : Answers (acceptHdsub s c r) := by
  refine answers_ite (answers_next _) (answers_ite (answers_next _) (answers_ite (answers_next _) (answers_ite (answers_next _) ?_)))
  refine refuse_answers fun _ => refuse_answers fun _ => engRecord_answers fun _ _ =>
    answers_ite (answers_next _) (refuse_answers fun _ => ?_)
  split
  · exact answers_next _
  · exact answers_next _
theorem acceptTlret_answers (s : State) (c : Nat) (r : EngReq) : Answers (acceptTlret s c r) := by
  dsimp only [acceptTlret]
  split
  · exact answers_next _
  · refine answers_ite (answers_next _) (answers_ite (answers_next _) ?_)
    split
    · exact answers_next _
    · exact answers_next _
theorem execEngineAcceptance_answers (c : Nat) (r : EngReq) (s : State) : Answers (execEngineAcceptance c r s) := by
  refine answers_ite (answers_next _) (answered_answers ?_)
  split
  · exact acceptRdct_answers _ _ _ _
  · exact acceptHdsub_answers _ _ _
  · exact acceptTlret_answers _ _ _
  · exact acceptCopy_answers _ _ _
theorem redRoot_answers (s : State) (cl : Nat) (x : Red) : Answers (s.redRoot cl x) := by
  dsimp only [State.redRoot]
  split
  · exact answers_next _
  · split
    · exact answers_next _
    · exact answers_next _
    · exact answers_ite (answers_next _) (answers_next _)
theorem execRdctNodeCombine_answers (cl seq : Nat) (s : State) : Answers (execRdctNodeCombine cl seq s) := by
  unfold execRdctNodeCombine
  split
  · exact answers_next _
  · refine answers_ite (redRoot_answers _ _ _) (answers_ite (answers_next _) (answers_ite (answers_next _)
      (answers_ite (answers_next _) (answers_ite (answers_next _) ?_))))
    dsimp only
    split
    · exact answers_next _
    · exact answers_next _
theorem acceptOptical_answers (c : Nat) (r : OptReq) (s : State) : Answers (acceptOptical c r s) := by
  dsimp only [acceptOptical]
  split
  · refine answers_ite (answers_next _) (answers_ite (answers_next _) (answers_ite (answers_next _) ?_))
    split <;> exact answers_next _
  · refine answers_ite (answers_next _) ?_
    split
    · exact answers_ite (answers_next _) (answers_next _)
    · exact answers_ite (answers_next _) (answers_next _)
    · exact answers_ite (answers_next _) (answers_next _)
    · refine answers_ite (answers_next _) (answers_ite (answers_next _) ?_)
      split <;> exact answers_next _
    · refine answers_ite (answers_next _) (answers_ite (answers_next _) ?_)
      split
      · exact answers_next _
      · exact answers_next _
      · exact answers_ite (answers_next _) (answers_next _)
theorem execOpticalAcceptance_answers (c : Nat) (r : OptReq) (s : State) : Answers (execOpticalAcceptance c r s) :=
  answers_ite (answers_next _) (answered_answers (acceptOptical_answers _ _ _))
theorem millWrite_answers (s : State) (cl : Nat) (x : Decomp) : Answers (s.millWrite cl x) := by
  dsimp only [State.millWrite]
  split
  · exact answers_next _
  · split
    · exact answers_next _
    · exact answers_next _
    · exact answers_ite (answers_next _) (answers_ite (answers_next _) (answers_next _))
theorem execDecompositionComplete_answers (cl : Nat) (s : State) : Answers (execDecompositionComplete cl s) := by
  unfold execDecompositionComplete
  split
  · exact answers_next _
  · refine answers_ite (millWrite_answers _ _ _) ?_
    split
    · exact answers_next _
    · dsimp only
      split <;> exact answers_next _

/-! ## Heads and events of their own shape -/

theorem execWaitTableEntryGrant_answers (h : Nat) (s : State) : Answers (execWaitTableEntryGrant h s) := by
  unfold execWaitTableEntryGrant
  split
  · exact answers_next _
  · split
    · exact answers_ite (waitvTest_answers _ _ _ _ _ _ _) (answers_next _)
    · exact answers_ite (syncTest_answers _ _ _) (answers_next _)
    · exact answers_next _
theorem execAtomicAtPlace_answers (op : AmoOp) (w : Bool) (o : Ord) (sc : Scope) (loc : Nat) (c e : Word) (x : Nat)
    (d : Option XR) (s : State) : Answers (execAtomicAtPlace op w o sc loc c e x d s) :=
  answers_ite (answers_next _) (answers_ite (answers_next _) (answers_ite (answers_next _) (answers_next _)))
theorem execPassRowWrite_answers (cl : Nat) (s : State) : Answers (execPassRowWrite cl s) := by
  unfold execPassRowWrite
  split
  · exact answers_next _
  · refine answers_ite (answers_next _) (answers_ite (answers_next _) (answers_ite (answers_next _) ?_))
    split <;> exact answers_next _
theorem execAtsTranslationCompletion_answers (f asid g pa : Nat) (contiguous r w x : Bool) (s : State) :
    Answers (execAtsTranslationCompletion f asid g pa contiguous r w x s) := by
  unfold execAtsTranslationCompletion
  split
  · exact answers_next _
  · refine answers_ite (answers_next _) (answers_ite (answers_next _) ?_)
    split
    · exact answers_next _
    · exact answers_next _
    · exact answers_ite (answers_next _) (answers_ite (answers_next _) (answers_ite (answers_next _)
        (answers_ite (answers_next _) (answers_next _))))
theorem execFlitReceive_answers (k src srcPart tgtPart seq : Nat) (c : Nat × Nat) (crcOk : Bool) (a : Nat) (w : FlitWork)
    (s : State) : Answers (execFlitReceive k src srcPart tgtPart seq c crcOk a w s) :=
  answers_ite (answers_next _) (answers_ite (answers_next _) (answers_ite (answers_ite (answers_next _) (answers_next _))
    (answers_ite (answers_next _) (answers_ite (answers_next _) (answers_ite (answers_next _) (answers_next _))))))
theorem execHeartbeatReceive_answers (y d window : Nat) (coordsOk : Bool) (flit : VoteFlit) (crcOk : Bool) (s : State) :
    Answers (execHeartbeatReceive y d window coordsOk flit crcOk s) := by
  unfold execHeartbeatReceive
  split
  · exact answers_next _
  · refine answers_ite (answers_next _) (answers_ite (answers_next _) (answers_ite (answers_next _) ?_))
    cases (s.seenBy y d).appeal with
    | some n => exact answers_ite (answers_next _) (answers_ite (answers_next _) (answers_next _))
    | none => exact answers_next _
theorem execRotorSlotStart_answers (k : Nat) (offset : BitVec 16) (relockOk : Bool) (s : State) :
    Answers (execRotorSlotStart k offset relockOk s) :=
  answers_ite (answers_next _) (answers_ite (answers_next _) (answers_ite (answers_next _)
    (answers_ite (answers_ite (answers_next _) (answers_next _)) (answers_ite (answers_next _)
      (answers_ite (answers_next _) (answers_ite (answers_next _) (answers_next _)))))))
theorem execSetCtrl_answers (tag fn ctrl units : Nat) (value : Word) (s : State) :
    Answers (execSetCtrl tag fn ctrl units value s) := by
  refine inService_answers ?_
  split
  · exact answers_next _
  · exact answers_ite (answers_next _) (answers_next _)
theorem execSetCtrlMinSecurityVersion_answers (tag version : Nat) (s : State) :
    Answers (execSetCtrlMinSecurityVersion tag version s) :=
  inService_answers (answers_ite (answers_next _) (answers_ite (answers_next _) (answers_next _)))
theorem execHostAssist_answers (tag req status pa : Nat) (s : State) : Answers (execHostAssist tag req status pa s) := by
  refine inService_answers ?_
  split
  · exact answers_next _
  · exact answers_next _
theorem execReadDebug_answers (tag which unit : Nat) (clear : Bool) (s : State) : Answers (execReadDebug tag which unit clear s) :=
  inService_answers (answers_ite (answers_next _) (answers_ite (answers_next _) (answers_ite (answers_next _) (answers_next _))))
theorem execHalt_answers (s : State) : Answers (execHalt s) :=
  answers_ite (answers_next _) (drained_answers fun _ => retire_answers _ _)
theorem execLdp_answers (d : XR) (w : Fin 4) (off : BitVec 16) (s : State) : Answers (execLdp d w off s) :=
  answers_ite (answers_next _) (answers_ite (answers_next _)
    (answers_ite (onRes_answers fun _ => readPieces_answers _ _ _ _ _) (retireLong_answers _ _)))
theorem execCclean_answers (b : XS) (off : BitVec 16) (s : State) : Answers (execCclean b off s) :=
  maintain_answers fun _ => openLine_answers (drained_answers fun _ => retireLong_answers _ _)
theorem execCflush_answers (b : XS) (off : BitVec 16) (s : State) : Answers (execCflush b off s) :=
  maintain_answers fun _ => openLine_answers (drained_answers fun _ => retireLong_answers _ _)
theorem execIflush_answers (b : XS) (off : BitVec 16) (s : State) : Answers (execIflush b off s) :=
  maintain_answers fun _ => drained_answers fun _ => retireLong_answers _ _
theorem execFflag_answers (sc : Scope) (a b : XS) (s : State) : Answers (execFflag sc a b s) := by
  unfold execFflag
  exact answers_ite (answers_next _) (onRes_answers fun _ => answers_ite (answers_next _)
    (answers_ite (ordered_answers fun _ => retireLong_answers _ _)
      (ordered_answers fun _ => answers_ite (answers_next _) (answers_ite (answers_next _) (retireLong_answers _ _)))))
theorem execBwt_answers (ch : Fin 16) (a : XS) (s : State) : Answers (execBwt ch a s) :=
  sluiceCheck_answers fun _ => answers_ite (answers_ite (retireLong_answers _ _) (retire_answers _ _)) (answers_next _)
theorem execWaitv_answers (ne : Bool) (sc : Scope) (w : Bool) (d : XR) (b c e : XS) (s : State) :
    Answers (execWaitv ne sc w d b c e s) := by
  unfold execWaitv
  split
  · exact retireLong_answers _ _
  · exact waitChecks_answers fun _ _ => answers_next _
theorem execSend_answers (sc : Scope) (q : Fin 4) (d : XR) (b : XS) (c : VR) (s : State) : Answers (execSend sc q d b c s) := by
  refine ordered_answers fun t => answers_ite (answers_ite (retire_answers _ _) (retire_answers _ _)) ?_
  split
  · exact answers_ite (retire_answers _ _) (retire_answers _ _)
  · exact retire_answers _ _
theorem execRecv_answers (sc : Scope) (q : Option (Fin 4)) (d : VR) (xm : XR) (s : State) : Answers (execRecv sc q d xm s) := by
  dsimp only [execRecv]
  split
  · exact takeEntry_answers _ _ _ _ _ _
  · exact answers_next _
theorem execRecvt_answers (sc : Scope) (q : Option (Fin 4)) (d : VR) (xm : XR) (s : State) : Answers (execRecvt sc q d xm s) := by
  dsimp only [execRecvt]
  split
  · exact takeEntry_answers _ _ _ _ _ _
  · exact retire_answers _ _
theorem execSpawn_answers (d : XR) (b c : XS) (s : State) : Answers (execSpawn d b c s) := by
  refine onRes_answers fun _ => ordered_answers fun _ => readCheck_answers fun _ => ?_
  split
  · exact answers_next _
  · exact answers_next _
  · exact answers_next _
  · dsimp only
    split
    · exact retireLong_answers _ _
    · exact answers_next _
theorem execSync_answers (d : XR) (b : XS) (s : State) : Answers (execSync d b s) := by
  unfold execSync
  split
  · exact retireLong_answers _ _
  · exact onRes_answers fun _ => drained_answers fun _ => readCheck_answers fun _ => answers_next _
theorem execTake_answers (d : XR) (s : State) : Answers (execTake d s) :=
  needTask_answers (answers_ite (answers_ite (answers_next _) (retire_answers _ _))
    (answers_ite (answers_next _) (retireAfter_answers _ _ _)))
theorem execTdone_answers (d : XR) (s : State) : Answers (execTdone d s) :=
  needTask_answers (onRes_answers fun _ => ordered_answers fun _ => readCheck_answers fun _ =>
    answers_ite (retireLong_answers _ _) (onRes_answers fun _ => readCheck_answers fun _ => joinUpdate_answers _ _ _ _ _ _ _))
theorem execSlice_answers (d : XR) (b c : XS) (s : State) : Answers (execSlice d b c s) := by
  refine answers_ite (answers_next _) ?_
  dsimp only
  split
  · exact answers_next _
  · exact answers_ite (answers_next _) (answers_ite (answers_next _) (retireAfter_answers _ _ _))
  · exact readCheck_answers fun _ => answers_ite (answers_next _) (retireAfter_answers _ _ _)
theorem execHdend_answers (d : XR) (b : XS) (s : State) : Answers (execHdend d b s) := by
  refine drained_answers fun _ => ?_
  dsimp only
  split
  · exact answers_next _
  · exact retire_answers _ _
theorem execAwait_answers (d : XR) (b : XS) (s : State) : Answers (execAwait d b s) :=
  answers_ite (answers_next _) (drained_answers fun _ => answers_ite (retire_answers _ _) (retireLong_answers _ _))
theorem execLaunch_answers (d : XR) (b : XS) (s : State) : Answers (execLaunch d b s) := by
  refine needAligned_answers (readRecord_answers fun _ _ => ?_)
  dsimp only
  split
  · exact endStatus_answers _ _ _ _
  · exact answers_ite (retire_answers _ _) (readRecord_answers fun _ _ => retire_answers _ _)
theorem execStart_answers (n : Fin 16) (d : XR) (b : XS) (s : State) : Answers (execStart n d b s) :=
  needMiller_answers (needAligned_answers (readRecord_answers fun _ _ => answers_ite (endStatus_answers _ _ _ _)
    (answers_ite (endStatus_answers _ _ _ _) (answers_ite (endStatus_answers _ _ _ _)
      (answers_ite (endStatus_answers _ _ _ _) (endStatus_answers _ _ _ _))))))
theorem execReap_answers (n : Fin 16) (d : XR) (s : State) : Answers (execReap n d s) := by
  refine needMiller_answers ?_
  split
  · exact retireLong_answers _ _
  · split
    · exact reapWait_answers _ _
    · exact retireLong_answers _ _
  · refine answers_ite ?_ (reapWait_answers _ _)
    split
    · exact reapWait_answers _ _
    · exact retireLong_answers _ _
theorem execMigr_answers (d : XR) (b : XS) (s : State) : Answers (execMigr d b s) :=
  needSys_answers (answers_ite (endStatus_answers _ _ _ _) (answers_ite (endStatus_answers _ _ _ _)
    (answers_ite (endStatus_answers _ _ _ _) (answers_ite (endStatus_answers _ _ _ _)
      (answers_ite (endStatus_answers _ _ _ _) (endStatus_answers _ _ _ _))))))
theorem execCtxsv_answers (n : Fin 16) (d : XR) (b : XS) (s : State) : Answers (execCtxsv n d b s) := by
  refine needSys_answers (needAligned_answers (onRes_answers fun _ => drained_answers fun _ =>
    answers_ite (endStatus_answers _ _ _ _) ?_))
  split
  · exact reapWait_answers _ _
  · exact answers_ite (reapWait_answers _ _)
      (answers_ite (answers_ite (retire_answers _ _) (answers_next _)) (retireLong_answers _ _))
theorem execCtxld_answers (n : Fin 16) (d : XR) (b : XS) (s : State) : Answers (execCtxld n d b s) :=
  needSys_answers (needAligned_answers (readRecord_answers fun _ _ => answers_ite (endStatus_answers _ _ _ _)
    (answers_ite (endStatus_answers _ _ _ _) (answers_ite (answers_next _) (endStatus_answers _ _ _ _)))))
theorem execPrmt_answers (d : XR) (b : XS) (s : State) : Answers (execPrmt d b s) := by
  refine readRequest_answers fun _ _ _ => ?_
  dsimp only
  split
  · exact endStatus_answers _ _ _ _
  · exact answers_ite (endStatus_answers _ _ _ _) (answers_ite (endStatus_answers _ _ _ _)
      (onRes_answers fun _ => retire_answers _ _))
theorem execRsme_answers (d : XR) (b : XS) (s : State) : Answers (execRsme d b s) := by
  refine readRequest_answers fun _ _ _ => ?_
  dsimp only
  split
  · exact endStatus_answers _ _ _ _
  · exact endStatus_answers _ _ _ _
  · refine answers_ite (endStatus_answers _ _ _ _) (answers_ite (endStatus_answers _ _ _ _)
      (onRes_answers fun _ => readCheck_answers fun _ => ?_))
    split
    · exact answers_ite (endStatus_answers _ _ _ _) (retire_answers _ _)
    · exact endStatus_answers _ _ _ _
theorem execErrinj_answers (d : XR) (b : XS) (s : State) : Answers (execErrinj d b s) :=
  needSys_answers (answers_ite (answers_next _) (answers_ite (retireLong_answers _ _) (retireLong_answers _ _)))
theorem execMtsEpc_answers (a : XS) (s : State) : Answers (execMtsEpc a s) := by
  unfold execMtsEpc
  exact writeReg_answers fun _ => needHead_answers (retire_answers _ _)
theorem execMtsTvec_answers (a : XS) (s : State) : Answers (execMtsTvec a s) := by
  unfold execMtsTvec
  exact writeReg_answers fun _ => needHead_answers (retire_answers _ _)
theorem execMtsSgmask_answers (n : Fin 4) (a : XS) (s : State) : Answers (execMtsSgmask n a s) := by
  unfold execMtsSgmask
  exact writeReg_answers fun _ => retire_answers _ _
theorem execMts_answers (a : XS) (num : BitVec 12) (s : State) : Answers (execMts a num s) := by
  unfold execMts
  exact answers_ite (writeCtx_answers _ _ _ _ _) (answers_ite (writeCtx_answers _ _ _ _ _)
    (answers_ite (regCheck_answers (retire_answers _ _)) (answers_next _)))

/-! ## Every instruction, and every step -/

/-- An event answers: most of them by the branches of their definition, each of which is a next state. -/
theorem exec_event_answers {i : Instr} (h : encodeFields i = none) (s : State) : Answers (exec i s) := by
  cases i with
  | millerTakeTrap | asyncTrapTake | corePlacement | launchEnd | storeBufferDrain | fullEmptyAtPort | peerAccessAtPort |
    cellOperationAtHome | notifyAtHome | joinUpdateAtHome | sluiceArrivalCount | sluiceRelay | sluiceCompletionSeen |
    messageArrival | spilledMessageMove | engineWordWrite | engineCommandComplete | cpytFramePush | headraceTileFill |
    tailraceWriteback | probeSymbol | passComplete | phaseLoadEnd | phaseSwap | calibrationStart | calibrationComplete |
    governorLock | governorEnterDrift | governorLeaveDrift | recalibrationStart | temperatureLoop | dequeRefill | stealProbeRead |
    stealCas | loadTask | translationRequest | walkComplete | sliceEntryPinExpiry | pageRequestSend | pageRequestResponse |
    invalidationComplete | hostMessage | bar2Access | bar2AtomicOp | bar0RegisterWrite | flitAck | completionMarkerReceive |
    circuitBringUpComplete | portResyncComplete | scrubVisit | verticalBusTest | heartbeatSend | heartbeatDeadline |
    suspectNotice | quarantineEnd | appeal | temperatureSample | migrationStart | migrationRetry | migrationStateCopy |
    migrationCommit | sliceFrameWriteback | slicePowerOff | sliceRecovery | powerSample | hostLinkTrained | hbmStackReady |
    fieldReady | clusterReady | fwStage | inventoryUpdate =>
    dsimp only [exec, execMillerTakeTrap, execAsyncTrapTake, execCorePlacement, execLaunchEnd, execStoreBufferDrain,
      execFullEmptyAtPort, execPeerAccessAtPort, execCellOperationAtHome, execNotifyAtHome, execJoinUpdateAtHome,
      execSluiceArrivalCount, execSluiceRelay, execSluiceCompletionSeen, execMessageArrival, execSpilledMessageMove,
      execEngineWordWrite, execEngineCommandComplete, execCpytFramePush, execHeadraceTileFill, execTailraceWriteback,
      execProbeSymbol, execPassComplete, execPhaseLoadEnd, execPhaseSwap, execCalibrationStart,
      execCalibrationComplete, execGovernorLock, execGovernorEnterDrift, execGovernorLeaveDrift,
      execRecalibrationStart, execTemperatureLoop, execDequeRefill, execStealProbeRead, execStealCas, execLoadTask,
      execTranslationRequest, execWalkComplete, execSliceEntryPinExpiry, execPageRequestSend, execPageRequestResponse,
      execInvalidationComplete, execHostMessage, execBar2Access, execBar2AtomicOp, execBar0RegisterWrite, execFlitAck,
      execCompletionMarkerReceive, execCircuitBringUpComplete, execPortResyncComplete, execScrubVisit,
      execVerticalBusTest, execHeartbeatSend, execHeartbeatDeadline, execSuspectNotice, execQuarantineEnd, execAppeal,
      execTemperatureSample, execMigrationStart, execMigrationRetry, execMigrationStateCopy, execMigrationCommit,
      execSliceFrameWriteback, execSlicePowerOff, execSliceRecovery, execPowerSample, execHostLinkTrained,
      execHbmStackReady, execFieldReady, execClusterReady, execFwStage, execInventoryUpdate]
    (repeat' split) <;> exact answers_next _
  | longOpReply | yieldRejoin | ifetchLineArrival | proxyAccess | sendStatusReturn | priEnable | priStop |
    atsInvalidationRequest | fenceNotice | moduleReset | vmainLoss | vmainPowerOn | combLightLoss | combLightReturn |
    commandRingTailWrite | responseRingHeadWrite | spdm | illegalInstruction | softError => exact answers_next _
  | waitvAtHome => exact atHome_answers fun _ => waitvTest_answers _ _ _ _ _ _ _
  | syncAtHome => exact atHome_answers fun _ => syncTest_answers _ _ _
  | setTable | inval => exact inService_answers (answers_next _)
  | waitTableEntryGrant => exact execWaitTableEntryGrant_answers ..
  | engineAcceptance => exact execEngineAcceptance_answers ..
  | rdctNodeCombine => exact execRdctNodeCombine_answers ..
  | opticalAcceptance => exact execOpticalAcceptance_answers ..
  | decompositionComplete => exact execDecompositionComplete_answers ..
  | rotorSlotStart => exact execRotorSlotStart_answers ..
  | setCtrl => exact execSetCtrl_answers ..
  | setCtrlMinSecurityVersion => exact execSetCtrlMinSecurityVersion_answers ..
  | hostAssist => exact execHostAssist_answers ..
  | readDebug => exact execReadDebug_answers ..
  | atomicAtPlace => exact execAtomicAtPlace_answers ..
  | passRowWrite => exact execPassRowWrite_answers ..
  | atsTranslationCompletion => exact execAtsTranslationCompletion_answers ..
  | flitReceive => exact execFlitReceive_answers ..
  | heartbeatReceive => exact execHeartbeatReceive_answers ..
  | _ => nomatch h
/-- A head answers: most of them by the shape that their form shares with others. -/
theorem exec_head_answers {i : Instr} (h : (encodeFields i).isSome = true) (s : State) : Answers (exec i s) := by
  cases i with
  | nop | yield | add | sub | and | or | xor | andn | sll | srl | sra | ror | slt | sltn | min | max | minn | maxn | addi | andi |
    ori | xori | slli | srli | srai | slti | sltni | li | lih | mul | mulh | mulhn | div | divn | rem | remn | clz | ctz | popc |
    brev | addpc | fminF32 | fmaxF32 | feqF32 | fltF32 | fleF32 | fminF64 | fmaxF64 | feqF64 | fltF64 | fleF64 | vadd | vsub |
    vmul | vmulh | vand | vor | vxor | vandn | vsll | vsrl | vsra | vmin | vmax | vadds | vsubs | vabs | vcmpeq | vcmplt |
    vcmple | vsel | vsplat | vneg | vfmin | vfmax | vfabs | vfneg | vfcmpeq | vfcmplt | vfcmple | kand | kor | kxor | kandn |
    knot | kmovx | ktox | kpopc | kfirst | vaddi | vandi | vori | vslli | vsrli | vsrai | vsplati | vli16 | vli32 | vli64 | vxlr |
    vperm | vcompr | vexpnd | vslup | vsldn | vzip | vunzip | vextr | vins | vredMin | vredMax | vredAnd | vredOr | vscanMin |
    vscanMax | vemax | vpack | vunpk | frsqa | frcpa | fenceAcq | dqlen => exact retire_answers _ _
  | faddF32 | fsubF32 | fmulF32 | fdivF32 | fsqrtF32 | ffmaF32 | faddF64 | fsubF64 | fmulF64 | fdivF64 | fsqrtF64 | ffmaF64 |
    vfadd | vfsub | vfmul | vfma | vfms | vfnma | vfdiv | vfsqrt | vqnt | vdqnt | vrsc | vphcv =>
    exact needRmode_answers (retire_answers _ _)
  | brk | trap => exact answers_next _
  | amoAdd | amoAnd | amoOr | amoXor | amoMin | amoMax | amoMinn | amoMaxn | amoSwap | amoCas | redAdd | redAnd | redOr | redXor |
    redMin | redMax | redMinn | redMaxn => exact atomic_answers _ _ _ _ _ _ _ _ _
  | ldS8 | ldN8 | ldS16 | ldN16 | ldS32 | ldN32 | ld64 | ldxS8 | ldxN8 | ldxS16 | ldxN16 | ldxS32 | ldxN32 | ldx64 =>
    exact load_answers _ _ _ _ _
  | beq | bne | blt | bge | bltn | bgen | bkany | bkall | bknone | dbnz => exact branch_answers _ _ _ _
  | st8 | st16 | st32 | st64 | stx8 | stx16 | stx32 | stx64 => exact store_answers _ _ _ _
  | cpy | cpyt | gath | scat | mcst | hdsub | tlret => exact engine_answers _ _ _ _ _ _ _
  | mtsFctx | mtsEbcmin | mtsScptr | mtsFstat | mtsPriv | mtsAsid =>
    dsimp only [exec, execMtsFctx, execMtsEbcmin, execMtsScptr, execMtsFstat, execMtsPriv, execMtsAsid]
    exact writeCtx_answers _ _ _ _ _
  | ldFe | ldFc | stEf | stF => exact fullEmpty_answers _ _ _ _ _
  | phld | phsw | prbe | phcrc =>
    dsimp only [exec, execPhld, execPhsw, execPrbe, execPhcrc]
    exact optical_answers _ _ _ _ _ _ _ _
  | mtsDqbase | mtsDqtop | mtsDqbot | mtsDqspill =>
    dsimp only [exec, execMtsDqbase, execMtsDqtop, execMtsDqbot, execMtsDqspill]
    exact writeDeque_answers _ _ _ _ _ _
  | j | jal | jalr => exact transfer_answers _ _ _
  | vld | vlds | vldg => exact vload_answers _ _ _ _ _ _ _
  | vst | vsts | vstg => exact vstore_answers _ _ _ _ _ _
  | cadd | cclr | cstat => exact cellForm_answers _ _ _ _
  | arv | arvRlx | arvd => exact arrive_answers _ _ _ _ _
  | omx | omxa | omxw => exact passForm_answers _ _ _ _ _ _ _ _
  | vredAdd | vscanAdd => exact redRounds_answers (retireAfter_answers _ _ _)
  | vcvt | fcvt => exact cvtRounds_answers (retire_answers _ _)
  | prefL1 | prefSl =>
    dsimp only [exec, execPrefL1, execPrefSl]
    exact prefetch_answers _ _ _
  | ntf1 | ntfa => exact notify_answers _ _ _ _ _
  | caddv => exact answers_ite (retireAfter_answers _ _ _) (cellForm_answers _ _ _ _)
  | cld => exact needRmode_answers (cellForm_answers _ _ _ _)
  | cldx => exact needSys_answers (cellForm_answers _ _ _ _)
  | btest => exact sluiceCheck_answers fun _ => retire_answers _ _
  | steal => exact needTask_answers (needNext_answers (answers_next _))
  | joina => exact onRes_answers fun _ => ordered_answers fun _ => readCheck_answers fun _ => joinUpdate_answers _ _ _ _ _ _ _
  | rdct => exact answers_ite (needRmode_answers (engine_answers _ _ _ _ _ _ _)) (engine_answers _ _ _ _ _ _ _)
  | phwr => exact needRmode_answers (optical_answers _ _ _ _ _ _ _ _)
  | eret => exact needSys_answers (transfer_answers _ _ _)
  | mfs => exact regCheck_answers (retire_answers _ _)
  | halt => exact execHalt_answers ..
  | ldp => exact execLdp_answers ..
  | cclean => exact execCclean_answers ..
  | cflush => exact execCflush_answers ..
  | iflush => exact execIflush_answers ..
  | fflag => exact execFflag_answers ..
  | bwt => exact execBwt_answers ..
  | waitv => exact execWaitv_answers ..
  | send => exact execSend_answers ..
  | recv => exact execRecv_answers ..
  | recvt => exact execRecvt_answers ..
  | spawn => exact execSpawn_answers ..
  | sync => exact execSync_answers ..
  | take => exact execTake_answers ..
  | tdone => exact execTdone_answers ..
  | slice => exact execSlice_answers ..
  | hdend => exact execHdend_answers ..
  | await => exact execAwait_answers ..
  | launch => exact execLaunch_answers ..
  | start => exact execStart_answers ..
  | reap => exact execReap_answers ..
  | migr => exact execMigr_answers ..
  | ctxsv => exact execCtxsv_answers ..
  | ctxld => exact execCtxld_answers ..
  | prmt => exact execPrmt_answers ..
  | rsme => exact execRsme_answers ..
  | errinj => exact execErrinj_answers ..
  | mts => exact execMts_answers ..
  | mtsEpc => exact execMtsEpc_answers ..
  | mtsTvec => exact execMtsTvec_answers ..
  | mtsSgmask => exact execMtsSgmask_answers ..
  | fenceRel =>
    dsimp only [exec, execFenceRel]
    exact buffer_answers fun _ => retire_answers _ _
  | fenceAr =>
    dsimp only [exec, execFenceAr]
    exact buffer_answers fun _ => retireLong_answers _ _
  | fenceSc =>
    dsimp only [exec, execFenceSc]
    exact ordered_answers fun _ => retireLong_answers _ _
  | _ => nomatch h

theorem exec_answers (i : Instr) (s : State) : Answers (exec i s) := by
  cases h : encodeFields i with
  | none => exact exec_event_answers h s
  | some f => exact exec_head_answers (by rw [h]; rfl) s
theorem runHead_answers (s : State) (i : Instr) : Answers (runHead s i) := by
  unfold runHead
  split
  · exact answers_next _
  · dsimp only
    split
    · next a _ =>
      obtain ⟨s1, h1⟩ := exec_answers i (s.meetArmed a)
      rw [h1]
      exact answers_ite (answers_next _) (answers_next _)
    · obtain ⟨s1, h1⟩ := exec_answers i s
      rw [h1]
      exact answers_next _
theorem runPair_answers (s : State) (i j : Instr) : Answers (runPair s i j) := by
  unfold runPair
  split
  · exact answers_next _
  · dsimp only
    split
    · next a _ =>
      obtain ⟨s1, h1⟩ := exec_answers i (s.meetArmed a)
      obtain ⟨s2, h2⟩ := exec_answers j (s.meetArmed a).second
      rw [h1, h2]
      exact answers_ite (answers_ite (answers_next _) (answers_ite (answers_next _) (answers_next _))) (answers_next _)
    · obtain ⟨s1, h1⟩ := exec_answers i s
      obtain ⟨s2, h2⟩ := exec_answers j s.second
      rw [h1, h2]
      exact answers_ite (answers_next _) (answers_ite (answers_next _) (answers_next _))
theorem issue_answers (s : State) : Answers (issue s) := by
  unfold issue
  split
  · exact answers_next _
  · split
    · exact answers_next _
    · split
      · exact answers_next _
      · exact runHead_answers _ _
      · exact runPair_answers _ _ _
theorem step_answers (s : State) : Answers (step s) := by
  unfold step
  split
  · exact issue_answers _
  · exact answers_ite (issue_answers _) (exec_answers _ _)
/-- A run of any length is sound. -/
theorem sound_of_steps (n : Nat) : ∀ s : State, s.sound n := by
  induction n with
  | zero => exact fun _ => trivial
  | succ n ih =>
    intro s
    obtain ⟨t, ht⟩ := step_answers s
    exact ⟨t, ht, ih t⟩

/-- Settles O9: every head and event answers a next state, so the head, the pair or the event that a step runs does. -/
theorem nothingStops : Obligations.NothingStops :=
  ⟨exec_answers, fun n s => sound_of_steps n s⟩

end Sys2Proof.Machine
end

section
/-! CERTIFICATE. Jumps, branches, HALT, YIELD and BRK: O13. -/
namespace Sys2Proof.Machine

/-! ## Code targets (R82) -/

theorem lineAddr_eq_and (pc : Word) : lineAddr pc = (pc &&& ~~~(63 : Word)).toNat := by
  have hshift : pc &&& ~~~(63 : Word) = (pc >>> 6) <<< 6 := by
    have mask : ∀ i, i < 64 → (~~~(63 : Word)).getLsbD i = !decide (i < 6) := by decide
    apply BitVec.eq_of_getLsbD_eq
    intro i hi
    by_cases h : i < 6
    · rw [BitVec.getLsbD_and, mask i hi]
      simp [h]
    · rw [BitVec.getLsbD_and, mask i hi]
      simp [h, hi, show 6 + (i - 6) = i by omega]
  have hpc : pc.toNat < 2 ^ 64 := pc.isLt
  rw [hshift, BitVec.toNat_shiftLeft, BitVec.toNat_ushiftRight, Nat.shiftLeft_eq, Nat.shiftRight_eq_div_pow, lineAddr,
    Nat.mod_eq_of_lt (by omega)]
/-- A code target is the sum of the line's address and the offset in parcels. -/
theorem toNat_target {w : Nat} (pc : Word) (off : BitVec w) :
    ((pc &&& ~~~63) + off.signExtend 64 * 2).toNat = codeTarget pc off.toInt := by
  have hsum : (pc &&& ~~~63) + off.signExtend 64 * 2 = BitVec.ofInt 64 ((lineAddr pc : Int) + off.toInt * 2) := by
    rw [BitVec.ofInt_add, BitVec.ofInt_mul, lineAddr_eq_and, BitVec.ofInt_natCast, BitVec.ofNat_toNat, BitVec.setWidth_eq]
    rfl
  rw [hsum, BitVec.toNat_ofInt, codeTarget]
  rfl

/-! ## Branches (R150 to R152) -/

theorem branch_jumps {s t : State} {off : BitVec 16} (h : goodPc (s.target16 off) = true) :
    branch s t true off = .next (t.jumped (s.target16 off)) :=
  transfer_good h s t
theorem branch_traps {s t : State} {off : BitVec 16} (h : goodPc (s.target16 off) = false) :
    branch s t true off = .next (s.trap 0x02 (BitVec.ofNat 64 (s.target16 off))) :=
  transfer_bad h s t
theorem branch_steps {s : State} (h : s.flows) (t : State) (off : BitVec 16) : branch s t false off = .next (s.stepped t) :=
  retire_flows h t
theorem not_slt (x y : Word) : (!x.slt y) = decide (y.toInt ≤ x.toInt) := by
  rw [BitVec.slt, ← decide_not]
  simp
theorem not_ult (x y : Word) : (!x.ult y) = decide (y.toNat ≤ x.toNat) := by
  rw [BitVec.ult, ← decide_not]
  simp
theorem sub_one_ne_zero (x : Word) : (x - 1 != 0) = (x != 1) := by
  have h : x - 1 = 0 ↔ x = 1 := sub_eq_zero
  rw [Bool.eq_iff_iff, bne_iff_ne, bne_iff_ne, ne_eq, ne_eq, h]
/-- Each branch form is a branch on its condition, with its effect on the registers. -/
theorem exec_branch {s t : State} {a b : XS} {n : XR} {ka kb : KR} {off : BitVec 16} {i : Instr} {taken : Bool}
    (h : (i, taken, t) ∈ [(.beq a b off, s.me.getS a == s.me.getS b, s), (.bne a b off, s.me.getS a != s.me.getS b, s),
      (.blt a b off, decide ((s.me.getS a).toInt < (s.me.getS b).toInt), s),
      (.bge a b off, decide ((s.me.getS b).toInt ≤ (s.me.getS a).toInt), s),
      (.bltn a b off, decide ((s.me.getS a).toNat < (s.me.getS b).toNat), s),
      (.bgen a b off, decide ((s.me.getS b).toNat ≤ (s.me.getS a).toNat), s),
      (.bkany ka kb off, s.me.getK ka &&& s.me.getK kb != 0, s),
      (.bkall ka kb off, s.me.getK ka &&& s.me.getK kb == s.me.getK kb, s),
      (.bknone ka kb off, s.me.getK ka &&& s.me.getK kb == 0, s),
      (.dbnz n off, s.me.getX n != 1, s.putX n (s.me.getX n - 1))]) :
    exec i s = branch s t taken off := by
  simp only [List.mem_cons, List.not_mem_nil, or_false, Prod.mk.injEq] at h
  obtain ⟨rfl, rfl, rfl⟩ | ⟨rfl, rfl, rfl⟩ | ⟨rfl, rfl, rfl⟩ | ⟨rfl, rfl, rfl⟩ | ⟨rfl, rfl, rfl⟩ | ⟨rfl, rfl, rfl⟩ |
    ⟨rfl, rfl, rfl⟩ | ⟨rfl, rfl, rfl⟩ | ⟨rfl, rfl, rfl⟩ | ⟨rfl, rfl, rfl⟩ := h
  case inr.inr.inr.inl => rw [← not_slt]; rfl
  case inr.inr.inr.inr.inr.inl => rw [← not_ult]; rfl
  case inr.inr.inr.inr.inr.inr.inr.inr.inr => rw [← sub_one_ne_zero]; rfl
  all_goals rfl

/-! ## HALT and YIELD (R147) -/

/-- A context as HALT leaves it. -/
def Ctx.halted (x : Ctx) : Ctx :=
  { x with run := .halted, why := none, line := none, armed := none, reaping := false, taken := false, held := false, sent := false }
theorem seeLaunch_eq (s : State) (n : Nat) : ∃ l, s.seeLaunch n = { s with agenda := l } := by
  unfold State.seeLaunch
  split
  · exact ⟨_, rfl⟩
  · exact ⟨_, rfl⟩
/-- Halting a context changes that context, and what is pending. -/
theorem haltCtx_eq (s : State) (c : Nat) : ∃ l, haltCtx s c = { s.mapCtx c Ctx.halted with agenda := l } := by
  obtain ⟨k, hk⟩ : ∃ k, (if (s.ctx c).asyncs.isEmpty then s else s.post (.asyncTrapTake c)) = { s with agenda := k } := by
    split
    · exact ⟨_, rfl⟩
    · exact ⟨_, rfl⟩
  obtain ⟨l, hl⟩ := seeLaunch_eq (({ s with agenda := k } : State).mapCtx c Ctx.halted) (coreOf c)
  refine ⟨l, ?_⟩
  dsimp only [haltCtx]
  rw [hk]
  exact hl
theorem yieldSlot_mod (j c : Nat) (h : j < 16) : yieldSlot j c % 16 = j := by
  unfold yieldSlot; omega
theorem yieldSlot_range (j c : Nat) : c + 16 < yieldSlot j c ∧ yieldSlot j c ≤ c + 32 := by
  unfold yieldSlot; omega

/-- HALT of a context with no task in hand, and nothing in its store buffer. -/
theorem exec_halt {s : State} (htask : s.me.taskf = 0) (hbuf : s.me.buf = []) (hflows : s.flows) :
    exec .halt s = .next (s.stepped (haltCtx s s.cur)) := by
  change execHalt s = _
  rw [execHalt, if_neg (not_not_intro htask), drained_nil s hbuf, retire_flows hflows]
/-- The state that a HALT leaves. -/
theorem halt_effect (s : State) :
    (s.stepped (haltCtx s s.cur)).me = s.me.halted.stepTo s.nextPc ∧ (s.stepped (haltCtx s s.cur)).mem = s.mem := by
  obtain ⟨l, hl⟩ := haltCtx_eq s s.cur
  rw [hl]
  refine ⟨?_, rfl⟩
  rw [stepped_me]
  exact congrArg (·.stepTo s.nextPc) (ctx_mapCtx_same s s.cur Ctx.halted)
/-- The context of a YIELD, before control steps on. -/
def Ctx.yields (x : Ctx) (j c : Nat) : Ctx := { x with why := some .yield, eligFrom := yieldSlot j c }
theorem exec_yield {s : State} (hflows : s.flows) :
    exec .yield s = .next (s.stepped ((s.mapMe (·.yields (ctxNo s.cur) s.cycle)).post (.yieldRejoin s.cur))) :=
  retire_flows hflows _
theorem yield_effect (s : State) :
    (s.stepped ((s.mapMe (·.yields (ctxNo s.cur) s.cycle)).post (.yieldRejoin s.cur))).me =
      (s.me.yields (ctxNo s.cur) s.cycle).stepTo s.nextPc := by
  rw [stepped_me]
  exact congrArg (·.stepTo s.nextPc) (me_mapMe s (·.yields (ctxNo s.cur) s.cycle))

/-- Settles O13: a near target is the code target that the model computes, each branch form is a branch on its condition, and HALT
and YIELD leave the contexts computed above. -/
theorem jumpsAndBranches : Obligations.JumpsAndBranches := by
  refine ⟨?jumps, ?branches, ?rest⟩
  case jumps =>
    intro s d b off
    rw [toNat_target]
    exact ⟨fun h => ⟨transfer_good h s s, transfer_good h s _⟩, fun h => ⟨transfer_bad h s s, transfer_bad h s _⟩,
      fun h => transfer_good h s _, fun h => (transfer_bad h s _).trans (by rw [BitVec.ofNat_toNat, BitVec.setWidth_eq])⟩
  case branches =>
    intro s a b n ka kb off i taken t
    dsimp only
    rw [toNat_target]
    intro hmem
    rw [exec_branch hmem]
    exact ⟨fun htaken => htaken ▸ branch_jumps, fun htaken => htaken ▸ branch_traps,
      fun htaken hflows => htaken ▸ branch_steps hflows t off⟩
  case rest =>
    intro s
    refine ⟨fun htask => if_pos htask, fun htask hbuf hflows => ?halt, fun hflows => ?yield, fun c hwhy => ?rejoin, rfl⟩
    case halt =>
      obtain ⟨hme, hmem⟩ := halt_effect s
      exact ⟨_, exec_halt htask hbuf hflows, by rw [hme]; rfl, by rw [hme]; rfl, by rw [hme]; rfl, by rw [hme]; rfl,
        by rw [hme]; rfl, hmem⟩
    case yield =>
      have hme := yield_effect s
      obtain ⟨hafter, hbefore⟩ := yieldSlot_range (ctxNo s.cur) s.cycle
      refine ⟨_, exec_yield hflows, by rw [hme]; rfl, by rw [hme]; rfl, ?_, ?_, ?_, ?_, by rw [hme]; rfl, rfl⟩
      · rw [hme]; exact yieldSlot_mod _ _ (Nat.mod_lt _ (by decide))
      · rw [hme]; exact hafter
      · rw [hme]; exact hbefore
      · exact List.mem_append_right _ (List.mem_singleton.mpr rfl)
    case rejoin => exact congrArg Host.Outcome.next (if_pos hwhy)

end Sys2Proof.Machine
end

section
/-! SUPPORT. Replies of long ops, and a read that goes on word by word (R91, R280). -/
namespace Sys2Proof.Machine

/-! ## A read that goes on word by word (R280) -/

/-- A list of words some of which have been read anew, f giving what is read. -/
abbrev ReadAnew (f : Nat → Nat) : List (Nat × Nat) → List (Nat × Nat) → Prop :=
  List.Forall₂ fun w w' => w' = w ∨ w' = (w.1, f w.1)

theorem readAnew_tget {f : Nat → Nat} {ws ws' : List (Nat × Nat)} (h : ReadAnew f ws ws') (k : Nat) :
    tget ws' k 0 = tget ws k 0 ∨ tget ws' k 0 = f k ∧ k ∈ ws.map (·.1) := by
  induction h with
  | nil => exact .inl rfl
  | @cons w w' l l' hw _ ih =>
    obtain ⟨j, v⟩ := w
    by_cases hk : j = k
    · subst hk
      rcases hw with rfl | rfl
      · exact .inl ((if_pos rfl).trans (if_pos rfl).symm)
      · exact .inr ⟨if_pos rfl, List.mem_cons_self⟩
    · have hj : w'.1 ≠ k := by rcases hw with rfl | rfl <;> exact hk
      have hl : tget ((j, v) :: l) k 0 = tget l k 0 := if_neg hk
      have hl' : tget (w' :: l') k 0 = tget l' k 0 := if_neg hj
      rw [hl, hl']
      exact ih.imp_right fun ⟨h, hm⟩ => ⟨h, List.mem_cons_of_mem _ hm⟩


/-- What is read of such a list: of a word that has been read anew, the new value. -/
theorem tget_map_anew (f : Nat → Nat) (anew : Nat → Bool) (ws : List (Nat × Nat)) (k : Nat) :
    tget (ws.map fun w => (w.1, if anew w.1 then f w.1 else w.2)) k 0 =
      if anew k = true ∧ k ∈ ws.map (·.1) then f k else tget ws k 0 := by
  induction ws with
  | nil => simp [tget]
  | cons w l ih =>
    obtain ⟨j, v⟩ := w
    by_cases hk : j = k
    · subst hk
      simp [tget]
    · have hk' : k ≠ j := fun h => hk h.symm
      have htail : ∀ v l, tget ((j, v) :: l) k 0 = tget l k 0 := fun _ _ => if_neg hk
      simp only [List.map_cons, List.mem_cons, hk', false_or, htail]
      exact ih

theorem wordsVal_congr {ws ws' : List (Nat × Nat)} (h : ∀ k, tget ws' k 0 = tget ws k 0) (ks : List Nat) :
    wordsVal ws' ks = wordsVal ws ks := by
  induction ks with
  | nil => rfl
  | cons a as ih => rw [wordsVal, wordsVal, ih, h]

/-- Every word has its old value or the one it was read anew with. -/
theorem readAnew_wordsVal {f : Nat → Nat} {ws ws' : List (Nat × Nat)} (h : ReadAnew f ws ws') (ks : List Nat) :
    ∃ anew : Nat → Bool, wordsVal ws' ks = wordsVal (ws.map fun w => (w.1, if anew w.1 then f w.1 else w.2)) ks := by
  let anew (k : Nat) : Bool := decide (tget ws' k 0 ≠ tget ws k 0)
  refine ⟨anew, wordsVal_congr (fun k => ?_) ks⟩
  rw [tget_map_anew f anew]
  by_cases hk : tget ws' k 0 = tget ws k 0
  · rw [if_neg (fun h => absurd hk (of_decide_eq_true h.1)), hk]
  · obtain ⟨hf, hm⟩ := (readAnew_tget h k).resolve_left hk
    exact hf.trans (if_pos ⟨decide_eq_true hk, hm⟩).symm

/-- Of a context that reads on, only the tags of its reads are changed, and nothing of memory. -/
structure ReadsOn (s t : State) (c : Nat) : Prop where
  mem : SameMem s t
  ctx : ∃ rs, t.ctx c = { s.ctx c with reads := rs }

theorem ReadsOn.refl (s : State) (c : Nat) : ReadsOn s s c := ⟨.refl s, _, rfl⟩
theorem ReadsOn.freeNat {s t : State} {c : Nat} (h : ReadsOn s t c) (n : Nat) : ReadsOn s (t.freeNat n).2 c :=
  ⟨h.mem.trans (freeNat_sameMem t n), h.ctx⟩
theorem noteReads_ctx (s : State) (c : Nat) (home : Bool) (ks : List Nat) :
    ∃ rs, (s.noteReads c home ks).ctx c = { s.ctx c with reads := rs } := by
  unfold State.noteReads
  dsimp only
  split
  · exact ⟨_, rfl⟩
  · exact ⟨_, ctx_mapCtx_same _ _ _⟩
theorem ReadsOn.noteReads {s t : State} {c : Nat} (h : ReadsOn s t c) (home : Bool) (ks : List Nat) :
    ReadsOn s (t.noteReads c home ks) c := by
  obtain ⟨rs, hrs⟩ := h.ctx
  obtain ⟨rs', hrs'⟩ := noteReads_ctx t c home ks
  exact ⟨h.mem.trans (noteReads_sameMem t c home ks), rs', by rw [hrs', hrs]⟩

/-- One word of a read under way: it is left as it was read, or read anew. -/
def State.rereadWord (s : State) (c : Nat) (p : State × List (Nat × Nat) × Option Nat) (w : Nat × Nat) :
    State × List (Nat × Nat) × Option Nat :=
  let v := p.1.freeNat 2
  if v.1 = 0 then (v.2, p.2.1 ++ [w], p.2.2)
  else (v.2.noteReads c false [w.1], p.2.1 ++ [(w.1, s.rdN w.1 8)], p.2.2 <|> if s.isBad w.1 then some w.1 else none)

theorem rereads_of_late {s : State} {c : Nat} {l : LateRead} (h : (s.ctx c).late = some l) :
    s.rereads c = let r := l.words.foldl (s.rereadWord c) (s, [], none)
      (r.1.mapCtx c fun x => { x with late := some { l with words := r.2.1 } },
        r.2.2.map fun w => ((l.keys.zip l.vas).find? fun p => wordOf p.1 == w).elim 0 (·.2)) := by
  unfold State.rereads; rw [h]; rfl

theorem rereadWord_step (s : State) (c : Nat) (p : State × List (Nat × Nat) × Option Nat) (w : Nat × Nat) (hp : ReadsOn s p.1 c)
    (hgood : p.2.2 = none) (hw : s.isBad w.1 = false) :
    ReadsOn s (s.rereadWord c p w).1 c ∧ (s.rereadWord c p w).2.2 = none ∧
    ∃ w', (s.rereadWord c p w).2.1 = p.2.1 ++ [w'] ∧ (w' = w ∨ w' = (w.1, s.rdN w.1 8)) := by
  unfold State.rereadWord
  dsimp only
  split
  · exact ⟨hp.freeNat 2, hgood, w, rfl, .inl rfl⟩
  · refine ⟨(hp.freeNat 2).noteReads false _, ?_, _, rfl, .inr rfl⟩
    rw [hgood, hw]; rfl

/-- Where no word is poisoned, each is as it was read or is read anew. -/
theorem rereadWord_fold (s : State) (c : Nat) (ws : List (Nat × Nat)) (p : State × List (Nat × Nat) × Option Nat) (hp : ReadsOn s p.1 c)
    (hgood : p.2.2 = none) (hws : ∀ w ∈ ws, s.isBad w.1 = false) :
    let r := ws.foldl (s.rereadWord c) p
    ReadsOn s r.1 c ∧ r.2.2 = none ∧ ∃ ws', r.2.1 = p.2.1 ++ ws' ∧ ReadAnew (s.rdN · 8) ws ws' := by
  induction ws generalizing p with
  | nil => exact ⟨hp, hgood, [], (List.append_nil _).symm, .nil⟩
  | cons w ws ih =>
    obtain ⟨hstep, hnone, w', hw', hread⟩ := rereadWord_step s c p w hp hgood (hws w List.mem_cons_self)
    obtain ⟨hon, hend, ws', hlist, hanew⟩ := ih (s.rereadWord c p w) hstep hnone fun v hv => hws v (List.mem_cons_of_mem _ hv)
    refine ⟨hon, hend, w' :: ws', ?_, .cons hread hanew⟩
    rw [List.foldl_cons, hlist, hw', List.append_assoc, List.singleton_append]

/-- The state after some words of a sound read have been read anew. -/
theorem rereads_sound {s : State} {c : Nat} {l : LateRead} (h : (s.ctx c).late = some l) (hws : ∀ w ∈ l.words, s.isBad w.1 = false) :
    (s.rereads c).2 = none ∧ SameMem s (s.rereads c).1 ∧ ∃ rs ws', ReadAnew (s.rdN · 8) l.words ws' ∧
      (s.rereads c).1.ctx c = { s.ctx c with reads := rs, late := some { l with words := ws' } } := by
  obtain ⟨⟨hmem, rs, hrs⟩, hgood, ws', hlist, hanew⟩ := rereadWord_fold s c l.words (s, [], none) (.refl s c) rfl hws
  rw [rereads_of_late h]
  dsimp only
  refine ⟨by rw [hgood]; rfl, hmem.trans (mapCtx_sameMem _ _ _), rs, ws', hanew, ?_⟩
  rw [ctx_mapCtx_same, hrs, hlist, List.nil_append]

/-! ## Replies (R91) -/

variable {s : State}

theorem reply_ctx_getX (s : State) (c : Nat) (d : XR) : ((s.reply c).ctx c).getX d = (s.ctx c).getX d :=
  reply_ctx_view (v := (·.getX d)) (by intro _ _; rfl) (by intro _ _ _; rfl) s c
theorem reply_ctx_x (s : State) (c : Nat) : ((s.reply c).ctx c).x = (s.ctx c).x :=
  reply_ctx_view (v := Ctx.x) (by intro _ _; rfl) (by intro _ _ _; rfl) s c
theorem reply_ctx_eligFrom {c : Nat} (h : (s.ctx c).why = some .longOp) : s.cycle < ((s.reply c).ctx c).eligFrom := by
  rw [State.reply, if_pos h, State.wake, ctx_mapCtx_same]
  exact Nat.lt_of_lt_of_le (Nat.lt_succ_self _) (Nat.le_max_right ..)
theorem reply_ctxs (s : State) (c : Nat) : s.reply c = { s with ctxs := (s.reply c).ctxs } := by
  unfold State.reply
  split <;> rfl
theorem readReply_of_late_none {c : Nat} (h : (s.ctx c).late = none) (e : Instr) : s.readReply c e = s.reply c := by
  unfold State.readReply; rw [h]; rfl

theorem longOpReply_flows {c : Nat} (hwhy : (s.ctx c).why = some .longOp) (hlate : (s.ctx c).late = none) :
    exec (.longOpReply c) s = .next (s.reply c) := by
  change execLongOpReply c s = _
  rw [execLongOpReply, if_pos hwhy, readReply_of_late_none hlate]

/-- A register takes the value of the words of a read that has come to its end. -/
theorem finishLate_getX {x : Ctx} {l : LateRead} {d : XR} {sg : Bool} (h : x.late = some l) (hd : l.dst = .inl (d, sg)) :
    x.finishLate.getX d = if d = 0 then 0 else loadVal sg l.keys.length (wordsVal l.words l.keys) := by
  unfold Ctx.finishLate
  rw [h]
  dsimp only
  rw [hd]
  exact getX_setX_self _ d _
theorem finishLate_why (x : Ctx) : x.finishLate.why = x.why := by
  unfold Ctx.finishLate
  split
  · rfl
  · split
    · exact setX_why _ _ _
    · exact setV_why _ _ _

/-- The reply of a read of several words: its register takes what they have been read with, or it comes later. -/
theorem longOpReply_late {c : Nat} {ks vas : List Nat} {ws : List (Nat × Nat)} {d : XR} {sg : Bool}
    (hwhy : (s.ctx c).why = some .longOp) (hlate : (s.ctx c).late = some ⟨ks, vas, ws, .inl (d, sg)⟩)
    (hws : ∀ w ∈ ws, s.isBad w.1 = false) :
    ∃ t, exec (.longOpReply c) s = .next t ∧ KeepsMemory s t ∧
      (((t.ctx c).why = none ∧ ∃ anew : Nat → Bool, (t.ctx c).getX d = if d = 0 then 0 else
          loadVal sg ks.length (wordsVal (ws.map fun w => (w.1, if anew w.1 then s.rdN w.1 8 else w.2)) ks)) ∨
        ((t.ctx c).why = some .longOp ∧ (t.ctx c).x = (s.ctx c).x ∧ Instr.longOpReply c ∈ t.agenda)) := by
  obtain ⟨hgood, hmem, rs, ws', hanew, hctx⟩ := rereads_sound hlate hws
  let r := (s.rereads c).1
  have hexec : exec (.longOpReply c) s = .next (if (r.freeNat 2).1 = 0 then ((r.freeNat 2).2.mapCtx c Ctx.finishLate).reply c
      else (r.freeNat 2).2.again (.longOpReply c)) := by
    change execLongOpReply c s = _
    rw [execLongOpReply, if_pos hwhy, State.readReply, hlate, Option.isNone_some, if_neg Bool.false_ne_true]
    dsimp only
    rw [hgood]
  have hfree : (r.freeNat 2).2.ctx c = { s.ctx c with reads := rs, late := some ⟨ks, vas, ws', .inl (d, sg)⟩ } := hctx
  have hfreeMem : SameMem s (r.freeNat 2).2 := hmem.trans (freeNat_sameMem r 2)
  refine ⟨_, hexec, ?_⟩
  split
  · let u := (r.freeNat 2).2.mapCtx c Ctx.finishLate
    have hu : u.ctx c = ((r.freeNat 2).2.ctx c).finishLate := ctx_mapCtx_same _ _ _
    have huWhy : (u.ctx c).why = some .longOp := by rw [hu, finishLate_why, hfree]; exact hwhy
    obtain ⟨anew, hval⟩ := readAnew_wordsVal hanew ks
    refine ⟨(hfreeMem.trans ((mapCtx_sameMem _ _ _).trans (reply_sameMem u c))).keeps, .inl ⟨reply_ctx_why huWhy, anew, ?_⟩⟩
    rw [reply_ctx_getX, hu, hfree, finishLate_getX rfl rfl]
    exact congrArg (fun v => if d = 0 then 0 else loadVal sg ks.length v) hval
  · refine ⟨hfreeMem.keeps, .inr ⟨?_, ?_, List.mem_cons_self⟩⟩
    · exact (congrArg Ctx.why hfree :).trans hwhy
    · exact (congrArg Ctx.x hfree :)

end Sys2Proof.Machine
end
section
/-! SUPPORT. Accesses away from the core, and those that the checks refuse (R255, R272, R299). -/
namespace Sys2Proof.Machine

variable {s : State}

/-! ## A write -/

/-- t has the memory and the full bits that a write of v to the n bytes at a makes of those of s. -/
def Wrote (s t : State) (a n v : Nat) : Prop := t.mem = (s.wrN a n v).mem ∧ t.empties = s.empties

theorem Wrote.store (s : State) (a n v : Nat) : Wrote s (s.store a n v false) a n v := ⟨rfl, rfl⟩
theorem Wrote.wrN (s : State) (a n v : Nat) : Wrote s (s.wrN a n v) a n v := ⟨rfl, rfl⟩
theorem Wrote.trans {t u : State} {a n v : Nat} (h : Wrote s t a n v) (k : SameMem t u) : Wrote s u a n v :=
  ⟨k.1.trans h.1, k.2.1.trans h.2⟩
theorem SameMem.wrote {t u : State} {a n v : Nat} (h : SameMem s t) (k : Wrote t u a n v) : Wrote s u a n v := by
  refine ⟨k.1.trans ?_, k.2.trans h.2.1⟩
  unfold State.wrN State.wrBytes
  rw [h.1]
/-- The value written is read back, and no other byte and no full bit is changed. -/
theorem Wrote.effect {t : State} (hform : s.form) {a n v : Nat} (h : Wrote s t a n v) :
    t.rdN a n = v % 256 ^ n ∧ KeepsMemoryBut s t a n := by
  have hbyte : ∀ b, t.byte b = (s.wrN a n v).byte b := fun b => congrArg (mget · b) h.1
  refine ⟨(rdN_congr (s.wrN a n v) t a n fun b _ _ => hbyte b).trans (rdN_wrN s a n v hform), fun b hb => ?_, fun w => ?_⟩
  · exact (hbyte b).trans (byte_wrN_out s a n v b hform hb)
  · exact (congrArg (fun l => !l.contains w) h.2 :)

/-! ## A peer's port and a field's proxy (R255, R272) -/

/-- Where nothing holds the access, the peer's scratchpad is not one that has been saved. -/
theorem peerSaved_of_heldKey {c a : Nat} {acc : Acc} (h : s.heldKey c (s.ctx c).asid.toNat acc a = false) : s.peerSaved c a = false := by
  unfold State.heldKey at h
  unfold State.peerSaved
  cases hspad : isSpad a
  · rfl
  · rw [if_pos hspad] at h
    revert h
    cases spadCore a != coreOf c <;> cases s.savedFor (spadCore a) (s.ctx c).asid.toNat <;> simp

theorem replyX_getX (s : State) (c : Nat) (d : XR) (v : Word) : ((s.replyX c d v false).ctx c).getX d = if d = 0 then 0 else v := by
  unfold State.replyX
  rw [ctx_mapCtx_same]
  exact getX_setX_self _ d v

theorem peerAccess_load {k off n c : Nat} (sg : Bool) (data : Word) (d : XR)
    (hheld : s.heldKey c (s.ctx c).asid.toNat .load (spadKey k off) = false) (hbad : s.badIn (spadKey k off) n = none) :
    exec (.peerAccessAtPort k off n sg false data c d) s =
      .next (((s.noteReads c false (wordsOf (spadKey k off) n)).replyX c d (loadVal sg n (s.rdN (spadKey k off) n)) false).reply c) := by
  change execPeerAccessAtPort k off n sg false data c d s = _
  rw [execPeerAccessAtPort]
  rw [peerSaved_of_heldKey hheld, hheld, hbad]
  rfl

theorem tagWrites_sameMem (s : State) (c : Nat) (home : Bool) (ws : List Nat) :
    SameMem s (ws.foldl (fun s w => s.tagWrite c (s.ctx c).rel home w) s) :=
  .foldl (fun s w => (NotesOnly.tagWrite s c (s.ctx c).rel home w).mem) ws s

theorem peerAccess_store {k off n c : Nat} (sg : Bool) (data : Word) (d : XR)
    (hheld : s.heldKey c (s.ctx c).asid.toNat .load (spadKey k off) = false) :
    ∃ t, exec (.peerAccessAtPort k off n sg true data c d) s = .next t ∧ Wrote s t (spadKey k off) n data.toNat := by
  refine ⟨_, ?_, (Wrote.store ..).trans ((tagWrites_sameMem _ c false (wordsOf (spadKey k off) n)).trans (reply_sameMem _ c))⟩
  change execPeerAccessAtPort k off n sg true data c d s = _
  rw [execPeerAccessAtPort]
  rw [hheld, if_neg (by simp), if_neg Bool.false_ne_true, if_pos rfl]

theorem homeDirty_sameMem (s : State) (pa : Nat) : SameMem s (s.homeDirty pa) := dirtyAt_sameMem s (s.homeKey pa) pa
theorem l1Back_sameMem (s : State) (n pa : Nat) : SameMem s (s.l1Back n pa) := by
  unfold State.l1Back
  split
  · dsimp only
    split
    · exact ⟨rfl, rfl, rfl, rfl⟩
    · exact homeDirty_sameMem s pa
  · exact .refl s
theorem l1In_sameMem (s : State) (n : Nat) (l : DLine) : SameMem s (s.l1In n l) := by
  unfold State.l1In
  dsimp only
  split
  · split
    · exact (mapCore_sameMem s n _).trans (l1Back_sameMem _ n _)
    · exact mapCore_sameMem s n _
  · exact mapCore_sameMem s n _
theorem proxyServe_sameMem (s : State) (q : Asker) (va pa : Nat) (g : Option Grant) : SameMem s (s.proxyServe q va pa g) := by
  have hslices : SameMem s (match s.homeKey pa with
      | none => s
      | some b => (s.sliceIn b pa true).sliceIn (proxyBank (fieldOf q.core) b) pa (b / 64 == fieldOf q.core)) := by
    split
    · exact .refl s
    · exact (sliceIn_sameMem _ _ _ _).trans (sliceIn_sameMem _ _ _ _)
  unfold State.proxyServe
  split
  · exact .refl s
  · split
    · exact .refl s
    · dsimp only
      split
      · split
        · exact hslices.trans (mapCore_sameMem _ _ _)
        · exact hslices
      · exact hslices.trans (l1In_sameMem _ _ _)
theorem l1Write_sameMem (s : State) (n pa : Nat) : SameMem s (s.l1Write n pa) := by
  unfold State.l1Write
  dsimp only
  split
  · exact ⟨rfl, rfl, rfl, rfl⟩
  · exact SameMem.trans ⟨rfl, rfl, rfl, rfl⟩ (l1Back_sameMem _ n pa)

/-- The reply of an access that its field's proxy serves. -/
theorem proxyAccess_flows {c : Nat} (va pa : Nat) (wr : Bool) (hwhy : (s.ctx c).why = some .longOp) (hlate : (s.ctx c).late = none) :
    ∃ u, exec (.proxyAccess c va pa wr) s = .next (u.reply c) ∧ SameMem s u ∧ u.ctx c = s.ctx c := by
  let g := (s.ctx c).fill.bind fun f => if f.va = va ∧ f.key = pa then f.grant else none
  let t := s.proxyServe (s.asker c) va pa g
  let u := if wr then t.l1Write (coreOf c) pa else t
  have hctx : u.ctx c = s.ctx c := by
    have ht : t.ctxs = s.ctxs := proxyServe_ctxs s _ va pa g
    have hu : u.ctxs = s.ctxs := by
      change State.ctxs (if wr then t.l1Write (coreOf c) pa else t) = _
      split
      · exact (l1Write_ctxs t _ pa).trans ht
      · exact ht
    unfold State.ctx; rw [hu]
  have hmem : SameMem s u := by
    have ht : SameMem s t := proxyServe_sameMem s _ va pa g
    change SameMem s (if wr then t.l1Write (coreOf c) pa else t)
    split
    · exact ht.trans (l1Write_sameMem t _ pa)
    · exact ht
  refine ⟨u, ?_, hmem, hctx⟩
  change Host.Outcome.next (if (u.ctx c).why = some .longOp then u.readReply c (.longOpReply c) else u) = _
  rw [hctx, if_pos hwhy, readReply_of_late_none (by rw [hctx]; exact hlate)]

/-! ## Accesses that the checks refuse (R299) -/

/-- The forms of the statement are the load or the store of their bytes. -/
theorem scalarAccess (s : State) (d : XR) (a b c : XS) (off : BitVec 16) (i : Instr) (acc : Acc) (n : Nat) (ea : Word)
    (h : (i, acc, n, ea) ∈ [((.ldS8 d b off : Instr), (.load : Acc), 1, s.eaOff b off), (.ldN16 d b off, .load, 2, s.eaOff b off),
      (.ldS32 d b off, .load, 4, s.eaOff b off), (.ld64 d b off, .load, 8, s.eaOff b off), (.ldx64 d b c, .load, 8, s.eaIdx b c),
      (.ldxN8 d b c, .load, 1, s.eaIdx b c), (.st8 a b off, .store, 1, s.eaOff b off), (.st16 a b off, .store, 2, s.eaOff b off),
      (.st32 a b off, .store, 4, s.eaOff b off), (.st64 a b off, .store, 8, s.eaOff b off), (.stx64 a b c, .store, 8, s.eaIdx b c)]) :
    (acc = .load ∧ ∃ sg, exec i s = load s sg n d ea) ∨ (acc = .store ∧ exec i s = store s n a ea) := by
  simp only [List.mem_cons, Prod.mk.injEq, List.not_mem_nil, or_false] at h
  rcases h with ⟨rfl, rfl, rfl, rfl⟩ | ⟨rfl, rfl, rfl, rfl⟩ | ⟨rfl, rfl, rfl, rfl⟩ | ⟨rfl, rfl, rfl, rfl⟩ | ⟨rfl, rfl, rfl, rfl⟩ |
    ⟨rfl, rfl, rfl, rfl⟩ | ⟨rfl, rfl, rfl, rfl⟩ | ⟨rfl, rfl, rfl, rfl⟩ | ⟨rfl, rfl, rfl, rfl⟩ | ⟨rfl, rfl, rfl, rfl⟩ | ⟨rfl, rfl, rfl, rfl⟩
  · exact .inl ⟨rfl, _, rfl⟩
  · exact .inl ⟨rfl, _, rfl⟩
  · exact .inl ⟨rfl, _, rfl⟩
  · exact .inl ⟨rfl, _, rfl⟩
  · exact .inl ⟨rfl, _, rfl⟩
  · exact .inl ⟨rfl, _, rfl⟩
  · exact .inr ⟨rfl, rfl⟩
  · exact .inr ⟨rfl, rfl⟩
  · exact .inr ⟨rfl, rfl⟩
  · exact .inr ⟨rfl, rfl⟩
  · exact .inr ⟨rfl, rfl⟩

/-- A walk is opened without a change of memory, of a context or of whose turn it is. -/
theorem openWalk_keeps (s : State) (q : Asker) (who va : Nat) (acc : Acc) :
    SameMem s (s.openWalk q who va acc) ∧ (s.openWalk q who va acc).me = s.me := by
  unfold State.openWalk
  dsimp only
  split
  · exact ⟨⟨rfl, rfl, rfl, rfl⟩, rfl⟩
  · split <;> exact ⟨⟨rfl, rfl, rfl, rfl⟩, rfl⟩

theorem park_effect (u : State) (w : Why) (hmem : SameMem s u) (hme : u.me = s.me) :
    (u.park w).me.why = some w ∧ (u.park w).me.pc = s.me.pc ∧ (u.park w).me.x = s.me.x ∧ (u.park w).me.epc = s.me.epc ∧
      KeepsMemory s (u.park w) := by
  have h : (u.park w).me = s.me.parked w := by rw [park_me, hme]
  rw [h]
  exact ⟨parked_why _ w, parked_pc _ w, parked_x _ w, rfl, (hmem.trans (park_sameMem u w)).keeps⟩

theorem loadSource_of_bufHits_nil {ks : List Nat} (h : bufHits s.me.buf ks = []) : s.loadSource ks = .memory := by
  unfold State.loadSource; rw [h]; rfl

/-- A read that meets no error of its own traps at the first poisoned byte. -/
theorem readCheck_poisoned (harmed : s.me.armed = none) (hrec : s.me.recBad = false) (home : Bool) {ps : List Piece} {p : Nat}
    (hbad : s.badPiece ps = some p) (k : State → Out) : s.readCheck home ps k = .next (s.trap 0x1A (BitVec.ofNat 64 p)) := by
  have hread : s.meetRead home ps = s := by unfold State.meetRead; rw [harmed]
  have hrecord : s.meetRecord ps = s := by cases ps <;> simp [State.meetRecord, hrec]
  unfold State.readCheck
  rw [hread, hrecord]
  dsimp only
  rw [hbad]

/-- A load of poisoned memory that no buffered store touches traps, wherever its bytes lie. -/
theorem load_poisoned {n : Nat} (sg : Bool) (d : XR) {ea : Word} {ps : List Piece} {p : Nat} (hres : s.resolveMe .load ea.toNat n = .ok ps)
    (harmed : s.me.armed = none) (hrec : s.me.recBad = false) (hhits : bufHits s.me.buf (pieceKeys ps) = [])
    (hbad : s.badPiece ps = some p) : load s sg n d ea = .next (s.trap 0x1A (BitVec.ofNat 64 p)) := by
  rw [load, hres, onRes_ok]
  split
  · exact readCheck_poisoned harmed hrec false hbad _
  · rw [readPieces]
    rw [loadSource_of_bufHits_nil hhits]
    exact readCheck_poisoned harmed hrec false hbad _

/-- Whatever the form, it acts on the answer of its checks. -/
theorem exec_eq_onRes {i : Instr} {acc : Acc} {n : Nat} {ea : Word} {d : XR} {a : XS}
    (h : (acc = .load ∧ ∃ sg, exec i s = load s sg n d ea) ∨ (acc = .store ∧ exec i s = store s n a ea)) :
    ∃ k, exec i s = s.onRes acc (s.resolveMe acc ea.toNat n) k := by
  rcases h with ⟨rfl, sg, h⟩ | ⟨rfl, h⟩
  · exact ⟨_, h⟩
  · exact ⟨_, h⟩

end Sys2Proof.Machine
end
section
/-! CERTIFICATE. Accesses away from the core, and refused ones: O25. -/
namespace Sys2Proof.Machine

/-- Settles O25: the reply brings what was read at the place (`peerAccess_load`, `longOpReply_late`), and a form whose checks refuse it
does what `State.onRes` says. -/
theorem accessesElsewhere : Obligations.AccessesElsewhere := by
  unfold Obligations.AccessesElsewhere
  refine ⟨fun s k off n c va pa sg data d ks vas ws => ⟨fun hheld hbad => ?_, fun hform hheld => ?_, fun wr hwhy hlate => ?_,
    fun hwhy hlate => ?_, fun hwhy hlate hws => longOpReply_late hwhy hlate hws⟩, fun s d a b c off i acc n ea hi => ?_⟩
  · refine ⟨_, peerAccess_load sg data d hheld hbad, ?_, ?_⟩
    · exact ((noteReads_sameMem s c false _).trans ((mapCtx_sameMem _ c _).trans (reply_sameMem _ c))).keeps
    · rw [reply_ctx_getX, replyX_getX]; rfl
  · obtain ⟨t, hexec, hmem⟩ := peerAccess_store sg data d hheld
    exact ⟨t, hexec, hmem.effect hform⟩
  · obtain ⟨u, hexec, hmem, hctx⟩ := proxyAccess_flows va pa wr hwhy hlate
    refine ⟨_, hexec, reply_ctx_why (by rw [hctx]; exact hwhy), (hmem.trans (reply_sameMem u c)).keeps, ?_⟩
    rw [reply_ctx_x, hctx]
  · exact ⟨_, longOpReply_flows hwhy hlate, reply_ctx_why hwhy, reply_ctx_eligFrom hwhy, (reply_sameMem s c).keeps, reply_ctxs s c,
      reply_ctx_x s c⟩
  · have hform := scalarAccess s d a b c off i acc n ea hi
    obtain ⟨k, hk⟩ := exec_eq_onRes hform
    refine ⟨fun o cause va hres => ?_, fun va hres => ?_, fun hres => ?_, fun hres => ?_,
      fun ps p hacc hres harmed hrec hhits hbad => ?_⟩
    · rw [hk, hres, onRes_trap]
    · obtain ⟨hmem, hme⟩ := openWalk_keeps s (s.asker s.cur) s.cur va acc
      exact ⟨_, by rw [hk, hres, onRes_miss]; rfl, park_effect _ .parked hmem hme⟩
    · obtain ⟨hwhy, hpc, hx, -, hmem⟩ := park_effect s .moving (.refl s) rfl
      exact ⟨_, by rw [hk, hres, onRes_held], hwhy, hpc, hx, hmem⟩
    · obtain ⟨hwhy, hpc, hx, -, hmem⟩ := park_effect s .saved (.refl s) rfl
      exact ⟨s.park .saved, by rw [hk, hres]; rfl, hwhy, hpc, hx, hmem⟩
    · rcases hform with ⟨-, sg, hload⟩ | ⟨hstore, -⟩
      · rw [hload]
        exact load_poisoned sg d (hacc ▸ hres) harmed hrec hhits hbad
      · exact absurd (hstore.symm.trans hacc) (by simp)

end Sys2Proof.Machine
end

section
/-! SUPPORT. Stores that drain, atomics and cell operations at their place (R242, R283, R312). -/
namespace Sys2Proof.Machine

variable {s : State}

/-! ## The wake of sleepers and of a context that waits for its buffer -/

/-- A change of one context that something of a context does not see. -/
theorem mapCtx_view {β : Type} {v : Ctx → β} {f : Ctx → Ctx} (hf : ∀ x, v (f x) = v x) (s : State) (n c : Nat) :
    v ((s.mapCtx n f).ctx c) = v (s.ctx c) := by
  rw [ctx_mapCtx]
  split
  · next h => rw [h]; exact hf _
  · rfl
theorem wake_view {β : Type} {v : Ctx → β} (hw : ∀ x w e, v { x with why := w, eligFrom := e } = v x) (s : State) (n c : Nat) :
    v ((s.wake n).ctx c) = v (s.ctx c) := mapCtx_view (v := v) (fun x => hw x _ _) s n c
theorem wakeSyncs_ctx_view {β : Type} {v : Ctx → β} (hg : ∀ x g r, v { x with got := g, gotTags := r } = v x)
    (hw : ∀ x w e, v { x with why := w, eligFrom := e } = v x) (s : State) (w c : Nat) : v ((s.wakeSyncs w).ctx c) = v (s.ctx c) := by
  unfold State.wakeSyncs
  split
  · dsimp only
    refine (foldl_view (v := fun t : State => v (t.ctx c)) (by intro _ _; rfl) _ _).trans
      ((foldl_view (v := fun t : State => v (t.ctx c)) (fun t q => ?_) _ _).trans rfl)
    split
    · rfl
    · exact (wake_view hw _ _ c).trans (mapCtx_view (v := v) (by intro _; exact hg _ _ _) t q.who c)
  · rfl
theorem drainWake_view {β : Type} {v : Ctx → β} (hw : ∀ x w e, v { x with why := w, eligFrom := e } = v x) (s : State) (n c : Nat) :
    v ((s.drainWake n).ctx c) = v (s.ctx c) := by
  unfold State.drainWake
  split
  · split
    · exact wake_view hw s n c
    · rfl
  · split
    · exact wake_view hw s n c
    · rfl
  · split
    · exact wake_view hw s n c
    · rfl
  · split
    · exact wake_view hw s n c
    · rfl
  · rfl
theorem wake_sameMem (s : State) (c : Nat) : SameMem s (s.wake c) := ⟨rfl, rfl, rfl, rfl⟩
theorem drainWake_sameMem (s : State) (c : Nat) : SameMem s (s.drainWake c) := by
  unfold State.drainWake
  split
  · split
    · exact wake_sameMem s c
    · exact .refl s
  · split
    · exact wake_sameMem s c
    · exact .refl s
  · split
    · exact wake_sameMem s c
    · exact .refl s
  · split
    · exact wake_sameMem s c
    · exact .refl s
  · exact .refl s

/-! ## A buffered store of a word (R283) -/

/-- The bytes of an 8-byte store are those of its value. -/
theorem storeBytes_word (k v : Nat) : storeBytes [k, k + 1, k + 2, k + 3, k + 4, k + 5, k + 6, k + 7] v = byteList k v 8 := by
  simp [storeBytes, byteList, List.range_succ, Nat.div_div_eq_div_mul]

/-- A store of a whole word performed at its place. -/
theorem performWord_wrote (s : State) (c : Nat) {k : Nat} (hk : k % 8 = 0) (v : Nat) (rel : Option Scope) :
    Wrote s (s.performWord c (byteList k v 8) rel false k) k 8 v := by
  have hall : (byteList k v 8).filter (fun b => wordOf b.1 == k) = byteList k v 8 := by
    refine List.filter_eq_self.mpr fun p hp => ?_
    have hlo := byteList_addr k v 8 p hp
    rw [beq_iff_eq, wordOf]; omega
  have hpoison : ∀ p : Bool, Wrote s ((if p then ({ s with poison := kdel s.poison k } : State) else s).wrBytes (byteList k v 8)) k 8 v :=
    fun p => by cases p <;> exact ⟨rfl, rfl⟩
  have hline : ∀ t : State, SameMem t (if isSpad k then t else t.l1Write (coreOf c) k) := fun t => by
    split
    · exact .refl t
    · exact l1Write_sameMem t _ k
  have hflit : ∀ (t : State) (a : Nat) (bs : List Byte), SameMem t (t.handFlit c a bs) := fun t a bs => by
    unfold State.handFlit
    split
    · exact ⟨rfl, rfl, rfl, rfl⟩
    · exact .refl t
  unfold State.performWord
  dsimp only
  rw [hall]
  exact (hpoison _).trans ((NotesOnly.tagWrite _ c rel (isRemote k) k).mem.trans ((hline _).trans (hflit _ _ _)))

/-- The buffer is rid of its oldest entry, a store of one whole word that needs no line. -/
theorem drainWords_word {c asid va k v : Nat} {rest : List BufEntry} (hk : k % 8 = 0)
    (hbuf : (s.ctx c).buf = .store [⟨va, k, 8, false, none⟩] (byteList k v 8) asid [k] none false :: rest) :
    let t := s.drainWords c [k]
    Wrote s t k 8 v ∧ (t.ctx c).buf = rest ∧ (t.ctx c).x = (s.ctx c).x ∧ (t.ctx c).pc = (s.ctx c).pc := by
  intro t
  let p := s.performWord c (byteList k v 8) none false k
  let u := p.wakeSyncs k
  have ht : t = u.mapCtx c fun x => { x with buf := rest, drains := x.drains + 1, due := none } := by
    change s.drainWords c [k] = _
    rw [State.drainWords, hbuf]
    have hserve : ∀ (b : Bool) (q : Asker), (if b then s else s.proxyServe q va k none) = s := fun b q => by cases b <;> rfl
    simp only [List.foldl_cons, List.foldl_nil, hserve]
    have hdone : List.filter (fun x => !List.contains [k] x) [k] = [] := by simp
    rw [hdone]
    rfl
  have hp : p.ctx c = s.ctx c := congrArg (tget · c Ctx.reset) (performWord_ctxs s c _ _ _ _)
  have hview : ∀ {β : Type} {w : Ctx → β}, (∀ x g r, w { x with got := g, gotTags := r } = w x) →
      (∀ x y e, w { x with why := y, eligFrom := e } = w x) → (∀ x b d e, w { x with buf := b, drains := d, due := e } = w x) →
      w (t.ctx c) = w (s.ctx c) := fun hg hw hb => by
    rw [ht, ctx_mapCtx_same, hb, wakeSyncs_ctx_view hg hw p k c, hp]
  refine ⟨?_, by rw [ht, ctx_mapCtx_same], hview (w := Ctx.x) (by intro _ _ _; rfl) (by intro _ _ _; rfl) (by intro _ _ _ _; rfl),
    hview (w := Ctx.pc) (by intro _ _ _; rfl) (by intro _ _ _; rfl) (by intro _ _ _ _; rfl)⟩
  rw [ht]
  exact (performWord_wrote s c hk v none).trans ((wakeSyncs_sameMem p k).trans (mapCtx_sameMem u c _))

theorem storeBufferDrain_word {c asid va k v : Nat} {rest : List BufEntry}
    (hbuf : (s.ctx c).buf = .store [⟨va, k, 8, false, none⟩] (byteList k v 8) asid [k] none false :: rest)
    (hcan : s.canPerform c asid k = true) : exec (.storeBufferDrain c) s = .next ((s.drainWords c [k]).drainWake c) := by
  change execStoreBufferDrain c s = _
  rw [execStoreBufferDrain, hbuf]
  have hrs : [k].filter (s.canPerform c asid) = [k] := by simp [hcan]
  dsimp only
  rw [hrs]
  simp

/-! ## Atomics (R312) -/

/-- An atomic whose operation writes: its old value, and its new one at the place. -/
theorem amoAt_writes (s : State) (x : Nat) (rel : Option Scope) {op : AmoOp} {w : Bool} {loc : Nat} {c e : Word} {v : Nat}
    (h : amoNew op (amoW w) (s.rdN loc (amoBytes w)) (c.toNat % 2 ^ amoW w) (e.toNat % 2 ^ amoW w) = some v) :
    (s.amoAt x rel op w loc c e).1 = s.rdN loc (amoBytes w) ∧ Wrote s (s.amoAt x rel op w loc c e).2.1 loc (amoBytes w) v := by
  have hrecall : SameMem s (if isSpad loc then s else s.recall loc) := by
    split
    · exact .refl s
    · exact recall_sameMem s loc
  have hwake : ∀ t : State, SameMem t (if isSpad loc then t else (t.homeDirty loc).wakeSyncs (wordOf loc)) := fun t => by
    split
    · exact .refl t
    · exact (homeDirty_sameMem t loc).trans (wakeSyncs_sameMem _ _)
  unfold State.amoAt
  dsimp only
  rw [h]
  exact ⟨rfl, hrecall.wrote ((Wrote.wrN ..).trans ((NotesOnly.tagWrite _ x rel true (wordOf loc)).mem.trans (hwake _)))⟩

/-- An atomic at an open place: what it writes, and the old value that its register takes. -/
theorem atomicAtPlace_writes {op : AmoOp} {w : Bool} (o : Ord) (sc : Scope) {loc c v : Nat} {x e : Word} (d : XR)
    (hheld : s.heldKey c (s.ctx c).asid.toNat .atomic loc = false) (hrange : s.inRange loc = false) (hbad : s.isBad loc = false)
    (h : amoNew op (amoW w) (s.rdN loc (amoBytes w)) (x.toNat % 2 ^ amoW w) (e.toNat % 2 ^ amoW w) = some v) :
    ∃ t, exec (.atomicAtPlace op w o sc loc x e c (some d)) s = .next t ∧ Wrote s t loc (amoBytes w) v ∧
      (t.ctx c).getX d = if d = 0 then 0 else BitVec.ofInt 64 (sext (s.rdN loc (amoBytes w)) (amoW w)) := by
  let u := if ordAcquires o then s else s.noteReads c true [wordOf loc]
  have hu : SameMem s u := by
    change SameMem s (if ordAcquires o then s else s.noteReads c true [wordOf loc])
    split
    · exact .refl s
    · exact noteReads_sameMem s c true _
  have hold : u.rdN loc (amoBytes w) = s.rdN loc (amoBytes w) := hu.rdN _ _
  let r := u.amoAt c (u.amoRel c o sc) op w loc x e
  obtain ⟨hres, hwrote⟩ := amoAt_writes u c (u.amoRel c o sc) (op := op) (w := w) (loc := loc) (c := x) (e := e) (by rw [hold]; exact h)
  let r' := if ordReleases o && r.2.2 then r.2.1.release c sc else r.2.1
  let t := if ordAcquires o then r'.acquireOf c sc (s.tagsOf c true [wordOf loc]) else r'
  have hr' : SameMem r.2.1 r' := by
    change SameMem r.2.1 (if ordReleases o && r.2.2 then r.2.1.release c sc else r.2.1)
    split
    · exact release_sameMem _ _ _
    · exact .refl _
  have ht : SameMem r' t := by
    change SameMem r' (if ordAcquires o then r'.acquireOf c sc (s.tagsOf c true [wordOf loc]) else r')
    split
    · exact acquireOf_sameMem _ _ _ _
    · exact .refl _
  have hexec : exec (.atomicAtPlace op w o sc loc x e c (some d)) s =
      .next ((t.replyX c d (BitVec.ofInt 64 (sext r.1 (amoW w))) false).reply c) := by
    change execAtomicAtPlace op w o sc loc x e c (some d) s = _
    rw [execAtomicAtPlace, peerSaved_of_heldKey hheld, hheld, hrange, hbad]
    rfl
  refine ⟨_, hexec, (hu.wrote hwrote).trans (hr'.trans (ht.trans ((mapCtx_sameMem _ _ _).trans (reply_sameMem _ _)))), ?_⟩
  rw [reply_ctx_getX, replyX_getX, hres, hold]

/-- The sign-extended value of 8 bytes is their value. -/
theorem ofInt_sext_64 (v : Nat) : BitVec.ofInt 64 (sext v 64) = BitVec.ofNat 64 v := by
  apply BitVec.eq_of_toInt_eq
  rw [BitVec.toInt_ofInt, BitVec.toInt_ofNat', sext]
  split <;> simp [Int.bmod_def]

/-! ## Cells (R242) -/

theorem cellHome_sameMem (s : State) (pa : Nat) : SameMem s (((s.homeKey pa).map fun b => s.sliceIn b pa true).getD s) := by
  cases s.homeKey pa with
  | none => exact .refl s
  | some b => exact sliceIn_sameMem s b pa true

/-- What a cell is written with at its home. -/
theorem cellPut_wrote (s : State) (pa c n : Nat) (rel : Option Scope) : Wrote s (s.cellPut pa c n rel) pa 64 n := by
  have h := (Wrote.wrN s pa 64 n).trans (homeDirty_sameMem _ pa)
  exact ⟨h.1, h.2⟩

theorem cellAdd_performs {pa c : Nat} {t : ElemT} {b : Word} {who : CellSend} (hc : who.ctx = c) (hheld : s.heldKey c who.asid .cell pa = false)
    (hfirst : ∀ e ∈ s.agenda, isCellOp c false e = false) :
    exec (.cellOperationAtHome (.add t b) pa { who with accepted := true }) s = .next (s.cellAt (.add t b) pa { who with accepted := true }) := by
  subst hc
  have hno : (s.agenda.any fun e => ofForm { who with accepted := true } e && isCellOp who.ctx false e) = false := by
    rw [List.any_eq_false]
    intro e he
    simp [hfirst e he]
  change execCellOperationAtHome (.add t b) pa { who with accepted := true } s = _
  rw [execCellOperationAtHome]
  dsimp only
  rw [hheld, hno]
  rfl

theorem cellStat_performs {pa c : Nat} {d : XR} {who : CellSend} (hc : who.ctx = c) (hheld : s.heldKey c who.asid .cell pa = false)
    (hbad : s.badIn pa 64 = none) :
    exec (.cellOperationAtHome (.stat d) pa { who with accepted := false }) s =
      .next ((s.cellAt (.stat d) pa { who with accepted := false }).cellReply c) := by
  change execCellOperationAtHome (.stat d) pa { who with accepted := false } s = _
  rw [execCellOperationAtHome]
  dsimp only
  rw [hc, hheld, hbad]
  rfl

theorem cellReply_sameMem (s : State) (c : Nat) : SameMem s (s.cellReply c) := by
  unfold State.cellReply
  split
  · exact .refl s
  · exact reply_sameMem s c
theorem cellReply_getX (s : State) (c : Nat) (d : XR) : ((s.cellReply c).ctx c).getX d = (s.ctx c).getX d := by
  unfold State.cellReply
  split
  · rfl
  · exact reply_ctx_getX s c d

/-- The count and the state of a cell reach their register. -/
theorem cellAt_stat (s : State) (pa : Nat) (d : XR) (who : CellSend) : SameMem s (s.cellAt (.stat d) pa who) ∧
    ((s.cellAt (.stat d) pa who).ctx who.ctx).getX d = if d = 0 then 0 else cellStat (cellOf (s.cellNow pa)) := by
  refine ⟨(cellHome_sameMem s pa).trans ((noteReads_sameMem _ _ _ _).trans (mapCtx_sameMem _ _ _)), ?_⟩
  unfold State.cellAt
  dsimp only
  rw [ctx_mapCtx_same]
  exact getX_setX_self _ d _

end Sys2Proof.Machine
end
section
/-! SUPPORT. Full/empty forms at an open word (R301 to R303). -/
namespace Sys2Proof.Machine

variable {s : State}

/-- What a full/empty form returns: the word that it has read, or nothing. -/
def feResult (op : FeOp) (s : State) (w : Nat) : Word := if feAcquires op then s.rd64 w else 0

theorem gotFrom_ctx (s : State) (c : Nat) (v : Word) (ks : List Nat) :
    (s.gotFrom c v ks).ctx c = { s.ctx c with got := some v, gotTags := s.tagsOf c true ks } := ctx_mapCtx_same s c _
theorem feDo_ctx (s : State) (c : Nat) (op : FeOp) (w : Nat) (data : Word) :
    ∃ g, (s.feDo c op w data).ctx c = { s.ctx c with got := some (feResult op s w), gotTags := g } := by
  have hstore : ∀ r, ((((s.gotFrom c 0 []).store w 8 data.toNat false).tagWrite c r true w).setFull w).ctx c = (s.gotFrom c 0 []).ctx c :=
    fun r => congrArg (tget · c Ctx.reset) ((tagWrite_ctxs _ c r true w).trans (store_ctxs _ _ _ _ _))
  cases op with
  | fe => exact ⟨_, gotFrom_ctx s c (s.rd64 w) [w]⟩
  | fc => exact ⟨_, gotFrom_ctx s c (s.rd64 w) [w]⟩
  | ef => exact ⟨_, (hstore _).trans (gotFrom_ctx s c 0 [])⟩
  | f => exact ⟨_, (hstore _).trans (gotFrom_ctx s c 0 [])⟩
theorem feDo_cores (s : State) (c : Nat) (op : FeOp) (w : Nat) (data : Word) : (s.feDo c op w data).cores = s.cores := by
  cases op with
  | fe => rfl
  | fc => rfl
  | ef => exact (NotesOnly.tagWrite ((s.gotFrom c 0 []).store w 8 data.toNat false) c (some .cluster) true w).cores
  | f => exact (NotesOnly.tagWrite ((s.gotFrom c 0 []).store w 8 data.toNat false) c (some .cluster) true w).cores

theorem tagWrite_cur (s : State) (c : Nat) (rel : Option Scope) (home : Bool) (w : Nat) : (s.tagWrite c rel home w).cur = s.cur := by
  have htrace : ∀ old b, (s.traceWrite c old w b).cur = s.cur := fun old b => by
    unfold State.traceWrite
    dsimp only
    split
    · split
      · split <;> rfl
      · split <;> rfl
    · rfl
  unfold State.tagWrite State.tagAt
  split
  · rfl
  · exact htrace _ _
theorem feDo_cur (s : State) (c : Nat) (op : FeOp) (w : Nat) (data : Word) : (s.feDo c op w data).cur = s.cur := by
  cases op with
  | fe => rfl
  | fc => rfl
  | ef => exact tagWrite_cur ((s.gotFrom c 0 []).store w 8 data.toNat false) c (some .cluster) true w
  | f => exact tagWrite_cur ((s.gotFrom c 0 []).store w 8 data.toNat false) c (some .cluster) true w

theorem isFull_setEmpty (s : State) (w : Nat) : (s.setEmpty w).isFull w = false := by
  have h : w ∈ kput s.empties w := (mem_kput s.empties w w).mpr (.inl rfl)
  simpa [State.isFull, State.setEmpty] using h
theorem isFull_setFull (s : State) (w : Nat) : (s.setFull w).isFull w = true := by
  have h : w ∉ kdel s.empties w := fun h => ((mem_kdel s.empties w w).mp h).2 rfl
  simpa [State.isFull, State.setFull] using h

/-- What a full/empty form does to its word: t has the memory of the state after it. -/
structure FeEffect (s t : State) (op : FeOp) (w : Nat) (data : Word) : Prop where
  fe : op = .fe → SameMem s t
  fc : op = .fc → t.isFull w = false
  store : op = .ef ∨ op = .f → t.rd64 w = data ∧ t.isFull w = true

theorem rdN_rd64 {t : State} {w : Nat} {data : Word} (h : t.rdN w 8 = data.toNat % 256 ^ 8) : t.rd64 w = data := by
  unfold State.rd64
  apply BitVec.eq_of_toNat_eq
  have hd : data.toNat < 2 ^ 64 := data.isLt
  rw [h, BitVec.toNat_ofNat, Nat.mod_eq_of_lt (a := data.toNat) (by omega), Nat.mod_eq_of_lt hd]

theorem feDo_effect (hform : s.form) (c : Nat) (op : FeOp) (w : Nat) (data : Word) : FeEffect s (s.feDo c op w data) op w data := by
  have hgot : ∀ v ks, SameMem s (s.gotFrom c v ks) := fun v ks => mapCtx_sameMem s c _
  have hstore : ((((s.gotFrom c 0 []).store w 8 data.toNat false).tagWrite c (some .cluster) true w).setFull w).rd64 w = data ∧
      ((((s.gotFrom c 0 []).store w 8 data.toNat false).tagWrite c (some .cluster) true w).setFull w).isFull w = true := by
    have hwrote := ((hgot 0 []).wrote (Wrote.store (s.gotFrom c 0 []) w 8 data.toNat)).trans
      (NotesOnly.tagWrite _ c (some .cluster) true w).mem
    exact ⟨rdN_rd64 (hwrote.effect hform).1, isFull_setFull _ w⟩
  cases op with
  | fe => exact ⟨fun _ => hgot _ _, fun h => (nomatch h), fun h => (by rcases h with h | h <;> exact nomatch h)⟩
  | fc => exact ⟨fun h => (nomatch h), fun _ => isFull_setEmpty _ w, fun h => (by rcases h with h | h <;> exact nomatch h)⟩
  | ef => exact ⟨fun h => (nomatch h), fun h => (nomatch h), fun _ => hstore⟩
  | f => exact ⟨fun h => (nomatch h), fun h => (nomatch h), fun _ => hstore⟩

theorem FeEffect.trans {t u : State} {op : FeOp} {w : Nat} {data : Word} (h : FeEffect s t op w data) (k : SameMem t u) :
    FeEffect s u op w data := by
  have hfull : u.isFull w = t.isFull w := congrArg (fun l : List Nat => !l.contains w) k.2.1
  refine ⟨fun e => (h.fe e).trans k, fun e => hfull.trans (h.fc e), fun e => ?_⟩
  obtain ⟨hread, hisFull⟩ := h.store e
  exact ⟨(congrArg (BitVec.ofNat 64) (k.rdN w 8) :).trans hread, hfull.trans hisFull⟩
theorem FeEffect.of_sameMem {t u : State} {op : FeOp} {w : Nat} {data : Word} (k : SameMem s t) (h : FeEffect t u op w data) :
    FeEffect s u op w data := ⟨fun e => k.trans (h.fe e), h.fc, h.store⟩

/-! ## The port of a word (R303) -/

theorem serve_nil {w k : Nat} (h : (s.core (spadCore w)).feq = []) : s.serve w k = s := by
  cases k with
  | zero => rfl
  | succ k => rw [State.serve, h]; rfl

/-- A request that finds its word open is served at once. -/
theorem serve_single {w k : Nat} {q : FeWait} (h : (s.core (spadCore w)).feq = [q]) (hloc : q.loc = w) (hready : s.feReady q.op w = true)
    (hbad : s.isBad w = false) :
    let u := s.mapCore (spadCore w) fun x => { x with feq := x.feq.filter fun r => r.ctx != q.ctx }
    s.serve w (k + 1) = (u.feDo q.ctx q.op w q.data).wake q.ctx := by
  intro u
  have hu : (u.core (spadCore w)).feq = [] := by
    have hcore : u.core (spadCore w) = _ := (core_mapCore s _ _ _).trans (if_pos rfl)
    rw [hcore]
    change (s.core (spadCore w)).feq.filter _ = []
    rw [h]
    simp
  have hempty : ((((u.feDo q.ctx q.op w q.data).wake q.ctx)).core (spadCore w)).feq = [] := by
    have hcores : ((u.feDo q.ctx q.op w q.data).wake q.ctx).cores = u.cores := feDo_cores u q.ctx q.op w q.data
    unfold State.core at hu ⊢
    rw [hcores]
    exact hu
  have hfind : (s.core (spadCore w)).feq.find? (fun q => q.loc == w && (s.feReady q.op w || s.isBad w)) = some q := by
    rw [h]
    simp [hloc, hready]
  have hubad : u.isBad w = false := hbad
  rw [State.serve, hfind]
  dsimp only
  rw [hubad]
  exact serve_nil hempty

/-- A form that arrives at an open word is performed, and its context goes on. -/
theorem fullEmptyAtPort_performs {c w : Nat} {op : FeOp} (d : XR) {data : Word} (hform : s.form)
    (hwhy : (s.ctx c).why = some (.fullEmpty (spadCore w))) (hheld : s.heldKey c (s.ctx c).asid.toNat .load w = false)
    (hbad : s.isBad w = false) (hfeq : (s.core (spadCore w)).feq = []) (hready : s.feReady op w = true) :
    ∃ t, exec (.fullEmptyAtPort c op w d data) s = .next t ∧ (t.ctx c).why = none ∧ (t.ctx c).x = (s.ctx c).x ∧
      (t.ctx c).got = some (feResult op s w) ∧ FeEffect s t op w data := by
  let v := (s.mapCtx c fun x => { x with held := false }).mapCore (spadCore w) fun k => { k with feq := k.feq ++ [⟨c, op, w, d, data⟩] }
  let u := v.mapCore (spadCore w) fun x => { x with feq := x.feq.filter fun r => r.ctx != c }
  let t := (u.feDo c op w data).wake c
  have hv : (v.core (spadCore w)).feq = [⟨c, op, w, d, data⟩] := by
    have hcore : v.core (spadCore w) = _ := (core_mapCore _ _ _ _).trans (if_pos rfl)
    rw [hcore]
    exact congrArg (· ++ _) hfeq
  have hvready : v.feReady op w = true := by
    have hr : v.feReady op w = s.feReady op w := by cases op <;> rfl
    rw [hr, hready]
  have hserve : v.serveAll w = t := serve_single hv rfl hvready hbad
  have hmem : SameMem s u := ⟨rfl, rfl, rfl, rfl⟩
  obtain ⟨g, hg⟩ := feDo_ctx u c op w data
  have huctx : u.ctx c = { s.ctx c with held := false } := ctx_mapCtx_same s c fun x => { x with held := false }
  have ht : t.ctx c = { (u.feDo c op w data).ctx c with
      why := none, eligFrom := Nat.max ((u.feDo c op w data).ctx c).eligFrom ((u.feDo c op w data).cycle + 1) } := ctx_mapCtx_same _ c _
  have htwhy : (t.ctx c).why = none := by rw [ht]
  refine ⟨t, ?_, htwhy, ?_, ?_, .of_sameMem hmem ((feDo_effect (hmem.form hform) c op w data).trans (wake_sameMem _ c))⟩
  · change execFullEmptyAtPort c op w d data s = _
    rw [execFullEmptyAtPort]
    dsimp only
    rw [if_neg (not_not_intro hwhy), peerSaved_of_heldKey hheld, hheld, if_neg Bool.false_ne_true, if_neg Bool.false_ne_true]
    change Host.Outcome.next (if ((v.serveAll w).ctx c).taken && ((v.serveAll w).ctx c).why == some (.fullEmpty (spadCore w)) then
      (v.serveAll w).withdraw c else v.serveAll w) = _
    rw [hserve, htwhy]
    simp
  · rw [ht, hg, huctx]
  · rw [ht, hg]
    exact congrArg some (by unfold feResult State.rd64; rw [hmem.rdN])

/-! ## The own scratchpad (R302) -/

theorem badIn_word {w : Nat} (hw : w % 8 = 0) (h : s.isBad w = false) : s.badIn w 8 = none := by
  have hwords : wordsOf w 8 = [w] := by
    have h1 : divUp (w % 8 + 8) 8 = 1 := by rw [hw]; rfl
    have h0 : wordOf w = w := by unfold wordOf; omega
    unfold wordsOf
    rw [h1, h0]; rfl
  unfold State.badIn
  rw [hwords]
  simp [h]

/-- The own form's effect on its word, and then on its context. -/
def State.feOwn (s : State) (op : FeOp) (w : Nat) (data : Word) (d : Option XR) : State := (s.feDo s.cur op w data).feEnd op d

/-- A full/empty form at an open word of the own scratchpad steps on with its effect. -/
theorem fullEmpty_own {op : FeOp} {d : Option XR} {data ea : Word} {o : Nat} (hf : s.flows) (hgot : s.me.got = none) (hbuf : s.me.buf = [])
    (hcells : s.cellsOut s.cur = false) (harmed : s.me.armed = none) (hrec : s.me.recBad = false)
    (hea : ea = BitVec.ofNat 64 (0x00F0000002000000 + o)) (ho : o % 8 = 0) (hlt : o < 2 ^ 19)
    (hbad : s.isBad (spadKey s.myCore o) = false) (hfeq : (s.core s.myCore).feq = []) (hready : s.feReady op (spadKey s.myCore o) = true) :
    fullEmpty s op d data ea = .next (s.stepped (s.feOwn op (spadKey s.myCore o) data d)) := by
  let w := spadKey s.myCore o
  let p : Piece := ⟨0x00F0000002000000 + o, w, 8, false, none⟩
  have hval : ea.toNat = 0x00F0000002000000 + o := by rw [hea, BitVec.toNat_ofNat]; omega
  have hresolve : s.resolveMe .load (0x00F0000002000000 + o) 8 = .ok [p] := resolveMe_own s .load o 8 (by omega) (by omega)
  obtain ⟨hs, -, hb⟩ := bits_own o (by omega)
  have hkey : windowKey s.myCore (0x00F0000002000000 + o) = w := by
    have hcore : windowCore s.myCore (0x00F0000002000000 + o) = s.myCore := if_pos hs
    unfold windowKey
    rw [hcore, hb, Nat.mod_eq_of_lt hlt]
  have hspad : isSpad w = true := by
    have : 2 ^ 52 ≤ w := by change 2 ^ 52 ≤ spadKey s.myCore o; unfold spadKey; omega
    exact decide_eq_true this
  have hcore : spadCore w = s.myCore := by
    change spadCore (spadKey s.myCore o) = _
    unfold spadCore spadKey; omega
  have hown : allOwn s.myCore [p] = true := by
    change ([p].all fun q => isSpad q.key && spadCore q.key == s.myCore) = true
    rw [List.all_cons, List.all_nil]
    change (isSpad w && spadCore w == s.myCore && true) = true
    rw [hspad, hcore]
    simp
  have hclean : s.badPiece [p] = none := badPiece_single (p := p) (badIn_word (by change spadKey s.myCore o % 8 = 0; unfold spadKey; omega) hbad)
  have hcalm : s.calm s.cur .cluster none = true := by unfold State.calm; rw [hcells]; rfl
  have hgo : ∀ k, (if feAcquires op then s.drained k else s.released .cluster k) = k s := fun k => by
    split
    · exact drained_nil s hbuf k
    · exact released_calm s .cluster hbuf hcalm k
  have hserve : (s.feDo s.cur op w data).serveAll w = s.feDo s.cur op w data := by
    refine serve_nil ?_
    rw [hcore]
    unfold State.core
    rw [feDo_cores]
    exact hfeq
  unfold fullEmpty
  rw [hgot, hval]
  rw [if_neg (by omega), if_neg (by rw [badWindow_own o (by omega)]; simp; omega), if_neg (by rw [inWindow_own o (by omega)]; simp),
    hresolve, onRes_ok]
  rw [apply_ite (fun f : (State → Out) → Out => f _), hgo, readCheck_clean harmed hrec false hclean]
  dsimp only
  rw [hkey, hown, hready, hserve]
  exact retire_flows hf _

/-- Its register takes what the form has returned, and only that of memory is changed which its word takes. -/
theorem feOwn_effect (hform : s.form) (op : FeOp) (w : Nat) (data : Word) (d : Option XR) :
    let t := s.stepped (s.feOwn op w data d)
    FeEffect s t op w data ∧ t.me.pc = BitVec.ofNat 64 s.nextPc ∧
      ∀ r, d = some r → t.me.getX r = if r = 0 then 0 else feResult op s w := by
  intro t
  let u := s.feDo s.cur op w data
  let a := if feAcquires op then u.acquireOf u.cur .cluster u.me.gotTags else u.release u.cur .cluster
  have hmem : SameMem u a := by
    change SameMem u (if feAcquires op then u.acquireOf u.cur .cluster u.me.gotTags else u.release u.cur .cluster)
    split
    · exact acquireOf_sameMem _ _ _ _
    · exact release_sameMem _ _ _
  have hend : SameMem u (s.feOwn op w data d) := by
    have hput : SameMem a (s.feOwn op w data d) := by
      cases d <;> exact ⟨rfl, rfl, rfl, rfl⟩
    exact hmem.trans hput
  refine ⟨(feDo_effect hform s.cur op w data).trans (hend.trans (stepped_sameMem s _)), ?_, fun r hr => ?_⟩
  · change (s.stepped _).me.pc = _
    rw [stepped_me]; rfl
  · subst hr
    have hcur : u.cur = s.cur := feDo_cur ..
    obtain ⟨g, hg⟩ := feDo_ctx s s.cur op w data
    have hgot : u.me.got = some (feResult op s w) := by
      unfold State.me
      rw [hcur]
      exact congrArg Ctx.got hg
    have hval : t.me.getX r = if r = 0 then 0 else u.me.got.getD 0 := by
      change (s.stepped _).me.getX r = _
      rw [stepped_me]
      exact (getX_of_x (stepTo_x _ _) r).trans (putX_getX _ r _)
    rw [hval, hgot]; rfl

end Sys2Proof.Machine
end
section
/-! CERTIFICATE. Replies, accesses at their place, and full/empty forms complete: O52. -/
namespace Sys2Proof.Machine

/-- Settles O52, event by event and form by form, from what each does where its conditions hold. -/
theorem accessesComplete : Obligations.AccessesComplete := by
  unfold Obligations.AccessesComplete
  intro s hform
  refine ⟨fun c hwhy hlate => ?_, fun c va key asid v rest hkey hbuf hcan => ?_, fun k off n sg data c d hheld => ⟨fun hbad => ?_, ?_⟩,
    fun c va pa wr hwhy hlate => ?_, fun c w op d data hwhy _ hheld _ hbad _ hfeq hready => ?_,
    fun o sc loc v e c d hheld hrange hbad => ?_, fun pa c t b d who hc hheld => ⟨fun hfirst => ?_, fun hbad => ?_⟩,
    fun d a b off o hf hgot hbuf hcells harmed hrec hea ho hlt hbad hrange hfeq => ⟨fun hfull => ⟨?_, ?_⟩, fun hempty => ?_, ?_⟩⟩
  · exact ⟨_, longOpReply_flows hwhy hlate, reply_ctx_why hwhy, reply_ctx_eligFrom hwhy, reply_ctx_x s c,
      reply_ctx_view (v := Ctx.pc) (by intro _ _; rfl) (by intro _ _ _; rfl) s c, (reply_sameMem s c).keeps⟩
  · rw [storeBytes_word] at hbuf
    obtain ⟨hwrote, hrest, hx, hpc⟩ := drainWords_word hkey hbuf
    obtain ⟨hread, hbytes, -⟩ := (hwrote.trans (drainWake_sameMem _ c)).effect hform
    exact ⟨_, storeBufferDrain_word hbuf hcan, (drainWake_view (v := Ctx.buf) (by intro _ _ _; rfl) _ c c).trans hrest, hread, hbytes,
      (drainWake_view (v := Ctx.x) (by intro _ _ _; rfl) _ c c).trans hx, (drainWake_view (v := Ctx.pc) (by intro _ _ _; rfl) _ c c).trans hpc⟩
  · refine ⟨_, peerAccess_load sg data d hheld hbad, ?_, ?_⟩
    · exact ((noteReads_sameMem s c false _).trans ((mapCtx_sameMem _ c _).trans (reply_sameMem _ c))).keeps
    · rw [reply_ctx_getX, replyX_getX]; rfl
  · obtain ⟨t, hexec, hwrote⟩ := peerAccess_store sg data d hheld
    exact ⟨t, hexec, hwrote.effect hform⟩
  · obtain ⟨u, hexec, hmem, hctx⟩ := proxyAccess_flows va pa wr hwhy hlate
    refine ⟨_, hexec, reply_ctx_why (by rw [hctx]; exact hwhy), ?_, (hmem.trans (reply_sameMem u c)).keeps⟩
    rw [reply_ctx_x, hctx]
  · obtain ⟨t, hexec, ht, hx, hgot, heffect⟩ := fullEmptyAtPort_performs d (data := data) hform hwhy hheld hbad hfeq hready
    exact ⟨t, hexec, ht, hx, fun e => ⟨by rw [hgot, e]; rfl, (heffect.fe e).keeps⟩, fun e => ⟨by rw [hgot, e]; rfl, heffect.fc e⟩,
      heffect.store⟩
  · have hsum : amoNew .add (amoW true) (s.rdN loc 8) (v.toNat % 2 ^ amoW true) (e.toNat % 2 ^ amoW true) =
        some ((s.rdN loc 8 + v.toNat % 2 ^ 64) % 2 ^ 64) := rfl
    obtain ⟨t, hexec, hwrote, hreg⟩ := atomicAtPlace_writes o sc d hheld hrange hbad hsum
    obtain ⟨hread, hbut⟩ := hwrote.effect hform
    refine ⟨t, hexec, hread.trans ?_, hreg.trans ?_, hbut⟩
    · change _ % 256 ^ 8 = _
      have hv : v.toNat < 2 ^ 64 := v.isLt
      omega
    · exact congrArg (fun r => if d = 0 then 0 else r) (ofInt_sext_64 _)
  · have hwrote := (cellHome_sameMem s pa).wrote (cellPut_wrote _ pa who.ctx (cellBytes (cellAdd (cellOf (s.cellNow pa)) t b.toNat)) who.rel)
    exact ⟨_, cellAdd_performs hc hheld hfirst, hwrote.effect hform⟩
  · obtain ⟨hmem, hreg⟩ := cellAt_stat s pa d { who with accepted := false }
    refine ⟨_, cellStat_performs hc hheld hbad, (hmem.trans (cellReply_sameMem _ c)).keeps, ?_⟩
    rw [cellReply_getX, ← hc]
    exact hreg
  · obtain ⟨heffect, hpc, hreg⟩ := feOwn_effect hform .fe (spadKey s.myCore o) 0 (some d)
    exact ⟨_, fullEmpty_own hf hgot hbuf hcells harmed hrec hea ho hlt hbad hfeq hfull, hreg d rfl, hpc, (heffect.fe rfl).keeps⟩
  · obtain ⟨heffect, hpc, hreg⟩ := feOwn_effect hform .fc (spadKey s.myCore o) 0 (some d)
    exact ⟨_, fullEmpty_own hf hgot hbuf hcells harmed hrec hea ho hlt hbad hfeq hfull, hreg d rfl, heffect.fc rfl, hpc⟩
  · obtain ⟨heffect, hpc, -⟩ := feOwn_effect hform .ef (spadKey s.myCore o) (s.me.getS a) none
    have hready : s.feReady .ef (spadKey s.myCore o) = true := by
      have hempty' : s.isFull (spadKey s.myCore o) = false := hempty
      have hrange' : s.inRange (spadKey s.myCore o) = false := hrange
      change (!s.isFull _ && !s.inRange _) = true
      rw [hempty', hrange']; rfl
    obtain ⟨hread, hisFull⟩ := heffect.store (.inl rfl)
    exact ⟨_, fullEmpty_own hf hgot hbuf hcells harmed hrec hea ho hlt hbad hfeq hready, hread, hisFull, hpc⟩
  · obtain ⟨heffect, hpc, -⟩ := feOwn_effect hform .f (spadKey s.myCore o) (s.me.getS a) none
    have hready : s.feReady .f (spadKey s.myCore o) = true := by
      have hrange' : s.inRange (spadKey s.myCore o) = false := hrange
      change (!s.inRange _) = true
      rw [hrange']; rfl
    obtain ⟨hread, hisFull⟩ := heffect.store (.inr rfl)
    exact ⟨_, fullEmpty_own hf hgot hbuf hcells harmed hrec hea ho hlt hbad hfeq hready, hread, hisFull, hpc⟩

end Sys2Proof.Machine
end

section
/-! SUPPORT. Traps that are taken, and code lines that arrive (R232, R376, R430). -/
namespace Sys2Proof.Machine

variable {s : State}

/-! ## The miller's trap (R430) -/

theorem grants_cores (s : State) : s.grants.cores = s.cores :=
  foldl_view (v := State.cores) (by intro _ _; rfl) _ s
theorem ctx_of_ctxs {t : State} (h : t.ctxs = s.ctxs) (c : Nat) : t.ctx c = s.ctx c := by
  unfold State.ctx; rw [h]
theorem core_of_cores {t : State} (h : t.cores = s.cores) (n : Nat) : t.core n = s.core n := by
  unfold State.core; rw [h]

/-- The entries of a context at homes and in queues, and its pending events of waits, are gone. -/
def State.unlisted (s : State) (c : Nat) : State :=
  ({ s with sleepers := s.sleepers.filter (fun q => q.who != c || q.saved), entryWait := s.entryWait.filter (·.2.1 != c),
            agenda := s.agenda.filter (!waitEvent c ·) } : State).mapClu (clusterOf (coreOf c))
    fun k => { k with omu.waiting := k.omu.waiting.filter (·.1 != c) }
theorem withdraw_recv {c : Nat} (h : (s.ctx c).why = some .recv) :
    s.withdraw c = (((s.unlisted c).mapCtx c fun x => { x with held := false, sent := false }).wake c).grants := by
  have hwhy : (((s.unlisted c).ctx c).why.isSome) = true := by
    change (s.ctx c).why.isSome = true
    rw [h]; rfl
  unfold State.withdraw
  rw [h]
  exact congrArg State.grants (if_pos hwhy)
/-- A wait for a message that is withdrawn: its context is back in the rotation, and no core is changed. -/
theorem withdraw_recv_effect {c : Nat} (h : (s.ctx c).why = some .recv) : (s.withdraw c).cores = s.cores ∧
    ∃ e, (s.withdraw c).ctx c = { s.ctx c with held := false, sent := false, why := none, eligFrom := e } := by
  rw [withdraw_recv h]
  refine ⟨grants_cores _, Nat.max (s.ctx c).eligFrom (s.cycle + 1), ?_⟩
  rw [ctx_of_ctxs (grants_ctxs _), State.wake, ctx_mapCtx_same, ctx_mapCtx_same]
  rfl

/-- A context enters its handler where that is well formed. -/
theorem enterTrap_good {i : Nat} (src cause : Nat) (val epc : Word) (deleg async : Bool) (h : goodPc (tvecAddr (s.ctx i).tvec) = true) :
    (enterTrap s i src cause val epc deleg async).cores = s.cores ∧
    let t := enterTrap s i src cause val epc deleg async
    (t.ctx i).pc = BitVec.ofNat 64 (tvecAddr (s.ctx i).tvec) ∧ (t.ctx i).epc = epc ∧ (t.ctx i).eval = val ∧ (t.ctx i).intv = true ∧
      (t.ctx i).sys = true := by
  let u := s.mapCtx i fun c => { c with epc := epc, eval := val, ecause := ecauseOf src deleg async cause
                                        badSys := trapBad (goodPc (tvecAddr c.tvec)) c.badSys }
  have hu : u.ctx i = _ := ctx_mapCtx_same s i _
  have htvec : (u.ctx i).tvec = (s.ctx i).tvec := by rw [hu]
  have henter : enterTrap s i src cause val epc deleg async = u.mapCtx i fun c =>
      { c.goto (tvecAddr (s.ctx i).tvec) with priv := lvlBit c.sys <<< 1 ||| 1, intv := true, entry := some cause, why := none } := by
    change (if goodPc (tvecAddr (u.ctx i).tvec) = true then _ else _) = _
    rw [htvec, if_pos h]
  have hsys : ∀ b : Bool, (lvlBit b <<< 1 ||| 1 : Word).getLsbD 0 = true := by decide
  rw [henter]
  dsimp only
  rw [ctx_mapCtx_same, hu]
  exact ⟨rfl, rfl, rfl, rfl, rfl, hsys _⟩

theorem pickPending_oldest {p : PendTrap} {ps : List PendTrap} (h : ∀ q ∈ p :: ps, q.preempt = false) :
    pickPending (p :: ps) = some (p, ps) := by
  have hnone : (p :: ps).find? (·.preempt) = none := List.find?_eq_none.mpr fun q hq => by simp [h q hq]
  unfold pickPending
  rw [hnone]

/-- A miller that waits for a message takes its oldest delegated trap. -/
theorem millerTakeTrap_takes {n : Nat} {p : PendTrap} {ps : List PendTrap} (hmode : (s.core n).mode = .running)
    (hpend : (s.core n).pending = p :: ps) (hpre : ∀ q ∈ p :: ps, q.preempt = false) (hrun : (s.ctx (16 * n)).run = .running)
    (hintv : (s.ctx (16 * n)).intv = false) (hgot : (s.ctx (16 * n)).got = none) (hheld : (s.ctx (16 * n)).held = false)
    (hwhy : (s.ctx (16 * n)).why = some .recv) (hgood : goodPc (tvecAddr (s.ctx (16 * n)).tvec) = true) :
    ∃ t, exec (.millerTakeTrap n) s = .next t ∧ (t.core n).pending = ps ∧
      (t.ctx (16 * n)).pc = BitVec.ofNat 64 (tvecAddr (s.ctx (16 * n)).tvec) ∧ (t.ctx (16 * n)).epc = (s.ctx (16 * n)).pc ∧
      (t.ctx (16 * n)).eval = p.val ∧ (t.ctx (16 * n)).intv = true ∧ (t.ctx (16 * n)).sys = true := by
  let v := s.mapCore n fun k => { k with pending := ps }
  let u := v.withdraw (16 * n)
  obtain ⟨hcores, e, hctx⟩ := withdraw_recv_effect (s := v) (c := 16 * n) hwhy
  have hpc : (u.ctx (16 * n)).pc = (s.ctx (16 * n)).pc := (congrArg Ctx.pc hctx :)
  have htvec : (u.ctx (16 * n)).tvec = (s.ctx (16 * n)).tvec := (congrArg Ctx.tvec hctx :)
  obtain ⟨hkeep, hentry⟩ := enterTrap_good (s := u) (i := 16 * n) p.src p.cause p.val (s.ctx (16 * n)).pc (!p.preempt) p.async
    (by rw [htvec]; exact hgood)
  rw [htvec] at hentry
  refine ⟨enterTrap u (16 * n) p.src p.cause p.val (s.ctx (16 * n)).pc (!p.preempt) p.async, ?_, ?_, hentry⟩
  · have hready : s.millerReady n = true := by
      unfold State.millerReady
      dsimp only
      rw [hrun, hintv, hgot, hheld, hwhy]; rfl
    have htake : s.millerTake n = enterTrap u (16 * n) p.src p.cause p.val (s.ctx (16 * n)).pc (!p.preempt) p.async := by
      unfold State.millerTake
      rw [hpend, pickPending_oldest hpre]
      dsimp only
      rw [hpre p List.mem_cons_self, ← hpc]
      rfl
    change execMillerTakeTrap n s = _
    rw [execMillerTakeTrap, hmode, if_neg (by simp), hready, hwhy, hpend, ← htake]
    rfl
  · rw [core_of_cores (hkeep.trans hcores)]
    exact congrArg Core.pending ((core_mapCore s n n _).trans (if_pos rfl))

/-! ## An asynchronous trap (R232) -/

/-- A context whose trap is delegated to its miller. -/
def Ctx.delegated (x : Ctx) (n cause : Nat) (val epc : Word) (async : Bool) : Ctx :=
  { x with run := .held, why := none, taken := false, held := false, sent := false, epc := epc, eval := val,
           ecause := ecauseOf n true async cause, badSys := trapBad false x.badSys }

/-- The trap of a halted context is passed on to its miller. -/
theorem asyncTrapTake_delegates {c : Nat} {a : AsyncTrap} {l : List AsyncTrap} (hrun : (s.ctx c).run = .halted) (hasync : (s.ctx c).asyncs = a :: l)
    (hc : c % 16 ≠ 0) :
    ∃ t, exec (.asyncTrapTake c) s = .next t ∧ (t.ctx c).asyncs = l ∧ (t.ctx c).run = .held ∧ (t.ctx c).eval = a.val ∧ KeepsMemory s t := by
  let u := s.mapCtx c fun x => { x with asyncs := l }
  have hu : u.ctx c = { s.ctx c with asyncs := l } := ctx_mapCtx_same s c fun x => { x with asyncs := l }
  let t := delegate u c a.cause a.val (s.ctx c).pc true
  have ht : t.ctx c = (u.ctx c).delegated (ctxNo c) a.cause a.val (s.ctx c).pc true := ctx_mapCtx_same u c (·.delegated _ _ _ _ _)
  refine ⟨t, ?_, ?_, ?_, ?_, .of_eq rfl rfl rfl⟩
  · change execAsyncTrapTake c s = _
    rw [execAsyncTrapTake, hasync]
    exact if_neg (by rw [hrun]; simpa [ctxNo] using hc)
  · rw [ht, hu]; rfl
  · rw [ht]; rfl
  · rw [ht]; rfl

/-! ## A code line (R376) -/

theorem l1iIn_keeps (s : State) (n : Nat) (e : ILine) : SameMem s (s.l1iIn n e) ∧ (s.l1iIn n e).ctxs = s.ctxs := by
  unfold State.l1iIn
  dsimp only
  split <;> exact ⟨⟨rfl, rfl, rfl, rfl⟩, rfl⟩

/-- A line that can be fetched is installed, and its context goes on. -/
theorem ifetchLineArrival_arrives {c pa : Nat} {e : TEntry} (hwhy : (s.ctx c).why = some .line)
    (hask : s.askSlice (s.asker c) none (lineAddr (s.ctx c).pc) .fetch = .ok pa)
    (hpage : s.pageOf (s.asker c) (lineAddr (s.ctx c).pc) = some e) (hcell : e.cell = false) (hbad : s.badIn pa 64 = none)
    (hopen : ∀ bank, s.bankFor (s.asker c) (lineAddr (s.ctx c).pc) pa = some bank → s.shutFor .fetch (fieldOf (coreOf c)) bank pa = false) :
    ∃ t, exec (.ifetchLineArrival c) s = .next t ∧ (t.ctx c).why = none ∧ (t.ctx c).pc = (s.ctx c).pc ∧ KeepsMemory s t := by
  let u := s.l1iIn (coreOf c) ⟨(s.ctx c).asid.toNat, lineAddr (s.ctx c).pc, BitVec.ofNat 512 (s.rdN pa 64), e.r, e.w, e.x, e.app, false⟩
  obtain ⟨hmem, hctxs⟩ := l1iIn_keeps s (coreOf c)
    ⟨(s.ctx c).asid.toNat, lineAddr (s.ctx c).pc, BitVec.ofNat 512 (s.rdN pa 64), e.r, e.w, e.x, e.app, false⟩
  have hctx : u.ctx c = s.ctx c := ctx_of_ctxs hctxs c
  have hshut : ((s.bankFor (s.asker c) (lineAddr (s.ctx c).pc) pa).map fun b => s.shutFor .fetch (fieldOf (s.asker c).core) b pa).getD false = false := by
    cases h : s.bankFor (s.asker c) (lineAddr (s.ctx c).pc) pa with
    | none => rfl
    | some b => exact hopen b h
  have hexec : exec (.ifetchLineArrival c) s = .next (u.wake c) := by
    change execIfetchLineArrival c s = _
    have hwake : u.wakeLine c = u.wake c := if_pos (by rw [hctx]; exact hwhy)
    rw [execIfetchLineArrival, ← hwake]
    unfold State.lineArrival
    dsimp only
    rw [hask, hpage]
    dsimp only
    rw [hshut, hcell, hbad]
    rfl
  refine ⟨_, hexec, ?_, ?_, (hmem.trans (wake_sameMem u c)).keeps⟩
  · rw [State.wake, ctx_mapCtx_same]
  · exact (wake_view (v := Ctx.pc) (by intro _ _ _; rfl) u c c).trans (congrArg Ctx.pc hctx)

end Sys2Proof.Machine
end
section
/-! SUPPORT. Launches: acceptance, placement and end (R368 to R373). -/
namespace Sys2Proof.Machine

variable {s : State}

/-! ## What placement leaves of a launch (R370) -/

theorem launch_of_launches {t : State} (h : t.launches = s.launches) (l : Nat) : t.launch l = s.launch l := by
  unfold State.launch; rw [h]
theorem launch_mapLaunch (s : State) (l : Nat) (f : Launch → Launch) : (s.mapLaunch l f).launch l = f (s.launch l) :=
  tget_tset_same s.launches l (f (s.launch l)) Launch.none

/-- What a launch holds but for its channels' groups. -/
def Launch.core (x : Launch) : Launch := { x with groups := [] }

theorem traceWrite_launches (s : State) (c : Nat) (old : WTag) (w b : Nat) : (s.traceWrite c old w b).launches = s.launches := by
  unfold State.traceWrite
  dsimp only
  split
  · split <;> split <;> rfl
  · rfl
theorem tagWrite_launches (s : State) (c : Nat) (rel : Option Scope) (home : Bool) (w : Nat) :
    (s.tagWrite c rel home w).launches = s.launches := by
  unfold State.tagWrite State.tagAt
  split
  · rfl
  · exact traceWrite_launches s c _ w _
theorem feDo_launches (s : State) (c : Nat) (op : FeOp) (w : Nat) (data : Word) : (s.feDo c op w data).launches = s.launches := by
  cases op with
  | fe => rfl
  | fc => rfl
  | ef => exact tagWrite_launches ((s.gotFrom c 0 []).store w 8 data.toNat false) c (some .cluster) true w
  | f => exact tagWrite_launches ((s.gotFrom c 0 []).store w 8 data.toNat false) c (some .cluster) true w
theorem serve_launches (s : State) (w k : Nat) : (s.serve w k).launches = s.launches := by
  induction k generalizing s with
  | zero => rfl
  | succ k ih =>
    rw [State.serve]
    dsimp only
    split
    · rfl
    · split
      · exact ih _
      · exact (ih _).trans (feDo_launches _ _ _ w _)
theorem serveCore_launches (s : State) (n : Nat) : (s.serveCore n).launches = s.launches :=
  foldl_view (v := State.launches) (fun t w => serve_launches t w _) _ s
theorem setFulls_launches (s : State) (ws : List Nat) : (ws.foldl (fun (s : State) w => s.setFull w) s).launches = s.launches :=
  foldl_view (v := State.launches) (by intro _ _; rfl) ws s
theorem leaveAll_launches (s : State) (cs : List Nat) : (cs.foldl (fun (s : State) c => s.leaveWalks c) s).launches = s.launches :=
  foldl_view (v := State.launches) (by intro _ _; rfl) cs s
theorem store_launches (s : State) (a n v : Nat) : (s.store a n v false).launches = s.launches := rfl
theorem treeCheck_launches (s : State) (l ch f : Nat) : (s.treeCheck l ch f).launches = s.launches := by
  unfold State.treeCheck
  dsimp only
  split <;> rfl
/-- A core made ready for a launch: nothing but groups is changed in it. -/
theorem prepareCore_launch (s : State) (l n : Nat) : ((s.prepareCore l n).launch l).core = (s.launch l).core := by
  have hclear : ∀ b : Bool, (if b then s.clearSpad n else s).launches = s.launches := fun b => by cases b <;> rfl
  unfold State.prepareCore
  dsimp only
  refine (foldl_view (v := fun t : State => (t.launch l).core) (fun t ch => ?_) _ _).trans
    (congrArg Launch.core (launch_of_launches ((serveCore_launches _ n).trans ?_) l))
  · rw [launch_of_launches (treeCheck_launches _ _ _ _), State.mapGroup, launch_mapLaunch]
    rfl
  · split
    · exact (mapCore_launches _ _ _).trans ((leaveAll_launches _ _).trans (hclear _))
    · exact (setFulls_launches _ _).trans ((store_launches _ _ _ _).trans ((mapCore_launches _ _ _).trans
        ((leaveAll_launches _ _).trans (hclear _))))

theorem acquireOf_launches (s : State) (c : Nat) (sc : Scope) (rs : List ReadTag) : (s.acquireOf c sc rs).launches = s.launches := by
  unfold State.acquireOf
  dsimp only
  split <;> rfl

/-- One context of a core that a launch places. -/
def State.placeOne (s : State) (l n pc : Nat) (sys : Bool) (j : Nat) : State :=
  (s.placeCtx (16 * n + j) l pc 0 sys).acquireOf (16 * n + j) .device []

theorem placeOne_launches (s : State) (l n pc : Nat) (sys : Bool) (j : Nat) : (s.placeOne l n pc sys j).launches = s.launches :=
  acquireOf_launches _ _ _ _
theorem placeCtx_same (s : State) (c l pc : Nat) (x1 : Word) (sys : Bool) :
    ((s.placeCtx c l pc x1 sys).ctx c).run = .running ∧ ((s.placeCtx c l pc x1 sys).ctx c).pc = BitVec.ofNat 64 pc := by
  unfold State.placeCtx
  dsimp only
  rw [ctx_setCtx_same]
  exact ⟨rfl, rfl⟩
theorem placeOne_ctx_zero (s : State) (l n pc : Nat) (sys : Bool) :
    ((s.placeOne l n pc sys 0).ctx (16 * n)).run = .running ∧ ((s.placeOne l n pc sys 0).ctx (16 * n)).pc = BitVec.ofNat 64 pc := by
  rw [State.placeOne, acquireOf_ctx]
  exact placeCtx_same s (16 * n) l pc 0 sys
theorem placeOne_ctx_succ (s : State) (l n pc : Nat) (sys : Bool) (j : Nat) :
    (s.placeOne l n pc sys (j + 1)).ctx (16 * n) = s.ctx (16 * n) := by
  rw [State.placeOne, acquireOf_ctx]
  exact ctx_setCtx_ne _ _ _ _ (by omega)

/-- Of the contexts that are placed, the first is the core's first. -/
theorem placeAll_first (s : State) (l n pc m : Nat) (sys : Bool) :
    let t := (List.range (m + 1)).foldl (fun (s : State) j => s.placeOne l n pc sys j) s
    (t.ctx (16 * n)).run = .running ∧ (t.ctx (16 * n)).pc = BitVec.ofNat 64 pc ∧ t.launches = s.launches := by
  intro t
  have hlist : List.range (m + 1) = 0 :: (List.range m).map (· + 1) := List.range_succ_eq_map
  have ht : t = (List.range m).foldl (fun (s : State) j => s.placeOne l n pc sys (j + 1)) (s.placeOne l n pc sys 0) := by
    change (List.range (m + 1)).foldl _ s = _
    rw [hlist, List.foldl_cons, List.foldl_map]
  have hctx : t.ctx (16 * n) = (s.placeOne l n pc sys 0).ctx (16 * n) := by
    rw [ht]
    exact foldl_view (v := fun t : State => t.ctx (16 * n)) (fun t j => placeOne_ctx_succ t l n pc sys j) _ _
  rw [hctx]
  obtain ⟨hrun, hpc⟩ := placeOne_ctx_zero s l n pc sys
  refine ⟨hrun, hpc, ?_⟩
  exact foldl_view (v := State.launches) (fun t j => placeOne_launches t l n pc sys j) _ s

/-- CORE_PLACEMENT: the core's first context stands at the record's entry, and the core counts as placed. -/
theorem corePlacement_places {l n : Nat} (hlive : (s.launch l).live = true) (hnew : n ∉ (s.launch l).placed) (hmap : s.remapState n = 1)
    (hwaiter : (s.launch l).waiter = none) :
    ∃ t, exec (.corePlacement l n) s = .next t ∧ (t.launch l).placed = (s.launch l).placed ++ [n] ∧ (t.ctx (16 * n)).run = .running ∧
      (t.ctx (16 * n)).pc = BitVec.ofNat 64 (bits (s.launch l).record.toNat 119 65 * 2) := by
  let r := (s.launch l).record
  let u := (List.range (recField r 151 148 + 1)).foldl (fun (s : State) j => s.placeOne l n (recField r 119 65 * 2) (r.getLsbD 147) j)
    (s.prepareCore l n)
  let t := u.mapLaunch l fun x => { x with placed := x.placed ++ [n] }
  obtain ⟨hrun, hpc, hlaunches⟩ := placeAll_first (s.prepareCore l n) l n (recField r 119 65 * 2) (recField r 151 148) (r.getLsbD 147)
  have hkeep : (u.launch l).core = (s.launch l).core := (congrArg Launch.core (launch_of_launches hlaunches l)).trans (prepareCore_launch s l n)
  have ht : t.launch l = { u.launch l with placed := (u.launch l).placed ++ [n] } :=
    launch_mapLaunch u l fun x => { x with placed := x.placed ++ [n] }
  have hnone : (t.launch l).waiter = none := by
    rw [ht]
    exact (congrArg Launch.waiter hkeep :).trans hwaiter
  have hplaced : (u.launch l).placed = (s.launch l).placed := (congrArg Launch.placed hkeep :)
  have hplace : s.placeCore l n = t := by
    change (if (t.launch l).placed.length < (t.launch l).cores.length then t else match (t.launch l).waiter with
      | none => t
      | some w => _) = t
    rw [hnone]
    exact ite_self t
  refine ⟨t, ?_, ?_, hrun, hpc⟩
  · change execCorePlacement l n s = _
    have hcontains : (s.launch l).placed.contains n = false := by simpa using hnew
    rw [execCorePlacement]
    rw [hcontains, hlive, hmap, hplace]
    rfl
  · rw [ht]
    exact congrArg (· ++ [n]) hplaced

/-! ## The end of a launch (R373) -/

/-- A launch whose contexts have halted, with everything done and no completion action, is over. -/
theorem launchEnd_ends {l : Nat} (hlive : (s.launch l).live = true) (hact : (s.launch l).acting = false) (hhalt : s.launchHalted l = true)
    (hquiet : s.launchQuiet l = true) (hkind : bits (s.launch l).record.toNat 1345 1344 = 0) :
    ∃ t, exec (.launchEnd l) s = .next t ∧ (t.launch l).live = false ∧ KeepsMemory s t := by
  let u := (s.launch l).cores.foldl (fun (s : State) n =>
    s.mapCore n fun k => if k.launch = some l then { k with launch := none } else k) s
  let v := u.mapLaunch l fun x => { x with live := false, acting := true }
  have hmem : SameMem s u := .foldl (fun s n => mapCore_sameMem s n _) _ s
  have hv : v.launch l = { u.launch l with live := false, acting := true } :=
    launch_mapLaunch u l fun x => { x with live := false, acting := true }
  have hlive' : (v.launch l).live = false := by rw [hv]
  have hexec : exec (.launchEnd l) s = .next (v.mapLaunch l fun x => { x with acting := false }) := by
    have hdone : v.act l (s.launch l) = .done v := by
      unfold State.act recField
      rw [hkind]
      rfl
    change execLaunchEnd l s = _
    rw [execLaunchEnd]
    dsimp only
    rw [hact, hlive, hhalt, hquiet]
    change (match v.act l (s.launch l) with
      | .done t => Host.Outcome.next (t.mapLaunch l fun x => { x with acting := false })
      | .again t => .next (t.heldBy (s.launch l).pushKey (.launchEnd l))) = _
    rw [hdone]
  refine ⟨_, hexec, ?_, (hmem.trans ⟨rfl, rfl, rfl, rfl⟩).keeps⟩
  rw [launch_mapLaunch]
  exact hlive'

/-! ## LAUNCH (R371, R435) -/

/-- A record that is read behind its context's earlier accesses, with no error met. -/
theorem readRecord_flows {ps : List Piece} (hbuf : s.me.buf = []) (harmed : s.me.armed = none) (hrec : s.me.recBad = false)
    (hbad : s.badPiece ps = none) {rel : Option Scope} (hquiet : ∀ sc, rel = some sc → s.quiet s.cur sc none = true) (k : State → Nat → Out) :
    readRecord s (.ok ps) rel k = k s (s.readKeys (pieceKeys ps)) := by
  unfold readRecord
  rw [onRes_ok]
  have hread := readCheck_clean harmed hrec false hbad fun t => k t (t.readKeys (pieceKeys ps))
  cases rel with
  | none => exact (drained_nil s hbuf _).trans hread
  | some sc => exact (ordered_quiet s sc none hbuf (hquiet sc rfl) _).trans hread

theorem inventory_launches (s : State) : s.inventory.launches = s.launches := by rw [inventory_eq]
theorem inventory_nLaunch (s : State) : s.inventory.nLaunch = s.nLaunch := by rw [inventory_eq]
theorem logDiscard_launches (s : State) (n dst : Nat) : (s.logDiscard n dst).launches = s.launches := inventory_launches _
theorem logDiscard_nLaunch (s : State) (n dst : Nat) : (s.logDiscard n dst).nLaunch = s.nLaunch := inventory_nLaunch _
theorem logClu_sameMem (s : State) (cl : Nat) (k : RingKind) (x : BitVec 128) : SameMem s (s.logClu cl k x) :=
  (mapClu_sameMem s cl _).trans (inventory_sameMem _)
theorem dropQueues_sameMem (s : State) (n : Nat) : SameMem s (s.dropQueues n) := by
  unfold State.dropQueues
  exact (mapCore_sameMem s n _).trans (.foldl (fun t m => logClu_sameMem t _ _ _) (s.queued n) (s.dropQueue n))
theorem dropQueue_launches (s : State) (n : Nat) : (s.dropQueue n).launches = s.launches := rfl
theorem dropQueues_launches (s : State) (n : Nat) : (s.dropQueues n).launches = s.launches :=
  (foldl_view (v := State.launches) (fun t _ => logDiscard_launches t n _) _ _).trans (dropQueue_launches s n)
theorem dropQueue_nLaunch (s : State) (n : Nat) : (s.dropQueue n).nLaunch = s.nLaunch := rfl
theorem dropQueues_nLaunch (s : State) (n : Nat) : (s.dropQueues n).nLaunch = s.nLaunch :=
  (foldl_view (v := State.nLaunch) (fun t _ => logDiscard_nLaunch t n _) _ _).trans (dropQueue_nLaunch s n)

/-- An accepted launch is live, with its record, under the next number. -/
theorem launchAccept_effect (s : State) (r : BitVec 2048) (shape : Nat) (d : XR) : SameMem s (s.launchAccept r shape d) ∧
    (s.launchAccept r shape d).nLaunch = s.nLaunch + 1 ∧ ((s.launchAccept r shape d).launch s.nLaunch).record = r ∧
    ((s.launchAccept r shape d).launch s.nLaunch).live = true := by
  let x : Launch :=
    { issuer := s.cur, asid := recField r 175 160, cores := recCores r, record := r, shape := BitVec.ofNat 1024 shape, placed := [],
      live := true, acting := false, waiter := some (s.cur, d), groups := [], redBad := [] }
  let u : State := { s with launches := tset s.launches s.nLaunch x, nLaunch := s.nLaunch + 1 }
  let f (t : State) (n : Nat) : State :=
    ((t.dropQueues n).mapCore n fun k => { k with launch := some s.nLaunch }).post (.corePlacement s.nLaunch n)
  have ht : s.launchAccept r shape d = (recCores r).foldl f u := rfl
  have hmem : SameMem u ((recCores r).foldl f u) :=
    .foldl (fun t n => (dropQueues_sameMem t n).trans ((mapCore_sameMem _ n _).trans (.post _ _))) _ u
  have hlaunches : ((recCores r).foldl f u).launches = u.launches :=
    foldl_view (f := f) (v := State.launches) dropQueues_launches _ u
  have hn : ((recCores r).foldl f u).nLaunch = u.nLaunch := foldl_view (f := f) (v := State.nLaunch) dropQueues_nLaunch _ u
  have hx : ((recCores r).foldl f u).launch s.nLaunch = x :=
    (launch_of_launches hlaunches _).trans (tget_tset_same s.launches s.nLaunch x Launch.none)
  rw [ht]
  exact ⟨SameMem.trans ⟨rfl, rfl, rfl, rfl⟩ hmem, hn, by rw [hx], by rw [hx]⟩

/-- LAUNCH of a record that is not refused and has no arguments. -/
theorem launch_accepts {d : XR} {b : XS} {ps : List Piece} {r : BitVec 2048} (hf : s.flows) (hbuf : s.me.buf = []) (harmed : s.me.armed = none)
    (hrec : s.me.recBad = false) (halign : (s.me.getS b).toNat % 64 = 0) (hblock : s.blockMe .load (s.me.getS b).toNat 256 = .ok ps)
    (hbad : s.badPiece ps = none) (hquiet : s.quiet s.cur .device none = true) (hr : r = BitVec.ofNat 2048 (s.readKeys (pieceKeys ps)))
    (haccept : s.launchRefused r = none) (hargs : bits r.toNat 447 384 = 0) :
    ∃ t, exec (.launch d b) s = .next t ∧ t.nLaunch = s.nLaunch + 1 ∧ (t.launch s.nLaunch).record = r ∧ (t.launch s.nLaunch).live = true ∧
      t.me.why = some .longOp ∧ t.me.pc = BitVec.ofNat 64 s.nextPc ∧ KeepsMemory s t := by
  let u := (s.release s.cur .device).launchAccept r 0 d
  obtain ⟨hmem, hn, hrecord, hlive⟩ := launchAccept_effect (s.release s.cur .device) r 0 d
  have hexec : exec (.launch d b) s = .next (s.stepped (u.mapMe fun x => { x with why := some .longOp })) := by
    change execLaunch d b s = _
    rw [execLaunch]
    dsimp only
    rw [State.needAligned, if_pos halign, hblock, readRecord_flows hbuf harmed hrec hbad (fun sc h => by cases h; exact hquiet), ← hr]
    rw [haccept]
    dsimp only
    rw [if_pos (show recField r 447 384 = 0 from hargs)]
    exact retire_flows hf _
  refine ⟨_, hexec, hn, hrecord, hlive, ?_, ?_, ((release_sameMem _ _ _).trans (hmem.trans ((mapMe_sameMem u _).trans (stepped_sameMem s _)))).keeps⟩
  · rw [stepped_me, stepTo_why]
    exact congrArg Ctx.why (me_mapMe u fun x => { x with why := some .longOp })
  · rw [stepped_me]; rfl

end Sys2Proof.Machine
end
section
/-! SUPPORT. START, REAP, MIGR and ERRINJ where they complete (R436, R437, R440, R441). -/
namespace Sys2Proof.Machine

variable {s : State}

theorem steppedLong_ctx_ne (s t : State) (c : Nat) (h : c ≠ t.cur) : (s.steppedLong t).ctx c = t.ctx c :=
  (stepped_ctx_ne s ((t.mapMe fun x => { x with why := some .longOp }).post (.longOpReply s.cur)) c h).trans
    (ctx_mapMe_ne t c (fun x => { x with why := some .longOp }) h)

/-- What a system form that ends with a status leaves: its status, its next code address, and the memory and the other contexts of the
state that holds its effect. -/
theorem endStatus_effect (s t : State) (d : XR) (st : Nat) :
    let u := s.steppedLong (t.putX d (BitVec.ofNat 64 st))
    u.me.getX d = (if d = 0 then 0 else BitVec.ofNat 64 st) ∧ u.me.pc = BitVec.ofNat 64 s.nextPc ∧ SameMem t u ∧
      ∀ c, c ≠ t.cur → u.ctx c = t.ctx c :=
  ⟨(steppedLong_getX s _ d).trans (putX_getX t d _), steppedLong_pc s _, (putX_sameMem t d _).trans (steppedLong_sameMem s _),
    fun c hc => (steppedLong_ctx_ne s (t.putX d (BitVec.ofNat 64 st)) c hc).trans (ctx_mapMe_ne t c (·.setX d (BitVec.ofNat 64 st)) hc)⟩
theorem endStatus_flows (hf : s.flows) (t : State) (d : XR) (st : Nat) :
    endStatus s t d st = .next (s.steppedLong (t.putX d (BitVec.ofNat 64 st))) := retireLong_flows hf _

theorem putX_me (s : State) (d : XR) (v : Word) : (s.putX d v).me = s.me.setX d v := me_mapMe s (·.setX d v)

/-! ## START (R436) -/

/-- START of a halted context of a mapped core, with a well-formed code address. -/
theorem start_flows {n : Fin 16} {d : XR} {b : XS} {p : Piece} (hf : s.flows) (hmiller : s.cur % 16 = 0)
    (halign : (s.me.getS b).toNat % 16 = 0) (hres : s.resolveMe .load (s.me.getS b).toNat 16 = .ok [p]) (hlen : p.len = 16)
    (hbad : s.badPiece [p] = none) (hbuf : s.me.buf = []) (harmed : s.me.armed = none) (hrec : s.me.recBad = false)
    (hquiet : s.quiet s.cur .core none = true) (hmap : s.remapState s.myCore = 1) (hrun : (s.ctx (16 * s.myCore + n.val)).run = .halted)
    (hasync : (s.ctx (16 * s.myCore + n.val)).asyncs = []) (hpc : goodPc (s.rdN p.key 16 % 2 ^ 64) = true) :
    ∃ l x1 sys, exec (.start n d b) s = .next (s.steppedLong ((((s.release s.cur .core).placeCtx (16 * s.myCore + n.val) l
      (s.rdN p.key 16 % 2 ^ 64) x1 sys).acquireOf (16 * s.myCore + n.val) .core []).putX d (BitVec.ofNat 64 0))) := by
  have hread : s.readKeys (pieceKeys [p]) = s.rdN p.key 16 := by rw [pieceKeys_single, hlen, readKeys_range]
  let l := (s.core s.myCore).launch.getD s.nLaunch
  refine ⟨l, BitVec.ofNat 64 (s.rdN p.key 16 / 2 ^ 64), (s.launch l).record.getLsbD 147 && s.me.sys, ?_⟩
  change execStart n d b s = _
  rw [execStart]
  dsimp only
  rw [needMiller_miller (show ctxNo s.cur = 0 from hmiller), State.needAligned, if_pos halign, hres,
    readRecord_flows hbuf harmed hrec hbad (fun sc h => by cases h; exact hquiet), hread, hmap]
  rw [if_neg (by simp), if_neg (by simp), if_neg (by simp [hrun, hasync]), hpc]
  exact endStatus_flows hf _ d 0

theorem acquireOf_cur (s : State) (c : Nat) (sc : Scope) (rs : List ReadTag) : (s.acquireOf c sc rs).cur = s.cur := by
  unfold State.acquireOf
  dsimp only
  split <;> rfl

/-- What a START leaves that has placed context c. -/
theorem started_effect (s : State) {c : Nat} (d : XR) (l v : Nat) (x1 : Word) (sys : Bool) (hc : c ≠ s.cur) :
    let t := s.steppedLong ((((s.release s.cur .core).placeCtx c l (v % 2 ^ 64) x1 sys).acquireOf c .core []).putX d (BitVec.ofNat 64 0))
    t.me.getX d = 0 ∧ (t.ctx c).run = .running ∧ (t.ctx c).pc = BitVec.ofNat 64 v ∧ t.me.pc = BitVec.ofNat 64 s.nextPc ∧ KeepsMemory s t := by
  generalize hp : (s.release s.cur .core).placeCtx c l (v % 2 ^ 64) x1 sys = p
  obtain ⟨hrun, hpc⟩ := placeCtx_same (s.release s.cur .core) c l (v % 2 ^ 64) x1 sys
  have hplace : SameMem s p ∧ p.cur = s.cur := by rw [← hp]; exact ⟨⟨rfl, rfl, rfl, rfl⟩, rfl⟩
  rw [hp] at hrun hpc
  obtain ⟨hreg, hnext, hmem, hothers⟩ := endStatus_effect s (p.acquireOf c .core []) d 0
  have hctx := hothers c (by rw [acquireOf_cur, hplace.2]; exact hc)
  rw [acquireOf_ctx] at hctx
  refine ⟨hreg.trans (ite_self 0), (congrArg Ctx.run hctx).trans hrun, (congrArg Ctx.pc hctx).trans (hpc.trans ?_), hnext,
    (hplace.1.trans ((acquireOf_sameMem p c .core []).trans hmem)).keeps⟩
  apply BitVec.eq_of_toNat_eq
  rw [BitVec.toNat_ofNat, BitVec.toNat_ofNat, Nat.mod_mod]

theorem start_starts {n : Fin 16} {d : XR} {b : XS} {p : Piece} (hf : s.flows) (hmiller : s.cur % 16 = 0) (hn : n ≠ 0)
    (halign : (s.me.getS b).toNat % 16 = 0) (hres : s.resolveMe .load (s.me.getS b).toNat 16 = .ok [p]) (hlen : p.len = 16)
    (hbad : s.badPiece [p] = none) (hbuf : s.me.buf = []) (harmed : s.me.armed = none) (hrec : s.me.recBad = false)
    (hquiet : s.quiet s.cur .core none = true) (hmap : s.remapState s.myCore = 1) (hrun : (s.ctx (16 * s.myCore + n.val)).run = .halted)
    (hasync : (s.ctx (16 * s.myCore + n.val)).asyncs = []) (hpc : goodPc (s.rdN p.key 16 % 2 ^ 64) = true) :
    ∃ t, exec (.start n d b) s = .next t ∧ t.me.getX d = 0 ∧ (t.ctx (16 * s.myCore + n.val)).run = .running ∧
      (t.ctx (16 * s.myCore + n.val)).pc = BitVec.ofNat 64 (s.rdN p.key 16) ∧ t.me.pc = BitVec.ofNat 64 s.nextPc ∧ KeepsMemory s t := by
  obtain ⟨l, x1, sys, hexec⟩ := start_flows (d := d) hf hmiller halign hres hlen hbad hbuf harmed hrec hquiet hmap hrun hasync hpc
  have hc : 16 * s.myCore + n.val ≠ s.cur := by
    have hpos : n.val ≠ 0 := fun h => hn (Fin.ext h)
    have hcore : s.myCore = s.cur / 16 := rfl
    omega
  obtain ⟨hreg, hrun', hpc', hnext, hmem⟩ := started_effect s d l (s.rdN p.key 16) x1 sys hc
  exact ⟨_, hexec, hreg, hrun', hpc', hnext, hmem⟩

/-! ## REAP (R437) -/

theorem drainAll_nil {c : Nat} (h : (s.ctx c).buf = []) : s.drainAll c = some s := by
  unfold State.drainAll
  rw [State.drainTo, h]
  rfl

/-- A reaped context is halted, and nothing else of the module's memory or of whose turn it is changes. -/
theorem reaped_effect (s : State) (c : Nat) : ((s.reaped c).ctx c).run = .halted ∧ SameMem s (s.reaped c) ∧ (s.reaped c).cur = s.cur := by
  unfold State.reaped
  dsimp only
  generalize hu : (State.mapCtx _ c fun x => _) = u
  obtain ⟨l, hl⟩ := haltCtx_eq u c
  rw [hl]
  subst hu
  exact ⟨congrArg Ctx.run (ctx_mapCtx_same _ c Ctx.halted), ⟨rfl, rfl, rfl, rfl⟩, rfl⟩

/-- REAP of a held context whose buffer is empty gives the task it gives up. -/
theorem reap_reaps {n : Fin 16} {d : XR} (hf : s.flows) (hmiller : s.cur % 16 = 0) (hn : n ≠ 0)
    (hrun : (s.ctx (16 * s.myCore + n.val)).run = .held) (hbuf : (s.ctx (16 * s.myCore + n.val)).buf = []) :
    ∃ t, exec (.reap n d) s = .next t ∧ t.me.getX d = (if d = 0 then 0 else (s.ctx (16 * s.myCore + n.val)).taskf) ∧
      (t.ctx (16 * s.myCore + n.val)).run = .halted ∧ t.me.pc = BitVec.ofNat 64 s.nextPc ∧ KeepsMemory s t := by
  let c := 16 * s.myCore + n.val
  let u := (s.reaped c).putX d (s.ctx c).taskf
  obtain ⟨hhalt, hmem, hcur⟩ := reaped_effect s c
  have hexec : exec (.reap n d) s = .next (s.steppedLong u) := by
    change execReap n d s = _
    rw [execReap]
    dsimp only
    rw [needMiller_miller (show ctxNo s.cur = 0 from hmiller), hrun, drainAll_nil hbuf]
    exact retireLong_flows hf u
  have hc : c ≠ (s.reaped c).cur := by
    have hpos : n.val ≠ 0 := fun h => hn (Fin.ext h)
    rw [hcur]
    change 16 * (s.cur / 16) + n.val ≠ s.cur
    omega
  refine ⟨_, hexec, (steppedLong_getX s u d).trans (putX_getX _ d _), ?_, steppedLong_pc s u,
    (hmem.trans ((putX_sameMem _ d _).trans (steppedLong_sameMem s _))).keeps⟩
  have hctx : (s.steppedLong u).ctx c = (s.reaped c).ctx c := 
    (steppedLong_ctx_ne s u c hc).trans (ctx_mapMe_ne _ c (·.setX d (s.ctx c).taskf) hc)
  rw [hctx]
  exact hhalt

/-! ## MIGR (R440, R487) -/

theorem steppedLong_clus (s t : State) : (s.steppedLong t).clus = t.clus := rfl

theorem setTherm_keeps (s : State) (col : Nat) : SameMem s (s.setTherm col) ∧ (s.setTherm col).clus = s.clus := by
  unfold State.setTherm
  split <;> exact ⟨⟨rfl, rfl, rfl, rfl⟩, rfl⟩
theorem clu_of_clus {t : State} (h : t.clus = s.clus) (n : Nat) : t.clu n = s.clu n := by
  unfold State.clu; rw [h]
/-- A request that finds its cluster's sequencer without one. -/
theorem request_first {r : MigReq} (h : (s.clu (clusterOf r.core)).migReqs = []) :
    SameMem s (s.request r) ∧ ((s.request r).clu (clusterOf r.core)).migReqs = [r] := by
  unfold State.request
  dsimp only
  generalize hu : s.mapClu _ _ = u
  obtain ⟨hmem, hclus⟩ := setTherm_keeps u (u.colOf r.core)
  have hreqs : (u.clu (clusterOf r.core)).migReqs = [r] := by
    rw [← hu, clu_mapClu, if_pos rfl, h]; rfl
  have hstart : SameMem s u := by rw [← hu]; exact mapClu_sameMem s _ _
  refine ⟨hstart.trans (hmem.trans ((SameMem.post _ _).trans (inventory_sameMem _))), ?_⟩
  rw [inventory_eq]
  exact (congrArg Cluster.migReqs (clu_of_clus hclus _)).trans hreqs

/-- MIGR of a core that can migrate is accepted. -/
theorem migr_accepted {d : XR} {b : XS} {n pt : Nat} (hf : s.flows) (hsys : s.me.sys = true) (hn : n < 2 ^ 15)
    (hop : (s.me.getS b).toNat % 2 ^ 21 = s.pkg * 2 ^ 15 + n) (hpart : s.partOf (fieldOf s.myCore) = some pt)
    (hpart' : s.partOf (fieldOf n) = some pt) (hmap : s.remapState n = 1) (hmode : (s.core n).mode ≠ .saved)
    (hspare : s.pickSpare (clusterOf n) none ≠ none) (hreqs : (s.clu (clusterOf n)).migReqs = []) :
    ∃ t, exec (.migr d b) s = .next t ∧ (t.clu (clusterOf n)).migReqs = [⟨n, s.cycle, false, true, none, none⟩] ∧ t.me.getX d = 0 ∧
      t.me.pc = BitVec.ofNat 64 s.nextPc ∧ KeepsMemory s t := by
  let r : MigReq := ⟨n, s.cycle, false, true, none, none⟩
  obtain ⟨hmem, hreq⟩ := request_first (s := s) (r := r) hreqs
  obtain ⟨hreg, hpc, hmem', -⟩ := endStatus_effect s (s.request r) d 0
  have hclus : (s.steppedLong ((s.request r).putX d (BitVec.ofNat 64 0))).clus = (s.request r).clus :=
    (steppedLong_clus s _).trans (putX_clus _ d _)
  have hbits : bits (s.me.getS b).toNat 20 0 = s.pkg * 2 ^ 15 + n := by rw [← hop]; unfold bits; omega
  have hcore : bits (s.me.getS b).toNat 20 0 % 2 ^ 15 = n := by rw [hbits]; omega
  have hpkg : bits (s.me.getS b).toNat 20 0 / 2 ^ 15 = s.pkg := by rw [hbits]; omega
  have hsome : (s.pickSpare (clusterOf n) none).isNone = false := by
    rw [Option.isNone_eq_false_iff, Option.isSome_iff_ne_none]; exact hspare
  refine ⟨_, ?_, (congrArg Cluster.migReqs (clu_of_clus hclus _)).trans hreq, hreg.trans (ite_self 0), hpc, (hmem.trans hmem').keeps⟩
  change execMigr d b s = _
  rw [execMigr]
  rw [needSys_sys hsys, hcore, hpkg, hmap, hpart, hpart', hsome, if_neg (by simp), if_neg (by simp), if_neg (by simp),
    if_neg (by simp [hmode]), if_neg Bool.false_ne_true]
  exact endStatus_flows hf _ d 0

/-! ## ERRINJ (R441) -/

/-- ERRINJ of a structure that any register number goes with, where injection is on. -/
theorem errinj_arms {d : XR} {b : XS} {w : Nat} (hf : s.flows) (hsys : s.me.sys = true) (hon : s.mgmt.injection = true)
    (hw : (s.me.getS b).toNat = w) (hlo : 3 ≤ w % 16) (hhi : w % 16 < 8) :
    ∃ t, exec (.errinj d b) s = .next t ∧ t.me.getX d = (if d = 0 then 0 else 1) ∧
      t.me.armed = some ⟨w % 16, w / 2 ^ 15 % 64, w / 2 ^ 5 % 1024, w.testBit 4⟩ ∧ t.me.pc = BitVec.ofNat 64 s.nextPc ∧ KeepsMemory s t := by
  have hstruct : bits w 3 0 = w % 16 := by unfold bits; omega
  have hreg : bits w 20 15 = w / 2 ^ 15 % 64 := by unfold bits; omega
  have hbit : bits w 14 5 = w / 2 ^ 5 % 1024 := by unfold bits; omega
  let a : Armed := ⟨w % 16, w / 2 ^ 15 % 64, w / 2 ^ 5 % 1024, w.testBit 4⟩
  let u := (s.mapMe fun x => { x with armed := some a }).putX d 1
  have hinj : injectable (w % 16) (w / 2 ^ 15 % 64) = true := by
    generalize w % 16 = k at hlo hhi ⊢
    interval_cases k <;> rfl
  have hexec : exec (.errinj d b) s = .next (s.steppedLong u) := by
    change execErrinj d b s = _
    rw [execErrinj]
    dsimp only
    rw [needSys_sys hsys, hw, hstruct, hreg, hbit, hinj, hon]
    exact retireLong_flows hf u
  refine ⟨_, hexec, (steppedLong_getX s u d).trans (putX_getX _ d 1), ?_, steppedLong_pc s u,
    ((mapMe_sameMem s _).trans ((putX_sameMem _ d 1).trans (steppedLong_sameMem s u))).keeps⟩
  rw [steppedLong_me_view (v := Ctx.armed) (by intro _ _; rfl)]
  rw [stepTo_armed]
  change ((s.mapMe fun x => { x with armed := some a }).putX d 1).me.armed = _
  rw [putX_me, setX_armed]
  exact congrArg Ctx.armed (me_mapMe s fun x => { x with armed := some a })

end Sys2Proof.Machine
end
section
/-! SUPPORT. Walks, page requests and the Page Request Interface (R412, R419 to R423). -/
namespace Sys2Proof.Machine

variable {s : State}

/-! ## Walks (R419, R420) -/

/-- A change of a pending walk that leaves its name. -/
theorem walkFind_map {asid g : Nat} {k : Walk → Walk} (hk : ∀ w, (k w).asid = w.asid ∧ (k w).granule = w.granule) (l : List Walk) :
    walkFind (l.map fun w => if w.asid = asid ∧ w.granule = g then k w else w) asid g = (walkFind l asid g).map k := by
  unfold walkFind
  induction l with
  | nil => rfl
  | cons w l ih =>
    rw [List.map_cons]
    by_cases h : w.asid = asid ∧ w.granule = g
    · obtain ⟨ha, hg⟩ := h
      obtain ⟨ka, kg⟩ := hk w
      rw [if_pos ⟨ha, hg⟩, List.find?_cons_of_pos (by simp [ka, kg, ha, hg]), List.find?_cons_of_pos (by simp [ha, hg])]
      rfl
    · have hno : (w.asid == asid && w.granule == g) = false := by simpa using h
      simp only [if_neg h, List.find?_cons, hno]
      exact ih
theorem walkOf_mapWalk {f asid g : Nat} {k : Walk → Walk} (hk : ∀ w, (k w).asid = w.asid ∧ (k w).granule = w.granule) :
    (s.mapWalk f asid g k).walkOf f asid g = (s.walkOf f asid g).map k := by
  unfold State.walkOf State.mapWalk
  dsimp only
  rw [clu_mapClu, if_pos rfl]
  exact walkFind_map hk _
theorem mapWalk_sameMem (s : State) (f asid g : Nat) (k : Walk → Walk) : SameMem s (s.mapWalk f asid g k) := ⟨rfl, rfl, rfl, rfl⟩
theorem walkOf_of_clus {t : State} (h : t.clus = s.clus) (f asid g : Nat) : t.walkOf f asid g = s.walkOf f asid g := by
  unfold State.walkOf; rw [clu_of_clus h]
/-- No walk of a granule is left among those of others. -/
theorem walkFind_others (asid g : Nat) (l : List Walk) : walkFind (l.filter fun k => !(k.asid == asid && k.granule == g)) asid g = none := by
  refine List.find?_eq_none.mpr fun w hw => ?_
  have hother := (List.mem_filter.mp hw).2
  simpa [imp_iff_not_or] using hother

/-- A context that waits for a walk is woken. -/
def State.wakeParked (s : State) (c : Nat) : State := if (s.ctx c).why = some .parked then s.wake c else s
/-- A context that a walk has found waiting meets its answer. -/
def State.answerWalk (s : State) (answer : Option WalkFail) (c : Nat) : State :=
  (s.mapCtx c fun x => { x with walkFail := answer }).wakeParked c

/-- What a wake leaves of the module: all but contexts. -/
structure WakesOnly (s t : State) : Prop where
  mem : SameMem s t
  clus : t.clus = s.clus
  links : t.links = s.links

theorem WakesOnly.refl (s : State) : WakesOnly s s := ⟨.refl s, rfl, rfl⟩
theorem WakesOnly.trans {s t u : State} (h : WakesOnly s t) (k : WakesOnly t u) : WakesOnly s u :=
  ⟨h.mem.trans k.mem, k.clus.trans h.clus, k.links.trans h.links⟩
theorem WakesOnly.foldl {α : Type} {f : State → α → State} (hf : ∀ s x, WakesOnly s (f s x)) (l : List α) (s : State) :
    WakesOnly s (l.foldl f s) := List.foldlRecOn l f (refl s) fun t ht x _ => ht.trans (hf t x)
theorem WakesOnly.wakeParked (s : State) (c : Nat) : WakesOnly s (s.wakeParked c) := by
  unfold State.wakeParked
  split
  · exact ⟨⟨rfl, rfl, rfl, rfl⟩, rfl, rfl⟩
  · exact .refl s
theorem WakesOnly.answerWalk (s : State) (a : Option WalkFail) (c : Nat) : WakesOnly s (s.answerWalk a c) :=
  WakesOnly.trans (t := s.mapCtx c fun x => { x with walkFail := a }) ⟨⟨rfl, rfl, rfl, rfl⟩, rfl, rfl⟩ (.wakeParked _ c)

/-- The walk of w is closed in its cluster, whose list of waiting misses is taken. -/
def State.walkGone (s : State) (w : Walk) (answer : Option WalkFail) : State :=
  s.mapClu (walkCluster w.field w.granule) fun c =>
    { c with walks := c.walks.filter fun k => !(k.asid == w.asid && k.granule == w.granule), walkWait := []
             fails := c.fails ++ (w.waiters.filter (unitBase ≤ ·)).flatMap fun u => answer.toList.map (u, ·) }

/-- The walk of w is closed: its waiters meet the answer, and the contexts in `more` miss again. -/
def State.walkEnded (s : State) (w : Walk) (answer : Option WalkFail) (more : List Nat) : State :=
  more.foldl State.wakeParked ((w.waiters.filter (· < unitBase)).foldl (fun t c => t.answerWalk answer c) (s.walkGone w answer))
theorem closeWalk_eq (s : State) (w : Walk) (fail : Option Nat) : ∃ b more,
    s.closeWalk w fail = s.walkEnded w (fail.map fun e => ⟨w.granule, e, s.asidOk w.asid w.field && b⟩) more ∧
    ∀ r, s.walk w.asid (w.granule * 2 ^ 16) = .fault r → b = false := by
  refine ⟨_, _, rfl, fun r h => ?_⟩
  rw [h]

theorem closeWalk_keeps (s : State) (w : Walk) (fail : Option Nat) : SameMem s (s.closeWalk w fail) ∧ (s.closeWalk w fail).links = s.links ∧
    (s.closeWalk w fail).walkOf w.field w.asid w.granule = none := by
  obtain ⟨b, more, h, -⟩ := closeWalk_eq s w fail
  rw [h]
  generalize (fail.map fun e => (⟨w.granule, e, s.asidOk w.asid w.field && b⟩ : WalkFail)) = answer
  have hwake : WakesOnly (s.walkGone w answer) (s.walkEnded w answer more) :=
    (WakesOnly.foldl (fun s c => .answerWalk s answer c) _ _).trans (.foldl WakesOnly.wakeParked _ _)
  refine ⟨(mapClu_sameMem s _ _).trans hwake.mem, hwake.links, (walkOf_of_clus hwake.clus _ _ _).trans ?_⟩
  unfold State.walkOf State.walkGone
  rw [clu_mapClu, if_pos rfl]
  exact walkFind_others _ _ _

/-- The one context that waits for a walk meets the answer, and is back in the rotation. -/
theorem closeWalk_waiter {w : Walk} {c e : Nat} (hc : c < unitBase) (hwait : w.waiters = [c]) (hwhy : (s.ctx c).why = some .parked)
    {r : Option Nat} (hfault : s.walk w.asid (w.granule * 2 ^ 16) = .fault r) :
    ((s.closeWalk w (some e)).ctx c).walkFail = some ⟨w.granule, e, false⟩ ∧ ((s.closeWalk w (some e)).ctx c).why = none := by
  obtain ⟨b, more, h, hb⟩ := closeWalk_eq s w (some e)
  have hanswer : ((some e).map fun e => (⟨w.granule, e, s.asidOk w.asid w.field && b⟩ : WalkFail)) = some ⟨w.granule, e, false⟩ := by
    rw [hb r hfault, Bool.and_false]; rfl
  have hone : w.waiters.filter (· < unitBase) = [c] := by rw [hwait]; simp [hc]
  rw [h, hanswer, State.walkEnded, hone]
  let u := ((s.walkGone w (some ⟨w.granule, e, false⟩)).mapCtx c fun x => { x with walkFail := some ⟨w.granule, e, false⟩ }).wake c
  have hu : (s.walkGone w (some ⟨w.granule, e, false⟩)).answerWalk (some ⟨w.granule, e, false⟩) c = u := by
    refine if_pos ?_
    rw [ctx_mapCtx_same]
    exact hwhy
  have huctx : (u.ctx c).walkFail = some ⟨w.granule, e, false⟩ ∧ (u.ctx c).why = none := by
    change (State.ctx (State.wake _ c) c).walkFail = _ ∧ (State.ctx (State.wake _ c) c).why = _
    rw [State.wake, ctx_mapCtx_same, ctx_mapCtx_same]
    exact ⟨rfl, rfl⟩
  rw [List.foldl_cons, List.foldl_nil, hu]
  refine List.foldlRecOn (motive := fun t : State => (t.ctx c).walkFail = some ⟨w.granule, e, false⟩ ∧ (t.ctx c).why = none) more
    State.wakeParked huctx fun t ht d _ => ?_
  obtain ⟨hfail, hnone⟩ := ht
  unfold State.wakeParked
  split
  · refine ⟨(wake_view (v := Ctx.walkFail) (by intro _ _ _; rfl) t d c).trans hfail, ?_⟩
    rw [State.wake, ctx_mapCtx]
    split
    · rfl
    · exact hnone
  · exact ⟨hfail, hnone⟩

/-- A miss that finds no walk of its granule, and room for one, opens it. -/
theorem translationRequest_opens {c va : Nat} {acc : Acc} (hfail : (s.ctx c).walkFail = none)
    (hmiss : s.askSlice (s.asker c) none va acc = .miss)
    (hnew : walkFind (s.clu (sliceOf ((s.asker c).core / 1024) va)).walks (s.asker c).asid (va / 2 ^ 16) = none)
    (hroom : (s.clu (sliceOf ((s.asker c).core / 1024) va)).walks.length < 256) :
    ∃ t w, exec (.translationRequest c va acc) s = .next t ∧ w.granule = va / 2 ^ 16 ∧
      (t.clu (sliceOf ((s.asker c).core / 1024) va)).walks = (s.clu (sliceOf ((s.asker c).core / 1024) va)).walks ++ [w] ∧ KeepsMemory s t := by
  let q := s.asker c
  let w : Walk := { asid := q.asid, granule := va / 2 ^ 16, field := fieldOf q.core, waiters := [c], phase := .device, r := acc == .load,
                    w := acc == .store, x := acc == .fetch, rw := acc == .atomic || acc == .cell, priv := q.sys, link := 0, asked := 0,
                    further := false, stale := false }
  let u := s.mapClu (sliceOf (fieldOf q.core) va) fun c => { c with walks := c.walks ++ [w] }
  have hopen : s.openWalk q c va acc = u.post (.walkComplete (fieldOf q.core) q.asid (va / 2 ^ 16)) := by
    have hnone : walkFind (s.clu (sliceOf (fieldOf q.core) va)).walks q.asid (va / 2 ^ 16) = none := hnew
    unfold State.openWalk
    dsimp only
    rw [hnone]
    exact if_pos hroom
  refine ⟨u.post (.walkComplete (fieldOf q.core) q.asid (va / 2 ^ 16)), w, ?_, rfl, ?_, .of_eq rfl rfl rfl⟩
  · change execTranslationRequest c va acc s = _
    rw [execTranslationRequest, hfail, hmiss, ← hopen]
  · have hclu : u.clu (sliceOf (fieldOf q.core) va) = { s.clu (sliceOf (fieldOf q.core) va) with
        walks := (s.clu (sliceOf (fieldOf q.core) va)).walks ++ [w] } := (clu_mapClu s _ _ _).trans (if_pos rfl)
    exact congrArg Cluster.walks hclu

/-- A walk of the device that finds no valid entry. -/
theorem walkComplete_faults {f asid g c : Nat} {w : Walk} (hw : s.walkOf f asid g = some w) (hphase : w.phase = .device) (ha : w.asid = asid)
    (hg : w.granule = g) (hfield : w.field = f) (hok : s.asidOk asid f = true) (hopen : s.walkShut asid (g * 2 ^ 16) = false)
    (hc : c < 2 ^ 19) (hwhy : (s.ctx c).why = some .parked) (hwait : w.waiters = [c]) (hfault : s.walk asid (g * 2 ^ 16) = .fault none) :
    ∃ t, exec (.walkComplete f asid g) s = .next t ∧ (t.ctx c).walkFail = some ⟨g, 0x15, false⟩ ∧ (t.ctx c).why = none ∧
      t.walkOf f asid g = none ∧ KeepsMemory s t := by
  subst ha hg hfield
  obtain ⟨hmem, -, hgone⟩ := closeWalk_keeps s w (some 0x15)
  obtain ⟨hfail, hnone⟩ := closeWalk_waiter (e := 0x15) (show c < unitBase by unfold unitBase; omega) hwait hwhy hfault
  refine ⟨s.closeWalk w (some 0x15), ?_, hfail, hnone, hgone, hmem.keeps⟩
  change execWalkComplete w.field w.asid w.granule s = _
  rw [execWalkComplete, hw]
  dsimp only
  rw [if_neg (not_not_intro hphase), hopen, hok, hfault]
  rfl

/-- The pins of an entry end after 4,096 cycles. -/
theorem sliceEntryPinExpiry_unpins {cl : Nat} {e : TEntry} (htlb : (s.clu cl).tlb = [e]) (hpin : e.pin ≠ []) (hold : e.pinnedAt + 4096 ≤ s.cycle) :
    ∃ t, exec (.sliceEntryPinExpiry cl e.asid e.va) s = .next t ∧ (t.clu cl).tlb = [{ e with pin := [] }] ∧ KeepsMemory s t := by
  have hfree : s.pinned e = false := by
    unfold State.pinned
    rw [decide_eq_false (by omega), Bool.false_and]
  have hhit : (e.asid == e.asid && e.va == e.va && !e.pin.isEmpty) = true := by simpa using hpin
  let u := s.mapClu cl fun c => { c with tlb := c.tlb.map fun d => if d.asid == e.asid && d.va == e.va && !d.pin.isEmpty then { d with pin := [] } else d }
  refine ⟨u, ?_, ?_, .of_eq rfl rfl rfl⟩
  · change execSliceEntryPinExpiry cl e.asid e.va s = _
    rw [execSliceEntryPinExpiry, htlb]
    dsimp only
    rw [List.any_cons, List.any_nil, hfree, Bool.and_false]
    rfl
  · have hclu : u.clu cl = _ := (clu_mapClu s cl cl _).trans (if_pos rfl)
    rw [hclu]
    change (s.clu cl).tlb.map _ = _
    rw [htlb, List.map_cons, List.map_nil, if_pos hhit]

/-! ## Page requests (R421 to R423) -/

/-- A walk that needs a right which the host does not give asks for its page. -/
theorem atsTranslationCompletion_asks {f asid g size l : Nat} {k : Walk} (hk : s.walkOf f asid g = some k) (ha : k.asid = asid) (hg : k.granule = g)
    (hfield : k.field = f) (hstale : k.stale = false) (hphase : k.phase = .ats) (hleaf : s.walk asid (g * 2 ^ 16) = .leaf size l)
    (hhost : l.testBit 6 = true) (hmode : s.hostMode 2 = false) (hstop : (s.link k.link).stopped = false) :
    ∃ t v, exec (.atsTranslationCompletion f asid g 0 true false false false) s = .next t ∧ t.walkOf f asid g = some v ∧ v.phase = .pageWait ∧
      Instr.pageRequestSend k.link ∈ t.agenda ∧ KeepsMemory s t := by
  subst ha hg hfield
  let u := s.mapWalk k.field k.asid k.granule fun w => { w with asked := w.need }
  let v := u.mapWalk k.field k.asid k.granule fun w => { w with phase := .pageWait }
  let t := (v.mapLink k.link fun l => { l with groups := l.groups ++ [(k.field, k.asid, k.granule)] }).post (.pageRequestSend k.link)
  have hask : s.askPage k = t := by
    have hmode' : u.hostMode 2 = false := hmode
    have hstop' : (u.link k.link).stopped = false := hstop
    change (if u.hostMode 2 then _ else if (u.link k.link).stopped then _ else t) = t
    rw [hmode', hstop']
    rfl
  have hwalk : t.walkOf k.field k.asid k.granule = some { { k with asked := k.need } with phase := .pageWait } := by
    have hv : v.walkOf k.field k.asid k.granule = _ := walkOf_mapWalk (k := fun w : Walk => { w with phase := .pageWait }) (by intro _; exact ⟨rfl, rfl⟩)
    have hu : u.walkOf k.field k.asid k.granule = _ := walkOf_mapWalk (k := fun w : Walk => { w with asked := w.need }) (by intro _; exact ⟨rfl, rfl⟩)
    rw [walkOf_of_clus (s := v) (t := t) rfl, hv, hu, hk]
    rfl
  refine ⟨t, _, ?_, hwalk, rfl, List.mem_append_right _ (List.mem_singleton_self _), .of_eq rfl rfl rfl⟩
  change execAtsTranslationCompletion k.field k.asid k.granule 0 true false false false s = _
  rw [execAtsTranslationCompletion, hk]
  dsimp only
  rw [if_neg (not_not_intro hphase), hstale, hleaf]
  dsimp only
  rw [hhost, if_neg Bool.false_ne_true, if_neg (by simp), if_pos (by simp), hask]

/-- The oldest group that waits goes, where its pool has a credit. -/
theorem pageRequestSend_sends {f asid g l : Nat} {k : Walk} {rest : List (Nat × Nat × Nat)} (hk : s.walkOf f asid g = some k)
    (hgroups : (s.link l).groups = (f, asid, g) :: rest) (hon : (s.link l).priOn = true) (halloc : (s.pagesOut l).length < (s.link l).alloc)
    (hmax : (s.pagesOut l).length < 512) (hcap : (s.pagesOut l).length < s.mgmt.priCap) :
    ∃ t v, exec (.pageRequestSend l) s = .next t ∧ t.walkOf f asid g = some v ∧ v.phase = .pageSent ∧ KeepsMemory s t := by
  let u := s.mapLink l fun k => { k with groups := rest }
  let t := u.mapWalk f asid g fun w => { w with phase := .pageSent, asked := w.need }
  have hwalk : t.walkOf f asid g = some { k with phase := .pageSent, asked := k.need } := by
    have ht : t.walkOf f asid g = _ := walkOf_mapWalk (k := fun w : Walk => { w with phase := .pageSent, asked := w.need }) (by intro _; exact ⟨rfl, rfl⟩)
    rw [ht, walkOf_of_clus (s := s) (t := u) rfl, hk]
    rfl
  refine ⟨t.post (.pageRequestSend l), _, ?_, hwalk, rfl, .of_eq rfl rfl rfl⟩
  change execPageRequestSend l s = _
  rw [execPageRequestSend, hgroups]
  dsimp only
  rw [hon, if_pos]
  rw [if_pos rfl]
  exact lt_min halloc (lt_min hmax hcap)

/-- The host has answered with Success: the Translation Request is sent again. -/
theorem pageRequestResponse_success {f asid g : Nat} {k : Walk} (hk : s.walkOf f asid g = some k) (hphase : k.phase = .pageSent) :
    ∃ t v, exec (.pageRequestResponse k.link f asid g 0) s = .next t ∧ t.walkOf f asid g = some v ∧ v.phase = .ats ∧ KeepsMemory s t := by
  let t := s.mapWalk f asid g fun w => { w with phase := .ats }
  have hwalk : t.walkOf f asid g = some { k with phase := .ats } := by
    have ht : t.walkOf f asid g = _ := walkOf_mapWalk (k := fun w : Walk => { w with phase := .ats }) (by intro _; exact ⟨rfl, rfl⟩)
    rw [ht, hk]
    rfl
  refine ⟨t.post (.pageRequestSend k.link), _, ?_, hwalk, rfl, .of_eq rfl rfl rfl⟩
  have hanswer : s.pageAnswer f asid g (0 == 0) = t := by
    unfold State.pageAnswer
    rw [hk]
    rfl
  change execPageRequestResponse k.link f asid g 0 s = _
  rw [execPageRequestResponse, hk]
  dsimp only
  rw [hanswer, hphase, if_neg (by simp), if_pos (by decide)]

theorem priEnable_enables (s : State) (l alloc : Nat) :
    ∃ t, exec (.priEnable l alloc) s = .next t ∧ (t.link l).priOn = true ∧ (t.link l).alloc = alloc ∧ KeepsMemory s t := by
  let u := s.mapLink l fun k => { k with priOn := true, stopped := false, alloc := alloc }
  have hlink : u.link l = { s.link l with priOn := true, stopped := false, alloc := alloc } :=
    tget_tset_same s.links l { s.link l with priOn := true, stopped := false, alloc := alloc } HostLink.reset
  exact ⟨u.post (.pageRequestSend l), rfl, congrArg HostLink.priOn hlink, congrArg HostLink.alloc hlink, .of_eq rfl rfl rfl⟩

theorem priStop_stops (s : State) (l : Nat) :
    ∃ t, exec (.priStop l) s = .next t ∧ (t.link l).priOn = false ∧ (t.link l).groups = [] ∧ KeepsMemory s t := by
  let u := s.mapLink l fun k => { k with priOn := false, stopped := true, groups := [] }
  have hlink : u.link l = { s.link l with priOn := false, stopped := true, groups := [] } :=
    tget_tset_same s.links l { s.link l with priOn := false, stopped := true, groups := [] } HostLink.reset
  have hlinks : (s.pagesFail l).links = u.links := foldl_view (v := State.links) (fun t w => (closeWalk_keeps t w (some 0x15)).2.1) _ u
  have hmem : SameMem u (s.pagesFail l) := .foldl (fun t w => (closeWalk_keeps t w (some 0x15)).1) _ u
  have ht : (s.pagesFail l).link l = u.link l := congrArg (tget · l HostLink.reset) hlinks
  refine ⟨s.pagesFail l, rfl, ?_, ?_, (SameMem.trans ⟨rfl, rfl, rfl, rfl⟩ hmem).keeps⟩
  · rw [ht, hlink]
  · rw [ht, hlink]

end Sys2Proof.Machine
end
section
/-! SUPPORT. Invalidation where no L1 cache holds a dirty line (R424, R425). -/
namespace Sys2Proof.Machine

variable {s : State}

/-- No data line of an L1 cache is dirty. -/
def State.noDirty (s : State) : Prop := ∀ p ∈ s.cores, ∀ d ∈ p.2.l1d, d.dirty = false

theorem cellsFresh_keeps (s : State) : KeepsMemory s s.cellsFresh ∧ s.cellsFresh.clus = s.clus := by
  unfold State.cellsFresh
  dsimp only
  split
  · exact ⟨.refl s, rfl⟩
  · exact ⟨.of_eq rfl rfl rfl, rfl⟩

/-- The part of an invalidation that follows the write-back of dirty lines. -/
def State.invalidated (s : State) (who : Nat → Bool) (va len : Nat) : State :=
  { s with
    ctxs := s.ctxs.map fun (p : Nat × Ctx) => (p.1, p.2.ungrant who va len)
    clus := s.clus.map fun (p : Nat × Cluster) =>
      (p.1, { p.2 with tlb := p.2.tlb.filter (fun e => !(who e.asid && overlap e.va (2 ^ e.size) va len)),
                       walks := p.2.walks.map fun w =>
                         if who w.asid && overlap (w.granule * 65536) 65536 va len then { w with stale := true } else w })
    cores := s.cores.map fun (p : Nat × Core) =>
      (p.1, { p.2 with l1d := p.2.l1d.filter (fun d => !(who d.asid && overlap d.va 64 va len)),
                       l1i := p.2.l1i.filter fun d => !(who d.asid && overlap d.va 64 va len) }) }
theorem invalidated_keeps (s : State) (who : Nat → Bool) (va len : Nat) : KeepsMemory s (s.invalidated who va len) := .of_eq rfl rfl rfl
/-- With nothing to write back, an invalidation drops what it names. -/
theorem invalidate_of_noDirty (h : s.noDirty) (who : Nat → Bool) (va len : Nat) :
    s.invalidate who va len = s.cellsFresh.invalidated who va len := by
  have hnone : (s.cores.flatMap fun p => (p.2.l1d.filter fun d => d.dirty && who d.asid && overlap d.va 64 va len).map (p.1, ·)) = [] := by
    refine List.flatMap_eq_nil_iff.mpr fun p hp => ?_
    have hclean : (p.2.l1d.filter fun d => d.dirty && who d.asid && overlap d.va 64 va len) = [] :=
      List.filter_eq_nil_iff.mpr fun d hd => by simp [h p hp d hd]
    rw [hclean, List.map_nil]
  unfold State.invalidate
  dsimp only
  rw [hnone]
  rfl
theorem invalidate_keeps (h : s.noDirty) (who : Nat → Bool) (va len : Nat) : KeepsMemory s (s.invalidate who va len) := by
  rw [invalidate_of_noDirty h]
  exact (cellsFresh_keeps s).1.trans (invalidated_keeps _ who va len)
/-- No slice keeps an entry of the range. -/
theorem invalidate_tlb (h : s.noDirty) (who : Nat → Bool) (va len : Nat) :
    ∀ p ∈ (s.invalidate who va len).clus, ∀ e ∈ p.2.tlb, ¬ (who e.asid = true ∧ e.va < va + len ∧ va < e.va + 2 ^ e.size) := by
  rw [invalidate_of_noDirty h]
  intro p hp e he
  obtain ⟨q, -, rfl⟩ := List.mem_map.mp hp
  have hkept := (List.mem_filter.mp he).2
  rintro ⟨hwho, hlo, hhi⟩
  simp [hwho, overlap, hlo, hhi] at hkept

/-- A pending completion, noted by the management controller, of what an invalidation has dropped. -/
def State.invalPending (s : State) (tag asid : Option Nat) (va len : Nat) : State :=
  (s.mapMgmt fun m => { m with invals := m.invals ++ [(tag, asid, va, len)] }).post (.invalidationComplete asid va len)
theorem invalPending_keeps (s : State) (tag asid : Option Nat) (va len : Nat) : KeepsMemory s (s.invalPending tag asid va len) :=
  .of_eq rfl rfl rfl
theorem invalPending_agenda (s : State) (tag asid : Option Nat) (va len : Nat) :
    Instr.invalidationComplete asid va len ∈ (s.invalPending tag asid va len).agenda :=
  List.mem_append_right _ (List.mem_singleton_self _)
theorem invalPending_clus (s : State) (tag asid : Option Nat) (va len : Nat) : (s.invalPending tag asid va len).clus = s.clus := rfl

theorem atsInvalidationRequest_begins (h : s.noDirty) (l pasid va len : Nat) :
    ∃ t, exec (.atsInvalidationRequest l pasid va len) s = .next t ∧ Instr.invalidationComplete none va len ∈ t.agenda ∧ KeepsMemory s t := by
  let who (a : Nat) : Bool :=
    (s.asidEntry a).testBit 0 && (s.asidEntry a).testBit 2 && bits (s.asidEntry a) 1 1 == l && bits (s.asidEntry a) 27 8 == pasid
  exact ⟨(s.invalidate who va len).invalPending none none va len, rfl, invalPending_agenda _ _ _ _ _,
    (invalidate_keeps h who va len).trans (invalPending_keeps _ _ _ _ _)⟩

theorem inval_begins (h : s.noDirty) (tag asid va len : Nat) (hruns : s.fwRuns = true) :
    ∃ t, exec (.inval tag (some asid) va len) s = .next t ∧ Instr.invalidationComplete (some asid) va len ∈ t.agenda ∧ KeepsMemory s t ∧
      ∀ p, p ∈ t.clus → ∀ e, e ∈ p.2.tlb → ¬ (e.asid = asid ∧ e.va < va + len ∧ va < e.va + 2 ^ e.size) := by
  let who (a : Nat) : Bool := asid == a
  refine ⟨(s.invalidate who va len).invalPending (some tag) (some asid) va len, ?_, invalPending_agenda _ _ _ _ _,
    (invalidate_keeps h who va len).trans (invalPending_keeps _ _ _ _ _), fun p hp e he hin => ?_⟩
  · change execInval tag (some asid) va len s = _
    rw [execInval, inService_runs hruns]
    rfl
  · rw [invalPending_clus] at hp
    obtain ⟨hasid, hrange⟩ := hin
    exact invalidate_tlb h who va len p hp e he ⟨beq_iff_eq.mpr hasid.symm, hrange⟩

/-- The completion of an invalidation that a host has asked for, once no access uses an old translation. -/
theorem invalidationComplete_ends {asid va len : Nat} (hinvals : s.mgmt.invals = [(none, some asid, va, len)])
    (hold : s.oldAccess (some asid) va len = false) :
    ∃ t, exec (.invalidationComplete (some asid) va len) s = .next t ∧ t.mgmt.invals = [] ∧ KeepsMemory s t := by
  let e : Option Nat × Option Nat × Nat × Nat := (none, some asid, va, len)
  refine ⟨s.mapMgmt fun m => { m with invals := m.invals.erase e }, ?_, ?_, (SameMem.mapMgmt s _).keeps⟩
  · have hfind : s.mgmt.invals.find? (fun e => e.2 == (some asid, va, len)) = some e := by
      rw [hinvals, List.find?_cons]
      have hsame : ((some asid, va, len) == ((some asid, va, len) : Option Nat × Nat × Nat)) = true := beq_self_eq_true _
      dsimp only
      rw [hsame]
    change execInvalidationComplete (some asid) va len s = _
    rw [execInvalidationComplete, hfind]
    dsimp only
    rw [hold]
    rfl
  · change s.mgmt.invals.erase e = []
    rw [hinvals]
    exact List.erase_cons_head ..

end Sys2Proof.Machine
end
section
/-! SUPPORT. CTXSV of another context that is halted (R439). -/
namespace Sys2Proof.Machine

variable {s : State}

/-! ## Stores of several words -/

/-- The bytes of t are those of s after writes from address a on, n bytes far. -/
def WritesIn (a n : Nat) (s t : State) : Prop :=
  ∃ l : List (Nat × Byte), t.mem = (s.wrBytes l).mem ∧ ∀ p ∈ l, a ≤ p.1 ∧ p.1 < a + n

theorem WritesIn.of_mem {t : State} {a n : Nat} (h : t.mem = s.mem) : WritesIn a n s t := ⟨[], h, fun _ hp => nomatch hp⟩
theorem WritesIn.trans {t u : State} {a n : Nat} (h : WritesIn a n s t) (k : WritesIn a n t u) : WritesIn a n s u := by
  obtain ⟨l, hl, hin⟩ := h
  obtain ⟨m, hm, hin'⟩ := k
  refine ⟨l ++ m, hm.trans ?_, fun p hp => (List.mem_append.mp hp).elim (hin p) (hin' p)⟩
  unfold State.wrBytes at hl ⊢
  rw [List.foldl_append]
  exact congrArg (fun x => List.foldl (fun m (p : Nat × Byte) => mput m p.1 p.2) x m) hl
theorem WritesIn.foldl {α : Type} {f : State → α → State} {a n : Nat} (hf : ∀ s x, WritesIn a n s (f s x)) (l : List α) (s : State) :
    WritesIn a n s (l.foldl f s) := List.foldlRecOn l f (.of_mem rfl) fun t ht x _ => ht.trans (hf t x)
/-- Bytes outside the range are as they were. -/
theorem WritesIn.byte {t : State} {a n x : Nat} (h : WritesIn a n s t) (hform : s.form) (hx : x < a ∨ a + n ≤ x) : t.byte x = s.byte x := by
  obtain ⟨l, hl, hin⟩ := h
  unfold State.byte
  rw [hl]
  exact mget_writes_ne l s.mem x hform.1 fun p hp => by have := hin p hp; omega

/-- A word performed at its place writes no byte but those it is given. -/
theorem performWord_writesIn {bs : List (Nat × Byte)} {a n : Nat} (h : ∀ p ∈ bs, a ≤ p.1 ∧ p.1 < a + n) (s : State) (c : Nat)
    (rel : Option Scope) (w : Nat) : WritesIn a n s (s.performWord c bs rel false w) := by
  have hin : ∀ p ∈ bs.filter (fun b => wordOf b.1 == w), a ≤ p.1 ∧ p.1 < a + n := fun p hp => h p (List.mem_of_mem_filter hp)
  have hstart : ∀ b : Bool, WritesIn a n s ((if b then ({ s with poison := kdel s.poison w } : State) else s).wrBytes
      (bs.filter fun b => wordOf b.1 == w)) := fun b => ⟨_, by cases b <;> rfl, hin⟩
  have hline : ∀ t : State, SameMem t (if isSpad w then t else t.l1Write (coreOf c) w) := fun t => by
    split
    · exact .refl t
    · exact l1Write_sameMem t _ w
  have hflit : ∀ (t : State) (a : Nat) (l : List Byte), SameMem t (t.handFlit c a l) := fun t a l => by
    unfold State.handFlit
    split
    · exact ⟨rfl, rfl, rfl, rfl⟩
    · exact .refl t
  unfold State.performWord
  dsimp only
  exact (hstart _).trans (.of_mem ((NotesOnly.tagWrite _ c rel (isRemote w) w).mem.trans ((hline _).trans (hflit _ _ _))).1)

theorem storeBytes_mem {ks : List Nat} {v : Nat} {p : Nat × Byte} (h : p ∈ storeBytes ks v) : p.1 ∈ ks := by
  obtain ⟨i, hi, rfl⟩ := List.mem_map.mp h
  have hlt : i < ks.length := List.mem_range.mp hi
  dsimp only
  rw [List.getD_eq_getElem _ _ hlt]
  exact List.getElem_mem hlt
/-- The words of a range of whole words. -/
theorem keyWords_range {a m w : Nat} (ha : a % 8 = 0) (hw : w ∈ keyWords ((List.range (8 * m)).map (a + ·))) :
    ∃ i, i < m ∧ w = a + 8 * i := by
  have hmem : ∀ (ks l : List Nat), w ∈ ks.foldl (fun l a => kput l (wordOf a)) l ↔ w ∈ ks.map wordOf ∨ w ∈ l := fun ks l => by
    rw [← mem_kputs, List.foldl_map]
  obtain hw | hw := (hmem _ []).mp hw
  · rw [List.map_map] at hw
    obtain ⟨i, hi, rfl⟩ := List.mem_map.mp hw
    have hlt : i < 8 * m := List.mem_range.mp hi
    refine ⟨i / 8, by omega, ?_⟩
    change (a + i) / 8 * 8 = _
    omega
  · exact nomatch hw

/-! ## CTXSV (R439) -/

/-- The state in which the image of context c stands at its block. -/
def State.imageStored (s : State) (c : Nat) (ks : List Nat) (v : Nat) : State :=
  let t := (keyWords ks).foldl (fun (t : State) w => t.performWord s.cur (storeBytes ks v) s.me.rel false w) s
  let t := (badWords (s.ctx c)).foldl (fun (t : State) i => t.setBad (ks.getD (8 * i) 0)) t
  t.mapCtx c fun y => { y with armed := none }

theorem imageStored_writesIn {ks : List Nat} {a n : Nat} (h : ∀ k ∈ ks, a ≤ k ∧ k < a + n) (s : State) (c v : Nat) :
    WritesIn a n s (s.imageStored c ks v) := by
  have hwords := WritesIn.foldl (fun t w => performWord_writesIn (bs := storeBytes ks v) (fun p hp => h p.1 (storeBytes_mem hp)) t s.cur s.me.rel w)
    (keyWords ks) s
  have hbad := WritesIn.foldl (a := a) (n := n) (f := fun (t : State) i => t.setBad (ks.getD (8 * i) 0)) (fun _ _ => .of_mem rfl)
    (badWords (s.ctx c))
  exact hwords.trans ((hbad _).trans (.of_mem rfl))

/-- CTXSV of another context, halted and with nothing buffered: its image stands at the block, and nothing else of memory changes. -/
theorem ctxsv_saves {n : Fin 16} {d : XR} {b : XS} {ps : List Piece} {key : Nat} (hform : s.form) (hf : s.flows) (hsys : s.me.sys = true)
    (halign : (s.me.getS b).toNat % 64 = 0) (hbuf : s.me.buf = []) (hkeys : pieceKeys ps = (List.range 1024).map (key + ·))
    (hkey : key % 8 = 0) (hother : 16 * s.myCore + n.val ≠ s.cur) (hrun : (s.ctx (16 * s.myCore + n.val)).run = .halted)
    (hblock : s.blockMe .store (s.me.getS b).toNat 1024 = .ok ps) (hempty : (s.ctx (16 * s.myCore + n.val)).buf = [])
    (hcan : ∀ i, i < 128 → s.canPerform s.cur s.me.asid.toNat (key + 8 * i) = true) :
    ∃ t, exec (.ctxsv n d b) s = .next t ∧ t.me.getX d = 0 ∧ (∀ a, a < key ∨ key + 1024 ≤ a → t.byte a = s.byte a) ∧
      t.me.pc = BitVec.ofNat 64 s.nextPc := by
  let c := 16 * s.myCore + n.val
  let v := s.image c (s.ctx c).pc.toNat (s.runCode c) (s.ctx c)
  let u := (s.imageStored c (pieceKeys ps) v).putX d 0
  have hall : (keyWords (pieceKeys ps)).all (s.canPerform s.cur s.me.asid.toNat) = true := List.all_eq_true.mpr fun w hw => by
    rw [hkeys] at hw
    obtain ⟨i, hi, rfl⟩ := keyWords_range (m := 128) hkey hw
    exact hcan i hi
  have hsavable : s.savable c = true := by unfold State.savable; rw [hrun]; simp
  have hself : (c == s.cur) = false := beq_false_of_ne hother
  have hexec : exec (.ctxsv n d b) s = .next (s.steppedLong u) := by
    change execCtxsv n d b s = _
    rw [execCtxsv]
    dsimp only
    rw [needSys_sys hsys, State.needAligned, if_pos halign, hblock, onRes_ok, drained_nil s hbuf, hsavable, drainAll_nil hempty]
    dsimp only
    rw [hself, Bool.false_and, Bool.false_and, if_neg Bool.false_ne_true]
    rw [if_neg Bool.false_ne_true, if_neg Bool.false_ne_true, hall]
    exact retireLong_flows hf u
  have hin : ∀ k ∈ pieceKeys ps, key ≤ k ∧ k < key + 1024 := fun k hk => by
    rw [hkeys] at hk
    obtain ⟨i, hi, rfl⟩ := List.mem_map.mp hk
    have := List.mem_range.mp hi
    omega
  have hwrites : WritesIn key 1024 s (s.steppedLong u) :=
    (imageStored_writesIn hin s c v).trans (.of_mem ((putX_sameMem _ d 0).trans (steppedLong_sameMem s u)).1)
  exact ⟨_, hexec, (steppedLong_getX s u d).trans ((putX_getX _ d 0).trans (ite_self 0)), fun a ha => hwrites.byte hform ha, steppedLong_pc s u⟩

end Sys2Proof.Machine
end
section
/-! SUPPORT. Stopping a core's contexts and loading their images leaves memory and the modes of the cores (R92, R439, R442). -/
namespace Sys2Proof.Machine

variable {s : State}

/-- From s to t neither memory has changed, nor whose turn it is, nor the mode of any core. -/
structure KeepsModes (s t : State) : Prop where
  mem : SameMem s t
  cur : t.cur = s.cur
  mode : ∀ m, (t.core m).mode = (s.core m).mode

namespace KeepsModes

theorem of_cores {t : State} (hmem : SameMem s t) (hcur : t.cur = s.cur) (hcores : t.cores = s.cores) : KeepsModes s t :=
  ⟨hmem, hcur, fun m => congrArg Core.mode (core_of_cores hcores m)⟩
theorem refl (s : State) : KeepsModes s s := of_cores (.refl s) rfl rfl
theorem trans {t u : State} (h : KeepsModes s t) (k : KeepsModes t u) : KeepsModes s u :=
  ⟨h.mem.trans k.mem, k.cur.trans h.cur, fun m => (k.mode m).trans (h.mode m)⟩
theorem foldl {α : Type} {f : State → α → State} (hf : ∀ s x, KeepsModes s (f s x)) (l : List α) (s : State) : KeepsModes s (l.foldl f s) :=
  List.foldlRecOn l f (refl s) fun t ht x _ => ht.trans (hf t x)
theorem post (s : State) (e : Instr) : KeepsModes s (s.post e) := of_cores (.post s e) rfl rfl
theorem mapCtx (s : State) (c : Nat) (f : Ctx → Ctx) : KeepsModes s (s.mapCtx c f) := of_cores (mapCtx_sameMem s c f) rfl rfl
theorem mapClu (s : State) (cl : Nat) (f : Cluster → Cluster) : KeepsModes s (s.mapClu cl f) := of_cores (mapClu_sameMem s cl f) rfl rfl
theorem mapCore (s : State) (n : Nat) {f : Core → Core} (hf : ∀ k, (f k).mode = k.mode) : KeepsModes s (s.mapCore n f) := by
  refine ⟨mapCore_sameMem s n f, rfl, fun m => ?_⟩
  rw [core_mapCore]
  split
  · next h => rw [h]; exact hf _
  · rfl
theorem mapSaved (s : State) (n : Nat) (f : Saved → Saved) : KeepsModes s (s.mapSaved n f) := mapCore s n fun _ => rfl

/-! ### Stopping a context (R92) -/

theorem grants (s : State) : KeepsModes s s.grants :=
  of_cores (grants_sameMem s) (foldl_view (v := State.cur) (by intro _ _; rfl) _ s) (grants_cores s)
theorem unlisted (s : State) (c : Nat) : KeepsModes s (s.unlisted c) := of_cores ⟨rfl, rfl, rfl, rfl⟩ rfl rfl
theorem withdraw (s : State) (c : Nat) : KeepsModes s (s.withdraw c) := by
  have hfeq : ∀ w : Option Why, KeepsModes s (match w with
      | some (.fullEmpty m) => s.mapCore m fun k => { k with feq := k.feq.filter (·.ctx != c) }
      | _ => s) := fun w => by
    split
    · exact mapCore s _ fun _ => rfl
    · exact refl s
  have hrejoin : ∀ t : State, KeepsModes t (if (t.ctx c).why.isSome then (t.mapCtx c fun x => { x with held := false, sent := false }).wake c else t) :=
    fun t => by
      split
      · exact (mapCtx t c _).trans (mapCtx _ c _)
      · exact refl t
  exact (hfeq (s.ctx c).why).trans ((unlisted _ c).trans ((hrejoin _).trans (grants _)))
theorem leaveWalks (s : State) (c : Nat) : KeepsModes s (s.leaveWalks c) := of_cores ⟨rfl, rfl, rfl, rfl⟩ rfl rfl
theorem freezeCtx (s : State) (c : Nat) : KeepsModes s (s.freezeCtx c) := mapCtx s c _
theorem take (s : State) (c : Nat) : KeepsModes s (s.take c) := mapCtx s c _
theorem stopCtx (s : State) (c : Nat) : KeepsModes s (s.stopCtx c) := by
  have hwithdrawn : KeepsModes s ((s.withdraw c).freezeCtx c) := (withdraw s c).trans (freezeCtx _ c)
  unfold State.stopCtx
  dsimp only
  split
  · exact refl s
  · split
    · split
      · exact take s c
      · exact refl s
    · exact refl s
    · split
      · exact of_cores ⟨rfl, rfl, rfl, rfl⟩ rfl rfl
      · exact take s c
    · exact take s c
    · exact take s c
    · exact take s c
    · exact take s c
    · exact take s c
    · exact take s c
    · split
      · exact take s c
      · exact hwithdrawn
    · split
      · exact refl s
      · split
        · exact take s c
        · exact hwithdrawn
    · exact (leaveWalks s c).trans (freezeCtx _ c)
    · exact hwithdrawn
theorem stopCore (s : State) (n stop : Nat) : KeepsModes s (s.stopCore n stop) := by
  refine trans ?_ (foldl stopCtx (stopSet n stop) _)
  exact mapCore s n fun _ => rfl

/-! ### Loading an image (R439) -/

theorem seeLaunch (s : State) (n : Nat) : KeepsModes s (s.seeLaunch n) := by
  obtain ⟨l, hl⟩ := seeLaunch_eq s n
  rw [hl]
  exact of_cores ⟨rfl, rfl, rfl, rfl⟩ rfl rfl
theorem delegate (s : State) (c cause : Nat) (val epc : Word) (async : Bool) : KeepsModes s (delegate s c cause val epc async) := by
  refine trans (trans (mapCtx s c (·.delegated (ctxNo c) cause val epc async)) ?_) (post _ _)
  exact mapCore _ (coreOf c) fun _ => rfl
theorem assumeRun (s : State) (c code : Nat) : KeepsModes s (s.assumeRun c code) := by
  unfold State.assumeRun
  split
  · refine trans (trans ?_ (mapCtx _ c _)) (seeLaunch _ _)
    split
    · exact refl s
    · exact post s _
  · exact mapCtx s c _
  · exact (mapCtx s c _).trans (delegate _ _ _ _ _ _)
  · split
    · exact mapCtx s c _
    · split
      · exact of_cores ⟨rfl, rfl, rfl, rfl⟩ rfl rfl
      · exact of_cores ⟨rfl, rfl, rfl, rfl⟩ rfl rfl
end KeepsModes

end Sys2Proof.Machine
end
section
/-! SUPPORT. CTXLD of another context that is halted (R439). -/
namespace Sys2Proof.Machine

variable {s : State}

/-- A context as the image that is loaded leaves it, before it takes its run state. -/
def Ctx.imaged (x : Ctx) (c v : Nat) (fl : Word) (late : List AsyncTrap) (from_ : Nat) : Ctx :=
  { (x.load c v).flag fl with asyncs := ((x.load c v).flag fl).asyncs ++ late, why := none, eligFrom := from_ }
/-- The state in which a context holds its image, before it takes its run state. -/
def State.imaged (s : State) (c v : Nat) : State :=
  let k := (s.core (coreOf c)).saved
  let late := (k.map fun k => tget k.asyncs (ctxNo c) []).getD []
  let fl := (k.map fun k => tget k.flags (ctxNo c) 0).getD 0
  let s := s.mapSaved (coreOf c) fun k => { k with asyncs := tset k.asyncs (ctxNo c) [], flags := tset k.flags (ctxNo c) 0 }
  let s := s.mapCore (coreOf c) fun k => { k with pending := k.pending.filter fun p => p.preempt || p.src != ctxNo c }
  s.mapCtx c fun x => x.imaged c v fl late (s.cycle + 1)
/-- A context whose image leaves a task to be loaded first. -/
def Ctx.loads (x : Ctx) (code : Nat) : Ctx :=
  { x with run := .running, why := some .longOp, resume := if code = 1 then none else some code }

theorem loadImage_eq (s : State) (c v : Nat) : s.loadImage c v =
    match ((s.imaged c v).ctx c).pendf with
    | some f => ((s.imaged c v).mapCtx c (·.loads (bits v 6722 6720))).post (.loadTask c f.toNat 0)
    | none => (s.imaged c v).assumeRun c (bits v 6722 6720) := rfl

theorem imaged_x (s : State) (c v : Nat) : ((s.imaged c v).ctx c).x = ((s.ctx c).load c v).x := by
  unfold State.imaged
  dsimp only
  rw [ctx_mapCtx_same]
  rfl
/-- A context whose image halts it. -/
def Ctx.rests (x : Ctx) : Ctx := { x with run := .halted, why := none, resume := none }
theorem assumeRun_zero (s : State) (c : Nat) : s.assumeRun c 0 =
    ((if (s.ctx c).asyncs.isEmpty then s else s.post (.asyncTrapTake c)).mapCtx c Ctx.rests).seeLaunch (coreOf c) := rfl
/-- Halting a context keeps its registers. -/
theorem assumeRun_zero_x (s : State) (c : Nat) : ((s.assumeRun c 0).ctx c).x = (s.ctx c).x := by
  rw [assumeRun_zero, ctx_of_ctxs (seeLaunch_ctxs _ _), ctx_mapCtx_same]
  split
  · rfl
  · rfl
/-- An image that leaves its context halted gives it its registers. -/
theorem loadImage_halted_x (s : State) {c v : Nat} (h : bits v 6722 6720 = 0) : ((s.loadImage c v).ctx c).x = ((s.ctx c).load c v).x := by
  rw [loadImage_eq, h]
  split
  · exact (congrArg Ctx.x (ctx_mapCtx_same (s.imaged c v) c (·.loads 0))).trans (imaged_x s c v)
  · exact (assumeRun_zero_x _ c).trans (imaged_x s c v)

theorem KeepsModes.imaged (s : State) (c v : Nat) : KeepsModes s (s.imaged c v) := by
  unfold State.imaged
  dsimp only
  refine trans (trans (mapSaved s _ _) (mapCore _ _ ?_)) (mapCtx _ c _)
  exact fun _ => rfl
theorem KeepsModes.loadImage (s : State) (c v : Nat) : KeepsModes s (s.loadImage c v) := by
  rw [loadImage_eq]
  refine trans (imaged s c v) ?_
  split
  · exact trans (mapCtx _ c (·.loads _)) (post _ _)
  · exact assumeRun _ _ _

/-- CTXLD of another context, halted, whose image leaves it so. -/
theorem ctxld_loads {n : Fin 16} {d : XR} {b : XS} {ps : List Piece} {v : Nat} (hf : s.flows) (hsys : s.me.sys = true)
    (halign : (s.me.getS b).toNat % 64 = 0) (hbuf : s.me.buf = []) (harmed : s.me.armed = none) (hrec : s.me.recBad = false)
    (hother : 16 * s.myCore + n.val ≠ s.cur) (hrun : (s.ctx (16 * s.myCore + n.val)).run = .halted)
    (hblock : s.blockMe .load (s.me.getS b).toNat 1024 = .ok ps) (hbad : s.badPiece ps = none) (hv : s.readKeys (pieceKeys ps) = v)
    (hok : imageOk v = true) (hcode : bits v 6722 6720 = 0) :
    ∃ t, exec (.ctxld n d b) s = .next t ∧ t.me.getX d = 0 ∧
      (t.ctx (16 * s.myCore + n.val)).x = ((s.ctx (16 * s.myCore + n.val)).load (16 * s.myCore + n.val) v).x ∧ KeepsMemory s t := by
  let c := 16 * s.myCore + n.val
  have hload : KeepsModes s (s.loadImage c v) := .loadImage s c v
  obtain ⟨hreg, -, hmem, hothers⟩ := endStatus_effect s (s.loadImage c v) d 0
  refine ⟨_, ?_, hreg.trans (ite_self 0), ?_, (hload.mem.trans hmem).keeps⟩
  · change execCtxld n d b s = _
    rw [execCtxld]
    dsimp only
    rw [needSys_sys hsys, State.needAligned, if_pos halign, hblock, readRecord_flows hbuf harmed hrec hbad (fun _ h => by cases h), hv]
    rw [if_neg (by rw [hrun]; simp), hok, if_neg (by simp), if_neg hother]
    exact endStatus_flows hf _ d 0
  · exact (congrArg Ctx.x (hothers c (by rw [hload.cur]; exact hother))).trans (loadImage_halted_x s hcode)

end Sys2Proof.Machine
end
section
/-! SUPPORT. PRMT and RSME where a core freezes and where it is restored (R442, R445). -/
namespace Sys2Proof.Machine

variable {s : State}

/-! ## The request of both forms (R445) -/

theorem readRequest_flows {b : XS} {p : Piece} {k : State → Nat → Nat → Out} (hsys : s.me.sys = true) (halign : (s.me.getS b).toNat % 16 = 0)
    (hres : s.resolveMe .load (s.me.getS b).toNat 16 = .ok [p]) (hlen : p.len = 16) (hbad : s.badPiece [p] = none) (hbuf : s.me.buf = [])
    (harmed : s.me.armed = none) (hrec : s.me.recBad = false) (hblock : s.rdN p.key 16 / 2 ^ 64 % 65536 = 0) :
    readRequest s b k = k s (s.rdN p.key 16 % 2 ^ 21) (s.rdN p.key 16 / 2 ^ 64) := by
  have hread : s.readKeys (pieceKeys [p]) = s.rdN p.key 16 := by rw [pieceKeys_single, hlen, readKeys_range]
  have hblk : (BitVec.ofNat 64 (s.rdN p.key 16 / 2 ^ 64)).toNat % 65536 = 0 := by rw [BitVec.toNat_ofNat]; omega
  unfold readRequest
  dsimp only
  rw [needSys_sys hsys, State.needAligned, if_pos halign, hres, readRecord_flows hbuf harmed hrec hbad (fun _ h => by cases h), hread,
    State.needAligned, if_pos hblk]

/-- A request for a core of the issuer's partition that is mapped and about to do nothing else. -/
theorem saverRefused_none {n pt : Nat} (hn : n < 2 ^ 15) (hpkg : s.pkg * 2 ^ 15 + n < 2 ^ 21) (hmigr : s.migrStarts n = false)
    (hmap : s.remapState n = 1) (hpart : s.partOf (fieldOf s.myCore) = some pt) (hpart' : s.partOf (fieldOf n) = some pt)
    (hmode : (s.core n).mode = .running ∨ (s.core n).mode = .saved) : s.saverRefused (s.pkg * 2 ^ 15 + n) = none := by
  have hcore : (s.pkg * 2 ^ 15 + n) % 2 ^ 15 = n := by omega
  have hbits : bits (s.pkg * 2 ^ 15 + n) 20 15 = s.pkg := by unfold bits; omega
  unfold State.saverRefused
  dsimp only
  rw [hcore, hbits, hmap, hpart, hpart', hmigr]
  obtain h | h := hmode
  · rw [h]; simp
  · rw [h]; simp

/-- The state that a form leaves which has its effect and waits for its reply. -/
def State.stepsWaiting (s u : State) : State := s.stepped (u.mapMe fun x => { x with why := some .longOp })
theorem stepsWaiting_effect (s u : State) : (s.stepsWaiting u).cores = u.cores ∧ (s.stepsWaiting u).me.why = some .longOp ∧
    (s.stepsWaiting u).me.pc = BitVec.ofNat 64 s.nextPc ∧ SameMem u (s.stepsWaiting u) := by
  unfold State.stepsWaiting
  refine ⟨rfl, ?_, ?_, (mapMe_sameMem u _).trans (stepped_sameMem s _)⟩
  · rw [stepped_me, stepTo_why]
    exact congrArg Ctx.why (me_mapMe u fun x => { x with why := some .longOp })
  · rw [stepped_me]; rfl

/-! ## PRMT (R442) -/

/-- A core that begins to freeze: nothing is changed but it and its contexts. -/
theorem freezeBegin_effect (s : State) {n : Nat} (block : Nat) (d : XR) :
    ((s.freezeBegin n block d).core n).mode = .freezing ∧ SameMem s (s.freezeBegin n block d) := by
  let k : Saved :=
    { block := block, issuer := s.cur, asid := s.me.asid.toNat, sys := s.me.sys,
      workAsid := ((s.core n).launch.map fun l => (s.launch l).asid).getD 0, launch := (s.core n).launch, msgs := [],
      waiter := some (s.cur, d), asyncs := [], flags := [], redCount := Vector.replicate 4 0,
      sgmask := (s.core n).sgmask, cleared := Vector.replicate 4 0 }
  let u := s.mapCore n fun c => { c with mode := .freezing, saved := some k, refill := none }
  have hstop : KeepsModes u (s.freezeBegin n block d) := (KeepsModes.stopCore u n 1).trans (.post _ _)
  have hmode : (u.core n).mode = .freezing := congrArg Core.mode ((core_mapCore s n n _).trans (if_pos rfl))
  exact ⟨(hstop.mode n).trans hmode, hstop.mem⟩

/-- PRMT of a running core of a live launch, whose save block may be written. -/
theorem prmt_freezes {d : XR} {b : XS} {p : Piece} {qs : List Piece} {n : Nat} (hf : s.flows) (hn : n < 2 ^ 15)
    (hrequest : ∀ k, readRequest s b k = k s (s.rdN p.key 16 % 2 ^ 21) (s.rdN p.key 16 / 2 ^ 64))
    (hop : s.rdN p.key 16 % 2 ^ 21 = s.pkg * 2 ^ 15 + n) (haccept : s.saverRefused (s.pkg * 2 ^ 15 + n) = none)
    (hmode : (s.core n).mode = .running) (hlaunch : s.inLaunch n = true) (hrun : (s.ctx (16 * n)).run = .running)
    (hblock : s.saveBlockMe .store (s.rdN p.key 16 / 2 ^ 64) = .ok qs) :
    ∃ t, exec (.prmt d b) s = .next t ∧ (t.core n).mode = .freezing ∧ t.me.why = some .longOp ∧ t.me.pc = BitVec.ofNat 64 s.nextPc ∧
      KeepsMemory s t := by
  let u := s.freezeBegin n (s.rdN p.key 16 / 2 ^ 64) d
  obtain ⟨hfreezing, hmem⟩ := freezeBegin_effect s (n := n) (s.rdN p.key 16 / 2 ^ 64) d
  have hcore : (s.pkg * 2 ^ 15 + n) % 2 ^ 15 = n := by omega
  obtain ⟨hcores, hwhy, hpc, hkeep⟩ := stepsWaiting_effect s u
  refine ⟨s.stepsWaiting u, ?_, (congrArg Core.mode (core_of_cores hcores n)).trans hfreezing, hwhy, hpc, (hmem.trans hkeep).keeps⟩
  · change execPrmt d b s = _
    rw [execPrmt, hrequest, hop]
    dsimp only
    rw [haccept, hcore]
    dsimp only
    rw [if_neg (by simp [hmode]), if_neg (by simp [hlaunch, hrun]), hblock]
    exact retire_flows hf _

/-! ## RSME (R445) -/

theorem KeepsModes.dropQueues (s : State) (n : Nat) : KeepsModes s (s.dropQueues n) := by
  have hlog : ∀ (t : State) (m : Msg), KeepsModes t (t.logDiscard n (t.intended m)) := fun t m => by
    refine of_cores (logClu_sameMem t _ _ _) ?_ ?_
    · exact (congrArg State.cur (inventory_eq _)).trans rfl
    · exact (congrArg State.cores (inventory_eq _)).trans rfl
  unfold State.dropQueues
  refine trans ?_ (foldl hlog _ _)
  exact mapCore s n fun _ => rfl
theorem KeepsModes.identify (s : State) (n l : Nat) : KeepsModes s (s.identify n l) := by
  unfold State.identify
  exact foldl (fun t c => mapCtx t c _) (stopSet n 2) s

/-- A core that is restored is in that mode, until its miller ends it. -/
theorem restore_mode (s : State) (q : Asker) (n : Nat) (k : Saved) (img : Nat) (w : Nat × XR) :
    ((s.restore q n k img w).core n).mode = .restoring := by
  unfold State.restore
  dsimp only
  rw [(KeepsModes.loadImage _ _ _).mode]
  split
  · rw [(KeepsModes.identify _ _ _).mode, core_mapCore, if_pos rfl, core_mapCore, if_pos rfl]
  · rw [core_mapCore, if_pos rfl]

/-- RSME of a saved core from its block, which may be read, with an image that may be loaded. -/
theorem rsme_restores {d : XR} {b : XS} {p : Piece} {qs is : List Piece} {n : Nat} {k : Saved} (hf : s.flows) (hn : n < 2 ^ 15)
    (hrequest : ∀ k, readRequest s b k = k s (s.rdN p.key 16 % 2 ^ 21) (s.rdN p.key 16 / 2 ^ 64))
    (hop : s.rdN p.key 16 % 2 ^ 21 = s.pkg * 2 ^ 15 + n) (haccept : s.saverRefused (s.pkg * 2 ^ 15 + n) = none)
    (harmed : s.me.armed = none) (hrec : s.me.recBad = false)
    (hsaved : (s.core n).saved = some k) (hblk : k.block = s.rdN p.key 16 / 2 ^ 64) (hmode : (s.core n).mode = .saved)
    (hlaunch : s.inLaunch n = false)
    (hreads : (blockReads k.msgs.length).foldl (fun r p => joinRes r (s.blockMe .load (k.block + p.1) p.2)) (s.saveBlockMe .load k.block) = .ok qs)
    (hbad : s.badPiece qs = none) (himage : s.blockMe .load k.block 1024 = .ok is) (hok : imageOk (s.readKeys (pieceKeys is)) = true) :
    ∃ t, exec (.rsme d b) s = .next t ∧ (t.core n).mode = .restoring ∧ t.me.why = some .longOp ∧ t.me.pc = BitVec.ofNat 64 s.nextPc := by
  let u := s.restore (s.asker s.cur) n k (s.readKeys (pieceKeys is)) (s.cur, d)
  have hcore : (s.pkg * 2 ^ 15 + n) % 2 ^ 15 = n := by omega
  obtain ⟨hcores, hwhy, hpc, -⟩ := stepsWaiting_effect s u
  refine ⟨s.stepsWaiting u, ?_, (congrArg Core.mode (core_of_cores hcores n)).trans (restore_mode s _ n k _ _), hwhy, hpc⟩
  · change execRsme d b s = _
    rw [execRsme, hrequest, hop]
    dsimp only
    rw [haccept, hcore, hsaved, ← hblk]
    dsimp only
    rw [if_neg (by simp [hmode]), hlaunch, if_neg Bool.false_ne_true, hreads, onRes_ok, readCheck_clean harmed hrec false hbad, himage]
    dsimp only
    rw [hok]
    exact retire_flows hf _

end Sys2Proof.Machine
end
section
/-! CERTIFICATE. System forms, launches, translation and invalidation complete: O57. -/
namespace Sys2Proof.Machine

/-- Settles O57, form by form and event by event, from what each does where its conditions hold. -/
theorem systemComplete : Obligations.SystemComplete := by
  unfold Obligations.SystemComplete
  intro s hform
  refine ⟨fun n p ps hmode hpend hpre hrun hintv hgot hheld hwhy hgood => ?_, fun c a l hrun hasync hc => ?_,
    fun c pa e hwhy hask hpage hcell hbad hopen => ?_, fun l n hlive hnew hmap hwaiter => ?_, fun l hlive hact hhalt hquiet hkind => ?_,
    fun d b ps r hf hbuf harmed hrec halign hblock hbad hquiet hr haccept hargs => ?_,
    fun n d b p hf hmiller hn => ⟨fun halign hres hlen hbad hbuf harmed hrec hquiet hmap hrun hasync hpc => ?_, fun hrun hbuf => ?_⟩,
    fun d b n pt hf hsys hn _ hop hpart hpart' hmap hmode hspare hreqs => ?_,
    fun n d b ps key hf hsys halign hbuf harmed hrec hkeys hkey hother hrun =>
      ⟨fun hblock hempty hcan => ?_, fun hblock hbad hok hcode _ => ?_⟩,
    fun d b p qs n pt hf hsys halign hres hlen hbad hbuf harmed hrec hmigr hblock hn hop hmap hpart hpart' _ => ?_,
    fun d b w hf hsys hon hw hlo hhi => ?_, fun c va acc hfail hmiss hnew hroom => ?_,
    fun f asid g c w hw hphase ha hg hfield hok hopen hc hwhy hwait hfault => ?_, fun cl e htlb hpin hold => ?_,
    fun f asid g c size l k hk ha hg hfield _ _ _ _ _ _ hstale _ _ => ⟨fun hphase hleaf hhost hmode hstop => ?_,
      fun rest hgroups hon halloc hmax hcap => ?_, fun hphase => ?_⟩,
    fun l alloc => ?_, fun l => ?_,
    fun hclean => ⟨fun l pasid va len => ?_, fun tag asid va len hruns => ?_, fun asid va len hinvals hold => ?_⟩⟩
  · exact millerTakeTrap_takes hmode hpend hpre hrun hintv hgot hheld hwhy hgood
  · exact asyncTrapTake_delegates hrun hasync hc
  · exact ifetchLineArrival_arrives hwhy hask hpage hcell hbad hopen
  · exact corePlacement_places hlive hnew hmap hwaiter
  · exact launchEnd_ends hlive hact hhalt hquiet hkind
  · exact launch_accepts hf hbuf harmed hrec halign hblock hbad hquiet hr haccept hargs
  · exact start_starts hf hmiller hn halign hres hlen hbad hbuf harmed hrec hquiet hmap hrun hasync hpc
  · exact reap_reaps hf hmiller hn hrun hbuf
  · exact migr_accepted hf hsys hn hop hpart hpart' hmap hmode hspare hreqs
  · exact ctxsv_saves hform hf hsys halign hbuf hkeys hkey hother hrun hblock hempty hcan
  · exact ctxld_loads hf hsys halign hbuf harmed hrec hother hrun hblock hbad (by rw [hkeys, readKeys_range]) hok hcode
  · have hrequest := fun k => readRequest_flows (k := k) hsys halign hres hlen hbad hbuf harmed hrec hblock
    have haccept := saverRefused_none hn (by omega) hmigr hmap hpart hpart'
    exact ⟨fun hmode hlaunch hrun hsave => prmt_freezes hf hn hrequest hop (haccept (.inl hmode)) hmode hlaunch hrun hsave,
      fun k is hsaved hblk hmode hlaunch hreads hclean himage hok => rsme_restores hf hn hrequest hop (haccept (.inr hmode)) harmed hrec hsaved
        hblk hmode hlaunch hreads hclean himage hok⟩
  · exact errinj_arms hf hsys hon hw hlo hhi
  · exact translationRequest_opens hfail hmiss hnew hroom
  · exact walkComplete_faults hw hphase ha hg hfield hok hopen hc hwhy hwait hfault
  · exact sliceEntryPinExpiry_unpins htlb hpin hold
  · exact atsTranslationCompletion_asks hk ha hg hfield hstale hphase hleaf hhost hmode hstop
  · exact pageRequestSend_sends hk hgroups hon halloc hmax hcap
  · exact pageRequestResponse_success hk hphase
  · exact priEnable_enables s l alloc
  · exact priStop_stops s l
  · exact atsInvalidationRequest_begins hclean l pasid va len
  · exact inval_begins hclean tag asid va len hruns
  · exact invalidationComplete_ends hinvals hold

end Sys2Proof.Machine
end

section
/-! CERTIFICATE. Privilege, illegal heads and the top of the code addresses: O17. -/
namespace Sys2Proof.Machine

/-- A head whose result is late has no effect where it cannot step on (R84). -/
theorem retireAfter_stuck {s : State} (h : s.stepsOn = false) (t : State) (l : Nat) :
    retireAfter s t l = .next (s.trap 0x02 (BitVec.ofNat 64 s.nextPc)) := retire_stuck h _

/-- Settles O17: the check of the level or of the miller comes first in its forms, and a form that writes registers alone is one
retirement, which traps where control cannot step on. -/
theorem headTraps : Obligations.HeadTraps := by
  unfold Obligations.HeadTraps
  refine ⟨fun s d b v n => ⟨fun happ => ?system, fun hother => ?miller⟩, fun s => ⟨rfl, rfl⟩,
    fun s d b c i w p q r t v y z h hstuck => ?top⟩
  case' top => revert h
  all_goals
    simp only [List.forall_mem_cons, List.not_mem_nil, false_imp_iff, implies_true, and_true]
  case system =>
    have htrap := needSys_app happ
    exact ⟨htrap _, htrap _, htrap _, htrap _, htrap _, htrap _, htrap _, htrap _⟩
  case miller => exact ⟨needMiller_other hother _, needMiller_other hother _⟩
  case top =>
    have htrap := retire_stuck hstuck
    exact ⟨htrap _, htrap _, htrap _, htrap _, htrap _, htrap _, retireAfter_stuck hstuck _ _, htrap _, htrap _, htrap _,
      htrap _, htrap _, htrap _, htrap _, htrap _, htrap _, htrap _⟩

end Sys2Proof.Machine
end

section
/-! SUPPORT. Elements packed from lane 0 on (R39, R142), integers read, wrapped and saturated in w bits (R116, R117), and the vector
forms where their head steps on. -/
namespace Sys2Proof.Machine

/-! ## Packed elements -/

theorem ofElems_cons (w x : Nat) (l : List Nat) : ofElems w (x :: l) = x % 2 ^ w + 2 ^ w * ofElems w l := rfl
/-- n packed elements of width w take w * n bits. -/
theorem ofElems_lt (w : Nat) (l : List Nat) : ofElems w l < 2 ^ (w * l.length) := by
  induction l with
  | nil => simp [ofElems]
  | cons x l ih =>
    have hx : x % 2 ^ w < 2 ^ w := Nat.mod_lt _ (by positivity)
    rw [ofElems_cons, List.length_cons, Nat.mul_succ, Nat.add_comm (w * _), Nat.pow_add]
    calc x % 2 ^ w + 2 ^ w * ofElems w l < 2 ^ w * (ofElems w l + 1) := by rw [Nat.mul_succ]; omega
      _ ≤ 2 ^ w * 2 ^ (w * l.length) := Nat.mul_le_mul_left _ ih
/-- Element j of packed elements; beyond them there are zeros. -/
theorem elem_ofElems (w : Nat) (l : List Nat) (j : Nat) : elem (ofElems w l) w j = l.getD j 0 % 2 ^ w := by
  induction l generalizing j with
  | nil => simp [ofElems, elem]
  | cons x l ih =>
    cases j with
    | zero => simp [elem, ofElems_cons]
    | succ j =>
      have hx : x % 2 ^ w / 2 ^ w = 0 := Nat.div_eq_of_lt (Nat.mod_lt _ (by positivity))
      rw [elem, ofElems_cons, Nat.mul_succ, Nat.add_comm (w * j), Nat.pow_add, ← Nat.div_div_eq_div_mul,
        Nat.add_mul_div_left _ _ (by positivity), hx, Nat.zero_add]
      exact ih j
theorem lane_lt (v : VWord) (w i : Nat) : lane v w i < 2 ^ w := Nat.mod_lt _ (by positivity)
/-- A lane of a vector that is made of its lanes. -/
theorem lane_ofLanes {w : Nat} {l : List Nat} (h : w * l.length ≤ 256) (i : Nat) : lane (ofLanes w l) w i = l.getD i 0 % 2 ^ w := by
  have hlt : ofElems w l < 2 ^ 256 := (ofElems_lt w l).trans_le (Nat.pow_le_pow_right (by omega) h)
  have hof : (ofLanes w l).toNat = ofElems w l := Nat.mod_eq_of_lt hlt
  rw [← elem_ofElems, lane, hof, elem]
/-- The lanes of a vector that is made by lane number. -/
theorem lane_ofLanes_range (w i : Nat) (f : Nat → Nat) (hi : i < 256 / w) (hf : f i < 2 ^ w) :
    lane (ofLanes w ((List.range (lanesOf w)).map f)) w i = f i := by
  have hlen : w * ((List.range (lanesOf w)).map f).length ≤ 256 := by
    rw [List.length_map, List.length_range]; exact Nat.mul_div_le 256 w
  rw [lane_ofLanes hlen, List.getD_eq_getElem _ _ (by simpa [lanesOf] using hi), List.getElem_map, List.getElem_range, Nat.mod_eq_of_lt hf]

/-! ## Integers of w bits (R116, R117) -/

theorem width_pos (t : ElemT) : 0 < t.width := by cases t <;> decide
/-- A lane's pattern as an integer. -/
theorem readInt_eq {t : ElemT} {x : Nat} (h : x < 2 ^ t.width) : readInt t x = if t.isSigned then sext x t.width else (x : Int) := by
  rw [readInt, zext, Nat.mod_eq_of_lt h]
theorem wrap_sext (x w : Nat) : wrap (sext x w) w = x % 2 ^ w := by
  rw [wrap, sext]
  split
  · rw [Int.sub_emod_right, ← Int.natCast_mod, Int.toNat_natCast, Nat.mod_mod]
  · rw [Int.natCast_zero, Int.sub_zero, ← Int.natCast_mod, Int.toNat_natCast, Nat.mod_mod]
theorem wrap_natCast (x w : Nat) : wrap (x : Int) w = x % 2 ^ w := by rw [wrap, ← Int.natCast_mod, Int.toNat_natCast]
theorem wrap_readInt {t : ElemT} {x : Nat} (h : x < 2 ^ t.width) : wrap (readInt t x) t.width = x := by
  rw [readInt]
  split
  · rw [wrap_sext, Nat.mod_eq_of_lt h]
  · rw [zext, wrap_natCast, Nat.mod_mod, Nat.mod_eq_of_lt h]
/-- Different patterns are different integers. -/
theorem readInt_inj {t : ElemT} {x y : Nat} (hx : x < 2 ^ t.width) (hy : y < 2 ^ t.width) (h : readInt t x = readInt t y) : x = y := by
  rw [← wrap_readInt hx, h, wrap_readInt hy]
theorem wrap_sub {x y w : Nat} (hy : y < 2 ^ w) : wrap ((x : Int) - y) w = (2 ^ w + x - y) % 2 ^ w := by
  have hsum : ((2 ^ w + x - y : Nat) : Int) = ((x : Int) - y) + (2 ^ w : Nat) := by omega
  rw [← wrap_natCast, hsum, wrap, wrap, Int.add_emod_right]

theorem wrap_neg {y w : Nat} (hy : y < 2 ^ w) : wrap (-(y : Int)) w = (2 ^ w - y) % 2 ^ w := by
  have h := wrap_sub (x := 0) hy
  rwa [Nat.add_zero, Int.natCast_zero, Int.zero_sub] at h

/-- Twice the half of the range of w bits is the range. -/
theorem two_mul_half {w : Nat} (hw : 0 < w) : 2 ^ w = 2 * 2 ^ (w - 1) := by rw [← Nat.pow_succ']; congr 1; omega

/-- Saturation to an interval of at most 2^w integers, in w bits, with the flag (R117). -/
def clampTo (w : Nat) (lo hi x : Int) : Fp := ((max lo (min hi x) % (2 ^ w : Nat)).toNat, if x < lo ∨ hi < x then fSat else 0)
theorem clampTo_above {w : Nat} {lo hi x : Int} (hlo : lo ≤ hi) (h : hi < x) : clampTo w lo hi x = (wrap hi w, fSat) := by
  rw [clampTo, if_pos (.inr h), min_eq_left h.le, max_eq_right hlo]; rfl
theorem clampTo_below {w : Nat} {lo hi x : Int} (hlo : lo ≤ hi) (h : x < lo) : clampTo w lo hi x = (wrap lo w, fSat) := by
  rw [clampTo, if_pos (.inl h), min_eq_right (by omega), max_eq_left h.le]; rfl
theorem clampTo_within {w : Nat} {lo hi x : Int} (hlo : lo ≤ x) (h : x ≤ hi) : clampTo w lo hi x = (wrap x w, 0) := by
  rw [clampTo, if_neg (by omega), min_eq_right h, max_eq_right hlo]; rfl
theorem satS_eq_clampTo {w : Nat} (hw : 0 < w) (x : Int) : satS x w = clampTo w (-(2 ^ (w - 1) : Nat)) ((2 ^ (w - 1) : Nat) - 1) x := by
  have hh := two_mul_half hw
  have hpos : 0 < 2 ^ (w - 1) := by positivity
  rw [satS]
  split_ifs with habove hbelow
  · have hmax : ((2 ^ (w - 1) : Nat) : Int) - 1 = (2 ^ (w - 1) - 1 : Nat) := by omega
    rw [clampTo_above (by omega) habove, hmax, wrap_natCast, Nat.mod_eq_of_lt (by omega)]
  · have hmin : -((2 ^ (w - 1) : Nat) : Int) = ((0 : Nat) : Int) - (2 ^ (w - 1) : Nat) := by omega
    rw [clampTo_below (by omega) hbelow, hmin, wrap_sub (by omega), Nat.mod_eq_of_lt (by omega)]
    congr 1; omega
  · rw [clampTo_within (by omega) (by omega)]
theorem satN_eq_clampTo (w : Nat) (x : Int) : satN x w = clampTo w 0 ((2 ^ w : Nat) - 1) x := by
  have hpos : 0 < 2 ^ w := by positivity
  rw [satN]
  split_ifs with habove hbelow
  · have hmax : ((2 ^ w : Nat) : Int) - 1 = (2 ^ w - 1 : Nat) := by omega
    rw [clampTo_above (by omega) habove, hmax, wrap_natCast, Nat.mod_eq_of_lt (by omega)]
  · rw [clampTo_below (by omega) hbelow]; simp [wrap]
  · rw [clampTo_within (by omega) (by omega)]
/-- Saturation to the range of an integer type. -/
theorem satT_eq_clampTo (t : ElemT) (x : Int) : satT t x = clampTo t.width (if t.isSigned then -(2 ^ (t.width - 1)) else 0)
    (if t.isSigned then 2 ^ (t.width - 1) - 1 else 2 ^ t.width - 1) x := by
  rw [satT]
  split
  · rw [satS_eq_clampTo (width_pos t)]; push_cast; rfl
  · rw [satN_eq_clampTo]; push_cast; rfl

theorem natAbs_sext_le {w : Nat} (hw : 0 < w) (x : Nat) : (sext x w).natAbs ≤ 2 ^ (w - 1) := by
  have hh := two_mul_half hw
  have hlt : x % 2 ^ w < 2 ^ w := Nat.mod_lt _ (by positivity)
  have hbit : x.testBit (w - 1) = decide (2 ^ (w - 1) ≤ x % 2 ^ w) := by
    have hmod : x.testBit (w - 1) = (x % 2 ^ w).testBit (w - 1) := by simp [Nat.testBit_mod_two_pow, hw]
    rw [hmod, Nat.testBit_eq_decide_div_mod_eq]
    congr 1
    generalize x % 2 ^ w = y at hlt
    rw [hh] at hlt
    have hpos : 0 < 2 ^ (w - 1) := by positivity
    have hq : y / 2 ^ (w - 1) < 2 := Nat.div_lt_of_lt_mul (by omega)
    have hone : 1 ≤ y / 2 ^ (w - 1) ↔ 2 ^ (w - 1) ≤ y := by rw [Nat.le_div_iff_mul_le hpos, Nat.one_mul]
    generalize y / 2 ^ (w - 1) = q at hq hone
    rw [← hone]
    exact propext (by omega)
  rw [sext, hbit]
  by_cases h : 2 ^ (w - 1) ≤ x % 2 ^ w <;> simp only [h, decide_true, decide_false, if_true, Bool.false_eq_true, if_false] <;> omega
/-- The magnitude of an integer of w bits, saturated: only that of the least one does not fit. -/
theorem satS_natAbs_sext {w : Nat} (hw : 0 < w) (x : Nat) : satS (sext x w).natAbs w =
    if (sext x w).natAbs = 2 ^ (w - 1) then ((sext x w).natAbs - 1, 256) else ((sext x w).natAbs, 0) := by
  have hh := two_mul_half hw
  have hle := natAbs_sext_le hw x
  have hpos : 0 < 2 ^ (w - 1) := by positivity
  rw [satS]
  by_cases h : (sext x w).natAbs = 2 ^ (w - 1)
  · rw [if_pos (by omega), if_pos h, h]; rfl
  · rw [if_neg (by omega), if_neg (by omega), if_neg h, wrap_natCast, Nat.mod_eq_of_lt (by omega)]
theorem sar_eq (w x k : Nat) : sar w x k = (sext x w / 2 ^ (min k (w - 1)) % (2 ^ w : Nat)).toNat := by
  rw [sar, wrap]; push_cast; rfl
theorem shr_eq {w x : Nat} (h : x < 2 ^ w) (k : Nat) : shr w x k = if w ≤ k then 0 else x / 2 ^ k := by
  rw [shr, Nat.mod_eq_of_lt h]

/-! ## One value in every lane -/

theorem toNat_append_eq {m n : Nat} (x : BitVec m) (y : BitVec n) : (x ++ y).toNat = x.toNat * 2 ^ n + y.toNat := by
  rw [BitVec.toNat_append, ← Nat.shiftLeft_add_eq_or_of_lt y.isLt, Nat.shiftLeft_eq]
theorem toNat_splat (w v : Nat) : (splat w v).toNat = ofElems w (List.replicate (lanesOf w) v) := by
  have hlen : w * (List.replicate (lanesOf w) v).length ≤ 256 := by rw [List.length_replicate]; exact Nat.mul_div_le 256 w
  exact Nat.mod_eq_of_lt ((ofElems_lt w _).trans_le (Nat.pow_le_pow_right (by omega) hlen))
theorem splat16 (n : BitVec 16) :
    splat 16 n.toNat = n ++ n ++ n ++ n ++ n ++ n ++ n ++ n ++ n ++ n ++ n ++ n ++ n ++ n ++ n ++ n := by
  have hn : n.toNat % 2 ^ 16 = n.toNat := Nat.mod_eq_of_lt n.isLt
  apply BitVec.eq_of_toNat_eq
  simp only [toNat_append_eq]
  simp only [toNat_splat, lanesOf, ofElems, Nat.reduceDiv, List.replicate, List.foldr_cons, List.foldr_nil, hn]
  ring
theorem splat32 (n : BitVec 32) : splat 32 n.toNat = n ++ n ++ n ++ n ++ n ++ n ++ n ++ n := by
  have hn : n.toNat % 2 ^ 32 = n.toNat := Nat.mod_eq_of_lt n.isLt
  apply BitVec.eq_of_toNat_eq
  simp only [toNat_append_eq]
  simp only [toNat_splat, lanesOf, ofElems, Nat.reduceDiv, List.replicate, List.foldr_cons, List.foldr_nil, hn]
  ring
theorem splat64 (n : BitVec 64) : splat 64 n.toNat = n ++ n ++ n ++ n := by
  have hn : n.toNat % 2 ^ 64 = n.toNat := Nat.mod_eq_of_lt n.isLt
  apply BitVec.eq_of_toNat_eq
  simp only [toNat_append_eq]
  simp only [toNat_splat, lanesOf, ofElems, Nat.reduceDiv, List.replicate, List.foldr_cons, List.foldr_nil, hn]
  ring

/-! ## Bits of a mask -/

/-- The lowest set bit among n bits: none below it is set, and it is, where it lies below n. -/
theorem lowBit_spec (v n : Nat) : lowBit v n ≤ n ∧ (∀ i, i < lowBit v n → v.testBit i = false) ∧
    (lowBit v n < n → v.testBit (lowBit v n) = true) := by
  unfold lowBit
  cases h : (List.range n).find? fun i => v.testBit i with
  | none =>
    rw [List.find?_range_eq_none] at h
    exact ⟨le_rfl, fun i hi => by simpa using h i hi, fun hlt => absurd hlt (lt_irrefl n)⟩
  | some k =>
    rw [List.find?_range_eq_some] at h
    obtain ⟨hset, hmem, hbelow⟩ := h
    exact ⟨(List.mem_range.mp hmem).le, fun i hi => by simpa using hbelow i hi, fun _ => hset⟩

/-! ## Lane-wise forms -/

variable {s : State}

/-- A form of two sources, as a function of their lanes. -/
theorem vInt2_flows (hf : s.flows) {t : ElemT} (d b c : VR) (m : KR) {g f : Nat → Nat → Fp}
    (h : ∀ x y, x < 2 ^ t.width → y < 2 ^ t.width → g x y = f x y) : vInt2 s t d b c m g =
      .next (s.stepped (s.putLanes t.width d m fun j => f (lane (s.me.getV b) t.width j) (lane (s.me.getV c) t.width j))) := by
  rw [vInt2, retire_flows hf]
  exact congrArg (fun f => Host.Outcome.next (s.stepped (s.putLanes t.width d m f))) (funext fun j => h _ _ (lane_lt ..) (lane_lt ..))
/-- A form of one source, as a function of its lanes. -/
theorem vInt1_flows (hf : s.flows) {t : ElemT} (d b : VR) (m : KR) {g f : Nat → Fp} (h : ∀ x, x < 2 ^ t.width → g x = f x) :
    vInt1 s t d b m g = .next (s.stepped (s.putLanes t.width d m fun j => f (lane (s.me.getV b) t.width j))) := by
  rw [vInt1, retire_flows hf]
  exact congrArg (fun f => Host.Outcome.next (s.stepped (s.putLanes t.width d m f))) (funext fun j => h _ (lane_lt ..))
/-- A comparison, as a function of the lanes read as integers. -/
theorem vCmp_flows (hf : s.flows) (t : ElemT) (d : KR) (b c : VR) (m : KR) (g : Int → Int → Bool) :
    let v (r : VR) (i : Nat) : Int :=
      if t.isSigned then sext (lane (s.me.getV r) t.width i) t.width else lane (s.me.getV r) t.width i
    vCmp s t d b c m g = .next (s.stepped (s.putMask t.width d m fun i => (g (v b i) (v c i), 0))) := by
  intro v
  have hv : ∀ r i, readInt t (s.lane r t.width i) = v r i := fun r i => readInt_eq (lane_lt ..)
  rw [vCmp, retire_flows hf]
  simp only [hv]

end Sys2Proof.Machine
end

section
/-! CERTIFICATE. Vector and mask forms complete with their results: O20. -/
namespace Sys2Proof.Machine

variable {s : State}

/-- The vector constants are one value in every lane. -/
theorem vli16_flows (hf : s.flows) (d : VR) (n : BitVec 16) :
    exec (.vli16 d n) s = .next (s.wroteV d (n ++ n ++ n ++ n ++ n ++ n ++ n ++ n ++ n ++ n ++ n ++ n ++ n ++ n ++ n ++ n)) := by
  rw [← splat16]; exact retire_flows hf _
theorem vli32_flows (hf : s.flows) (d : VR) (n : BitVec 32) :
    exec (.vli32 d n) s = .next (s.wroteV d (n ++ n ++ n ++ n ++ n ++ n ++ n ++ n)) := by
  rw [← splat32]; exact retire_flows hf _
theorem vli64_flows (hf : s.flows) (d : VR) (n : BitVec 32) :
    exec (.vli64 d n) s = .next (s.wroteV d (let h := n.signExtend 64; h ++ h ++ h ++ h)) := by
  dsimp only
  rw [← splat64]; exact retire_flows hf _
/-- VSEL takes each lane from the one source or the other. -/
theorem vsel_flows (hf : s.flows) (t : ElemT) (d b c : VR) (m : KR) : ∃ r, exec (.vsel t d b c m) s = .next (s.wroteV d r) ∧
    ∀ i, i < 256 / t.width → lane r t.width i =
      if (s.me.getK m).getLsbD i then lane (s.me.getV b) t.width i else lane (s.me.getV c) t.width i :=
  ⟨_, retire_flows hf _, fun i hi => lane_ofLanes_range t.width i _ hi (by split <;> exact lane_lt ..)⟩
/-- KPOPC counts the bits of a mask. -/
theorem kpopc_flows (hf : s.flows) (x : XR) (k : KR) : exec (.kpopc x k) s =
    .next (s.wroteX x (BitVec.ofNat 64 ((List.range 32).filter (s.me.getK k).getLsbD).length)) := by
  rw [← List.countP_eq_length_filter]
  exact retire_flows hf _
/-- KFIRST finds the lowest set bit of a mask. -/
theorem kfirst_flows (hf : s.flows) (x : XR) (k : KR) : ∃ n : Nat, exec (.kfirst x k) s = .next (s.wroteX x (BitVec.ofNat 64 n)) ∧
    n ≤ 32 ∧ (∀ i, i < n → (s.me.getK k).getLsbD i = false) ∧ (n < 32 → (s.me.getK k).getLsbD n = true) :=
  ⟨lowBit (s.me.getK k).toNat 32, retire_flows hf _, lowBit_spec _ 32⟩

/-- Settles O20, form by form: an integer form does in each lane what its function does to patterns of the lane's width, and a
floating form what the format does. -/
theorem vectorForms : Obligations.VectorForms := by
  unfold Obligations.VectorForms
  refine ⟨fun s t d b c m i f hf => ?_, fun s t d b x m k n l hf => ?_, fun s t d b c x y kd kb kc m hf => ?_,
    fun s t d b c kd m hf ht => ?_⟩
  · intro w n v lo hi clamp hmem
    have hv : ∀ {x}, x < 2 ^ w → readInt t x = v x := fun hx => readInt_eq hx
    have hclamp : ∀ x, satT t x = clamp x := satT_eq_clampTo t
    have hmin : ∀ x y, x < 2 ^ w → y < 2 ^ w → plain (if readInt t y < readInt t x then y else x) = (if v x ≤ v y then x else y, 0) := by
      intro x y hx hy
      simp only [hv hx, hv hy, ← not_le, ite_not]; rfl
    have hmax : ∀ x y, x < 2 ^ w → y < 2 ^ w → plain (if readInt t x < readInt t y then y else x) = (if v x ≤ v y then y else x, 0) := by
      intro x y hx hy
      rcases lt_trichotomy (readInt t x) (readInt t y) with h | h | h
      · rw [if_pos h, if_pos (by rw [← hv hx, ← hv hy]; exact h.le)]; rfl
      · rw [readInt_inj hx hy h, ite_self, ite_self]; rfl
      · rw [if_neg (not_lt.mpr h.le), if_neg (by rw [← hv hx, ← hv hy]; exact not_le.mpr h)]; rfl
    have hflows : ∀ {g : Nat → Nat → Fp}, (∀ x y, x < 2 ^ w → y < 2 ^ w → g x y = f x y) → vInt2 s t d b c m g =
        .next (s.stepped (s.putLanes w d m fun j => f (lane (s.me.getV b) w j) (lane (s.me.getV c) w j))) := fun h =>
      vInt2_flows hf d b c m h
    simp only [List.mem_cons, List.not_mem_nil, or_false, Prod.mk.injEq] at hmem
    rcases hmem with ⟨rfl, hg⟩ | ⟨rfl, hg⟩ | ⟨rfl, hg⟩ | ⟨rfl, hg⟩ | ⟨rfl, hg⟩ | ⟨rfl, hg⟩ | ⟨rfl, hg⟩ | ⟨rfl, hg⟩ | ⟨rfl, hg⟩ |
      ⟨rfl, hg⟩ | ⟨rfl, hg⟩ | ⟨rfl, hg⟩ | ⟨rfl, hg⟩ | ⟨rfl, hg⟩ | ⟨rfl, hg⟩
    · exact (hflows fun x y hx hy => by rw [hg]; rfl : execVadd t d b c m s = _)
    · exact (hflows fun x y hx hy => by rw [hg]; exact congrArg plain (wrap_sub hy) : execVsub t d b c m s = _)
    · exact (hflows fun x y hx hy => by rw [hg]; rfl : execVmul t d b c m s = _)
    · exact (hflows fun x y hx hy => by rw [hg]; rw [hv hx, hv hy]; rfl : execVmulh t d b c m s = _)
    · exact (hflows fun x y hx hy => by rw [hg]; rfl : execVand t d b c m s = _)
    · exact (hflows fun x y hx hy => by rw [hg]; rfl : execVor t d b c m s = _)
    · exact (hflows fun x y hx hy => by rw [hg]; rfl : execVxor t d b c m s = _)
    · exact (hflows fun x y hx hy => by rw [hg]; rfl : execVandn t d b c m s = _)
    · exact (hflows fun x y hx hy => by rw [hg]; rfl : execVsll t d b c m s = _)
    · exact (hflows fun x y hx hy => by rw [hg]; exact congrArg plain (shr_eq hx y) : execVsrl t d b c m s = _)
    · exact (hflows fun x y hx hy => by rw [hg]; exact congrArg plain (sar_eq w x y) : execVsra t d b c m s = _)
    · exact (hflows fun x y hx hy => by rw [hg]; exact hmin x y hx hy : execVmin t d b c m s = _)
    · exact (hflows fun x y hx hy => by rw [hg]; exact hmax x y hx hy : execVmax t d b c m s = _)
    · exact (hflows fun x y hx hy => by rw [hg]; rw [hv hx, hv hy, hclamp] : execVadds t d b c m s = _)
    · exact (hflows fun x y hx hy => by rw [hg]; rw [hv hx, hv hy, hclamp] : execVsubs t d b c m s = _)
  · intro w q act
    have hact : ∀ {g f : Nat → Fp}, (∀ y, y < 2 ^ w → g y = f y) → vInt1 s t d b m g = act f := fun h => vInt1_flows hf d b m h
    exact ⟨(hact fun y _ => satS_natAbs_sext (width_pos t) y : execVabs t d b m s = _),
      (hact fun y hy => congrArg plain (wrap_neg hy) : execVneg t d b m s = _),
      (hact fun _ _ => rfl : execVaddi t d b n m s = _), (hact fun _ _ => rfl : execVandi t d b n m s = _),
      (hact fun _ _ => rfl : execVori t d b n m s = _), (hact fun _ _ => rfl : execVslli t d b k m s = _),
      (hact fun _ hy => congrArg plain (shr_eq hy _) : execVsrli t d b k m s = _),
      (hact fun y _ => congrArg plain (sar_eq w y _) : execVsrai t d b k m s = _), retire_flows hf _, retire_flows hf _,
      vli16_flows hf d n, vli32_flows hf d l, vli64_flows hf d l⟩
  · intro w v p q
    have hkmovx : (s.me.getS y).setWidth 32 = (s.me.getS y).extractLsb' 0 32 := BitVec.setWidth_eq_extractLsb' (by decide)
    exact ⟨(vCmp_flows hf t kd b c m _ : execVcmpeq t kd b c m s = _), (vCmp_flows hf t kd b c m _ : execVcmplt t kd b c m s = _),
      (vCmp_flows hf t kd b c m _ : execVcmple t kd b c m s = _), vsel_flows hf t d b c m,
      retire_flows hf _, retire_flows hf _, retire_flows hf _, retire_flows hf _, retire_flows hf _,
      hkmovx ▸ retire_flows hf _, retire_flows hf _, kpopc_flows hf x kb, kfirst_flows hf x kb⟩
  · simp only [← vFmt_of_mem ht]
    exact ⟨fun hr => ⟨needRmode_flows hr hf _, needRmode_flows hr hf _, needRmode_flows hr hf _, needRmode_flows hr hf _,
        needRmode_flows hr hf _, needRmode_flows hr hf _, (needRmode_ok hr _).trans (retireAfter_flows hf _ _),
        (needRmode_ok hr _).trans (retireAfter_flows hf _ _)⟩,
      retire_flows hf _, retire_flows hf _, retire_flows hf _, retire_flows hf _, retire_flows hf _, retire_flows hf _,
      retire_flows hf _, retire_flows hf _, retire_flows hf _⟩

end Sys2Proof.Machine
end

section
/-! SUPPORT. What the end of a head of the queue, a reply and an asynchronous trap leave of the state (R91, R200, R232), and the writes of
an engine to a scratchpad where no form waits (R259, R303, R350). -/
namespace Sys2Proof.Machine

/-! ## A sequence of small changes -/

/-- t has the memory of s and the flags of its contexts, the same cores are saved, and no completed command and no pending trap of an
asynchronous operation is lost. -/
structure GoesOn (s t : State) : Prop where
  mem : SameMem s t
  fstat : ∀ c, (t.ctx c).fstat = (s.ctx c).fstat
  asyncs : ∀ c, (s.ctx c).asyncs ⊆ (t.ctx c).asyncs
  done : ∀ cl, (s.clu cl).done ⊆ (t.clu cl).done
  saved : ∀ n asid, t.savedFor n asid = s.savedFor n asid

namespace GoesOn
theorem refl (s : State) : GoesOn s s := ⟨.refl s, fun _ => rfl, fun _ => List.Subset.refl _, fun _ => List.Subset.refl _, fun _ _ => rfl⟩
theorem trans {s t u : State} (h : GoesOn s t) (k : GoesOn t u) : GoesOn s u :=
  ⟨h.mem.trans k.mem, fun c => (k.fstat c).trans (h.fstat c), fun c => List.Subset.trans (h.asyncs c) (k.asyncs c),
    fun cl => List.Subset.trans (h.done cl) (k.done cl), fun n asid => (k.saved n asid).trans (h.saved n asid)⟩
theorem foldl {α : Type} {f : State → α → State} (hf : ∀ s x, GoesOn s (f s x)) (l : List α) (s : State) : GoesOn s (l.foldl f s) :=
  List.foldlRecOn l f (refl s) fun t ht x _ => ht.trans (hf t x)
theorem post (s : State) (e : Instr) : GoesOn s (s.post e) :=
  ⟨.post s e, fun _ => rfl, fun _ => List.Subset.refl _, fun _ => List.Subset.refl _, fun _ _ => rfl⟩
theorem mapCtx (s : State) (c : Nat) (f : Ctx → Ctx) (hf : (f (s.ctx c)).fstat = (s.ctx c).fstat)
    (ha : (s.ctx c).asyncs ⊆ (f (s.ctx c)).asyncs) : GoesOn s (s.mapCtx c f) := by
  refine ⟨mapCtx_sameMem s c f, fun d => ?_, fun d => ?_, fun _ => List.Subset.refl _, fun _ _ => rfl⟩ <;> rw [ctx_mapCtx] <;> split
  · next h => rw [h]; exact hf
  · rfl
  · next h => rw [h]; exact ha
  · exact List.Subset.refl _
theorem mapClu (s : State) (cl : Nat) (f : Cluster → Cluster) (hf : (s.clu cl).done ⊆ (f (s.clu cl)).done) : GoesOn s (s.mapClu cl f) := by
  refine ⟨mapClu_sameMem s cl f, fun _ => rfl, fun _ => List.Subset.refl _, fun n => ?_, fun _ _ => rfl⟩
  rw [clu_mapClu]
  split
  · next h => rw [h]; exact hf
  · exact List.Subset.refl _
theorem mapCore (s : State) (n : Nat) (f : Core → Core) (hm : (f (s.core n)).mode = (s.core n).mode)
    (hs : (f (s.core n)).saved.map (·.workAsid) = (s.core n).saved.map (·.workAsid)) : GoesOn s (s.mapCore n f) := by
  refine ⟨mapCore_sameMem s n f, fun _ => rfl, fun _ => List.Subset.refl _, fun _ => List.Subset.refl _, fun m asid => ?_⟩
  have hsome : (f (s.core n)).saved.isSome = (s.core n).saved.isSome := by
    rw [← Option.isSome_map (f := (·.workAsid)), hs, Option.isSome_map]
  unfold State.savedFor
  rw [core_mapCore]
  split
  · next h => rw [h]; dsimp only; rw [hm, hs, hsome]
  · rfl
theorem mapSaved (s : State) (n : Nat) (f : Saved → Saved) (hf : ∀ k, (f k).workAsid = k.workAsid) : GoesOn s (s.mapSaved n f) := by
  refine mapCore s n _ rfl ?_
  rw [Option.map_map]
  exact congrArg (fun g => (s.core n).saved.map g) (funext hf)
theorem mapOmu (s : State) (cl : Nat) (f : Omu → Omu) : GoesOn s (s.mapOmu cl f) := mapClu s cl _ (List.Subset.refl _)
theorem wake (s : State) (c : Nat) : GoesOn s (s.wake c) := mapCtx s c _ rfl (List.Subset.refl _)
theorem setX (s : State) (c : Nat) (d : XR) (v : Word) : GoesOn s (s.mapCtx c fun x => x.setX d v) :=
  mapCtx s c _ (setX_fstat _ d v) (by rw [setX_asyncs]; exact List.Subset.refl _)
theorem finishHead (s : State) (c : Nat) : GoesOn s (s.finishHead c) :=
  (mapCtx s c (fun x => x.stepTo x.nextPc) rfl (List.Subset.refl _)).trans (wake _ c)
theorem reply (s : State) (c : Nat) : GoesOn s (s.reply c) := by
  unfold State.reply
  split
  · exact (mapCtx s c _ rfl (List.Subset.refl _)).trans (wake _ c)
  · exact refl s
theorem seeLaunch (s : State) (n : Nat) : GoesOn s (s.seeLaunch n) := by
  unfold State.seeLaunch
  split
  · exact post s _
  · exact refl s
theorem acquireOf (s : State) (c : Nat) (sc : Scope) (rs : List ReadTag) : GoesOn s (s.acquireOf c sc rs) := by
  have stamp : ∀ (t : State) (f : Core → Core) n, (f (t.core (coreOf c))).mode = (t.core (coreOf c)).mode →
      (f (t.core (coreOf c))).saved = (t.core (coreOf c)).saved → GoesOn t { t.mapCore (coreOf c) f with stamp := n } := by
    intro t f n hm hs
    obtain ⟨mem, fstat, asyncs, done, saved⟩ := mapCore t (coreOf c) f hm (by rw [hs])
    exact ⟨mem, fstat, asyncs, done, saved⟩
  unfold State.acquireOf
  dsimp only
  split
  · exact (mapCore s (coreOf c) _ rfl rfl).trans (stamp _ _ _ rfl rfl)
  · exact stamp _ _ _ rfl rfl
theorem raiseAsync (s : State) (c asid cause : Nat) (val : Word) : GoesOn s (s.raiseAsync c asid cause val) := by
  unfold State.raiseAsync
  dsimp only
  split
  · exact mapSaved s _ _ fun _ => rfl
  · have hput := mapCtx s c (fun x => { x with asyncs := x.asyncs ++ [⟨cause, val⟩] }) rfl (List.subset_append_left _ _)
    split
    · exact hput.trans (post _ _)
    · exact hput
/-- What goes on when a queue does (R200): a PHCRC with its result ends, and events are posted. -/
theorem omuNext (cl n : Nat) (s : State) : GoesOn s (s.omuNext cl n) := by
  induction n generalizing s with
  | zero => exact refl s
  | succ n ih =>
    unfold State.omuNext
    split
    · exact refl s
    · exact post s _
    · exact post s _
    · exact post s _
    · exact ((mapOmu s cl _).trans (setX _ _ _ _)).trans ((finishHead _ _).trans (ih _))
    · exact refl s
theorem omuGo (s : State) (cl : Nat) : GoesOn s (s.omuGo cl) := omuNext cl _ s
end GoesOn

/-- An asynchronous trap of a context whose core is not saved is pending (R232). -/
theorem mem_asyncs_raiseAsync {s : State} {c asid : Nat} (h : s.savedFor (coreOf c) asid = false) (cause : Nat) (val : Word) :
    ⟨cause, val⟩ ∈ ((s.raiseAsync c asid cause val).ctx c).asyncs := by
  have hput : ⟨cause, val⟩ ∈ ((s.mapCtx c fun x => { x with asyncs := x.asyncs ++ [⟨cause, val⟩] }).ctx c).asyncs := by
    rw [ctx_mapCtx_same]; exact List.mem_append_right _ (List.mem_singleton.mpr rfl)
  unfold State.raiseAsync
  rw [h, if_neg Bool.false_ne_true]
  dsimp only
  split
  · exact hput
  · exact hput

/-! ## A command completes (R350, R364) -/

theorem mem_keepDone (l : List Done) (d : Done) : d ∈ keepDone l d := List.mem_append_right _ (List.mem_singleton.mpr rfl)
/-- The status of a command stands among its cluster's completed commands, and no AWAIT waits for it. -/
def State.noteDone (s : State) (cl kind seq status : Nat) (sc : Scope) : State :=
  s.mapClu cl fun c => { c with done := keepDone c.done ⟨kind, seq, status, sc⟩,
                                awaits := c.awaits.filter fun a => !(a.kind == kind && a.seq == seq) }
/-- What a completion does beside noting the status. -/
theorem complete_goesOn (s : State) (cl kind seq status : Nat) (sc : Scope) (who asid : Nat) :
    GoesOn (s.noteDone cl kind seq status sc) (s.complete cl kind seq status sc who asid) := by
  have look : ∀ u : State, GoesOn u (if (u.ctx who).run = .halted then u.seeLaunch (coreOf who) else u) := fun u => by
    split
    · exact .seeLaunch u _
    · exact .refl u
  have fault : ∀ u : State, GoesOn u (if [1, 2, 3, 4, 6].contains status then u.raiseAsync who asid 0x29 (tokenOf kind seq) else u) := fun u => by
    split
    · exact .raiseAsync u _ _ _ _
    · exact .refl u
  have answer : ∀ (u : State) (a : Await), GoesOn u
      (((u.acquireOf a.ctx (awaitScope kind sc) []).replyX a.ctx a.d (w64 status) false).reply a.ctx) := fun u a =>
    ((GoesOn.acquireOf u _ _ _).trans (.setX _ _ _ _)).trans (.reply _ _)
  exact (GoesOn.foldl answer _ _).trans ((look _).trans (fault _))
theorem noteDone_sameMem (s : State) (cl kind seq status : Nat) (sc : Scope) : SameMem s (s.noteDone cl kind seq status sc) :=
  mapClu_sameMem s cl _
theorem mem_done_complete (s : State) (cl kind seq status : Nat) (sc : Scope) (who asid : Nat) :
    ⟨kind, seq, status, sc⟩ ∈ ((s.complete cl kind seq status sc who asid).clu cl).done := by
  refine (complete_goesOn s cl kind seq status sc who asid).done cl ?_
  rw [State.noteDone, clu_mapClu, if_pos rfl]
  exact mem_keepDone _ _

/-! ## Flags of an asynchronous operation (R50) -/

/-- What is kept of a core that is away notes the flags for a context. -/
def State.keepFlags (s : State) (c asid : Nat) (f : Word) : State :=
  if (s.core (coreOf c)).mode == .frozen || s.savedFor (coreOf c) asid then
    s.mapSaved (coreOf c) fun k => { k with flags := tset k.flags (ctxNo c) (tget k.flags (ctxNo c) 0 ||| f) }
  else s
/-- A context that has merged flags in a cycle. -/
def Ctx.merging (cycle : Nat) (f : Word) (c : Ctx) : Ctx :=
  { c.flag f with merged := (cycle, if c.merged.1 = cycle then c.merged.2 ||| f else f),
                  undo := c.undo.map fun u => { u with flags := u.flags &&& ~~~f } }
theorem keepFlags_goesOn (s : State) (c asid : Nat) (f : Word) : GoesOn s (s.keepFlags c asid f) := by
  unfold State.keepFlags
  split
  · exact .mapSaved s _ _ fun _ => rfl
  · exact .refl s
theorem keepFlags_ctxs (s : State) (c asid : Nat) (f : Word) : (s.keepFlags c asid f).ctxs = s.ctxs := by
  unfold State.keepFlags; split <;> rfl
theorem keepFlags_clus (s : State) (c asid : Nat) (f : Word) : (s.keepFlags c asid f).clus = s.clus := by
  unfold State.keepFlags; split <;> rfl
/-- A context whose core is not saved merges the flags itself. -/
theorem mergeFlags_unsaved {s : State} {c asid : Nat} (h : s.savedFor (coreOf c) asid = false) (f : Word) :
    s.mergeFlags c asid f = (s.keepFlags c asid f).mapCtx c (Ctx.merging (s.keepFlags c asid f).cycle f) :=
  if_neg (by rw [Bool.not_eq_true]; exact ((keepFlags_goesOn s c asid f).saved _ _).trans h)
theorem mergeFlags_sameMem {s : State} {c asid : Nat} (h : s.savedFor (coreOf c) asid = false) (f : Word) :
    SameMem s (s.mergeFlags c asid f) := by
  rw [mergeFlags_unsaved h]
  exact (keepFlags_goesOn s c asid f).mem.trans (mapCtx_sameMem _ c _)
theorem mergeFlags_savedFor {s : State} {c asid : Nat} (h : s.savedFor (coreOf c) asid = false) (f : Word) (n a : Nat) :
    (s.mergeFlags c asid f).savedFor n a = s.savedFor n a := by
  rw [mergeFlags_unsaved h]
  exact (keepFlags_goesOn s c asid f).saved n a
theorem mergeFlags_clu {s : State} {c asid : Nat} (h : s.savedFor (coreOf c) asid = false) (f : Word) (cl : Nat) :
    (s.mergeFlags c asid f).clu cl = s.clu cl := by
  rw [mergeFlags_unsaved h]
  exact congrArg (fun t => tget t cl Cluster.reset) (keepFlags_clus s c asid f)
theorem mergeFlags_fstat {s : State} {c asid : Nat} (h : s.savedFor (coreOf c) asid = false) (f : Word) :
    ((s.mergeFlags c asid f).ctx c).fstat = (s.ctx c).fstat ||| f := by
  rw [mergeFlags_unsaved h, ctx_mapCtx_same, State.ctx, keepFlags_ctxs]
  rfl

/-! ## Words that no form waits on (R303) -/

/-- No full/empty form waits at a port. -/
def State.noneWait (s : State) : Prop := ∀ n, (s.core n).feq = []

theorem serveAll_of_noneWait {s : State} (h : s.noneWait) (w : Nat) : s.serveAll w = s := serve_nil (h _)
theorem serveCore_of_noneWait {s : State} (h : s.noneWait) (n : Nat) : s.serveCore n = s := by
  unfold State.serveCore
  rw [h]; rfl
theorem noneWait_of_cores {s t : State} (h : t.cores = s.cores) (hs : s.noneWait) : t.noneWait := fun n => by
  rw [State.core, h]; exact hs n

/-! ## An engine's writes to a scratchpad (R259, R350) -/

/-- t has the cores, the contexts and the OMUs of s. -/
structure SameUnits (s t : State) : Prop where
  cores : t.cores = s.cores
  ctxs : t.ctxs = s.ctxs
  omu : ∀ cl, t.omu cl = s.omu cl

namespace SameUnits
theorem refl (s : State) : SameUnits s s := ⟨rfl, rfl, fun _ => rfl⟩
theorem trans {s t u : State} (h : SameUnits s t) (k : SameUnits t u) : SameUnits s u :=
  ⟨k.cores.trans h.cores, k.ctxs.trans h.ctxs, fun cl => (k.omu cl).trans (h.omu cl)⟩
theorem ctx {s t : State} (h : SameUnits s t) (c : Nat) : t.ctx c = s.ctx c := by unfold State.ctx; rw [h.ctxs]
theorem core {s t : State} (h : SameUnits s t) (n : Nat) : t.core n = s.core n := by unfold State.core; rw [h.cores]
theorem savedFor {s t : State} (h : SameUnits s t) (n asid : Nat) : t.savedFor n asid = s.savedFor n asid := by
  unfold State.savedFor; rw [h.core]
theorem noneWait {s t : State} (h : SameUnits s t) (hs : s.noneWait) : t.noneWait := noneWait_of_cores h.cores hs
theorem store (s : State) (a n v : Nat) (bad : Bool) : SameUnits s (s.store a n v bad) := by cases bad <;> exact ⟨rfl, rfl, fun _ => rfl⟩
theorem mapClu (s : State) (b : Nat) {f : Cluster → Cluster} (hf : ∀ k, (f k).omu = k.omu) : SameUnits s (s.mapClu b f) := by
  refine ⟨rfl, rfl, fun cl => ?_⟩
  unfold State.omu
  rw [clu_mapClu]
  split
  · next h => rw [h]; exact hf _
  · rfl
theorem traceWrite (s : State) (c : Nat) (old : WTag) (w b : Nat) : SameUnits s (s.traceWrite c old w b) := by
  have traced : ∀ (r : Nat × State) (m : Nat) (f : Cluster → Cluster), (∀ k, (f k).omu = k.omu) → SameUnits s r.2 →
      SameUnits s (if r.1 = 0 then r.2.mapClu m f else r.2) := fun r m f hf h => by
    split
    · exact h.trans (.mapClu _ m hf)
    · exact h
  unfold State.traceWrite
  dsimp only
  split
  · refine traced _ _ _ (by intro _; rfl) ?_
    split <;> exact ⟨rfl, rfl, fun _ => rfl⟩
  · exact .refl s
theorem tagWrite (s : State) (c : Nat) (rel : Option Scope) (home : Bool) (w : Nat) : SameUnits s (s.tagWrite c rel home w) := by
  unfold State.tagWrite State.tagAt
  split
  · exact ⟨rfl, rfl, fun _ => rfl⟩
  · exact (traceWrite s c _ w _).trans ⟨rfl, rfl, fun _ => rfl⟩
end SameUnits

/-- A write to a scratchpad word that no form waits on: the bytes, a tag and the full bit. -/
theorem engWrite_spad {s : State} (hq : s.noneWait) {a : Nat} (ha : 2 ^ 52 ≤ a) (c : Nat) (sc : Scope) (n v : Nat) (bad : Bool) :
    s.engWrite c sc a n v bad = ((s.store a n v bad).tagWrite c (some sc) true a).setFull a := by
  have hspad : isSpad a = true := decide_eq_true ha
  have hremote : isRemote a = false := by rw [isRemote, hspad]; rfl
  have hwait : State.noneWait (((s.store a n v bad).tagWrite c (some sc) true a).setFull a) :=
    ((SameUnits.store s a n v bad).trans (.tagWrite _ c (some sc) true a)).noneWait hq
  unfold State.engWrite State.engRead State.handFlit
  simp only [hspad, hremote, if_true, Bool.false_eq_true, if_false]
  exact serveAll_of_noneWait hwait a

/-- What the scratchpad writes of a unit leave: t has the units of s, canonical memory, and every word full that s has full. -/
structure SpadWrites (s t : State) : Prop where
  units : SameUnits s t
  form : t.form
  full : ∀ w, s.isFull w = true → t.isFull w = true

theorem SpadWrites.refl {s : State} (h : s.form) : SpadWrites s s := ⟨.refl s, h, fun _ h => h⟩
theorem SpadWrites.trans {s t u : State} (h : SpadWrites s t) (k : SpadWrites t u) : SpadWrites s u :=
  ⟨h.units.trans k.units, k.form, fun w hw => k.full w (h.full w hw)⟩

theorem isFull_setFull_of {s : State} {w : Nat} (h : s.isFull w = true) (a : Nat) : (s.setFull a).isFull w = true := by
  have hmem : w ∉ s.empties := by simpa [State.isFull] using h
  have hout : w ∉ kdel s.empties a := fun hin => hmem ((mem_kdel _ _ _).mp hin).1
  simpa [State.isFull, State.setFull] using hout

section EngWrite
variable {s : State} {a : Nat} (hq : s.noneWait) (ha : 2 ^ 52 ≤ a) (c : Nat) (sc : Scope) (n v : Nat) (bad : Bool)
include hq ha

/-- An engine's write to a scratchpad makes its word full (R259). -/
theorem engWrite_full : (s.engWrite c sc a n v bad).isFull a = true := by
  rw [engWrite_spad hq ha]
  exact isFull_setFull _ a
theorem byte_engWrite (x : Nat) : (s.engWrite c sc a n v bad).byte x = (s.wrN a n v).byte x := by
  rw [engWrite_spad hq ha, ← byte_store s a n v bad]
  exact congrArg (mget · x) (NotesOnly.tagWrite (s.store a n v bad) c (some sc) true a).mem.1
variable (hform : s.form)
include hform
theorem engWrite_spadWrites : SpadWrites s (s.engWrite c sc a n v bad) := by
  obtain ⟨hmem, hempties, hpoison, hcells⟩ := (NotesOnly.tagWrite (s.store a n v bad) c (some sc) true a).mem
  rw [engWrite_spad hq ha]
  refine ⟨((SameUnits.store s a n v bad).trans (.tagWrite _ c (some sc) true a)).trans ⟨rfl, rfl, fun _ => rfl⟩,
    form_setFull _ a ((form_store s a n v bad hform).congr hmem hempties hpoison hcells), fun w hw => isFull_setFull_of ?_ a⟩
  rw [State.isFull, hempties]
  exact (isFull_store s a n v bad w).trans hw
theorem rdN_engWrite : (s.engWrite c sc a n v bad).rdN a n = v % 256 ^ n :=
  (rdN_congr _ _ _ _ fun x _ _ => byte_engWrite hq ha c sc n v bad x).trans (rdN_wrN s a n v hform)
theorem byte_engWrite_out {x : Nat} (hx : x < a ∨ a + n ≤ x) : (s.engWrite c sc a n v bad).byte x = s.byte x :=
  (byte_engWrite hq ha c sc n v bad x).trans (byte_wrN_out s a n v x hform hx)
theorem rdN_engWrite_out {b m : Nat} (hb : b + m ≤ a ∨ a + n ≤ b) : (s.engWrite c sc a n v bad).rdN b m = s.rdN b m :=
  rdN_congr _ _ _ _ fun x _ _ => byte_engWrite_out hq ha c sc n v bad hform (by omega)
end EngWrite

end Sys2Proof.Machine
end

section
/-! SUPPORT. The queue of an OMU, and the rows and probes of a pass (R191 to R193, R200, R204, R221, R222). -/
namespace Sys2Proof.Machine

/-! ## The queue (R200) -/

theorem mem_of_firstOther {l : List OptCmd} {b b' : Bool} {x : OptCmd} (h : firstOther l b = some (x, b')) : x ∈ l := by
  induction l generalizing b with
  | nil => cases h
  | cons y l ih =>
    unfold firstOther at h
    split at h
    · exact List.mem_cons_of_mem y (ih h)
    · split at h
      · exact List.mem_cons_of_mem y (ih h)
      · cases h; exact List.mem_cons_self
/-- The pass that streams is the first command that the others wait for. -/
theorem firstOther_of_streaming {s : State} {cl : Nat} {p : Pass} (h : s.streaming cl = some p) :
    ∃ b, firstOther (s.omu cl).queue false = some (.pass p, b) := by
  unfold State.streaming at h
  split at h
  · next hf => cases h; exact ⟨_, hf⟩
  · cases h
theorem mem_queue_of_streaming {s : State} {cl : Nat} {p : Pass} (h : s.streaming cl = some p) : .pass p ∈ (s.omu cl).queue :=
  let ⟨_, hf⟩ := firstOther_of_streaming h
  mem_of_firstOther hf
/-- A queue with nothing in it does not go on. -/
theorem omuGo_of_empty {s : State} {cl : Nat} (h : (s.omu cl).queue = []) : s.omuGo cl = s := by
  unfold State.omuGo State.omuNext
  rw [h]; rfl

theorem mapOmu_sameMem (s : State) (cl : Nat) (f : Omu → Omu) : SameMem s (s.mapOmu cl f) := mapClu_sameMem s cl _
theorem putPass_sameMem (s : State) (cl : Nat) (p q : Pass) : SameMem s (s.putPass cl p q) := mapOmu_sameMem s cl _
theorem queue_putPass (s : State) (cl : Nat) (p q : Pass) :
    ((s.putPass cl p q).omu cl).queue = (s.omu cl).queue.map fun x => if x = .pass p then .pass q else x :=
  congrArg Omu.queue (omu_mapOmu s cl _)
theorem mem_queue_putPass {s : State} {cl : Nat} {p : Pass} (h : .pass p ∈ (s.omu cl).queue) (q : Pass) :
    .pass q ∈ ((s.putPass cl p q).omu cl).queue := by
  rw [queue_putPass]
  exact List.mem_map.mpr ⟨.pass p, h, if_pos rfl⟩
theorem queue_putPass_self (s : State) (cl : Nat) (p : Pass) : ((s.putPass cl p p).omu cl).queue = (s.omu cl).queue := by
  rw [queue_putPass]
  refine (List.map_congr_left fun x _ => ?_).trans (List.map_id _)
  split
  · next h => exact h.symm
  · rfl
theorem ebcmax_putPass (s : State) (cl : Nat) (p q : Pass) : ((s.putPass cl p q).omu cl).ebcmax = (s.omu cl).ebcmax := by
  rw [State.putPass, omu_mapOmu]

/-- The range table gets the blocks that a pass still needs, where no form waits for a block (R214). -/
theorem setRange_of_noneWait {s : State} (h : s.noneWait) (cl : Nat) (p : Pass) (bs : List Nat) :
    s.setRange cl p bs = s.mapClu cl fun c =>
      { c with ranges := if bs.isEmpty then c.ranges.filter (·.1 != p.id)
                         else c.ranges.map fun r => if r.1 = p.id then (p.id, bs) else r } := by
  unfold State.setRange
  refine serveCore_of_noneWait ?_ _
  exact h
theorem setRange_sameMem {s : State} (h : s.noneWait) (cl : Nat) (p : Pass) (bs : List Nat) : SameMem s (s.setRange cl p bs) := by
  rw [setRange_of_noneWait h]; exact mapClu_sameMem s cl _
theorem setRange_sameUnits {s : State} (h : s.noneWait) (cl : Nat) (p : Pass) (bs : List Nat) : SameUnits s (s.setRange cl p bs) := by
  rw [setRange_of_noneWait h]; exact .mapClu s cl fun _ => rfl

/-! ## A run of words in a scratchpad -/

/-- Part of a longer value. -/
theorem rdN_within (s : State) (a : Nat) {i k n : Nat} (h : i + k ≤ n) : s.rdN (a + i) k = s.rdN a n / 256 ^ i % 256 ^ k := by
  have hhigh := rdN_high s a i (n - i)
  have hlow := rdN_low s (a + i) k (n - i - k)
  rw [show i + (n - i) = n by omega] at hhigh
  rw [hlow, show k + (n - i - k) = n - i by omega, hhigh]

/-- A unit writes a value of m words to a scratchpad, word by word. -/
def State.engWords (s : State) (c : Nat) (sc : Scope) (a v : Nat) (bad : Bool) (m : Nat) : State :=
  (List.range m).foldl (fun (s : State) k => s.engWrite c sc (a + 8 * k) 8 (v / 2 ^ (64 * k) % 2 ^ 64) bad) s
/-- The value is read back, each word is full, and no other byte is changed. -/
theorem engWords_spec {s : State} (hform : s.form) (hq : s.noneWait) {a : Nat} (ha : 2 ^ 52 ≤ a) (c : Nat) (sc : Scope) (v : Nat) (bad : Bool)
    (m : Nat) : SpadWrites s (s.engWords c sc a v bad m) ∧ (s.engWords c sc a v bad m).rdN a (8 * m) = v % 256 ^ (8 * m) ∧
      (∀ k, k < m → (s.engWords c sc a v bad m).isFull (a + 8 * k) = true) ∧
      ∀ b, b < a ∨ a + 8 * m ≤ b → (s.engWords c sc a v bad m).byte b = s.byte b := by
  induction m with
  | zero => exact ⟨.refl hform, by simp [State.rdN, Nat.mod_one], fun k hk => absurd hk (Nat.not_lt_zero k), fun _ _ => rfl⟩
  | succ m ih =>
    obtain ⟨hwrites, hread, hfull, hbyte⟩ := ih
    have hstep : s.engWords c sc a v bad (m + 1) =
        (s.engWords c sc a v bad m).engWrite c sc (a + 8 * m) 8 (v / 2 ^ (64 * m) % 2 ^ 64) bad := by
      unfold State.engWords; rw [List.range_succ, List.foldl_append]; rfl
    generalize s.engWords c sc a v bad m = t at hwrites hread hfull hbyte hstep
    have htq : t.noneWait := hwrites.units.noneWait hq
    have hta : 2 ^ 52 ≤ a + 8 * m := by omega
    have hword := engWrite_spadWrites htq hta c sc 8 (v / 2 ^ (64 * m) % 2 ^ 64) bad hwrites.form
    have hbytes : (256 : Nat) ^ (8 * m) = 2 ^ (64 * m) := by rw [show (256 : Nat) = 2 ^ 8 from rfl, ← Nat.pow_mul]; congr 1; omega
    rw [hstep]
    refine ⟨hwrites.trans hword, ?_, fun k hk => ?_, fun b hb => ?_⟩
    · rw [Nat.mul_succ, rdN_add, rdN_engWrite_out htq hta c sc 8 _ bad hwrites.form (.inl le_rfl), hread,
        rdN_engWrite htq hta c sc 8 _ bad hwrites.form, Nat.pow_add, Nat.mod_mul, hbytes,
        show (256 : Nat) ^ 8 = 2 ^ 64 from rfl, Nat.mod_mod]
    · rcases Nat.lt_succ_iff_lt_or_eq.mp hk with hlt | rfl
      · exact hword.full _ (hfull k hlt)
      · exact engWrite_full htq hta c sc 8 _ bad
    · rw [byte_engWrite_out htq hta c sc 8 _ bad hwrites.form (by omega)]
      exact hbyte b (by omega)

/-! ## A row (R193, R221, R222) -/

theorem passElem_ph16 {p : Pass} (h : p.ofm = .ph16) (i r : Nat) (nan : Bool) (c x : Int) (old : Nat) :
    passElem p i r nan c x old = (wrap c 16, 0) := by unfold passElem; rw [if_pos h]
/-- A row of PH16 codes is written as one value, 16 bits for each. -/
theorem writeRow_ph16 {p : Pass} (h : p.ofm = .ph16) (s : State) (i : Nat) (x : Option Int) (cs : List Int) (bad : Bool) :
    ∃ b, (s.writeRow p i x cs bad).1 = s.engWords p.who .cluster (p.rowKey i) (ofElems 16 (cs.map (wrap · 16))) b 16 := by
  have hvalues : ∀ old : Nat → Nat, ((cs.zipIdx).map fun c => passElem p i c.2 x.isNone c.1 (x.getD (-128)) (old c.2)).map (·.1) =
      cs.map (wrap · 16) := fun old => by
    simp only [passElem_ph16 h, List.map_map]
    conv_rhs => rw [← List.zipIdx_map_fst 0 cs, List.map_map]
    rfl
  refine ⟨bad || (p.form == .omxa && (s.badIn (p.rowKey i) p.rowBytes).isSome), ?_⟩
  have hofm : p.ofm ≠ .f32 := by rw [h]; decide
  have hbytes : p.rowBytes = 128 := if_neg hofm
  unfold State.writeRow State.engWords
  dsimp only
  rw [if_neg hofm, hbytes, ← hvalues fun k => if p.form = .omxa then s.rdN (p.rowKey i + 2 * k) 2 else 0]
  rfl

/-- A row of PH16 codes is written: the codes stand at its place, its words are full, and no other byte is changed. -/
theorem writeRow_ph16_spec {s : State} (hform : s.form) (hq : s.noneWait) {p : Pass} (h : p.ofm = .ph16) (i : Nat) (ha : 2 ^ 52 ≤ p.rowKey i)
    (x : Option Int) (cs : List Int) (bad : Bool) :
    let t := (s.writeRow p i x cs bad).1
    SpadWrites s t ∧ (∀ j, j < 64 → t.rdN (p.rowKey i + 2 * j) 2 = wrap (cs.getD j 0) 16) ∧
      (∀ k, k < 16 → t.isFull (p.rowKey i + 8 * k) = true) ∧ ∀ b, b < p.rowKey i ∨ p.rowKey i + 128 ≤ b → t.byte b = s.byte b := by
  intro t
  obtain ⟨b, ht⟩ := writeRow_ph16 h s i x cs bad
  obtain ⟨hwrites, hread, hfull, hbyte⟩ := engWords_spec hform hq ha p.who .cluster (ofElems 16 (cs.map (wrap · 16))) b 16
  change t = _ at ht
  rw [← ht] at hwrites hread hfull hbyte
  refine ⟨hwrites, fun j hj => ?_, hfull, hbyte⟩
  have hwrap : wrap (cs.getD j 0) 16 % 2 ^ 16 = wrap (cs.getD j 0) 16 := by unfold wrap; omega
  have helem := elem_ofElems 16 (cs.map (wrap · 16)) j
  rw [show (cs.map (wrap · 16)).getD j 0 = wrap (cs.getD j 0) 16 from List.getD_map cs 0 (wrap · 16), hwrap] at helem
  rw [rdN_within t (p.rowKey i) (show 2 * j + 2 ≤ 8 * 16 by omega), hread, ← helem, elem]
  generalize ofElems 16 (cs.map (wrap · 16)) = v
  have hsplit : 256 ^ (8 * 16) = 256 ^ (2 * j) * 256 ^ (128 - 2 * j) := by
    rw [← Nat.pow_add, show 2 * j + (128 - 2 * j) = 8 * 16 by omega]
  have hpow : 256 ^ (2 * j) = 2 ^ (16 * j) := by
    rw [show (256 : Nat) = 2 ^ 8 from rfl, ← Nat.pow_mul, show 8 * (2 * j) = 16 * j by omega]
  rw [hsplit, Nat.mod_mul_right_div_self, Nat.mod_mod_of_dvd _ (Nat.pow_dvd_pow 256 (by omega)), hpow,
    show (256 : Nat) ^ 2 = 2 ^ 16 from rfl]

/-- The codes of a row are read, and free values used: nothing else. -/
theorem rowCodes_state (s : State) (p : Pass) (i e : Nat) : ∃ f, (s.rowCodes p i e).2.2.2 = { s with free := f } := by
  unfold State.rowCodes
  dsimp only
  split
  · exact ⟨s.free, rfl⟩
  · exact ⟨s.free + 64, rfl⟩
/-- Of a pass that has ended early every code is 0 (R203). -/
theorem rowCodes_aborted {p : Pass} (h : p.aborted = true) (s : State) (i e j : Nat) : (s.rowCodes p i e).2.1.getD j 0 = 0 := by
  have hzero : ∀ l : List Int, (∀ c ∈ l, c = 0) → l.getD j 0 = 0 := fun l hl => by
    by_cases hj : j < l.length
    · rw [List.getD_eq_getElem _ _ hj]; exact hl _ (List.getElem_mem hj)
    · exact List.getD_eq_default _ _ (not_lt.mp hj)
  refine hzero _ fun c hc => ?_
  unfold State.rowCodes at hc
  dsimp only at hc
  split at hc
  · exact List.eq_of_mem_replicate hc
  · rw [if_pos h] at hc
    obtain ⟨d, hd, rfl⟩ := List.mem_map.mp hc
    rw [List.eq_of_mem_replicate hd]; rfl

/-- The pass after its row: the next one follows, or a probe where one is due (R204). -/
def Pass.afterRow (p q : Pass) : Pass := { q with row := p.row + 1, probe := !q.aborted && ((p.row + 1) % 1023 == 0 || p.row + 1 == q.rows) }
/-- A row of a pass is over, q being the pass with what the row has left in it. -/
def State.rowOver (s : State) (cl : Nat) (p q : Pass) : State :=
  ((if p.mayRerun || p.run == 1 then s else s.setRange cl p (p.needs (p.row + 1))).putPass cl p (p.afterRow q)).post
    (if (p.afterRow q).probe then .probeSymbol cl else if q.rows ≤ p.row + 1 then .passComplete cl else .passRowWrite cl)
theorem rowOver_spec {s : State} (hq : s.noneWait) {cl : Nat} {p : Pass} (hp : .pass p ∈ (s.omu cl).queue) (q : Pass) :
    SameMem s (s.rowOver cl p q) ∧ .pass (p.afterRow q) ∈ ((s.rowOver cl p q).omu cl).queue := by
  have hrange : SameMem s (if p.mayRerun || p.run == 1 then s else s.setRange cl p (p.needs (p.row + 1))) ∧
      SameUnits s (if p.mayRerun || p.run == 1 then s else s.setRange cl p (p.needs (p.row + 1))) := by
    split
    · exact ⟨.refl s, .refl s⟩
    · exact ⟨setRange_sameMem hq cl p _, setRange_sameUnits hq cl p _⟩
  obtain ⟨hmem, hunits⟩ := hrange
  exact ⟨hmem.trans ((putPass_sameMem _ cl p _).trans (.post _ _)), mem_queue_putPass (by rw [hunits.omu]; exact hp) _⟩

section RowWrite
variable {s : State} {cl : Nat} {p : Pass} (hs : s.streaming cl = some p) (hprobe : p.probe = false) (hrow : p.row < p.rows)
include hs hprobe hrow

/-- A row of the high vectors of a split pass only streams (R208). -/
theorem passRowWrite_high (hrun : p.run = 1) : exec (.passRowWrite cl) s = .next (s.rowOver cl p p) := by
  have hgo : (p.probe || decide (p.rows ≤ p.row)) = false := by rw [hprobe, decide_eq_false (not_le.mpr hrow)]; rfl
  change execPassRowWrite cl s = _
  unfold execPassRowWrite
  rw [hs]
  dsimp only
  rw [hgo, if_neg Bool.false_ne_true, if_pos hrun]
  rfl
/-- A row whose place can be reached, and holds nothing that another pass has yet to read, is read and written (R214, R222). -/
theorem passRowWrite_writes (hrun : p.run ≠ 1) (hreach : s.engReach p.who p.asid p.dst = .ok)
    (hfree : s.blocked p.id (p.rowKey p.row) p.rowBytes = false) :
    let c := s.rowCodes p p.row (p.ebc p.eFin)
    ∃ bad, let w := c.2.2.2.passRow { p with flags := p.flags ||| c.2.2.1 } p.row c.1 c.2.1 bad
      exec (.passRowWrite cl) s = .next (w.1.rowOver cl p w.2) := by
  have hgo : (p.probe || decide (p.rows ≤ p.row)) = false := by rw [hprobe, decide_eq_false (not_le.mpr hrow)]; rfl
  have hpass : s.passReach p p.dst = .ok := by
    unfold State.passReach
    split
    · rfl
    · exact hreach
  refine ⟨((s.badIn (p.srcKey (p.row0 + p.row)) 64).isSome || (s.badIn (p.scaleKey (p.row0 + p.row)) 2).isSome) && !p.aborted, ?_⟩
  change execPassRowWrite cl s = _
  unfold execPassRowWrite
  rw [hs]
  dsimp only
  rw [hgo, if_neg Bool.false_ne_true, if_neg hrun, hpass, hfree, Bool.and_false, if_neg Bool.false_ne_true]
  rfl
end RowWrite

end Sys2Proof.Machine
end

section
/-! SUPPORT. PASS_ROW_WRITE and PROBE_SYMBOL as they leave a pass and its unit (R204, R206, R221, R222, R230). -/
namespace Sys2Proof.Machine

theorem SameMem.byte {s t : State} (h : SameMem s t) (a : Nat) : t.byte a = s.byte a := congrArg (mget · a) h.1
theorem SameMem.isFull {s t : State} (h : SameMem s t) (w : Nat) : t.isFull w = s.isFull w :=
  congrArg (fun l : List Nat => !l.contains w) h.2.1

/-! ## PASS_ROW_WRITE (R193, R222) -/

section RowWrite
variable {s : State} {cl : Nat} {p : Pass} (hs : s.streaming cl = some p) (hprobe : p.probe = false) (hrow : p.row < p.rows)
  (hq : s.noneWait)
include hs hprobe hrow hq

theorem passRowWrite_high_effect (hrun : p.run = 1) :
    ∃ t q, exec (.passRowWrite cl) s = .next t ∧ KeepsMemory s t ∧ .pass q ∈ (t.omu cl).queue ∧ q.row = p.row + 1 := by
  obtain ⟨hmem, hqueue⟩ := rowOver_spec hq (mem_queue_of_streaming hs) p
  exact ⟨_, _, passRowWrite_high hs hprobe hrow hrun, hmem.keeps, hqueue, rfl⟩

theorem passRowWrite_ph16 (hform : s.form) (hrun : p.run ≠ 1) (hofm : p.ofm = .ph16) (hreach : s.engReach p.who p.asid p.dst = .ok)
    (hfree : s.blocked p.id (p.rowKey p.row) 128 = false) (ha : 2 ^ 52 ≤ p.rowKey p.row) :
    let a := p.rowKey p.row
    let r := s.rowCodes p p.row (p.ebc p.eFin)
    ∃ t q, exec (.passRowWrite cl) s = .next t ∧ .pass q ∈ (t.omu cl).queue ∧ q.row = p.row + 1 ∧
      q.probe = (!p.aborted && ((p.row + 1) % 1023 == 0 || p.row + 1 == p.rows)) ∧
      (p.aborted = true → ∀ j, j < 64 → t.rdN (a + 2 * j) 2 = 0) ∧
      (∀ j, j < 64 → t.rdN (a + 2 * j) 2 = wrap (r.2.1.getD j 0) 16) ∧ (∀ k, k < 16 → t.isFull (a + 8 * k) = true) ∧
      ∀ b, b < a ∨ a + 128 ≤ b → t.byte b = s.byte b := by
  intro a r
  have hbytes : p.rowBytes = 128 := if_neg (by rw [hofm]; decide)
  obtain ⟨bad, hexec⟩ := passRowWrite_writes hs hprobe hrow hrun hreach (by rw [hbytes]; exact hfree)
  obtain ⟨f, hread⟩ := rowCodes_state s p p.row (p.ebc p.eFin)
  let u : State := { s with free := f }
  let q : Pass := { p with flags := p.flags ||| r.2.2.1 }
  let w := u.passRow q p.row r.1 r.2.1 bad
  obtain ⟨hwrites, hcodes, hfull, hout⟩ := writeRow_ph16_spec (s := u) hform hq (p := q) hofm p.row ha r.1 r.2.1 bad
  have hqueue : .pass p ∈ ((u.writeRow q p.row r.1 r.2.1 bad).1.omu cl).queue := by rw [hwrites.units.omu]; exact mem_queue_of_streaming hs
  obtain ⟨hmem, hnext⟩ := rowOver_spec (hwrites.units.noneWait hq) hqueue w.2
  rw [hread] at hexec
  have hvalue : ∀ j, j < 64 → (w.1.rowOver cl p w.2).rdN (a + 2 * j) 2 = wrap (r.2.1.getD j 0) 16 := fun j hj =>
    (hmem.rdN _ _).trans (hcodes j hj)
  have hdone : exec (.passRowWrite cl) s = .next (w.1.rowOver cl p w.2) := hexec
  have hrowNext : (p.afterRow w.2).row = p.row + 1 := rfl
  have hdue : (p.afterRow w.2).probe = (!p.aborted && ((p.row + 1) % 1023 == 0 || p.row + 1 == p.rows)) := rfl
  refine ⟨w.1.rowOver cl p w.2, p.afterRow w.2, hdone, hnext, hrowNext, hdue, fun hab j hj => ?_, hvalue, fun k hk => (hmem.isFull _).trans (hfull k hk),
    fun b hb => (hmem.byte b).trans (hout b hb)⟩
  rw [hvalue j hj, rowCodes_aborted hab]
  rfl
end RowWrite

/-! ## A probe count (R204, R546) -/

/-- t has the memory, the contexts and the queue of s. -/
structure SameQueue (s t : State) (cl : Nat) : Prop where
  mem : SameMem s t
  ctxs : t.ctxs = s.ctxs
  queue : (t.omu cl).queue = (s.omu cl).queue

theorem setEbc_spec (s : State) (cl e : Nat) : SameQueue s (s.setEbc cl e) cl ∧ ((s.setEbc cl e).omu cl).ebcmax = e := by
  unfold State.setEbc
  dsimp only
  split
  · next h => exact ⟨⟨.refl s, rfl, rfl⟩, h⟩
  · let u := s.mapOmu cl fun o => { o with ebcmax := e, changed := s.cycle, gov := if o.gov = 2 then 1 else o.gov }
    have hu : u.omu cl = _ := omu_mapOmu s cl _
    have hqueue : (u.omu cl).queue = (s.omu cl).queue := by rw [hu]
    have hebc : (u.omu cl).ebcmax = e := by rw [hu]
    split
    · exact ⟨⟨(mapOmu_sameMem s cl _).trans (.post u _), rfl, hqueue⟩, hebc⟩
    · exact ⟨⟨mapOmu_sameMem s cl _, rfl, hqueue⟩, hebc⟩
/-- A probe's count lowers ebcmax to itself and never raises it. -/
theorem probed_spec (s : State) (cl n : Nat) :
    SameQueue s (s.probed cl n) cl ∧ ((s.probed cl n).omu cl).ebcmax = Nat.min (s.omu cl).ebcmax n := by
  let u := s.mapOmu cl fun o => { o with pmin := Nat.min o.pmin n }
  have hu : u.omu cl = _ := omu_mapOmu s cl _
  have hebc : (u.omu cl).ebcmax = (s.omu cl).ebcmax := by rw [hu]
  have hsame : SameQueue s u cl := ⟨mapOmu_sameMem s cl _, rfl, by rw [hu]⟩
  have hprobed : s.probed cl n = if n < (u.omu cl).ebcmax then u.setEbc cl n else u := rfl
  rw [hprobed, hebc]
  split
  · next h =>
    obtain ⟨⟨hmem, hctxs, hqueue⟩, hset⟩ := setEbc_spec u cl n
    exact ⟨⟨hsame.mem.trans hmem, hctxs.trans hsame.ctxs, hqueue.trans hsame.queue⟩, hset.trans (Nat.min_eq_right h.le).symm⟩
  · next h => exact ⟨hsame, hebc.trans (Nat.min_eq_left (not_lt.mp h)).symm⟩

/-! ## PRBE (R230) -/

theorem getX_congr {c e : Ctx} (h : c.x = e.x) (d : XR) : c.getX d = e.getX d := by unfold Ctx.getX; rw [h]
theorem nextPc_setX (c : Ctx) (d : XR) (v : Word) : (c.setX d v).nextPc = c.nextPc := by
  unfold Ctx.nextPc Ctx.heads; rw [setX_pc, setX_line]
theorem queue_omuDrop_singleton {s : State} {cl : Nat} {x : OptCmd} (h : (s.omu cl).queue = [x]) : ((s.omuDrop cl x).omu cl).queue = [] := by
  rw [State.omuDrop, omu_mapOmu]
  change (s.omu cl).queue.erase x = []
  rw [h]; exact List.erase_cons_head ..

/-- A head that waits has its result: its context takes it and goes on. -/
def State.headDone (s : State) (c : Nat) (d : XR) (v : Word) : State := (s.mapCtx c fun x => x.setX d v).finishHead c
theorem headDone_sameMem (s : State) (c : Nat) (d : XR) (v : Word) : SameMem s (s.headDone c d v) := ⟨rfl, rfl, rfl, rfl⟩
theorem headDone_omu (s : State) (c : Nat) (d : XR) (v : Word) (cl : Nat) : (s.headDone c d v).omu cl = s.omu cl := rfl
theorem headDone_ctx (s : State) (c : Nat) (d : XR) (v : Word) : ((s.headDone c d v).ctx c).getX d = (if d = 0 then 0 else v) ∧
    ((s.headDone c d v).ctx c).why = none ∧ ((s.headDone c d v).ctx c).pc = BitVec.ofNat 64 (s.ctx c).nextPc := by
  unfold State.headDone
  refine ⟨?_, finishHead_ctx_why _ c, ?_⟩
  · rw [getX_congr (finishHead_ctx_x _ c), ctx_mapCtx_same]; exact getX_setX_self _ d _
  · rw [finishHead_ctx_pc, ctx_mapCtx_same, nextPc_setX]

section Prbe
variable {s : State} {cl c : Nat} {d : XR} (hqueue : (s.omu cl).queue = [.prbe c d])
include hqueue

/-- What a PRBE does, by its count. -/
theorem exec_probeSymbol_prbe (hlive : (s.omu cl).live ≠ none) :
    let r := (s.omuDrop cl (.prbe c d)).freeNat 16
    let u := r.2.probed cl r.1
    exec (.probeSymbol cl) s = .next ((u.headDone c d
      (w64 (r.1 + (u.omu cl).ebcmax * 16 + if r.1 < (s.omu cl).ebcmax then 256 else 0))).omuGo cl) := by
  have hfirst : firstOther (s.omu cl).queue false = some (.prbe c d, false) := by rw [hqueue]; rfl
  have hsome : (s.omu cl).live.isNone = false := by rwa [Option.isNone_eq_false_iff, Option.isSome_iff_ne_none]
  change execProbeSymbol cl s = _
  unfold execProbeSymbol
  rw [hfirst]
  dsimp only
  rw [hsome, if_neg Bool.false_ne_true]
  rfl

theorem probeSymbol_prbe (hlive : (s.omu cl).live ≠ none) :
    ∃ t p, exec (.probeSymbol cl) s = .next t ∧ p < 16 ∧ (t.omu cl).ebcmax = Nat.min (s.omu cl).ebcmax p ∧
      (t.ctx c).getX d = (if d = 0 then 0 else
        BitVec.ofNat 64 (p + Nat.min (s.omu cl).ebcmax p * 16 + if p < (s.omu cl).ebcmax then 256 else 0)) ∧ (t.ctx c).why = none ∧
      (t.ctx c).pc = BitVec.ofNat 64 (s.ctx c).nextPc ∧ KeepsMemory s t := by
  have hexec := exec_probeSymbol_prbe hqueue hlive
  have hempty := queue_omuDrop_singleton hqueue
  have hebc0 : ((s.omuDrop cl (.prbe c d)).omu cl).ebcmax = (s.omu cl).ebcmax := by rw [State.omuDrop, omu_mapOmu]
  have hdrop : SameMem s (s.omuDrop cl (.prbe c d)) := mapOmu_sameMem s cl _
  have hctx : (s.omuDrop cl (.prbe c d)).ctx c = s.ctx c := rfl
  generalize s.omuDrop cl (.prbe c d) = t at hexec hempty hebc0 hdrop hctx
  have hp : (t.freeNat 16).1 < 16 := Nat.mod_lt _ (by decide)
  obtain ⟨⟨hmem, hctxs, hq⟩, hebc⟩ := probed_spec (t.freeNat 16).2 cl (t.freeNat 16).1
  have hmax : (((t.freeNat 16).2.probed cl (t.freeNat 16).1).omu cl).ebcmax = Nat.min (s.omu cl).ebcmax (t.freeNat 16).1 := by
    rw [hebc, ← hebc0]; rfl
  have hnone : (((t.freeNat 16).2.probed cl (t.freeNat 16).1).omu cl).queue = [] := hq.trans hempty
  have hkeep : SameMem s ((t.freeNat 16).2.probed cl (t.freeNat 16).1) := hdrop.trans ((freeNat_sameMem t 16).trans hmem)
  have hhead : ((t.freeNat 16).2.probed cl (t.freeNat 16).1).ctx c = s.ctx c := (congrArg (tget · c Ctx.reset) hctxs :).trans hctx
  dsimp only at hexec
  rw [hmax] at hexec
  generalize (t.freeNat 16).2.probed cl (t.freeNat 16).1 = u at hexec hmax hnone hkeep hhead
  generalize (t.freeNat 16).1 = p at hexec hp hmax
  rw [omuGo_of_empty (by rw [headDone_omu]; exact hnone)] at hexec
  obtain ⟨hd, hwhy, hpc⟩ := headDone_ctx u c d (w64 (p + Nat.min (s.omu cl).ebcmax p * 16 + if p < (s.omu cl).ebcmax then 256 else 0))
  rw [hhead] at hpc
  exact ⟨_, p, hexec, hp, hmax, hd, hwhy, hpc, (hkeep.trans (headDone_sameMem u c d _)).keeps⟩

theorem probeSymbol_prbe_empty (hlive : (s.omu cl).live = none) :
    ∃ t, exec (.probeSymbol cl) s = .next t ∧ (t.omu cl).ebcmax = (s.omu cl).ebcmax ∧ (t.omu cl).queue = [] ∧ KeepsMemory s t := by
  let r := (s.omuDrop cl (.prbe c d)).freeNat (2 ^ 64)
  let t := takeTrap r.2 c 0x3A (w64 r.1) (s.ctx c).pc false
  have homu : t.omu cl = (s.omuDrop cl (.prbe c d)).omu cl := by
    obtain ⟨cs, ks, l, m, h⟩ := takeTrap_module r.2 c 0x3A (w64 r.1) (s.ctx c).pc false
    change State.omu (takeTrap ..) cl = _
    rw [h]; rfl
  have hempty : (t.omu cl).queue = [] := by rw [homu]; exact queue_omuDrop_singleton hqueue
  have hexec : exec (.probeSymbol cl) s = .next t := by
    have hfirst : firstOther (s.omu cl).queue false = some (.prbe c d, false) := by rw [hqueue]; rfl
    change execProbeSymbol cl s = _
    unfold execProbeSymbol
    rw [hfirst]
    dsimp only
    rw [hlive]
    exact congrArg Host.Outcome.next (omuGo_of_empty hempty)
  refine ⟨t, hexec, ?_, hempty, ?_⟩
  · rw [homu, State.omuDrop, omu_mapOmu]
  · exact ((mapOmu_sameMem s cl _).trans (freeNat_sameMem _ _)).keeps.trans (takeTrap_memory r.2 c 0x3A (w64 r.1) (s.ctx c).pc false)
end Prbe

/-! ## The probes of a pass (R204, R206) -/

/-- Drawing probe counts uses free values: nothing else. -/
theorem drawProbes_state (s : State) (n : Nat) : ∃ f, (s.drawProbes n).2 = { s with free := f } := by
  induction n generalizing s with
  | zero => exact ⟨s.free, rfl⟩
  | succ n ih =>
    obtain ⟨f, hf⟩ := ih (s.freeNat 16).2
    exact ⟨f, hf⟩
theorem foldl_min_le (l : List Nat) (e : Nat) : l.foldl Nat.min e ≤ e := by
  induction l generalizing e with
  | nil => exact le_rfl
  | cons a l ih => exact (ih _).trans (Nat.min_le_left e a)

/-- The counts that a probe of a pass finds, with the state then: the first probe of a run draws the run's. -/
def State.probeCounts (s : State) (p : Pass) : List Nat × State :=
  if p.row = 0 then s.drawProbes (probeCount p.rows) else (p.probes, s)
/-- The ebc that a probe of a pass starts from. -/
def State.ebcBefore (s : State) (cl : Nat) (p : Pass) : Nat := if p.row = 0 then (s.omu cl).ebcmax else p.eNow
/-- The pass after a probe that found these counts and started from ebc e. -/
def Pass.afterProbe (p : Pass) (c : List Nat) (e : Nat) : Pass :=
  { p with probes := c.drop 1, probe := false, eNow := Nat.min e (c.headD 15)
           eFin := if p.row = 0 then c.foldl Nat.min e else p.eFin
           lowered := if p.ebc (Nat.min e (c.headD 15)) < p.ebc e ∧ p.run ≠ 1 ∧ !decide (p.row = 0) then p.row else p.lowered }
/-- A probe of a pass is over, q being the pass after it and n its count. -/
def State.probeOver (s : State) (cl : Nat) (p q : Pass) (n : Nat) : State :=
  if q.row = q.rows then ((s.putPass cl p q).probed cl n).post (.passComplete cl) else ((s.putPass cl p q).probed cl n).post (.passRowWrite cl)

theorem probePass_eq (s : State) (cl : Nat) (p : Pass) : probePass s cl p = (s.probeCounts p).2.probeOver cl p
    (p.afterProbe (s.probeCounts p).1 (s.ebcBefore cl p)) ((s.probeCounts p).1.headD 15) := rfl
theorem probeOver_spec {s : State} {cl : Nat} {p : Pass} (hp : .pass p ∈ (s.omu cl).queue) (q : Pass) (n : Nat) :
    SameMem s (s.probeOver cl p q n) ∧ .pass q ∈ ((s.probeOver cl p q n).omu cl).queue ∧
      ((s.probeOver cl p q n).omu cl).ebcmax = Nat.min (s.omu cl).ebcmax n := by
  obtain ⟨⟨hmem, -, hqueue⟩, hebc⟩ := probed_spec (s.putPass cl p q) cl n
  have hin : .pass q ∈ (((s.putPass cl p q).probed cl n).omu cl).queue := by rw [hqueue]; exact mem_queue_putPass hp q
  rw [ebcmax_putPass] at hebc
  have hkeep : SameMem s ((s.putPass cl p q).probed cl n) := (putPass_sameMem s cl p q).trans hmem
  unfold State.probeOver
  generalize (s.putPass cl p q).probed cl n = v at hin hebc hkeep
  split
  · exact ⟨hkeep.trans (.post v _), hin, hebc⟩
  · exact ⟨hkeep.trans (.post v _), hin, hebc⟩

section Probes
variable {s : State} {cl : Nat} {p : Pass} (hs : s.streaming cl = some p) (hprobe : p.probe = true)
include hs hprobe

theorem exec_probeSymbol_pass : exec (.probeSymbol cl) s = .next (probePass s cl p) := by
  obtain ⟨b, hfirst⟩ := firstOther_of_streaming hs
  change execProbeSymbol cl s = _
  unfold execProbeSymbol
  rw [hfirst]
  exact if_pos hprobe
/-- The opening probe of a run starts from ebcmax, and knows what the run will end with. -/
theorem probeSymbol_opening (hrow : p.row = 0) :
    ∃ t q, exec (.probeSymbol cl) s = .next t ∧ .pass q ∈ (t.omu cl).queue ∧ q.probe = false ∧ q.row = 0 ∧
      q.eFin ≤ q.eNow ∧ q.eNow ≤ (s.omu cl).ebcmax ∧ (t.omu cl).ebcmax ≤ (s.omu cl).ebcmax ∧ KeepsMemory s t := by
  obtain ⟨f, hf⟩ := drawProbes_state s (probeCount p.rows)
  have hcounts : (s.probeCounts p).2 = { s with free := f } := by rw [State.probeCounts, if_pos hrow, hf]
  have hlist : ∃ a l, (s.probeCounts p).1 = a :: l := by
    rw [State.probeCounts, if_pos hrow, probeCount, Nat.add_comm]
    exact ⟨_, _, rfl⟩
  obtain ⟨a, l, hal⟩ := hlist
  have hbefore : s.ebcBefore cl p = (s.omu cl).ebcmax := if_pos hrow
  have hexec := exec_probeSymbol_pass hs hprobe
  rw [probePass_eq, hcounts, hal, hbefore] at hexec
  obtain ⟨hmem, hqueue, hebc⟩ := probeOver_spec (s := { s with free := f }) (mem_queue_of_streaming hs)
    (p.afterProbe (a :: l) (s.omu cl).ebcmax) a
  refine ⟨_, _, hexec, hqueue, rfl, hrow, ?_, Nat.min_le_left _ _, hebc.trans_le (Nat.min_le_left _ _), hmem.keeps⟩
  rw [Pass.afterProbe]
  dsimp only
  rw [if_pos hrow]
  exact foldl_min_le l _
/-- A later probe lowers what the pass has by its own count. -/
theorem probeSymbol_later (hrow : p.row ≠ 0) :
    ∃ t q, exec (.probeSymbol cl) s = .next t ∧ .pass q ∈ (t.omu cl).queue ∧ q.probe = false ∧ q.row = p.row ∧
      q.eNow = Nat.min p.eNow (p.probes.headD 15) ∧ (t.omu cl).ebcmax = Nat.min (s.omu cl).ebcmax (p.probes.headD 15) ∧ KeepsMemory s t := by
  have hcounts : s.probeCounts p = (p.probes, s) := if_neg hrow
  have hbefore : s.ebcBefore cl p = p.eNow := if_neg hrow
  have hexec := exec_probeSymbol_pass hs hprobe
  rw [probePass_eq, hcounts, hbefore] at hexec
  obtain ⟨hmem, hqueue, hebc⟩ := probeOver_spec (mem_queue_of_streaming hs) (p.afterProbe p.probes p.eNow) (p.probes.headD 15)
  exact ⟨_, _, hexec, hqueue, rfl, rfl, rfl, hebc, hmem.keeps⟩
end Probes

end Sys2Proof.Machine
end

section
/-! SUPPORT. The end of a pass (R206, R207, R222 to R224). -/
namespace Sys2Proof.Machine

/-! ## Tags (R125, R222) -/

theorem tagWord_lt (e : Nat) (mark split lowered : Bool) (x : Int) : tagWord e mark split lowered x < 256 ^ 8 := by
  have hx : wrap x 8 < 256 := by unfold wrap; omega
  have he : e % 16 < 16 := Nat.mod_lt _ (by decide)
  unfold tagWord
  split <;> split <;> split <;> omega

/-- The tag words of rows, written one after another. -/
def State.tagged (s : State) (p : Pass) (f : Nat × Int → Nat) (l : List (Nat × Int)) : State :=
  l.foldl (fun (s : State) t => s.engWrite p.who .cluster (p.tagKey t.1) 8 (f t) false) s
/-- Each of them is read back and full, where no row has two; the words of other rows are left alone. -/
theorem tagged_spec {p : Pass} (htag : 2 ^ 52 ≤ p.tag) {f : Nat × Int → Nat} (hf : ∀ t, f t < 256 ^ 8) {l : List (Nat × Int)}
    (hl : (l.map (·.1)).Nodup) {s : State} (hform : s.form) (hq : s.noneWait) : SpadWrites s (s.tagged p f l) ∧
      (∀ t ∈ l, (s.tagged p f l).rdN (p.tagKey t.1) 8 = f t ∧ (s.tagged p f l).isFull (p.tagKey t.1) = true) ∧
      ∀ i, i ∉ l.map (·.1) → (s.tagged p f l).rdN (p.tagKey i) 8 = s.rdN (p.tagKey i) 8 := by
  induction l generalizing s with
  | nil => exact ⟨.refl hform, fun t ht => absurd ht List.not_mem_nil, fun _ _ => rfl⟩
  | cons t l ih =>
    rw [List.map_cons, List.nodup_cons] at hl
    obtain ⟨hnew, hrest⟩ := hl
    have ha : 2 ^ 52 ≤ p.tagKey t.1 := htag.trans (Nat.le_add_right _ _)
    have hword := engWrite_spadWrites hq ha p.who .cluster 8 (f t) false hform
    have hread : (s.engWrite p.who .cluster (p.tagKey t.1) 8 (f t) false).rdN (p.tagKey t.1) 8 = f t :=
      (rdN_engWrite hq ha p.who .cluster 8 (f t) false hform).trans (Nat.mod_eq_of_lt (hf t))
    have hfull := engWrite_full hq ha p.who .cluster 8 (f t) false
    have hother : ∀ i, i ≠ t.1 → (s.engWrite p.who .cluster (p.tagKey t.1) 8 (f t) false).rdN (p.tagKey i) 8 = s.rdN (p.tagKey i) 8 :=
      fun i hi => rdN_engWrite_out hq ha p.who .cluster 8 (f t) false hform (by unfold Pass.tagKey; omega)
    have hstep : s.tagged p f (t :: l) = (s.engWrite p.who .cluster (p.tagKey t.1) 8 (f t) false).tagged p f l := rfl
    generalize s.engWrite p.who .cluster (p.tagKey t.1) 8 (f t) false = u at hword hread hfull hother hstep
    obtain ⟨hwrites, hmem, hout⟩ := ih hrest hword.form (hword.units.noneWait hq)
    rw [hstep]
    refine ⟨hword.trans hwrites, fun r hr => ?_, fun i hi => ?_⟩
    · rcases List.mem_cons.mp hr with rfl | hr
      · exact ⟨(hout _ hnew).trans hread, hwrites.full _ hfull⟩
      · exact hmem r hr
    · rw [List.map_cons, List.mem_cons, not_or] at hi
      obtain ⟨hne, hin⟩ := hi
      exact (hout i hin).trans (hother i hne)

/-- The tags of a pass, where they can be reached (R206, R222). -/
theorem writeTags_spec {s : State} (hform : s.form) (hq : s.noneWait) {p : Pass} (hreach : s.engReach p.who p.asid p.tag = .ok)
    (hrows : (p.exps.map (·.1)).Nodup) (htag : 2 ^ 52 ≤ p.tag) (e : Nat) (all : Bool) :
    SpadWrites s (s.writeTags p e all) ∧ (p.toff = 0 → s.writeTags p e all = s) ∧
      (p.toff ≠ 0 → ∀ i x, (i, x) ∈ p.exps → (s.writeTags p e all).rdN (p.tagKey i) 8 = tagWord e p.mark p.split (all || i < p.lowered) x ∧
        (s.writeTags p e all).isFull (p.tagKey i) = true) := by
  have hpass : s.passReach p p.tag = .ok := by
    unfold State.passReach
    split
    · rfl
    · exact hreach
  by_cases h0 : p.toff = 0
  · have hsame : s.writeTags p e all = s := if_pos h0
    rw [hsame]
    exact ⟨.refl hform, fun _ => rfl, fun h => absurd h0 h⟩
  · have htags : s.writeTags p e all = s.tagged p (fun t => tagWord e p.mark p.split (all || t.1 < p.lowered) t.2) p.exps := by
      unfold State.writeTags
      rw [if_neg h0, hpass]
      rfl
    rw [htags]
    obtain ⟨hwrites, hmem, -⟩ := tagged_spec htag (fun t => tagWord_lt e p.mark p.split (all || t.1 < p.lowered) t.2) hrows hform hq
    exact ⟨hwrites, fun h => absurd h h0, fun _ i x hix => hmem (i, x) hix⟩

/-! ## A pass leaves the queue (R222, R232) -/

/-- A pass leaves the queue and the range table, and its flags are merged. -/
def State.passLeaves (s : State) (cl : Nat) (p : Pass) : State :=
  ((s.mapOmu cl fun o => { o with queue := o.queue.erase (.pass p) }).setRange cl p []).mergeFlags p.who p.asid p.flags
theorem passLeaves_spec {s : State} (hq : s.noneWait) (cl : Nat) {p : Pass} (hsaved : s.savedFor (coreOf p.who) p.asid = false) :
    SameMem s (s.passLeaves cl p) ∧ ((s.passLeaves cl p).ctx p.who).fstat = (s.ctx p.who).fstat ||| p.flags ∧
      (s.passLeaves cl p).savedFor (coreOf p.who) p.asid = false ∧
      ((s.passLeaves cl p).omu cl).queue = (s.omu cl).queue.erase (.pass p) := by
  let u := s.mapOmu cl fun o => { o with queue := o.queue.erase (.pass p) }
  have hu : u.noneWait := noneWait_of_cores rfl hq
  have hmem : SameMem s (u.setRange cl p []) := (mapOmu_sameMem s cl _).trans (setRange_sameMem hu cl p [])
  have hunits := setRange_sameUnits hu cl p []
  have hmode : (u.setRange cl p []).savedFor (coreOf p.who) p.asid = false := (hunits.savedFor _ _).trans hsaved
  have hctx : (u.setRange cl p []).ctx p.who = s.ctx p.who := hunits.ctx _
  have homu : ((u.setRange cl p []).omu cl).queue = (s.omu cl).queue.erase (.pass p) := by
    rw [hunits.omu, show u.omu cl = _ from omu_mapOmu s cl _]
  have hleaves : s.passLeaves cl p = (u.setRange cl p []).mergeFlags p.who p.asid p.flags := rfl
  rw [hleaves]
  generalize u.setRange cl p [] = t at hmem hmode hctx homu
  refine ⟨hmem.trans (mergeFlags_sameMem hmode _), ?_, (mergeFlags_savedFor hmode _ _ _).trans hmode, ?_⟩
  · rw [mergeFlags_fstat hmode, hctx]
  · rw [State.omu, mergeFlags_clu hmode]; exact homu

section End
variable {s : State} {p : Pass} (hq : s.noneWait) (cl : Nat) (hsaved : s.savedFor (coreOf p.who) p.asid = false) (e : Nat) (all : Bool)
include hq hsaved

/-- A pass with a token ends without a trap: its status stands for the token. -/
theorem passEnd_token {n : Nat} (hseq : p.seq = some n) : SameMem s (s.passEnd cl p e all none) ∧
    ((s.passEnd cl p e all none).ctx p.who).fstat = (s.ctx p.who).fstat ||| p.flags ∧
    ⟨0, n, p.status, .cluster⟩ ∈ ((s.passEnd cl p e all none).clu cl).done := by
  obtain ⟨hmem, hflags, -, -⟩ := passLeaves_spec hq cl hsaved
  have hend : s.passEnd cl p e all none = (s.passLeaves cl p).complete cl 0 n p.status .cluster p.who p.asid := by
    unfold State.passEnd; rw [hseq]; rfl
  rw [hend]
  generalize s.passLeaves cl p = u at hmem hflags
  have hgoes := complete_goesOn u cl 0 n p.status .cluster p.who p.asid
  exact ⟨hmem.trans ((noteDone_sameMem u cl 0 n p.status .cluster).trans hgoes.mem), (hgoes.fstat p.who).trans hflags,
    mem_done_complete u cl 0 n p.status .cluster p.who p.asid⟩
/-- A pass with a token that ends with an asynchronous trap: its token has the status of one. -/
theorem passEnd_trap {n : Nat} (hseq : p.seq = some n) (cause : Nat) : SameMem s (s.passEnd cl p e all (some cause)) ∧
    ⟨0, n, 7, .cluster⟩ ∈ ((s.passEnd cl p e all (some cause)).clu cl).done ∧
    ⟨cause, tokenOf 0 n⟩ ∈ ((s.passEnd cl p e all (some cause)).ctx p.who).asyncs := by
  obtain ⟨hmem, -, hunsaved, -⟩ := passLeaves_spec hq cl hsaved
  have hend : s.passEnd cl p e all (some cause) =
      ((s.passLeaves cl p).complete cl 0 n 7 .cluster p.who p.asid).raiseAsync p.who p.asid cause (tokenOf 0 n) := by
    unfold State.passEnd; rw [hseq]; rfl
  rw [hend]
  generalize s.passLeaves cl p = u at hmem hunsaved
  have hgoes := complete_goesOn u cl 0 n 7 .cluster p.who p.asid
  have hdone := mem_done_complete u cl 0 n 7 .cluster p.who p.asid
  have hmode := (hgoes.saved (coreOf p.who) p.asid).trans hunsaved
  have hnote := (noteDone_sameMem u cl 0 n 7 .cluster).trans hgoes.mem
  generalize u.complete cl 0 n 7 .cluster p.who p.asid = t at hdone hmode hnote
  have hraise := GoesOn.raiseAsync t p.who p.asid cause (tokenOf 0 n)
  exact ⟨hmem.trans (hnote.trans hraise.mem), hraise.done cl hdone, mem_asyncs_raiseAsync hmode cause (tokenOf 0 n)⟩
/-- A pass that an OMXW waits for ends: its context has the result. -/
theorem passEnd_register (hseq : p.seq = none) : SameMem s (s.passEnd cl p e all none) ∧
    ((s.passEnd cl p e all none).ctx p.who).fstat = (s.ctx p.who).fstat ||| p.flags ∧
    ((s.passEnd cl p e all none).omu cl).queue = (s.omu cl).queue.erase (.pass p) ∧
    ((s.passEnd cl p e all none).ctx p.who).getX p.d = if p.d = 0 then 0 else
      w64 (e + (if p.mark then 16 else 0) + (if p.split then 32 else 0) + (if all || 0 < p.lowered then 64 else 0)) := by
  obtain ⟨hmem, hflags, -, hqueue⟩ := passLeaves_spec hq cl hsaved
  let v := w64 (e + (if p.mark then 16 else 0) + (if p.split then 32 else 0) + (if all || 0 < p.lowered then 64 else 0))
  have hend : s.passEnd cl p e all none = ((s.passLeaves cl p).mapCtx p.who fun c => c.setX p.d v).reply p.who := by
    unfold State.passEnd; rw [hseq]; rfl
  rw [hend]
  generalize s.passLeaves cl p = u at hmem hflags hqueue
  have hgoes := (GoesOn.setX u p.who p.d v).trans (.reply _ p.who)
  refine ⟨hmem.trans hgoes.mem, (hgoes.fstat p.who).trans hflags, ?_, ?_⟩
  · rw [reply_ctxs]; exact hqueue
  · rw [reply_ctx_getX, ctx_mapCtx_same]; exact getX_setX_self _ p.d v
end End

end Sys2Proof.Machine
end

section
/-! SUPPORT. PASS_COMPLETE where nothing of the pass is held (R203, R206, R207, R222 to R224), and the codes of a row (R125, R205, R210). -/
namespace Sys2Proof.Machine

/-! ## Words that become empty (R207) -/

/-- Words become empty: where no form waits nothing else changes. -/
theorem emptied_eq {s : State} (hq : s.noneWait) (ws : List Nat) :
    ws.foldl (fun (s : State) w => (s.setEmpty w).serveAll w) s = { s with empties := ws.foldl kput s.empties } := by
  induction ws generalizing s with
  | nil => rfl
  | cons w ws ih =>
    have hw : State.noneWait (s.setEmpty w) := noneWait_of_cores rfl hq
    rw [List.foldl_cons, serveAll_of_noneWait hw, ih hw]
    rfl

/-! ## Reaching a scratchpad byte -/

/-- A scratchpad byte is reached as before where the cores and the remapping of its cluster are. -/
theorem engReach_spad {s t : State} {a : Nat} (ha : 2 ^ 52 ≤ a) (hcores : t.cores = s.cores)
    (hremap : ∀ n, (t.clu n).remap = (s.clu n).remap) (c asid : Nat) : t.engReach c asid a = s.engReach c asid a := by
  have hspad : isSpad a = true := decide_eq_true ha
  unfold State.engReach State.remapState State.remapOf State.savedFor State.core
  rw [if_pos hspad, if_pos hspad, hremap, hcores]
theorem remap_mapOmu (s : State) (cl : Nat) (f : Omu → Omu) (n : Nat) : ((s.mapOmu cl f).clu n).remap = (s.clu n).remap := by
  unfold State.mapOmu
  rw [clu_mapClu]
  split
  · next h => rw [h]
  · rfl

/-! ## PASS_COMPLETE -/

/-- A pass that does not run again, above its ebcmin and without a mark, is written its tags and ends. -/
theorem passOver_ends (s : State) (cl : Nat) {p : Pass} (hab : p.aborted = false) (hrun : p.run ≠ 1) (hebc : p.ebcmin ≤ p.ebc p.eNow)
    (hmark : p.mark = false) : s.passOver cl p =
      (((s.putPass cl p p).writeTags p (p.ebc p.eNow) false).passEnd cl p (p.ebc p.eNow) false none).omuGo cl := by
  have hlow : decide (p.ebc p.eNow < p.ebcmin) = false := decide_eq_false (not_lt.mpr hebc)
  have hsame : { p with mark := p.mark || (false && p.pol != .trap),
                        flags := p.flags ||| (if (p.mark || (false && p.pol != .trap)) = true then fEbclow else 0) } = p := by
    cases p; subst hmark; simp
  unfold State.passOver
  rw [if_neg (Bool.not_eq_true _ ▸ hab)]
  dsimp only
  rw [if_neg hrun, hlow, Bool.and_false, if_neg Bool.false_ne_true, hsame]
  rfl

section Complete
variable {s : State} {cl : Nat} {p : Pass} (hs : s.streaming cl = some p) (hprobe : p.probe = false) (hrow : p.row = p.rows)
  (hwait : s.tagsWait p = false) (hparked : s.parkedPasses cl = []) (hlate : p.late = [])
include hs hprobe hrow hwait hparked hlate

theorem exec_passComplete : exec (.passComplete cl) s = .next (s.passOver cl p) := by
  have hended : (some p).filter (fun p => !p.probe && p.row == p.rows) = some p := by simp [hprobe, hrow]
  have hnone : s.passLate cl p = (s, p) := by
    unfold State.passLate
    rw [hlate]; rfl
  change execPassComplete cl s = _
  unfold execPassComplete
  rw [hs, hended, hparked]
  dsimp only [List.find?_nil]
  rw [hnone]
  dsimp only
  rw [hlate, hwait]
  rfl

/-- The low vectors of a split pass follow the high ones (R208). -/
theorem passComplete_low (hab : p.aborted = false) (hrun : p.run = 1) :
    ∃ t q, exec (.passComplete cl) s = .next t ∧ .pass q ∈ (t.omu cl).queue ∧ q.run = 2 ∧ q.row = 0 ∧ q.eHigh = p.eNow ∧
      KeepsMemory s t := by
  let q : Pass := { p with run := 2, row := 0, probe := true, eHigh := p.eNow }
  have hover : s.passOver cl p = (s.putPass cl p q).post (.probeSymbol cl) := by
    unfold State.passOver
    rw [if_neg (Bool.not_eq_true _ ▸ hab)]
    dsimp only
    rw [if_pos hrun]
  refine ⟨_, q, (exec_passComplete hs hprobe hrow hwait hparked hlate).trans (congrArg _ hover), ?_, rfl, rfl, rfl, ?_⟩
  · exact mem_queue_putPass (mem_queue_of_streaming hs) q
  · exact ((putPass_sameMem s cl p q).trans (.post _ _)).keeps

/-- A pass below its ebcmin runs again, in split mode, its data words empty (R207). -/
theorem passComplete_again (hab : p.aborted = false) (hrun : p.run = 0) (hpol : p.pol = .split) (hform : p.form ≠ .omxa)
    (hlow : p.ebc p.eNow < p.ebcmin) (hq : s.noneWait) :
    ∃ t q, exec (.passComplete cl) s = .next t ∧ .pass q ∈ (t.omu cl).queue ∧ q.run = 1 ∧ q.split = true ∧ q.row = 0 ∧
      (∀ w, w ∈ p.dataWords → t.isFull w = false) ∧ ∀ a, t.byte a = s.byte a := by
  let q : Pass := { p with run := 1, row := 0, probe := true, split := true, exps := [], flags := p.flags &&& fEbclow, lowered := 0 }
  let u : State := { s with empties := p.dataWords.foldl kput s.empties }
  have hmay : p.mayRerun = true := by simp [Pass.mayRerun, hrun, hpol, hform]
  have hover : s.passOver cl p = (u.putPass cl p q).post (.probeSymbol cl) := by
    unfold State.passOver
    rw [if_neg (Bool.not_eq_true _ ▸ hab)]
    dsimp only
    rw [if_neg (by omega), if_pos (by rw [hmay, decide_eq_true hlow]; rfl), emptied_eq hq]
  have hmem : SameMem u ((u.putPass cl p q).post (.probeSymbol cl)) := (putPass_sameMem u cl p q).trans (.post _ _)
  refine ⟨_, q, (exec_passComplete hs hprobe hrow hwait hparked hlate).trans (congrArg _ hover),
    mem_queue_putPass (s := u) (mem_queue_of_streaming hs) q, rfl, rfl, rfl, fun w hw => ?_, fun a => hmem.byte a⟩
  rw [hmem.isFull]
  have hin : w ∈ p.dataWords.foldl kput s.empties := (mem_kputs w _ _).mpr (.inl hw)
  simpa [State.isFull] using hin

variable (hform : s.form) (hq : s.noneWait) (hsaved : s.savedFor (coreOf p.who) p.asid = false)
  (hreach : s.engReach p.who p.asid p.tag = .ok) (hrows : (p.exps.map (·.1)).Nodup) (htag : 2 ^ 52 ≤ p.tag)
include hform hq hsaved hreach hrows htag

/-- A pass that UNLOCKED has ended (R203). -/
theorem passComplete_aborted (hab : p.aborted = true) {n : Nat} (hseq : p.seq = some n) :
    ∃ t, exec (.passComplete cl) s = .next t ∧ ⟨0, n, 7, .cluster⟩ ∈ (t.clu cl).done ∧ ⟨0x38, tokenOf 0 n⟩ ∈ (t.ctx p.who).asyncs ∧
      (p.toff ≠ 0 → ∀ i x, (i, x) ∈ p.exps →
        t.rdN (p.tagKey i) 8 = tagWord 0 p.mark p.split true x ∧ t.isFull (p.tagKey i) = true) := by
  obtain ⟨hwrites, -, htags⟩ := writeTags_spec hform hq hreach hrows htag 0 true
  have hover : s.passOver cl p = ((s.writeTags p 0 true).passEnd cl p 0 true (some 0x38)).omuGo cl := if_pos hab
  rw [exec_passComplete hs hprobe hrow hwait hparked hlate, hover]
  generalize s.writeTags p 0 true = u at hwrites htags
  obtain ⟨hmem, hdone, hasync⟩ :=
    passEnd_trap (hwrites.units.noneWait hq) cl ((hwrites.units.savedFor _ _).trans hsaved) 0 true hseq 0x38
  have hgo := GoesOn.omuGo (u.passEnd cl p 0 true (some 0x38)) cl
  have hkeep := hmem.trans hgo.mem
  refine ⟨_, rfl, hgo.done cl hdone, hgo.asyncs p.who hasync, fun h0 i x hix => ?_⟩
  obtain ⟨hword, hfull⟩ := htags h0 i x hix
  exact ⟨(hkeep.rdN _ _).trans hword, (hkeep.isFull _).trans hfull⟩

/-- A pass that ends so leaves its tags, its flags and its status, or the result of its OMXW (R206, R222 to R224). -/
theorem passComplete_ends (hab : p.aborted = false) (hrun : p.run ≠ 1) (hebc : p.ebcmin ≤ p.ebc p.eNow) (hmark : p.mark = false) :
    let e := p.ebc p.eNow
    ∃ t, exec (.passComplete cl) s = .next t ∧
      (p.toff ≠ 0 → ∀ i x, (i, x) ∈ p.exps →
        t.rdN (p.tagKey i) 8 = tagWord e false p.split (i < p.lowered) x ∧ t.isFull (p.tagKey i) = true) ∧
      (p.toff = 0 → KeepsMemory s t) ∧ (t.ctx p.who).fstat = (s.ctx p.who).fstat ||| p.flags ∧
      (∀ n, p.seq = some n → ⟨0, n, p.status, .cluster⟩ ∈ (t.clu cl).done) ∧
      (p.seq = none → p.d ≠ 0 → (s.omu cl).queue = [.pass p] → (t.ctx p.who).getX p.d =
        BitVec.ofNat 64 (e + (if p.split then 32 else 0) + if 0 < p.lowered then 64 else 0)) := by
  intro e
  let v := s.putPass cl p p
  have hvmem : SameMem s v := putPass_sameMem s cl p p
  have hvreach : v.engReach p.who p.asid p.tag = .ok :=
    (engReach_spad (s := s) (t := v) htag rfl (remap_mapOmu s cl _) p.who p.asid).trans hreach
  obtain ⟨hwrites, hsame, htags⟩ := writeTags_spec (s := v) (hvmem.form hform) (noneWait_of_cores rfl hq) hvreach hrows htag e false
  have hexec : exec (.passComplete cl) s = .next (((v.writeTags p e false).passEnd cl p e false none).omuGo cl) :=
    (exec_passComplete hs hprobe hrow hwait hparked hlate).trans (congrArg _ (passOver_ends s cl hab hrun hebc hmark))
  have hkeeps : p.toff = 0 → SameMem s (v.writeTags p e false) := fun h0 => by rw [hsame h0]; exact hvmem
  have hctx : (v.writeTags p e false).ctx p.who = s.ctx p.who := hwrites.units.ctx _
  have huq := hwrites.units.noneWait (noneWait_of_cores (s := s) rfl hq)
  have hus : (v.writeTags p e false).savedFor (coreOf p.who) p.asid = false := (hwrites.units.savedFor _ _).trans hsaved
  have hqueue : ((v.writeTags p e false).omu cl).queue = (s.omu cl).queue := by
    rw [hwrites.units.omu]; exact queue_putPass_self s cl p
  generalize v.writeTags p e false = u at htags hexec hkeeps hctx huq hus hqueue
  have hgo := GoesOn.omuGo (u.passEnd cl p e false none) cl
  have hend : SameMem u (u.passEnd cl p e false none) ∧
      ((u.passEnd cl p e false none).ctx p.who).fstat = (u.ctx p.who).fstat ||| p.flags := by
    cases hseq : p.seq with
    | some n =>
      obtain ⟨hmem, hflags, -⟩ := passEnd_token huq cl hus e false hseq
      exact ⟨hmem, hflags⟩
    | none =>
      obtain ⟨hmem, hflags, -⟩ := passEnd_register huq cl hus e false hseq
      exact ⟨hmem, hflags⟩
  obtain ⟨hended, hflags⟩ := hend
  have hmem := hended.trans hgo.mem
  refine ⟨_, hexec, fun h0 i x hix => ?_, fun h0 => ((hkeeps h0).trans hmem).keeps, ?_, fun n hseq => ?_, fun hseq hd hone => ?_⟩
  · obtain ⟨hword, hfull⟩ := htags h0 i x hix
    rw [hmark, Bool.false_or] at hword
    exact ⟨(hmem.rdN _ _).trans hword, (hmem.isFull _).trans hfull⟩
  · rw [hgo.fstat, hflags, hctx]
  · obtain ⟨-, -, hdone⟩ := passEnd_token huq cl hus e false hseq
    exact hgo.done cl hdone
  · obtain ⟨-, -, hleft, hresult⟩ := passEnd_register huq cl hus e false hseq
    have hempty : ((u.passEnd cl p e false none).omu cl).queue = [] := by
      rw [hleft, hqueue, hone]; exact List.erase_cons_head ..
    rw [omuGo_of_empty hempty, hresult, if_neg hd, hmark]
    simp [w64]
end Complete

/-! ## Codes (R125, R205, R210) -/

/-- The bound of an element is a whole number of steps from hi - w to lo + w. -/
theorem boundCode_eq {e : Nat} (he : e ≤ 15) (lo hi : Int) (pick : Nat) :
    boundCode e lo hi pick = hi - 2 ^ (15 - e) + (pick % (lo - hi + 2 * 2 ^ (15 - e) + 1).toNat : Nat) := by
  unfold boundCode
  rw [show Nat.min e 15 = e from Nat.min_eq_left he]
  push_cast
  rfl
theorem boundCode_mem {e : Nat} (he : e ≤ 15) {lo hi : Int} (hlo : hi ≤ lo + 1) (pick : Nat) :
    hi - 2 ^ (15 - e) ≤ boundCode e lo hi pick ∧ boundCode e lo hi pick ≤ lo + 2 ^ (15 - e) := by
  have hw : (0 : Int) < 2 ^ (15 - e) := by positivity
  rw [boundCode_eq he]
  generalize (2 : Int) ^ (15 - e) = w at hw
  have hpick := Nat.mod_lt pick (show 0 < (lo - hi + 2 * w + 1).toNat by omega)
  omega
/-- Each code of the bound comes of its distance from the lowest. -/
theorem boundCode_surjective {e : Nat} (he : e ≤ 15) {lo hi c : Int} (hlow : hi - 2 ^ (15 - e) ≤ c) (hhigh : c ≤ lo + 2 ^ (15 - e)) :
    ∃ k, boundCode e lo hi k = c := by
  refine ⟨(c - (hi - 2 ^ (15 - e))).toNat, ?_⟩
  rw [boundCode_eq he]
  generalize (2 : Int) ^ (15 - e) = w at hlow hhigh
  rw [Nat.mod_eq_of_lt (by omega)]
  omega
/-- The nearest integer to n / 2^1000, and of two the even one. -/
theorem roundEven_spec (n : Int) : 2 * (roundEven n * (2 ^ 1000 : Nat) - n).natAbs ≤ 2 ^ 1000 ∧
    (2 * (roundEven n * (2 ^ 1000 : Nat) - n).natAbs = 2 ^ 1000 → roundEven n % 2 = 0) := by
  have hd : 0 < 2 ^ 1000 := by positivity
  unfold roundEven
  dsimp only
  generalize 2 ^ 1000 = d at hd
  have hn := Int.mul_ediv_add_emod n d
  have hr0 := Int.emod_nonneg n (show (d : Int) ≠ 0 by omega)
  have hrd := Int.emod_lt_of_pos n (show (0 : Int) < d by omega)
  generalize n / (d : Int) = q at hn
  generalize n % (d : Int) = r at hn hr0 hrd
  have hup : (q + 1) * (d : Int) - n = d - r := by rw [← hn]; ring
  have hdown : q * (d : Int) - n = -r := by rw [← hn]; ring
  split
  · rw [hdown]; omega
  · split
    · rw [hup]; omega
    · split
      · rw [hdown]; omega
      · rw [hup]; omega
theorem satCode_spec (c : Int) : (satCode c).natAbs ≤ 32767 ∧ (c.natAbs ≤ 32767 → satCode c = c) := by
  unfold satCode
  split
  · omega
  · split <;> omega

end Sys2Proof.Machine
end

section
/-! CERTIFICATE. Passes, codes and probes. -/
namespace Sys2Proof.Machine

/-- Settles O41: one lemma for each event of a pass, over what the events leave of the state. -/
theorem passes : Obligations.Passes := by
  unfold Obligations.Passes
  refine ⟨fun e pick lo hi n c he _ hlo => ?_, fun s cl p hform hs hprobe hrow hq => ?_, fun s cl => ?_,
    fun s cl p hform hs hprobe hrow hwait hparked hlate => ?_⟩
  · exact ⟨boundCode_mem he hlo pick, boundCode_surjective he, (roundEven_spec n).1, (roundEven_spec n).2, satCode_spec c⟩
  · exact ⟨fun hrun => passRowWrite_high_effect hs hprobe hrow hq hrun, fun hrun hofm _ hreach hfree ha =>
      passRowWrite_ph16 hs hprobe hrow hq hform hrun hofm hreach hfree ha⟩
  · exact ⟨fun c d hqueue => ⟨probeSymbol_prbe hqueue, probeSymbol_prbe_empty hqueue⟩,
      fun p hs hprobe => ⟨probeSymbol_opening hs hprobe, probeSymbol_later hs hprobe⟩⟩
  · refine ⟨fun hab hsaved n hseq hreach hrows htag hq => ?_, fun hab hrun => ?_, fun hab hrun hpol hof hlow hq => ?_,
      fun hab hrun hebc hmark hsaved hreach hrows htag hq => ?_⟩
    · exact passComplete_aborted hs hprobe hrow hwait hparked hlate hform hq hsaved hreach hrows htag hab hseq
    · exact passComplete_low hs hprobe hrow hwait hparked hlate hab hrun
    · exact passComplete_again hs hprobe hrow hwait hparked hlate hab hrun hpol hof hlow hq
    · exact passComplete_ends hs hprobe hrow hwait hparked hlate hform hq hsaved hreach hrows htag hab hrun hebc hmark

end Sys2Proof.Machine
end

section
/-! SUPPORT. The rows of R144 for operands that are NaNs, infinities and zeros, and the rounding of what a format holds exactly
(R118, R128, R131). -/
namespace Sys2Proof.Machine

/-! ## Rows 1 and 2 of R144 -/

theorem nanOf_signaling {f : Fmt} {l : List Num} (h : .nan true ∈ l) : nanOf f l = some (f.nan, fNv) :=
  if_pos (List.contains_iff_mem.mpr h)
theorem nanOf_quiet {f : Fmt} {l : List Num} (h : .nan false ∈ l) (hs : .nan true ∉ l) : nanOf f l = some (f.nan, 0) :=
  (if_neg (mt List.contains_iff_mem.mp hs)).trans (if_pos (List.contains_iff_mem.mpr h))

variable {f : Fmt} {v : FEnv} {b c : Nat}

/-- A signaling NaN among two operands decides each result. -/
theorem results_of_signaling (idx d : Nat) (h : f.read v b = .nan true ∨ f.read v c = .nan true) :
    f.add v idx b c = (f.nan, fNv) ∧ f.sub v idx b c = (f.nan, fNv) ∧ f.mul v idx b c = (f.nan, fNv) ∧
    f.div v idx b c = (f.nan, fNv) ∧ f.fma v idx false false d b c = (f.nan, fNv) := by
  have htwo : nanOf f [f.read v b, f.read v c] = some (f.nan, fNv) := nanOf_signaling (by simpa [eq_comm] using h)
  have hthree : nanOf f [f.read v d, f.read v b, f.read v c] = some (f.nan, fNv) :=
    nanOf_signaling (List.mem_cons_of_mem _ (by simpa [eq_comm] using h))
  simp only [Fmt.add, Fmt.sub, Fmt.mul, Fmt.div, Fmt.fma, htwo, hthree, Option.getD_some, and_self]
/-- A quiet NaN decides each result where no operand signals. -/
theorem results_of_quiet (idx : Nat) (h : f.read v b = .nan false) (hs : f.read v c ≠ .nan true) :
    f.add v idx b c = (f.nan, 0) ∧ f.sub v idx b c = (f.nan, 0) ∧ f.mul v idx b c = (f.nan, 0) ∧
    f.div v idx b c = (f.nan, 0) ∧ f.sqrt v idx b = (f.nan, 0) := by
  have htwo : nanOf f [f.read v b, f.read v c] = some (f.nan, 0) := nanOf_quiet (by simp [h]) (by simp [h, hs.symm])
  have hone : nanOf f [f.read v b] = some (f.nan, 0) := nanOf_quiet (by simp [h]) (by simp [h])
  simp only [Fmt.add, Fmt.sub, Fmt.mul, Fmt.div, Fmt.sqrt, htwo, hone, Option.getD_some, and_self]

/-! ## Rows 3 and 4 of R144 -/

theorem add_inf_opposite (idx : Nat) {g : Bool} (hb : f.read v b = .inf g) (hc : f.read v c = .inf (!g)) :
    f.add v idx b c = (f.nan, fNv) := by
  rw [Fmt.add, hb, hc]
  exact if_neg (by simp)
theorem sub_inf_same (idx : Nat) {g : Bool} (hb : f.read v b = .inf g) (hc : f.read v c = .inf g) :
    f.sub v idx b c = (f.nan, fNv) := by
  rw [Fmt.sub, hb, hc]
  exact if_neg (by simp)
theorem div_inf_inf (idx : Nat) {g h : Bool} (hb : f.read v b = .inf g) (hc : f.read v c = .inf h) :
    f.div v idx b c = (f.nan, fNv) := by
  rw [Fmt.div, hb, hc]; rfl
theorem mul_inf_zero (idx : Nat) {g h : Bool} {e : Int} (hb : f.read v b = .inf g) (hc : f.read v c = .fin h 0 e) :
    f.mul v idx b c = (f.nan, fNv) := by
  rw [Fmt.mul, hb, hc]; rfl
theorem div_zero_zero (idx : Nat) {g h : Bool} {e k : Int} (hb : f.read v b = .fin g 0 e) (hc : f.read v c = .fin h 0 k) :
    f.div v idx b c = (f.nan, fNv) := by
  rw [Fmt.div, hb, hc]; rfl
theorem div_by_zero (idx : Nat) {g h : Bool} {m : Nat} {e k : Int} (hb : f.read v b = .fin g m e) (hm : m ≠ 0)
    (hc : f.read v c = .fin h 0 k) : f.div v idx b c = (f.sign (g ^^ h) + f.infCode, fDz) := by
  rw [Fmt.div, hb, hc]
  exact if_neg hm
theorem sqrt_negative (idx : Nat) {m : Nat} {e : Int} (hb : f.read v b = .fin true m e) (hm : m ≠ 0) :
    f.sqrt v idx b = (f.nan, fNv) := by
  rw [Fmt.sqrt, hb]
  exact if_neg hm
theorem sqrt_zero (idx : Nat) {g : Bool} {e : Int} (hb : f.read v b = .fin g 0 e) : f.sqrt v idx b = (f.sign g, 0) := by
  rw [Fmt.sqrt, hb]; rfl

/-! ## Rounding what needs no rounding -/

/-- What a code of a format below its infinity stands for, with either sign. -/
theorem decode_finite (hmax : f.maxCode < 2 ^ f.sgn) {code : Nat} (hcode : code ≤ f.maxCode) (g : Bool) :
    f.decode (f.sign g + code) =
      if code < 2 ^ f.mb then .fin g code (1 - (f.bias : Int) - f.mb)
      else .fin g (code % 2 ^ f.mb + 2 ^ f.mb) ((code / 2 ^ f.mb : Nat) - f.bias - f.mb) := by
  have hlt : code < 2 ^ f.sgn := by omega
  have hsign : (f.sign g + code).testBit f.sgn = g := by
    cases g with
    | false => simpa [Fmt.sign] using Nat.testBit_lt_two_pow hlt
    | true => simp [Fmt.sign, Nat.testBit_two_pow_add_eq, Nat.testBit_lt_two_pow hlt]
  have hmag : (f.sign g + code) % 2 ^ f.sgn = code := by
    cases g <;> simp [Fmt.sign, Nat.mod_eq_of_lt hlt]
  have hexp : code / 2 ^ f.mb = 0 ↔ code < 2 ^ f.mb := Nat.div_eq_zero_iff_lt (by positivity)
  rw [Fmt.decode, hsign, hmag]
  by_cases h : code < 2 ^ f.mb
  · simp [hexp, h, not_lt.mpr hcode, Nat.mod_eq_of_lt h]
  · simp [hexp, h, not_lt.mpr hcode]

/-- A magnitude at its own spacing is whole. -/
theorem cut_own_spacing (m : Nat) (e : Int) : Mag.cut ⟨m, e, false⟩ e = ⟨m, 0, 0, false⟩ := by
  simp [Mag.cut, Nat.mod_one]
/-- A whole magnitude rounds up in no mode. -/
theorem up_whole (n : Nat) (v : FEnv) (g : Bool) (idx : Nat) : Cut.up ⟨n, 0, 0, false⟩ v g idx = false := by
  unfold Cut.up
  split <;> simp [Cut.aboveHalf, Cut.half, Cut.inexact]
/-- A magnitude in units of the spacing that the format has there rounds to the code that counts these units. -/
theorem round_own_spacing (idx : Nat) (g : Bool) {m : Nat} {e : Int} (hm : m ≠ 0)
    (hftz : (v.ftz && f.ftz) = false ∨ 1 - (f.bias : Int) ≤ m.log2 + e)
    (hspacing : max ((m.log2 : Int) + e) (1 - (f.bias : Int)) = e + f.mb)
    (hcode : (e + f.mb + f.bias - 1).toNat * 2 ^ f.mb + m ≤ f.maxCode) :
    f.round v idx g ⟨m, e, false⟩ = (f.sign g + ((e + f.mb + f.bias - 1).toNat * 2 ^ f.mb + m), 0) := by
  have hkept : ¬ ((v.ftz && f.ftz && decide ((m.log2 : Int) + e < 1 - (f.bias : Int))) = true) := by
    rcases hftz with h | h
    · simp [h]
    · simp [h]
  have hexact : (⟨m, 0, 0, false⟩ : Cut).inexact = false := rfl
  have hunit : e + f.mb - f.mb = e := by omega
  simp only [Fmt.round, if_neg hm, if_neg hkept, hspacing, hunit, cut_own_spacing, up_whole, hexact,
    Bool.false_and, Bool.false_eq_true, if_false, Nat.add_zero, if_neg (not_lt.mpr hcode)]
  rfl

/-- Rounding gives back the code of a finite value, unless FTZ takes it for a zero. -/
theorem round_decode (hmax : f.maxCode < 2 ^ f.sgn) (idx : Nat) {code : Nat} (hcode : code ≤ f.maxCode) {g : Bool} {m : Nat} {e : Int}
    (hftz : v.ftz = false ∨ f.ftz = false ∨ 2 ^ f.mb ≤ code) (h : f.decode (f.sign g + code) = .fin g m e) :
    f.round v idx g ⟨m, e, false⟩ = (f.sign g + code, 0) := by
  rw [decode_finite hmax hcode] at h
  by_cases hsub : code < 2 ^ f.mb
  · rw [if_pos hsub] at h
    injection h with _ hm he
    subst hm he
    by_cases hzero : code = 0
    · simp [Fmt.round, hzero]
    · have hlog : code.log2 < f.mb := (Nat.log2_lt hzero).mpr hsub
      have hexp : (1 - (f.bias : Int) - f.mb + f.mb + f.bias - 1).toNat = 0 := by omega
      have hoff : (v.ftz && f.ftz) = false := by
        rcases hftz with h | h | h
        · simp [h]
        · simp [h]
        · omega
      rw [round_own_spacing idx g hzero (.inl hoff) (by omega) (by rw [hexp]; omega), hexp, Nat.zero_mul, Nat.zero_add]
  · rw [if_neg hsub] at h
    injection h with _ hm he
    subst hm he
    have hpos : 0 < 2 ^ f.mb := by positivity
    have hx : 1 ≤ code / 2 ^ f.mb := (Nat.one_le_div_iff hpos).mpr (by omega)
    have hlog : (code % 2 ^ f.mb + 2 ^ f.mb).log2 = f.mb := by
      have hlt := Nat.mod_lt code hpos
      refine (Nat.log2_eq_iff (by omega)).mpr ⟨by omega, ?_⟩
      rw [Nat.pow_succ]; omega
    have hexp : (((code / 2 ^ f.mb : Nat) : Int) - f.bias - f.mb + f.mb + f.bias - 1).toNat = code / 2 ^ f.mb - 1 := by omega
    have hsum : (code / 2 ^ f.mb - 1) * 2 ^ f.mb + (code % 2 ^ f.mb + 2 ^ f.mb) = code := by
      have hdiv := Nat.div_add_mod' code (2 ^ f.mb)
      obtain ⟨x, hx⟩ := Nat.exists_eq_add_of_le' hx
      rw [hx, Nat.succ_mul] at hdiv
      rw [hx, Nat.add_sub_cancel]
      omega
    rw [round_own_spacing idx g (by omega) (.inr (by omega)) (by omega) (by rw [hexp, hsum]; exact hcode), hexp, hsum]

end Sys2Proof.Machine
end

section
/-! SUPPORT. A lane, a bit of a mask and a flag after a lane form has written (R39, R40, R49, R142). -/
namespace Sys2Proof.Machine

/-- A sum of powers of two over the numbers below n that a test accepts has these bits. -/
theorem testBit_setBits (p : Nat → Bool) (n i : Nat) :
    ((List.range n).foldl (fun a j => if p j then a + 2 ^ j else a) 0).testBit i = (decide (i < n) && p i) := by
  induction n generalizing i with
  | zero => simp
  | succ n ih =>
    have hlt : (List.range n).foldl (fun a j => if p j then a + 2 ^ j else a) 0 < 2 ^ n :=
      Nat.lt_pow_two_of_testBit _ fun j hj => by simp [ih, Nat.not_lt.mpr hj]
    rw [List.range_succ, List.foldl_append, List.foldl_cons, List.foldl_nil]
    generalize (List.range n).foldl _ 0 = r at ih hlt ⊢
    rcases lt_trichotomy i n with h | rfl | h
    · have hbit : (r + 2 ^ n).testBit i = r.testBit i := by rw [Nat.add_comm, Nat.testBit_two_pow_add_gt h]
      split <;> simp [hbit, ih, h, Nat.lt_succ_of_lt h]
    · have hbit : (r + 2 ^ i).testBit i = true := by rw [Nat.add_comm, Nat.testBit_two_pow_add_eq, ih]; simp
      by_cases hp : p i <;> simp [hp, hbit, ih]
    · have hle : 2 ^ (n + 1) ≤ 2 ^ i := Nat.pow_le_pow_right (by decide) h
      rw [Nat.pow_succ] at hle
      rw [Nat.testBit_lt_two_pow (by split <;> omega)]
      simp [Nat.not_lt.mpr h]
/-- The flags of a lane form are those of its active lanes. -/
theorem getLsbD_laneFlags (n : Nat) (k : KWord) (f : Nat → Word) (b : Nat) :
    (laneFlags n k f).getLsbD b = (List.range n).any fun i => k.getLsbD i && (f i).getLsbD b := by
  unfold laneFlags active
  induction n with
  | zero => simp
  | succ n ih =>
    rw [List.range_succ, List.foldl_append, List.any_append, ← ih, List.foldl_cons, List.foldl_nil]
    by_cases h : k.getLsbD n <;> simp [h]
/-- A lane of a destination of which the active lanes are written. -/
theorem lane_mergeLanes (old : VWord) {w i : Nat} (k : KWord) (f : Nat → Nat) (hi : i < 256 / w) :
    lane (mergeLanes old w k f) w i = if k.getLsbD i then f i % 2 ^ w else lane old w i := by
  have hlen : w * ((List.range (lanesOf w)).map fun i => if active k i then f i else lane old w i).length ≤ 256 := by
    rw [List.length_map, List.length_range]; exact Nat.mul_div_le 256 w
  rw [mergeLanes, lane_ofLanes hlen, List.getD_eq_getElem _ _ (by simpa [lanesOf] using hi), List.getElem_map, List.getElem_range]
  unfold active
  split
  · rfl
  · exact Nat.mod_eq_of_lt (lane_lt old w i)
/-- A bit of a mask result of at most 32 lanes. -/
theorem getLsbD_maskLanes {n : Nat} (hn : n ≤ 32) (k : KWord) (f : Nat → Bool) (i : Nat) :
    (maskLanes n k f).getLsbD i = (decide (i < n) && k.getLsbD i && f i) := by
  rw [maskLanes, BitVec.getLsbD_ofNat, testBit_setBits, active, Bool.and_assoc]
  by_cases h : i < n
  · simp [h, h.trans_le hn]
  · simp [h]

section
variable (s : State) (w : Nat) (m : KR)

/-- What a vector form leaves in each lane of its destination. -/
theorem lane_putLanes (d : VR) (f : Nat → Fp) {i : Nat} (hi : i < 256 / w) :
    lane ((s.putLanes w d m f).me.getV d) w i =
      if d = .vz then 0 else if (s.me.getK m).getLsbD i then (f i).1 % 2 ^ w else lane (s.me.getV d) w i := by
  rw [me_putLanes]
  change lane ((s.me.setV d _).getV d) w i = _
  rw [getV_setV]
  by_cases h : d = .vz
  · subst h; simp [lane]
  · rw [if_pos ⟨rfl, h⟩, if_neg h, lane_mergeLanes _ _ _ hi]
/-- What a form that writes a mask leaves in each bit of its destination. -/
theorem getLsbD_putMask (d : KR) (f : Nat → Bool × Word) (hw : 256 / w ≤ 32) (i : Nat) :
    ((s.putMask w d m f).me.getK d).getLsbD i =
      if d = 0 then decide (i < 32) else decide (i < 256 / w) && (s.me.getK m).getLsbD i && (f i).1 := by
  rw [me_putMask]
  change ((s.me.setK d _).getK d).getLsbD i = _
  rw [getK_setK]
  by_cases h : d = 0
  · subst h; rw [if_neg fun h => h.2 rfl, if_pos rfl, getK_zero, BitVec.getLsbD_allOnes]
  · rw [if_pos ⟨rfl, h⟩, if_neg h]; exact getLsbD_maskLanes hw ..
theorem getLsbD_fstat_putLanes (d : VR) (f : Nat → Fp) (b : Nat) : (s.putLanes w d m f).me.fstat.getLsbD b =
    (s.me.fstat.getLsbD b || (List.range (256 / w)).any fun i => (s.me.getK m).getLsbD i && (f i).2.getLsbD b) := by
  rw [me_putLanes, ← lanesOf, ← getLsbD_laneFlags, ← BitVec.getLsbD_or]
  exact congrArg (fun x : Word => (x ||| _).getLsbD b) (setV_fstat ..)
theorem getLsbD_fstat_putMask (d : KR) (f : Nat → Bool × Word) (b : Nat) : (s.putMask w d m f).me.fstat.getLsbD b =
    (s.me.fstat.getLsbD b || (List.range (256 / w)).any fun i => (s.me.getK m).getLsbD i && (f i).2.getLsbD b) := by
  rw [me_putMask, ← lanesOf, ← getLsbD_laneFlags, ← BitVec.getLsbD_or]
  exact congrArg (fun x : Word => (x ||| _).getLsbD b) (setK_fstat ..)
/-- A form that writes a mask changes a k register and flags of its own context. -/
theorem framed_mask (d : KR) (f : Nat → Bool × Word) :
    OnlyMe s (s.putMask w d m f) ∧ RegsOnly { ks := [d], flags := true } s.me (s.putMask w d m f).me :=
  ⟨by unfold State.putMask; exact (OnlyMe.refl s).mapMe _, by rw [me_putMask]; exact (RegsOnly.setK s.me d _ true).flag rfl _⟩
end

end Sys2Proof.Machine
end

section
/-! CERTIFICATE. Special results, exact values under rounding, and lane writes: O19. -/
namespace Sys2Proof.Machine

/-- Settles O19: the rows of R144 one by one, rounding at a value's own spacing, and the lanes, bits and flags that a lane form writes. -/
theorem floatAndLaneRules : Obligations.FloatAndLaneRules := by
  unfold Obligations.FloatAndLaneRules
  refine ⟨fun f v idx b c d _ => ?_, fun f v idx code g m e hf hcode _ hftz hdecode => ?_, fun s d kd m w f g hw => ?_⟩
  · exact ⟨results_of_signaling idx d, results_of_quiet idx, fun _ => add_inf_opposite idx,
      fun _ hb hc => ⟨sub_inf_same idx hb hc, div_inf_inf idx hb hc⟩, fun _ _ _ => mul_inf_zero idx,
      fun _ _ _ _ => div_zero_zero idx, fun _ _ => sqrt_negative idx, fun _ _ _ _ _ => div_by_zero idx, fun _ => sqrt_zero idx⟩
  · have hmax : ∀ f ∈ [fmtF64, fmtF32, fmtF16, fmtBF16, fmtF8E4, fmtF8E5, fmtF6E3, fmtF4E2], f.maxCode < 2 ^ f.sgn := by decide
    exact round_decode (hmax f hf) idx hcode hftz hdecode
  · intro a t u
    obtain ⟨ht, tregs⟩ : OnlyMe s t ∧ RegsOnly { vs := [d], flags := true } s.me t.me := framed_lanes s w d m f
    obtain ⟨hu, uregs⟩ : OnlyMe s u ∧ RegsOnly { ks := [kd], flags := true } s.me u.me := framed_mask s w m kd g
    have htpc : t.me.pc = s.me.pc := by rw [me_putLanes]; exact setV_pc ..
    have hlanes : ∀ w ∈ [8, 16, 32, 64], 256 / w ≤ 32 := by decide
    exact ⟨fun i hi => lane_putLanes s w m d f hi, getLsbD_fstat_putLanes s w m d f, tregs.v, tregs.x, tregs.k, tregs.system, htpc,
      ht.2, ht.1, .of_eq rfl rfl rfl, getLsbD_putMask s w m kd g (hlanes w hw), getLsbD_fstat_putMask s w m kd g,
      uregs.k, uregs.x, uregs.v, uregs.system, hu.2, hu.1, .of_eq rfl rfl rfl⟩

end Sys2Proof.Machine
end

section
/-! SUPPORT. The values of the integer forms, as the operations of words give them (R143, R153 to R158). -/
namespace Sys2Proof.Machine

/-! ## Comparisons (R153, R154) -/

theorem boolW_slt (x y : Word) : boolW (x.slt y) = if x.toInt < y.toInt then 1 else 0 := by simp [boolW, BitVec.slt]
theorem boolW_ult (x y : Word) : boolW (x.ult y) = if x.toNat < y.toNat then 1 else 0 := by simp [boolW, BitVec.ult]
theorem min_signed (x y : Word) : (if y.slt x then y else x) = if x.toInt ≤ y.toInt then x else y := by
  simp only [BitVec.slt, decide_eq_true_eq, ← not_le, ite_not]
theorem min_unsigned (x y : Word) : (if y.ult x then y else x) = if x.toNat ≤ y.toNat then x else y := by
  simp only [BitVec.ult, decide_eq_true_eq, ← not_le, ite_not]
/-- Which of two equal words is the greater one makes no difference. -/
theorem max_signed (x y : Word) : (if x.slt y then y else x) = if x.toInt ≤ y.toInt then y else x := by
  by_cases h : x.toInt = y.toInt
  · rw [BitVec.eq_of_toInt_eq h, ite_self, ite_self]
  · have hle : x.toInt ≤ y.toInt ↔ x.toInt < y.toInt := by omega
    simp only [BitVec.slt, decide_eq_true_eq, hle]
theorem max_unsigned (x y : Word) : (if x.ult y then y else x) = if x.toNat ≤ y.toNat then y else x := by
  by_cases h : x.toNat = y.toNat
  · rw [BitVec.eq_of_toNat_eq h, ite_self, ite_self]
  · have hle : x.toNat ≤ y.toNat ↔ x.toNat < y.toNat := by omega
    simp only [BitVec.ult, decide_eq_true_eq, hle]

/-! ## Immediates (R155, R158) -/

/-- LIH joins its immediate and the low half of the register. -/
theorem append_low (w : BitVec 32) (x : Word) : w ++ x.setWidth 32 = w.setWidth 64 <<< 32 ||| x &&& 0xFFFFFFFF := by
  have mask : ∀ i, i < 64 → (0xFFFFFFFF : Word).getLsbD i = decide (i < 32) := by decide
  apply BitVec.eq_of_getLsbD_eq
  intro i hi
  rw [BitVec.getLsbD_or, BitVec.getLsbD_and, mask i hi, BitVec.getLsbD_append]
  by_cases h : i < 32
  · simp [h]
  · simp [h, hi]
theorem w64_codeTarget (pc : Word) (off : BitVec 32) :
    w64 (codeTarget pc off.toInt) = (pc &&& ~~~63) + off.signExtend 64 * 2 := by
  rw [← toNat_target, w64, BitVec.ofNat_toNat, BitVec.setWidth_eq]

/-! ## Shifts (R143) -/

theorem w64_shl (x : Word) (n : Nat) : w64 (shl 64 x.toNat n) = x <<< n := by
  apply BitVec.eq_of_toNat_eq
  rw [BitVec.toNat_shiftLeft, Nat.shiftLeft_eq, w64, BitVec.toNat_ofNat, shl]
  split
  · have hdvd : 2 ^ 64 ∣ x.toNat * 2 ^ n := (Nat.pow_dvd_pow 2 ‹_›).mul_left _
    rw [Nat.mod_eq_zero_of_dvd hdvd, Nat.zero_mod]
  · exact Nat.mod_mod _ _
theorem w64_shr (x : Word) (n : Nat) : w64 (shr 64 x.toNat n) = x >>> n := by
  apply BitVec.eq_of_toNat_eq
  rw [BitVec.toNat_ushiftRight, Nat.shiftRight_eq_div_pow, w64, BitVec.toNat_ofNat, shr_eq x.isLt]
  split
  · have hlt : x.toNat < 2 ^ n := x.isLt.trans_le (Nat.pow_le_pow_right (by decide) ‹_›)
    rw [Nat.div_eq_of_lt hlt, Nat.zero_mod]
  · exact Nat.mod_eq_of_lt ((Nat.div_le_self _ _).trans_lt x.isLt)
theorem w64_wrap (z : Int) : w64 (wrap z 64) = BitVec.ofInt 64 z := by
  apply BitVec.eq_of_toNat_eq
  rw [w64, wrap, BitVec.toNat_ofNat, BitVec.toNat_ofInt]
  omega
theorem sext_toNat (x : Word) : sext x.toNat 64 = x.toInt := by
  rw [sext, Nat.mod_eq_of_lt x.isLt, BitVec.toInt_eq_msb_cond, BitVec.msb_eq_getLsbD_last, BitVec.getLsbD]
  split <;> simp
/-- A shift by 63 or more leaves the sign in every bit. -/
theorem toInt_ediv_pow (x : Word) {n : Nat} (h : 63 ≤ n) : x.toInt / (2 ^ n : Nat) = if x.toInt < 0 then -1 else 0 := by
  have hle : ((2 ^ 63 : Nat) : Int) ≤ (2 ^ n : Nat) := by exact_mod_cast Nat.pow_le_pow_right (by decide) h
  have hlo := x.le_toInt
  have hhi := x.toInt_lt
  split
  · exact (Int.ediv_eq_iff_of_pos (by omega)).mpr ⟨by omega, by omega⟩
  · exact Int.ediv_eq_zero_of_lt (by omega) (by omega)
theorem w64_sar (x : Word) (n : Nat) : w64 (sar 64 x.toNat n) = x.sshiftRight n := by
  have hmin : x.toInt / (2 ^ min n 63 : Nat) = x.toInt / (2 ^ n : Nat) := by
    rcases Nat.le_total n 63 with h | h
    · rw [Nat.min_eq_left h]
    · rw [Nat.min_eq_right h, toInt_ediv_pow x le_rfl, toInt_ediv_pow x h]
  rw [sar, w64_wrap, sext_toNat, BitVec.sshiftRight, Int.shiftRight_eq_div_pow]
  exact congrArg (BitVec.ofInt 64) hmin
theorem rotateRight_mod (x : Word) (n : Nat) : x.rotateRight (n % 64) = x >>> (n % 64) ||| x <<< (64 - n % 64) := by
  rw [BitVec.rotateRight_def, Nat.mod_mod]

/-! ## Counting and reversing bits (R157) -/

theorem testBit_revBits (v i : Nat) : (revBits v).testBit i = (decide (i < 64) && v.testBit (63 - i)) :=
  testBit_setBits (fun i => v.testBit (63 - i)) 64 i
/-- The zeros above the highest set bit are those below the lowest one of the reversed bits. -/
theorem leadZeros_eq_lowBit (v : Nat) : leadZeros v 64 = lowBit (revBits v) 64 := by
  unfold leadZeros lowBit
  congr 1
  refine List.find?_congr fun i hi => ?_
  simp [testBit_revBits, List.mem_range.mp hi]
theorem leadZeros_spec (v : Nat) : leadZeros v 64 ≤ 64 ∧ (∀ i, i < leadZeros v 64 → v.testBit (63 - i) = false) ∧
    (leadZeros v 64 < 64 → v.testBit (63 - leadZeros v 64) = true) := by
  obtain ⟨hle, hbelow, hset⟩ := lowBit_spec (revBits v) 64
  rw [← leadZeros_eq_lowBit] at hle hbelow hset
  refine ⟨hle, fun i hi => ?_, fun h => ?_⟩
  · simpa [testBit_revBits, hi.trans_le hle] using hbelow i hi
  · simpa [testBit_revBits, h] using hset h
theorem getLsbD_revBits (x : Word) {j : Nat} (hj : j < 64) : (w64 (revBits x.toNat)).getLsbD j = x.getLsbD (63 - j) := by
  rw [w64, BitVec.getLsbD_ofNat, testBit_revBits]
  simp [hj, BitVec.getLsbD]

/-! ## Multiplication and division (R156) -/

theorem mulh_eq (x y : Word) : BitVec.ofInt 64 (x.toInt * y.toInt / (2 ^ 64 : Nat)) =
    (x.signExtend 128 * y.signExtend 128).extractLsb' 64 64 := by
  have hprod : x.signExtend 128 * y.signExtend 128 = BitVec.ofInt 128 (x.toInt * y.toInt) := by
    rw [BitVec.ofInt_mul]; rfl
  apply BitVec.eq_of_toNat_eq
  rw [hprod, BitVec.extractLsb'_toNat, BitVec.toNat_ofInt, BitVec.toNat_ofInt, Nat.shiftRight_eq_div_pow]
  generalize x.toInt * y.toInt = z
  omega
theorem mulhn_eq (x y : Word) : w64 (x.toNat * y.toNat / 2 ^ 64) = (x.setWidth 128 * y.setWidth 128).extractLsb' 64 64 := by
  apply BitVec.eq_of_toNat_eq
  rw [BitVec.extractLsb'_toNat, BitVec.toNat_mul, BitVec.toNat_setWidth, BitVec.toNat_setWidth, ← Nat.mul_mod, w64,
    BitVec.toNat_ofNat, Nat.shiftRight_eq_div_pow]
  generalize x.toNat * y.toNat = z
  omega
theorem sdiv_eq_ofInt (x y : Word) : x.sdiv y = BitVec.ofInt 64 (x.toInt.tdiv y.toInt) := by
  apply BitVec.eq_of_toInt_eq
  rw [BitVec.toInt_sdiv, BitVec.toInt_ofInt]
theorem srem_eq_ofInt (x y : Word) : x.srem y = BitVec.ofInt 64 (x.toInt.tmod y.toInt) := by
  rw [← BitVec.toInt_srem, BitVec.ofInt_toInt]
/-- The signed quotient: all ones for a divisor of 0, and wrapped where it does not fit. -/
theorem ofInt_divS (x y : Word) : BitVec.ofInt 64 (divS x y) = if y = 0 then BitVec.allOnes 64 else x.sdiv y := by
  rw [divS, sdiv_eq_ofInt]
  split_ifs with hzero hwraps
  · decide
  · obtain ⟨hx, hy⟩ := hwraps
    rw [hx, hy]; decide
  · rfl
/-- The signed remainder: the dividend for a divisor of 0, and 0 where the quotient wraps. -/
theorem ofInt_remS (x y : Word) : BitVec.ofInt 64 (remS x y) = if y = 0 then x else x.srem y := by
  rw [remS, srem_eq_ofInt]
  split_ifs with hzero hwraps
  · exact BitVec.ofInt_toInt
  · obtain ⟨hx, hy⟩ := hwraps
    rw [hx, hy]; decide
  · rw [divS, if_neg hzero, if_neg hwraps, Int.tmod_def, Int.mul_comm]
theorem w64_divN (x y : Word) : w64 (divN x y) = if y = 0 then BitVec.allOnes 64 else x.udiv y := by
  rw [divN]
  split
  · decide
  · exact BitVec.eq_of_toNat_eq (Nat.mod_eq_of_lt ((Nat.div_le_self _ _).trans_lt x.isLt))
theorem w64_remN (x y : Word) : w64 (remN x y) = if y = 0 then x else x.umod y := by
  rw [remN]
  split
  · rw [w64, BitVec.ofNat_toNat, BitVec.setWidth_eq]
  · have hmod : x.toNat - divN x y * y.toNat = x.toNat % y.toNat := by
      rw [divN, if_neg ‹_›, Nat.mul_comm, Nat.mod_eq_sub]
    rw [hmod]
    exact BitVec.eq_of_toNat_eq (Nat.mod_eq_of_lt ((Nat.mod_le _ _).trans_lt x.isLt))

end Sys2Proof.Machine
end

section
/-! CERTIFICATE. Integer forms complete with their results, and NOP only advances the pc: O11, O12. -/
namespace Sys2Proof.Machine

/-- An integer form of a value steps on with that value in its register. -/
theorem intOut_flows {s : State} (hf : s.flows) (d : XR) {v r : Word} (h : v = r) : intOut s d v = .next (s.wroteX d r) :=
  h ▸ retire_flows hf _
/-- A division does so after 40 cycles (R139). -/
theorem divOut_flows {s : State} (hf : s.flows) (d : XR) {v r : Word} (h : v = r) :
    divOut s d v = .next (s.steppedFor (s.putX d r) 40) :=
  h ▸ retireAfter_flows hf _ _

/-- Settles O11: each form writes its value, which is that of the operation of words. -/
theorem integerForms : Obligations.IntegerForms := by
  unfold Obligations.IntegerForms
  refine ⟨fun s d b c hf => ?_, fun s d b i w hf => ?_, fun s d b c k hf => ?_, fun s d b hf => ?_, fun s d b c hf => ?_⟩
  all_goals
    have hout : ∀ {v r : Word}, v = r → intOut s d v = .next (s.wroteX d r) := intOut_flows hf d
  · intro x y
    exact ⟨hout rfl, hout rfl, hout rfl, hout rfl, hout rfl, hout rfl, hout (boolW_slt x y), hout (boolW_ult x y),
      hout (min_signed x y), hout (max_signed x y), hout (min_unsigned x y), hout (max_unsigned x y)⟩
  · intro x
    have himm : (i.signExtend 64).toInt = i.toInt := BitVec.toInt_signExtend_of_le (by decide)
    have hzimm : (i.setWidth 64).toNat = i.toNat := BitVec.toNat_setWidth_of_le (by decide)
    exact ⟨hout rfl, hout rfl, hout rfl, hout rfl, hout (himm ▸ boolW_slt x _), hout (hzimm ▸ boolW_ult x _), hout rfl,
      hout (append_low w _), hout (w64_codeTarget _ w)⟩
  · intro x n
    exact ⟨hout (w64_shl x n), hout (w64_shr x n), hout (w64_sar x n), hout (rotateRight_mod x n), hout (w64_shl x _),
      hout (w64_shr x _), hout (w64_sar x _)⟩
  · intro x
    exact ⟨⟨_, hout rfl, leadZeros_spec x.toNat⟩, ⟨_, hout rfl, lowBit_spec x.toNat 64⟩,
      hout (congrArg w64 List.countP_eq_length_filter), ⟨_, hout rfl, fun _ => getLsbD_revBits x⟩⟩
  · intro x y
    exact ⟨hout rfl, hout (mulh_eq x y), hout (mulhn_eq x y), divOut_flows hf d (ofInt_divS x y), divOut_flows hf d (ofInt_remS x y),
      divOut_flows hf d (w64_divN x y), divOut_flows hf d (w64_remN x y)⟩

/-- Settles O12: NOP retires the state it finds. -/
theorem nopOnlyAdvances : Obligations.NopOnlyAdvances := by
  unfold Obligations.NopOnlyAdvances
  refine ⟨fun s hf => retire_flows hf s, fun s _ => ?_, wordsDecode.1⟩
  rw [stepped_me]
  exact ⟨rfl, rfl, rfl, rfl, rfl, rfl⟩

end Sys2Proof.Machine
end

section
/-! SUPPORT. The lane values that a reduction takes, its running results, and the reductions and scans where their head steps on
(R169, R176, R177). -/
namespace Sys2Proof.Machine

/-! ## Active lanes in rising order -/

/-- The lanes below a number that are active, as values of an element type. -/
def State.activeValues (s : State) (t : ElemT) (b : VR) (m : KR) (n : Nat) : List Nat :=
  (activeLanes (s.me.getK m) n).map (s.lane b t.width)

theorem activeBelow_eq_length (k : KWord) (n : Nat) : activeBelow k n = (activeLanes k n).length := List.countP_eq_length_filter
/-- Up to and with an active lane there is one active lane more than below it. -/
theorem activeLanes_succ {k : KWord} {i : Nat} (ha : active k i = true) : activeLanes k (i + 1) = activeLanes k i ++ [i] := by
  rw [activeLanes, List.range_succ, List.filter_append, List.filter_singleton, ha]; rfl
/-- The active lanes up to one of them are the first ones of all. -/
theorem activeLanes_take {k : KWord} {i n : Nat} (hi : i < n) (ha : active k i = true) :
    (activeLanes k n).take (activeBelow k i + 1) = activeLanes k (i + 1) := by
  obtain ⟨r, rfl⟩ := Nat.exists_eq_add_of_le (Nat.succ_le_of_lt hi)
  have hsplit : activeLanes k (i + 1 + r) = activeLanes k (i + 1) ++ ((List.range r).map (i + 1 + ·)).filter (active k) := by
    rw [activeLanes, List.range_add, List.filter_append]; rfl
  rw [hsplit]
  exact List.take_left' (by rw [activeLanes_succ ha, activeBelow_eq_length, List.length_append, List.length_singleton])
theorem activeBelow_lt {k : KWord} {i n : Nat} (hi : i < n) (ha : active k i = true) : activeBelow k i < (activeLanes k n).length := by
  have hlen := congrArg List.length (activeLanes_take hi ha)
  rw [List.length_take, activeLanes_succ ha, List.length_append, List.length_singleton, activeBelow_eq_length] at hlen
  rw [activeBelow_eq_length]
  omega
/-- Of a lane that is not active, the results of a lane form do not count. -/
theorem mergeLanes_congr {old : VWord} {w : Nat} {k : KWord} {f g : Nat → Nat}
    (h : ∀ i, i < lanesOf w → active k i = true → f i = g i) : mergeLanes old w k f = mergeLanes old w k g := by
  refine congrArg (ofLanes w) (List.map_congr_left fun i hi => ?_)
  by_cases ha : active k i = true
  · rw [if_pos ha, if_pos ha, h i (List.mem_range.mp hi) ha]
  · rw [if_neg ha, if_neg ha]

/-! ## Running results -/

/-- A further step on a result: the flags are merged (R176). -/
def runStep (step : Nat → Nat → Fp) (r : Fp) (c : Nat) : Fp := ((step r.1 c).1, r.2 ||| (step r.1 c).2)
/-- The reduction of values in order, the first one taken by itself; of no value it is `ident` with no flag (R176, R177). -/
def reduction (first : Nat → Fp) (step : Nat → Nat → Fp) (ident : Nat) : List Nat → Fp
  | [] => (ident, 0)
  | a :: l => l.foldl (runStep step) (first a)

section
variable (op : RedK) (t : ElemT) (v : FEnv)

theorem length_redRun (o : Option Nat) (l : List Nat) : (redRun op t v o l).length = l.length := by
  induction l generalizing o with
  | nil => cases o <;> rfl
  | cons b l ih => cases o <;> exact congrArg Nat.succ (ih _)
/-- A running result after a value: the steps over the values up to there. -/
theorem redRun_some_getD (a : Nat) (w : Word) {l : List Nat} {i : Nat} (hi : i < l.length) :
    ((redRun op t v (some a) l).getD i (0, 0)).1 = ((l.take (i + 1)).foldl (runStep (redStep op t v)) (a, w)).1 := by
  induction l generalizing a w i with
  | nil => exact absurd hi (Nat.not_lt_zero i)
  | cons b l ih =>
    cases i with
    | zero => rfl
    | succ i => exact ih _ _ (Nat.lt_of_succ_lt_succ hi)
theorem redRun_getD (ident : Nat) {l : List Nat} {i : Nat} (hi : i < l.length) :
    ((redRun op t v none l).getD i (0, 0)).1 = (reduction (redFirst t v) (redStep op t v) ident (l.take (i + 1))).1 := by
  cases l with
  | nil => exact absurd hi (Nat.not_lt_zero i)
  | cons b l =>
    cases i with
    | zero => rfl
    | succ i => exact redRun_some_getD op t v _ _ (Nat.lt_of_succ_lt_succ hi)
/-- The last running result is that of all values. -/
theorem redRun_getLast (ident : Nat) (l : List Nat) : (((redRun op t v none l).getLast?).map (·.1)).getD ident =
    (reduction (redFirst t v) (redStep op t v) ident l).1 := by
  cases l with
  | nil => rfl
  | cons b l =>
    have hlast := redRun_getD op t v ident (l := b :: l) (Nat.lt_succ_self l.length)
    have hlen : l.length < (redRun op t v none (b :: l)).length := by rw [length_redRun]; exact Nat.lt_succ_self _
    rw [List.take_of_length_le (le_refl (l.length + 1) : (b :: l).length ≤ _)] at hlast
    rw [List.getLast?_eq_getElem?, length_redRun, ← hlast, List.getD_eq_getElem _ _ hlen]
    exact congrArg (fun o => (o.map (·.1)).getD ident) (List.getElem?_eq_getElem hlen)
theorem redRun_some_flags (a : Nat) (w : Word) (l : List Nat) :
    (redRun op t v (some a) l).foldl (fun a r => a ||| r.2) w = (l.foldl (runStep (redStep op t v)) (a, w)).2 := by
  induction l generalizing a w with
  | nil => rfl
  | cons b l ih => exact ih _ _
theorem allFlags_redRun (ident : Nat) (l : List Nat) :
    allFlags (redRun op t v none l) = (reduction (redFirst t v) (redStep op t v) ident l).2 := by
  cases l with
  | nil => rfl
  | cons b l =>
    have hmerge : 0 ||| (redFirst t v b).2 = (redFirst t v b).2 := BitVec.zero_or
    exact (redRun_some_flags op t v _ _ l).trans
      (congrArg (fun w => (l.foldl (runStep (redStep op t v)) ((redFirst t v b).1, w)).2) hmerge)
end

/-! ## The forms -/

variable {s : State} {op : RedK} {t : ElemT}

theorem redRounds_ok (h : op = .add → t.isInt = false → rmodeOf s.me.fctx < 6) (k : Out) : redRounds op t s k = k := by
  by_cases hr : op = .add ∧ t.isInt = false
  · exact (if_pos hr).trans (needRmode_ok (h hr.1 hr.2) k)
  · exact if_neg hr
theorem length_redSteps (b : VR) (m : KR) : (s.redSteps op t b m).length = (s.activeValues t b m (lanesOf t.width)).length :=
  length_redRun ..
/-- VRED writes the reduction of the active lanes (R176). -/
theorem vred_flows (hf : s.flows) (hr : op = .add → t.isInt = false → rmodeOf s.me.fctx < 6) (d : XR) (b : VR) (m : KR) :
    let ls := s.activeValues t b m (lanesOf t.width)
    let r := reduction (redFirst t s.env) (redStep op t s.env) (redIdent op t) ls
    vred op t d b m s =
      .next (s.steppedFor (s.mapMe fun c => (c.setX d (xOfLane t r.1)).flag r.2) (2 * ls.length + 6)) := by
  intro ls r
  have hval : (((s.redSteps op t b m).getLast?).map (·.1)).getD (redIdent op t) = r.1 := redRun_getLast ..
  have hflags : allFlags (s.redSteps op t b m) = r.2 := allFlags_redRun ..
  rw [vred, redRounds_ok hr, retireAfter_flows hf, hval, hflags, length_redSteps]
  rfl
/-- VSCAN writes each active lane with the reduction of the active lanes up to it (R176). -/
theorem vscan_flows (hf : s.flows) (hr : op = .add → t.isInt = false → rmodeOf s.me.fctx < 6) (d b : VR) (m : KR) (ident : Nat) :
    let ls := s.activeValues t b m (lanesOf t.width)
    let red := reduction (redFirst t s.env) (redStep op t s.env) ident
    vscan op t d b m s = .next (s.steppedFor (s.mapMe fun c => (c.setV d (mergeLanes (c.getV d) t.width (s.me.getK m) fun i =>
      (red (s.activeValues t b m (i + 1))).1)).flag (red ls).2) (2 * ls.length + 6)) := by
  intro ls red
  have hlane : ∀ i, i < lanesOf t.width → active (s.me.getK m) i = true →
      ((s.redSteps op t b m).getD (activeBelow (s.me.getK m) i) (0, 0)).1 = (red (s.activeValues t b m (i + 1))).1 := by
    intro i hi ha
    have hlt : activeBelow (s.me.getK m) i < ls.length := 
      (activeBelow_lt hi ha).trans_eq (List.length_map _).symm
    have htake : ls.take (activeBelow (s.me.getK m) i + 1) = s.activeValues t b m (i + 1) :=
      List.map_take.symm.trans (congrArg (List.map _) (activeLanes_take hi ha))
    rw [← htake]
    exact redRun_getD op t s.env ident hlt
  have hflags : allFlags (s.redSteps op t b m) = (red ls).2 := allFlags_redRun ..
  rw [vscan, redRounds_ok hr, retireAfter_flows hf, hflags, length_redSteps]
  simp only [mergeLanes_congr hlane]
  rfl

end Sys2Proof.Machine
end

section
/-! SUPPORT. The integer reductions: their steps stay in the lane's width and raise no flag (R116, R169, R176, R177). -/
namespace Sys2Proof.Machine

/-! ## The range of a type -/

theorem sext_eq_toInt {w : Nat} (hw : 0 < w) (x : Nat) : sext x w = (BitVec.ofNat w x).toInt := by
  have hbit : (BitVec.ofNat w x).msb = x.testBit (w - 1) := by
    rw [BitVec.msb_eq_getLsbD_last, BitVec.getLsbD_ofNat, decide_eq_true (by omega), Bool.true_and]
  rw [sext, BitVec.toInt_eq_msb_cond, hbit, BitVec.toNat_ofNat]
  split <;> simp
/-- The least and the greatest value of w bits with a sign. -/
theorem sext_half {w : Nat} (hw : 0 < w) : sext (2 ^ (w - 1)) w = -(2 ^ (w - 1) : Nat) := by
  have hh := two_mul_half hw
  have hpos : 0 < 2 ^ (w - 1) := by positivity
  rw [sext, Nat.testBit_two_pow_self, if_pos rfl, Nat.mod_eq_of_lt (by omega)]
  omega
theorem sext_half_pred {w : Nat} (hw : 0 < w) : sext (2 ^ (w - 1) - 1) w = (2 ^ (w - 1) : Nat) - 1 := by
  have hh := two_mul_half hw
  have hpos : 0 < 2 ^ (w - 1) := by positivity
  rw [sext, Nat.testBit_lt_two_pow (by omega), if_neg (by decide), Nat.mod_eq_of_lt (by omega)]
  omega

/-- A lane as the number that its type reads in it. -/
def laneInt (t : ElemT) (x : Nat) : Int := if t.isSigned then sext x t.width else (x : Int)

variable {s : State} {op : RedK} {t : ElemT}

theorem laneInt_inj {x y : Nat} (hx : x < 2 ^ t.width) (hy : y < 2 ^ t.width) (h : laneInt t x = laneInt t y) : x = y :=
  readInt_inj hx hy ((readInt_eq hx).trans (h.trans (readInt_eq hy).symm))
theorem redIdent_lt (ht : t.isInt = true) (op : RedK) : redIdent op t < 2 ^ t.width := by
  have hh := two_mul_half (width_pos t)
  have hpos : 0 < 2 ^ (t.width - 1) := by positivity
  cases op with
  | add | or => exact Nat.two_pow_pos _
  | and => exact Nat.sub_one_lt (Nat.two_pow_pos _).ne'
  | min | max => simp only [redIdent, ht, if_true]; split <;> omega
/-- No lane is above the identity of the minimum, and none below that of the maximum (R177). -/
theorem laneInt_le_ident (ht : t.isInt = true) {c : Nat} (hc : c < 2 ^ t.width) : laneInt t c ≤ laneInt t (redIdent .min t) := by
  simp only [laneInt, redIdent, ht, if_true]
  split
  · rw [sext_half_pred (width_pos t), sext_eq_toInt (width_pos t)]
    have hlt := (BitVec.ofNat t.width c).toInt_lt
    push_cast at hlt ⊢
    omega
  · omega
theorem ident_le_laneInt (ht : t.isInt = true) (c : Nat) : laneInt t (redIdent .max t) ≤ laneInt t c := by
  simp only [laneInt, redIdent, ht, if_true]
  split
  · rw [sext_half (width_pos t), sext_eq_toInt (width_pos t)]
    have hle := (BitVec.ofNat t.width c).le_toInt
    push_cast at hle ⊢
    omega
  · omega

/-! ## Steps -/

/-- The step of an integer reduction is g, which stays in the lane's width, and its identity leaves a lane as it is. -/
structure StepsAs (op : RedK) (t : ElemT) (g : Nat → Nat → Nat) : Prop where
  step : ∀ (v : FEnv) {a c : Nat}, a < 2 ^ t.width → c < 2 ^ t.width → redStep op t v a c = plain (g a c)
  lt : ∀ {a c : Nat}, a < 2 ^ t.width → c < 2 ^ t.width → g a c < 2 ^ t.width
  ident : ∀ {c : Nat}, c < 2 ^ t.width → g (redIdent op t) c = c

theorem stepsAs_add (ht : t.isInt = true) : StepsAs .add t fun a c => (a + c) % 2 ^ t.width where
  step _ _ _ _ _ := if_pos ht
  lt _ _ := Nat.mod_lt _ (by positivity)
  ident {c} hc := by rw [redIdent, Nat.zero_add, Nat.mod_eq_of_lt hc]
theorem stepsAs_min (ht : t.isInt = true) : StepsAs .min t fun a c => if laneInt t c < laneInt t a then c else a where
  step _ _ _ ha hc := by rw [redStep, if_pos ht, readInt_eq ha, readInt_eq hc]; rfl
  lt ha hc := by split <;> assumption
  ident {c} hc := by
    rcases (laneInt_le_ident ht hc).lt_or_eq with h | h
    · exact if_pos h
    · rw [laneInt_inj hc (redIdent_lt ht .min) h, ite_self]
theorem stepsAs_max (ht : t.isInt = true) : StepsAs .max t fun a c => if laneInt t a < laneInt t c then c else a where
  step _ _ _ ha hc := by rw [redStep, if_pos ht, readInt_eq ha, readInt_eq hc]; rfl
  lt ha hc := by split <;> assumption
  ident {c} hc := by
    rcases (ident_le_laneInt ht c).lt_or_eq with h | h
    · exact if_pos h
    · rw [← laneInt_inj (redIdent_lt ht .max) hc h, ite_self]
theorem stepsAs_and : StepsAs .and t fun a c => a &&& c where
  step _ _ _ _ _ := rfl
  lt _ hc := Nat.and_lt_two_pow _ hc
  ident {c} hc := by rw [redIdent, Nat.and_comm, Nat.and_two_pow_sub_one_eq_mod, Nat.mod_eq_of_lt hc]
theorem stepsAs_or : StepsAs .or t fun a c => a ||| c where
  step _ _ _ _ _ := rfl
  lt ha hc := Nat.or_lt_two_pow ha hc
  ident {c} _ := Nat.zero_or c

/-- Steps without flags are a fold. -/
theorem foldl_runStep {g : Nat → Nat → Nat} (h : StepsAs op t g) (v : FEnv) {a : Nat} (ha : a < 2 ^ t.width) {l : List Nat}
    (hl : ∀ x ∈ l, x < 2 ^ t.width) : l.foldl (runStep (redStep op t v)) (plain a) = plain (l.foldl g a) := by
  induction l generalizing a with
  | nil => rfl
  | cons c l ih =>
    have hc := hl c List.mem_cons_self
    have hstep : runStep (redStep op t v) (plain a) c = plain (g a c) := by
      rw [runStep, plain, h.step v ha hc]; exact congrArg (Prod.mk _) BitVec.zero_or
    rw [List.foldl_cons, hstep, ih (h.lt ha hc) fun x hx => hl x (List.mem_cons_of_mem _ hx), List.foldl_cons]
/-- An integer reduction is a fold from its identity, with no flag. -/
theorem reduction_int {g : Nat → Nat → Nat} (ht : t.isInt = true) (h : StepsAs op t g) (v : FEnv) {l : List Nat}
    (hl : ∀ x ∈ l, x < 2 ^ t.width) :
    reduction (redFirst t v) (redStep op t v) (redIdent op t) l = plain (l.foldl g (redIdent op t)) := by
  cases l with
  | nil => rfl
  | cons a l =>
    have ha := hl a List.mem_cons_self
    have hfirst : redFirst t v a = plain a := if_pos ht
    rw [reduction, hfirst, foldl_runStep h v ha fun x hx => hl x (List.mem_cons_of_mem _ hx), List.foldl_cons, h.ident ha]

/-! ## The forms -/

theorem activeValues_lt {b : VR} {m : KR} {n x : Nat} (h : x ∈ s.activeValues t b m n) : x < 2 ^ t.width := by
  obtain ⟨i, _, rfl⟩ := List.mem_map.mp h
  exact lane_lt ..
theorem flag_zero (c : Ctx) : c.flag 0 = c := by simp [Ctx.flag]
theorem laneFlags_zero (n : Nat) (k : KWord) : laneFlags n k (fun _ => 0) = 0 :=
  BitVec.eq_of_getLsbD_eq fun b _ => by simp [getLsbD_laneFlags]
/-- A lane form that raises no flag writes its lanes alone. -/
theorem putLanes_plain (s : State) (w : Nat) (d : VR) (m : KR) (f : Nat → Nat) : s.putLanes w d m (fun j => (f j, 0)) =
    s.mapMe fun c => c.setV d (mergeLanes (c.getV d) w (s.me.getK m) f) := by
  simp only [State.putLanes, laneFlags_zero, flag_zero]

/-- An integer reduction writes its fold over the active lanes, with no flag. -/
theorem vred_int_flows (hf : s.flows) (ht : t.isInt = true) {g : Nat → Nat → Nat} (h : StepsAs op t g) (d : XR) (b : VR) (m : KR) :
    let ls := s.activeValues t b m (lanesOf t.width)
    vred op t d b m s = .next (s.steppedFor (s.putX d (xOfLane t (ls.foldl g (redIdent op t)))) (2 * ls.length + 6)) := by
  intro ls
  rw [vred_flows hf fun _ hfloat => absurd ht (by simp [hfloat])]
  simp only [reduction_int ht h s.env fun _ => activeValues_lt, plain, flag_zero]
  rfl
/-- An integer scan writes the folds over the active lanes up to each, with no flag. -/
theorem vscan_int_flows (hf : s.flows) (ht : t.isInt = true) {g : Nat → Nat → Nat} (h : StepsAs op t g) (d b : VR) (m : KR) :
    vscan op t d b m s = .next (s.steppedFor (s.putLanes t.width d m fun j =>
      ((s.activeValues t b m (j + 1)).foldl g (redIdent op t), 0)) (2 * (s.activeValues t b m (lanesOf t.width)).length + 6)) := by
  rw [vscan_flows hf (fun _ hfloat => absurd ht (by simp [hfloat])) d b m (redIdent op t), putLanes_plain]
  simp only [reduction_int ht h s.env fun _ => activeValues_lt, plain, flag_zero]

end Sys2Proof.Machine
end

section
/-! SUPPORT. The results of additions, minima and maxima have the bits of their format, and the floating reductions (R144, R145,
R176, R177). -/
namespace Sys2Proof.Machine

/-! ## Codes of a format -/

/-- Infinity and the canonical NaN of a format are codes of its bits. -/
structure Fmt.Fits (f : Fmt) : Prop where
  inf : f.infCode < 2 ^ f.sgn
  nan : f.nan < 2 ^ (f.sgn + 1)

variable {f : Fmt}

theorem Fmt.sign_add_lt (f : Fmt) (g : Bool) {x : Nat} (h : x < 2 ^ f.sgn) : f.sign g + x < 2 ^ (f.sgn + 1) := by
  rw [Nat.pow_succ, Fmt.sign]
  split <;> omega
theorem Fmt.Fits.nanOf_lt (hf : f.Fits) {l : List Num} {r : Fp} (h : r.1 < 2 ^ (f.sgn + 1)) : ((nanOf f l).getD r).1 < 2 ^ (f.sgn + 1) := by
  rw [nanOf]
  split_ifs
  · exact hf.nan
  · exact hf.nan
  · exact h
theorem Fmt.Fits.overflow_lt (hf : f.Fits) (v : FEnv) (g exact : Bool) : (f.overflow v g exact).1 < 2 ^ (f.sgn + 1) := by
  have hinf := Fmt.sign_add_lt f g hf.inf
  have hmax := Fmt.sign_add_lt f g (Nat.lt_of_succ_lt hf.inf : f.maxCode < _)
  rw [Fmt.overflow]
  split
  · exact hmax
  · split
    · exact hinf
    · split
      · exact hmax
      · exact hinf
theorem Fmt.Fits.round_lt (hf : f.Fits) (v : FEnv) (idx : Nat) (g : Bool) (a : Mag) : (f.round v idx g a).1 < 2 ^ (f.sgn + 1) := by
  have hzero := Fmt.sign_add_lt f g (Nat.two_pow_pos f.sgn)
  have hmax : f.maxCode < 2 ^ f.sgn := Nat.lt_of_succ_lt hf.inf
  unfold Fmt.round
  split
  · exact hzero
  · extract_lets lg emin
    split
    · exact hzero
    · split
      · exact hf.overflow_lt v g false
      · next hcode => exact Fmt.sign_add_lt f g ((not_lt.mp hcode).trans_lt hmax)
theorem Fmt.Fits.sum_lt (hf : f.Fits) (v : FEnv) (idx : Nat) (x y : Num) : (f.sum v idx x y).1 < 2 ^ (f.sgn + 1) := by
  unfold Fmt.sum
  split
  · split
    · exact hf.overflow_lt ..
    · exact hf.nan
  · exact hf.overflow_lt ..
  · exact hf.overflow_lt ..
  · exact hf.round_lt ..
  · exact hf.nan
  · exact hf.nan
theorem Fmt.Fits.add_lt (hf : f.Fits) (v : FEnv) (idx b c : Nat) : (f.add v idx b c).1 < 2 ^ (f.sgn + 1) :=
  hf.nanOf_lt (hf.sum_lt ..)
theorem Fmt.pat_lt (f : Fmt) (v : FEnv) (b : Nat) : f.pat v b < 2 ^ (f.sgn + 1) := by
  unfold Fmt.pat
  split
  · exact Fmt.sign_add_lt f _ (Nat.two_pow_pos f.sgn)
  · exact Nat.mod_lt _ (by positivity)
theorem Fmt.Fits.minMax_lt (hf : f.Fits) (v : FEnv) (hi : Bool) (b c : Nat) : (f.minMax v hi b c).1 < 2 ^ (f.sgn + 1) := by
  refine hf.nanOf_lt ?_
  split_ifs <;> exact Fmt.pat_lt ..

/-! ## Reductions -/

variable {s : State} {op : RedK} {t : ElemT}

theorem vFmt_fits (ht : t ∈ [ElemT.f16, .bf16, .f32]) : (vFmt t).Fits := by
  fin_cases ht <;> exact ⟨by decide, by decide⟩
theorem width_eq_sgn_succ (ht : t ∈ [ElemT.f16, .bf16, .f32]) : t.width = (vFmt t).sgn + 1 := by
  fin_cases ht <;> rfl
theorem isInt_of_float (ht : t ∈ [ElemT.f16, .bf16, .f32]) : t.isInt = false := by
  fin_cases ht <;> rfl
/-- The first lane alone is delivered as read (R176). -/
theorem redFirst_float (ht : t.isInt = false) (v : FEnv) (a : Nat) : redFirst t v a =
    if (vFmt t).read v a = .nan true then ((vFmt t).nan, fNv) else if (vFmt t).read v a = .nan false then ((vFmt t).nan, 0)
    else ((vFmt t).pat v a, 0) := by
  rw [redFirst, if_neg (by simp [ht]), nanOf]
  simp only [List.contains_cons, List.contains_nil, Bool.or_false, beq_iff_eq, eq_comm (a := Num.nan _)]
  split_ifs <;> rfl
theorem redFirst_lt (ht : t ∈ [ElemT.f16, .bf16, .f32]) (v : FEnv) (a : Nat) : (redFirst t v a).1 < 2 ^ t.width := by
  rw [redFirst, isInt_of_float ht, width_eq_sgn_succ ht]
  exact (vFmt_fits ht).nanOf_lt (Fmt.pat_lt ..)
theorem reduction_lt {first : Nat → Fp} {step : Nat → Nat → Fp} {ident n : Nat} (hn : ident < n) (hfirst : ∀ a, (first a).1 < n)
    (hstep : ∀ a c, (step a c).1 < n) (l : List Nat) : (reduction first step ident l).1 < n := by
  cases l with
  | nil => exact hn
  | cons a l => exact List.foldlRecOn (motive := fun r => r.1 < n) l (runStep step) (hfirst a) fun r _ c _ => hstep r.1 c
/-- A code of a floating type is held as it is. -/
theorem xOfLane_float (ht : t ∈ [ElemT.f16, .bf16, .f32]) {x : Nat} (hx : x < 2 ^ t.width) : xOfLane t x = BitVec.ofNat 64 x := by
  have hs : t.isSigned = false := by fin_cases ht <;> rfl
  rw [xOfLane, hs, if_neg (by decide), zext, Nat.mod_eq_of_lt hx]; rfl

/-- A floating reduction writes the code that it comes to. -/
theorem vred_float_flows (hf : s.flows) (ht : t ∈ [ElemT.f16, .bf16, .f32]) (hr : rmodeOf s.me.fctx < 6) {g : Nat → Nat → Fp}
    (hg : redStep op t s.env = g) (hlt : ∀ a c, (g a c).1 < 2 ^ t.width) (hn : redIdent op t < 2 ^ t.width)
    (d : XR) (b : VR) (m : KR) :
    let ls := s.activeValues t b m (lanesOf t.width)
    let r := reduction (redFirst t s.env) g (redIdent op t) ls
    vred op t d b m s =
      .next (s.steppedFor (s.mapMe fun c => (c.setX d (BitVec.ofNat 64 r.1)).flag r.2) (2 * ls.length + 6)) := by
  subst hg
  intro ls r
  rw [vred_flows hf fun _ _ => hr, ← xOfLane_float ht (reduction_lt hn (redFirst_lt ht _) hlt ls)]

end Sys2Proof.Machine
end

section
/-! CERTIFICATE. Lane movement, reductions and scans complete with their results: O21. -/
namespace Sys2Proof.Machine

variable {s : State}

/-- A form that writes every lane, by lane number. -/
theorem laneAll_flows (hf : s.flows) (t : ElemT) (d : VR) {f g : Nat → Nat} (hg : ∀ j, j < 256 / t.width → f j = g j)
    (hlt : ∀ j, f j < 2 ^ t.width) :
    ∃ r, laneAll s t d f = .next (s.wroteV d r) ∧ ∀ j, j < 256 / t.width → lane r t.width j = g j :=
  ⟨_, retire_flows hf _, fun j hj => (lane_ofLanes_range t.width j f hj (hlt j)).trans (hg j hj)⟩
theorem ite_lane_lt (p : Prop) [Decidable p] (v : VWord) (w i : Nat) : (if p then lane v w i else 0) < 2 ^ w := by
  split
  · exact lane_lt ..
  · positivity

theorem vxlr_flows (hf : s.flows) (t : ElemT) (d b c : VR) (m : KR) :
    let lb (j : Nat) : Nat := lane (s.me.getV b) t.width j
    let lc (j : Nat) : Nat := lane (s.me.getV c) t.width j
    ∃ r, exec (.vxlr t d b c m) s = .next (s.wroteV d r) ∧ ∀ j, j < 256 / t.width →
      lane r t.width j = if lc j < 256 / t.width ∧ (s.me.getK m).getLsbD (lc j) = true then lb (lc j) else 0 :=
  laneAll_flows hf t d (fun j _ => by simp only [Bool.and_eq_true, decide_eq_true_eq]; rfl) fun j => ite_lane_lt ..
theorem vcompr_flows (hf : s.flows) (t : ElemT) (d b : VR) (m : KR) :
    ∃ r, exec (.vcompr t d b m) s = .next (s.wroteV d r) ∧ ∀ j, j < 256 / t.width →
      lane r t.width j = (((List.range (256 / t.width)).filter (s.me.getK m).getLsbD).map (lane (s.me.getV b) t.width)).getD j 0 := by
  refine laneAll_flows hf t d (fun j _ => ?_) fun j => ite_lane_lt ..
  change _ = ((activeLanes (s.me.getK m) (lanesOf t.width)).map (s.lane b t.width)).getD j 0
  by_cases h : j < (activeLanes (s.me.getK m) (lanesOf t.width)).length
  · rw [if_pos h, List.getD_eq_getElem _ _ h, List.getD_eq_getElem _ _ (by rwa [List.length_map]), List.getElem_map]
  · rw [if_neg h, List.getD_eq_default _ _ (by rw [List.length_map]; exact not_lt.mp h)]
theorem vexpnd_flows (hf : s.flows) (t : ElemT) (d b : VR) (m : KR) :
    ∃ r, exec (.vexpnd t d b m) s = .next (s.wroteV d r) ∧ ∀ j, j < 256 / t.width → lane r t.width j =
      if (s.me.getK m).getLsbD j then lane (s.me.getV b) t.width ((List.range j).filter (s.me.getK m).getLsbD).length else 0 :=
  laneAll_flows hf t d (fun j _ => by rw [activeBelow_eq_length]; rfl) fun j => ite_lane_lt ..
theorem vzip_flows (hf : s.flows) (t : ElemT) (d b c : VR) (m : KR) : exec (.vzip t d b c m) s =
    .next (s.stepped (s.putLanes t.width d m fun j =>
      (if j % 2 = 0 then lane (s.me.getV b) t.width (j / 2) else lane (s.me.getV c) t.width (j / 2), 0))) := by
  refine (retire_flows hf _).trans (congrArg (fun f => Host.Outcome.next (s.stepped (s.putLanes t.width d m f))) (funext fun j => ?_))
  refine congrArg plain ?_
  by_cases h : j % 2 = 0
  · exact (if_pos h).trans (if_pos h).symm
  · have hhalf : (j - 1) / 2 = j / 2 := by omega
    exact (if_neg h).trans ((congrArg (s.lane c t.width) hhalf).trans (if_neg h).symm)
theorem vins_flows (hf : s.flows) (t : ElemT) (d : VR) (y z : XS) : ∃ r, exec (.vins t d y z) s = .next (s.wroteV d r) ∧
    ∀ j, j < 256 / t.width → lane r t.width j =
      if j = (s.me.getS z).toNat then (s.me.getS y).toNat % 2 ^ t.width else lane (s.me.getV d) t.width j :=
  ⟨_, retire_flows hf _, fun j hj => lane_ofLanes_range t.width j _ hj (by
    split
    · exact Nat.mod_lt _ (by positivity)
    · exact lane_lt ..)⟩

/-- Settles O21, form by form: a lane form writes the lanes that it names, an integer reduction is a fold that stays in the lane's
width, and a floating one runs over the active lanes with codes of its format. -/
theorem lanesAndReductions : Obligations.LanesAndReductions := by
  unfold Obligations.LanesAndReductions
  refine ⟨fun s t d b c i x y z m hf => ?_, fun s t x d b m hf ht => ?_, fun s t x d b m hf ht hr => ?_⟩
  · intro w n k lb lc u on
    exact ⟨vxlr_flows hf t d b c m, retire_flows hf _, vcompr_flows hf t d b m, vexpnd_flows hf t d b m, retire_flows hf _,
      retire_flows hf _, vzip_flows hf t d b c m, retire_flows hf _, retire_flows hf _, vins_flows hf t d y z⟩
  · intro w n k v ls upto sum least most all any out scan
    have hmin : redIdent .min t = if t.isSigned then 2 ^ (w - 1) - 1 else 2 ^ w - 1 := if_pos ht
    have hmax : redIdent .max t = if t.isSigned then 2 ^ (w - 1) else 0 := if_pos ht
    have hleast : ∀ l, l.foldl (fun a c => if laneInt t c < laneInt t a then c else a) (redIdent .min t) = least l :=
      fun l => by rw [hmin]; rfl
    have hmost : ∀ l, l.foldl (fun a c => if laneInt t a < laneInt t c then c else a) (redIdent .max t) = most l :=
      fun l => by rw [hmax]; rfl
    refine ⟨vred_int_flows hf ht (stepsAs_add ht) x b m, ?_, ?_, vred_int_flows hf ht stepsAs_and x b m,
      vred_int_flows hf ht stepsAs_or x b m, vscan_int_flows hf ht (stepsAs_add ht) d b m, ?_, ?_⟩
    · exact (vred_int_flows hf ht (stepsAs_min ht) x b m).trans (by simp only [hleast]; rfl)
    · exact (vred_int_flows hf ht (stepsAs_max ht) x b m).trans (by simp only [hmost]; rfl)
    · exact (vscan_int_flows hf ht (stepsAs_min ht) d b m).trans (by simp only [hleast]; rfl)
    · exact (vscan_int_flows hf ht (stepsAs_max ht) d b m).trans (by simp only [hmost]; rfl)
  · rw [← vFmt_of_mem ht]
    intro f e w k upto ls run out scan
    have hint : t.isInt = false := isInt_of_float ht
    have hfloat : ¬ t.isInt = true := by simp [hint]
    have hfits : f.Fits := vFmt_fits ht
    have hw : w = f.sgn + 1 := width_eq_sgn_succ ht
    have hrun : ∀ g ident l, reduction (redFirst t s.env) g ident l = run g ident l := by
      intro g ident l
      cases l with
      | nil => rfl
      | cons a l => rw [reduction, redFirst_float hint]; rfl
    have hadd : redStep .add t s.env = f.add e 0 := funext₂ fun _ _ => if_neg hfloat
    have hmin : redStep .min t s.env = f.minMax e false := funext₂ fun _ _ => if_neg hfloat
    have hmax : redStep .max t s.env = f.minMax e true := funext₂ fun _ _ => if_neg hfloat
    have hred : ∀ {op g ident}, redStep op t s.env = g → (∀ a c, (g a c).1 < 2 ^ w) → redIdent op t = ident → ident < 2 ^ w →
        vred op t x b m s = out (run g ident ls) := by
      intro op g ident hg hlt hident hn
      subst hident
      rw [vred_float_flows hf ht hr hg hlt hn, hrun]
      rfl
    have hscan : ∀ {op g}, redStep op t s.env = g → vscan op t d b m s = scan g := by
      intro op g hg
      rw [vscan_flows hf (fun _ _ => hr) d b m 0, hg]
      simp only [hrun]
      rfl
    have hminMax : ∀ hi a c, (f.minMax e hi a c).1 < 2 ^ w := fun hi a c => hw ▸ hfits.minMax_lt e hi a c
    have hinf : f.infCode < 2 ^ w := hw ▸ hfits.inf.trans (Nat.pow_lt_pow_succ (by decide))
    exact ⟨hred hadd (fun a c => hw ▸ hfits.add_lt e 0 a c) rfl (by positivity), hred hmin (hminMax false) (if_neg hfloat) hinf,
      hred hmax (hminMax true) (if_neg hfloat) (hw ▸ Fmt.sign_add_lt f true hfits.inf), hscan hadd, hscan hmin, hscan hmax⟩

end Sys2Proof.Machine
end

section
/-! SUPPORT. What lines, notes of writes, and the end of a command leave of a cluster (R266, R273, R278, R350, R364). -/
namespace Sys2Proof.Machine

/-! ## Lines that come and go (R266, R273, R350) -/

/-- A change of one cluster that something of a cluster does not see. -/
theorem mapClu_view {β : Type} {v : Cluster → β} {s : State} {m : Nat} {f : Cluster → Cluster} (h : v (f (s.clu m)) = v (s.clu m)) (n : Nat) :
    v ((s.mapClu m f).clu n) = v (s.clu n) := by
  rw [clu_mapClu]
  split
  · next e => rw [e]; exact h
  · rfl

section Lines
variable {β : Type} {v : Cluster → β} (hv : ∀ k l, v { k with lines := l } = v k)
include hv

theorem sliceIn_clu_view (s : State) (b pa : Nat) (home : Bool) (n : Nat) : v ((s.sliceIn b pa home).clu n) = v (s.clu n) := by
  have hroom : ∀ (m : Nat) (mine : SLine → Bool), v (State.clu
      (if ((s.clu (bankCluster b)).lines.filter mine).length < m then s
       else match ((s.clu (bankCluster b)).lines.filter mine)[(s.freeNat m).1]? with
        | some l => (s.freeNat m).2.sliceOut (bankCluster b) l
        | none => (s.freeNat m).2) n) = v (s.clu n) := fun m mine => by
    split
    · rfl
    · split
      · exact mapClu_view (s := (s.freeNat m).2) (f := fun k => { k with lines := k.lines.erase _ }) (hv _ _) n
      · rfl
  unfold State.sliceIn
  dsimp only
  split
  · rfl
  · exact (mapClu_view (v := v) (by exact hv _ _) n).trans (hroom _ _)
theorem homeDirty_clu_view (s : State) (pa n : Nat) : v ((s.homeDirty pa).clu n) = v (s.clu n) := by
  unfold State.homeDirty State.dirtyAt
  split
  · exact (mapClu_view (v := v) (by exact hv _ _) n).trans (sliceIn_clu_view hv s _ pa true n)
  · rfl
theorem recall_clu_view (s : State) (pa n : Nat) : v ((s.recall pa).clu n) = v (s.clu n) := by
  have hmap := tget_map_view (g := fun p : Nat × Cluster => (p.1, { p.2 with lines := p.2.lines.filter fun l => !(l.pa == pa / 64 * 64) || l.home }))
    (v := v) (fun _ => rfl) (fun p => hv p.2 _) s.clus n Cluster.reset
  unfold State.recall
  dsimp only
  split
  · exact (homeDirty_clu_view hv _ pa n).trans hmap
  · exact hmap
theorem engRead_clu_view (s : State) (a n : Nat) : v ((s.engRead a).clu n) = v (s.clu n) := by
  unfold State.engRead
  split
  · rfl
  · exact recall_clu_view hv s a n
theorem readHomes_clu_view (s : State) (rs : List (Nat × Nat)) (n : Nat) : v ((s.readHomes rs).clu n) = v (s.clu n) :=
  foldl_view (v := fun t : State => v (t.clu n)) (fun t _ =>
    foldl_view (v := fun t : State => v (t.clu n)) (fun t _ => engRead_clu_view hv t _ n) _ t) rs s
end Lines

theorem engRead_sameMem (s : State) (a : Nat) : SameMem s (s.engRead a) := by
  unfold State.engRead
  split
  · exact .refl s
  · exact recall_sameMem s a
theorem readHomes_sameMem (s : State) (rs : List (Nat × Nat)) : SameMem s (s.readHomes rs) :=
  .foldl (fun t _ => .foldl (fun t _ => engRead_sameMem t _) _ t) rs s
theorem omu_readHomes (s : State) (rs : List (Nat × Nat)) (cl : Nat) : (s.readHomes rs).omu cl = s.omu cl :=
  readHomes_clu_view (v := Cluster.omu) (fun _ _ => rfl) s rs cl
theorem mill_readHomes (s : State) (rs : List (Nat × Nat)) (cl : Nat) : ((s.readHomes rs).clu cl).mill = (s.clu cl).mill :=
  readHomes_clu_view (v := Cluster.mill) (fun _ _ => rfl) s rs cl
theorem SameMem.readRuns {s t : State} (h : SameMem s t) (rs : List (Nat × Nat)) : t.readRuns rs = s.readRuns rs := by
  unfold State.readRuns
  simp only [h.rdN]
theorem SameMem.badIn {s t : State} (h : SameMem s t) (a n : Nat) : t.badIn a n = s.badIn a n := by
  obtain ⟨-, -, hpoison, -⟩ := h
  unfold State.badIn State.isBad
  rw [hpoison]

/-! ## A place that was reached is not lost when copies are recalled (R365) -/

/-- Only a scratchpad is lost, and its remap entry says so. -/
theorem engReach_ne_lost {s t : State} {c asid a : Nat} (hok : s.engReach c asid a = .ok)
    (hremap : ∀ n, (t.clu n).remap = (s.clu n).remap) (e : Nat) : t.engReach c asid a ≠ .lost e := by
  have hstate : t.remapState (spadCore a) = s.remapState (spadCore a) := by
    unfold State.remapState State.remapOf; rw [hremap]
  unfold State.engReach at hok ⊢
  split
  · next hspad =>
    rw [if_pos hspad] at hok
    rw [hstate]
    split
    · next h => rw [h] at hok; cases hok
    · next h => rw [h] at hok; cases hok
    · simp
    · split <;> simp
  · split <;> simp

/-! ## The note of a write, and an engine's write at a home (R278, R294, R350) -/

theorem tagWrite_clu_view {β : Type} {v : Cluster → β} (ht : ∀ k x, v { k with trace := x } = v k) (s : State) (c : Nat) (rel : Option Scope)
    (home : Bool) (w n : Nat) : v ((s.tagWrite c rel home w).clu n) = v (s.clu n) := by
  have traced : ∀ (r : Nat × State) (m : Nat) (f : Cluster → Cluster), (∀ k, v (f k) = v k) → v (r.2.clu n) = v (s.clu n) →
      v (State.clu (if r.1 = 0 then r.2.mapClu m f else r.2) n) = v (s.clu n) := fun r m f hf h => by
    split
    · exact (mapClu_view (v := v) (by exact hf _) n).trans h
    · exact h
  unfold State.tagWrite State.tagAt State.traceWrite
  split
  · rfl
  · dsimp only
    split
    · refine traced _ _ _ (fun k => ht k _) ?_
      split <;> rfl
    · rfl
/-- An engine writes a word of memory at its home: the word stands there, and nothing else of memory is changed. -/
theorem engWrite_home {a : Nat} (ha : a < 2 ^ 52) (s : State) (c : Nat) (sc : Scope) (n v : Nat) : Wrote s (s.engWrite c sc a n v false) a n v := by
  have hspad : isSpad a = false := decide_eq_false (not_le.mpr ha)
  have hflit : ∀ (t : State) (bs : List Byte), SameMem t (t.handFlit c a bs) := fun t bs => by
    unfold State.handFlit
    split
    · exact ⟨rfl, rfl, rfl, rfl⟩
    · exact .refl t
  have htag := (NotesOnly.tagWrite ((s.engRead a).store a n v false) c (some sc) true a).mem
  unfold State.engWrite
  dsimp only
  rw [hspad, if_neg Bool.false_ne_true]
  exact (engRead_sameMem s a).wrote ((Wrote.store _ a n v).trans
    (htag.trans ((hflit _ _).trans ((homeDirty_sameMem _ a).trans (wakeSyncs_sameMem _ a)))))
theorem mill_engWrite {a : Nat} (ha : a < 2 ^ 52) (s : State) (c : Nat) (sc : Scope) (n v cl : Nat) :
    ((s.engWrite c sc a n v false).clu cl).mill = (s.clu cl).mill := by
  have hspad : isSpad a = false := decide_eq_false (not_le.mpr ha)
  have hflit : ∀ (t : State) (bs : List Byte), (t.handFlit c a bs).clus = t.clus := fun t bs => by
    unfold State.handFlit; split <;> rfl
  unfold State.engWrite
  dsimp only
  rw [hspad, if_neg Bool.false_ne_true]
  refine (wakeSyncs_view (v := fun t : State => (t.clu cl).mill) (by intro _ _ _ _; rfl) _ a).trans ?_
  refine (homeDirty_clu_view (v := Cluster.mill) (fun _ _ => rfl) _ a cl).trans ?_
  rw [clu_of_clus (hflit _ _)]
  exact (tagWrite_clu_view (v := Cluster.mill) (fun _ _ => rfl) _ _ _ _ _ cl).trans
    (engRead_clu_view (v := Cluster.mill) (fun _ _ => rfl) s a cl)

/-! ## The end of a command (R350, R364) -/

theorem raiseAsync_clus (s : State) (c asid cause : Nat) (val : Word) : (s.raiseAsync c asid cause val).clus = s.clus := by
  unfold State.raiseAsync
  split
  · rfl
  · dsimp only
    split <;> rfl
/-- A completion notes its status in its cluster: no other change of a cluster. -/
theorem complete_clus (s : State) (cl kind seq status : Nat) (sc : Scope) (who asid : Nat) :
    (s.complete cl kind seq status sc who asid).clus = (s.noteDone cl kind seq status sc).clus := by
  have hanswer : ∀ (u : State) (a : Await),
      (((u.acquireOf a.ctx (awaitScope kind sc) []).replyX a.ctx a.d (w64 status) false).reply a.ctx).clus = u.clus := fun u a => by
    unfold State.reply
    split <;> rfl
  have hlook : ∀ u : State, (if (u.ctx who).run = .halted then u.seeLaunch (coreOf who) else u).clus = u.clus := fun u => by
    unfold State.seeLaunch
    split
    · split <;> rfl
    · rfl
  have hfault : ∀ u : State, (if [1, 2, 3, 4, 6].contains status then u.raiseAsync who asid 0x29 (tokenOf kind seq) else u).clus = u.clus :=
    fun u => by
      split
      · exact raiseAsync_clus u _ _ _ _
      · rfl
  exact (hfault _).trans ((hlook _).trans (foldl_view (v := State.clus) hanswer _ _))
theorem complete_sameMem (s : State) (cl kind seq status : Nat) (sc : Scope) (who asid : Nat) :
    SameMem s (s.complete cl kind seq status sc who asid) :=
  (noteDone_sameMem s cl kind seq status sc).trans (complete_goesOn s cl kind seq status sc who asid).mem
theorem complete_clu_view {β : Type} {v : Cluster → β} (hv : ∀ k d a, v { k with done := d, awaits := a } = v k) (s : State)
    (cl kind seq status : Nat) (sc : Scope) (who asid n : Nat) : v ((s.complete cl kind seq status sc who asid).clu n) = v (s.clu n) := by
  rw [clu_of_clus (complete_clus s cl kind seq status sc who asid)]
  exact mapClu_view (v := v) (by exact hv _ _ _) n

end Sys2Proof.Machine
end

section
/-! SUPPORT. PHASE_LOAD_END and PHASE_SWAP where theirs is the only command of the queue (R197, R199, R227, R228). -/
namespace Sys2Proof.Machine

theorem omu_of_clus {s t : State} (h : t.clus = s.clus) (cl : Nat) : t.omu cl = s.omu cl := congrArg Cluster.omu (clu_of_clus h cl)
theorem capture_of_empty {s : State} {cl : Nat} (h : (s.omu cl).queue = []) : (s.capture cl).omu cl = s.omu cl := by
  rw [State.capture, omu_mapOmu, h]
  change { s.omu cl with queue := [] } = _
  rw [← h]
theorem omu_omuDrop_singleton {s : State} {cl : Nat} {x : OptCmd} (h : (s.omu cl).queue = [x]) :
    (s.omuDrop cl x).omu cl = { s.omu cl with queue := [] } := by
  rw [State.omuDrop, omu_mapOmu, h]
  simp
theorem loadBegin_of_empty {s : State} {cl : Nat} (h : (s.omu cl).queue = []) : s.loadBegin cl = s := by
  unfold State.loadBegin
  rw [h]
  exact if_pos (by simp)

/-! ## PHASE_LOAD_END (R197, R227) -/

section Load
variable {s : State} {cl n w a : Nat} {rs : List (Nat × Nat)}

/-- A load's image is valid, and none of its bytes is poisoned. -/
def State.loadOk (s : State) (rs : List (Nat × Nat)) : Bool := imageValid (s.readRuns rs) && !(rs.any fun r => (s.badIn r.1 r.2).isSome)
theorem loadOk_iff : s.loadOk rs = true ↔ imageValid (s.readRuns rs) = true ∧ ∀ r, r ∈ rs → s.badIn r.1 r.2 = none := by
  simp [State.loadOk]

variable (hqueue : (s.omu cl).queue = [.load n w a rs]) (hreach : ∀ r, r ∈ rs → s.engReach w a r.1 ≠ .held)
include hqueue hreach

/-- The load leaves the queue, the shadow bank holds its image if that is valid, and its token has its status. -/
theorem phaseLoadEnd_ends : ∃ t, exec (.phaseLoadEnd cl) s = .next t ∧
    t.omu cl = { s.omu cl with loading := false, shadow := if s.loadOk rs then some (s.readRuns rs) else none, queue := [] } ∧
    ⟨1, n, if s.loadOk rs then 0 else 7, .cluster⟩ ∈ (t.clu cl).done ∧ KeepsMemory s t := by
  let bank := if s.loadOk rs then some (s.readRuns rs) else none
  let r := (s.readHomes rs).mapOmu cl fun o => { o with loading := false, shadow := bank }
  let u := (r.omuDrop cl (.load n w a rs)).capture cl
  let c := u.complete cl 1 n (if s.loadOk rs then 0 else 7) .cluster w a
  let t := if s.loadOk rs then c else c.raiseAsync w a 0x3A (tokenOf 1 n)
  have hr : r.omu cl = { s.omu cl with loading := false, shadow := bank } := by
    change State.omu (State.mapOmu ..) cl = _
    rw [omu_mapOmu, omu_readHomes]
  have hrq : (r.omu cl).queue = [.load n w a rs] := by rw [hr]; exact hqueue
  have hu : u.omu cl = { s.omu cl with loading := false, shadow := bank, queue := [] } := by
    have hdrop := omu_omuDrop_singleton hrq
    rw [show u.omu cl = _ from capture_of_empty (by rw [hdrop]), hdrop, hr]
  have htc : t.clus = c.clus := by
    change State.clus (if _ then _ else _) = _
    split
    · rfl
    · exact raiseAsync_clus c _ _ _ _
  have ht : t.omu cl = { s.omu cl with loading := false, shadow := bank, queue := [] } :=
    (omu_of_clus htc cl).trans ((complete_clu_view (v := Cluster.omu) (fun _ _ _ => rfl) u cl 1 n _ .cluster w a cl).trans hu)
  have hempty : (t.omu cl).queue = [] := by rw [ht]
  have hfree : rs.find? (fun r => s.engReach w a r.1 == .held) = none :=
    List.find?_eq_none.mpr fun r hr => by simpa using hreach r hr
  have hexec : exec (.phaseLoadEnd cl) s = .next t := by
    have hend : execPhaseLoadEnd cl s = .next (match firstOther ((t.loadBegin cl).omu cl).queue false with
        | some (.swap _ _, false) | some (.phcrc _ _ _ _, _) => (t.loadBegin cl).omuGo cl
        | _ => t.loadBegin cl) := by
      unfold execPhaseLoadEnd
      rw [hqueue]
      dsimp only [List.find?_cons, OptCmd.isLoad]
      rw [hfree]
      rfl
    change execPhaseLoadEnd cl s = _
    rw [hend, loadBegin_of_empty hempty, hempty]
    rfl
  have hsame : SameMem s t := by
    have hc : SameMem s c := (readHomes_sameMem s rs).trans (((mapOmu_sameMem _ cl _).trans ((mapOmu_sameMem r cl _).trans (mapOmu_sameMem _ cl _))).trans
      (complete_sameMem u ..))
    change SameMem s (if _ then _ else _)
    split
    · exact hc
    · exact hc.trans (GoesOn.raiseAsync c _ _ _ _).mem
  refine ⟨t, hexec, ht, ?_, hsame.keeps⟩
  rw [clu_of_clus htc]
  exact mem_done_complete u cl 1 n _ .cluster w a
end Load

/-! ## PHASE_SWAP (R199, R228) -/

section Swap
variable {s : State} {cl c : Nat} {d : XR} (hqueue : (s.omu cl).queue = [.swap c d])
include hqueue

/-- The banks change places, and the head has the CRC of the image that is live now. -/
theorem phaseSwap_full {img : Nat} (hshadow : (s.omu cl).shadow = some img) : ∃ t, exec (.phaseSwap cl) s = .next t ∧
    t.omu cl = { s.omu cl with live := some img, shadow := (s.omu cl).live, queue := [] } ∧
    (t.ctx c).getX d = (if d = 0 then 0 else w64 (imageCrc img)) ∧ (t.ctx c).why = none ∧
    (t.ctx c).pc = BitVec.ofNat 64 (s.ctx c).nextPc ∧ KeepsMemory s t := by
  let r := (s.omuDrop cl (.swap c d)).mapOmu cl fun o => { o with live := some img, shadow := o.live }
  let u := r.capture cl
  have hr : r.omu cl = { s.omu cl with live := some img, shadow := (s.omu cl).live, queue := [] } := by
    change State.omu (State.mapOmu ..) cl = _
    rw [omu_mapOmu, omu_omuDrop_singleton hqueue]
  have hu : u.omu cl = { s.omu cl with live := some img, shadow := (s.omu cl).live, queue := [] } :=
    (capture_of_empty (by rw [hr])).trans hr
  have hempty : ((u.headDone c d (w64 (imageCrc img))).omu cl).queue = [] := by rw [headDone_omu, hu]
  have hexec : exec (.phaseSwap cl) s = .next (u.headDone c d (w64 (imageCrc img))) := by
    rw [← omuGo_of_empty hempty]
    change execPhaseSwap cl s = _
    unfold execPhaseSwap
    rw [show firstOther (s.omu cl).queue false = some (.swap c d, false) by rw [hqueue]; rfl]
    dsimp only
    rw [hshadow]
    rfl
  obtain ⟨hx, hwhy, hpc⟩ := headDone_ctx u c d (w64 (imageCrc img))
  refine ⟨_, hexec, (headDone_omu ..).trans hu, hx, hwhy, hpc, ?_⟩
  have hsame : SameMem s u := (mapOmu_sameMem s cl _).trans ((mapOmu_sameMem _ cl _).trans (mapOmu_sameMem r cl _))
  exact (hsame.trans (headDone_sameMem u c d _)).keeps
/-- With an empty shadow bank the head traps, and the banks are what they were. -/
theorem phaseSwap_empty (hshadow : (s.omu cl).shadow = none) : ∃ t, exec (.phaseSwap cl) s = .next t ∧
    t.omu cl = { s.omu cl with queue := [] } ∧ KeepsMemory s t := by
  let u := (s.omuDrop cl (.swap c d)).capture cl
  let t := takeTrap u c 0x3A 0 (s.ctx c).pc false
  have hdrop := omu_omuDrop_singleton hqueue
  have hu : u.omu cl = { s.omu cl with queue := [] } := (capture_of_empty (by rw [hdrop])).trans hdrop
  have ht : t.omu cl = { s.omu cl with queue := [] } := by
    obtain ⟨cs, ks, l, m, h⟩ := takeTrap_module u c 0x3A 0 (s.ctx c).pc false
    change State.omu (takeTrap ..) cl = _
    rw [h]; exact hu
  have hexec : exec (.phaseSwap cl) s = .next t := by
    rw [← omuGo_of_empty (s := t) (cl := cl) (by rw [ht])]
    change execPhaseSwap cl s = _
    unfold execPhaseSwap
    rw [show firstOther (s.omu cl).queue false = some (.swap c d, false) by rw [hqueue]; rfl]
    dsimp only
    rw [hshadow]
  have hsame : SameMem s u := (mapOmu_sameMem s cl _).trans (mapOmu_sameMem _ cl _)
  exact ⟨t, hexec, ht, hsame.keeps.trans (takeTrap_memory u c 0x3A 0 (s.ctx c).pc false)⟩
end Swap

end Sys2Proof.Machine
end

section
/-! SUPPORT. The image that is built around phases is valid (R194, R197, R201). -/
namespace Sys2Proof.Machine

/-! ## Codes as one number (R194) -/

/-- 16-bit codes as one number, the first one least significant. -/
def joinCodes (ps : List Nat) : Nat := ps.foldr (fun p n => p + 2 ^ 16 * n) 0
theorem codes16_joinCodes {ps : List Nat} (h : ∀ p, p ∈ ps → p < 2 ^ 16) : codes16 ps.length (joinCodes ps) = ps := by
  induction ps with
  | nil => rfl
  | cons p ps ih =>
    have hp := h p List.mem_cons_self
    have hlow : (p + 2 ^ 16 * joinCodes ps) % 2 ^ 16 = p := by omega
    have hhigh : (p + 2 ^ 16 * joinCodes ps) / 2 ^ 16 = joinCodes ps := by omega
    change (p + 2 ^ 16 * joinCodes ps) % 2 ^ 16 :: codes16 ps.length ((p + 2 ^ 16 * joinCodes ps) / 2 ^ 16) = _
    rw [hlow, hhigh, ih fun q hq => h q (List.mem_cons_of_mem p hq)]
theorem codes16_lt {n v p : Nat} (h : p ∈ codes16 n v) : p < 2 ^ 16 := by
  induction n generalizing v with
  | zero => exact absurd h List.not_mem_nil
  | succ n ih =>
    rcases List.mem_cons.mp h with rfl | h
    · exact Nat.mod_lt _ (by decide)
    · exact ih h

/-! ## The image (R194, R229) -/

/-- The phase codes of the image that is built: those given, of the attenuators at most 32,768. -/
def builtCode (phases k : Nat) : Nat :=
  if 4032 ≤ k ∧ k < 4096 then Nat.min ((codes16 8192 phases).getD k 0) 32768 else (codes16 8192 phases).getD k 0
/-- All of them. -/
def builtCodes (phases : Nat) : List Nat := (List.range 8192).map (builtCode phases)
theorem builtCode_lt (phases k : Nat) : builtCode phases k < 2 ^ 16 := by
  have hcode : (codes16 8192 phases).getD k 0 < 2 ^ 16 := by
    by_cases hk : k < (codes16 8192 phases).length
    · rw [List.getD_eq_getElem _ _ hk]; exact codes16_lt (List.getElem_mem hk)
    · rw [List.getD_eq_default _ _ (not_lt.mp hk)]; decide
  unfold builtCode
  split
  · exact (Nat.min_le_left _ _).trans_lt hcode
  · exact hcode
theorem codes16_builtCodes (phases : Nat) : codes16 8192 (joinCodes (builtCodes phases)) = builtCodes phases := by
  have h := codes16_joinCodes (ps := builtCodes phases) fun p hp => by
    obtain ⟨k, -, rfl⟩ := List.mem_map.mp hp
    exact builtCode_lt phases k
  rwa [builtCodes, List.length_map, List.length_range] at h
theorem builtCodes_attenuators (phases : Nat) : (((builtCodes phases).drop 4032).take 64).all (· ≤ 32768) = true := by
  refine List.all_eq_true.mpr fun p hp => ?_
  obtain ⟨i, hi⟩ := List.mem_iff_getElem?.mp hp
  rw [List.getElem?_take] at hi
  split at hi
  · next hlt =>
    rw [List.getElem?_drop, builtCodes, List.getElem?_map, List.getElem?_range (by omega), Option.map_some, Option.some.injEq] at hi
    rw [← hi, builtCode, if_pos (by omega)]
    exact decide_eq_true (Nat.min_le_right _ _)
  · cases hi

/-- The header of the image that is built, for its CRC and its smax. -/
def builtHeader (crc smax : Nat) : Nat := 0x474D4950 + 2 ^ 32 + 64 * 2 ^ 48 + crc * 2 ^ 64 + smax * 2 ^ 96
theorem buildImage_eq (smax phases : Nat) : buildImage smax phases = joinCodes (builtCodes phases) * 2 ^ 512 +
    builtHeader (imageCrc (joinCodes (builtCodes phases) * 2 ^ 512)) smax := by
  unfold buildImage builtHeader
  simp only [← Nat.add_assoc]
  rfl
theorem imageCrc_lt (img : Nat) : imageCrc img < 2 ^ 32 := BitVec.isLt _

theorem add_div_high (v : Nat) {m x : Nat} (h : x < m) : (v * m + x) / m = v := by
  rw [Nat.mul_comm, Nat.mul_add_div (by omega), Nat.div_eq_of_lt h, Nat.add_zero]
/-- A field below bit m of a number whose bits from m on are another. -/
theorem bits_add_high (v x : Nat) {m h l : Nat} (hm : h < m) (hl : l ≤ h) : bits (v * 2 ^ m + x) h l = bits x h l := by
  have hwidth : 2 ^ l * 2 ^ (h + 1 - l) = 2 ^ (h + 1) := by rw [← Nat.pow_add]; congr 1; omega
  have hsplit : 2 ^ m = 2 ^ (h + 1) * 2 ^ (m - (h + 1)) := by rw [← Nat.pow_add]; congr 1; omega
  unfold bits
  rw [← Nat.mod_mul_right_div_self, ← Nat.mod_mul_right_div_self, hwidth, hsplit, Nat.mul_left_comm, Nat.mul_add_mod]

/-- R197: a header with its fields in place, in front of phases with its CRC, makes a valid image. -/
theorem imageValid_of_header {body smax : Nat} (hsmax : normalPos smax = true)
    (hatt : (((codes16 8192 body).drop 4032).take 64).all (· ≤ 32768) = true) :
    imageValid (body * 2 ^ 512 + builtHeader (imageCrc (body * 2 ^ 512)) smax) = true := by
  have hcrc := imageCrc_lt (body * 2 ^ 512)
  have hcrcOf : ∀ img, img / 2 ^ 512 = body → imageCrc img = imageCrc (body * 2 ^ 512) := fun img h => by
    unfold imageCrc; rw [h, Nat.mul_div_cancel _ (by positivity)]
  generalize imageCrc (body * 2 ^ 512) = crc at hcrc hcrcOf
  have hpos : smax < 2 ^ 31 := by
    simp only [normalPos, Bool.and_eq_true, decide_eq_true_eq] at hsmax
    exact hsmax.1.1
  have hheader : builtHeader crc smax < 2 ^ 127 := by unfold builtHeader; omega
  have hmagic : bits (builtHeader crc smax) 31 0 = 0x474D4950 := by unfold bits builtHeader; omega
  have hversion : bits (builtHeader crc smax) 47 32 = 1 := by unfold bits builtHeader; omega
  have hsize : bits (builtHeader crc smax) 63 48 = 64 := by unfold bits builtHeader; omega
  have hzero : bits (builtHeader crc smax) 511 134 = 0 := by
    unfold bits
    rw [Nat.div_eq_of_lt (hheader.trans (by decide)), Nat.zero_mod]
  have hcrcField : bits (builtHeader crc smax) 95 64 = crc := by unfold bits builtHeader; omega
  have hsmaxField : bits (builtHeader crc smax) 127 96 = smax := by unfold bits builtHeader; omega
  have hbig : builtHeader crc smax < 2 ^ 512 := hheader.trans (pow_lt_pow_right₀ one_lt_two (by omega))
  have hphases := add_div_high body hbig
  have hfield := fun h l (hh : h < 512) (hl : l ≤ h) => bits_add_high body (builtHeader crc smax) hh hl
  have hsame := hcrcOf _ hphases
  generalize body * 2 ^ 512 + builtHeader crc smax = img at hfield hphases hsame
  unfold imageValid imageSmax imagePhases
  rw [hsame, hphases, hatt]
  simp [hfield, hmagic, hversion, hsize, hzero, hcrcField, hsmaxField, hsmax]

/-- R194, R197: the image built around any phases is valid, with an smax that is normal and positive. -/
theorem imageValid_buildImage {smax : Nat} (h : normalPos smax = true) (phases : Nat) : imageValid (buildImage smax phases) = true := by
  rw [buildImage_eq]
  exact imageValid_of_header h (by rw [codes16_builtCodes]; exact builtCodes_attenuators phases)

end Sys2Proof.Machine
end

section
/-! SUPPORT. DECOMPOSITION_COMPLETE: a block that is read, one that fails, and the words of an image (R201, R229). -/
namespace Sys2Proof.Machine

/-! ## Bytes made undefined, and put back (R229) -/

theorem scribble_writesIn {ws : List Nat} {a n : Nat} (h : ∀ w, w ∈ ws → a ≤ w ∧ w + 8 ≤ a + n) (s : State) : WritesIn a n s (s.scribble ws).2 := by
  refine List.foldlRecOn (motive := fun t : List (Nat × Nat × Nat) × State => WritesIn a n s t.2) ws _ (.of_mem rfl) fun t ht w hw => ?_
  dsimp only
  split
  · exact ht
  · refine ht.trans ⟨byteList w (Config.freeWord t.2.free).toNat 8, rfl, fun p hp => ?_⟩
    have hlo := byteList_addr w (Config.freeWord t.2.free).toNat 8 p hp
    have hin := h w hw
    omega
theorem scribble_clus (ws : List Nat) (s : State) : (s.scribble ws).2.clus = s.clus := by
  refine List.foldlRecOn (motive := fun t : List (Nat × Nat × Nat) × State => t.2.clus = s.clus) ws _ rfl fun t ht w _ => ?_
  dsimp only
  split <;> exact ht

/-- What was at a word is put back, unless something has stored there since. -/
def State.putBack (s : State) (x : Nat × Nat × Nat) : State := if s.rdN x.1 8 = x.2.1 then s.wrN x.1 8 x.2.2 else s
theorem unscribble_eq (s : State) (old : List (Nat × Nat × Nat)) : s.unscribble old = old.foldl State.putBack s := rfl
theorem putBack_form {s : State} (h : s.form) (x : Nat × Nat × Nat) : (s.putBack x).form := by
  unfold State.putBack
  split
  · exact form_wrN s x.1 8 x.2.2 h
  · exact h
theorem byte_putBack_out {s : State} (h : s.form) {x : Nat × Nat × Nat} {b : Nat} (hb : b < x.1 ∨ x.1 + 8 ≤ b) : (s.putBack x).byte b = s.byte b := by
  unfold State.putBack
  split
  · exact byte_wrN_out s x.1 8 x.2.2 b h hb
  · rfl
theorem rdN_putBack {s : State} (h : s.form) {x : Nat × Nat × Nat} (hx : s.rdN x.1 8 = x.2.1) : (s.putBack x).rdN x.1 8 = x.2.2 % 2 ^ 64 := by
  rw [State.putBack, if_pos hx, rdN_wrN s x.1 8 x.2.2 h]
  rfl
theorem rdN_putBack_out {s : State} (h : s.form) {x : Nat × Nat × Nat} {a : Nat} (ha : a + 8 ≤ x.1 ∨ x.1 + 8 ≤ a) :
    (s.putBack x).rdN a 8 = s.rdN a 8 := rdN_congr _ _ _ _ fun b _ _ => byte_putBack_out h (by omega)

/-- Of words put back no byte outside them is changed, and each that nothing has stored to since is what it was. -/
theorem unscribble_spec {old : List (Nat × Nat × Nat)} (hkeys : (old.map (·.1)).Nodup) (halign : ∀ o, o ∈ old → o.1 % 8 = 0) {s : State}
    (hform : s.form) : (∀ b, (∀ o, o ∈ old → b < o.1 ∨ o.1 + 8 ≤ b) → (s.unscribble old).byte b = s.byte b) ∧
      ∀ o, o ∈ old → s.rdN o.1 8 = o.2.1 → (s.unscribble old).rdN o.1 8 = o.2.2 % 2 ^ 64 := by
  induction old generalizing s with
  | nil => exact ⟨fun _ _ => rfl, fun o ho => absurd ho List.not_mem_nil⟩
  | cons x l ih =>
    rw [List.map_cons, List.nodup_cons] at hkeys
    obtain ⟨hnew, hrest⟩ := hkeys
    have hin : ∀ {o}, o ∈ l → o ∈ x :: l := List.mem_cons_of_mem x
    obtain ⟨hout, hput⟩ := ih hrest (fun o ho => halign o (hin ho)) (putBack_form hform x)
    have hapart : ∀ o, o ∈ l → o.1 + 8 ≤ x.1 ∨ x.1 + 8 ≤ o.1 := fun o ho => by
      have hne : o.1 ≠ x.1 := fun h => hnew (h ▸ List.mem_map_of_mem ho)
      have hx := halign x List.mem_cons_self
      have ho := halign o (hin ho)
      omega
    rw [unscribble_eq, List.foldl_cons, ← unscribble_eq]
    refine ⟨fun b hb => (hout b fun o ho => hb o (hin ho)).trans (byte_putBack_out hform (hb x List.mem_cons_self)), fun o ho h => ?_⟩
    rcases List.mem_cons.mp ho with rfl | ho
    · refine (rdN_congr _ _ _ _ fun b h1 h2 => hout b fun p hp => ?_).trans (rdN_putBack hform h)
      have hp := hapart p hp
      omega
    · exact hput o ho ((rdN_putBack_out hform (hapart o ho)).trans h)
theorem unscribble_clus (old : List (Nat × Nat × Nat)) (s : State) : (s.unscribble old).clus = s.clus :=
  foldl_view (v := State.clus) (fun t x => by split <;> rfl) old s

/-! ## The millwright's request (R229, R530) -/

theorem mill_mapMill {s : State} {cl : Nat} {x : Decomp} (h : (s.clu cl).mill = [x]) (f : Decomp → Decomp) :
    ((s.mapMill cl f).clu cl).mill = [f x] := by
  rw [State.mapMill, clu_mapClu, if_pos rfl, h]
theorem millNext_of_empty {s : State} {cl : Nat} (h : (s.clu cl).mill = []) : s.millNext cl = s := by
  unfold State.millNext
  rw [h]; rfl

/-- The one request of a millwright has ended: it leaves, and its token has its status. -/
def State.millEnd (s : State) (cl : Nat) (x : Decomp) (status : Nat) : State :=
  (s.mapClu cl fun c => { c with mill := c.mill.drop 1 }).complete cl 2 x.seq status .cluster x.who x.asid
theorem millEnd_spec {s : State} {cl : Nat} {x : Decomp} (h : (s.clu cl).mill = [x]) (status : Nat) :
    SameMem s (s.millEnd cl x status) ∧ ((s.millEnd cl x status).clu cl).mill = [] ∧
      ⟨2, x.seq, status, .cluster⟩ ∈ ((s.millEnd cl x status).clu cl).done := by
  refine ⟨(mapClu_sameMem s cl _).trans (complete_sameMem _ cl 2 x.seq status .cluster x.who x.asid), ?_,
    mem_done_complete _ cl 2 x.seq status .cluster x.who x.asid⟩
  refine (complete_clu_view (v := Cluster.mill) (fun _ _ _ => rfl) _ cl 2 x.seq status .cluster x.who x.asid cl).trans ?_
  rw [clu_mapClu, if_pos rfl, h]
  rfl

/-! ## DECOMPOSITION_COMPLETE: the block (R201, R229) -/

theorem runWords_within {a n v : Nat} {w : Nat × Nat} (h : w ∈ runWords [(a, n)] v) : a ≤ w.1 ∧ w.1 + 8 ≤ a + n := by
  simp only [runWords, List.append_nil, List.mem_map, List.mem_range] at h
  obtain ⟨k, hk, rfl⟩ := h
  dsimp only
  omega

/-- The integers of the block of a request, if it has neither a NaN nor an infinity. -/
def State.blockOf (s : State) (x : Decomp) : Option (List Int × Int) :=
  blockInts (if x.bf then fmtBF16 else fmtF32) (envOf x.fctx) (blockElems x.bf (s.readRuns x.block))
/-- The image of a request whose block has these integers. -/
def State.imageOf (s : State) (x : Decomp) (b : List Int × Int) : Nat :=
  buildImage (blockSmax (rowsOf64 64 b.1) b.2) (Config.decompose (blockElems x.bf (s.readRuns x.block)) x.fctx)
/-- The words of that image and of its report. -/
def State.formedWords (s : State) (x : Decomp) (b : List Int × Int) : List (Nat × Nat) :=
  runWords x.image (s.imageOf x b + residual (s.imageOf x b) (rowsOf64 64 b.1) b.2 * 2 ^ (8 * imageLen))
/-- What the millwright does with a block that it has read. -/
def State.blockRead (s : State) (cl : Nat) (x : Decomp) : Option (List Int × Int) → State
  | none => (((s.readHomes x.block).millFail cl x 7).raiseAsync x.who x.asid 0x3A (tokenOf 2 x.seq)).millNext cl
  | some b => (s.readHomes x.block).millOut cl (s.formedWords x b)

section Block
variable {s : State} {cl : Nat} {x : Decomp} (hmill : (s.clu cl).mill = [x]) (hout : x.out = [])
  (hreach : ∀ r, r ∈ x.block ++ x.image → s.engReach x.who x.asid r.1 = .ok) (hbad : ∀ r, r ∈ x.block → s.badIn r.1 r.2 = none)
include hmill hout hreach hbad

/-- A block that can be reached and is sound is read. -/
theorem exec_decomposition_block : exec (.decompositionComplete cl) s = .next (s.blockRead cl x (s.blockOf x)) := by
  have hsame := readHomes_sameMem s x.block
  have hfree : (x.block ++ x.image).find? (fun r => s.engReach x.who x.asid r.1 == .held) = none :=
    List.find?_eq_none.mpr fun r hr => by simp [hreach r hr]
  have hsound : (x.block.any fun r => ((s.readHomes x.block).badIn r.1 r.2).isSome) = false :=
    List.any_eq_false.mpr fun r hr => by rw [hsame.badIn, hbad r hr]; simp
  change execDecompositionComplete cl s = _
  unfold execDecompositionComplete
  rw [hmill]
  dsimp only
  rw [hout, hfree, if_neg (by simp)]
  dsimp only
  rw [hsame.readRuns, hsound, List.findSome?_eq_none_iff.mpr ?kept]
  case kept =>
    intro r hr
    have hne := engReach_ne_lost (hreach r hr) (readHomes_clu_view (v := Cluster.remap) (fun _ _ => rfl) s x.block)
    split
    · next e h => exact absurd h (hne e)
    · rfl
  rw [State.blockOf]
  generalize hb : blockInts _ _ _ = b
  cases b with
  | none => rfl
  | some b => rfl

/-- A block with a NaN or an infinity: what acceptance had made undefined is put back, and the command ends (R229). -/
theorem decomposition_fails (hform : s.form) (hb : s.blockOf x = none) (hkeys : (x.old.map (·.1)).Nodup) (halign : ∀ o, o ∈ x.old → o.1 % 8 = 0) :
    ∃ t, exec (.decompositionComplete cl) s = .next t ∧ (∀ b, (∀ o, o ∈ x.old → b < o.1 ∨ o.1 + 8 ≤ b) → t.byte b = s.byte b) ∧
      (∀ o, o ∈ x.old → s.rdN o.1 8 = o.2.1 → t.rdN o.1 8 = o.2.2 % 2 ^ 64) ∧ ⟨2, x.seq, 7, .cluster⟩ ∈ (t.clu cl).done ∧ (t.clu cl).mill = [] := by
  let r := s.readHomes x.block
  let u := r.unscribble x.old
  let t := (u.millEnd cl x 7).raiseAsync x.who x.asid 0x3A (tokenOf 2 x.seq)
  have hsame := readHomes_sameMem s x.block
  obtain ⟨hbyte, hput⟩ := unscribble_spec hkeys halign (hsame.form hform)
  have humill : (u.clu cl).mill = [x] := by rw [clu_of_clus (unscribble_clus x.old r), mill_readHomes]; exact hmill
  obtain ⟨hend, hnone, hdone⟩ := millEnd_spec humill 7
  have hclu : t.clu cl = (u.millEnd cl x 7).clu cl := clu_of_clus (raiseAsync_clus _ _ _ _ _) cl
  have hut : SameMem u t := hend.trans (GoesOn.raiseAsync _ _ _ _ _).mem
  have hexec : exec (.decompositionComplete cl) s = .next t := by
    rw [exec_decomposition_block hmill hout hreach hbad, hb]
    exact congrArg Host.Outcome.next (millNext_of_empty (s := t) (by rw [hclu]; exact hnone))
  refine ⟨t, hexec, fun b h => ?_, fun o ho h => ?_, by rw [hclu]; exact hdone, by rw [hclu]; exact hnone⟩
  · exact (hut.byte b).trans ((hbyte b h).trans (hsame.byte b))
  · exact (hut.rdN _ _).trans (hput o ho ((hsame.rdN _ _).trans h))

/-- A block of finite elements: its image is formed, and its bytes are undefined until they are written (R229). -/
theorem decomposition_forms (hform : s.form) {a n : Nat} (himage : x.image = [(a, n)]) {b : List Int × Int} (hb : s.blockOf x = some b) :
    ∃ t, exec (.decompositionComplete cl) s = .next t ∧ (∀ b, b < a ∨ a + n ≤ b → t.byte b = s.byte b) ∧
      (t.clu cl).mill = [{ x with out := s.formedWords x b }] ∧ Instr.decompositionComplete cl ∈ t.agenda := by
  let r := s.readHomes x.block
  let ws := s.formedWords x b
  let u := (r.scribble (ws.map (·.1))).2
  have hsame := readHomes_sameMem s x.block
  have hin : ∀ w, w ∈ ws.map (·.1) → a ≤ w ∧ w + 8 ≤ a + n := fun w hw => by
    obtain ⟨p, hp, rfl⟩ := List.mem_map.mp hw
    refine runWords_within (v := s.imageOf x b + residual (s.imageOf x b) (rowsOf64 64 b.1) b.2 * 2 ^ (8 * imageLen)) ?_
    rw [← himage]; exact hp
  have humill : (u.clu cl).mill = [x] := by rw [clu_of_clus (scribble_clus _ r), mill_readHomes]; exact hmill
  have hexec : exec (.decompositionComplete cl) s = .next (r.millOut cl ws) := by
    rw [exec_decomposition_block hmill hout hreach hbad, hb]; rfl
  refine ⟨_, hexec, fun y hy => ?_, mill_mapMill humill _, List.mem_append_right _ (List.mem_singleton.mpr rfl)⟩
  exact ((scribble_writesIn hin r).byte (hsame.form hform) hy).trans (hsame.byte y)
end Block

/-! ## DECOMPOSITION_COMPLETE: a word (R201, R229) -/

section Word
variable {s : State} {cl : Nat} {x : Decomp}

/-- The word that a step writes, by a free value. -/
def State.wordPick (s : State) (x : Decomp) : Nat := (s.freeNat (Nat.max 1 x.out.length)).1
/-- The state in which a word of a request is written. -/
def State.wordWritten (s : State) (x : Decomp) (w : Nat × Nat) : State :=
  (s.freeNat (Nat.max 1 x.out.length)).2.engWrite x.who .cluster w.1 8 w.2 false

theorem wordPick_lt (hout : x.out ≠ []) : s.wordPick x < x.out.length := by
  have hlen : 0 < x.out.length := List.length_pos_of_ne_nil hout
  have hmax : Nat.max 1 x.out.length = x.out.length := Nat.max_eq_right hlen
  unfold State.wordPick
  rw [hmax]
  exact Nat.mod_lt _ hlen
theorem wordWritten_spec (hform : s.form) {w : Nat × Nat} (hw : w.1 < 2 ^ 52) (cl : Nat) :
    (s.wordWritten x w).rdN w.1 8 = w.2 % 2 ^ 64 ∧ (∀ b, b < w.1 ∨ w.1 + 8 ≤ b → (s.wordWritten x w).byte b = s.byte b) ∧
      ((s.wordWritten x w).clu cl).mill = (s.clu cl).mill := by
  have hwrote : Wrote s (s.wordWritten x w) w.1 8 w.2 := (freeNat_sameMem s _).wrote (engWrite_home hw _ x.who .cluster 8 w.2)
  obtain ⟨hread, hkept, -⟩ := hwrote.effect hform
  exact ⟨hread, hkept, mill_engWrite hw _ x.who .cluster 8 w.2 cl⟩

/-- A word that can be reached is written; where it is the last one the command ends. -/
theorem exec_decomposition_word (hmill : (s.clu cl).mill = [x]) {w : Nat × Nat} (hpick : x.out[s.wordPick x]? = some w) (hw : w.1 < 2 ^ 52)
    (hreach : s.engReach x.who x.asid w.1 = .ok) : exec (.decompositionComplete cl) s = .next
      (if (x.out.eraseIdx (s.wordPick x)).isEmpty then ((s.wordWritten x w).millEnd cl x 0).millNext cl
       else ((s.wordWritten x w).mapMill cl fun y => { y with out := x.out.eraseIdx (s.wordPick x) }).post (.decompositionComplete cl)) := by
  have hlen := (List.getElem?_eq_some_iff.mp hpick).1
  have hsome : (!x.out.isEmpty) = true := by
    rw [Bool.not_eq_true', List.isEmpty_eq_false_iff]
    exact List.ne_nil_of_length_pos (by omega)
  have hrange : s.inRange w.1 = false := by
    unfold State.inRange
    rw [show isSpad w.1 = false from decide_eq_false (not_le.mpr hw), Bool.false_and]
  change execDecompositionComplete cl s = _
  unfold execDecompositionComplete
  rw [hmill]
  dsimp only
  rw [if_pos hsome]
  unfold State.millWrite
  dsimp only
  rw [show x.out[(s.freeNat (Nat.max 1 x.out.length)).1]? = some w from hpick]
  dsimp only
  rw [hreach, hrange, if_neg Bool.false_ne_true, ← apply_ite Host.Outcome.next]
  rfl

variable (hform : s.form) (hmill : (s.clu cl).mill = [x]) (hout : x.out ≠ [])
  (hreach : ∀ w, w ∈ x.out → w.1 < 2 ^ 52 ∧ s.engReach x.who x.asid w.1 = .ok)
include hform hmill hout hreach

/-- One of the words that are left is written; with the last one the command ends. -/
theorem decomposition_writes : ∃ t w, exec (.decompositionComplete cl) s = .next t ∧ w ∈ x.out ∧ t.rdN w.1 8 = w.2 % 2 ^ 64 ∧
    (∀ b, b < w.1 ∨ w.1 + 8 ≤ b → t.byte b = s.byte b) ∧
    (x.out.length = 1 → ⟨2, x.seq, 0, .cluster⟩ ∈ (t.clu cl).done ∧ (t.clu cl).mill = []) ∧
    (1 < x.out.length → ∃ l, (t.clu cl).mill = [{ x with out := l }] ∧ l.length + 1 = x.out.length ∧
      Instr.decompositionComplete cl ∈ t.agenda) := by
  have hi := wordPick_lt (s := s) hout
  have hpick := List.getElem?_eq_getElem hi
  have hmem := List.getElem_mem hi
  generalize x.out[s.wordPick x] = w at hpick hmem
  obtain ⟨hw, hok⟩ := hreach w hmem
  have hexec := exec_decomposition_word hmill hpick hw hok
  have hleft : (x.out.eraseIdx (s.wordPick x)).length + 1 = x.out.length := by rw [List.length_eraseIdx_of_lt hi]; omega
  obtain ⟨hread, hkept, hkeptMill⟩ := wordWritten_spec (x := x) hform hw cl
  have hu := hkeptMill.trans hmill
  generalize s.wordWritten x w = u at hexec hread hkept hu
  by_cases hone : x.out.length = 1
  · have hempty : x.out.eraseIdx (s.wordPick x) = [] := List.eq_nil_of_length_eq_zero (by omega)
    obtain ⟨hsame, hnone, hdone⟩ := millEnd_spec hu 0
    rw [hempty, List.isEmpty_nil, if_pos rfl, millNext_of_empty hnone] at hexec
    exact ⟨_, w, hexec, hmem, (hsame.rdN _ _).trans hread, fun b hb => (hsame.byte b).trans (hkept b hb), fun _ => ⟨hdone, hnone⟩,
      fun h => absurd hone (by omega)⟩
  · have hmore : ¬ (x.out.eraseIdx (s.wordPick x)).isEmpty = true := fun h => by
      rw [List.isEmpty_iff] at h
      rw [h] at hleft
      exact hone hleft.symm
    rw [if_neg hmore] at hexec
    exact ⟨_, w, hexec, hmem, hread, hkept, fun h => absurd h hone, fun _ =>
      ⟨_, mill_mapMill hu _, hleft, List.mem_append_right _ (List.mem_singleton.mpr rfl)⟩⟩
end Word

end Sys2Proof.Machine
end

section
/-! SUPPORT. The events of the governor (R67, R202, R203, R545, R546). -/
namespace Sys2Proof.Machine

variable {s : State} {cl : Nat}

/-! ## Calibration (R202, R545) -/

theorem calibrationStart_starts (hgov : (s.omu cl).gov = 0) (hidle : (s.omu cl).calibrating = false) (hfw : s.fwRuns = true)
    (hlight : s.light.getLsbD (lightSite (cl / 16)) = true) (hpresent : Config.omuPresent cl = true) (hmode : s.hostMode 1 = false) :
    ∃ t, exec (.calibrationStart cl) s = .next t ∧ (t.omu cl).calibrating = true ∧ (t.omu cl).gov = 0 ∧
      Instr.calibrationComplete cl ∈ t.agenda ∧ KeepsMemory s t := by
  let u := s.mapOmu cl fun o => { o with calibrating := true, calData := false }
  have hu : u.omu cl = _ := omu_mapOmu s cl _
  have hexec : exec (.calibrationStart cl) s = .next (u.post (.calibrationComplete cl)) := by
    change execCalibrationStart cl s = _
    unfold execCalibrationStart
    dsimp only
    rw [hgov, hidle, hfw, hlight, hpresent, if_pos (by rfl), show u.hostMode 1 = false from hmode]
    rfl
  refine ⟨_, hexec, ?_, ?_, List.mem_append_right _ (List.mem_singleton.mpr rfl), ((mapOmu_sameMem s cl _).trans (.post u _)).keeps⟩
  · exact congrArg Omu.calibrating hu
  · exact (congrArg Omu.gov hu).trans hgov

/-- An OMU whose calibration has completed at a cycle, with an ebcmax and a trim headroom. -/
def Omu.calibrated (o : Omu) (e trim now : Nat) : Omu :=
  { o with gov := 1, calibrating := false, ebcmax := e, trim := trim, changed := now, calEnd := now, pmin := 15, loopAt := now }
/-- The calibration of a cluster's OMU has completed. -/
def State.calibrated (s : State) (cl : Nat) : State :=
  let r := s.freeNat 16
  let t := r.2.freeNat 256
  ((t.2.mapOmu cl fun o => o.calibrated r.1 (Nat.max 1 t.1) s.cycle).post (.governorLock cl)).post (.temperatureLoop cl)
theorem omu_calibrated (s : State) (cl : Nat) : (s.calibrated cl).omu cl =
    (s.omu cl).calibrated (s.freeNat 16).1 (Nat.max 1 ((s.freeNat 16).2.freeNat 256).1) s.cycle :=
  omu_mapOmu ((s.freeNat 16).2.freeNat 256).2 cl fun o => o.calibrated (s.freeNat 16).1 (Nat.max 1 ((s.freeNat 16).2.freeNat 256).1) s.cycle
theorem calibrationComplete_tracks (hcal : (s.omu cl).calibrating = true) (hlight : s.light.getLsbD (lightSite (cl / 16)) = true)
    (hassists : s.mgmt.assists = []) : ∃ t, exec (.calibrationComplete cl) s = .next t ∧ (t.omu cl).gov = 1 ∧ (t.omu cl).ebcmax < 16 ∧
      (t.omu cl).calibrating = false ∧ Instr.governorLock cl ∈ t.agenda ∧ KeepsMemory s t := by
  have hexec : exec (.calibrationComplete cl) s = .next (if s.mgmt.calInterval = 0 then s.calibrated cl else (s.calibrated cl).post (.recalibrationStart cl)) := by
    change execCalibrationComplete cl s = _
    unfold execCalibrationComplete
    dsimp only
    rw [hcal, hlight, hassists]
    rfl
  have homu := omu_calibrated s cl
  have hlock : Instr.governorLock cl ∈ (s.calibrated cl).agenda :=
    List.mem_append_left _ (List.mem_append_right _ (List.mem_singleton.mpr rfl))
  have hsame : SameMem s (s.calibrated cl) :=
    (freeNat_sameMem s 16).trans ((freeNat_sameMem _ 256).trans ((mapOmu_sameMem _ cl _).trans ((SameMem.post _ _).trans (.post _ _))))
  generalize s.calibrated cl = u at hexec homu hlock hsame
  have hgov : (u.omu cl).gov = 1 := congrArg Omu.gov homu
  have hebc : (u.omu cl).ebcmax < 16 := (congrArg Omu.ebcmax homu).trans_lt (Nat.mod_lt _ (by decide))
  have hdone : (u.omu cl).calibrating = false := congrArg Omu.calibrating homu
  refine ⟨_, hexec, ?_⟩
  split
  · exact ⟨hgov, hebc, hdone, hlock, hsame.keeps⟩
  · exact ⟨hgov, hebc, hdone, List.mem_append_left _ hlock, (hsame.trans (.post _ _)).keeps⟩

/-! ## LOCKED (R67, R202) -/

theorem governorLock_waits (hgov : (s.omu cl).gov = 1) (hearly : s.cycle < (s.omu cl).changed + 2 ^ 20) :
    exec (.governorLock cl) s = .next (s.post (.governorLock cl)) := by
  change execGovernorLock cl s = _
  unfold execGovernorLock
  dsimp only
  rw [if_neg (not_not_intro hgov), if_pos hearly]
/-- An OMU that meets R67's rule is ready. -/
theorem omuUp_omuSetReady (hcl : cl < 512) (hup : s.clusterUp cl = true) (hpresent : Config.omuPresent cl = true)
    (hlocked : (s.omu cl).locked = true) : (s.omuSetReady cl).omuUp cl = true := by
  unfold State.omuSetReady State.omuUp omuBit
  rw [hup, hpresent, hlocked, if_pos (by rfl), ready_setReady _ _ _ _ _ _ (by dsimp only; omega) (Nat.mod_lt _ (by decide)), if_pos ⟨rfl, rfl⟩]
theorem governorLock_locks (hgov : (s.omu cl).gov = 1) (hlong : (s.omu cl).changed + 2 ^ 20 ≤ s.cycle) :
    ∃ t, exec (.governorLock cl) s = .next t ∧ (t.omu cl).gov = 2 ∧ (t.omu cl).ebcmax = (s.omu cl).ebcmax ∧
      (cl < 512 → s.clusterUp cl = true → Config.omuPresent cl = true → t.omuUp cl = true) ∧ KeepsMemory s t := by
  let u := s.mapOmu cl fun o => { o with gov := 2, locked := true }
  have hu : u.omu cl = _ := omu_mapOmu s cl _
  have hexec : exec (.governorLock cl) s = .next (u.omuSetReady cl) := by
    change execGovernorLock cl s = _
    unfold execGovernorLock
    dsimp only
    rw [if_neg (not_not_intro hgov), if_neg (not_lt.mpr hlong)]
  obtain ⟨r, q, l, m, hset⟩ := omuSetReady_module u cl
  have homu : (u.omuSetReady cl).omu cl = u.omu cl := by rw [hset]; rfl
  have hsame : SameMem u (u.omuSetReady cl) := by rw [hset]; exact ⟨rfl, rfl, rfl, rfl⟩
  refine ⟨_, hexec, ?_, ?_, fun hcl hup hpresent => ?_, ((mapOmu_sameMem s cl _).trans hsame).keeps⟩
  · rw [homu, hu]
  · rw [homu, hu]
  · exact omuUp_omuSetReady (s := u) hcl hup hpresent (congrArg Omu.locked hu)

/-! ## DRIFT (R202) -/

theorem omu_report (s : State) (cl : Nat) : s.report.omu cl = s.omu cl := by
  obtain ⟨m, p, f, x, l, h, d, e, hr⟩ := report_module s
  rw [hr]; rfl
theorem governorEnterDrift_drifts (hgov : (s.omu cl).gov = 1 ∨ (s.omu cl).gov = 2) : ∃ t, exec (.governorEnterDrift cl) s = .next t ∧
    (t.omu cl).gov = 3 ∧ (t.omu cl).trim = 0 ∧ (t.omu cl).live = (s.omu cl).live := by
  let u := s.mapOmu cl fun o => { o with gov := 3, trim := 0, drifting := s.cycle }
  have hexec : exec (.governorEnterDrift cl) s = .next (u.report.post (.recalibrationStart cl)) := by
    change execGovernorEnterDrift cl s = _
    exact if_pos hgov
  have homu : (u.report.post (.recalibrationStart cl)).omu cl = _ := (omu_report u cl).trans (omu_mapOmu s cl _)
  exact ⟨_, hexec, by rw [homu], by rw [homu], by rw [homu]⟩
theorem governorLeaveDrift_tracks (hgov : (s.omu cl).gov = 3) : ∃ t, exec (.governorLeaveDrift cl) s = .next t ∧ (t.omu cl).gov = 1 ∧
    16 < (t.omu cl).trim ∧ KeepsMemory s t := by
  let r := s.freeNat 239
  let u := r.2.mapOmu cl fun o => { o with gov := 1, trim := 17 + r.1, changed := s.cycle }
  have hexec : exec (.governorLeaveDrift cl) s = .next (u.post (.governorLock cl)) := by
    change execGovernorLeaveDrift cl s = _
    exact if_neg (not_not_intro hgov)
  have homu : u.omu cl = _ := omu_mapOmu r.2 cl _
  refine ⟨_, hexec, congrArg Omu.gov homu, ?_, ((freeNat_sameMem s 239).trans ((mapOmu_sameMem r.2 cl _).trans (.post u _))).keeps⟩
  have htrim : (u.omu cl).trim = 17 + r.1 := congrArg Omu.trim homu
  exact (show 16 < 17 + r.1 by omega).trans_eq htrim.symm

/-! ## A recalibration (R67, R199, R203, R545) -/

/-- An OMU whose governor has entered UNLOCKED: its loads and passes end (R203). -/
def Omu.unlocked (o : Omu) : Omu :=
  { o with gov := 0, ebcmax := 0, locked := false, live := none, shadow := none, loading := false, calibrating := false
           queue := (o.queue.filter fun x => !x.isLoad).map fun
             | .pass p => .pass p.abort
             | .phcrc w b d _ => .phcrc w b d none
             | x => x }
/-- The governor of an OMU with no command enters UNLOCKED. -/
theorem omuUnlock_idle (hqueue : (s.omu cl).queue = []) (hcl : cl < 512) :
    (s.omuUnlock cl).omu cl = (s.omu cl).unlocked ∧ (s.omuUnlock cl).omuUp cl = false ∧ SameMem s (s.omuUnlock cl) := by
  let r := s.setReady (omuBit cl).1 (omuBit cl).2 false
  let u : State := { r.mapOmu cl Omu.unlocked with agenda := r.agenda.filter (!omuEvent cl ·) }
  have hr : r.omu cl = s.omu cl := by
    obtain ⟨x, q, l, m, h⟩ := setReady_module s (omuBit cl).1 (omuBit cl).2 false
    change State.omu (State.setReady ..) cl = _
    rw [h]; rfl
  have hu : u.omu cl = (s.omu cl).unlocked := (omu_mapOmu r cl Omu.unlocked).trans (congrArg Omu.unlocked hr)
  have hempty : (u.omu cl).queue = [] := by rw [hu, Omu.unlocked, hqueue]; rfl
  have hcapture := capture_of_empty hempty
  have hunlock : s.omuUnlock cl = u.capture cl := by
    have hpasses : s.omuUnlock cl =
        State.omuGo (((u.parkedPasses cl).foldl (fun (s : State) _ => s.post (.passComplete cl)) u).capture cl) cl := by
      unfold State.omuUnlock
      dsimp only
      rw [show (State.omu (s.setReady (omuBit cl).1 (omuBit cl).2 false) cl).queue = [] from (congrArg Omu.queue hr).trans hqueue]
      rfl
    have hparked : u.parkedPasses cl = [] := by unfold State.parkedPasses; rw [hempty]; rfl
    rw [hpasses, hparked]
    exact omuGo_of_empty (by rw [List.foldl_nil, hcapture]; exact hempty)
  rw [hunlock]
  refine ⟨hcapture.trans hu, ?_, (setReady_sameMem s _ _ _).trans ⟨rfl, rfl, rfl, rfl⟩⟩
  change r.ready (10 + cl / 64) (cl % 64) = false
  exact (ready_setReady s _ _ _ _ false (by dsimp only [omuBit]; omega) (Nat.mod_lt _ (by decide))).trans (if_pos ⟨rfl, rfl⟩)
theorem recalibrationStart_unlocks (hgov : (s.omu cl).gov = 3) (hlong : (s.omu cl).drifting + 2 ^ 26 ≤ s.cycle) (hqueue : (s.omu cl).queue = [])
    (hcl : cl < 512) : ∃ t, exec (.recalibrationStart cl) s = .next t ∧ (t.omu cl).gov = 0 ∧ (t.omu cl).ebcmax = 0 ∧ (t.omu cl).live = none ∧
      (t.omu cl).shadow = none ∧ t.omuUp cl = false ∧ Instr.calibrationStart cl ∈ t.agenda ∧ KeepsMemory s t := by
  have hexec : exec (.recalibrationStart cl) s = .next ((s.omuUnlock cl).post (.calibrationStart cl)) := by
    have hdrift : ((s.omu cl).gov == 3 && decide ((s.omu cl).drifting + 2 ^ 26 ≤ s.cycle)) = true := by
      rw [hgov, decide_eq_true hlong]; rfl
    change execRecalibrationStart cl s = _
    exact if_pos (Bool.or_eq_true_iff.mpr (.inr hdrift))
  obtain ⟨homu, hup, hsame⟩ := omuUnlock_idle hqueue hcl
  generalize s.omuUnlock cl = u at hexec homu hup hsame
  exact ⟨_, hexec, congrArg Omu.gov homu, congrArg Omu.ebcmax homu, congrArg Omu.live homu, congrArg Omu.shadow homu, hup,
    List.mem_append_right _ (List.mem_singleton.mpr rfl), (hsame.trans (.post _ _)).keeps⟩

/-! ## TEMPERATURE_LOOP (R546) -/

theorem gov_setEbc (s : State) (cl e : Nat) : ((s.setEbc cl e).omu cl).gov =
    if (s.omu cl).gov = 2 ∧ e ≠ (s.omu cl).ebcmax then 1 else (s.omu cl).gov := by
  unfold State.setEbc
  dsimp only
  by_cases he : (s.omu cl).ebcmax = e
  · rw [if_pos he, if_neg fun h => h.2 he.symm]
  · have hgov : ((s.mapOmu cl fun o => { o with ebcmax := e, changed := s.cycle, gov := if o.gov = 2 then 1 else o.gov }).omu cl).gov =
        if (s.omu cl).gov = 2 then 1 else (s.omu cl).gov := by rw [omu_mapOmu]
    rw [if_neg he]
    by_cases h2 : (s.omu cl).gov = 2
    · rw [if_pos h2, if_pos ⟨h2, Ne.symm he⟩]; exact hgov.trans (if_pos h2)
    · rw [if_neg h2, if_neg fun h => h2 h.1]; exact hgov.trans (if_neg h2)
/-- A step of the temperature loop has been made at a cycle. -/
def Omu.looped (o : Omu) (now : Nat) (temp : BitVec 12) : Omu := { o with pmin := 15, loopAt := now, temp := temp }
theorem temperatureLoop_runs (hgov : (s.omu cl).gov ≠ 0) (hdue : (s.omu cl).loopAt + 2 ^ 16 ≤ s.cycle) :
    ∃ t, exec (.temperatureLoop cl) s = .next t ∧ (t.omu cl).ebcmax ≤ (s.omu cl).pmin ∧ (t.omu cl).ebcmax < 16 ∧ (t.omu cl).pmin = 15 ∧
      (t.omu cl).loopAt = s.cycle ∧ KeepsMemory s t ∧
      (t.omu cl).gov = (if (s.omu cl).gov = 2 ∧ (t.omu cl).ebcmax ≠ (s.omu cl).ebcmax then 1 else (s.omu cl).gov) := by
  let r := s.freeNat 16
  let f := r.2.freeNat 4096
  let e := Nat.min r.1 (s.omu cl).pmin
  let u := f.2.setEbc cl e
  let t := (u.mapOmu cl (·.looped s.cycle (BitVec.ofNat 12 f.1))).post (.temperatureLoop cl)
  have hexec : exec (.temperatureLoop cl) s = .next t := by
    change execTemperatureLoop cl s = _
    unfold execTemperatureLoop
    dsimp only
    rw [if_neg hgov, if_neg (not_lt.mpr hdue)]
    rfl
  have homu : t.omu cl = (u.omu cl).looped s.cycle (BitVec.ofNat 12 f.1) := omu_mapOmu u cl (·.looped s.cycle (BitVec.ofNat 12 f.1))
  obtain ⟨⟨hmem, -, -⟩, hebc⟩ := setEbc_spec f.2 cl e
  have hgovEbc : (u.omu cl).gov = if (s.omu cl).gov = 2 ∧ e ≠ (s.omu cl).ebcmax then 1 else (s.omu cl).gov := gov_setEbc f.2 cl e
  have hsame : SameMem s t := (freeNat_sameMem s 16).trans ((freeNat_sameMem r.2 4096).trans (hmem.trans ((mapOmu_sameMem u cl _).trans (.post _ _))))
  have hmax : (t.omu cl).ebcmax = e := (congrArg Omu.ebcmax homu).trans hebc
  have hlow : e < 16 := (Nat.min_le_left _ _).trans_lt (Nat.mod_lt _ (by decide))
  exact ⟨t, hexec, hmax.trans_le (Nat.min_le_right _ _), hmax.trans_lt hlow, congrArg Omu.pmin homu, congrArg Omu.loopAt homu, hsame.keeps,
    by rw [hmax]; exact (congrArg Omu.gov homu).trans hgovEbc⟩

end Sys2Proof.Machine
end

section
/-! CERTIFICATE. Phase images, decompositions and the governor: O42. -/
namespace Sys2Proof.Machine

/-- Settles O42: one lemma for each event of the banks, of the millwright and of the governor, and the validity of the image that is built
by its fields, one after another. -/
theorem phasesAndGovernor : Obligations.PhasesAndGovernor := by
  unfold Obligations.PhasesAndGovernor
  refine ⟨fun s cl => ⟨fun n w a rs hqueue hreach => ?_, fun c d hqueue => ⟨fun img hshadow => ?_, fun hshadow => ?_⟩⟩,
    fun smax phases h => imageValid_buildImage h phases, fun s cl a x hform hmill => ⟨fun hout himage hhome hreach hbad => ⟨fun ints e hb => ?_,
      fun hb hkeys halign => ?_⟩, fun hout hreach => ?_⟩, fun s cl => ?_⟩
  · obtain ⟨t, hexec, homu, hdone, hmem⟩ := phaseLoadEnd_ends hqueue hreach
    refine ⟨t, hexec, by rw [homu], by rw [homu], by rw [homu], hmem, fun hok => ?_, fun hok => ?_⟩
    · rw [homu]
      rw [loadOk_iff.mpr hok] at hdone ⊢
      exact ⟨rfl, hdone⟩
    · have hnot : s.loadOk rs = false := Bool.eq_false_iff.mpr fun h => hok (loadOk_iff.mp h)
      rw [homu]
      rw [hnot] at hdone ⊢
      exact ⟨rfl, hdone⟩
  · obtain ⟨t, hexec, homu, hx, hwhy, hpc, hmem⟩ := phaseSwap_full hqueue hshadow
    exact ⟨t, hexec, by rw [homu], by rw [homu], hx, hwhy, hpc, hmem⟩
  · obtain ⟨t, hexec, homu, hmem⟩ := phaseSwap_empty hqueue hshadow
    exact ⟨t, hexec, by rw [homu], by rw [homu]; exact hshadow, hmem⟩
  · obtain ⟨t, hexec, hbyte, hwords, hnext⟩ := decomposition_forms hmill hout hreach hbad hform himage (b := (ints, e)) hb
    rw [State.formedWords, State.imageOf, imageLen] at hwords
    exact ⟨t, hexec, hbyte, hwords, hnext⟩
  · exact decomposition_fails hmill hout hreach hbad hform hb hkeys halign
  · exact decomposition_writes hform hmill hout hreach
  · exact ⟨calibrationStart_starts, calibrationComplete_tracks, fun hgov => ⟨governorLock_waits hgov, governorLock_locks hgov⟩,
      governorEnterDrift_drifts, governorLeaveDrift_tracks, recalibrationStart_unlocks, temperatureLoop_runs⟩

end Sys2Proof.Machine
end

section
/-! CERTIFICATE. Optical forms, passes and governor events, refuted: O56. -/
namespace Sys2Proof.Machine

/-- A queue that goes on keeps a context in the rotation. -/
theorem why_omuNext {c : Nat} (cl n : Nat) {s : State} (h : (s.ctx c).why = none) : ((s.omuNext cl n).ctx c).why = none := by
  induction n generalizing s with
  | zero => exact h
  | succ n ih =>
    unfold State.omuNext
    split
    · exact h
    · exact h
    · exact h
    · exact h
    · next e _ d v _ _ =>
      refine ih ?_
      by_cases he : c = e
      · subst he; exact finishHead_ctx_why _ c
      · rw [State.finishHead, State.wake, ctx_mapCtx, if_neg he, ctx_mapCtx, if_neg he, ctx_mapCtx, if_neg he]; exact h
    · exact h
/-- A PHCRC that stands first with its result ends when its queue goes on, whatever stands behind it (R231). -/
theorem omuGo_phcrc_first {s : State} {cl c : Nat} {b : Bool} {d : XR} {v : Word} {l : List OptCmd}
    (hqueue : (s.omu cl).queue = .phcrc c b d (some v) :: l) : ((s.omuGo cl).ctx c).why = none := by
  have hfirst : firstOther (s.omu cl).queue false = some (.phcrc c b d (some v), false) := by rw [hqueue]; rfl
  rw [State.omuGo, State.omuNext, hfirst]
  exact why_omuNext cl _ (finishHead_ctx_why _ c)
/-- Taking a result makes no load of a command, and none of a load. -/
theorem any_isLoad_capture (o : Omu) (l : List OptCmd) : (o.capture l).any OptCmd.isLoad = l.any OptCmd.isLoad := by
  induction l with
  | nil => rfl
  | cons x l ih =>
    cases x with
    | load => rfl
    | swap => rfl
    | pass => exact congrArg (false || ·) ih
    | prbe => exact congrArg (false || ·) ih
    | phcrc => exact congrArg (false || ·) ih
/-- A command that enters a queue with nothing but a PHCRC without its result lets it end. -/
theorem enqueue_after_phcrc {s : State} {cl c : Nat} {b : Bool} {d : XR} {x : OptCmd} (hx : x.isLoad = false)
    (hqueue : (s.omu cl).queue = [.phcrc c b d none]) : ((s.enqueue cl x).ctx c).why = none := by
  let t := s.mapOmu cl fun o => { o with queue := o.queue ++ [x] }
  have ht : (t.omu cl).queue = [.phcrc c b d none, x] := by
    change (State.omu (State.mapOmu ..) cl).queue = _
    rw [omu_mapOmu, hqueue]; rfl
  have hcapture := queue_capture t cl
  have hnoLoad : ((t.capture cl).omu cl).queue.any OptCmd.isLoad = false := by
    rw [hcapture, any_isLoad_capture, ht, List.any_cons, List.any_cons, hx]; rfl
  have hbegin : (t.capture cl).loadBegin cl = t.capture cl := if_pos (by rw [hnoLoad]; simp)
  have hidle : (firstOther (s.omu cl).queue false).isNone = true := by rw [hqueue]; rfl
  have hgo : s.enqueue cl x = (t.capture cl).omuGo cl := by
    unfold State.enqueue
    dsimp only
    rw [hidle, hx]
    exact congrArg (State.omuGo · cl) hbegin
  rw [hgo]
  refine omuGo_phcrc_first (b := b) (d := d) (v := (t.omu cl).crcWord b) (l := (t.omu cl).capture [x]) ?_
  rw [hcapture, ht]
  rfl

/-- A PHSW that is accepted is put on the queue, its context held. -/
theorem acceptOptical_phsw {s : State} {c : Nat} {r : OptReq} (hform : r.form = .phsw)
    (hreached : (s.omu (clusterOf (coreOf c))).reached c s.cycle = true) (hfirst : behind (s.omu (clusterOf (coreOf c))).waiting c .phsw = false)
    (hswap : (s.omu (clusterOf (coreOf c))).swapping = false) (haway : s.omuAway (clusterOf (coreOf c)) = false) :
    acceptOptical c r s = .next ((s.holdHead c).enqueue (clusterOf (coreOf c)) (.swap c r.d)) := by
  simp [acceptOptical, hform, hreached, hfirst, hswap, haway]
/-- The PHSW that waits in `phcrcThenPrbe`, in place of its PRBE. -/
def phswReq : OptReq := { prbeReq with form := .phsw }
/-- The PHSW's own context does not stay out of the rotation: the PHCRC that it lets end brings it back. -/
theorem exec_phsw_after_phcrc {cl : Nat} (h : cl < 17) (hpresent : Config.omuPresent cl = true) {t : State}
    (ht : exec (.opticalAcceptance (1024 * cl) phswReq) (phcrcThenPrbe cl) = .next t) : (t.ctx (1024 * cl)).why = none := by
  have hcl : clusterOf (coreOf (1024 * cl)) = cl := by unfold clusterOf coreOf; omega
  let u := ((phcrcThenPrbe cl).holdHead (1024 * cl)).enqueue cl (.swap (1024 * cl) 0)
  have hwhy : (u.ctx (1024 * cl)).why = none := by
    refine enqueue_after_phcrc (b := false) (d := 0) rfl ?_
    unfold State.holdHead
    rw [omu_mapCtx, omu_leaveQueue_queue, phcrcThenPrbe_omu]; rfl
  have haccept : acceptOptical (1024 * cl) phswReq (phcrcThenPrbe cl) = .next u := by
    have haway : (phcrcThenPrbe cl).omuAway cl = false := by
      unfold State.omuAway
      rw [hpresent, phcrcThenPrbe_omuUp h, phcrcThenPrbe_omu]; rfl
    have hphsw := acceptOptical_phsw (s := phcrcThenPrbe cl) (c := 1024 * cl) (r := phswReq) rfl
    rw [hcl, phcrcThenPrbe_omu] at hphsw
    exact hphsw rfl rfl rfl haway
  have hexec : exec (.opticalAcceptance (1024 * cl) phswReq) (phcrcThenPrbe cl) =
      .next (u.mapCtx (1024 * cl) fun x => { x with walkFail := none }) := by
    change execOpticalAcceptance _ _ _ = _
    rw [execOpticalAcceptance, if_neg (not_not_intro (phcrcThenPrbe_why cl)), haccept]
    exact congrArg Host.Outcome.next (if_neg (by rw [hwhy]; simp))
  rw [hexec] at ht
  cases ht
  rw [ctx_mapCtx_same]
  exact hwhy

/-- Refutes O56: its clause on OPTICAL_ACCEPTANCE says that a PHSW holds its context out of the rotation, whatever but a swap the queue
holds. In `phcrcThenPrbe`, which that clause does not exclude, the queue of its OMU holds a PHCRC of the same context that has not taken its
result; the PHSW's arrival lets it end, and the context is back in the rotation. -/
theorem not_opticsComplete : ¬ Obligations.OpticsComplete := by
  unfold Obligations.OpticsComplete
  intro hall
  obtain ⟨cl, hlt, hpresent⟩ := exists_omuPresent
  have hdiv : 1024 * cl / 1024 = cl := Nat.mul_div_cancel_left cl (by omega)
  obtain ⟨-, haccepted, -⟩ := hall (phcrcThenPrbe cl) (phcrcThenPrbe_form cl) fun _ => rfl
  have hqueue := haccepted (1024 * cl) phswReq (phcrcThenPrbe_why cl)
  rw [hdiv, phcrcThenPrbe_omu] at hqueue
  obtain ⟨-, hheld⟩ := hqueue rfl rfl rfl hpresent (phcrcThenPrbe_omuUp hlt) (show (1 : Nat) ≠ 0 by decide)
  obtain ⟨t, hexec, hawait, -⟩ := hheld rfl
  rw [exec_phsw_after_phcrc hlt hpresent hexec] at hawait
  exact absurd hawait (by simp)

end Sys2Proof.Machine
end
